-- ==== Sys2Proof/Word.lean ====
section
/-! DEFINITION. Word types and their plainest arithmetic (00_scope.md R4, R7, R9). -/

namespace Sys2Proof

/-- A register word (R4). -/
abbrev W32 := BitVec 32

/-- A record, honey-store or frame word (R4). -/
abbrev W64 := BitVec 64

/-- The field `[hi:lo]` of a value taken as a number (R7). -/
abbrev fieldN (x hi lo : Nat) : Nat := (x >>> lo) % 2 ^ (hi + 1 - lo)

/-- The value of a number read as a two's complement of `w` bits (R7). -/
def signedN (w x : Nat) : Int := (BitVec.ofNat w x).toInt

end Sys2Proof
end

