-- ==== Sys2Proof/Syntax.lean ====
section
/-! DEFINITION. The commands of the block: one constructor for each row of the table of operations
and events (95_what_each_step_holds.md), with the operands the model gives it. -/

namespace Sys2Proof

/-- The two hives (00_scope.md R16). -/
inductive HiveId where
  | a | b
deriving DecidableEq, Repr

/-- How an access names a hive page: HIVE_A (code 8), HIVE_B (code 9) or the alias (code 0xC) (R16, R23). -/
inductive HiveRef where
  | hiveA | hiveB | active
deriving DecidableEq, Repr

/-- The access paths (15_control.md R476). -/
inductive Path where
  | lane (n : Fin 20)
  | mgmt
  | jtag
  | startup
  | worker (n : Fin 192)
deriving DecidableEq, Repr

/-- One discriminator crossing that reaches the interpolator pool: its threshold, its direction and
the distance `delta + 1` fu to the next tick boundary (03_cells.md R86, 04_interpolators.md R121). With `next` the edge
falls in the tick that follows the present one; it comes with the command where it competes with an edge of the present tick
(R89). -/
structure EdgeIn where
  th : Fin 4
  rising : Bool
  delta : Fin 1000
  next : Bool := false
deriving DecidableEq, Repr

/-- Where a calibration edge goes: a cell's pool, or the one link interpolator of a lane in a hive (04_interpolators.md R129,
10_time_transfer.md R331). -/
inductive EdgeSite where
  | cell (c : Fin 1152)
  | link (h : HiveId) (lane : Fin 20)
deriving DecidableEq, Repr

/-- A table builder: one of each block, and one of the link interpolators of each hive (R132, 10_time_transfer.md R331). -/
inductive Builder where
  | block (b : Fin 72)
  | hive (h : HiveId)
deriving DecidableEq, Repr

/-- A reference candidate whose signal is tested for a loss. CAND_2 is judged on CLK10M as well as on PPS_IN, and `clk10m`
says whether CLK10M is lost (02_timebase.md R40). -/
structure RefLoss where
  cand : Fin 4
  clk10m : Bool
deriving DecidableEq, Repr

/-- What a judging gate brings from outside the slots: the drift of the spine clock over the gate, and the frequency and phase
of CLK10M for CAND_2, none where it gave no result (02_timebase.md R63). -/
structure GateResult where
  drift : Int
  ext : Option (Int × Int)
deriving DecidableEq, Repr

/-- A read of words that carry parity, with the bits that upsets have changed in them (05_blocks_regions.md R166). -/
structure CombReads where
  comb : Fin 6
  upsets : List W64
deriving DecidableEq, Repr

/-- The counts that the link interpolators of one lane give for one edge, one of each hive (10_time_transfer.md R331). -/
structure LinkCounts where
  hiveA : Nat
  hiveB : Nat
deriving DecidableEq, Repr

/-- The protected FIFOs (05_blocks_regions.md R162). -/
inductive FifoId where
  | cell (c : Fin 1152)
  | handshake (blk : Fin 72)
  | store (blk : Fin 72)
  | mergerIn (blk : Fin 72)
  | replay (comb : Fin 6) (h : HiveId)
  | regionHandshake (comb : Fin 6)
deriving DecidableEq, Repr

/-- A link packet as its bits arrive: 56-bit header, payload words, trailer word (09_lanes.md R298, R299). -/
structure RawPacket where
  header : BitVec 56
  payload : List W64
  trailer : W64
deriving DecidableEq, Repr

/-- A block of a lane's line: its sync header, the first bit on the line in bit 0, and its 64 bits as the line carries them, bit 0 first
(09_lanes.md R292, R293). -/
structure LineBlock where
  hdr : BitVec 2
  word : W64
deriving DecidableEq, Repr

/-- The ways a hum beat arrives: the direct wire, the relay through COMB_0, the relay through COMB_3
(14_redundancy_faults.md R442). -/
inductive HumPath where
  | direct | relay0 | relay3
deriving DecidableEq, Repr

/-- The rails with a brown-out threshold of the chip (16_power_reset.md R495). -/
inductive Rail where
  | vio | vcore | vana
deriving DecidableEq, Repr

/-- What ends Deep sleep (16_power_reset.md R504). -/
inductive WakeSrc where
  | wakePin
  | lane (n : Fin 20)
  | mgt
deriving DecidableEq, Repr

/-- The commands, in the table's order. -/
inductive Instr where
  /-- TICK (R46). At each spine tick boundary the time core advances the time word by 1,000 fu. -/
  | tick
  /-- FRAME_BOUNDARY (R49). A frame boundary is reached, the frame counter advances and the current slot passes to the new frame. -/
  | frameBoundary (delays : List Nat)
  /-- SECOND_BOUNDARY (R72). At each SEC increment PPS_OUT rises (moved by TIM_OUT_DLY) and the holdover second count advances. -/
  | secondBoundary
  /-- PPS_OUT_FALL (R72). PPS_OUT falls after it has been high for PPS_WIDTH µs. -/
  | ppsOutFall
  /-- TIM_NOW_SNAPSHOT (R47). A read of TIM_NOW_0 snapshots all 96 bits of the time word into the path's holding register. -/
  | timNowSnapshot (p : Path) (r : HiveRef)
  /-- REFERENCE_LOSS (R64). Loss of an enabled reference candidate is detected, the candidate becomes ABSENT, and holdover is entered if it was selected. -/
  | referenceLoss (loss : RefLoss)
  /-- SIGNAL_PRESENT (R64). The signal of an ABSENT candidate appears, and the candidate enters QUALIFYING with count 0. -/
  | signalPresent (c : Fin 4)
  /-- CANDIDATE_DISABLE (R68). Clearing a candidate's EN makes it DISABLED at once. -/
  | candidateDisable (p : Path) (c : Fin 4)
  /-- GATE_END (R63). At each 1 s judging gate end the candidates get their results, move state in index order, and selection is evaluated. -/
  | gateEnd (result : GateResult)
  /-- TIM_STEP_GO (R71). A GO latches the step settings and arms the step, replacing any armed step, or refuses it EXPIRED or BUSY. -/
  | timStepGo (p : Path) (r : HiveRef) (v : W32)
  /-- PPS_IN_EDGE (R342). A PPS_IN rising edge is stamped and used by mode-1 steps, CAND_2 judging and the regression unit. -/
  | ppsInEdge (delta : Fin 1000)
  /-- STEP_PPS_TIMEOUT (R69). A mode-1 step whose PPS_IN has been absent for 1.5 s after GO is refused EXPIRED. -/
  | stepPpsTimeout
  /-- DISCRIMINATOR_EDGE (R89). A leading or trailing threshold crossing takes the lowest free interpolator or is stamped coarse. -/
  | discriminatorEdge (cell : Fin 1152) (edges : List EdgeIn)
  /-- RANDOM_EDGE_OFFER (R129). A random calibration edge is offered to the interpolator the cell's calibration pointer names, if all four are free. -/
  | randomEdgeOffer (site : EdgeSite)
  /-- CONVERSION_COMPLETE (R122). An interpolator's rings coincide, the bin index is converted through the table in force and the interpolator frees. -/
  | conversionComplete (site : EdgeSite) (itp : Fin 4) (count : Nat)
  /-- PULSE_TIMEOUT (R97). A pulse still open 256 ns after its leading edge is closed with TOT_OVF and TOT 16,383. -/
  | pulseTimeout (cell : Fin 1152) (th : Fin 4)
  /-- BLANKING_END (R87). The 200 ns discriminator blanking after a front-end reconfiguration ends. -/
  | blankingEnd (cell : Fin 1152)
  /-- EOF_MARKER (R102). A cell emits its end-of-frame marker once every pulse of the frame has produced its record. -/
  | eofMarker (cell : Fin 1152)
  /-- INJ_RUN (R110). Setting INJ_CTL.RUN starts the injector sequencer at START_SEG, at once or at the next frame boundary. -/
  | injRun (p : Path) (blk : Fin 72) (v : W32)
  /-- INJ_STOP (R110). Clearing INJ_CTL.RUN stops the sequencer at once and discards pending and bound jump requests. -/
  | injStop (p : Path) (blk : Fin 72) (v : W32)
  /-- INJ_SAMPLE (R108). At each sample start the injector injects charge into the masked cells and binds a pending jump at a segment's last sample. -/
  | injSample (blk : Fin 72)
  /-- SEGMENT_END (R109). A segment ends and the sequencer runs the bound jump target, the NEXT segment, or stops at END with DONE. -/
  | segmentEnd (blk : Fin 72)
  /-- INJ_JUMP (R109). A jump request written to INJ_JUMP becomes pending, replaces an older one, or raises JUMP_IGNORED when idle. -/
  | injJump (p : Path) (blk : Fin 72) (v : W32)
  /-- BIAS_TARGET_WRITE (R113). A new bias target retargets the output from its present value, or completes at once when equal. -/
  | biasTargetWrite (p : Path) (blk : Fin 72) (v : W32)
  /-- BIAS_STEP (R112). The bias output moves one code toward its target at the slew rate and raises DONE on reaching the latest target. -/
  | biasStep (blk : Fin 72)
  /-- BIAS_OVERLOAD (R115). A load above the current limit sets OVERLOAD and sends an event to the region guard. -/
  | biasOverload (blk : Fin 72)
  /-- TABLE_BUILD_START (R132). The block's builder starts a table from the oldest completed histogram once its result buffer is empty. -/
  | tableBuildStart (site : Builder)
  /-- TABLE_BUILD_DONE (R131). The table builder completes a new table and its drift check. -/
  | tableBuildDone (site : Builder)
  /-- TDC_LOAD_GO (R134). A GO schedules the load buffer's table to swap into the named interpolator at a frame boundary. -/
  | tdcLoadGo (p : Path) (blk : Fin 72) (v : W32)
  /-- HIST_EXP_CHANGE (R130). A write of HIST_EXP clears every filling histogram of the block and restarts filling at the new size. -/
  | histExpChange (p : Path) (blk : Fin 72) (v : W32)
  /-- CAL_EN_CHANGE (R135). Clearing CAL_CTL.EN stops random-edge offers in the block, and setting it resumes filling. -/
  | calEnChange (p : Path) (blk : Fin 72) (v : W32)
  /-- CAL_RG_ARM (R141). ARM arms a regression slot, or refuses it EXPIRED for a frame already begun. -/
  | calRgArm (p : Path) (r : HiveRef)
  /-- CAL_RG_STOP (R141). STOP closes an open gate with results or returns an ARMED slot to IDLE. -/
  | calRgStop (p : Path) (r : HiveRef)
  /-- GATE_OPEN (R141). A regression gate opens at ARM, at its named frame or at a GATE_n edge. -/
  | gateOpen (slot : Fin 16)
  /-- GATE_CLOSE (R141). A regression gate closes at its length, frame or edge, and a REPEAT gate opens the next. -/
  | gateClose (slot : Fin 16)
  /-- GATE_N_EDGE (R141). An edge on a GATE_n input is stamped at full resolution for EXT gates. -/
  | gateNEdge (n : Fin 4) (rising : Bool) (delta : Fin 1000)
  /-- REGRESSION_STAMP (R143). A stamp is extended to a full count and accumulated into the slot's sums, or rejected as RANGE or FULL. -/
  | regressionStamp (slot : Fin 16)
  /-- REGRESSION_RESULT (R144). Within 10 µs of the close the slot computes FREQ, PHASE and RMS, and writes them with SEQ and DONE. -/
  | regressionResult (slot : Fin 16)
  /-- CAL_RG_STATUS_SNAPSHOT (R145). A read of CAL_RG_STATUS snapshots the selected slot's complete result set for the path. -/
  | calRgStatusSnapshot (p : Path) (r : HiveRef)
  /-- BLOCK_WRITE (R153). The block reads a record from a cell FIFO, corrects it and writes it to its store, overwriting the oldest when full. -/
  | blockWrite (cell : Fin 1152) (upset : W64)
  /-- FLOOR_EMIT (R167). A block gives the merger a floor every 128 ticks while it passes no record. -/
  | floorEmit (blk : Fin 72)
  /-- MERGER_RELEASE (R168). Once all 12 inputs present a head, the merger releases the earliest item and sends floor markers. -/
  | mergerRelease (reads : CombReads)
  /-- BLOCK_CLOSE (R158). A block closes a frame once its markers are applied, its output time has passed and its records are gone, and hands on the close group. -/
  | blockClose (blk : Fin 72)
  /-- REGION_CLOSE (R171). After all 12 close groups the merger sends the region close word. -/
  | regionClose (comb : Fin 6)
  /-- DRAIN_DEADLINE (R179). At the drain deadline, stages that have not closed the frame are cut. -/
  | drainDeadline
  /-- FIFO_POINTER_MISMATCH (R163). A duplicated-pointer mismatch resets that protected FIFO alone and marks frames BLOCK_LOST. -/
  | fifoPointerMismatch (f : FifoId)
  /-- BRIDGE_FLIT_SEND (R173). A comb sends a flit while it holds a credit of its class from the hive with the higher claim. -/
  | bridgeFlitSend (comb : Fin 6)
  /-- BRIDGE_FLIT_RECEIVE (R174). A hive checks a flit's CRC and accepts it, or requests a replay. -/
  | bridgeFlitReceive (comb : Fin 6) (h : HiveId) (upset : BitVec 80)
  /-- BRIDGE_REPLAY (R174). The comb resends from its replay buffer, and 16 consecutive failures take the bundle DOWN. -/
  | bridgeReplay (reads : CombReads) (h : HiveId)
  /-- CREDIT_BATCH_RETURN (R173). A hive returns bridge credits in batches of 16 as its receive buffer empties. -/
  | creditBatchReturn (comb : Fin 6) (h : HiveId) (ctl : Bool)
  /-- BUNDLE_RETRAIN (R174). REG_CTL.RETRAIN_A or RETRAIN_B requests a bundle retrain at the next frame boundary. -/
  | bundleRetrain (p : Path) (comb : Fin 6) (v : W32)
  /-- BUNDLE_TRAINED (R174). A bridge bundle completes training and becomes UP. -/
  | bundleTrained (comb : Fin 6) (h : HiveId)
  /-- BLK_ISOLATE (R183). BLK_CTL.ISOLATE isolates the block at once and discards its records. -/
  | blkIsolate (p : Path) (blk : Fin 72)
  /-- BLK_REJOIN (R183). BLK_CTL.REJOIN requests the end of isolation at the next frame boundary. -/
  | blkRejoin (p : Path) (blk : Fin 72)
  /-- TRIGGER_TICK (R190). At each trigger tick the hive evaluates lines, decides swarm candidates, advances H, frees entries and sends decisions. -/
  | triggerTick
  /-- PRIMITIVE_WORD (R193). Each comb forms and sends its region primitive word for a trigger tick. -/
  | primitiveWord (comb : Fin 6) (parityOk : Bool)
  /-- EXT_TRIG_EDGE (R203). An external trigger edge is stamped, or ignored within the 42 ns dead time. -/
  | extTrigEdge (n : Fin 2) (rising : Bool) (delta : Fin 1000)
  /-- TRG_HOST_GO (R204). A host trigger is checked and taken or refused, with the outcome in TRG_HOST_STATUS. -/
  | trgHostGo (p : Path) (r : HiveRef) (v : W32)
  /-- SWARM_RECEIVE (R208). A received swarm message is deduplicated, forwarded and checked, then admitted or ignored. -/
  | swarmReceive (lane : Fin 20)
  /-- SWARM_HOLD_EXPIRY (R208). An admitted message is dropped once local time passes its corrected time plus W plus the deadline. -/
  | swarmHoldExpiry
  /-- SORT_RELEASE (R226). The six-way merge releases the lowest record in strict order once every region input allows it. -/
  | sortRelease
  /-- HIVE_CLOSE (R178). The active hive closes a frame once it holds all six region close words. -/
  | hiveClose
  /-- HEAD_COMMIT (R229). The HEAD unit is committed once H has passed the frame end. -/
  | headCommit
  /-- JOB_START (R241). An engine takes the queued or resumable job with the lowest frame and INDEX. -/
  | jobStart
  /-- JOB_RESUMABLE (R242). A paused job becomes resumable when its queue can grant its next 64 words. -/
  | jobResumable (j : Fin 48)
  /-- JOB_COMPLETE (R229). A compression job completes and commits its compressed block or CB-128 source frame. -/
  | jobComplete (j : Fin 48)
  /-- TRAILER_COMMIT (R245). The TRAIL unit is committed after every other unit of the frame. -/
  | trailerCommit
  /-- Q_RESV (R264). A host reservation opens or extends a packet, or is refused BUSY, FULL, TOOBIG or DISABLED. -/
  | qResv (p : Path) (r : HiveRef) (v : W32)
  /-- Q_WDATA_HI (R265). A write of Q_WDATA_HI writes the whole word into the open packet. -/
  | qWdataHi (p : Path) (r : HiveRef) (v : W32)
  /-- Q_COMMIT (R265). Q_COMMIT bit 0 writes the packet word and makes the packet visible to the consumer. -/
  | qCommit (p : Path) (r : HiveRef)
  /-- Q_ABORT (R266). Q_COMMIT bit 1 aborts the open packet and rewinds RESV to TAIL. -/
  | qAbort (p : Path) (r : HiveRef)
  /-- Q_POP_LO (R271). A read of Q_POP_LO pops the word at HEAD and snapshots it. -/
  | qPopLo (p : Path) (r : HiveRef)
  /-- Q_RELEASE (R271). A write of Q_RELEASE advances HEAD, or is ignored with OVER. -/
  | qRelease (p : Path) (r : HiveRef) (v : W32)
  /-- Q_CTL_RESET (R269). A host queue reset clears the pointers and contents and aborts the open packet. -/
  | qCtlReset (p : Path) (r : HiveRef)
  /-- Q_CFG_WRITE (R270). A write of Q_CFG sets the queue's base, size and enables, with enable refused as CFG_ERR. -/
  | qCfgWrite (p : Path) (r : HiveRef) (v : W32)
  /-- OPEN_PACKET_TIMEOUT (R267). An open packet idle for 2^Q_OPEN_TMO ticks is aborted and TIMEOUT is raised. -/
  | openPacketTimeout (h : HiveId) (q : Fin 65536)
  /-- UNIT_PLACE (R280). A unit is placed whole on the least-loaded eligible lane once its receiver's credit allows. -/
  | unitPlace (rcv : Fin 64)
  /-- UNIT_REPLACE (R282). The units of a lane that left placement are re-placed within 1 µs in their original order. -/
  | unitReplace (rcv : Fin 64)
  /-- DUMP_PLACE (R283). A dump packet is sent, credit ignored, on the lowest lane in service that reaches PLC_DUMP_RCV. -/
  | dumpPlace
  /-- PLC_SWITCH_ARM (R277). ARM arms a bank and epoch switch for a named frame, or refuses it EXPIRED. -/
  | plcSwitchArm (p : Path) (r : HiveRef)
  /-- PLC_SWITCH_DISARM (R277). DISARM withdraws an armed switch and releases the bank. -/
  | plcSwitchDisarm (p : Path) (r : HiveRef)
  /-- JOB_PLACE (R285). The head job of an intake is placed on the eligible worker with the fewest jobs. -/
  | jobPlace (intake : Fin 7)
  /-- BLOCK_LOCK_GAIN (R294). A receiver gains block lock after 64 consecutive valid sync headers. -/
  | blockLockGain (lane : Fin 20)
  /-- BLOCK_LOCK_LOSS (R294). A receiver loses block lock at 16 invalid headers in 64, and the link goes DOWN. -/
  | blockLockLoss (lane : Fin 20)
  /-- PACKET_TRANSMIT (R302). A lane sends its next packet with a SEQ and keeps it in the retry buffer until it is acknowledged. -/
  | packetTransmit (lane : Fin 20)
  /-- PACKET_RECEIVE (R303). A received packet is checked for CRC and SEQ, then accepted, discarded or NAKed, and its ACK and NAK are used. -/
  | packetReceive (lane : Fin 20) (blocks : List LineBlock)
  /-- RETRY_TIMEOUT (R304). After LNK_RETRY_TMO without progress the transmitter resends, or the link goes DOWN at RETRY_EXHAUST. -/
  | retryTimeout (lane : Fin 20)
  /-- NAK_REPEAT (R304). A receiver repeats its NAK after each retry timeout without E advancing. -/
  | nakRepeat (lane : Fin 20)
  /-- LNK_RETRAIN (R306). LNK_CTL.RETRAIN starts training afresh from DOWN, TRAINING or UP. -/
  | lnkRetrain (p : Path) (lane : Fin 20)
  /-- LNK_DOWN (R306). LNK_CTL.DOWN takes the link DOWN. -/
  | lnkDown (p : Path) (lane : Fin 20)
  /-- LNK_ERR_CLR (R321). LNK_CTL.ERR_CLR clears LNK_ERR_CNT. -/
  | lnkErrClr (p : Path) (lane : Fin 20)
  /-- CTRL_READ (R312). A CTRL_REQ with OP READ is checked, recorded and executed in order, and its response is queued. -/
  | ctrlRead (lane : Fin 20)
  /-- CTRL_WRITE (R312). A CTRL_REQ with OP WRITE is checked, recorded and executed in order, and its response is queued. -/
  | ctrlWrite (lane : Fin 20)
  /-- CTRL_DBG_READ (R312). A CTRL_REQ with OP DBG_READ executes reads under the side-effect-free attribute. -/
  | ctrlDbgRead (lane : Fin 20)
  /-- RESPONSE_TAKE (R313). The lane transmitter takes a response from a control-response queue, frees its tag and stores it in the replay window. -/
  | responseTake (lane : Fin 20) (h : HiveId)
  /-- CREDIT_RECEIVE (R309). A CREDIT packet's words add positive TOTAL differences to receiver credit, or are ignored. -/
  | creditReceive (lane : Fin 20)
  /-- LANE_SLEEP_REQUEST (R322). A write of LNK_PWR asks a lane direction to sleep or wake. -/
  | laneSleepRequest (p : Path) (lane : Fin 20) (v : W32)
  /-- LANE_TX_IDLE (R322). A transmit direction asked to sleep falls to electrical idle after its unit is acknowledged or the timeout passes. -/
  | laneTxIdle (lane : Fin 20)
  /-- SIGNAL_DETECT (R323). A signal detected at a sleeping receiver with RX_AUTO wakes it. -/
  | signalDetect (lane : Fin 20)
  /-- LANE_WAKE_DONE (R323). A woken lane direction is ready, and with both awake the lane enters TRAINING. -/
  | laneWakeDone (lane : Fin 20) (tx : Bool)
  /-- LNK_PRBS_CFG_WRITE (R319). Enabling or disabling the PRBS generator or checker moves the lane into or out of PRBS. -/
  | lnkPrbsCfgWrite (p : Path) (lane : Fin 20) (v : W32)
  /-- PRBS_INJ_GO (R320). LNK_PRBS_INJ.GO arms a SINGLE, BURST or RATE error injection. -/
  | prbsInjGo (p : Path) (lane : Fin 20) (v : W32)
  /-- PRBS_INJ_STOP (R320). LNK_PRBS_INJ.STOP ends a RATE injection. -/
  | prbsInjStop (p : Path) (lane : Fin 20)
  /-- PRBS_CHECKER_LOCK (R319). The PRBS checker locks after 64 error-free bits and raises PRBS_LOCK. -/
  | prbsCheckerLock (lane : Fin 20)
  /-- TIMING_BLOCK_SEND (R328). Every 2^20 fu each awake timing transmitter inserts a timing block and records its transmit stamp. -/
  | timingBlockSend (lane : Fin 20) (offset : Nat)
  /-- TIMING_BLOCK_RECEIVE (R332). A received timing block is checked, stamped into the history and judged valid or invalid. -/
  | timingBlockReceive (lane : Fin 20) (block : LineBlock) (counts : LinkCounts) (pos : Fin 25)
  /-- REPORT_SEND (R333). Every 2^24 fu a REPORT with the partner's receive stamps is sent on each timing lane in UP. -/
  | reportSend (lane : Fin 20)
  /-- REPORT_RECEIVE (R336). A received REPORT forms two-way samples and is checked for a change of the partner's root. -/
  | reportReceive (lane : Fin 20)
  /-- SERVO_PERIOD_END (R340). At each 2^30 fu period end the PI servo updates the frequency word or refuses with STEP_REFUSED. -/
  | servoPeriodEnd
  /-- CLK10M_STAMP (R342). Every 16th CLK10M rising edge is stamped to form servo samples for CAND_2. -/
  | clk10mStamp (delta : Fin 1000)
  /-- SERVO_EN_WRITE (R341). Setting SERVO_EN loads the integral from the frequency word, and clearing it freezes the word. -/
  | servoEnWrite (p : Path) (r : HiveRef) (v : W32)
  /-- WAG_TS_SEND (R349). A GO sends a MARK on the named lane and pushes its transmit stamp, or raises TS_REFUSED. -/
  | wagTsSend (p : Path) (r : HiveRef) (v : W32)
  /-- MARK_RECEIVE (R349). A MARK accepted in order is stamped and pushed into the lane's return queue with RX set. -/
  | markReceive (lane : Fin 20) (blocks : Int)
  /-- FP_STAGED_UPDATE (R364). CHIP_FP_STAGED is recomputed within 20 µs of a write to a fingerprint input, and VALID is set. -/
  | fpStagedUpdate
  /-- ADD (R385). A worker adds two registers. -/
  | add (wk : Fin 192) (d : Fin 16) (a : Fin 16) (b : Fin 16)
  /-- SUB (R385). A worker subtracts two registers. -/
  | sub (wk : Fin 192) (d : Fin 16) (a : Fin 16) (b : Fin 16)
  /-- AND (R385). A worker ANDs two registers. -/
  | and (wk : Fin 192) (d : Fin 16) (a : Fin 16) (b : Fin 16)
  /-- OR (R385). A worker ORs two registers. -/
  | or (wk : Fin 192) (d : Fin 16) (a : Fin 16) (b : Fin 16)
  /-- XOR (R385). A worker XORs two registers. -/
  | xor (wk : Fin 192) (d : Fin 16) (a : Fin 16) (b : Fin 16)
  /-- SHL (R385). A worker shifts a register left. -/
  | shl (wk : Fin 192) (d : Fin 16) (a : Fin 16) (b : Fin 16)
  /-- SHR (R385). A worker shifts a register right logically. -/
  | shr (wk : Fin 192) (d : Fin 16) (a : Fin 16) (b : Fin 16)
  /-- SRA (R385). A worker shifts a register right arithmetically. -/
  | sra (wk : Fin 192) (d : Fin 16) (a : Fin 16) (b : Fin 16)
  /-- SLT (R385). A worker compares two registers signed. -/
  | slt (wk : Fin 192) (d : Fin 16) (a : Fin 16) (b : Fin 16)
  /-- SLTU (R385). A worker compares two registers unsigned. -/
  | sltu (wk : Fin 192) (d : Fin 16) (a : Fin 16) (b : Fin 16)
  /-- MUL (R385). A worker multiplies signed into a register pair. -/
  | mul (wk : Fin 192) (d : Fin 16) (a : Fin 16) (b : Fin 16)
  /-- MULU (R385). A worker multiplies unsigned into a register pair. -/
  | mulu (wk : Fin 192) (d : Fin 16) (a : Fin 16) (b : Fin 16)
  /-- ADDI (R385). A worker adds an immediate. -/
  | addi (wk : Fin 192) (d : Fin 16) (a : Fin 16) (imm : BitVec 18)
  /-- ANDI (R385). A worker ANDs an immediate. -/
  | andi (wk : Fin 192) (d : Fin 16) (a : Fin 16) (imm : BitVec 18)
  /-- ORI (R385). A worker ORs an immediate. -/
  | ori (wk : Fin 192) (d : Fin 16) (a : Fin 16) (imm : BitVec 18)
  /-- XORI (R385). A worker XORs an immediate. -/
  | xori (wk : Fin 192) (d : Fin 16) (a : Fin 16) (imm : BitVec 18)
  /-- SLTI (R385). A worker compares with an immediate. -/
  | slti (wk : Fin 192) (d : Fin 16) (a : Fin 16) (imm : BitVec 18)
  /-- LUI (R385). A worker loads an upper immediate. -/
  | lui (wk : Fin 192) (d : Fin 16) (imm : BitVec 18)
  /-- SHLI (R385). A worker shifts left by an immediate. -/
  | shli (wk : Fin 192) (d : Fin 16) (a : Fin 16) (sh : Fin 32)
  /-- SHRI (R385). A worker shifts right logically by an immediate. -/
  | shri (wk : Fin 192) (d : Fin 16) (a : Fin 16) (sh : Fin 32)
  /-- SRAI (R385). A worker shifts right arithmetically by an immediate. -/
  | srai (wk : Fin 192) (d : Fin 16) (a : Fin 16) (sh : Fin 32)
  /-- LDB (R385). A worker loads a byte, zero-extended. -/
  | ldb (wk : Fin 192) (d : Fin 16) (a : Fin 16) (imm : BitVec 18)
  /-- LDW (R385). A worker loads a 32-bit word. -/
  | ldw (wk : Fin 192) (d : Fin 16) (a : Fin 16) (imm : BitVec 18)
  /-- LDD (R385). A worker loads a 64-bit word into a register pair. -/
  | ldd (wk : Fin 192) (d : Fin 16) (a : Fin 16) (imm : BitVec 18)
  /-- STB (R385). A worker stores a byte. -/
  | stb (wk : Fin 192) (d : Fin 16) (a : Fin 16) (imm : BitVec 18)
  /-- STW (R385). A worker stores a 32-bit word. -/
  | stw (wk : Fin 192) (d : Fin 16) (a : Fin 16) (imm : BitVec 18)
  /-- STD (R385). A worker stores a register pair. -/
  | std (wk : Fin 192) (d : Fin 16) (a : Fin 16) (imm : BitVec 18)
  /-- RGR (R386). A worker reads a device register. -/
  | rgr (wk : Fin 192) (d : Fin 16) (a : Fin 16)
  /-- RGW (R386). A worker writes a device register. -/
  | rgw (wk : Fin 192) (a : Fin 16) (b : Fin 16)
  /-- RGD (R386). A worker reads a device register under the side-effect-free attribute. -/
  | rgd (wk : Fin 192) (d : Fin 16) (a : Fin 16)
  /-- BEQ (R385). A worker branches if equal. -/
  | beq (wk : Fin 192) (a : Fin 16) (b : Fin 16) (off : BitVec 18)
  /-- BNE (R385). A worker branches if not equal. -/
  | bne (wk : Fin 192) (a : Fin 16) (b : Fin 16) (off : BitVec 18)
  /-- BLT (R385). A worker branches if less, signed. -/
  | blt (wk : Fin 192) (a : Fin 16) (b : Fin 16) (off : BitVec 18)
  /-- BGE (R385). A worker branches if greater or equal, signed. -/
  | bge (wk : Fin 192) (a : Fin 16) (b : Fin 16) (off : BitVec 18)
  /-- BLTU (R385). A worker branches if less, unsigned. -/
  | bltu (wk : Fin 192) (a : Fin 16) (b : Fin 16) (off : BitVec 18)
  /-- BGEU (R385). A worker branches if greater or equal, unsigned. -/
  | bgeu (wk : Fin 192) (a : Fin 16) (b : Fin 16) (off : BitVec 18)
  /-- JMP (R385). A worker jumps relative. -/
  | jmp (wk : Fin 192) (imm : BitVec 26)
  /-- JAL (R385). A worker jumps and links in w15. -/
  | jal (wk : Fin 192) (imm : BitVec 26)
  /-- JR (R385). A worker jumps to a register. -/
  | jr (wk : Fin 192) (a : Fin 16)
  /-- SIN (R388). A worker opens its input stream port. -/
  | sin (wk : Fin 192) (a : Fin 16) (b : Fin 16)
  /-- SOUT (R388). A worker opens its output stream port. -/
  | sout (wk : Fin 192) (a : Fin 16) (b : Fin 16)
  /-- GET (R388). A worker takes the next input record, or waits for it. -/
  | get (wk : Fin 192) (d : Fin 16) (a : Fin 16)
  /-- PUT (R388). A worker appends a record at its output port, or waits for room. -/
  | put (wk : Fin 192) (d : Fin 16) (a : Fin 16)
  /-- QRES (R390). A worker reserves words in a queue. -/
  | qres (wk : Fin 192) (d : Fin 16) (a : Fin 16) (b : Fin 16)
  /-- QPUSH (R390). A worker writes a word to its open packet. -/
  | qpush (wk : Fin 192) (d : Fin 16) (a : Fin 16)
  /-- QCOMMIT (R390). A worker commits its open packet. -/
  | qcommit (wk : Fin 192) (d : Fin 16)
  /-- QABORT (R390). A worker aborts its open packet. -/
  | qabort (wk : Fin 192) (d : Fin 16)
  /-- QPOP (R390). A worker pops a word from its mailbox or a user queue. -/
  | qpop (wk : Fin 192) (d : Fin 16) (a : Fin 16) (b : Fin 16)
  /-- JPOP (R391). A worker takes the next job and jumps to its kernel, or waits while its mailbox is empty. -/
  | jpop (wk : Fin 192)
  /-- JEND (R391). A worker ends its active job and returns to w15. -/
  | jend (wk : Fin 192)
  /-- LACQ (R395). A worker acquires a lease, waiting while it is held. -/
  | lacq (wk : Fin 192) (d : Fin 16) (a : Fin 16) (n : Fin 32)
  /-- LTRY (R395). A worker tries to acquire a lease without waiting. -/
  | ltry (wk : Fin 192) (d : Fin 16) (a : Fin 16) (n : Fin 32)
  /-- LREL (R395). A worker releases a lease. -/
  | lrel (wk : Fin 192) (d : Fin 16) (a : Fin 16)
  /-- WAIT (R394). A worker waits for any event of its mask. -/
  | wait (wk : Fin 192) (d : Fin 16) (mask : BitVec 5)
  /-- BRK (R385). A worker halts for debug, or faults BREAK when DBG_EN is clear. -/
  | brk (wk : Fin 192)
  /-- HALT (R385). A worker enters STOPPED. -/
  | halt (wk : Fin 192)
  /-- WAIT_CONDITION_MET (R380). The condition a waiting instruction waits for comes to hold, and the worker resumes RUNNING. -/
  | waitConditionMet (wk : Fin 192)
  /-- WRK_TIMER_EXPIRY (R393). The worker timer counts down to 0 and the TIMER event holds. -/
  | wrkTimerExpiry (wk : Fin 192)
  /-- WRK_DOORBELL (R394). A write of WRK_DOORBELL makes the DOORBELL event hold. -/
  | wrkDoorbell (p : Path) (wk : Fin 192)
  /-- WRK_RUN (R380). WRK_CTL.RUN starts a STOPPED worker at address 0. -/
  | wrkRun (p : Path) (wk : Fin 192)
  /-- WRK_STOP (R406). WRK_CTL.STOP stops the worker as a reset does, keeping its memories. -/
  | wrkStop (p : Path) (wk : Fin 192)
  /-- WRK_RESET (R406). WRK_CTL.RESET resets the worker, revokes its leases and reloads the resident firmware. -/
  | wrkReset (p : Path) (wk : Fin 192)
  /-- WRK_CTL_HALT (R402). WRK_CTL.HALT requests a debug halt. -/
  | wrkCtlHalt (p : Path) (wk : Fin 192)
  /-- HALT_TAKES_EFFECT (R402). A requested debug halt takes effect at the next instruction boundary and freezes timers and leases. -/
  | haltTakesEffect (wk : Fin 192)
  /-- WRK_RESUME (R402). WRK_CTL.RESUME resumes a HALTED worker and reissues withdrawn waits. -/
  | wrkResume (p : Path) (wk : Fin 192)
  /-- WRK_CTL_STEP (R402). WRK_CTL.STEP executes one instruction of a HALTED worker. -/
  | wrkCtlStep (p : Path) (wk : Fin 192)
  /-- WRK_DBG_EN (R406). WRK_CTL.DBG_EN lets BRK halt instead of fault. -/
  | wrkDbgEn (p : Path) (wk : Fin 192)
  /-- WRK_FLUSH (R401). WRK_CACHE_CTL.FLUSH writes back and invalidates the worker's cache. -/
  | wrkFlush (p : Path) (wk : Fin 192)
  /-- FLUSH_DONE (R401). A cache flush completes, the worker continues and FLUSHED is set. -/
  | flushDone (wk : Fin 192)
  /-- WRK_MEM_DATA_WRITE (R404). A write to worker memory is accepted, or ignored with MEM_LOCKED. -/
  | wrkMemDataWrite (p : Path) (wk : Fin 192) (v : W32)
  /-- WRK_KTAB_WRITE (R392). A write of a user kernel-table entry changes the kernels placement may send. -/
  | wrkKtabWrite (p : Path) (wk : Fin 192) (v : W32)
  /-- HONEY_ACCESS_TIMEOUT (R383). A comb worker's honey-store access not answered within 4,096 ticks faults UNREACHABLE. -/
  | honeyAccessTimeout (wk : Fin 192)
  /-- LEASE_GRANT (R396). A free lease is granted to the next waiter by request tick and rotating priority. -/
  | leaseGrant (g : Fin 8) (lease : Fin 64)
  /-- LEASE_EXPIRY (R397). A lease whose duration ends is revoked and freed. -/
  | leaseExpiry (g : Fin 8) (lease : Fin 64)
  /-- LSE_ACQUIRE (R407). LSE_CTL.ACQUIRE acquires a lease for the host without waiting. -/
  | lseAcquire (p : Path) (g : Fin 8) (v : W32)
  /-- LSE_RELEASE (R407). LSE_CTL.RELEASE releases a host lease. -/
  | lseRelease (p : Path) (g : Fin 8)
  /-- LSE_FORCE (R398). LSE_FORCE through the debug port frees a lease at once and grants it to the next waiter. -/
  | lseForce (p : Path) (g : Fin 8) (v : W32)
  /-- CORRECTED_WRITEBACK (R414). A corrected honey-store word is written back in the cycle that follows the read. -/
  | correctedWriteback (h : HiveId)
  /-- FORAGER_READ (R416). The forager reads its next word at the even spacing of its pass. -/
  | foragerRead (h : HiveId)
  /-- FORAGE_LATE (R417). A pass not complete after HSM_FORAGE_PASS seconds is counted late. -/
  | forageLate (h : HiveId)
  /-- BUCKET_LEAK (R415). Every 2^HSM_LEAK ticks each bank's error bucket loses 1. -/
  | bucketLeak (h : HiveId)
  /-- MERGE_BUFFER_FLUSH (R419). A merge-buffer entry idle for 64 ticks is flushed as a full write. -/
  | mergeBufferFlush (h : HiveId)
  /-- HSM_RETIRE_GO (R421). HSM_RETIRE with GO retires a page, or reports ALREADY or REFUSED. -/
  | hsmRetireGo (p : Path) (r : HiveRef) (v : W32)
  /-- HSM_RETIRE_CLEAR (R421). HSM_RETIRE with CLEAR returns a page to use with every word INVALID. -/
  | hsmRetireClear (p : Path) (r : HiveRef) (v : W32)
  /-- HSM_LOG_POP_LO (R420). A read of HSM_LOG_POP_LO pops the oldest error-log entry and snapshots it. -/
  | hsmLogPopLo (p : Path) (r : HiveRef)
  /-- HSM_WIN_RDATA_LO (R433). A read of the window reads the honey-store word and snapshots it. -/
  | hsmWinRdataLo (p : Path) (r : HiveRef)
  /-- HSM_WIN_WDATA_HI (R433). A write of the window's high half writes the whole word as a full write. -/
  | hsmWinWdataHi (p : Path) (r : HiveRef) (v : W32)
  /-- FORAGE_EN_WRITE (R417). Clearing FORAGE_EN stops the forager, and setting it resumes the pass. -/
  | forageEnWrite (p : Path) (r : HiveRef) (v : W32)
  /-- NVS_WRITE (R428). The NVS WRITE command starts a journalled record write. -/
  | nvsWrite (p : Path) (r : HiveRef) (v : W32)
  /-- NVS_READ (R432). The NVS READ command copies the winning record's payload to the honey store. -/
  | nvsRead (p : Path) (r : HiveRef) (v : W32)
  /-- NVS_DELETE (R432). The NVS DELETE command writes a deletion record. -/
  | nvsDelete (p : Path) (r : HiveRef) (v : W32)
  /-- NVS_COMMAND_DONE (R432). An NVS command ends with its result, and DONE or ERROR is raised. -/
  | nvsCommandDone (h : HiveId)
  /-- NVS_RAW_LO (R435). A read of NVS_RAW_LO reads the MRAM word and snapshots it. -/
  | nvsRawLo (p : Path) (r : HiveRef)
  /-- BROWNOUT_WARNING (R429). A brown-out warning lets the running MRAM word write complete, and no further write starts. -/
  | brownoutWarning
  /-- HUM_BEAT_SEND (R442). Every 2^20 fu each hive sends a beat on the direct and relay paths. -/
  | humBeatSend (h : HiveId)
  /-- HUM_BEAT_RECEIVE (R442). A received beat is checked and taken as valid or counted bad. -/
  | humBeatReceive (h : HiveId) (via : HumPath) (payload : W64) (crc : BitVec 8)
  /-- BEAT_MISSED (R444). A beat not received 64 ticks after its due instant is missed, and paths turn silent after 8. -/
  | beatMissed (h : HiveId) (direct : Bool)
  /-- TAKEOVER (R448). At the frame boundary after the decision the output stages obey the new active hive. -/
  | takeover
  /-- CLAIM_RECORD_COMMIT (R441). The CLAIM record is committed to MRAM and NV_PENDING clears. -/
  | claimRecordCommit (h : HiveId)
  /-- CLM_CLAIM_WRITE (R441). A write of CLM_CLAIM is accepted and journalled, or ignored with WRITE_REFUSED. -/
  | clmClaimWrite (p : Path) (r : HiveRef) (v : W32)
  /-- CLM_YIELD (R447). CLM_CTL.YIELD makes the active hive set YIELD in its beats. -/
  | clmYield (p : Path) (r : HiveRef)
  /-- CLM_TAKE (R447). CLM_CTL.TAKE asks the standby to take over, or is refused. -/
  | clmTake (p : Path) (r : HiveRef)
  /-- CLM_DISARM (R445). CLM_CTL.DISARM clears ARMED. -/
  | clmDisarm (p : Path) (r : HiveRef)
  /-- CLM_ARM (R445). CLM_CTL.ARM sets ARMED on a READY standby. -/
  | clmArm (p : Path) (r : HiveRef)
  /-- ERROR_EVENT (R451). An error pair passes to (1,0), and the guard counts one event. -/
  | errorEvent (g : Fin 8) (src : Fin 32)
  /-- BROKEN_WIRE (R451). A pair held at (0,0) or (1,1) for 4 ticks is a WIRE event. -/
  | brokenWire (g : Fin 8) (src : Fin 32)
  /-- SEVERITY_WINDOW_EXPIRY (R455). A source's counting window expires and its count returns to 0. -/
  | severityWindowExpiry (g : Fin 8) (src : Fin 32)
  /-- GRACE_EXPIRY (R457). The grace timer expires, the handling record climbs one step and acts, or closes at its ceiling. -/
  | graceExpiry
  /-- GRD_ACK (R459). A write of GRD_ACK with the open record's SEQ closes the record. -/
  | grdAck (p : Path) (g : Fin 8) (v : W32)
  /-- GRD_FATAL (R463). GRD_CTL.FATAL declares the device fatal and starts the dump. -/
  | grdFatal (p : Path) (g : Fin 8)
  /-- GRD_LOG_POP (R470). A read of GRD_LOG_POP pops the oldest guard log entry and snapshots it. -/
  | grdLogPop (p : Path) (g : Fin 8)
  /-- DUMP_END_ACKED (R463). Once the dump's END section is acknowledged, every lane transmitter falls to idle. -/
  | dumpEndAcked
  /-- DUMP_TIMEOUT (R463). 1 s after the fatal declaration the dump is abandoned and the lanes stop. -/
  | dumpTimeout
  /-- GRD_PERTURB_KEY (R466). A write of the key advances, completes or breaks the perturbation unlock sequence. -/
  | grdPerturbKey (p : Path) (g : Fin 8) (v : W32)
  /-- REGISTER_WRITE (R10). A write to a register without its own row stores, stages, clears or is ignored according to its access code. -/
  | registerWrite (p : Path) (addr : W32) (v : W32)
  /-- RC_READ (R10). A read of an RC register returns its value and then clears it. -/
  | rcRead (p : Path) (addr : W32)
  /-- LO_READ_SNAPSHOT (R477). A read of a 64-bit LO half snapshots the whole value for the path. -/
  | loReadSnapshot (p : Path) (addr : W32)
  /-- HI_WRITE (R477). A write of a HI half with a matching held LO writes both halves in one step. -/
  | hiWrite (p : Path) (addr : W32) (v : W32)
  /-- PAGE_DISCARD (R478). A page's CTL.DISCARD returns its pending staged values to those in force. -/
  | pageDiscard (p : Path) (addr : W32)
  /-- CHIP_COMMIT_ARM (R479). CHIP_COMMIT_CTL.ARM arms a commit for the named frame, or refuses it EXPIRED. -/
  | chipCommitArm (p : Path)
  /-- CHIP_COMMIT_DISARM (R479). CHIP_COMMIT_CTL.DISARM returns an armed commit to IDLE. -/
  | chipCommitDisarm (p : Path)
  /-- CHIP_COMMIT_DISCARD (R478). CHIP_COMMIT_CTL.DISCARD discards the whole staged set. -/
  | chipCommitDiscard (p : Path)
  /-- MGT_NOP (R484). A management-port NOP frame returns the report and executes nothing. -/
  | mgtNop
  /-- MGT_READ (R483). A management-port READ frame executes a register read, or is refused while an access is pending. -/
  | mgtRead (addr : W32)
  /-- MGT_WRITE (R483). A management-port WRITE frame executes a register write, or is refused while an access is pending. -/
  | mgtWrite (addr : W32) (v : W32)
  /-- MGT_DBG_READ (R483). A management-port DBG_READ frame executes a side-effect-free read. -/
  | mgtDbgRead (addr : W32)
  /-- ACCESS_COMPLETE (R503). An access stalled while its domain woke completes once the domain reaches Run. -/
  | accessComplete (p : Path)
  /-- I2C_POINTER_WRITE (R487). An I2C write transfer sets the word pointer. -/
  | i2cPointerWrite (ptr : BitVec 8)
  /-- I2C_ESTOP_WRITE (R488). An I2C write of the key 0x0000_E55E to pointer 0xF0 causes an emergency stop. -/
  | i2cEstopWrite (key : W32)
  /-- I2C_READ (R487). An I2C read transfer returns the snapshotted word at the pointer and advances the pointer. -/
  | i2cRead (bytes : Nat)
  /-- I2C_STUCK (R489). A line held low for 35 ms makes the target release the bus and reset. -/
  | i2cStuck
  /-- ESTOP (R488). CHIP_ESTOP_CTL.STOP zeroes every bias target, stops the injectors and latches the stop. -/
  | estop (p : Path)
  /-- ESTOP_CLEAR (R488). CHIP_ESTOP_CTL.CLEAR ends the emergency-stop latch. -/
  | estopClear (p : Path)
  /-- FAULT_LINE_EXTERNAL (R490). FAULT_N held low by another driver for 16 ticks sets EXTERNAL. -/
  | faultLineExternal
  /-- FAULT_LINE_RELEASED (R490). FAULT_N high for 16 ticks clears EXTERNAL. -/
  | faultLineReleased
  /-- JTAG_BYPASS (R491). The JTAG BYPASS instruction selects the 1-bit bypass register. -/
  | jtagBypass
  /-- JTAG_IDCODE (R491). The JTAG IDCODE instruction returns the 32-bit identity. -/
  | jtagIdcode
  /-- JTAG_SAMPLE_PRELOAD (R491). The JTAG SAMPLE/PRELOAD instruction samples the boundary register. -/
  | jtagSamplePreload (pins : List Bool)
  /-- JTAG_EXTEST (R492). The JTAG EXTEST instruction drives the outputs from the boundary register. -/
  | jtagExtest (drive : List Bool)
  /-- JTAG_EXTEST_PULSE (R492). The IEEE 1149.6 EXTEST_PULSE instruction tests the lane pins. -/
  | jtagExtestPulse (drive : List Bool)
  /-- JTAG_EXTEST_TRAIN (R492). The IEEE 1149.6 EXTEST_TRAIN instruction tests the lane pins. -/
  | jtagExtestTrain (drive : List Bool)
  /-- REG_ACCESS_READ (R491). A JTAG REG_ACCESS READ executes a register read at Update-DR. -/
  | regAccessRead (addr : W32)
  /-- REG_ACCESS_WRITE (R491). A JTAG REG_ACCESS WRITE executes a register write at Update-DR. -/
  | regAccessWrite (addr : W32) (v : W32)
  /-- REG_ACCESS_DBG_READ (R491). A JTAG REG_ACCESS DBG_READ executes a side-effect-free read. -/
  | regAccessDbgRead (addr : W32)
  /-- WRK_DEBUG_HALT (R491). The JTAG WRK_DEBUG command HALT requests a debug halt of a worker. -/
  | wrkDebugHalt (wk : Fin 192)
  /-- WRK_DEBUG_RESUME (R491). The JTAG WRK_DEBUG command RESUME resumes a worker. -/
  | wrkDebugResume (wk : Fin 192)
  /-- WRK_DEBUG_STEP (R491). The JTAG WRK_DEBUG command STEP executes one instruction of a worker. -/
  | wrkDebugStep (wk : Fin 192)
  /-- POWER_ON_RESET (R516). VSTBY rising through its threshold resets the whole device. -/
  | powerOnReset
  /-- CHIP_BROWNOUT (R516). VIO, VCORE or VANA falling below its threshold resets everything except VSTBY. -/
  | chipBrownout (rail : Rail)
  /-- RAIL_WARNING (R496). A rail falling through its warning level raises the brown-out warning. -/
  | railWarning (rail : Rail)
  /-- VLANE_LOW (R495). VLANE below its threshold resets the PHY island and takes every lane DOWN. -/
  | vlaneLow
  /-- VBIAS_LOW (R495). VBIAS below its threshold raises VBIAS_LOW, and the bias outputs limit. -/
  | vbiasLow
  /-- RESET_N (R516). RESET_N held low for at least 1 µs resets the chip. -/
  | resetN
  /-- STARTUP (R522). After a chip-level reset, start-up scans MRAM, applies calibration and BOOT, and sets DONE. -/
  | startup (delays : List Nat)
  /-- RST_SOFT (R517). RST_CTL with SOFT and the key schedules a soft reset 10 µs later. -/
  | rstSoft (p : Path) (v : W32)
  /-- SOFT_RESET_ACT (R517). A soft or remote reset takes effect 10 µs after it was decoded. -/
  | softResetAct
  /-- RST_REMOTE (R518). A lane write of the key to RST_REMOTE schedules a remote link reset. -/
  | rstRemote (lane : Fin 20) (v : W32)
  /-- RST_REGION_GO (R519). RST_REGION with GO resets a comb or the standby hive. -/
  | rstRegionGo (p : Path) (v : W32)
  /-- REGION_RESET (R520). A region is reset, its configuration is restored from the shadow, and its bundles retrain. -/
  | regionReset (d : Fin 8)
  /-- REGION_REJOIN (R520). A reset comb rejoins at the first frame boundary after both bundles are UP. -/
  | regionRejoin (comb : Fin 6)
  /-- DOMAIN_BROWNOUT (R512). A domain brown-out resets the region and sends a POWER event to its guard. -/
  | domainBrownout (d : Fin 8)
  /-- LP_OVERLOAD (R511). A load above the low-power limit in Sleep is a domain brown-out. -/
  | lpOverload (d : Fin 8)
  /-- PWR_VOTE (R501). A write of PWR_VOTE sets the caller's RUN and IDLE votes on a domain. -/
  | pwrVote (p : Path) (v : W32)
  /-- DOMAIN_ENTRY (R506). Withdrawal of the last vote starts a domain's entry into a lower state, with abort points. -/
  | domainEntry (d : Fin 8)
  /-- ENTRY_ABORT (R507). A wake at an abort point reverses the completed entry steps. -/
  | entryAbort (d : Fin 8)
  /-- DOMAIN_WAKE (R502). A set vote wakes a domain, which reaches Run within the bound. -/
  | domainWake (d : Fin 8)
  /-- ACCESS_LINGER_EXPIRY (R501). The ACCESS vote is withdrawn PWR_LINGER after the last access. -/
  | accessLingerExpiry (d : Fin 8)
  /-- ENTER_DEEP (R510). PWR_CTL.ENTER_DEEP moves the chip to Deep sleep, or is refused. -/
  | enterDeep (p : Path)
  /-- ENTER_OFF (R510). PWR_CTL.ENTER_OFF powers the chip off, or is refused. -/
  | enterOff (p : Path)
  /-- DEEP_SLEEP_WAKE (R504). A WAKE edge, lane signal or MGT_CS_N fall wakes the chip from Deep sleep and loads COARSE time. -/
  | deepSleepWake (src : WakeSrc) (elapsedMs : Nat)
  /-- BUDGET_INTERVAL (R513). At each 2^20 ns interval the arbiter estimates power and applies or releases one throttle step. -/
  | budgetInterval (grants : List (Nat × Nat))
  /-- HK_CONVERSION (R529). Each 1 µs the converter samples the next housekeeping input and checks for a wire break. -/
  | hkConversion (comb : Fin 6) (raw : Int) (cm : Nat)
  /-- HK_RAW_READ (R541). A read of HK_RAW snapshots HK_IN_STATUS for the path. -/
  | hkRawRead (p : Path) (comb : Fin 6)
  /-- HK_RESTART (R542). Housekeeping restarts with empty filters when RUN is set or the comb wakes. -/
  | hkRestart (comb : Fin 6)
  /-- ILLEGAL (R387). A worker executes an instruction word with an unlisted OP or FN, or an odd pair register, and faults ILLEGAL. -/
  | illegal (wk : Fin 192) (word : W32)
  /-- CTRL_MALFORMED (R312). A CTRL_REQ with OP 3 is answered MALFORMED and is not recorded. -/
  | ctrlMalformed (lane : Fin 20)
  /-- SPI_ERR (R483). A management frame with an edge count other than 96, a reserved OP or reserved bits set is discarded whole, counted, and raises SPI_ERR. -/
  | spiErr (edges : Nat) (mosi : BitVec 96)
  /-- PRBS_LOCK_LOSS (R319). The PRBS checker loses lock at 32 errors in any 64 bits and stops counting until it locks again. -/
  | prbsLockLoss (lane : Fin 20)
  /-- BROKEN_CLEAR (R451). A broken pair that has read (0,1) or (1,0) for 4 consecutive ticks leaves BROKEN, and its source counts events again. -/
  | brokenClear (g : Fin 8) (src : Fin 32)
  /-- REFCLK_BAD (R78). REFCLK goes missing or leaves the capture range, which sets REFCLK_BAD and sends an event to hive guard source 7. -/
  | refclkBad (h : HiveId)
  /-- REFCLK_RECOVERED (R78). REFCLK returns within the capture range, and REFCLK_BAD clears. -/
  | refclkRecovered (h : HiveId)
  /-- VLANE_RESTORED (R495). VLANE rises back above its threshold, the PHY island reset ends, and the lanes can train again. -/
  | vlaneRestored
  /-- VBIAS_RESTORED (R495). VBIAS rises back above its threshold, and the bias outputs stop limiting below their codes. -/
  | vbiasRestored
  /-- VSTBY_LOW (R495). VSTBY falls below 1.62 V, and the whole device is held in power-on reset. -/
  | vstbyLow
  /-- WAKE_FROM_OFF (R504). A rising edge on WAKE while the chip is Off leaves Off, records the wake source, and leads to a power-on start-up once the board restores the rails. -/
  | wakeFromOff
  /-- TEST_LOGIC_RESET (R491). A JTAG test-logic reset, through TRST_N or the TAP, selects IDCODE and ends any EXTEST instruction in force. -/
  | testLogicReset
deriving DecidableEq, Repr

end Sys2Proof
end

