-- ==== Sys2Proof/WellFormed.lean ====
section
/-! DEFINITION. Which commands are well formed: the bounds on operands that their types do not already carry. -/

namespace Sys2Proof

/-- Path delays of the seven regions reach each die: at most 65,536 fu each (02_timebase.md R55, R56). -/
def delaysOk (l : List Nat) : Bool := decide (l.length = 7) && l.all (fun d => decide (d < 2 ^ 16))

/-- A command is well formed. -/
def Instr.wf : Instr → Bool
  | .frameBoundary d => delaysOk d
  | .startup d => delaysOk d
  | .discriminatorEdge _ es => decide (es ≠ []) && decide (es.length ≤ 8)
  | .packetReceive _ bs => decide (bs ≠ [])
  | .budgetInterval gs => gs.all (fun g => decide (g.1 < 8))
  | .hkConversion _ raw cm => decide (-32768 ≤ raw ∧ raw ≤ 32767 ∧ cm < 2 ^ 16)
  | .spiErr n _ => decide (n ≤ 2 ^ 16)
  | _ => true

end Sys2Proof
end

