-- ==== Sys2Proof/Decode.lean ====
section
/-! DEFINITION. The words of the table of operations: the table gives no row any bits. -/

namespace Sys2Proof

/-- The command a table word spells: none, for the table gives no row any bits (95_what_each_step_holds.md). -/
def decodeTableWord (_nbits _w : Nat) : Option Instr := none

end Sys2Proof
end

