-- ==== Sys2Proof/Machine/Crc.lean ====
section
/-! DEFINITION. The check codes: CRC-32C (07_frames_compression.md R236), CRC-32 (09_lanes.md R300) and CRC-8
(05_blocks_regions.md R172). -/

namespace Sys2Proof.Machine

/-- The bytes of a word, most significant first. -/
def bytesMsb (x : W64) : List (BitVec 8) := (List.range 8).map (fun i => x.extractLsb' (56 - 8 * i) 8)

/-- The bytes of a word, least significant first. -/
def bytesLsb (x : W64) : List (BitVec 8) := (List.range 8).map (fun i => x.extractLsb' (8 * i) 8)

/-- `n` bits of a reflected 32-bit CRC, with the data already added. -/
def crcShift (poly : BitVec 32) : Nat → BitVec 32 → BitVec 32
  | 0, c => c
  | n + 1, c => crcShift poly n (if c.getLsbD 0 then (c >>> 1) ^^^ poly else c >>> 1)

/-- A reflected 32-bit CRC over bytes, initial value and final XOR all ones. -/
def crc32 (poly : BitVec 32) (bs : List (BitVec 8)) : BitVec 32 :=
  ~~~ bs.foldl (fun c b => crcShift poly 8 (c ^^^ b.zeroExtend 32)) 0xFFFFFFFF#32

/-- CRC-32C, Castagnoli (R236). -/
def crc32c (bs : List (BitVec 8)) : BitVec 32 := crc32 0x82F63B78#32 bs

/-- CRC-32 of IEEE 802.3 (R300). -/
def crcIeee (bs : List (BitVec 8)) : BitVec 32 := crc32 0xEDB88320#32 bs

/-- A CRC-8 with polynomial `poly` over bits, first bit first, not reflected, initial value `init`. -/
def crc8 (poly init : BitVec 8) (bs : List Bool) : BitVec 8 :=
  bs.foldl (fun c b => if c.getLsbD 7 != b then (c <<< 1) ^^^ poly else c <<< 1) init

/-- The bits of a vector, most significant first. -/
def bitsMsb {w : Nat} (x : BitVec w) : List Bool := (List.range w).map (fun i => x.getLsbD (w - 1 - i))

end Sys2Proof.Machine
end

