-- ==== Sys2Proof/Config.lean ====
section
/-! DEFINITION. What the spec leaves to the part or leaves open: constants without a body, so that no
proof can see a value of them (log entry 1), and the resources of one part. -/

namespace Sys2Proof

/-- A free value: the `n`-th value the spec does not state (log entry 1). DESIGN CHOICE: the counter that
picks it is a field of the state. -/
opaque Config.freeValue : Nat → W64

/-- Which way the running mean of the frequency word is rounded when the division is not exact
(02_timebase.md R58 states no rounding; log entry 5). -/
opaque Config.meanRoundsUp : Int → Nat → Bool

/-- Whether half a spine round trip is rounded up when the round trip is odd (02_timebase.md R56 states no rounding; log entry 1). -/
opaque Config.halfRoundsUp : Nat → Bool

/-- Whether the output delay line takes the next step up when the remainder of TIM_OUT_DLY is no multiple of its step of 8 fu
(02_timebase.md R72 states no rounding; log entry 1). -/
opaque Config.delayRoundsUp : Nat → Bool

/-- The histogram size of the link interpolators, as its exponent less 20 (04_interpolators.md R120 bounds it by 20 and 26, and no
register of a hive holds it; log entry 83). -/
opaque Config.linkHistExp : Fin 7

/-- Whether a word with three or more bad bits is detected (13_memory.md R409; log entry 6). -/
opaque Config.multiErrorDetected : Nat → Bool

/-- End of the resident code in instruction memory, byte address (12_workers.md R404, R405; log entry 7). -/
opaque Config.fwLimit : Nat → Nat

/-- End of the resident data in data memory, byte address (12_workers.md R404, R405; log entry 7). -/
opaque Config.fwDLimit : Nat → Nat

/-- The resident code of a worker, byte by byte: it is copied below `fwLimit` at every reset of the worker and never overwritten
(12_workers.md R404; log entry 7). -/
opaque Config.firmwareByte : Nat → Nat → BitVec 8

/-- The resident entries 0–15 of the kernel table (12_workers.md R392; log entry 7). -/
opaque Config.residentKtab : Nat → Nat → W32

/-- Entry word address of the resident dump kernel (14_redundancy_faults.md R463; log entry 7). -/
opaque Config.dumpEntry : Nat

/-- Where the device places the fixed ring of a queue in the device area, as the number of a place its alignment allows, and by how much
its SIZE exceeds the smallest that holds its packets (08_queues_placement.md R260, 13_memory.md R410 state neither; log entry 10). -/
opaque Config.fixedRing : Nat → Nat × Fin 4

/-- The words of the device area in which the input buffers of a compression job lie, as distances from its start: job, one of its two
buffers, place (07_frames_compression.md R228, R252, 13_memory.md R410 leave the layout to the hive; log entry 10). -/
opaque Config.inputWord : Nat → Bool → Nat → Fin 786432

/-- Whether PWR_EST is rounded up when the estimate is no whole number of 0.1 W (16_power_reset.md R513 states no rounding;
log entry 1). -/
opaque Config.estRoundsUp : Nat → Bool

/-- Silicon stepping code of this part where the MRAM holds no IDENTITY record (13_memory.md R425; log entry 8). -/
opaque Config.idcodeStepping : BitVec 4

end Sys2Proof
end

