-- ==== Sys2Proof/Machine/State.lean ====
section
/-! DEFINITION. The state of the block as plain data, the two ways a command can stop, and the state
right after reset. Numbers the spec counts are `Nat`; words it masks or wraps are bit vectors. A map is a list of
key and value pairs with rising keys that lists no default value. -/

namespace Sys2Proof.Machine

/-- A sparse table: keys rise, and no entry equals the value an unlisted key has. -/
abbrev Tab (α : Type) := List (Nat × α)

/-- Bytes by address; an unlisted address reads 0 (log entry 4). -/
abbrev Memory := List Host.Cell

/-! ### Time core, references, steps (02_timebase.md) -/

/-- The voted state of a time core (R54, R450): one of its three copies. The servo state is its integral, the run of updates
inside the lock window, the total of the present period's samples of the selected candidate with their count, and the mark
that the period ends without an update (10_time_transfer.md R340, R341, R344, R348). -/
structure TimeCore where
  sec : BitVec 48 := 0
  nsec : BitVec 30 := 0
  frac : BitVec 10 := 0
  frame : BitVec 40 := 0
  freq : BitVec 40 := 0
  holdAvg : BitVec 40 := 0
  integ : BitVec 64 := 0
  lockRun : BitVec 16 := 0
  sum : BitVec 64 := 0
  num : BitVec 16 := 0
  skip : BitVec 1 := 0
deriving DecidableEq, Repr

/-- The QUAL flags (R43). -/
structure Qual where
  locked : Bool := false
  holdover : Bool := false
  stepped : Bool := false
  suspectRef : Bool := false
  unsync : Bool := true
  coarse : Bool := false
deriving DecidableEq, Repr

/-- The states of a reference candidate (R64, R81). -/
inductive CandState where
  | disabled | absent | qualifying | qualified | suspect
deriving DecidableEq, Repr

/-- A reference candidate (R63, R64, R81). `fresh`: it entered its count-0 state at the gate in progress, which does
not count. -/
structure Cand where
  state : CandState := .disabled
  present : Bool := false
  count : Nat := 0
  qualSec : Nat := 0
  fresh : Bool := true
  freq : Int := 0
  phase : Int := 0
  inFtol : Bool := false
  inPtol : Bool := false
deriving DecidableEq, Repr

/-- The DPLL's input (R78). -/
inductive DpllSrc where
  | refclk | clk10m
  | lane (n : Nat)
deriving DecidableEq, Repr

/-- A latched step (R71): mode 0 names a frame, 1 waits for PPS_IN. -/
structure StepArm where
  mode : Nat
  abs : Bool
  neg : Bool
  frame : BitVec 40
  sec : Nat
  nsec : Nat
  frac : Nat
  goTick : Nat
deriving DecidableEq, Repr

/-- The time base of a hive beside its core (R43, R58, R59, R65, R72, R78). `gateStep` tells that a step applied during the
present gate, `holdTick` is the tick at which holdover was entered, `lastPps` the latest PPS_IN edge that came when it was expected,
in fu of the tick count, `secondTick` and `gateTick` those at which a second boundary and a gate
end were last served. -/
structure TimeBase where
  core0 : TimeCore := {}
  core1 : TimeCore := {}
  core2 : TimeCore := {}
  qual : Qual := {}
  holdTick : Nat := 0
  holdHist : List Int := []
  src : DpllSrc := .refclk
  refclkBad : Bool := false
  cands : List Cand := [{}, {}, {}, {}]
  sel : Option Nat := none
  selLane : Option (BitVec 12 × Option (BitVec 16 × BitVec 8)) := none
  gateStep : Bool := false
  ppsHigh : Bool := false
  ppsFall : Nat := 0
  lastPps : Option Nat := none
  secondTick : Option Nat := none
  gateTick : Option Nat := none
deriving DecidableEq, Repr

/-! ### Cells, interpolators, injector, bias (03_cells.md, 04_interpolators.md) -/

/-- A stamp of an edge: waiting for interpolator `itp`, or known (raw time in fu since the system epoch,
coarse). -/
inductive Stamp where
  | waiting (itp : Nat)
  | known (fu : Int) (coarse : Bool)
deriving DecidableEq, Repr

/-- A pulse of one threshold from its leading edge until its record is made (03_cells.md R93–R98). `leadM` is the leading
edge in fu of the tick count since power-on, `leadLabel` the same instant in fu since the system epoch. `trail` is
absent while the pulse is open; `ovf` closes it without a trailing edge. A pulse of a muted cell makes no record.
`gen` tells the steps of time that came before it. -/
structure Pulse where
  th : Nat
  leadM : Nat
  leadLabel : Int
  lead : Stamp
  trail : Option Stamp := none
  ovf : Bool := false
  pileup : Bool := false
  cal : Bool := false
  muted : Bool := false
  gen : Nat := 0
deriving DecidableEq, Repr

/-- What an interpolator does: it is free, it converts an edge of threshold `th` launched by the boundary at `tickFu`,
a clock-monitor stamp, or a calibration edge. `old`: the table it converts by has been replaced since (R127). -/
inductive Itp where
  | free
  | edge (th : Nat) (rising : Bool) (tickFu : Int) (old : Bool)
  | stampCm (tickFu : Int) (index : BitVec 32) (old : Bool)
  | calib
deriving DecidableEq, Repr

/-- A discriminator (R88, R97): the setting it keeps until its pulse closes, absent where the register's holds, whether its
eventual trailing edge is to be ignored, and whether its setting has changed since, so that a leading edge may come first. -/
structure Disc where
  kept : Option (BitVec 12 × BitVec 4 × Bool) := none
  ignoreTrail : Bool := false
  moved : Bool := false
deriving DecidableEq, Repr

/-- A record as the cell FIFO holds it (R94, R95): threshold, raw leading time in fu since the epoch, TOT, flags, whether it
was written under parity (05_blocks_regions.md R166), the steps of time before it. -/
structure RawRec where
  th : Nat
  fu : Int
  tot : Nat
  flags : BitVec 7
  parity : Bool := false
  gen : Nat := 0
deriving DecidableEq, Repr

/-- A bin-edge table: 400 pairs of centre and width in 1/64 fu (04_interpolators.md R125). -/
abbrev BinTable := List (Nat × Nat)

/-- One interpolator's calibration (R124–R134): table in force (none: nominal), the table it replaced at the last
boundary, the filling histogram, and whether it waits for the builder. -/
structure ItpCal where
  table : Option BinTable := none
  prev : Option BinTable := none
  hist : Tab Nat := []
  fill : Nat := 0
  waiting : Bool := false
  trim : BitVec 6 := 0
  trimNew : Option (BitVec 6) := none
deriving DecidableEq, Repr

/-- A cell (03_cells.md). `recs` counts records by frame number; a marker names a frame and a count of FIFO writes;
`blankEnd` and `injected` are in fu of the tick count; row `i` of `exc` counts the leading edges of each threshold since the
latest leading edge of TH_i; `prims` are recent leading edges for the primitive (06_trigger.md R192):
threshold and trigger tick; `skewPrev` is the skew register before the commit at the named
instant, with SKEW_VALID. -/
structure Cell where
  itps : List Itp := [.free, .free, .free, .free]
  discs : List Disc := [{}, {}, {}, {}]
  pulses : List Pulse := []
  fifo : List RawRec := []
  wrPos : Nat := 0
  rdPos : Nat := 0
  markers : List (BitVec 40 × Nat) := []
  recs : Tab Nat := []
  muted : Bool := false
  cmEdges : Nat := 0
  prims : List (Nat × Int) := []
  blankEnd : Option Nat := none
  injected : Option Nat := none
  calPtr : Nat := 0
  exc : List (List Nat) := [[0, 0, 0, 0], [0, 0, 0, 0], [0, 0, 0, 0], [0, 0, 0, 0]]
  skewPrev : Option (Int × W32 × Bool) := none
deriving DecidableEq, Repr

/-- An injector's state (03_cells.md R108–R110, R119): 0 IDLE, 1 WAIT or 2 RUN, the running segment, the samples begun, the
tick of the segment's start and the entry read then; a pending request with its tick, and a bound target. -/
structure Inj where
  state : Nat := 0
  seg : Nat := 0
  sample : Nat := 0
  segStart : Nat := 0
  amp : Nat := 0
  mask : BitVec 16 := 0
  interval : Nat := 64
  count : Nat := 1
  next : Nat := 0
  stop : Bool := false
  pend : Option (Nat × Nat) := none
  bound : Option Nat := none
deriving DecidableEq, Repr

/-- A table that waits for its swap (04_interpolators.md R132–R134): interpolator, table, first alarming bin, tick of
completion or of GO. -/
structure NewTable where
  itp : Nat
  table : BinTable
  alarm : Option Nat
  tick : Nat
deriving DecidableEq, Repr

/-- A record in a block store or a merger input (05_blocks_regions.md R153): its 64-bit word, corrected time in fu since the
epoch, frame, whether it is selected, the poison tag, and whether the FIFO that holds it wrote it under parity (R166). -/
structure StoreRec where
  word : W64
  fu : Int
  frame : BitVec 40
  selected : Bool
  poison : Bool
  parity : Bool := false
deriving DecidableEq, Repr

/-- A block's open frame slot (R157–R160, R164, R179–R181): the frame with its start and end, the steps of time before it, records
read by the merger, flags, first and last time overwritten, records cut, cells whose marker is applied, local numbers of
the cells muted, tick of the drain's start. -/
structure Slot where
  frame : BitVec 40
  start : Int
  stop : Int
  gen : Nat := 0
  taken : Nat := 0
  lost : Bool := false
  overrun : Option (Nat × Nat) := none
  cut : Option Nat := none
  poison : Bool := false
  isolated : Bool := false
  markers : BitVec 16 := 0
  mutes : List Nat := []
  drainTick : Option Nat := none
deriving DecidableEq, Repr

/-- A block (03_cells.md, 04_interpolators.md, 05_blocks_regions.md). `modes` lists the trigger modes and streamed cells that
served the times before the named boundaries; `drops` counts dropped records by frame number (03_cells.md R100). -/
structure Block where
  inj : Inj := {}
  biasNow : Nat := 0
  biasNext : Nat := 0
  slewing : Bool := false
  overload : Bool := false
  buildQueue : List Nat := []
  building : Option Nat := none
  built : Option NewTable := none
  loadBuf : Tab W32 := []
  loadPend : Option NewTable := none
  store : List StoreRec := []
  slots : List Slot := []
  isolated : Bool := false
  rejoinReq : Bool := false
  floorTick : Nat := 0
  modes : List (Int × Nat × BitVec 16) := []
  drops : Tab Nat := []
deriving DecidableEq, Repr

/-! ### Region merger and die bridge (05_blocks_regions.md) -/

/-- An item at a merger input (R167, R168): a record with the floor passed with it, or a floor with its frame. -/
inductive MItem where
  | record (r : StoreRec) (floor : Int)
  | floor (frame : BitVec 40) (fu : Int)
deriving DecidableEq, Repr

/-- A bridge flit before it is sent (R172): type, slot, poison, payload, and whether the replay buffer wrote it under parity
(R166). -/
structure Flit where
  kind : Nat
  slot : Bool
  poison : Bool
  payload : W64
  parity : Bool := false
deriving DecidableEq, Repr

/-- A bundle's two ends (R173, R174, R185): state 0 DOWN, 1 TRAINING, 2 UP. -/
structure Bundle where
  state : Nat := 1
  dataCr : Nat := 0
  ctlCr : Nat := 0
  replay : List Flit := []
  inFlight : List Flit := []
  sent : Nat := 0
  acked : Nat := 0
  failed : Bool := false
  fails : Nat := 0
  retrain : Bool := false
  retData : Nat := 0
  retCtl : Nat := 0
deriving DecidableEq, Repr

/-- A region's open slot at the merger (R167–R171, R179): the frame with its start and end, latest time released, floors by
input of the items released, records read by input, close groups received, tick of the drain's start. -/
structure RegSlot where
  frame : BitVec 40
  start : Int
  stop : Int
  latest : Option Int := none
  floors : List Int := []
  took : Tab Nat := []
  groups : Tab (List W64) := []
  drainTick : Option Nat := none
  reset : Bool := false
deriving DecidableEq, Repr

/-- A comb region's merger and bridges. `h` is the horizon its blocks hold, in trigger ticks; `windows` are the windows
received from the hive; `inReset` holds from a region reset until the comb rejoins, at the frame `rejoined`. -/
structure Comb where
  inputs : List (List MItem) := [[], [], [], [], [], [], [], [], [], [], [], []]
  slots : List RegSlot := []
  h : Int := -132
  windows : List (Int × Int) := []
  disorder : Bool := false
  floorSent : Int := 0
  floorTick : Nat := 0
  out : List Flit := []
  bundleA : Bundle := {}
  bundleB : Bundle := {}
  lastClosed : Option (BitVec 40) := none
  inReset : Bool := false
  rejoined : Option (BitVec 40) := none
deriving DecidableEq, Repr

/-! ### Trigger and swarm (06_trigger.md) -/

/-- A trigger line's running state (R197, R198). -/
structure Line where
  cond : Bool := false
  lastFire : Option Int := none
  ps : Nat := 0
deriving DecidableEq, Repr

/-- An accepted trigger (R199, R217, R234): line, HOST, TRUNC, start of the selected window, trigger time and window in
fu, matching origins, primitive value, READ_MASK, SEQ. -/
structure Decision where
  line : Nat
  host : Bool
  trunc : Bool
  t : Int
  pre : Nat
  post : Nat
  lo : Int
  hi : Int
  origins : Nat
  prim : Nat
  mask : BitVec 6
  seq : BitVec 32
deriving DecidableEq, Repr

/-- The settings of a SWARM line a candidate was formed with (R191, R213): line, PRE, POST, READ_MASK, AUTO, PS. -/
structure CandLine where
  line : Nat
  pre : Nat
  post : Nat
  mask : BitVec 6
  auto : Bool
  ps : Nat
deriving DecidableEq, Repr

/-- A local swarm candidate (R206, R211): its entries, the settings it was formed with, its decision instant and the
trigger tick of its forming. -/
structure SwCand where
  t : Int
  mult : Nat
  decideTick : Int
  formed : Int
  win : Int
  k : Nat
  multMin : Nat
  lines : List CandLine
deriving DecidableEq, Repr

/-- An admitted swarm message held for matching (R208, R210): origin entry, corrected time, MULT, expiry. -/
structure SwMsg where
  org : Nat
  tc : BitVec 32
  mult : Nat
deriving DecidableEq, Repr

/-- What is known of an origin (R209, R223). -/
structure Origin where
  state : Nat := 0
  sync : Nat := 0
  bl : Nat := 0
  fp : BitVec 16 := 0
  hops : Nat := 0
  last : BitVec 32 := 0
deriving DecidableEq, Repr

/-- A region primitive word of one trigger tick (R193): trigger tick number, SUM, ACT, parity good. -/
structure Prim where
  comb : Nat
  tt : Int
  sum : Nat
  act : Nat
  good : Bool
deriving DecidableEq, Repr

/-- The trigger and swarm of a hive (06_trigger.md). `h` is the horizon in trigger ticks since the epoch, `target` the lag
L, `before` the boundary of the last commit with the line settings that served before it. Trigger ticks are numbered on the present
time scale; `relabel` lists the recent steps, newest first: the first trigger tick after the step and the number of ticks by which it
moved the numbers. `jumpAt` is the instant, on the scale before the step, at which the horizon passes over a forward step, with that
number. `autoHist` gives the automatic prescale of recent frames, newest first. An external edge names its input, its direction, its
instant and its trigger tick; `extLast` is in fu of the tick count; `unsent` lists the decisions not yet sent to the blocks. -/
structure Trig where
  h : Int := -132
  target : Nat := 132
  clamped : Bool := false
  before : Option (Int × List (W32 × W32 × W32 × W32)) := none
  jumpAt : Option (Int × Int) := none
  relabel : List (Int × Int) := []
  doneTick : Option Nat := none
  lines : List Line := [{}, {}, {}, {}, {}, {}, {}, {}]
  entries : List Decision := []
  decided : List Decision := []
  unsent : List Decision := []
  seq : BitVec 32 := 0
  autoExp : Nat := 0
  autoHist : List (BitVec 40 × Nat) := []
  peak : Nat := 0
  prims : List Prim := []
  extLast : List (Option Int) := [none, none]
  extEdges : List (Nat × Bool × Int × Int) := []
  refused : Tab Nat := []
  late : Tab Nat := []
  hostStatus : Nat := 0
  cands : List SwCand := []
  dup : List (BitVec 12 × BitVec 32) := []
  formed : List (BitVec 32) := []
  held : List SwMsg := []
  origins : Tab Origin := []
  txBl : Nat := 1
deriving DecidableEq, Repr

/-! ### Frame building and compression (07_frames_compression.md) -/

/-- The sort buffer of a region input in a hive (R226): records, latest floor with its frame, close groups so far. -/
structure SortBuf where
  recs : List StoreRec := []
  floor : Option (BitVec 40 × Int) := none
  groups : List (List W64) := []
deriving DecidableEq, Repr

/-- A frame the hive builds (R224, R229, R245–R254), with the settings of its start boundary: `slot` is its open-frame slot
once its first item has been released, `dest` its receiver. `run` is the run being filled, `runs` those cut, `cbs` the next
input buffers of its CB-128 sources, `cbSent` the sources committed; `closes` holds by region the close groups and the
region close word. -/
structure OpenFrame where
  frame : BitVec 40
  start : Int
  stop : Int
  slot : Option Nat := none
  dest : Nat := 0
  qual : Qual := {}
  flags : BitVec 9 := 0
  fp : BitVec 16 := 0
  k : Nat := 16
  cb128 : Bool := false
  raw : Bool := false
  auto : Nat := 0
  device : BitVec 12 := 0
  bl : Nat := 1
  lastKey : Option Nat := none
  lastTime : Option Nat := none
  records : Nat := 0
  run : List StoreRec := []
  runs : Nat := 0
  cbs : List (List StoreRec) := [[], [], [], [], [], [], [], [], []]
  cbSent : Nat := 0
  headDone : Bool := false
  unlisted : Nat := 0
  order : Bool := false
  bundle : Bool := false
  poison : Bool := false
  drainTick : Option Nat := none
  drain : Nat := 0
  closes : Tab (List (List W64) × W64) := []
  closed : Bool := false
  lost : Bool := false
  cblocks : Nat := 0
  abandoned : Bool := false
deriving DecidableEq, Repr

/-- A compression job (R241, R242, R252, R258): state 0 FREE, 1 QUEUED, 2 RUNNING, 3 PAUSED. `recs` are the records taken so
far, of which the engine has read `read` from the input buffers, `present` counts those of the present input buffer not yet coded, `buf` tells
which of the two it is, `poisoned` whether a word read was poisoned, `ended` that no further buffer follows. -/
structure Job where
  state : Nat := 0
  frame : BitVec 40 := 0
  index : Nat := 0
  cb : Bool := false
  raw : Bool := false
  recs : List StoreRec := []
  read : Nat := 0
  present : Nat := 0
  buf : Bool := false
  poisoned : Bool := false
  ended : Bool := true
  reserved : Nat := 0
  inWords : Nat := 0
  outWords : Nat := 0
  resumable : Bool := false
  device : BitVec 12 := 0
deriving DecidableEq, Repr

/-- The output stage of a hive. A range of frames not yet delivered names its first frame, its length and the frame whose
delivery ends it (none: a lost-frame note is due; 14_redundancy_faults.md R443). -/
structure Framer where
  sorts : List SortBuf := [{}, {}, {}, {}, {}, {}]
  frames : List OpenFrame := []
  jobs : Tab Job := []
  lostRanges : List (BitVec 40 × Nat) := []
  takeoverFlag : Bool := false
  resumeFlag : Bool := true
  commitFlag : Bool := false
  recTotal : BitVec 64 := 0
  wordTotal : BitVec 64 := 0
  anyBuilt : Bool := false
  undelivered : List (BitVec 40 × Nat × Option (BitVec 40)) := []
deriving DecidableEq, Repr

/-! ### Queues and placement (08_queues_placement.md) -/

/-- Who holds a queue's open packet (R264, R268): a device producer, a worker, or a host access path by number. -/
inductive Producer where
  | device
  | path (n : Nat)
deriving DecidableEq, Repr

/-- What a queue's engine holds beside its descriptor and its ring, which lie in the honey store (R262–R269): packet number, the
producer of the open packet and the words it has written, tick of its last use, ticks for which its timer stood still,
CFG_ERR, one-time results owed to paths, and packets placed out of order (position, words). -/
structure Queue where
  seq : BitVec 32 := 0
  opened : Option Producer := none
  written : Nat := 0
  lastUse : Nat := 0
  frozen : Nat := 0
  cfgErr : Bool := false
  owed : Tab Nat := []
  freed : List (Nat × Nat) := []
deriving DecidableEq, Repr

/-- A committed unit of a frame-output queue that waits for placement (R280, R282): receiver, frame, rank within the
frame, order of commit, queue, position of its packet word, length; the words once it has been placed, and whether its
credit has been charged. -/
structure PUnit where
  rcv : Nat
  frame : BitVec 40
  rank : Nat
  order : Nat
  queue : Nat
  pos : Nat
  len : Nat
  words : List W64 := []
  charged : Bool := false
deriving DecidableEq, Repr

/-- Placement of a hive (R277–R286): units that wait, credit by receiver (unlisted: PLC_RCV_INIT), frame and LAST_TOTAL of
the receivers' last restart, receivers in a NO_LANE episode, units committed so far, jobs given back by intake, dump
packets taken back. -/
structure Place where
  waiting : List PUnit := []
  credit : Tab Nat := []
  restart : Tab (BitVec 40 × BitVec 32) := []
  noLane : List Nat := []
  arrivals : Nat := 0
  jobsBack : Tab (List (W64 × W64)) := []
  dumpBack : List (List W64) := []
deriving DecidableEq, Repr

/-! ### Lanes, control requests, waggle (09_lanes.md, 10_time_transfer.md) -/

/-- What a packet a lane sends carries (R301): a part of a frame unit, of one that placement has taken back (08_queues_placement.md
R282), a dump part, a response, a WAGGLE or SWARM packet. -/
inductive Load where
  | unit (u : PUnit) (first last : Bool)
  | taken (first last : Bool)
  | dump (ws : List W64) (first last : Bool)
  | response
  | waggle (mark : Option (BitVec 8))
  | swarm
deriving DecidableEq, Repr

/-- A packet waiting or kept in the retry buffer (R302); SEQ, SRC and the tick of its latest sending once it has been sent. -/
structure TxPacket where
  ptype : Nat
  load : Load
  rcv : BitVec 16
  payload : List W64
  seq : BitVec 8 := 0
  src : BitVec 12 := 0
  sentTick : Nat := 0
deriving DecidableEq, Repr

/-- The states of a lane (R306). -/
inductive LaneState where
  | down | training | up | asleep | prbs
deriving DecidableEq, Repr

/-- An accepted packet that waits for its handler: TYPE, SRC, payload. -/
structure RxPacket where
  ptype : Nat
  src : BitVec 12
  seq : BitVec 8
  payload : List W64
deriving DecidableEq, Repr

/-- A PRBS checker (09_lanes.md R319): its register, the agreement of the last 64 bits with the sequence, and whether it is in lock. -/
structure PrbsCheck where
  reg : BitVec 31 := 0
  agree : BitVec 64 := 0
  sync : Bool := false
deriving DecidableEq, Repr

/-- The link layer of a lane (09_lanes.md). `goodIdle` counts consecutive good IDLE packets in TRAINING, `expect` is E;
`resend` counts the packets of `retry` that the present resend round still sends; `rounds` counts rounds without progress and
`roundStart` names the packet that started the last one; `rx` holds accepted packets for their handlers; `idleOut` tells that the
transmitter has fallen to idle for good; `sleepTick` is the tick of a transmit sleep request. `scr` and `dscr` are the latest 58 bits that
the transmitter sent and the receiver took; `hdrs` tells which of the last 64 blocks had a valid sync header; `rxPart` is the packet in
progress: its header and the words so far; `rxGood` tells that a good packet has come since training began. `gen` and `chk` are the PRBS
generator's register and the checker, `chkLock` what the checker shows of its lock; `inj` is the armed injection: mode, length less one or
exponent, bits so far. -/
structure Lane where
  state : LaneState := .down
  lock : Bool := false
  signal : Bool := false
  txAwake : Bool := true
  rxAwake : Bool := true
  txWaking : Bool := false
  rxWaking : Bool := false
  sleepTick : Option Nat := none
  powered : Bool := true
  goodIdle : Nat := 0
  pSrc : BitVec 12 := 0
  pLstate : Nat := 0
  nextSeq : BitVec 8 := 0
  expect : BitVec 8 := 0
  ack : Option (BitVec 8) := none
  nakOwed : Bool := false
  nakSent : Option Nat := none
  waiting : List TxPacket := []
  retry : List TxPacket := []
  resend : Nat := 0
  rounds : Nat := 0
  roundStart : Option (BitVec 8) := none
  errCnt : Nat := 0
  scr : BitVec 58 := 0
  dscr : BitVec 58 := 0
  hdrs : BitVec 64 := 0
  rxPart : Option (BitVec 56 × List W64) := none
  rxGood : Bool := false
  gen : BitVec 31 := 0x7FFFFFFF
  chk : PrbsCheck := {}
  chkLock : Bool := false
  inj : Option (Nat × Nat × Nat) := none
  rx : List RxPacket := []
  lastTx : Option RawPacket := none
  lastBlocks : List LineBlock := []
  idleOut : Bool := false
  lastTiming : Option (BitVec 56) := none
deriving DecidableEq, Repr

/-- A requester's replay window (R317): requester, highest RSEQ, accepted RSEQs with their stored responses (none while
outstanding), last use. -/
structure ReqWindow where
  id : BitVec 16
  high : BitVec 16
  seqs : List (BitVec 16 × Option (List W64))
  lastUse : Nat
deriving DecidableEq, Repr

/-- A request accepted and not yet answered (R313): requester, RSEQ, TAG, lane, its words, how far it got. -/
structure ReqOut where
  id : BitVec 16
  rseq : BitVec 16
  tag : BitVec 8
  lane : Nat
  hive : HiveId
  reqWord : W64
  accesses : List W64
  results : List W64
  queued : Bool := false
deriving DecidableEq, Repr

/-- Waggle state of a lane in a hive (10_time_transfer.md R328–R338). `txHist` lists TSEQ and transmit stamp, `txAt` is the sync
boundary of the last timing block sent, `rxHist` lists receive
stamp, TX and validity, `toReport` TSEQ and receive stamp since the last REPORT. Of the present period: sums of th2, rt and d over the
`n` accepted samples, all two-way samples `seen`, sum and count for one-way samples. `lastRx` is the latest receive stamp in fu since
the epoch; `txMark` and `repMark` are the instants last served by a timing block and a REPORT. -/
structure WagLane where
  tseq : BitVec 8 := 0
  txHist : List (BitVec 8 × BitVec 32) := []
  txAt : Option Int := none
  rxHist : List (BitVec 32 × BitVec 32 × Bool) := []
  toReport : List (BitVec 8 × BitVec 32) := []
  rtRef : Option Int := none
  dHeld : Option Int := none
  sumTh2 : Int := 0
  sumRt : Int := 0
  sumD : Int := 0
  n : Nat := 0
  seen : Nat := 0
  oneSum : Int := 0
  oneN : Nat := 0
  outRun : Nat := 0
  twoWay : Bool := false
  oneWay : Bool := false
  pSync : Nat := 0
  pDepth : Nat := 0
  lastValid : Option Nat := none
  lastRx : Option Int := none
  rootId : BitVec 16 := 0
  rootGen : BitVec 8 := 0
  reported : Bool := false
  offset : Int := 0
  samples : Nat := 0
  txMark : Option Int := none
  repMark : Option Int := none
deriving DecidableEq, Repr

/-- The servo of a hive (R339–R346). `extSum`, `extN`: samples of CAND_2 in the present period; `extPps` the latest PPS_IN edge; `ppsUsed`
tells that it is the period's only sample. `period` is the number of the period in progress; `linkCal` lists the lanes whose link
interpolator converts a calibration edge (R331). -/
structure Servo where
  lanes : Tab WagLane := []
  extSum : Int := 0
  extN : Nat := 0
  extPps : Option Int := none
  ppsUsed : Bool := false
  refusing : Bool := false
  oneWayUsed : Bool := false
  ownGen : BitVec 8 := 0
  period : Int := 0
  linkCal : List Nat := []
deriving DecidableEq, Repr

/-- The six sums of a gate (04_interpolators.md R143). -/
structure RgSums where
  k : Int := 0
  n : Int := 0
  r : Int := 0
  nr : Int := 0
  nn : Int := 0
  rr : Int := 0
deriving DecidableEq, Repr

/-- A slot's result set (R145). -/
structure RgResult where
  k : Nat := 0
  freq : Int := 0
  phase : Int := 0
  rms : Nat := 0
  centre : BitVec 96 := 0
  sums : RgSums := {}
  few : Bool := false
  full : Bool := false
  range : Bool := false
  seq : BitVec 16 := 0
deriving DecidableEq, Repr

/-- A gate (R141, R143): opening instant and, for a FRAME gate, frame; closing instant once it is closed; first
stamp (index, fu since the system epoch); sums; PPS edges counted. -/
structure RgGate where
  opened : Int
  frame : BitVec 40 := 0
  closed : Int := 0
  origin : Option (Int × Int) := none
  sums : RgSums := {}
  full : Bool := false
  range : Bool := false
  pps : Int := 0
deriving DecidableEq, Repr

/-- A slot of the regression unit: state, the open gate, closed gates whose results are due, oldest first, stamps that
have arrived (index, none for PPS_IN; short time), edges of its GATE_n input not yet used. -/
structure RgSlot where
  state : Nat := 0
  gate : Option RgGate := none
  closed : List RgGate := []
  expired : Bool := false
  stamps : List (Option (BitVec 32) × BitVec 32) := []
  edges : List (Int × Bool) := []
  res : RgResult := {}
deriving DecidableEq, Repr

/-! ### Memory of a hive (13_memory.md) -/

/-- The three states of a honey-store word (R411). -/
inductive WState where
  | invalid | valid | poison
deriving DecidableEq, Repr

/-- A merge-buffer entry (R418, R419). -/
structure MergeEnt where
  waddr : Nat
  data : W64
  mask : BitVec 8
  last : Nat
deriving DecidableEq, Repr

/-- An error-log entry (R420). -/
structure LogEnt where
  kind : Nat
  bit : Nat
  agent : Nat
  waddr : Nat
  short : BitVec 32
deriving DecidableEq, Repr

/-- A running NVS command (R428, R432): what it does, its new record's word writes still to be made, its result, and who
started it: 0 the host, 1 the claim, 2 the fault summary. -/
structure NvsCmd where
  op : Nat
  kind : Nat
  inst : Nat
  addr : Nat
  len : Nat
  writes : List (Nat × W64)
  result : Nat
  src : Nat := 0
deriving DecidableEq, Repr

/-- A honey store and its engines. `err` lists the bad bits of a word (0–63 data, 64–71 check). -/
structure Honey where
  bytes : Memory := []
  st : Tab WState := []
  err : Tab (List Nat) := []
  merge : List MergeEnt := []
  log : List LogEnt := []
  buckets : Tab Nat := []
  retired : List Nat := []
  pos : Nat := 0
  passStart : Nat := 0
  passLate : Bool := false
  passSec : Nat := 60
  leakTick : Nat := 0
  writeback : Option Nat := none
deriving DecidableEq, Repr

/-- A line of a hive worker's data cache (12_workers.md R399): word data with poison, MESI state by the
directory. -/
inductive Mesi where
  | m | e | s
deriving DecidableEq, Repr

/-- A cached line: line address (byte address / 64), eight words with poison tags, state. -/
structure CLine where
  line : Nat
  words : List (W64 × Bool)
  state : Mesi
deriving DecidableEq, Repr

/-! ### Duplex and guards (14_redundancy_faults.md) -/

/-- Claim, hum and takeover state of a hive. `former` is the claim before a pending takeover; of each path: the consecutive valid beats
and misses, the slot last served, whether it is silent; `sent` is the last beat sent, with its slot. -/
structure Duplex where
  claim0 : BitVec 16 := 1
  claim1 : BitVec 16 := 1
  claim2 : BitVec 16 := 1
  former : BitVec 16 := 1
  pendingTake : Bool := false
  nvPending : Bool := false
  yieldReq : Bool := false
  hostArm : Bool := false
  disarmed : Bool := false
  anew : Bool := false
  takenSince : Bool := false
  runD : Nat := 0
  runR : Nat := 0
  missD : Nat := 0
  missR : Nat := 0
  slotD : Option Nat := none
  slotR : Option Nat := none
  silentD : Bool := false
  silentR : Bool := false
  relay0 : Bool := false
  relay3 : Bool := false
  heard : Bool := false
  peerClaim : BitVec 16 := 0
  peerActive : Bool := false
  peerYield : Bool := false
  peerFatal : Bool := false
  peerReady : Bool := false
  peerDone : BitVec 40 := 0
  keptDone : BitVec 40 := 0
  sent : Option W64 := none
  sentSlot : Option Nat := none
  fatal : Bool := false
  takes : Nat := 0
deriving DecidableEq, Repr

/-- A guard source (R451, R455). `pair`: the rails read. -/
structure Source where
  pair : BitVec 2 := 1
  pairTick : Nat := 0
  broken : Bool := false
  count : Nat := 0
  windowEnd : Option Nat := none
  severe : Bool := false
deriving DecidableEq, Repr

/-- A handling record (R457, R471). -/
structure Record where
  region : Nat
  src : Nat
  step : Nat
  ceil : Nat
  seq : BitVec 16
  classOr : BitVec 16
  count : Nat
  regionOr : BitVec 8
  time : BitVec 32
  deadline : Nat
  close : Nat := 0
deriving DecidableEq, Repr

/-- How far the dump kernel has come (14_redundancy_faults.md R464): the section it writes next, from 1 HEAD to 6 END (0 before a
declaration, 7 after END), the packet of that section, the time word and the record of the declaration, the words written so far and
their running CRC-32C. -/
structure Dump where
  sect : Nat := 0
  part : Nat := 0
  time : BitVec 96 := 0
  words : Nat := 0
  crc : BitVec 32 := 0xFFFFFFFF
deriving DecidableEq, Repr

/-- The chip-guard part of a hive (R456–R465). -/
structure Guard where
  record : Option Record := none
  seq : BitVec 16 := 0
  log : List Record := []
  trace : List (W64 × W64) := []
  fatalTick : Option Nat := none
  fatalRecord : Option Record := none
  dumpDone : Bool := false
  dump : Dump := {}
  stepCounts : List Nat := [0, 0, 0, 0]
  lastSummary : Option Nat := none
  openSec : BitVec 48 := 0
  pathLost : Nat := 0
  lastFault : Option (Record × Nat) := none
  summaryDue : Bool := false
deriving DecidableEq, Repr

/-- A hive: everything each hive holds for itself. -/
structure Hive where
  tb : TimeBase := {}
  trig : Trig := {}
  fr : Framer := {}
  queues : Tab Queue := []
  noticeLost : Nat := 0
  noticeReset : Bool := false
  place : Place := {}
  windows : List ReqWindow := []
  outstanding : List ReqOut := []
  servo : Servo := {}
  slots : Tab RgSlot := []
  honey : Honey := {}
  caches : Tab (List CLine) := []
  dirPtr : Nat := 0
  mram : Memory := []
  nvs : Option NvsCmd := none
  nvsState : Nat := 0
  nvsResult : Nat := 0
  ident : List W64 := []
  dup : Duplex := {}
  guard : Guard := {}
  accepted : Nat := 0
deriving DecidableEq, Repr

/-! ### Workers and leases (12_workers.md) -/

/-- The states of a worker (R380). -/
inductive WorkState where
  | stopped | running | waiting | halted | fault
deriving DecidableEq, Repr

/-- What a worker's instruction waits for; it completes when its condition holds (R380). A load or store of the honey
store, a flush and a register access wait in state RUNNING: a load names its register, byte address and size, a store its address,
size and data. -/
inductive WaitFor where
  | events (d : Nat) (mask : BitVec 5)
  | job
  | lease (d : Nat) (a : Nat) (n : Nat)
  | get (d : Nat) (a : Nat)
  | put (d : Nat) (a : Nat)
  | sout (waddr n : Nat)
  | load (d addr size : Nat)
  | store (addr size : Nat) (x : W64)
  | access
deriving DecidableEq, Repr

/-- A stream port (R388): next word address, records left, records buffered. -/
structure Port where
  waddr : Nat := 0
  left : Nat := 0
  buf : List (W64 × Bool) := []
  opened : Bool := false
deriving DecidableEq, Repr

/-- A worker. `access` names the hive and the issue tick of an outstanding honey-store access, `haltTick` the tick of the latest
halt. -/
structure Worker where
  state : WorkState := .stopped
  regs : Tab W32 := []
  pc : Nat := 0
  cause : Nat := 0
  faultAddr : W32 := 0
  accErr : Bool := false
  leaseRevoked : Bool := false
  flushed : Bool := false
  dbgEn : Bool := false
  jobActive : Bool := false
  jobTag : W32 := 0
  lostTag : W32 := 0
  timer : Nat := 0
  doorbell : Bool := false
  frameEv : Bool := false
  imem : Memory := []
  dmem : Memory := []
  lerr : Tab (List Nat) := []
  ktab : Tab W32 := []
  inPort : Port := {}
  outPort : Port := {}
  openQ : Option Nat := none
  wait : Option WaitFor := none
  haltReq : Bool := false
  stepping : Bool := false
  access : Option (HiveId × Nat) := none
  flushing : Bool := false
  haltTick : Nat := 0
deriving DecidableEq, Repr

/-- A lease (R395–R398): its owner, a worker or 255 for the host, and the tick its duration counts from; the tick at which it froze; its
waiters (worker, request tick, n); whether LEASE_HELD_BY_HALTED has been raised in this halt; former owners that are owed REVOKED. -/
structure Lease where
  owner : Option Nat := none
  n : Nat := 0
  since : Nat := 0
  frozenAt : Option Nat := none
  waiters : List (Nat × Nat × Nat) := []
  noticed : Bool := false
  revoked : List Nat := []
  freeSince : Nat := 0
deriving DecidableEq, Repr

/-- A region's guard sources, leases and arbiter pointer. Regions 0–5 are the combs, 6 and 7 the hives. -/
structure Region where
  sources : Tab Source := []
  leases : Tab Lease := []
  ptr : Nat := 0
  unlocked : Bool := false
deriving DecidableEq, Repr

/-! ### Power, housekeeping, chip (15_control.md, 16_power_reset.md, 17_housekeeping.md) -/

/-- The states of a power domain (16_power_reset.md R498). -/
inductive PState where
  | run | idle | sleep | deep | off
deriving DecidableEq, Repr

/-- A power domain (R500–R508, R524). `entry`: the state it enters and the steps completed. -/
structure Domain where
  state : PState := .run
  entry : Option (PState × Nat) := none
  lowPower : Bool := false
  parked : Bool := false
  parkedFrame : Option (BitVec 40) := none
  inReset : Bool := false
  hostRun : Bool := false
  hostIdle : Bool := false
  fwRun : Bool := false
  fwIdle : Bool := false
  access : Bool := false
  lastAccess : Nat := 0
  wakeTick : Option Nat := none
  rejoin : Bool := false
  brown : Bool := false
deriving DecidableEq, Repr

/-- A housekeeping input of a comb (17_housekeeping.md R527–R544). `hist`: its samples since the restart, newest first,
each raw code with BREAK and TEST; `n` counts them; `switchAt` numbers the first sample after the switch it still settles from; `m` is the
blocker's estimate. -/
structure HkIn where
  raw : Int := 0
  brk : Bool := false
  test : Bool := false
  hist : List (Int × Bool × Bool) := []
  n : Nat := 0
  switchAt : Option Nat := none
  settling : Bool := false
  m : Int := 0
  mSet : Bool := false
  value : Int := 0
  hi : Bool := false
  lo : Bool := false
  brkOut : Bool := false
  testOut : Bool := false
  seq : BitVec 8 := 0
deriving DecidableEq, Repr

/-- Housekeeping of a comb: its inputs, the values and switches of input 14 by block, conversions made, whether it has restarted since
it last stopped, and the number of the last conversion instant served. -/
structure Hk where
  inputs : Tab HkIn := []
  biasVals : Tab Int := []
  biasHi : Tab Bool := []
  biasLo : Tab Bool := []
  convs : BitVec 32 := 0
  running : Bool := false
  lastConv : Option Int := none
deriving DecidableEq, Repr

/-- The report and the pending access of the management port (15_control.md R482–R485). -/
structure Mgt where
  state : Nat := 0
  astat : Nat := 0
  refused : Bool := false
  takeover : Bool := false
  seq : BitVec 8 := 0
  addr : W32 := 0
  data : W32 := 0
  report : BitVec 96 := 0
deriving DecidableEq, Repr

/-- An access that stalls until its domain runs (16_power_reset.md R503). -/
structure Stalled where
  op : Nat
  addr : W32
  data : W32
  domain : Nat
  hive : HiveId
  dest : Nat := 0
deriving DecidableEq, Repr

/-- The chip-wide state. `idPrev` is the identifier before the last change with the start of the first frame built since, if there is one;
`gap` is the time without frame building before the frame that follows, on the present scale, `gapFrom` the steps before its start
and the start itself, where frames were built before; `stepGen` counts the steps. -/
structure Chip where
  plcBank : Bool := false
  plcEpoch : BitVec 16 := 0
  plcArmed : Option (BitVec 40) := none
  plcState : Nat := 0
  idPrev : Option (Option Int × BitVec 12) := none
  gapBack : Bool := false
  commitArmed : Option (BitVec 40) := none
  commitState : Nat := 0
  step : Option StepArm := none
  stepState : Nat := 0
  spineNext : List Int := [0, 0, 0, 0, 0, 0, 0]
  framing : Bool := false
  resumeAt : Option (BitVec 40) := none
  gap : Option (Int × Int) := none
  gapFrom : Option (Nat × Int) := none
  stepGen : Nat := 0
  stepFirst : Bool := false
  phaseStep : Nat := 0
  schemePrev : Option (Int × Nat × Int) := none
  spineNow : List Int := [0, 0, 0, 0, 0, 0, 0]
  spinePrev : List Int := [0, 0, 0, 0, 0, 0, 0]
  spineAt : Int := 0
  spineConst : List Nat := [0, 0, 0, 0, 0, 0, 0]
  deferredTo : Option (BitVec 40) := none
  deferredFrom : BitVec 40 := 0
  refWrites : List (Nat × W32 × Nat) := []
  fpNow : BitVec 16 := 0
  fpPrev : BitVec 16 := 0
  fpStaged : BitVec 16 := 0
  fpValid : Bool := false
  mgt : Mgt := {}
  i2cPtr : Nat := 0
  i2cOut : List (BitVec 8) := []
  i2cCopy : List W32 := []
  i2cStuckSeen : Bool := false
  i2cHeld : Bool := false
  hkCopy : Tab W32 := []
  estop : Bool := false
  estopI2c : Bool := false
  estopDue : Bool := false
  idDefault : Bool := true
  faultExt : Bool := false
  faultExternal : Bool := false
  faultReleased : Nat := 0
  jtagIr : BitVec 8 := 1
  jtagDr : BitVec 66 := 0
  boundary : List Bool := []
  extest : Bool := false
  state : PState := .run
  entering : Option (PState × Nat) := none
  lastCmd : Nat := 0
  keepMs : Nat := 0
  throttle : Nat := 0
  removed : List Nat := []
  overBudget : Bool := false
  throttleEp : Bool := false
  railsLow : List Rail := []
  vlaneLow : Bool := false
  vbiasLow : Bool := false
  held : Bool := false
  cause : Nat := 0
  causeLane : Nat := 0
  chipResets : Nat := 0
  softAt : Option (Nat × Nat × Nat) := none
  started : Bool := false
  startTick : Nat := 0
  startUs : Nat := 0
  straps : BitVec 3 := 0
  obeyedB : Bool := false
deriving DecidableEq, Repr

/-- What an access path holds for itself (15_control.md R477): the value and outcome of its last access, the read
holding register with its tag, the write holding register with its tag, and the regression result it has snapshotted. What
a register of a page shows on one path only (a selection, a snapshot half, a result) is in `sels`. -/
structure PathSt where
  rdata : W32 := 0
  astat : Nat := 0
  rTag : Option Nat := none
  rHold : W64 := 0
  wTag : Option Nat := none
  wHold : W32 := 0
  rgSnap : Option (Nat × RgResult × Nat) := none
deriving DecidableEq, Repr

/-- The state of the block. `regs` holds the registers that store a value, by the key of their address and window index
(an unlisted register has its reset value); `staged` is the staged set (15_control.md R478); `upsets` are the bits by
which a copy of a triplicated comb register differs (14_redundancy_faults.md R450). `tick` counts spine ticks;
`freeCtr` is the model's own (log entry 1). -/
structure State where
  pending : List Instr := []
  tick : Nat := 0
  freeCtr : Nat := 0
  regs : Tab W32 := []
  staged : Tab W32 := []
  upsets : List (Nat × Nat × W32) := []
  sels : Tab W32 := []
  paths : Tab PathSt := []
  stalls : Tab Stalled := []
  hiveA : Hive := {}
  hiveB : Hive := {}
  cells : Tab Cell := []
  cals : Tab ItpCal := []
  blocks : Tab Block := []
  combs : Tab Comb := []
  lanes : Tab Lane := []
  workers : Tab Worker := []
  regions : Tab Region := []
  domains : Tab Domain := []
  hks : Tab Hk := []
  chip : Chip := {}
deriving DecidableEq, Repr

/-- The machine stops with a fault: no command of this block does; every effect the spec gives is a next state. -/
inductive Fault where
  /-- Kept for an access to an address the spec says does not exist outside every register map; raised by no
  meaning, because such an access is answered UNMAPPED (15_control.md R472). Safe. -/
  | noAddress
deriving DecidableEq, Repr

/-- The machine refuses a command. -/
inductive Refusal where
  /-- A command without its meaning yet; raised by a refused arm of `exec`. Safe. -/
  | notModelled (mnemonic : String)
deriving DecidableEq, Repr

/-- The state right after a power-on reset, before start-up has run (16_power_reset.md R516, R522). -/
def State.reset : State :=
  let hiveA : Hive := { dup := { claim0 := 2, claim1 := 2, claim2 := 2, former := 2 } }
  { hiveA := hiveA }

end Sys2Proof.Machine
end

