-- ==== Sys2Proof/Machine/Ops.lean ====
section
/-! DEFINITION. The shared operations: sparse tables, byte memories, numbers, access to the parts of the state, and
the one way a command's meaning answers. -/

namespace Sys2Proof.Machine

/-! ### Sparse tables -/

/-- The entry of a key, if the table lists it. -/
def tfind {α : Type} : Tab α → Nat → Option α
  | [], _ => none
  | (k, v) :: t, q => if k = q then some v else tfind t q

/-- The value of a key; an unlisted key has the default `d`. -/
def tget {α : Type} (d : α) (t : Tab α) (q : Nat) : α := (tfind t q).getD d

/-- The table without a key. -/
def terase {α : Type} (t : Tab α) (q : Nat) : Tab α := t.filter (fun e => e.1 != q)

/-- The table with a key's entry put in order. -/
def tput {α : Type} : Tab α → Nat → α → Tab α
  | [], q, v => [(q, v)]
  | (k, w) :: t, q, v => if q < k then (q, v) :: (k, w) :: t else if q = k then (q, v) :: t else (k, w) :: tput t q v

/-- The table with a key set; a value equal to the default leaves no entry. -/
def tset {α : Type} [DecidableEq α] (d : α) (t : Tab α) (q : Nat) (v : α) : Tab α :=
  if v = d then terase t q else tput t q v

/-- A table in canonical form: keys rise and no entry has the default value. -/
def Tab.wf {α : Type} [DecidableEq α] (d : α) (t : Tab α) : Bool :=
  decide (t.Pairwise (fun a b => a.1 < b.1)) && t.all (fun e => decide (e.2 ≠ d))

/-! ### Byte memories -/

/-- A byte; an unlisted address reads 0 (log entry 4). -/
def Memory.get (m : Memory) (a : Nat) : BitVec 8 := tget 0 m a

/-- A memory with one byte written. -/
def Memory.set (m : Memory) (a : Nat) (v : BitVec 8) : Memory := tset 0 m a v

/-- A memory in canonical form: addresses rise and no listed byte is 0. -/
def Memory.wf (m : Memory) : Bool := Tab.wf (α := BitVec 8) 0 m

/-- The number in `n` bytes from `a`, the byte at the lowest address least significant (12_workers.md R382,
13_memory.md R410). -/
def Memory.getN (m : Memory) (a : Nat) : Nat → Nat
  | 0 => 0
  | n + 1 => (m.get a).toNat + 256 * Memory.getN m (a + 1) n

/-- A memory with `n` bytes from `a` holding the number `x`. -/
def Memory.setN (m : Memory) (a : Nat) : Nat → Nat → Memory
  | 0, _ => m
  | n + 1, x => Memory.setN (m.set a (BitVec.ofNat 8 x)) (a + 1) n (x / 256)

/-! ### Numbers -/

/-- A counter of `w` bits that stays at its greatest value. -/
def satAdd (w : Nat) (x n : Nat) : Nat := min (x + n) (2 ^ w - 1)

/-- A 32-bit count that stays at its greatest value. -/
def satInc (x : W32) (n : Nat) : W32 := BitVec.ofNat 32 (satAdd 32 x.toNat n)

/-- The word of a number. -/
abbrev w32 (n : Nat) : W32 := BitVec.ofNat 32 n

/-- The word of a signed number. -/
abbrev w32i (i : Int) : W32 := BitVec.ofInt 32 i

/-- The field `[hi:lo]` of a register word. -/
abbrev fld (x : W32) (hi lo : Nat) : Nat := fieldN x.toNat hi lo

/-- A bit of a register word. -/
abbrev bit (x : W32) (n : Nat) : Bool := x.toNat.testBit n

/-- 1 for true, shifted. -/
abbrev bitAt (b : Bool) (n : Nat) : Nat := if b then 2 ^ n else 0

/-- An integer limited to `[lo, hi]`. -/
def clampI (lo hi x : Int) : Int := max lo (min hi x)

/-- The signed difference of two short times (00_scope.md R9). -/
def shortDiff (a b : BitVec 32) : Int := (a - b).toInt

/-- The nearest integer of `a / b` (`b` positive), ties away from zero. -/
def divNearAway (a : Int) (b : Nat) : Int :=
  if a ≥ 0 then (2 * a + b) / (2 * b) else - ((2 * (-a) + b) / (2 * b))

/-- The nearest integer of `a / b` (`b` positive), ties to the even one. -/
def divNearEven (a : Int) (b : Nat) : Int :=
  let q := a.fdiv b
  let r := a - q * b
  if 2 * r > b then q + 1 else if 2 * r < b then q else if q % 2 = 0 then q else q + 1

/-- The list with element `n` replaced by its image. -/
def lmod {α : Type} : List α → Nat → (α → α) → List α
  | [], _, _ => []
  | x :: t, 0, f => f x :: t
  | x :: t, n + 1, f => x :: lmod t n f

/-- The list with element `n` replaced. -/
def lset {α : Type} (l : List α) (n : Nat) (v : α) : List α := lmod l n (fun _ => v)

/-- Element `n` of a list, or the default. -/
def lget {α : Type} (d : α) (l : List α) (n : Nat) : α := l.getD n d

/-- The state after an action for each number below `n`, in rising order. -/
def forN {σ : Type} (n : Nat) (f : Nat → σ → σ) (s : σ) : σ := (List.range n).foldl (fun t i => f i t) s

/-- The state after an action for each element of a list, in order. -/
def forL {α σ : Type} (l : List α) (f : α → σ → σ) (s : σ) : σ := l.foldl (fun t x => f x t) s

/-! ### Parts of the state -/

/-- The other hive. -/
def otherHive : HiveId → HiveId
  | .a => .b
  | .b => .a

/-- A hive's region code (00_scope.md R16). -/
def hiveRegion : HiveId → Nat
  | .a => 8
  | .b => 9

/-- The guard and domain number of a hive: the combs are 0–5. -/
def hiveDom : HiveId → Nat
  | .a => 6
  | .b => 7

def State.hive (s : State) : HiveId → Hive
  | .a => s.hiveA
  | .b => s.hiveB

def State.setHive (s : State) (h : HiveId) (x : Hive) : State :=
  match h with
  | .a => { s with hiveA := x }
  | .b => { s with hiveB := x }

def State.modHive (s : State) (h : HiveId) (f : Hive → Hive) : State := s.setHive h (f (s.hive h))

def State.cell (s : State) (c : Nat) : Cell := tget {} s.cells c
def State.setCell (s : State) (c : Nat) (x : Cell) : State := { s with cells := tset {} s.cells c x }
def State.modCell (s : State) (c : Nat) (f : Cell → Cell) : State := s.setCell c (f (s.cell c))

/-- Calibration of an interpolator, numbered cell × 4 + interpolator. -/
def State.cal (s : State) (i : Nat) : ItpCal := tget {} s.cals i
def State.setCal (s : State) (i : Nat) (x : ItpCal) : State := { s with cals := tset {} s.cals i x }
def State.modCal (s : State) (i : Nat) (f : ItpCal → ItpCal) : State := s.setCal i (f (s.cal i))

def State.block (s : State) (b : Nat) : Block := tget {} s.blocks b
def State.setBlock (s : State) (b : Nat) (x : Block) : State := { s with blocks := tset {} s.blocks b x }
def State.modBlock (s : State) (b : Nat) (f : Block → Block) : State := s.setBlock b (f (s.block b))

def State.comb (s : State) (c : Nat) : Comb := tget {} s.combs c
def State.setComb (s : State) (c : Nat) (x : Comb) : State := { s with combs := tset {} s.combs c x }
def State.modComb (s : State) (c : Nat) (f : Comb → Comb) : State := s.setComb c (f (s.comb c))

def State.lane (s : State) (l : Nat) : Lane := tget {} s.lanes l
def State.setLane (s : State) (l : Nat) (x : Lane) : State := { s with lanes := tset {} s.lanes l x }
def State.modLane (s : State) (l : Nat) (f : Lane → Lane) : State := s.setLane l (f (s.lane l))

def State.worker (s : State) (w : Nat) : Worker := tget {} s.workers w
def State.setWorker (s : State) (w : Nat) (x : Worker) : State := { s with workers := tset {} s.workers w x }
def State.modWorker (s : State) (w : Nat) (f : Worker → Worker) : State := s.setWorker w (f (s.worker w))

/-- Guard sources and leases of a region: combs 0–5, hives 6 and 7. -/
def State.region (s : State) (g : Nat) : Region := tget {} s.regions g
def State.setRegion (s : State) (g : Nat) (x : Region) : State := { s with regions := tset {} s.regions g x }
def State.modRegion (s : State) (g : Nat) (f : Region → Region) : State := s.setRegion g (f (s.region g))

def State.domain (s : State) (d : Nat) : Domain := tget {} s.domains d
def State.setDomain (s : State) (d : Nat) (x : Domain) : State := { s with domains := tset {} s.domains d x }
def State.modDomain (s : State) (d : Nat) (f : Domain → Domain) : State := s.setDomain d (f (s.domain d))

def State.hk (s : State) (c : Nat) : Hk := tget {} s.hks c
def State.setHk (s : State) (c : Nat) (x : Hk) : State := { s with hks := tset {} s.hks c x }
def State.modHk (s : State) (c : Nat) (f : Hk → Hk) : State := s.setHk c (f (s.hk c))

def State.modChip (s : State) (f : Chip → Chip) : State := { s with chip := f s.chip }

/-- The number of an access path: lanes 0–19, the management port 32, JTAG 33, start-up 34, workers from 64
(15_control.md R476). -/
def pathNo : Path → Nat
  | .lane n => n.val
  | .mgmt => 32
  | .jtag => 33
  | .startup => 34
  | .worker n => 64 + n.val

def State.path (s : State) (p : Path) : PathSt := tget {} s.paths (pathNo p)
def State.setPath (s : State) (p : Path) (x : PathSt) : State := { s with paths := tset {} s.paths (pathNo p) x }
def State.modPath (s : State) (p : Path) (f : PathSt → PathSt) : State := s.setPath p (f (s.path p))

/-- A free value and the state after it (log entry 1). -/
def State.free (s : State) : W64 × State := (Config.freeValue s.freeCtr, { s with freeCtr := s.freeCtr + 1 })

/-- How every meaning answers: its state, with the queue as it was. -/
def done (s t : State) : Host.Outcome State Fault Refusal := .next { t with pending := s.pending }

/-! ### Majority (14_redundancy_faults.md R450) -/

/-- The bitwise majority of three words. -/
def maj {w : Nat} (a b c : BitVec w) : BitVec w := (a &&& b) ||| (a &&& c) ||| (b &&& c)

/-- The claim a hive holds: the majority of its copies (R439, R450). -/
def Duplex.claim (d : Duplex) : BitVec 16 := maj d.claim0 d.claim1 d.claim2

/-- The claim a hive presents to the output stages (R439, R446): 0 in reset or powered off, the former one while a takeover
is pending. -/
def presented (s : State) (h : HiveId) : Nat :=
  let d := (s.hive h).dup
  let m := s.domain (hiveDom h)
  if m.inReset || m.state = .off then 0 else if d.pendingTake then d.former.toNat else d.claim.toNat

/-- The hive whose claim is higher; equal claims count HIVE_A as the higher (14_redundancy_faults.md R439). -/
def higherClaim (s : State) : HiveId := if presented s .a ≥ presented s .b then .a else .b

/-- The hive an access names (01_device_overview.md R23). -/
def hiveOf (s : State) : HiveRef → HiveId
  | .hiveA => .a
  | .hiveB => .b
  | .active => higherClaim s

end Sys2Proof.Machine
end

