-- ==== Sys2Proof/Machine/Regs.lean ====
section
/-! DEFINITION. The registers: their offsets within a page and, for each page group, their access code, reset value and
defined bits, from the register tables of the chapters. -/

namespace Sys2Proof.Machine

/-- The access codes (00_scope.md R10). -/
inductive Acc where
  | rw | ro | wo | w1c | rc | st
deriving DecidableEq, Repr

/-- A register of a page: offset, access code, reset value, bits that are not reserved, the selection register of its
window, and the register whose value in force it shows (R12). -/
structure RegDesc where
  off : Nat
  acc : Acc
  reset : Nat
  bits : Nat
  sel : Option Nat := none
  now : Option Nat := none
deriving DecidableEq, Repr

/-! ### Offsets -/

/-! block: 03_cells.md R117, 04_interpolators.md R146, 05_blocks_regions.md R182, 06_trigger.md R221 -/

abbrev Reg.CELL_SEL : Nat := 0x100
abbrev Reg.CELL_CFG : Nat := 0x104
abbrev Reg.CELL_TH01 : Nat := 0x108
abbrev Reg.CELL_TH23 : Nat := 0x10C
abbrev Reg.CELL_SKEW : Nat := 0x110
abbrev Reg.CELL_NOW_CFG : Nat := 0x114
abbrev Reg.CELL_NOW_TH01 : Nat := 0x118
abbrev Reg.CELL_NOW_TH23 : Nat := 0x11C
abbrev Reg.CELL_NOW_SKEW : Nat := 0x120
abbrev Reg.CELL_MUTE_NOW : Nat := 0x124
abbrev Reg.CELL_DROP_MASK : Nat := 0x128
abbrev Reg.CELL_COARSE_CNT : Nat := 0x12C
abbrev Reg.CELL_DROP_CNT : Nat := 0x130
abbrev Reg.CELL_LONG_CNT : Nat := 0x134
abbrev Reg.CELL_CM_COARSE_CNT : Nat := 0x138
abbrev Reg.CELL_CAL_YIELD_CNT : Nat := 0x13C
abbrev Reg.INJ_CTL : Nat := 0x140
abbrev Reg.INJ_STATUS : Nat := 0x144
abbrev Reg.INJ_JUMP : Nat := 0x148
abbrev Reg.INJ_CAL_WIN : Nat := 0x14C
abbrev Reg.INJ_EVENTS : Nat := 0x150
abbrev Reg.INJ_SEG_SEL : Nat := 0x154
abbrev Reg.INJ_SEG_A : Nat := 0x158
abbrev Reg.INJ_SEG_B : Nat := 0x15C
abbrev Reg.INJ_SEG_C : Nat := 0x160
abbrev Reg.BIAS_TARGET : Nat := 0x180
abbrev Reg.BIAS_SLEW : Nat := 0x184
abbrev Reg.BIAS_NOW : Nat := 0x188
abbrev Reg.BIAS_STATUS : Nat := 0x18C
abbrev Reg.BIAS_EVENTS : Nat := 0x190
abbrev Reg.CAL_CTL : Nat := 0x200
abbrev Reg.CAL_STATUS : Nat := 0x204
abbrev Reg.CAL_EVENTS : Nat := 0x208
abbrev Reg.CAL_DRIFT_CNT : Nat := 0x20C
abbrev Reg.CAL_SWAP_CNT : Nat := 0x210
abbrev Reg.CAL_LAST_ALARM : Nat := 0x214
abbrev Reg.CAL_INJ_DLY : Nat := 0x218
abbrev Reg.TDC_SEL : Nat := 0x220
abbrev Reg.TDC_ENTRY : Nat := 0x224
abbrev Reg.TDC_HIST : Nat := 0x228
abbrev Reg.TDC_LOAD : Nat := 0x22C
abbrev Reg.TDC_TRIM : Nat := 0x230
abbrev Reg.TDC_CLAMP_CNT : Nat := 0x234
abbrev Reg.TDC_FILL : Nat := 0x238
abbrev Reg.BLK_CTL : Nat := 0x040
abbrev Reg.BLK_STATUS : Nat := 0x044
abbrev Reg.BLK_EVENTS : Nat := 0x048
abbrev Reg.BLK_FILL_MAX : Nat := 0x04C
abbrev Reg.BLK_OVERRUN_CNT : Nat := 0x050
abbrev Reg.BLK_RESET_CNT : Nat := 0x054
abbrev Reg.BLK_POISON_CNT : Nat := 0x058
abbrev Reg.BLK_CUT_CNT : Nat := 0x05C
abbrev Reg.BLK_LAST_COUNT : Nat := 0x060
abbrev Reg.BLK_LAST_FRAME_LO : Nat := 0x064
abbrev Reg.BLK_LAST_FRAME_HI : Nat := 0x068
abbrev Reg.BLK_DRAIN_LAST : Nat := 0x06C
abbrev Reg.BLK_DRAIN_MAX : Nat := 0x070
abbrev Reg.TRG_BLK_CFG : Nat := 0x300
abbrev Reg.TRG_BLK_STREAM : Nat := 0x304
abbrev Reg.TRG_BLK_CFG_NOW : Nat := 0x308
abbrev Reg.TRG_BLK_STREAM_NOW : Nat := 0x30C

/-! region: 05_blocks_regions.md R184 -/

abbrev Reg.REG_CTL : Nat := 0x040
abbrev Reg.REG_STATUS : Nat := 0x044
abbrev Reg.REG_EVENTS : Nat := 0x048
abbrev Reg.REG_CREDIT_A : Nat := 0x04C
abbrev Reg.REG_CREDIT_B : Nat := 0x050
abbrev Reg.REG_RETRY_A : Nat := 0x054
abbrev Reg.REG_RETRY_B : Nat := 0x058
abbrev Reg.REG_DRAIN_LAST : Nat := 0x05C
abbrev Reg.REG_DRAIN_MAX : Nat := 0x060
abbrev Reg.REG_STALL_CNT : Nat := 0x064
abbrev Reg.MRG_STATUS : Nat := 0x080
abbrev Reg.MRG_EVENTS : Nat := 0x084
abbrev Reg.MRG_DISORDER_CNT : Nat := 0x088
abbrev Reg.MRG_LENGTH_CNT : Nat := 0x08C
abbrev Reg.MRG_MAX_LAG : Nat := 0x090

/-! worker: 12_workers.md R405 -/

abbrev Reg.WRK_CTL : Nat := 0x040
abbrev Reg.WRK_STATUS : Nat := 0x044
abbrev Reg.WRK_EVENTS : Nat := 0x048
abbrev Reg.WRK_PC : Nat := 0x04C
abbrev Reg.WRK_FAULT_ADDR : Nat := 0x050
abbrev Reg.WRK_JOB_TAG : Nat := 0x054
abbrev Reg.WRK_LOST_TAG : Nat := 0x058
abbrev Reg.WRK_JOB_CNT : Nat := 0x05C
abbrev Reg.WRK_JOB_LOST_CNT : Nat := 0x060
abbrev Reg.WRK_KERNEL_MISS_CNT : Nat := 0x064
abbrev Reg.WRK_ECC_CNT : Nat := 0x068
abbrev Reg.WRK_TIMER : Nat := 0x06C
abbrev Reg.WRK_DOORBELL : Nat := 0x070
abbrev Reg.WRK_CLK : Nat := 0x074
abbrev Reg.WRK_FW_LIMIT : Nat := 0x078
abbrev Reg.WRK_FW_DLIMIT : Nat := 0x07C
abbrev Reg.WRK_MEM_SEL : Nat := 0x080
abbrev Reg.WRK_MEM_DATA : Nat := 0x084
abbrev Reg.WRK_KT_SEL : Nat := 0x088
abbrev Reg.WRK_KTAB : Nat := 0x08C
abbrev Reg.WRK_DBG_SEL : Nat := 0x090
abbrev Reg.WRK_DBG_DATA : Nat := 0x094
abbrev Reg.WRK_BP_0 : Nat := 0x098
abbrev Reg.WRK_BP_1 : Nat := 0x09C
abbrev Reg.WRK_BP_2 : Nat := 0x0A0
abbrev Reg.WRK_BP_3 : Nat := 0x0A4
abbrev Reg.WRK_CACHE_CTL : Nat := 0x0A8

/-! lease: 12_workers.md R407 -/

abbrev Reg.LSE_SEL : Nat := 0x040
abbrev Reg.LSE_STATE : Nat := 0x044
abbrev Reg.LSE_REMAIN : Nat := 0x048
abbrev Reg.LSE_CTL : Nat := 0x04C
abbrev Reg.LSE_HOST_RESULT : Nat := 0x050
abbrev Reg.LSE_FORCE : Nat := 0x054
abbrev Reg.LSE_EVENTS : Nat := 0x058
abbrev Reg.LSE_REVOKE_CNT : Nat := 0x05C
abbrev Reg.LSE_FORCE_CNT : Nat := 0x060

/-! guard: 14_redundancy_faults.md R470 -/

abbrev Reg.GRD_CTL : Nat := 0x040
abbrev Reg.GRD_STATUS : Nat := 0x044
abbrev Reg.GRD_EVENTS : Nat := 0x048
abbrev Reg.GRD_GRACE : Nat := 0x04C
abbrev Reg.GRD_ACK : Nat := 0x050
abbrev Reg.GRD_REC_0 : Nat := 0x054
abbrev Reg.GRD_REC_1 : Nat := 0x058
abbrev Reg.GRD_REC_TIME : Nat := 0x05C
abbrev Reg.GRD_SRC_SEL : Nat := 0x060
abbrev Reg.GRD_SRC_CFG : Nat := 0x064
abbrev Reg.GRD_SRC_STATUS : Nat := 0x068
abbrev Reg.GRD_SRC_CNT : Nat := 0x06C
abbrev Reg.GRD_VOTE_CNT : Nat := 0x070
abbrev Reg.GRD_LOG_COUNT : Nat := 0x074
abbrev Reg.GRD_LOG_POP : Nat := 0x078
abbrev Reg.GRD_LOG_REC1 : Nat := 0x07C
abbrev Reg.GRD_LOG_TIME : Nat := 0x080
abbrev Reg.GRD_PERTURB_KEY : Nat := 0x090
abbrev Reg.GRD_PERTURB_CTL : Nat := 0x094

/-! housekeeping: 17_housekeeping.md R543 -/

abbrev Reg.HK_CTL : Nat := 0x040
abbrev Reg.HK_CM_WIN : Nat := 0x044
abbrev Reg.HK_TDAC : Nat := 0x048
abbrev Reg.HK_ALARM : Nat := 0x04C
abbrev Reg.HK_BREAK : Nat := 0x050
abbrev Reg.HK_EVENTS : Nat := 0x054
abbrev Reg.HK_CONV_CNT : Nat := 0x058
abbrev Reg.HK_SEL : Nat := 0x060
abbrev Reg.HK_CFG : Nat := 0x064
abbrev Reg.HK_OFFSET : Nat := 0x068
abbrev Reg.HK_GAIN : Nat := 0x06C
abbrev Reg.HK_THR_HI : Nat := 0x070
abbrev Reg.HK_THR_LO : Nat := 0x074
abbrev Reg.HK_HYST : Nat := 0x078
abbrev Reg.HK_VALUE : Nat := 0x07C
abbrev Reg.HK_RAW : Nat := 0x080
abbrev Reg.HK_IN_STATUS : Nat := 0x084
abbrev Reg.HK_BIAS_SEL : Nat := 0x088

/-! TIM: 02_timebase.md R75 -/

abbrev Reg.TIM_NOW_0 : Nat := 0x040
abbrev Reg.TIM_NOW_1 : Nat := 0x044
abbrev Reg.TIM_NOW_2 : Nat := 0x048
abbrev Reg.TIM_STATUS : Nat := 0x04C
abbrev Reg.TIM_FRAME_NOW_LO : Nat := 0x050
abbrev Reg.TIM_FRAME_NOW_HI : Nat := 0x054
abbrev Reg.TIM_EVENTS : Nat := 0x058
abbrev Reg.TIM_VOTE_ERR : Nat := 0x05C
abbrev Reg.TIM_FRAME_K : Nat := 0x060
abbrev Reg.TIM_EPOCH_SEC_LO : Nat := 0x064
abbrev Reg.TIM_EPOCH_SEC_HI : Nat := 0x068
abbrev Reg.TIM_EPOCH_NSEC : Nat := 0x06C
abbrev Reg.TIM_FRAME_K_NOW : Nat := 0x070
abbrev Reg.TIM_EPOCH_SEC_LO_NOW : Nat := 0x074
abbrev Reg.TIM_EPOCH_SEC_HI_NOW : Nat := 0x078
abbrev Reg.TIM_EPOCH_NSEC_NOW : Nat := 0x07C
abbrev Reg.TIM_FREQ_WORD_LO : Nat := 0x080
abbrev Reg.TIM_FREQ_WORD_HI : Nat := 0x084
abbrev Reg.TIM_DPLL_STATUS : Nat := 0x088
abbrev Reg.TIM_HOLD_AVG : Nat := 0x08C
abbrev Reg.TIM_HOLD_SEC : Nat := 0x090
abbrev Reg.TIM_LOCK : Nat := 0x094
abbrev Reg.TIM_OUT_CTL : Nat := 0x098
abbrev Reg.TIM_OUT_DLY : Nat := 0x09C
abbrev Reg.TIM_UTC_OFFSET : Nat := 0x0A0
abbrev Reg.TIM_UTC_NEXT_SEC_LO : Nat := 0x0A4
abbrev Reg.TIM_UTC_NEXT_SEC_HI : Nat := 0x0A8
abbrev Reg.TIM_UTC_NEXT_OFFSET : Nat := 0x0AC
abbrev Reg.TIM_STEP_CTL : Nat := 0x0B0
abbrev Reg.TIM_STEP_FRAME_LO : Nat := 0x0B4
abbrev Reg.TIM_STEP_FRAME_HI : Nat := 0x0B8
abbrev Reg.TIM_STEP_SEC_LO : Nat := 0x0BC
abbrev Reg.TIM_STEP_SEC_HI : Nat := 0x0C0
abbrev Reg.TIM_STEP_NSEC : Nat := 0x0C4
abbrev Reg.TIM_STEP_FRAC : Nat := 0x0C8
abbrev Reg.TIM_STEP_STATUS : Nat := 0x0CC
abbrev Reg.TIM_STEP_DISCARD : Nat := 0x0D0
abbrev Reg.TIM_SPINE_DLY_0 : Nat := 0x0E0
abbrev Reg.TIM_SPINE_DLY_1 : Nat := 0x0E4
abbrev Reg.TIM_SPINE_DLY_2 : Nat := 0x0E8
abbrev Reg.TIM_SPINE_DLY_3 : Nat := 0x0EC
abbrev Reg.TIM_SPINE_DLY_4 : Nat := 0x0F0
abbrev Reg.TIM_SPINE_DLY_5 : Nat := 0x0F4
abbrev Reg.TIM_SPINE_DLY_PEER : Nat := 0x0F8

/-! REF: 02_timebase.md R80 -/

abbrev Reg.REF_CTL : Nat := 0x040
abbrev Reg.REF_FTOL : Nat := 0x044
abbrev Reg.REF_PTOL : Nat := 0x048
abbrev Reg.REF_QUAL_TIME : Nat := 0x04C
abbrev Reg.REF_REVERT_HOLD : Nat := 0x050
abbrev Reg.REF_SEL : Nat := 0x054
abbrev Reg.REF_CAND_0_CFG : Nat := 0x060
abbrev Reg.REF_CAND_1_CFG : Nat := 0x070
abbrev Reg.REF_CAND_2_CFG : Nat := 0x080
abbrev Reg.REF_CAND_3_CFG : Nat := 0x090
abbrev Reg.REF_CAND_0_STATE : Nat := 0x064
abbrev Reg.REF_CAND_1_STATE : Nat := 0x074
abbrev Reg.REF_CAND_2_STATE : Nat := 0x084
abbrev Reg.REF_CAND_3_STATE : Nat := 0x094
abbrev Reg.REF_CAND_0_FREQ : Nat := 0x068
abbrev Reg.REF_CAND_1_FREQ : Nat := 0x078
abbrev Reg.REF_CAND_2_FREQ : Nat := 0x088
abbrev Reg.REF_CAND_3_FREQ : Nat := 0x098
abbrev Reg.REF_CAND_0_PHASE : Nat := 0x06C
abbrev Reg.REF_CAND_1_PHASE : Nat := 0x07C
abbrev Reg.REF_CAND_2_PHASE : Nat := 0x08C
abbrev Reg.REF_CAND_3_PHASE : Nat := 0x09C

/-! CAL_RG: 04_interpolators.md R148 -/

abbrev Reg.CAL_RG_SEL : Nat := 0x040
abbrev Reg.CAL_RG_CFG : Nat := 0x044
abbrev Reg.CAL_RG_NOM_LO : Nat := 0x048
abbrev Reg.CAL_RG_NOM_HI : Nat := 0x04C
abbrev Reg.CAL_RG_GATE : Nat := 0x050
abbrev Reg.CAL_RG_LEN : Nat := 0x054
abbrev Reg.CAL_RG_FRAME_LO : Nat := 0x058
abbrev Reg.CAL_RG_FRAME_HI : Nat := 0x05C
abbrev Reg.CAL_RG_CTL : Nat := 0x060
abbrev Reg.CAL_RG_STATUS : Nat := 0x064
abbrev Reg.CAL_RG_K : Nat := 0x068
abbrev Reg.CAL_RG_FREQ_LO : Nat := 0x06C
abbrev Reg.CAL_RG_FREQ_HI : Nat := 0x070
abbrev Reg.CAL_RG_PHASE_LO : Nat := 0x074
abbrev Reg.CAL_RG_PHASE_HI : Nat := 0x078
abbrev Reg.CAL_RG_RMS : Nat := 0x07C
abbrev Reg.CAL_RG_CENTRE_0 : Nat := 0x080
abbrev Reg.CAL_RG_CENTRE_1 : Nat := 0x084
abbrev Reg.CAL_RG_CENTRE_2 : Nat := 0x088
abbrev Reg.CAL_RG_SUM_SEL : Nat := 0x08C
abbrev Reg.CAL_RG_SUM_0 : Nat := 0x090
abbrev Reg.CAL_RG_SUM_1 : Nat := 0x094
abbrev Reg.CAL_RG_SUM_2 : Nat := 0x098
abbrev Reg.CAL_RG_SUM_3 : Nat := 0x09C
abbrev Reg.CAL_RG_EVENTS : Nat := 0x0A0

/-! TRG: 06_trigger.md R219 -/

abbrev Reg.TRG_CTL : Nat := 0x040
abbrev Reg.TRG_CTL_NOW : Nat := 0x044
abbrev Reg.TRG_STATUS : Nat := 0x048
abbrev Reg.TRG_EVENTS : Nat := 0x04C
abbrev Reg.TRG_REFUSED_CNT : Nat := 0x050
abbrev Reg.TRG_PRIM_ERR_CNT : Nat := 0x054
abbrev Reg.TRG_PEND_MAX : Nat := 0x058
abbrev Reg.TRG_EXT_LOST_CNT : Nat := 0x05C
abbrev Reg.TRG_LINE_SEL : Nat := 0x060
abbrev Reg.TRG_LINE_CFG : Nat := 0x064
abbrev Reg.TRG_LINE_THR : Nat := 0x068
abbrev Reg.TRG_LINE_PS : Nat := 0x06C
abbrev Reg.TRG_LINE_WIN : Nat := 0x070
abbrev Reg.TRG_LINE_CFG_NOW : Nat := 0x074
abbrev Reg.TRG_LINE_THR_NOW : Nat := 0x078
abbrev Reg.TRG_LINE_PS_NOW : Nat := 0x07C
abbrev Reg.TRG_LINE_WIN_NOW : Nat := 0x080
abbrev Reg.TRG_LINE_FIRE_CNT : Nat := 0x084
abbrev Reg.TRG_LINE_TAKE_CNT : Nat := 0x088
abbrev Reg.TRG_HOST_TIME : Nat := 0x090
abbrev Reg.TRG_HOST_CTL : Nat := 0x094
abbrev Reg.TRG_HOST_STATUS : Nat := 0x098

/-! SWM: 06_trigger.md R222 -/

abbrev Reg.SWM_CTL : Nat := 0x040
abbrev Reg.SWM_WIN : Nat := 0x044
abbrev Reg.SWM_DEADLINE : Nat := 0x048
abbrev Reg.SWM_MULT_MIN : Nat := 0x04C
abbrev Reg.SWM_CTL_NOW : Nat := 0x050
abbrev Reg.SWM_WIN_NOW : Nat := 0x054
abbrev Reg.SWM_DEADLINE_NOW : Nat := 0x058
abbrev Reg.SWM_MULT_MIN_NOW : Nat := 0x05C
abbrev Reg.SWM_STATUS : Nat := 0x060
abbrev Reg.SWM_EVENTS : Nat := 0x064
abbrev Reg.SWM_RX_CNT : Nat := 0x068
abbrev Reg.SWM_DUP_CNT : Nat := 0x06C
abbrev Reg.SWM_UNKNOWN_CNT : Nat := 0x070
abbrev Reg.SWM_DISC_CNT : Nat := 0x074
abbrev Reg.SWM_EXCL_CNT : Nat := 0x078
abbrev Reg.SWM_LATE_CNT : Nat := 0x07C
abbrev Reg.SWM_TX_DROP_CNT : Nat := 0x080
abbrev Reg.SWM_COINC_CNT : Nat := 0x084
abbrev Reg.SWM_NOCOINC_CNT : Nat := 0x088
abbrev Reg.SWM_UNSYNC_CNT : Nat := 0x08C
abbrev Reg.SWM_PEER_0_CFG : Nat := 0x0C0
abbrev Reg.SWM_PEER_1_CFG : Nat := 0x0C4
abbrev Reg.SWM_PEER_2_CFG : Nat := 0x0C8
abbrev Reg.SWM_PEER_3_CFG : Nat := 0x0CC
abbrev Reg.SWM_ORG_SEL : Nat := 0x100
abbrev Reg.SWM_ORG_CFG : Nat := 0x104
abbrev Reg.SWM_ORG_OFFSET : Nat := 0x108
abbrev Reg.SWM_ORG_CFG_NOW : Nat := 0x10C
abbrev Reg.SWM_ORG_OFFSET_NOW : Nat := 0x110
abbrev Reg.SWM_ORG_STATE : Nat := 0x114
abbrev Reg.SWM_ORG_LAST : Nat := 0x118

/-! FRM: 07_frames_compression.md R255 -/

abbrev Reg.FRM_CTL : Nat := 0x040
abbrev Reg.FRM_CTL_NOW : Nat := 0x044
abbrev Reg.FRM_STATUS : Nat := 0x048
abbrev Reg.FRM_EVENTS : Nat := 0x04C
abbrev Reg.FRM_LAST_LO : Nat := 0x050
abbrev Reg.FRM_LAST_HI : Nat := 0x054
abbrev Reg.FRM_LAST_RECORDS : Nat := 0x058
abbrev Reg.FRM_SORT_MAX : Nat := 0x05C
abbrev Reg.FRM_ORDER_CNT : Nat := 0x060
abbrev Reg.FRM_UNLISTED_CNT : Nat := 0x064
abbrev Reg.FRM_LOST_CNT : Nat := 0x068
abbrev Reg.FRM_STALL_CNT : Nat := 0x06C
abbrev Reg.FRM_DRAIN_MAX : Nat := 0x070

/-! CMP: 07_frames_compression.md R257 -/

abbrev Reg.CMP_CTL : Nat := 0x040
abbrev Reg.CMP_CTL_NOW : Nat := 0x044
abbrev Reg.CMP_STATUS : Nat := 0x048
abbrev Reg.CMP_EVENTS : Nat := 0x04C
abbrev Reg.CMP_JOB_CNT : Nat := 0x050
abbrev Reg.CMP_RAW_CNT : Nat := 0x054
abbrev Reg.CMP_PAUSE_CNT : Nat := 0x058
abbrev Reg.CMP_POISON_CNT : Nat := 0x05C
abbrev Reg.CMP_REC_TOTAL_LO : Nat := 0x060
abbrev Reg.CMP_REC_TOTAL_HI : Nat := 0x064
abbrev Reg.CMP_WORD_TOTAL_LO : Nat := 0x068
abbrev Reg.CMP_WORD_TOTAL_HI : Nat := 0x06C
abbrev Reg.CMP_TOOBIG_CNT : Nat := 0x070
abbrev Reg.CMP_JOB_SEL : Nat := 0x080
abbrev Reg.CMP_JOB_STATE : Nat := 0x084
abbrev Reg.CMP_JOB_FRAME_LO : Nat := 0x088
abbrev Reg.CMP_JOB_FRAME_HI : Nat := 0x08C
abbrev Reg.CMP_JOB_IN : Nat := 0x090
abbrev Reg.CMP_JOB_OUT : Nat := 0x094
abbrev Reg.CMP_JOB_TOTAL : Nat := 0x098

/-! Q: 08_queues_placement.md R287 -/

abbrev Reg.Q_SEL : Nat := 0x040
abbrev Reg.Q_CFG : Nat := 0x044
abbrev Reg.Q_STATUS : Nat := 0x048
abbrev Reg.Q_COUNT : Nat := 0x04C
abbrev Reg.Q_HEAD : Nat := 0x050
abbrev Reg.Q_TAIL : Nat := 0x054
abbrev Reg.Q_POP_LO : Nat := 0x058
abbrev Reg.Q_POP_HI : Nat := 0x05C
abbrev Reg.Q_RELEASE : Nat := 0x060
abbrev Reg.Q_CTL : Nat := 0x064
abbrev Reg.Q_RESV : Nat := 0x068
abbrev Reg.Q_WDATA_LO : Nat := 0x06C
abbrev Reg.Q_WDATA_HI : Nat := 0x070
abbrev Reg.Q_COMMIT : Nat := 0x074
abbrev Reg.Q_PSTATUS : Nat := 0x078
abbrev Reg.Q_EVENTS : Nat := 0x07C
abbrev Reg.Q_RESET_CNT : Nat := 0x080
abbrev Reg.Q_TMO_CNT : Nat := 0x084
abbrev Reg.Q_NOTICE_LOST : Nat := 0x088
abbrev Reg.Q_OPEN_TMO : Nat := 0x08C

/-! PLC: 08_queues_placement.md R289 -/

abbrev Reg.PLC_CTL : Nat := 0x040
abbrev Reg.PLC_STATUS : Nat := 0x044
abbrev Reg.PLC_EVENTS : Nat := 0x048
abbrev Reg.PLC_TBL_SEL : Nat := 0x04C
abbrev Reg.PLC_TBL : Nat := 0x050
abbrev Reg.PLC_EPOCH_NEXT : Nat := 0x054
abbrev Reg.PLC_SWITCH_FRAME_LO : Nat := 0x058
abbrev Reg.PLC_SWITCH_FRAME_HI : Nat := 0x05C
abbrev Reg.PLC_SWITCH_CTL : Nat := 0x060
abbrev Reg.PLC_SWITCH_STATUS : Nat := 0x064
abbrev Reg.PLC_RCV_SEL : Nat := 0x068
abbrev Reg.PLC_RCV_ID : Nat := 0x06C
abbrev Reg.PLC_RCV_LANES : Nat := 0x070
abbrev Reg.PLC_RCV_CREDIT : Nat := 0x074
abbrev Reg.PLC_RCV_WAIT : Nat := 0x078
abbrev Reg.PLC_RCV_INIT : Nat := 0x07C
abbrev Reg.PLC_LANES_IN : Nat := 0x080
abbrev Reg.PLC_REPLACE_CNT : Nat := 0x084
abbrev Reg.PLC_WAIT_CNT : Nat := 0x088
abbrev Reg.PLC_DUMP_RCV : Nat := 0x08C
abbrev Reg.PLC_JOB_REFUSED_CNT : Nat := 0x090
abbrev Reg.PLC_JOB_WAIT : Nat := 0x094
abbrev Reg.PLC_WRK_MASK_0 : Nat := 0x0A0
abbrev Reg.PLC_WRK_MASK_1 : Nat := 0x0A4
abbrev Reg.PLC_WRK_MASK_2 : Nat := 0x0A8
abbrev Reg.PLC_WRK_MASK_3 : Nat := 0x0AC
abbrev Reg.PLC_WRK_MASK_4 : Nat := 0x0B0
abbrev Reg.PLC_WRK_MASK_5 : Nat := 0x0B4
abbrev Reg.PLC_WRK_MASK_6 : Nat := 0x0B8

/-! LNK control requests: 09_lanes.md R326 -/

abbrev Reg.LNK_REQ_STATUS : Nat := 0x040
abbrev Reg.LNK_REQ_EVENTS : Nat := 0x044
abbrev Reg.LNK_REQ_BUSY_CNT : Nat := 0x048
abbrev Reg.LNK_REQ_STALE_CNT : Nat := 0x04C
abbrev Reg.LNK_REQ_REPLAY_CNT : Nat := 0x050
abbrev Reg.LNK_REQ_DUP_CNT : Nat := 0x054
abbrev Reg.LNK_REQ_BADTAG_CNT : Nat := 0x058
abbrev Reg.LNK_REQ_MALFORMED_CNT : Nat := 0x05C
abbrev Reg.LNK_REQ_RECYCLE_CNT : Nat := 0x060

/-! WAG: 10_time_transfer.md R353 -/

abbrev Reg.WAG_CTL : Nat := 0x040
abbrev Reg.WAG_STEP_THR : Nat := 0x044
abbrev Reg.WAG_STATUS : Nat := 0x048
abbrev Reg.WAG_EVENTS : Nat := 0x04C
abbrev Reg.WAG_KP : Nat := 0x050
abbrev Reg.WAG_KI : Nat := 0x054
abbrev Reg.WAG_INTEG_LO : Nat := 0x058
abbrev Reg.WAG_INTEG_HI : Nat := 0x05C
abbrev Reg.WAG_LAST_E : Nat := 0x060
abbrev Reg.WAG_LAST_N : Nat := 0x064
abbrev Reg.WAG_REFUSED_CNT : Nat := 0x068
abbrev Reg.WAG_EMPTY_CNT : Nat := 0x06C
abbrev Reg.WAG_ROOT_ID : Nat := 0x070
abbrev Reg.WAG_ROOT_NOW : Nat := 0x074
abbrev Reg.WAG_RT_TOL : Nat := 0x078
abbrev Reg.WAG_TS_SEND : Nat := 0x07C
abbrev Reg.WAG_SEL : Nat := 0x080
abbrev Reg.WAG_ASYM : Nat := 0x084
abbrev Reg.WAG_ASYM_NOW : Nat := 0x088
abbrev Reg.WAG_LANE_STATUS : Nat := 0x08C
abbrev Reg.WAG_LANE_ROOT : Nat := 0x090
abbrev Reg.WAG_LANE_RT : Nat := 0x094
abbrev Reg.WAG_LANE_OFFSET : Nat := 0x098
abbrev Reg.WAG_LANE_SAMPLES : Nat := 0x09C
abbrev Reg.WAG_LANE_OUTLIER_CNT : Nat := 0x0A0
abbrev Reg.WAG_LANE_BAD_CNT : Nat := 0x0A4
abbrev Reg.WAG_TX_DLY : Nat := 0x0A8
abbrev Reg.WAG_RX_DLY : Nat := 0x0AC
abbrev Reg.WAG_TS_OVF_CNT : Nat := 0x0B0

/-! HSM: 13_memory.md R433 -/

abbrev Reg.HSM_CTL : Nat := 0x040
abbrev Reg.HSM_STATUS : Nat := 0x044
abbrev Reg.HSM_EVENTS : Nat := 0x048
abbrev Reg.HSM_CE_CNT : Nat := 0x04C
abbrev Reg.HSM_UE_CNT : Nat := 0x050
abbrev Reg.HSM_REFUSED_CNT : Nat := 0x054
abbrev Reg.HSM_RETIRED_ACC_CNT : Nat := 0x058
abbrev Reg.HSM_FORAGE_PASS : Nat := 0x05C
abbrev Reg.HSM_FORAGE_POS : Nat := 0x060
abbrev Reg.HSM_FORAGE_CNT : Nat := 0x064
abbrev Reg.HSM_FORAGE_LATE_CNT : Nat := 0x068
abbrev Reg.HSM_LEAK : Nat := 0x06C
abbrev Reg.HSM_BUCKET_MAX : Nat := 0x070
abbrev Reg.HSM_BUCKET_OVF : Nat := 0x074
abbrev Reg.HSM_BUCKET_OVF_HI : Nat := 0x078
abbrev Reg.HSM_LOG_COUNT : Nat := 0x07C
abbrev Reg.HSM_LOG_POP_LO : Nat := 0x080
abbrev Reg.HSM_LOG_POP_HI : Nat := 0x084
abbrev Reg.HSM_LOG_TIME : Nat := 0x088
abbrev Reg.HSM_LOG_LOST_CNT : Nat := 0x08C
abbrev Reg.HSM_RETIRE : Nat := 0x090
abbrev Reg.HSM_RETIRE_STATUS : Nat := 0x094
abbrev Reg.HSM_RETIRE_SEL : Nat := 0x098
abbrev Reg.HSM_RETIRE_MAP : Nat := 0x09C
abbrev Reg.HSM_WIN_ADDR : Nat := 0x0A0
abbrev Reg.HSM_WIN_RDATA_LO : Nat := 0x0A4
abbrev Reg.HSM_WIN_RDATA_HI : Nat := 0x0A8
abbrev Reg.HSM_WIN_WDATA_LO : Nat := 0x0AC
abbrev Reg.HSM_WIN_WDATA_HI : Nat := 0x0B0
abbrev Reg.HSM_WIN_STATUS : Nat := 0x0B4

/-! NVS: 13_memory.md R435 -/

abbrev Reg.NVS_CTL : Nat := 0x040
abbrev Reg.NVS_ADDR : Nat := 0x044
abbrev Reg.NVS_LEN : Nat := 0x048
abbrev Reg.NVS_STATUS : Nat := 0x04C
abbrev Reg.NVS_EVENTS : Nat := 0x050
abbrev Reg.NVS_FREE : Nat := 0x054
abbrev Reg.NVS_LAST_LEN : Nat := 0x058
abbrev Reg.NVS_SEQ_LO : Nat := 0x05C
abbrev Reg.NVS_SEQ_HI : Nat := 0x060
abbrev Reg.NVS_DISCARD_CNT : Nat := 0x064
abbrev Reg.NVS_RAW_ADDR : Nat := 0x068
abbrev Reg.NVS_RAW_LO : Nat := 0x06C
abbrev Reg.NVS_RAW_HI : Nat := 0x070

/-! HUM: 14_redundancy_faults.md R468 -/

abbrev Reg.HUM_STATUS : Nat := 0x040
abbrev Reg.HUM_EVENTS : Nat := 0x044
abbrev Reg.HUM_MISS_D_CNT : Nat := 0x048
abbrev Reg.HUM_MISS_R_CNT : Nat := 0x04C
abbrev Reg.HUM_BAD_CNT : Nat := 0x050
abbrev Reg.HUM_DONE_LO : Nat := 0x054
abbrev Reg.HUM_DONE_HI : Nat := 0x058
abbrev Reg.HUM_PEER_CLAIM : Nat := 0x05C

/-! CLM: 14_redundancy_faults.md R469 -/

abbrev Reg.CLM_CLAIM : Nat := 0x040
abbrev Reg.CLM_STATUS : Nat := 0x044
abbrev Reg.CLM_CTL : Nat := 0x048
abbrev Reg.CLM_EVENTS : Nat := 0x04C
abbrev Reg.CLM_TAKE_FRAME_LO : Nat := 0x050
abbrev Reg.CLM_TAKE_FRAME_HI : Nat := 0x054
abbrev Reg.CLM_TAKE_CNT : Nat := 0x058
abbrev Reg.CLM_VOTE_CNT : Nat := 0x05C

/-! PWR: 16_power_reset.md R523 -/

abbrev Reg.PWR_CTL : Nat := 0x040
abbrev Reg.PWR_STATUS : Nat := 0x044
abbrev Reg.PWR_EVENTS : Nat := 0x048
abbrev Reg.PWR_BUDGET : Nat := 0x04C
abbrev Reg.PWR_HYST : Nat := 0x050
abbrev Reg.PWR_FIXED : Nat := 0x054
abbrev Reg.PWR_EST : Nat := 0x058
abbrev Reg.PWR_GRANT : Nat := 0x05C
abbrev Reg.PWR_THROTTLE_CFG : Nat := 0x060
abbrev Reg.PWR_WAKE_CFG : Nat := 0x064
abbrev Reg.PWR_WAKE_SRC : Nat := 0x068
abbrev Reg.PWR_LINGER : Nat := 0x06C
abbrev Reg.PWR_LP_OVL_CNT : Nat := 0x070
abbrev Reg.PWR_ABORT_CNT : Nat := 0x074
abbrev Reg.PWR_VOTE : Nat := 0x078
abbrev Reg.PWR_DOM_0_CFG : Nat := 0x080
abbrev Reg.PWR_DOM_1_CFG : Nat := 0x090
abbrev Reg.PWR_DOM_2_CFG : Nat := 0x0A0
abbrev Reg.PWR_DOM_3_CFG : Nat := 0x0B0
abbrev Reg.PWR_DOM_4_CFG : Nat := 0x0C0
abbrev Reg.PWR_DOM_5_CFG : Nat := 0x0D0
abbrev Reg.PWR_DOM_6_CFG : Nat := 0x0E0
abbrev Reg.PWR_DOM_7_CFG : Nat := 0x0F0
abbrev Reg.PWR_DOM_0_VOTE_RUN : Nat := 0x084
abbrev Reg.PWR_DOM_1_VOTE_RUN : Nat := 0x094
abbrev Reg.PWR_DOM_2_VOTE_RUN : Nat := 0x0A4
abbrev Reg.PWR_DOM_3_VOTE_RUN : Nat := 0x0B4
abbrev Reg.PWR_DOM_4_VOTE_RUN : Nat := 0x0C4
abbrev Reg.PWR_DOM_5_VOTE_RUN : Nat := 0x0D4
abbrev Reg.PWR_DOM_6_VOTE_RUN : Nat := 0x0E4
abbrev Reg.PWR_DOM_7_VOTE_RUN : Nat := 0x0F4
abbrev Reg.PWR_DOM_0_VOTE_IDLE : Nat := 0x088
abbrev Reg.PWR_DOM_1_VOTE_IDLE : Nat := 0x098
abbrev Reg.PWR_DOM_2_VOTE_IDLE : Nat := 0x0A8
abbrev Reg.PWR_DOM_3_VOTE_IDLE : Nat := 0x0B8
abbrev Reg.PWR_DOM_4_VOTE_IDLE : Nat := 0x0C8
abbrev Reg.PWR_DOM_5_VOTE_IDLE : Nat := 0x0D8
abbrev Reg.PWR_DOM_6_VOTE_IDLE : Nat := 0x0E8
abbrev Reg.PWR_DOM_7_VOTE_IDLE : Nat := 0x0F8
abbrev Reg.PWR_DOM_0_STATE : Nat := 0x08C
abbrev Reg.PWR_DOM_1_STATE : Nat := 0x09C
abbrev Reg.PWR_DOM_2_STATE : Nat := 0x0AC
abbrev Reg.PWR_DOM_3_STATE : Nat := 0x0BC
abbrev Reg.PWR_DOM_4_STATE : Nat := 0x0CC
abbrev Reg.PWR_DOM_5_STATE : Nat := 0x0DC
abbrev Reg.PWR_DOM_6_STATE : Nat := 0x0EC
abbrev Reg.PWR_DOM_7_STATE : Nat := 0x0FC

/-! RST: 16_power_reset.md R525 -/

abbrev Reg.RST_CTL : Nat := 0x040
abbrev Reg.RST_CAUSE : Nat := 0x044
abbrev Reg.RST_REGION : Nat := 0x048
abbrev Reg.RST_REGION_STATUS : Nat := 0x04C
abbrev Reg.RST_EVENTS : Nat := 0x050
abbrev Reg.RST_REMOTE : Nat := 0x054
abbrev Reg.RST_REMOTE_LANES : Nat := 0x058
abbrev Reg.RST_STARTUP : Nat := 0x05C
abbrev Reg.RST_CHIP_CNT : Nat := 0x060

/-! LNK lane: 09_lanes.md R324 -/

abbrev Reg.LNK_CFG : Nat := 0x040
abbrev Reg.LNK_CFG_NOW : Nat := 0x044
abbrev Reg.LNK_CTL : Nat := 0x048
abbrev Reg.LNK_STATUS : Nat := 0x04C
abbrev Reg.LNK_EVENTS : Nat := 0x050
abbrev Reg.LNK_PARTNER : Nat := 0x054
abbrev Reg.LNK_RETRY_TMO : Nat := 0x058
abbrev Reg.LNK_RETRY_MAX : Nat := 0x05C
abbrev Reg.LNK_RETX_CNT : Nat := 0x060
abbrev Reg.LNK_CRC_CNT : Nat := 0x064
abbrev Reg.LNK_DUP_CNT : Nat := 0x068
abbrev Reg.LNK_GAP_CNT : Nat := 0x06C
abbrev Reg.LNK_DISC_CNT : Nat := 0x070
abbrev Reg.LNK_DOWN_CNT : Nat := 0x074
abbrev Reg.LNK_TX_UNACK : Nat := 0x078
abbrev Reg.LNK_PWR : Nat := 0x07C
abbrev Reg.LNK_PRBS_CFG : Nat := 0x080
abbrev Reg.LNK_PRBS_INJ : Nat := 0x084
abbrev Reg.LNK_PRBS_STATUS : Nat := 0x088
abbrev Reg.LNK_ERR_CNT_LO : Nat := 0x08C
abbrev Reg.LNK_ERR_CNT_HI : Nat := 0x090
abbrev Reg.LNK_CREDIT_IGN_CNT : Nat := 0x094

/-! CHIP: 11_systems.md R377, 15_control.md R493 -/

abbrev Reg.CHIP_DEVICE_ID : Nat := 0x100
abbrev Reg.CHIP_DEVICE_ID_NOW : Nat := 0x104
abbrev Reg.CHIP_FP_TAG : Nat := 0x108
abbrev Reg.CHIP_FP_TAG_NOW : Nat := 0x10C
abbrev Reg.CHIP_FP_NOW : Nat := 0x110
abbrev Reg.CHIP_FP_STAGED : Nat := 0x114
abbrev Reg.CHIP_SYS_EVENTS : Nat := 0x118
abbrev Reg.CHIP_ID_CLASH_CNT : Nat := 0x11C
abbrev Reg.CHIP_SCHED_EXP_CNT : Nat := 0x120
abbrev Reg.CHIP_PART : Nat := 0x040
abbrev Reg.CHIP_STEPPING : Nat := 0x044
abbrev Reg.CHIP_SERIAL_LO : Nat := 0x048
abbrev Reg.CHIP_SERIAL_HI : Nat := 0x04C
abbrev Reg.CHIP_TEST_DATE : Nat := 0x050
abbrev Reg.CHIP_JTAG_IDCODE : Nat := 0x054
abbrev Reg.CHIP_STRAPS : Nat := 0x058
abbrev Reg.CHIP_COMMIT_FRAME_LO : Nat := 0x060
abbrev Reg.CHIP_COMMIT_FRAME_HI : Nat := 0x064
abbrev Reg.CHIP_COMMIT_CTL : Nat := 0x068
abbrev Reg.CHIP_COMMIT_STATUS : Nat := 0x06C
abbrev Reg.CHIP_COMMIT_LAST_LO : Nat := 0x070
abbrev Reg.CHIP_COMMIT_LAST_HI : Nat := 0x074
abbrev Reg.CHIP_EVENTS : Nat := 0x078
abbrev Reg.CHIP_SPI_ABORT_CNT : Nat := 0x07C
abbrev Reg.CHIP_SPI_FRAME_ERR_CNT : Nat := 0x080
abbrev Reg.CHIP_SPI_CMD_ERR_CNT : Nat := 0x084
abbrev Reg.CHIP_SPI_BUSY_CNT : Nat := 0x088
abbrev Reg.CHIP_I2C_STUCK_CNT : Nat := 0x08C
abbrev Reg.CHIP_FAULTN : Nat := 0x090
abbrev Reg.CHIP_FAULTN_EXT_CNT : Nat := 0x094
abbrev Reg.CHIP_ESTOP_CTL : Nat := 0x098
abbrev Reg.CHIP_ESTOP_STATUS : Nat := 0x09C
abbrev Reg.BEHAVIOUR_LEVEL : Nat := 0x0C0
abbrev Reg.BEHAVIOUR_LEVEL_NOW : Nat := 0x0C4

/-! header: 15_control.md R474 -/

abbrev Reg.PAGE_ID : Nat := 0x000
abbrev Reg.PAGE_VER : Nat := 0x004
abbrev Reg.CTL : Nat := 0x008
abbrev Reg.STATUS : Nat := 0x00C
abbrev Reg.ERR_STATUS : Nat := 0x010
abbrev Reg.ERR_MASK : Nat := 0x014
abbrev Reg.EVT_COUNT : Nat := 0x018
abbrev Reg.STAGE_STATUS : Nat := 0x01C

/-! ### Descriptions -/

/-- block registers, part 0. -/
def regs_01_0 : List RegDesc := [
  ⟨Reg.CELL_SEL, .rw, 0x0, 0x1F, none, none⟩,
  ⟨Reg.CELL_CFG, .st, 0x0, 0xFFFFFF, some Reg.CELL_SEL, none⟩,
  ⟨Reg.CELL_TH01, .st, 0x8000800, 0xFFFFFFFF, some Reg.CELL_SEL, none⟩,
  ⟨Reg.CELL_TH23, .st, 0x8000800, 0xFFFFFFFF, some Reg.CELL_SEL, none⟩,
  ⟨Reg.CELL_SKEW, .st, 0x0, 0xFFFFFFFF, some Reg.CELL_SEL, none⟩,
  ⟨Reg.CELL_NOW_CFG, .ro, 0x0, 0xFFFFFFFF, some Reg.CELL_SEL, some Reg.CELL_CFG⟩,
  ⟨Reg.CELL_NOW_TH01, .ro, 0x0, 0xFFFFFFFF, some Reg.CELL_SEL, some Reg.CELL_TH01⟩,
  ⟨Reg.CELL_NOW_TH23, .ro, 0x0, 0xFFFFFFFF, some Reg.CELL_SEL, some Reg.CELL_TH23⟩,
  ⟨Reg.CELL_NOW_SKEW, .ro, 0x0, 0xFFFFFFFF, some Reg.CELL_SEL, some Reg.CELL_SKEW⟩,
  ⟨Reg.CELL_MUTE_NOW, .ro, 0x0, 0xFFFFFFFF, none, none⟩,
  ⟨Reg.CELL_DROP_MASK, .w1c, 0x0, 0xFFFF, none, none⟩,
  ⟨Reg.CELL_COARSE_CNT, .rc, 0x0, 0xFFFFFFFF, none, none⟩,
  ⟨Reg.CELL_DROP_CNT, .rc, 0x0, 0xFFFFFFFF, none, none⟩,
  ⟨Reg.CELL_LONG_CNT, .rc, 0x0, 0xFFFFFFFF, none, none⟩,
  ⟨Reg.CELL_CM_COARSE_CNT, .rc, 0x0, 0xFFFFFFFF, none, none⟩,
  ⟨Reg.CELL_CAL_YIELD_CNT, .rc, 0x0, 0xFFFFFFFF, none, none⟩,
  ⟨Reg.INJ_CTL, .rw, 0x0, 0x3F07, none, none⟩,
  ⟨Reg.INJ_STATUS, .ro, 0x0, 0xFFFFFFFF, none, none⟩,
  ⟨Reg.INJ_JUMP, .wo, 0x0, 0x13F, none, none⟩,
  ⟨Reg.INJ_CAL_WIN, .rw, 0x20, 0xFF, none, none⟩]

/-- block registers, part 1. -/
def regs_01_1 : List RegDesc := [
  ⟨Reg.INJ_EVENTS, .w1c, 0x0, 0x7, none, none⟩,
  ⟨Reg.INJ_SEG_SEL, .rw, 0x0, 0x3F, none, none⟩,
  ⟨Reg.INJ_SEG_A, .rw, 0x0, 0xFFFFFFF, some Reg.INJ_SEG_SEL, none⟩,
  ⟨Reg.INJ_SEG_B, .rw, 0x0, 0xFFFFFFFF, some Reg.INJ_SEG_SEL, none⟩,
  ⟨Reg.INJ_SEG_C, .rw, 0x100, 0x13F, some Reg.INJ_SEG_SEL, none⟩,
  ⟨Reg.BIAS_TARGET, .rw, 0x0, 0xFFF, none, none⟩,
  ⟨Reg.BIAS_SLEW, .rw, 0xA, 0x3FF, none, none⟩,
  ⟨Reg.BIAS_NOW, .ro, 0x0, 0xFFFFFFFF, none, none⟩,
  ⟨Reg.BIAS_STATUS, .ro, 0x0, 0xFFFFFFFF, none, none⟩,
  ⟨Reg.BIAS_EVENTS, .w1c, 0x0, 0x3, none, none⟩,
  ⟨Reg.CAL_CTL, .rw, 0x1505, 0x3F0F, none, none⟩,
  ⟨Reg.CAL_STATUS, .ro, 0x0, 0xFFFFFFFF, none, none⟩,
  ⟨Reg.CAL_EVENTS, .w1c, 0x0, 0xF, none, none⟩,
  ⟨Reg.CAL_DRIFT_CNT, .rc, 0x0, 0xFFFFFFFF, none, none⟩,
  ⟨Reg.CAL_SWAP_CNT, .rc, 0x0, 0xFFFFFFFF, none, none⟩,
  ⟨Reg.CAL_LAST_ALARM, .ro, 0x0, 0xFFFFFFFF, none, none⟩,
  ⟨Reg.CAL_INJ_DLY, .ro, 0x0, 0xFFFFFFFF, some Reg.CELL_SEL, none⟩,
  ⟨Reg.TDC_SEL, .rw, 0x0, 0x11FF3F, none, none⟩,
  ⟨Reg.TDC_ENTRY, .rw, 0x0, 0xFFFFFFFF, none, none⟩,
  ⟨Reg.TDC_HIST, .ro, 0x0, 0xFFFFFFFF, none, none⟩]

/-- block registers, part 2. -/
def regs_01_2 : List RegDesc := [
  ⟨Reg.TDC_LOAD, .wo, 0x0, 0x13F, none, none⟩,
  ⟨Reg.TDC_TRIM, .rw, 0x0, 0x3F, none, none⟩,
  ⟨Reg.TDC_CLAMP_CNT, .rc, 0x0, 0xFFFFFFFF, none, none⟩,
  ⟨Reg.TDC_FILL, .ro, 0x0, 0xFFFFFFFF, none, none⟩,
  ⟨Reg.BLK_CTL, .wo, 0x0, 0x3, none, none⟩,
  ⟨Reg.BLK_STATUS, .ro, 0x0, 0xFFFFFFFF, none, none⟩,
  ⟨Reg.BLK_EVENTS, .w1c, 0x0, 0x1F, none, none⟩,
  ⟨Reg.BLK_FILL_MAX, .rc, 0x0, 0xFFFFFFFF, none, none⟩,
  ⟨Reg.BLK_OVERRUN_CNT, .rc, 0x0, 0xFFFFFFFF, none, none⟩,
  ⟨Reg.BLK_RESET_CNT, .rc, 0x0, 0xFFFFFFFF, none, none⟩,
  ⟨Reg.BLK_POISON_CNT, .rc, 0x0, 0xFFFFFFFF, none, none⟩,
  ⟨Reg.BLK_CUT_CNT, .rc, 0x0, 0xFFFFFFFF, none, none⟩,
  ⟨Reg.BLK_LAST_COUNT, .ro, 0x0, 0xFFFFFFFF, none, none⟩,
  ⟨Reg.BLK_LAST_FRAME_LO, .ro, 0x0, 0xFFFFFFFF, none, none⟩,
  ⟨Reg.BLK_LAST_FRAME_HI, .ro, 0x0, 0xFFFFFFFF, none, none⟩,
  ⟨Reg.BLK_DRAIN_LAST, .ro, 0x0, 0xFFFFFFFF, none, none⟩,
  ⟨Reg.BLK_DRAIN_MAX, .rc, 0x0, 0xFFFFFFFF, none, none⟩,
  ⟨Reg.TRG_BLK_CFG, .st, 0xFFFF0000, 0xFFFF000F, none, none⟩,
  ⟨Reg.TRG_BLK_STREAM, .st, 0x0, 0xFFFF, none, none⟩,
  ⟨Reg.TRG_BLK_CFG_NOW, .ro, 0x0, 0xFFFFFFFF, none, some Reg.TRG_BLK_CFG⟩]

/-- block registers, part 3. -/
def regs_01_3 : List RegDesc := [
  ⟨Reg.TRG_BLK_STREAM_NOW, .ro, 0x0, 0xFFFFFFFF, none, some Reg.TRG_BLK_STREAM⟩]

/-- block registers. -/
def regs_01 : List RegDesc := regs_01_0 ++ regs_01_1 ++ regs_01_2 ++ regs_01_3

/-- region registers. -/
def regs_02 : List RegDesc := [
  ⟨Reg.REG_CTL, .wo, 0x0, 0x3, none, none⟩,
  ⟨Reg.REG_STATUS, .ro, 0x0, 0xFFFFFFFF, none, none⟩,
  ⟨Reg.REG_EVENTS, .w1c, 0x0, 0x1F, none, none⟩,
  ⟨Reg.REG_CREDIT_A, .ro, 0x0, 0xFFFFFFFF, none, none⟩,
  ⟨Reg.REG_CREDIT_B, .ro, 0x0, 0xFFFFFFFF, none, none⟩,
  ⟨Reg.REG_RETRY_A, .rc, 0x0, 0xFFFFFFFF, none, none⟩,
  ⟨Reg.REG_RETRY_B, .rc, 0x0, 0xFFFFFFFF, none, none⟩,
  ⟨Reg.REG_DRAIN_LAST, .ro, 0x0, 0xFFFFFFFF, none, none⟩,
  ⟨Reg.REG_DRAIN_MAX, .rc, 0x0, 0xFFFFFFFF, none, none⟩,
  ⟨Reg.REG_STALL_CNT, .rc, 0x0, 0xFFFFFFFF, none, none⟩,
  ⟨Reg.MRG_STATUS, .ro, 0x0, 0xFFFFFFFF, none, none⟩,
  ⟨Reg.MRG_EVENTS, .w1c, 0x0, 0x3, none, none⟩,
  ⟨Reg.MRG_DISORDER_CNT, .rc, 0x0, 0xFFFFFFFF, none, none⟩,
  ⟨Reg.MRG_LENGTH_CNT, .rc, 0x0, 0xFFFFFFFF, none, none⟩,
  ⟨Reg.MRG_MAX_LAG, .rc, 0x0, 0xFFFFFFFF, none, none⟩]

/-- worker registers, part 0. -/
def regs_03_0 : List RegDesc := [
  ⟨Reg.WRK_CTL, .wo, 0x0, 0x7F, none, none⟩,
  ⟨Reg.WRK_STATUS, .ro, 0x0, 0xFFFFFFFF, none, none⟩,
  ⟨Reg.WRK_EVENTS, .w1c, 0x0, 0x1F, none, none⟩,
  ⟨Reg.WRK_PC, .rw, 0x0, 0xFFFFFFFF, none, none⟩,
  ⟨Reg.WRK_FAULT_ADDR, .ro, 0x0, 0xFFFFFFFF, none, none⟩,
  ⟨Reg.WRK_JOB_TAG, .ro, 0x0, 0xFFFFFFFF, none, none⟩,
  ⟨Reg.WRK_LOST_TAG, .ro, 0x0, 0xFFFFFFFF, none, none⟩,
  ⟨Reg.WRK_JOB_CNT, .rc, 0x0, 0xFFFFFFFF, none, none⟩,
  ⟨Reg.WRK_JOB_LOST_CNT, .rc, 0x0, 0xFFFFFFFF, none, none⟩,
  ⟨Reg.WRK_KERNEL_MISS_CNT, .rc, 0x0, 0xFFFFFFFF, none, none⟩,
  ⟨Reg.WRK_ECC_CNT, .rc, 0x0, 0xFFFFFFFF, none, none⟩,
  ⟨Reg.WRK_TIMER, .rw, 0x0, 0xFFFFFFFF, none, none⟩,
  ⟨Reg.WRK_DOORBELL, .wo, 0x0, 0xFFFFFFFF, none, none⟩,
  ⟨Reg.WRK_CLK, .ro, 0x0, 0xFFFFFFFF, none, none⟩,
  ⟨Reg.WRK_FW_LIMIT, .ro, 0x0, 0xFFFFFFFF, none, none⟩,
  ⟨Reg.WRK_FW_DLIMIT, .ro, 0x0, 0xFFFFFFFF, none, none⟩,
  ⟨Reg.WRK_MEM_SEL, .rw, 0x0, 0x3FFFD, none, none⟩,
  ⟨Reg.WRK_MEM_DATA, .rw, 0x0, 0xFFFFFFFF, none, none⟩,
  ⟨Reg.WRK_KT_SEL, .rw, 0x0, 0x1F, none, none⟩,
  ⟨Reg.WRK_KTAB, .rw, 0x0, 0xFFFDFFFF, none, none⟩]

/-- worker registers, part 1. -/
def regs_03_1 : List RegDesc := [
  ⟨Reg.WRK_DBG_SEL, .rw, 0x0, 0xF, none, none⟩,
  ⟨Reg.WRK_DBG_DATA, .rw, 0x0, 0xFFFFFFFF, none, none⟩,
  ⟨Reg.WRK_BP_0, .rw, 0x0, 0xFFFD, none, none⟩,
  ⟨Reg.WRK_BP_1, .rw, 0x0, 0xFFFD, none, none⟩,
  ⟨Reg.WRK_BP_2, .rw, 0x0, 0xFFFD, none, none⟩,
  ⟨Reg.WRK_BP_3, .rw, 0x0, 0xFFFD, none, none⟩,
  ⟨Reg.WRK_CACHE_CTL, .wo, 0x0, 0x1, none, none⟩]

/-- worker registers. -/
def regs_03 : List RegDesc := regs_03_0 ++ regs_03_1

/-- lease registers. -/
def regs_04 : List RegDesc := [
  ⟨Reg.LSE_SEL, .rw, 0x0, 0x3F, none, none⟩,
  ⟨Reg.LSE_STATE, .ro, 0x0, 0xFFFFFFFF, none, none⟩,
  ⟨Reg.LSE_REMAIN, .ro, 0x0, 0xFFFFFFFF, none, none⟩,
  ⟨Reg.LSE_CTL, .wo, 0x0, 0x1F03, none, none⟩,
  ⟨Reg.LSE_HOST_RESULT, .ro, 0x0, 0xFFFFFFFF, none, none⟩,
  ⟨Reg.LSE_FORCE, .wo, 0x0, 0x13F, none, none⟩,
  ⟨Reg.LSE_EVENTS, .w1c, 0x0, 0x7, none, none⟩,
  ⟨Reg.LSE_REVOKE_CNT, .rc, 0x0, 0xFFFFFFFF, none, none⟩,
  ⟨Reg.LSE_FORCE_CNT, .rc, 0x0, 0xFFFFFFFF, none, none⟩]

/-- guard registers. -/
def regs_05 : List RegDesc := [
  ⟨Reg.GRD_CTL, .rw, 0x41, 0x73, none, none⟩,
  ⟨Reg.GRD_STATUS, .ro, 0x0, 0xFFFFFFFF, none, none⟩,
  ⟨Reg.GRD_EVENTS, .w1c, 0x0, 0x7F, none, none⟩,
  ⟨Reg.GRD_GRACE, .rw, 0x186A0, 0xFFFFF, none, none⟩,
  ⟨Reg.GRD_ACK, .wo, 0x0, 0xFFFF, none, none⟩,
  ⟨Reg.GRD_REC_0, .ro, 0x0, 0xFFFFFFFF, none, none⟩,
  ⟨Reg.GRD_REC_1, .ro, 0x0, 0xFFFFFFFF, none, none⟩,
  ⟨Reg.GRD_REC_TIME, .ro, 0x0, 0xFFFFFFFF, none, none⟩,
  ⟨Reg.GRD_SRC_SEL, .rw, 0x0, 0x1F, none, none⟩,
  ⟨Reg.GRD_SRC_CFG, .rw, 0x0, 0x73FFF, some Reg.GRD_SRC_SEL, none⟩,
  ⟨Reg.GRD_SRC_STATUS, .ro, 0x0, 0xFFFFFFFF, none, none⟩,
  ⟨Reg.GRD_SRC_CNT, .rc, 0x0, 0xFFFFFFFF, some Reg.GRD_SRC_SEL, none⟩,
  ⟨Reg.GRD_VOTE_CNT, .rc, 0x0, 0xFFFFFFFF, none, none⟩,
  ⟨Reg.GRD_LOG_COUNT, .ro, 0x0, 0xFFFFFFFF, none, none⟩,
  ⟨Reg.GRD_LOG_POP, .ro, 0x0, 0xFFFFFFFF, none, none⟩,
  ⟨Reg.GRD_LOG_REC1, .ro, 0x0, 0xFFFFFFFF, none, none⟩,
  ⟨Reg.GRD_LOG_TIME, .ro, 0x0, 0xFFFFFFFF, none, none⟩,
  ⟨Reg.GRD_PERTURB_KEY, .wo, 0x0, 0xFFFFFFFF, none, none⟩,
  ⟨Reg.GRD_PERTURB_CTL, .rw, 0x0, 0x7FFFF, none, none⟩]

/-- housekeeping registers. -/
def regs_06 : List RegDesc := [
  ⟨Reg.HK_CTL, .rw, 0x1, 0x3, none, none⟩,
  ⟨Reg.HK_CM_WIN, .rw, 0x7D19, 0xFFFF, none, none⟩,
  ⟨Reg.HK_TDAC, .rw, 0x200, 0x1703FF, none, none⟩,
  ⟨Reg.HK_ALARM, .ro, 0x0, 0xFFFFFFFF, none, none⟩,
  ⟨Reg.HK_BREAK, .ro, 0x0, 0xFFFFFFFF, none, none⟩,
  ⟨Reg.HK_EVENTS, .w1c, 0x0, 0xFFFFFF, none, none⟩,
  ⟨Reg.HK_CONV_CNT, .ro, 0x0, 0xFFFFFFFF, none, none⟩,
  ⟨Reg.HK_SEL, .rw, 0x0, 0xF, none, none⟩,
  ⟨Reg.HK_CFG, .rw, 0xA240, 0x3FFFF, some Reg.HK_SEL, none⟩,
  ⟨Reg.HK_OFFSET, .rw, 0x0, 0xFFFFFFFF, some Reg.HK_SEL, none⟩,
  ⟨Reg.HK_GAIN, .rw, 0x0, 0xFFFFFFFF, some Reg.HK_SEL, none⟩,
  ⟨Reg.HK_THR_HI, .rw, 0x7FFFFFFF, 0xFFFFFFFF, some Reg.HK_SEL, none⟩,
  ⟨Reg.HK_THR_LO, .rw, 0x80000000, 0xFFFFFFFF, some Reg.HK_SEL, none⟩,
  ⟨Reg.HK_HYST, .rw, 0x0, 0xFFFFFFFF, some Reg.HK_SEL, none⟩,
  ⟨Reg.HK_VALUE, .ro, 0x0, 0xFFFFFFFF, none, none⟩,
  ⟨Reg.HK_RAW, .ro, 0x0, 0xFFFFFFFF, none, none⟩,
  ⟨Reg.HK_IN_STATUS, .ro, 0x0, 0xFFFFFFFF, none, none⟩,
  ⟨Reg.HK_BIAS_SEL, .rw, 0x0, 0xF, none, none⟩]

/-- TIM registers, part 0. -/
def regs_10_0 : List RegDesc := [
  ⟨Reg.TIM_NOW_0, .ro, 0x0, 0xFFFFFFFF, none, none⟩,
  ⟨Reg.TIM_NOW_1, .ro, 0x0, 0xFFFFFFFF, none, none⟩,
  ⟨Reg.TIM_NOW_2, .ro, 0x0, 0xFFFFFFFF, none, none⟩,
  ⟨Reg.TIM_STATUS, .ro, 0x0, 0xFFFFFFFF, none, none⟩,
  ⟨Reg.TIM_FRAME_NOW_LO, .ro, 0x0, 0xFFFFFFFF, none, none⟩,
  ⟨Reg.TIM_FRAME_NOW_HI, .ro, 0x0, 0xFFFFFFFF, none, none⟩,
  ⟨Reg.TIM_EVENTS, .w1c, 0x0, 0x1FF, none, none⟩,
  ⟨Reg.TIM_VOTE_ERR, .rc, 0x0, 0xFFFFFFFF, none, none⟩,
  ⟨Reg.TIM_FRAME_K, .st, 0x10, 0x1F, none, none⟩,
  ⟨Reg.TIM_EPOCH_SEC_LO, .st, 0x0, 0xFFFFFFFF, none, none⟩,
  ⟨Reg.TIM_EPOCH_SEC_HI, .st, 0x0, 0xFFFF, none, none⟩,
  ⟨Reg.TIM_EPOCH_NSEC, .st, 0x0, 0x3FFFFFFF, none, none⟩,
  ⟨Reg.TIM_FRAME_K_NOW, .ro, 0x10, 0x1F, none, some Reg.TIM_FRAME_K⟩,
  ⟨Reg.TIM_EPOCH_SEC_LO_NOW, .ro, 0x0, 0xFFFFFFFF, none, some Reg.TIM_EPOCH_SEC_LO⟩,
  ⟨Reg.TIM_EPOCH_SEC_HI_NOW, .ro, 0x0, 0xFFFF, none, some Reg.TIM_EPOCH_SEC_HI⟩,
  ⟨Reg.TIM_EPOCH_NSEC_NOW, .ro, 0x0, 0x3FFFFFFF, none, some Reg.TIM_EPOCH_NSEC⟩,
  ⟨Reg.TIM_FREQ_WORD_LO, .rw, 0x0, 0xFFFFFFFF, none, none⟩,
  ⟨Reg.TIM_FREQ_WORD_HI, .rw, 0x0, 0xFF, none, none⟩,
  ⟨Reg.TIM_DPLL_STATUS, .ro, 0x0, 0xFFFFFFFF, none, none⟩,
  ⟨Reg.TIM_HOLD_AVG, .rw, 0x40, 0x1FFF, none, none⟩]

/-- TIM registers, part 1. -/
def regs_10_1 : List RegDesc := [
  ⟨Reg.TIM_HOLD_SEC, .ro, 0x0, 0xFFFFFFFF, none, none⟩,
  ⟨Reg.TIM_LOCK, .rw, 0x4000400, 0xFFFFFFFF, none, none⟩,
  ⟨Reg.TIM_OUT_CTL, .rw, 0x186A03, 0x7FFFF7, none, none⟩,
  ⟨Reg.TIM_OUT_DLY, .rw, 0x0, 0xFFFFFFFF, none, none⟩,
  ⟨Reg.TIM_UTC_OFFSET, .rw, 0x0, 0xFFFF, none, none⟩,
  ⟨Reg.TIM_UTC_NEXT_SEC_LO, .rw, 0x0, 0xFFFFFFFF, none, none⟩,
  ⟨Reg.TIM_UTC_NEXT_SEC_HI, .rw, 0x0, 0xFFFF, none, none⟩,
  ⟨Reg.TIM_UTC_NEXT_OFFSET, .rw, 0x0, 0xFFFF, none, none⟩,
  ⟨Reg.TIM_STEP_CTL, .rw, 0x0, 0x10F, none, none⟩,
  ⟨Reg.TIM_STEP_FRAME_LO, .rw, 0x0, 0xFFFFFFFF, none, none⟩,
  ⟨Reg.TIM_STEP_FRAME_HI, .rw, 0x0, 0xFF, none, none⟩,
  ⟨Reg.TIM_STEP_SEC_LO, .rw, 0x0, 0xFFFFFFFF, none, none⟩,
  ⟨Reg.TIM_STEP_SEC_HI, .rw, 0x0, 0xFFFF, none, none⟩,
  ⟨Reg.TIM_STEP_NSEC, .rw, 0x0, 0x3FFFFFFF, none, none⟩,
  ⟨Reg.TIM_STEP_FRAC, .rw, 0x0, 0x3FF, none, none⟩,
  ⟨Reg.TIM_STEP_STATUS, .ro, 0x0, 0xFFFFFFFF, none, none⟩,
  ⟨Reg.TIM_STEP_DISCARD, .rc, 0x0, 0xFFFFFFFF, none, none⟩,
  ⟨Reg.TIM_SPINE_DLY_0, .ro, 0x0, 0xFFFFFFFF, none, none⟩,
  ⟨Reg.TIM_SPINE_DLY_1, .ro, 0x0, 0xFFFFFFFF, none, none⟩,
  ⟨Reg.TIM_SPINE_DLY_2, .ro, 0x0, 0xFFFFFFFF, none, none⟩]

/-- TIM registers, part 2. -/
def regs_10_2 : List RegDesc := [
  ⟨Reg.TIM_SPINE_DLY_3, .ro, 0x0, 0xFFFFFFFF, none, none⟩,
  ⟨Reg.TIM_SPINE_DLY_4, .ro, 0x0, 0xFFFFFFFF, none, none⟩,
  ⟨Reg.TIM_SPINE_DLY_5, .ro, 0x0, 0xFFFFFFFF, none, none⟩,
  ⟨Reg.TIM_SPINE_DLY_PEER, .ro, 0x0, 0xFFFFFFFF, none, none⟩]

/-- TIM registers. -/
def regs_10 : List RegDesc := regs_10_0 ++ regs_10_1 ++ regs_10_2

/-- REF registers, part 0. -/
def regs_11_0 : List RegDesc := [
  ⟨Reg.REF_CTL, .rw, 0x1, 0x1, none, none⟩,
  ⟨Reg.REF_FTOL, .rw, 0xC350, 0xFFFFFFFF, none, none⟩,
  ⟨Reg.REF_PTOL, .rw, 0x19000, 0xFFFFFFFF, none, none⟩,
  ⟨Reg.REF_QUAL_TIME, .rw, 0xA, 0x3FF, none, none⟩,
  ⟨Reg.REF_REVERT_HOLD, .rw, 0x3C, 0xFFFF, none, none⟩,
  ⟨Reg.REF_SEL, .ro, 0x0, 0xFFFFFFFF, none, none⟩,
  ⟨Reg.REF_CAND_0_CFG, .rw, 0x0, 0x1F31, none, none⟩,
  ⟨Reg.REF_CAND_1_CFG, .rw, 0x10, 0x1F31, none, none⟩,
  ⟨Reg.REF_CAND_2_CFG, .rw, 0x20, 0x1F31, none, none⟩,
  ⟨Reg.REF_CAND_3_CFG, .rw, 0x30, 0x1F31, none, none⟩,
  ⟨Reg.REF_CAND_0_STATE, .ro, 0x0, 0xFFFFFFFF, none, none⟩,
  ⟨Reg.REF_CAND_1_STATE, .ro, 0x0, 0xFFFFFFFF, none, none⟩,
  ⟨Reg.REF_CAND_2_STATE, .ro, 0x0, 0xFFFFFFFF, none, none⟩,
  ⟨Reg.REF_CAND_3_STATE, .ro, 0x0, 0xFFFFFFFF, none, none⟩,
  ⟨Reg.REF_CAND_0_FREQ, .ro, 0x0, 0xFFFFFFFF, none, none⟩,
  ⟨Reg.REF_CAND_1_FREQ, .ro, 0x0, 0xFFFFFFFF, none, none⟩,
  ⟨Reg.REF_CAND_2_FREQ, .ro, 0x0, 0xFFFFFFFF, none, none⟩,
  ⟨Reg.REF_CAND_3_FREQ, .ro, 0x0, 0xFFFFFFFF, none, none⟩,
  ⟨Reg.REF_CAND_0_PHASE, .ro, 0x0, 0xFFFFFFFF, none, none⟩,
  ⟨Reg.REF_CAND_1_PHASE, .ro, 0x0, 0xFFFFFFFF, none, none⟩]

/-- REF registers, part 1. -/
def regs_11_1 : List RegDesc := [
  ⟨Reg.REF_CAND_2_PHASE, .ro, 0x0, 0xFFFFFFFF, none, none⟩,
  ⟨Reg.REF_CAND_3_PHASE, .ro, 0x0, 0xFFFFFFFF, none, none⟩]

/-- REF registers. -/
def regs_11 : List RegDesc := regs_11_0 ++ regs_11_1

/-- CAL_RG registers, part 0. -/
def regs_12_0 : List RegDesc := [
  ⟨Reg.CAL_RG_SEL, .rw, 0x0, 0xF, none, none⟩,
  ⟨Reg.CAL_RG_CFG, .rw, 0x0, 0x7FF3, some Reg.CAL_RG_SEL, none⟩,
  ⟨Reg.CAL_RG_NOM_LO, .rw, 0x0, 0xFFFFFFFF, some Reg.CAL_RG_SEL, none⟩,
  ⟨Reg.CAL_RG_NOM_HI, .rw, 0x0, 0xFFFFFF, some Reg.CAL_RG_SEL, none⟩,
  ⟨Reg.CAL_RG_GATE, .rw, 0x0, 0x3F, some Reg.CAL_RG_SEL, none⟩,
  ⟨Reg.CAL_RG_LEN, .rw, 0x0, 0xFFFFFFFF, some Reg.CAL_RG_SEL, none⟩,
  ⟨Reg.CAL_RG_FRAME_LO, .rw, 0x0, 0xFFFFFFFF, some Reg.CAL_RG_SEL, none⟩,
  ⟨Reg.CAL_RG_FRAME_HI, .rw, 0x0, 0xFF, some Reg.CAL_RG_SEL, none⟩,
  ⟨Reg.CAL_RG_CTL, .wo, 0x0, 0x3, none, none⟩,
  ⟨Reg.CAL_RG_STATUS, .ro, 0x0, 0xFFFFFFFF, none, none⟩,
  ⟨Reg.CAL_RG_K, .ro, 0x0, 0xFFFFFFFF, none, none⟩,
  ⟨Reg.CAL_RG_FREQ_LO, .ro, 0x0, 0xFFFFFFFF, none, none⟩,
  ⟨Reg.CAL_RG_FREQ_HI, .ro, 0x0, 0xFFFFFFFF, none, none⟩,
  ⟨Reg.CAL_RG_PHASE_LO, .ro, 0x0, 0xFFFFFFFF, none, none⟩,
  ⟨Reg.CAL_RG_PHASE_HI, .ro, 0x0, 0xFFFFFFFF, none, none⟩,
  ⟨Reg.CAL_RG_RMS, .ro, 0x0, 0xFFFFFFFF, none, none⟩,
  ⟨Reg.CAL_RG_CENTRE_0, .ro, 0x0, 0xFFFFFFFF, none, none⟩,
  ⟨Reg.CAL_RG_CENTRE_1, .ro, 0x0, 0xFFFFFFFF, none, none⟩,
  ⟨Reg.CAL_RG_CENTRE_2, .ro, 0x0, 0xFFFFFFFF, none, none⟩,
  ⟨Reg.CAL_RG_SUM_SEL, .rw, 0x0, 0x7, none, none⟩]

/-- CAL_RG registers, part 1. -/
def regs_12_1 : List RegDesc := [
  ⟨Reg.CAL_RG_SUM_0, .ro, 0x0, 0xFFFFFFFF, none, none⟩,
  ⟨Reg.CAL_RG_SUM_1, .ro, 0x0, 0xFFFFFFFF, none, none⟩,
  ⟨Reg.CAL_RG_SUM_2, .ro, 0x0, 0xFFFFFFFF, none, none⟩,
  ⟨Reg.CAL_RG_SUM_3, .ro, 0x0, 0xFFFFFFFF, none, none⟩,
  ⟨Reg.CAL_RG_EVENTS, .w1c, 0x0, 0xFFFF, none, none⟩]

/-- CAL_RG registers. -/
def regs_12 : List RegDesc := regs_12_0 ++ regs_12_1

/-- TRG registers, part 0. -/
def regs_13_0 : List RegDesc := [
  ⟨Reg.TRG_CTL, .st, 0x80110, 0xF1F70, none, none⟩,
  ⟨Reg.TRG_CTL_NOW, .ro, 0x0, 0xFFFFFFFF, none, some Reg.TRG_CTL⟩,
  ⟨Reg.TRG_STATUS, .ro, 0x0, 0xFFFFFFFF, none, none⟩,
  ⟨Reg.TRG_EVENTS, .w1c, 0x0, 0x1F, none, none⟩,
  ⟨Reg.TRG_REFUSED_CNT, .rc, 0x0, 0xFFFFFFFF, none, none⟩,
  ⟨Reg.TRG_PRIM_ERR_CNT, .rc, 0x0, 0xFFFFFFFF, none, none⟩,
  ⟨Reg.TRG_PEND_MAX, .rc, 0x0, 0xFFFFFFFF, none, none⟩,
  ⟨Reg.TRG_EXT_LOST_CNT, .rc, 0x0, 0xFFFFFFFF, none, none⟩,
  ⟨Reg.TRG_LINE_SEL, .rw, 0x0, 0x7, none, none⟩,
  ⟨Reg.TRG_LINE_CFG, .st, 0x3FFC8, 0x7FFFF, some Reg.TRG_LINE_SEL, none⟩,
  ⟨Reg.TRG_LINE_THR, .st, 0x40001, 0xFFF07FF, some Reg.TRG_LINE_SEL, none⟩,
  ⟨Reg.TRG_LINE_PS, .st, 0x0, 0xFFFF, some Reg.TRG_LINE_SEL, none⟩,
  ⟨Reg.TRG_LINE_WIN, .st, 0x1F401F4, 0xFFFFFFFF, some Reg.TRG_LINE_SEL, none⟩,
  ⟨Reg.TRG_LINE_CFG_NOW, .ro, 0x0, 0xFFFFFFFF, some Reg.TRG_LINE_SEL, some Reg.TRG_LINE_CFG⟩,
  ⟨Reg.TRG_LINE_THR_NOW, .ro, 0x0, 0xFFFFFFFF, some Reg.TRG_LINE_SEL, some Reg.TRG_LINE_THR⟩,
  ⟨Reg.TRG_LINE_PS_NOW, .ro, 0x0, 0xFFFFFFFF, some Reg.TRG_LINE_SEL, some Reg.TRG_LINE_PS⟩,
  ⟨Reg.TRG_LINE_WIN_NOW, .ro, 0x0, 0xFFFFFFFF, some Reg.TRG_LINE_SEL, some Reg.TRG_LINE_WIN⟩,
  ⟨Reg.TRG_LINE_FIRE_CNT, .rc, 0x0, 0xFFFFFFFF, some Reg.TRG_LINE_SEL, none⟩,
  ⟨Reg.TRG_LINE_TAKE_CNT, .rc, 0x0, 0xFFFFFFFF, some Reg.TRG_LINE_SEL, none⟩,
  ⟨Reg.TRG_HOST_TIME, .rw, 0x0, 0xFFFFFFFF, none, none⟩]

/-- TRG registers, part 1. -/
def regs_13_1 : List RegDesc := [
  ⟨Reg.TRG_HOST_CTL, .wo, 0x0, 0x107, none, none⟩,
  ⟨Reg.TRG_HOST_STATUS, .ro, 0x0, 0xFFFFFFFF, none, none⟩]

/-- TRG registers. -/
def regs_13 : List RegDesc := regs_13_0 ++ regs_13_1

/-- SWM registers, part 0. -/
def regs_14_0 : List RegDesc := [
  ⟨Reg.SWM_CTL, .st, 0x100, 0x3F1F, none, none⟩,
  ⟨Reg.SWM_WIN, .st, 0x3E8, 0x1FFF, none, none⟩,
  ⟨Reg.SWM_DEADLINE, .st, 0x2710, 0x7FFF, none, none⟩,
  ⟨Reg.SWM_MULT_MIN, .st, 0x0, 0xFFFF, none, none⟩,
  ⟨Reg.SWM_CTL_NOW, .ro, 0x0, 0xFFFFFFFF, none, some Reg.SWM_CTL⟩,
  ⟨Reg.SWM_WIN_NOW, .ro, 0x0, 0xFFFFFFFF, none, some Reg.SWM_WIN⟩,
  ⟨Reg.SWM_DEADLINE_NOW, .ro, 0x0, 0xFFFFFFFF, none, some Reg.SWM_DEADLINE⟩,
  ⟨Reg.SWM_MULT_MIN_NOW, .ro, 0x0, 0xFFFFFFFF, none, some Reg.SWM_MULT_MIN⟩,
  ⟨Reg.SWM_STATUS, .ro, 0x0, 0xFFFFFFFF, none, none⟩,
  ⟨Reg.SWM_EVENTS, .w1c, 0x0, 0x1F, none, none⟩,
  ⟨Reg.SWM_RX_CNT, .rc, 0x0, 0xFFFFFFFF, none, none⟩,
  ⟨Reg.SWM_DUP_CNT, .rc, 0x0, 0xFFFFFFFF, none, none⟩,
  ⟨Reg.SWM_UNKNOWN_CNT, .rc, 0x0, 0xFFFFFFFF, none, none⟩,
  ⟨Reg.SWM_DISC_CNT, .rc, 0x0, 0xFFFFFFFF, none, none⟩,
  ⟨Reg.SWM_EXCL_CNT, .rc, 0x0, 0xFFFFFFFF, none, none⟩,
  ⟨Reg.SWM_LATE_CNT, .rc, 0x0, 0xFFFFFFFF, none, none⟩,
  ⟨Reg.SWM_TX_DROP_CNT, .rc, 0x0, 0xFFFFFFFF, none, none⟩,
  ⟨Reg.SWM_COINC_CNT, .rc, 0x0, 0xFFFFFFFF, none, none⟩,
  ⟨Reg.SWM_NOCOINC_CNT, .rc, 0x0, 0xFFFFFFFF, none, none⟩,
  ⟨Reg.SWM_UNSYNC_CNT, .rc, 0x0, 0xFFFFFFFF, none, none⟩]

/-- SWM registers, part 1. -/
def regs_14_1 : List RegDesc := [
  ⟨Reg.SWM_PEER_0_CFG, .rw, 0x10, 0x11F, none, none⟩,
  ⟨Reg.SWM_PEER_1_CFG, .rw, 0x11, 0x11F, none, none⟩,
  ⟨Reg.SWM_PEER_2_CFG, .rw, 0x12, 0x11F, none, none⟩,
  ⟨Reg.SWM_PEER_3_CFG, .rw, 0x13, 0x11F, none, none⟩,
  ⟨Reg.SWM_ORG_SEL, .rw, 0x0, 0x3F, none, none⟩,
  ⟨Reg.SWM_ORG_CFG, .st, 0x0, 0x1FFF, some Reg.SWM_ORG_SEL, none⟩,
  ⟨Reg.SWM_ORG_OFFSET, .st, 0x0, 0xFFFFFFFF, some Reg.SWM_ORG_SEL, none⟩,
  ⟨Reg.SWM_ORG_CFG_NOW, .ro, 0x0, 0xFFFFFFFF, some Reg.SWM_ORG_SEL, some Reg.SWM_ORG_CFG⟩,
  ⟨Reg.SWM_ORG_OFFSET_NOW, .ro, 0x0, 0xFFFFFFFF, some Reg.SWM_ORG_SEL, some Reg.SWM_ORG_OFFSET⟩,
  ⟨Reg.SWM_ORG_STATE, .ro, 0x0, 0xFFFFFFFF, none, none⟩,
  ⟨Reg.SWM_ORG_LAST, .ro, 0x0, 0xFFFFFFFF, none, none⟩]

/-- SWM registers. -/
def regs_14 : List RegDesc := regs_14_0 ++ regs_14_1

/-- FRM registers. -/
def regs_15 : List RegDesc := [
  ⟨Reg.FRM_CTL, .st, 0x0, 0x1, none, none⟩,
  ⟨Reg.FRM_CTL_NOW, .ro, 0x0, 0xFFFFFFFF, none, some Reg.FRM_CTL⟩,
  ⟨Reg.FRM_STATUS, .ro, 0x0, 0xFFFFFFFF, none, none⟩,
  ⟨Reg.FRM_EVENTS, .w1c, 0x0, 0x1F, none, none⟩,
  ⟨Reg.FRM_LAST_LO, .ro, 0x0, 0xFFFFFFFF, none, none⟩,
  ⟨Reg.FRM_LAST_HI, .ro, 0x0, 0xFFFFFFFF, none, none⟩,
  ⟨Reg.FRM_LAST_RECORDS, .ro, 0x0, 0xFFFFFFFF, none, none⟩,
  ⟨Reg.FRM_SORT_MAX, .rc, 0x0, 0xFFFFFFFF, none, none⟩,
  ⟨Reg.FRM_ORDER_CNT, .rc, 0x0, 0xFFFFFFFF, none, none⟩,
  ⟨Reg.FRM_UNLISTED_CNT, .rc, 0x0, 0xFFFFFFFF, none, none⟩,
  ⟨Reg.FRM_LOST_CNT, .rc, 0x0, 0xFFFFFFFF, none, none⟩,
  ⟨Reg.FRM_STALL_CNT, .rc, 0x0, 0xFFFFFFFF, none, none⟩,
  ⟨Reg.FRM_DRAIN_MAX, .rc, 0x0, 0xFFFFFFFF, none, none⟩]

/-- CMP registers. -/
def regs_16 : List RegDesc := [
  ⟨Reg.CMP_CTL, .st, 0x0, 0x1, none, none⟩,
  ⟨Reg.CMP_CTL_NOW, .ro, 0x0, 0xFFFFFFFF, none, some Reg.CMP_CTL⟩,
  ⟨Reg.CMP_STATUS, .ro, 0x0, 0xFFFFFFFF, none, none⟩,
  ⟨Reg.CMP_EVENTS, .w1c, 0x0, 0xF, none, none⟩,
  ⟨Reg.CMP_JOB_CNT, .rc, 0x0, 0xFFFFFFFF, none, none⟩,
  ⟨Reg.CMP_RAW_CNT, .rc, 0x0, 0xFFFFFFFF, none, none⟩,
  ⟨Reg.CMP_PAUSE_CNT, .rc, 0x0, 0xFFFFFFFF, none, none⟩,
  ⟨Reg.CMP_POISON_CNT, .rc, 0x0, 0xFFFFFFFF, none, none⟩,
  ⟨Reg.CMP_REC_TOTAL_LO, .ro, 0x0, 0xFFFFFFFF, none, none⟩,
  ⟨Reg.CMP_REC_TOTAL_HI, .ro, 0x0, 0xFFFFFFFF, none, none⟩,
  ⟨Reg.CMP_WORD_TOTAL_LO, .ro, 0x0, 0xFFFFFFFF, none, none⟩,
  ⟨Reg.CMP_WORD_TOTAL_HI, .ro, 0x0, 0xFFFFFFFF, none, none⟩,
  ⟨Reg.CMP_TOOBIG_CNT, .rc, 0x0, 0xFFFFFFFF, none, none⟩,
  ⟨Reg.CMP_JOB_SEL, .rw, 0x0, 0x3F, none, none⟩,
  ⟨Reg.CMP_JOB_STATE, .ro, 0x0, 0xFFFFFFFF, none, none⟩,
  ⟨Reg.CMP_JOB_FRAME_LO, .ro, 0x0, 0xFFFFFFFF, none, none⟩,
  ⟨Reg.CMP_JOB_FRAME_HI, .ro, 0x0, 0xFFFFFFFF, none, none⟩,
  ⟨Reg.CMP_JOB_IN, .ro, 0x0, 0xFFFFFFFF, none, none⟩,
  ⟨Reg.CMP_JOB_OUT, .ro, 0x0, 0xFFFFFFFF, none, none⟩,
  ⟨Reg.CMP_JOB_TOTAL, .ro, 0x0, 0xFFFFFFFF, none, none⟩]

/-- Q registers. -/
def regs_17 : List RegDesc := [
  ⟨Reg.Q_SEL, .rw, 0x0, 0xFFFF, none, none⟩,
  ⟨Reg.Q_CFG, .rw, 0x0, 0x7FFFFFF, none, none⟩,
  ⟨Reg.Q_STATUS, .ro, 0x0, 0xFFFFFFFF, none, none⟩,
  ⟨Reg.Q_COUNT, .ro, 0x0, 0xFFFFFFFF, none, none⟩,
  ⟨Reg.Q_HEAD, .ro, 0x0, 0xFFFFFFFF, none, none⟩,
  ⟨Reg.Q_TAIL, .ro, 0x0, 0xFFFFFFFF, none, none⟩,
  ⟨Reg.Q_POP_LO, .ro, 0x0, 0xFFFFFFFF, none, none⟩,
  ⟨Reg.Q_POP_HI, .ro, 0x0, 0xFFFFFFFF, none, none⟩,
  ⟨Reg.Q_RELEASE, .wo, 0x0, 0x7FFFFF, none, none⟩,
  ⟨Reg.Q_CTL, .wo, 0x0, 0x1, none, none⟩,
  ⟨Reg.Q_RESV, .wo, 0x0, 0xFFFFFF, none, none⟩,
  ⟨Reg.Q_WDATA_LO, .wo, 0x0, 0xFFFFFFFF, none, none⟩,
  ⟨Reg.Q_WDATA_HI, .wo, 0x0, 0xFFFFFFFF, none, none⟩,
  ⟨Reg.Q_COMMIT, .wo, 0x0, 0x3, none, none⟩,
  ⟨Reg.Q_PSTATUS, .ro, 0x0, 0xFFFFFFFF, none, none⟩,
  ⟨Reg.Q_EVENTS, .w1c, 0x0, 0x7, none, none⟩,
  ⟨Reg.Q_RESET_CNT, .rc, 0x0, 0xFFFFFFFF, none, none⟩,
  ⟨Reg.Q_TMO_CNT, .rc, 0x0, 0xFFFFFFFF, none, none⟩,
  ⟨Reg.Q_NOTICE_LOST, .rc, 0x0, 0xFFFFFFFF, none, none⟩,
  ⟨Reg.Q_OPEN_TMO, .rw, 0x1E, 0x3F, none, none⟩]

/-- PLC registers, part 0. -/
def regs_18_0 : List RegDesc := [
  ⟨Reg.PLC_CTL, .rw, 0x3, 0x3, none, none⟩,
  ⟨Reg.PLC_STATUS, .ro, 0x0, 0xFFFFFFFF, none, none⟩,
  ⟨Reg.PLC_EVENTS, .w1c, 0x0, 0x1F, none, none⟩,
  ⟨Reg.PLC_TBL_SEL, .rw, 0x0, 0x1FF, none, none⟩,
  ⟨Reg.PLC_TBL, .rw, 0x0, 0x3F, some Reg.PLC_TBL_SEL, none⟩,
  ⟨Reg.PLC_EPOCH_NEXT, .rw, 0x0, 0xFFFF, none, none⟩,
  ⟨Reg.PLC_SWITCH_FRAME_LO, .rw, 0x0, 0xFFFFFFFF, none, none⟩,
  ⟨Reg.PLC_SWITCH_FRAME_HI, .rw, 0x0, 0xFF, none, none⟩,
  ⟨Reg.PLC_SWITCH_CTL, .wo, 0x0, 0x3, none, none⟩,
  ⟨Reg.PLC_SWITCH_STATUS, .ro, 0x0, 0xFFFFFFFF, none, none⟩,
  ⟨Reg.PLC_RCV_SEL, .rw, 0x0, 0x3F, none, none⟩,
  ⟨Reg.PLC_RCV_ID, .rw, 0x0, 0x1FFFF, some Reg.PLC_RCV_SEL, none⟩,
  ⟨Reg.PLC_RCV_LANES, .rw, 0x0, 0xFFFFF, some Reg.PLC_RCV_SEL, none⟩,
  ⟨Reg.PLC_RCV_CREDIT, .ro, 0x0, 0xFFFFFFFF, none, none⟩,
  ⟨Reg.PLC_RCV_WAIT, .ro, 0x0, 0xFFFFFFFF, none, none⟩,
  ⟨Reg.PLC_RCV_INIT, .rw, 0x10000, 0xFFFFFFFF, none, none⟩,
  ⟨Reg.PLC_LANES_IN, .ro, 0x0, 0xFFFFFFFF, none, none⟩,
  ⟨Reg.PLC_REPLACE_CNT, .rc, 0x0, 0xFFFFFFFF, none, none⟩,
  ⟨Reg.PLC_WAIT_CNT, .rc, 0x0, 0xFFFFFFFF, none, none⟩,
  ⟨Reg.PLC_DUMP_RCV, .rw, 0x0, 0x3F, none, none⟩]

/-- PLC registers, part 1. -/
def regs_18_1 : List RegDesc := [
  ⟨Reg.PLC_JOB_REFUSED_CNT, .rc, 0x0, 0xFFFFFFFF, none, none⟩,
  ⟨Reg.PLC_JOB_WAIT, .ro, 0x0, 0xFFFFFFFF, none, none⟩,
  ⟨Reg.PLC_WRK_MASK_0, .rw, 0xFFFFFF, 0xFFFFFF, none, none⟩,
  ⟨Reg.PLC_WRK_MASK_1, .rw, 0xFFFFFF, 0xFFFFFF, none, none⟩,
  ⟨Reg.PLC_WRK_MASK_2, .rw, 0xFFFFFF, 0xFFFFFF, none, none⟩,
  ⟨Reg.PLC_WRK_MASK_3, .rw, 0xFFFFFF, 0xFFFFFF, none, none⟩,
  ⟨Reg.PLC_WRK_MASK_4, .rw, 0xFFFFFF, 0xFFFFFF, none, none⟩,
  ⟨Reg.PLC_WRK_MASK_5, .rw, 0xFFFFFF, 0xFFFFFF, none, none⟩,
  ⟨Reg.PLC_WRK_MASK_6, .rw, 0xFFFFFF, 0xFFFFFF, none, none⟩]

/-- PLC registers. -/
def regs_18 : List RegDesc := regs_18_0 ++ regs_18_1

/-- LNK control requests registers. -/
def regs_19 : List RegDesc := [
  ⟨Reg.LNK_REQ_STATUS, .ro, 0x0, 0xFFFFFFFF, none, none⟩,
  ⟨Reg.LNK_REQ_EVENTS, .w1c, 0x0, 0xF, none, none⟩,
  ⟨Reg.LNK_REQ_BUSY_CNT, .rc, 0x0, 0xFFFFFFFF, none, none⟩,
  ⟨Reg.LNK_REQ_STALE_CNT, .rc, 0x0, 0xFFFFFFFF, none, none⟩,
  ⟨Reg.LNK_REQ_REPLAY_CNT, .rc, 0x0, 0xFFFFFFFF, none, none⟩,
  ⟨Reg.LNK_REQ_DUP_CNT, .rc, 0x0, 0xFFFFFFFF, none, none⟩,
  ⟨Reg.LNK_REQ_BADTAG_CNT, .rc, 0x0, 0xFFFFFFFF, none, none⟩,
  ⟨Reg.LNK_REQ_MALFORMED_CNT, .rc, 0x0, 0xFFFFFFFF, none, none⟩,
  ⟨Reg.LNK_REQ_RECYCLE_CNT, .rc, 0x0, 0xFFFFFFFF, none, none⟩]

/-- WAG registers, part 0. -/
def regs_1A_0 : List RegDesc := [
  ⟨Reg.WAG_CTL, .rw, 0xA0083, 0x3FF00F3, none, none⟩,
  ⟨Reg.WAG_STEP_THR, .rw, 0xFA000, 0x7FFFFFFF, none, none⟩,
  ⟨Reg.WAG_STATUS, .ro, 0x0, 0xFFFFFFFF, none, none⟩,
  ⟨Reg.WAG_EVENTS, .w1c, 0x0, 0x7F, none, none⟩,
  ⟨Reg.WAG_KP, .ro, 0x0, 0xFFFFFFFF, none, none⟩,
  ⟨Reg.WAG_KI, .ro, 0x0, 0xFFFFFFFF, none, none⟩,
  ⟨Reg.WAG_INTEG_LO, .ro, 0x0, 0xFFFFFFFF, none, none⟩,
  ⟨Reg.WAG_INTEG_HI, .ro, 0x0, 0xFFFFFFFF, none, none⟩,
  ⟨Reg.WAG_LAST_E, .ro, 0x0, 0xFFFFFFFF, none, none⟩,
  ⟨Reg.WAG_LAST_N, .ro, 0x0, 0xFFFFFFFF, none, none⟩,
  ⟨Reg.WAG_REFUSED_CNT, .rc, 0x0, 0xFFFFFFFF, none, none⟩,
  ⟨Reg.WAG_EMPTY_CNT, .rc, 0x0, 0xFFFFFFFF, none, none⟩,
  ⟨Reg.WAG_ROOT_ID, .rw, 0x0, 0xFFFF, none, none⟩,
  ⟨Reg.WAG_ROOT_NOW, .ro, 0x0, 0xFFFFFFFF, none, none⟩,
  ⟨Reg.WAG_RT_TOL, .rw, 0x400, 0xFFFFF, none, none⟩,
  ⟨Reg.WAG_TS_SEND, .wo, 0x0, 0x1FF1F, none, none⟩,
  ⟨Reg.WAG_SEL, .rw, 0x0, 0x1F, none, none⟩,
  ⟨Reg.WAG_ASYM, .st, 0x0, 0xFFFFFFFF, some Reg.WAG_SEL, none⟩,
  ⟨Reg.WAG_ASYM_NOW, .ro, 0x0, 0xFFFFFFFF, some Reg.WAG_SEL, some Reg.WAG_ASYM⟩,
  ⟨Reg.WAG_LANE_STATUS, .ro, 0x0, 0xFFFFFFFF, none, none⟩]

/-- WAG registers, part 1. -/
def regs_1A_1 : List RegDesc := [
  ⟨Reg.WAG_LANE_ROOT, .ro, 0x0, 0xFFFFFFFF, none, none⟩,
  ⟨Reg.WAG_LANE_RT, .ro, 0x0, 0xFFFFFFFF, none, none⟩,
  ⟨Reg.WAG_LANE_OFFSET, .ro, 0x0, 0xFFFFFFFF, none, none⟩,
  ⟨Reg.WAG_LANE_SAMPLES, .ro, 0x0, 0xFFFFFFFF, none, none⟩,
  ⟨Reg.WAG_LANE_OUTLIER_CNT, .rc, 0x0, 0xFFFFFFFF, some Reg.WAG_SEL, none⟩,
  ⟨Reg.WAG_LANE_BAD_CNT, .rc, 0x0, 0xFFFFFFFF, some Reg.WAG_SEL, none⟩,
  ⟨Reg.WAG_TX_DLY, .ro, 0x0, 0xFFFFFFFF, some Reg.WAG_SEL, none⟩,
  ⟨Reg.WAG_RX_DLY, .ro, 0x0, 0xFFFFFFFF, some Reg.WAG_SEL, none⟩,
  ⟨Reg.WAG_TS_OVF_CNT, .rc, 0x0, 0xFFFFFFFF, some Reg.WAG_SEL, none⟩]

/-- WAG registers. -/
def regs_1A : List RegDesc := regs_1A_0 ++ regs_1A_1

/-- HSM registers, part 0. -/
def regs_1B_0 : List RegDesc := [
  ⟨Reg.HSM_CTL, .rw, 0x1, 0x1, none, none⟩,
  ⟨Reg.HSM_STATUS, .ro, 0x0, 0xFFFFFFFF, none, none⟩,
  ⟨Reg.HSM_EVENTS, .w1c, 0x0, 0x1F, none, none⟩,
  ⟨Reg.HSM_CE_CNT, .rc, 0x0, 0xFFFFFFFF, none, none⟩,
  ⟨Reg.HSM_UE_CNT, .rc, 0x0, 0xFFFFFFFF, none, none⟩,
  ⟨Reg.HSM_REFUSED_CNT, .rc, 0x0, 0xFFFFFFFF, none, none⟩,
  ⟨Reg.HSM_RETIRED_ACC_CNT, .rc, 0x0, 0xFFFFFFFF, none, none⟩,
  ⟨Reg.HSM_FORAGE_PASS, .rw, 0x3C, 0xFFF, none, none⟩,
  ⟨Reg.HSM_FORAGE_POS, .ro, 0x0, 0xFFFFFFFF, none, none⟩,
  ⟨Reg.HSM_FORAGE_CNT, .ro, 0x0, 0xFFFFFFFF, none, none⟩,
  ⟨Reg.HSM_FORAGE_LATE_CNT, .rc, 0x0, 0xFFFFFFFF, none, none⟩,
  ⟨Reg.HSM_LEAK, .rw, 0x1E, 0x3F, none, none⟩,
  ⟨Reg.HSM_BUCKET_MAX, .rw, 0x40, 0xFFFF, none, none⟩,
  ⟨Reg.HSM_BUCKET_OVF, .w1c, 0x0, 0xFFFFFFFF, none, none⟩,
  ⟨Reg.HSM_BUCKET_OVF_HI, .w1c, 0x0, 0xFFFF, none, none⟩,
  ⟨Reg.HSM_LOG_COUNT, .ro, 0x0, 0xFFFFFFFF, none, none⟩,
  ⟨Reg.HSM_LOG_POP_LO, .ro, 0x0, 0xFFFFFFFF, none, none⟩,
  ⟨Reg.HSM_LOG_POP_HI, .ro, 0x0, 0xFFFFFFFF, none, none⟩,
  ⟨Reg.HSM_LOG_TIME, .ro, 0x0, 0xFFFFFFFF, none, none⟩,
  ⟨Reg.HSM_LOG_LOST_CNT, .rc, 0x0, 0xFFFFFFFF, none, none⟩]

/-- HSM registers, part 1. -/
def regs_1B_1 : List RegDesc := [
  ⟨Reg.HSM_RETIRE, .wo, 0x0, 0x33FFF, none, none⟩,
  ⟨Reg.HSM_RETIRE_STATUS, .ro, 0x0, 0xFFFFFFFF, none, none⟩,
  ⟨Reg.HSM_RETIRE_SEL, .rw, 0x0, 0x1FF, none, none⟩,
  ⟨Reg.HSM_RETIRE_MAP, .ro, 0x0, 0xFFFFFFFF, none, none⟩,
  ⟨Reg.HSM_WIN_ADDR, .rw, 0x0, 0x3FFFFF9, none, none⟩,
  ⟨Reg.HSM_WIN_RDATA_LO, .ro, 0x0, 0xFFFFFFFF, none, none⟩,
  ⟨Reg.HSM_WIN_RDATA_HI, .ro, 0x0, 0xFFFFFFFF, none, none⟩,
  ⟨Reg.HSM_WIN_WDATA_LO, .wo, 0x0, 0xFFFFFFFF, none, none⟩,
  ⟨Reg.HSM_WIN_WDATA_HI, .wo, 0x0, 0xFFFFFFFF, none, none⟩,
  ⟨Reg.HSM_WIN_STATUS, .ro, 0x0, 0xFFFFFFFF, none, none⟩]

/-- HSM registers. -/
def regs_1B : List RegDesc := regs_1B_0 ++ regs_1B_1

/-- NVS registers. -/
def regs_1C : List RegDesc := [
  ⟨Reg.NVS_CTL, .wo, 0x0, 0x80FFFF03, none, none⟩,
  ⟨Reg.NVS_ADDR, .rw, 0x0, 0x3FFFFF8, none, none⟩,
  ⟨Reg.NVS_LEN, .rw, 0x0, 0x1FFFF, none, none⟩,
  ⟨Reg.NVS_STATUS, .ro, 0x0, 0xFFFFFFFF, none, none⟩,
  ⟨Reg.NVS_EVENTS, .w1c, 0x0, 0x7, none, none⟩,
  ⟨Reg.NVS_FREE, .ro, 0x0, 0xFFFFFFFF, none, none⟩,
  ⟨Reg.NVS_LAST_LEN, .ro, 0x0, 0xFFFFFFFF, none, none⟩,
  ⟨Reg.NVS_SEQ_LO, .ro, 0x0, 0xFFFFFFFF, none, none⟩,
  ⟨Reg.NVS_SEQ_HI, .ro, 0x0, 0xFFFFFFFF, none, none⟩,
  ⟨Reg.NVS_DISCARD_CNT, .ro, 0x0, 0xFFFFFFFF, none, none⟩,
  ⟨Reg.NVS_RAW_ADDR, .rw, 0x0, 0x7FFF, none, none⟩,
  ⟨Reg.NVS_RAW_LO, .ro, 0x0, 0xFFFFFFFF, none, none⟩,
  ⟨Reg.NVS_RAW_HI, .ro, 0x0, 0xFFFFFFFF, none, none⟩]

/-- HUM registers. -/
def regs_1D : List RegDesc := [
  ⟨Reg.HUM_STATUS, .ro, 0x0, 0xFFFFFFFF, none, none⟩,
  ⟨Reg.HUM_EVENTS, .w1c, 0x0, 0x7, none, none⟩,
  ⟨Reg.HUM_MISS_D_CNT, .rc, 0x0, 0xFFFFFFFF, none, none⟩,
  ⟨Reg.HUM_MISS_R_CNT, .rc, 0x0, 0xFFFFFFFF, none, none⟩,
  ⟨Reg.HUM_BAD_CNT, .rc, 0x0, 0xFFFFFFFF, none, none⟩,
  ⟨Reg.HUM_DONE_LO, .ro, 0x0, 0xFFFFFFFF, none, none⟩,
  ⟨Reg.HUM_DONE_HI, .ro, 0x0, 0xFFFFFFFF, none, none⟩,
  ⟨Reg.HUM_PEER_CLAIM, .ro, 0x0, 0xFFFFFFFF, none, none⟩]

/-- CLM registers. -/
def regs_1E : List RegDesc := [
  ⟨Reg.CLM_CLAIM, .rw, 0x0, 0xFFFF, none, none⟩,
  ⟨Reg.CLM_STATUS, .ro, 0x0, 0xFFFFFFFF, none, none⟩,
  ⟨Reg.CLM_CTL, .wo, 0x0, 0xF, none, none⟩,
  ⟨Reg.CLM_EVENTS, .w1c, 0x0, 0xF, none, none⟩,
  ⟨Reg.CLM_TAKE_FRAME_LO, .ro, 0x0, 0xFFFFFFFF, none, none⟩,
  ⟨Reg.CLM_TAKE_FRAME_HI, .ro, 0x0, 0xFFFFFFFF, none, none⟩,
  ⟨Reg.CLM_TAKE_CNT, .ro, 0x0, 0xFFFFFFFF, none, none⟩,
  ⟨Reg.CLM_VOTE_CNT, .rc, 0x0, 0xFFFFFFFF, none, none⟩]

/-- PWR registers, part 0. -/
def regs_20_0 : List RegDesc := [
  ⟨Reg.PWR_CTL, .wo, 0x0, 0x3, none, none⟩,
  ⟨Reg.PWR_STATUS, .ro, 0x0, 0xFFFFFFFF, none, none⟩,
  ⟨Reg.PWR_EVENTS, .w1c, 0x0, 0x7F, none, none⟩,
  ⟨Reg.PWR_BUDGET, .rw, 0x168, 0x1FF, none, none⟩,
  ⟨Reg.PWR_HYST, .rw, 0xA, 0x3F, none, none⟩,
  ⟨Reg.PWR_FIXED, .rw, 0xF, 0xFF, none, none⟩,
  ⟨Reg.PWR_EST, .ro, 0x0, 0xFFFFFFFF, none, none⟩,
  ⟨Reg.PWR_GRANT, .ro, 0x0, 0xFFFFFFFF, none, none⟩,
  ⟨Reg.PWR_THROTTLE_CFG, .rw, 0x11, 0x1F1, none, none⟩,
  ⟨Reg.PWR_WAKE_CFG, .rw, 0x1FFFFF, 0x1FFFFF, none, none⟩,
  ⟨Reg.PWR_WAKE_SRC, .ro, 0x0, 0xFFFFFFFF, none, none⟩,
  ⟨Reg.PWR_LINGER, .rw, 0x3E8, 0xFFFFF, none, none⟩,
  ⟨Reg.PWR_LP_OVL_CNT, .rc, 0x0, 0xFFFFFFFF, none, none⟩,
  ⟨Reg.PWR_ABORT_CNT, .rc, 0x0, 0xFFFFFFFF, none, none⟩,
  ⟨Reg.PWR_VOTE, .wo, 0x0, 0x307, none, none⟩,
  ⟨Reg.PWR_DOM_0_CFG, .rw, 0x2, 0x3, none, none⟩,
  ⟨Reg.PWR_DOM_1_CFG, .rw, 0x2, 0x3, none, none⟩,
  ⟨Reg.PWR_DOM_2_CFG, .rw, 0x2, 0x3, none, none⟩,
  ⟨Reg.PWR_DOM_3_CFG, .rw, 0x2, 0x3, none, none⟩,
  ⟨Reg.PWR_DOM_4_CFG, .rw, 0x2, 0x3, none, none⟩]

/-- PWR registers, part 1. -/
def regs_20_1 : List RegDesc := [
  ⟨Reg.PWR_DOM_5_CFG, .rw, 0x2, 0x3, none, none⟩,
  ⟨Reg.PWR_DOM_6_CFG, .rw, 0x1, 0x3, none, none⟩,
  ⟨Reg.PWR_DOM_7_CFG, .rw, 0x1, 0x3, none, none⟩,
  ⟨Reg.PWR_DOM_0_VOTE_RUN, .ro, 0x0, 0xFFFFFFFF, none, none⟩,
  ⟨Reg.PWR_DOM_1_VOTE_RUN, .ro, 0x0, 0xFFFFFFFF, none, none⟩,
  ⟨Reg.PWR_DOM_2_VOTE_RUN, .ro, 0x0, 0xFFFFFFFF, none, none⟩,
  ⟨Reg.PWR_DOM_3_VOTE_RUN, .ro, 0x0, 0xFFFFFFFF, none, none⟩,
  ⟨Reg.PWR_DOM_4_VOTE_RUN, .ro, 0x0, 0xFFFFFFFF, none, none⟩,
  ⟨Reg.PWR_DOM_5_VOTE_RUN, .ro, 0x0, 0xFFFFFFFF, none, none⟩,
  ⟨Reg.PWR_DOM_6_VOTE_RUN, .ro, 0x0, 0xFFFFFFFF, none, none⟩,
  ⟨Reg.PWR_DOM_7_VOTE_RUN, .ro, 0x0, 0xFFFFFFFF, none, none⟩,
  ⟨Reg.PWR_DOM_0_VOTE_IDLE, .ro, 0x0, 0xFFFFFFFF, none, none⟩,
  ⟨Reg.PWR_DOM_1_VOTE_IDLE, .ro, 0x0, 0xFFFFFFFF, none, none⟩,
  ⟨Reg.PWR_DOM_2_VOTE_IDLE, .ro, 0x0, 0xFFFFFFFF, none, none⟩,
  ⟨Reg.PWR_DOM_3_VOTE_IDLE, .ro, 0x0, 0xFFFFFFFF, none, none⟩,
  ⟨Reg.PWR_DOM_4_VOTE_IDLE, .ro, 0x0, 0xFFFFFFFF, none, none⟩,
  ⟨Reg.PWR_DOM_5_VOTE_IDLE, .ro, 0x0, 0xFFFFFFFF, none, none⟩,
  ⟨Reg.PWR_DOM_6_VOTE_IDLE, .ro, 0x0, 0xFFFFFFFF, none, none⟩,
  ⟨Reg.PWR_DOM_7_VOTE_IDLE, .ro, 0x0, 0xFFFFFFFF, none, none⟩,
  ⟨Reg.PWR_DOM_0_STATE, .ro, 0x0, 0xFFFFFFFF, none, none⟩]

/-- PWR registers, part 2. -/
def regs_20_2 : List RegDesc := [
  ⟨Reg.PWR_DOM_1_STATE, .ro, 0x0, 0xFFFFFFFF, none, none⟩,
  ⟨Reg.PWR_DOM_2_STATE, .ro, 0x0, 0xFFFFFFFF, none, none⟩,
  ⟨Reg.PWR_DOM_3_STATE, .ro, 0x0, 0xFFFFFFFF, none, none⟩,
  ⟨Reg.PWR_DOM_4_STATE, .ro, 0x0, 0xFFFFFFFF, none, none⟩,
  ⟨Reg.PWR_DOM_5_STATE, .ro, 0x0, 0xFFFFFFFF, none, none⟩,
  ⟨Reg.PWR_DOM_6_STATE, .ro, 0x0, 0xFFFFFFFF, none, none⟩,
  ⟨Reg.PWR_DOM_7_STATE, .ro, 0x0, 0xFFFFFFFF, none, none⟩]

/-- PWR registers. -/
def regs_20 : List RegDesc := regs_20_0 ++ regs_20_1 ++ regs_20_2

/-- RST registers. -/
def regs_21 : List RegDesc := [
  ⟨Reg.RST_CTL, .wo, 0x0, 0x1FFFF, none, none⟩,
  ⟨Reg.RST_CAUSE, .ro, 0x0, 0xFFFFFFFF, none, none⟩,
  ⟨Reg.RST_REGION, .wo, 0x0, 0x1000F, none, none⟩,
  ⟨Reg.RST_REGION_STATUS, .ro, 0x0, 0xFFFFFFFF, none, none⟩,
  ⟨Reg.RST_EVENTS, .w1c, 0x0, 0x3, none, none⟩,
  ⟨Reg.RST_REMOTE, .wo, 0x0, 0xFFFFFFFF, none, none⟩,
  ⟨Reg.RST_REMOTE_LANES, .rw, 0xFFFFF, 0xFFFFF, none, none⟩,
  ⟨Reg.RST_STARTUP, .ro, 0x0, 0xFFFFFFFF, none, none⟩,
  ⟨Reg.RST_CHIP_CNT, .ro, 0x0, 0xFFFFFFFF, none, none⟩]

/-- LNK lane registers, part 0. -/
def regs_30_0 : List RegDesc := [
  ⟨Reg.LNK_CFG, .st, 0x0, 0xF, none, none⟩,
  ⟨Reg.LNK_CFG_NOW, .ro, 0x0, 0xFFFFFFFF, none, some Reg.LNK_CFG⟩,
  ⟨Reg.LNK_CTL, .wo, 0x0, 0x7, none, none⟩,
  ⟨Reg.LNK_STATUS, .ro, 0x0, 0xFFFFFFFF, none, none⟩,
  ⟨Reg.LNK_EVENTS, .w1c, 0x0, 0x1F, none, none⟩,
  ⟨Reg.LNK_PARTNER, .ro, 0x0, 0xFFFFFFFF, none, none⟩,
  ⟨Reg.LNK_RETRY_TMO, .rw, 0x40, 0x7FF, none, none⟩,
  ⟨Reg.LNK_RETRY_MAX, .rw, 0x10, 0xFF, none, none⟩,
  ⟨Reg.LNK_RETX_CNT, .rc, 0x0, 0xFFFFFFFF, none, none⟩,
  ⟨Reg.LNK_CRC_CNT, .rc, 0x0, 0xFFFFFFFF, none, none⟩,
  ⟨Reg.LNK_DUP_CNT, .rc, 0x0, 0xFFFFFFFF, none, none⟩,
  ⟨Reg.LNK_GAP_CNT, .rc, 0x0, 0xFFFFFFFF, none, none⟩,
  ⟨Reg.LNK_DISC_CNT, .rc, 0x0, 0xFFFFFFFF, none, none⟩,
  ⟨Reg.LNK_DOWN_CNT, .rc, 0x0, 0xFFFFFFFF, none, none⟩,
  ⟨Reg.LNK_TX_UNACK, .ro, 0x0, 0xFFFFFFFF, none, none⟩,
  ⟨Reg.LNK_PWR, .rw, 0x4, 0x7, none, none⟩,
  ⟨Reg.LNK_PRBS_CFG, .rw, 0x0, 0x3F, none, none⟩,
  ⟨Reg.LNK_PRBS_INJ, .wo, 0x0, 0x7FFF, none, none⟩,
  ⟨Reg.LNK_PRBS_STATUS, .ro, 0x0, 0xFFFFFFFF, none, none⟩,
  ⟨Reg.LNK_ERR_CNT_LO, .ro, 0x0, 0xFFFFFFFF, none, none⟩]

/-- LNK lane registers, part 1. -/
def regs_30_1 : List RegDesc := [
  ⟨Reg.LNK_ERR_CNT_HI, .ro, 0x0, 0xFFFFFFFF, none, none⟩,
  ⟨Reg.LNK_CREDIT_IGN_CNT, .rc, 0x0, 0xFFFFFFFF, none, none⟩]

/-- LNK lane registers. -/
def regs_30 : List RegDesc := regs_30_0 ++ regs_30_1

/-- CHIP registers, part 0. -/
def regs_chip_0 : List RegDesc := [
  ⟨Reg.CHIP_DEVICE_ID, .st, 0x0, 0xFFF, none, none⟩,
  ⟨Reg.CHIP_DEVICE_ID_NOW, .ro, 0x0, 0xFFFFFFFF, none, some Reg.CHIP_DEVICE_ID⟩,
  ⟨Reg.CHIP_FP_TAG, .st, 0x0, 0xFFFFFFFF, none, none⟩,
  ⟨Reg.CHIP_FP_TAG_NOW, .ro, 0x0, 0xFFFFFFFF, none, some Reg.CHIP_FP_TAG⟩,
  ⟨Reg.CHIP_FP_NOW, .ro, 0x0, 0xFFFFFFFF, none, none⟩,
  ⟨Reg.CHIP_FP_STAGED, .ro, 0x0, 0xFFFFFFFF, none, none⟩,
  ⟨Reg.CHIP_SYS_EVENTS, .w1c, 0x0, 0x7, none, none⟩,
  ⟨Reg.CHIP_ID_CLASH_CNT, .rc, 0x0, 0xFFFFFFFF, none, none⟩,
  ⟨Reg.CHIP_SCHED_EXP_CNT, .rc, 0x0, 0xFFFFFFFF, none, none⟩,
  ⟨Reg.CHIP_PART, .ro, 0x521152, 0xFFFFFFFF, none, none⟩,
  ⟨Reg.CHIP_STEPPING, .ro, 0x0, 0xFFFFFFFF, none, none⟩,
  ⟨Reg.CHIP_SERIAL_LO, .ro, 0x0, 0xFFFFFFFF, none, none⟩,
  ⟨Reg.CHIP_SERIAL_HI, .ro, 0x0, 0xFFFFFFFF, none, none⟩,
  ⟨Reg.CHIP_TEST_DATE, .ro, 0x0, 0xFFFFFFFF, none, none⟩,
  ⟨Reg.CHIP_JTAG_IDCODE, .ro, 0x0, 0xFFFFFFFF, none, none⟩,
  ⟨Reg.CHIP_STRAPS, .ro, 0x0, 0xFFFFFFFF, none, none⟩,
  ⟨Reg.CHIP_COMMIT_FRAME_LO, .rw, 0x0, 0xFFFFFFFF, none, none⟩,
  ⟨Reg.CHIP_COMMIT_FRAME_HI, .rw, 0x0, 0xFF, none, none⟩,
  ⟨Reg.CHIP_COMMIT_CTL, .wo, 0x0, 0x7, none, none⟩,
  ⟨Reg.CHIP_COMMIT_STATUS, .ro, 0x0, 0xFFFFFFFF, none, none⟩]

/-- CHIP registers, part 1. -/
def regs_chip_1 : List RegDesc := [
  ⟨Reg.CHIP_COMMIT_LAST_LO, .ro, 0x0, 0xFFFFFFFF, none, none⟩,
  ⟨Reg.CHIP_COMMIT_LAST_HI, .ro, 0x0, 0xFFFFFFFF, none, none⟩,
  ⟨Reg.CHIP_EVENTS, .w1c, 0x0, 0x7F, none, none⟩,
  ⟨Reg.CHIP_SPI_ABORT_CNT, .rc, 0x0, 0xFFFFFFFF, none, none⟩,
  ⟨Reg.CHIP_SPI_FRAME_ERR_CNT, .rc, 0x0, 0xFFFFFFFF, none, none⟩,
  ⟨Reg.CHIP_SPI_CMD_ERR_CNT, .rc, 0x0, 0xFFFFFFFF, none, none⟩,
  ⟨Reg.CHIP_SPI_BUSY_CNT, .rc, 0x0, 0xFFFFFFFF, none, none⟩,
  ⟨Reg.CHIP_I2C_STUCK_CNT, .rc, 0x0, 0xFFFFFFFF, none, none⟩,
  ⟨Reg.CHIP_FAULTN, .ro, 0x0, 0xFFFFFFFF, none, none⟩,
  ⟨Reg.CHIP_FAULTN_EXT_CNT, .rc, 0x0, 0xFFFFFFFF, none, none⟩,
  ⟨Reg.CHIP_ESTOP_CTL, .wo, 0x0, 0x3, none, none⟩,
  ⟨Reg.CHIP_ESTOP_STATUS, .ro, 0x0, 0xFFFFFFFF, none, none⟩,
  ⟨Reg.BEHAVIOUR_LEVEL, .st, 0x1, 0xF, none, none⟩,
  ⟨Reg.BEHAVIOUR_LEVEL_NOW, .ro, 0x1, 0xFFFFFFFF, none, some Reg.BEHAVIOUR_LEVEL⟩]

/-- CHIP registers. -/
def regs_chip : List RegDesc := regs_chip_0 ++ regs_chip_1

/-- header registers. -/
def regs_header : List RegDesc := [
  ⟨Reg.PAGE_ID, .ro, 0x0, 0xFFFFFFFF, none, none⟩,
  ⟨Reg.PAGE_VER, .ro, 0x1, 0xFFFFFFFF, none, none⟩,
  ⟨Reg.CTL, .wo, 0x0, 0x1, none, none⟩,
  ⟨Reg.STATUS, .ro, 0x0, 0xFFFFFFFF, none, none⟩,
  ⟨Reg.ERR_STATUS, .w1c, 0x0, 0x1F, none, none⟩,
  ⟨Reg.ERR_MASK, .rw, 0x0, 0x1F, none, none⟩,
  ⟨Reg.EVT_COUNT, .rc, 0x0, 0xFFFFFFFF, none, none⟩,
  ⟨Reg.STAGE_STATUS, .ro, 0x0, 0xFFFFFFFF, none, none⟩]

/-- The registers of a page group; `chip` tells group 0 of the chip region (15_control.md R473). -/
def regsOf (group : Nat) : List RegDesc :=
  match group with
  | 0x01 => regs_01
  | 0x02 => regs_02
  | 0x03 => regs_03
  | 0x04 => regs_04
  | 0x05 => regs_05
  | 0x06 => regs_06
  | 0x10 => regs_10
  | 0x11 => regs_11
  | 0x12 => regs_12
  | 0x13 => regs_13
  | 0x14 => regs_14
  | 0x15 => regs_15
  | 0x16 => regs_16
  | 0x17 => regs_17
  | 0x18 => regs_18
  | 0x19 => regs_19
  | 0x1A => regs_1A
  | 0x1B => regs_1B
  | 0x1C => regs_1C
  | 0x1D => regs_1D
  | 0x1E => regs_1E
  | 0x20 => regs_20
  | 0x21 => regs_21
  | 0x30 => regs_30
  | 0x00 => regs_chip
  | _ => []

end Sys2Proof.Machine
end

