-- ==== Sys2Proof/Machine/RegFile.lean ====
section
/-! DEFINITION. The register file: where a page lies, the value in force of a register, its staged value, and the
counters. A register of a hive page whose configuration is held once per device (15_control.md R566) is stored under
HIVE_A's page. -/

namespace Sys2Proof.Machine

/-- The address of a page (15_control.md R472). -/
abbrev page (region group inst : Nat) : Nat := 2 ^ 20 * group + 2 ^ 28 * region + 2 ^ 12 * inst

/-- The page of a block (00_scope.md R17). -/
abbrev blkPage (b : Nat) : Nat := page (b / 12) 0x01 (b % 12)
/-- A page of a comb. -/
abbrev combPage (c group : Nat) : Nat := page c group 0
/-- A page of a hive. -/
abbrev hivePage (h : HiveId) (group : Nat) : Nat := page (hiveRegion h) group 0
/-- A hive page's configuration that is held once per device. -/
abbrev cfgPage (group : Nat) : Nat := page 8 group 0
abbrev chipPage : Nat := page 0xF 0x00 0
abbrev pwrPage : Nat := page 0xF 0x20 0
abbrev rstPage : Nat := page 0xF 0x21 0
/-- The page of a lane. -/
abbrev lanePage (l : Nat) : Nat := page 0xF 0x30 l
/-- The region code of a guard: combs 0–5, hives 6 and 7 (00_scope.md R16). -/
abbrev regionCode (g : Nat) : Nat := if g < 6 then g else g + 2
/-- The page of a worker (12_workers.md R405). -/
def wrkPage (w : Nat) : Nat :=
  if w < 144 then page (w / 24) 0x03 w else page (8 + (w - 144) / 24) 0x03 ((w - 144) % 24)
/-- The guard page of region `g`. -/
abbrev grdPage (g : Nat) : Nat := page (regionCode g) 0x05 0
/-- The lease page of region `g`. -/
abbrev lsePage (g : Nat) : Nat := page (regionCode g) 0x04 0

/-- The key of a register: its address and the index of its window. -/
abbrev rkey (pg off idx : Nat) : Nat := off + pg + 2 ^ 32 * idx

/-- Whether the configuration of a hive page group is held once per device (R566). -/
abbrev deviceWide (group : Nat) : Bool := decide (0x10 ≤ group) && decide (group ≤ 0x1A)

/-- The description of a register of a group, the page header included (R474). -/
def descOf (group off : Nat) : Option RegDesc :=
  if off < 0x40 then regs_header.find? (fun d => d.off = off) else (regsOf group).find? (fun d => d.off = off)

/-- Reset values of GRD_SRC_CFG (14_redundancy_faults.md R453, R454): CEIL, W, N. -/
def grdSrcReset (region src : Nat) : Nat :=
  let v (n w ceil : Nat) := 2 ^ 16 * ceil + w * 2 ^ 8 + n
  if region < 6 then
    if src < 12 then v 4 30 4
    else match src with
      | 12 => v 1 30 4 | 13 => v 1 30 4 | 14 => v 4 30 4 | 15 => v 64 30 2 | 16 => v 1 30 0 | 17 => v 1 30 0
      | 18 => v 1 30 4 | 19 => v 4 30 4 | 20 => v 1 30 0 | _ => 0
  else match src with
    | 0 => v 16 30 4 | 1 => v 4 30 4 | 2 => v 1 30 4 | 3 => v 4 30 4 | 4 => v 64 30 3 | 5 => v 1 30 0
    | 6 => v 1 30 0 | 7 => v 1 30 0 | 8 => v 1 30 4 | 9 => v 1 30 0 | _ => 0

/-- Reset values of HK_OFFSET and HK_GAIN by input (17_housekeeping.md R527). -/
def hkOffsetReset (i : Nat) : Nat := if i = 8 then 0x04CD0000 else 0
def hkGainReset (i : Nat) : Nat := if i = 8 then 0x00100000 else if i = 13 ∨ i = 14 then 0x02800000 else 0x00800000

/-- The reset value of a register (00_scope.md R13). -/
def regReset (k : Nat) : W32 :=
  let off := k % 2 ^ 12
  let group := k / 2 ^ 20 % 2 ^ 8
  if group = 6 ∧ off = Reg.HK_OFFSET then w32 (hkOffsetReset (k / 2 ^ 32))
  else if group = 6 ∧ off = Reg.HK_GAIN then w32 (hkGainReset (k / 2 ^ 32))
  else if group = 0x30 ∧ off = Reg.LNK_CFG then (if k / 2 ^ 12 % 2 ^ 8 < 16 then 0xD#32 else 0xE#32)
  else if group = 5 ∧ off = Reg.GRD_SRC_CFG then w32 (grdSrcReset (k / 2 ^ 28 % 16) (k / 2 ^ 32))
  else match descOf group off with
    | some d => w32 d.reset
    | none => 0

/-- The value in force of a register. -/
def State.reg (s : State) (pg off : Nat) (idx : Nat := 0) : W32 :=
  match tfind s.regs (rkey pg off idx) with
  | some v => v
  | none => regReset (rkey pg off idx)

/-- The state with a register's value in force set. -/
def State.setReg (s : State) (pg off : Nat) (v : W32) (idx : Nat := 0) : State :=
  { s with regs := tset (regReset (rkey pg off idx)) s.regs (rkey pg off idx) v }

/-- The state with a saturating 32-bit counter raised. -/
def State.count (s : State) (pg off : Nat) (n : Nat := 1) (idx : Nat := 0) : State :=
  s.setReg pg off (satInc (s.reg pg off idx) n) idx

/-- The state with a register that keeps the greatest value seen. -/
def State.maxReg (s : State) (pg off n : Nat) (idx : Nat := 0) : State :=
  s.setReg pg off (w32 (max (s.reg pg off idx).toNat n)) idx

/-- The staged value of a register: the pending one, else the one in force (00_scope.md R12). -/
def State.stagedReg (s : State) (pg off : Nat) (idx : Nat := 0) : W32 :=
  match tfind s.staged (rkey pg off idx) with
  | some v => v
  | none => s.reg pg off idx

/-- A configuration register of a device-wide hive page. -/
abbrev State.cfg (s : State) (group off : Nat) (idx : Nat := 0) : W32 := s.reg (cfgPage group) off idx

/-- A value in two registers of a page, LO first (15_control.md R477). -/
def State.reg64 (s : State) (pg off : Nat) (idx : Nat := 0) : Nat :=
  (s.reg pg off idx).toNat + 2 ^ 32 * (s.reg pg (off + 4) idx).toNat

/-- The state with a value put in two registers of a page, LO first. -/
def State.setReg64 (s : State) (pg off : Nat) (v : Nat) (idx : Nat := 0) : State :=
  (s.setReg pg off (w32 v) idx).setReg pg (off + 4) (w32 (v / 2 ^ 32)) idx

/-- A selection register of a path; `k` is its address, with HIVE_A's page for a device-wide group (R566). -/
def State.sel (s : State) (p : Path) (pg off : Nat) : W32 := tget 0 s.sels (off + pg + 2 ^ 48 * pathNo p)

def State.setSel (s : State) (p : Path) (pg off : Nat) (v : W32) : State :=
  { s with sels := tset 0 s.sels (off + pg + 2 ^ 48 * pathNo p) v }

/-! ### Time as the hives hold it (02_timebase.md) -/

/-- The voted time core (R54). -/
def TimeBase.core (t : TimeBase) : TimeCore :=
  { sec := maj t.core0.sec t.core1.sec t.core2.sec
    nsec := maj t.core0.nsec t.core1.nsec t.core2.nsec
    frac := maj t.core0.frac t.core1.frac t.core2.frac
    frame := maj t.core0.frame t.core1.frame t.core2.frame
    freq := maj t.core0.freq t.core1.freq t.core2.freq
    holdAvg := maj t.core0.holdAvg t.core1.holdAvg t.core2.holdAvg
    integ := maj t.core0.integ t.core1.integ t.core2.integ
    lockRun := maj t.core0.lockRun t.core1.lockRun t.core2.lockRun
    sum := maj t.core0.sum t.core1.sum t.core2.sum
    num := maj t.core0.num t.core1.num t.core2.num
    skip := maj t.core0.skip t.core1.skip t.core2.skip }

/-- A time base whose three copies hold one core. -/
def TimeBase.setCore (t : TimeBase) (c : TimeCore) : TimeBase := { t with core0 := c, core1 := c, core2 := c }

/-- The bits in which two cores differ. -/
def TimeCore.diff (a b : TimeCore) : TimeCore :=
  { sec := a.sec ^^^ b.sec, nsec := a.nsec ^^^ b.nsec, frac := a.frac ^^^ b.frac, frame := a.frame ^^^ b.frame
    freq := a.freq ^^^ b.freq, holdAvg := a.holdAvg ^^^ b.holdAvg, integ := a.integ ^^^ b.integ
    lockRun := a.lockRun ^^^ b.lockRun, sum := a.sum ^^^ b.sum, num := a.num ^^^ b.num, skip := a.skip ^^^ b.skip }

/-- A time base whose voted core is changed. Bits by which a copy differs stay different until the next tick's vote (R54). -/
def TimeBase.modCore (t : TimeBase) (f : TimeCore → TimeCore) : TimeBase :=
  let v := t.core
  let n := f v
  let put (c : TimeCore) : TimeCore := n.diff (v.diff c)
  { t with core0 := put t.core0, core1 := put t.core1, core2 := put t.core2 }

/-- The full count in fu since the system epoch (R48). -/
def TimeCore.fu (c : TimeCore) : Int := (1024 * (1000000000 * c.sec.toNat + c.nsec.toNat) + c.frac.toNat : Nat)

/-- A time core at a count of fu (R41, R42). -/
def TimeCore.atFu (c : TimeCore) (x : Int) : TimeCore :=
  let ns := x / 1024
  { c with frac := BitVec.ofInt 10 (x % 1024), nsec := BitVec.ofInt 30 (ns % 1000000000), sec := BitVec.ofInt 48 (ns / 1000000000) }

/-- Present time of a hive in fu since the system epoch. -/
def State.fuOf (s : State) (h : HiveId) : Int := (s.hive h).tb.core.fu

/-- Present time of the active hive, which the spine carries (R55). -/
def State.now (s : State) : Int := s.fuOf (higherClaim s)

/-- The short time of an instant (R48). -/
def shortOf (fu : Int) : BitVec 32 := BitVec.ofInt 32 fu

/-- The present short time. -/
def State.short (s : State) : BitVec 32 := shortOf s.now

/-- QUAL as the time word carries it (R43). -/
def Qual.bits (q : Qual) : Nat :=
  bitAt q.locked 0 + bitAt q.holdover 1 + bitAt q.stepped 2 + bitAt q.suspectRef 3 + bitAt q.unsync 4 + bitAt q.coarse 5

/-- The sync state (R44). -/
def Qual.sync (q : Qual) : Nat :=
  if q.unsync ∨ q.coarse then 0 else if q.holdover then 3 else if q.locked then 2 else 1

/-- The time word (R41). -/
def timeWord (c : TimeCore) (q : Qual) : BitVec 96 := c.sec ++ c.nsec ++ c.frac ++ BitVec.ofNat 8 q.bits

/-- Frame length exponent in force (R53). -/
def State.frameK (s : State) : Nat := fld (s.cfg 0x10 Reg.TIM_FRAME_K) 4 0

/-- Frame length in fu. -/
def State.frameFu (s : State) : Int := (1024 * 2 ^ s.frameK : Nat)

/-- The frame epoch in force, in fu since the system epoch (R49). -/
def State.epochFu (s : State) : Int :=
  (1024 * ((s.reg64 (cfgPage 0x10) Reg.TIM_EPOCH_SEC_LO) % 2 ^ 48 * 1000000000 + fld (s.cfg 0x10 Reg.TIM_EPOCH_NSEC) 29 0) : Nat)

/-- The frame counter of the active hive, which the spine carries. -/
def State.frameNow (s : State) : BitVec 40 := (s.hive (higherClaim s)).tb.core.frame

/-- The signed difference of two frame numbers (R51). -/
def frameDiff (a b : BitVec 40) : Int := (a - b).toInt

/-- The start of frame `f`, the one of that number nearest to the present instant, in fu since the system epoch
(R49, R51). -/
def State.frameStart (s : State) (f : BitVec 40) : Int :=
  let here := (s.now - s.epochFu).fdiv s.frameFu
  s.epochFu + (here + (f - BitVec.ofInt 40 here).toInt) * s.frameFu

end Sys2Proof.Machine
end

