-- ==== Sys2Proof/Machine/Honey.lean ====
section
/-! DEFINITION. The honey store of a hive: reading and writing words and parts of words, correction, poison, the merge
buffer, the error log, the buckets, the directory (13_memory.md R409–R423, 12_workers.md R399–R401). An operation
answers the events it gives rise to; `Events.lean` delivers them. -/

namespace Sys2Proof.Machine

/-- An event that waits for delivery: bits of a W1C register, or an error at a source of a region guard. -/
inductive Ev where
  | raise (pg off bits : Nat)
  | guard (g src : Nat)
deriving DecidableEq, Repr

/-- Words of a honey store (R409). -/
abbrev honeyWords : Nat := 6291456

/-- The agents of the error log (R420). -/
abbrev agForager : Nat := 0
abbrev agCache : Nat := 1
abbrev agUncached : Nat := 2
abbrev agStream : Nat := 3
abbrev agComb : Nat := 4
abbrev agEngine : Nat := 5
abbrev agQueue : Nat := 6
abbrev agLane : Nat := 7
abbrev agWindow : Nat := 8
abbrev agMerge : Nat := 9

/-- The stored data of a word. -/
def Honey.data (y : Honey) (w : Nat) : W64 := BitVec.ofNat 64 (y.bytes.getN (8 * w) 8)

/-- A store with a word's data and state set, its check bits good. -/
def Honey.put (y : Honey) (w : Nat) (x : W64) (st : WState) : Honey :=
  { y with bytes := y.bytes.setN (8 * w) 8 x.toNat, st := tset .invalid y.st w st, err := tset [] y.err w [] }

/-- The state of a word (R411). -/
def Honey.stateOf (y : Honey) (w : Nat) : WState := tget .invalid y.st w

/-- Whether the page of a word is retired (R421). -/
def Honey.retiredAt (y : Honey) (w : Nat) : Bool := y.retired.contains (w / 512)

/-- Data with the listed bits flipped; positions from 64 lie in the check bits (R412). -/
def flipBits (x : W64) (bits : List Nat) : W64 :=
  bits.foldl (fun a b => if b < 64 then a ^^^ (1#64 <<< b) else a) x

def State.honey (s : State) (h : HiveId) : Honey := (s.hive h).honey
def State.modHoney (s : State) (h : HiveId) (f : Honey → Honey) : State :=
  s.modHive h (fun x => { x with honey := f x.honey })

/-- The HSM_ page of a hive. -/
abbrev hsmPage (h : HiveId) : Nat := hivePage h 0x1B

/-- A new entry of the error log (R420). -/
def logAdd (s : State) (h : HiveId) (e : LogEnt) : State × List Ev :=
  let y := s.honey h
  let lost (t : State) : State × List Ev :=
    (t.count (hsmPage h) Reg.HSM_LOG_LOST_CNT, [.raise (hsmPage h) Reg.HSM_EVENTS 4])
  if y.log.length < 32 then (s.modHoney h (fun y => { y with log := y.log ++ [e] }), [])
  else if e.kind = 0 then lost s
  else match y.log.findIdx? (fun x => x.kind = 0) with
    | some i => lost (s.modHoney h (fun y => { y with log := y.log.eraseIdx i ++ [e] }))
    | none => lost s

/-- One correctable error added to a bank's bucket (R415). -/
def bucketAdd (s : State) (h : HiveId) (bank : Nat) : State × List Ev :=
  let v := tget 0 (s.honey h).buckets bank + 1
  if v ≥ (s.reg (hsmPage h) Reg.HSM_BUCKET_MAX).toNat then
    (s.modHoney h (fun y => { y with buckets := tset 0 y.buckets bank 0 }),
     [if bank < 32 then .raise (hsmPage h) Reg.HSM_BUCKET_OVF (2 ^ bank)
      else .raise (hsmPage h) Reg.HSM_BUCKET_OVF_HI (2 ^ (bank - 32))])
  else (s.modHoney h (fun y => { y with buckets := tset 0 y.buckets bank v }), [])

/-- The write-back of a corrected word that still waits takes its bank before any other access (R414). -/
def writeBack (y : Honey) : Honey :=
  match y.writeback with
  | none => y
  | some w => { y with writeback := none, err := tset [] y.err w [] }

/-- SIZE of a fixed ring: at least the smallest that holds 16 entries of 3 words, 32 messages of 3 words or 256 responses of at most 34
words, packet words included (08_queues_placement.md R260, R263, 09_lanes.md R310, R311). -/
def fixedSize (q : Nat) : Nat := (if q ≤ 21 then 6 else if q ≤ 99 then 7 else 14) + (Config.fixedRing q).2.val

/-- BASE of a fixed ring in units of 64 bytes: it lies in the device area, aligned to the smaller of its size and 4 KiB
(08_queues_placement.md R260, R262, 13_memory.md R410). -/
def fixedBase (q : Nat) : Nat :=
  let units := 2 ^ (fixedSize q - 3)
  let step := min units 64
  0x8000 + step * ((Config.fixedRing q).1 % ((98304 - units) / step + 1))

/-- D0 of a queue with a fixed ring, as the device sets it (08_queues_placement.md R260, R262). -/
def fixedD0 (q : Nat) : Option W64 :=
  let cls := if 2 ≤ q ∧ q ≤ 21 then some 2 else if 96 ≤ q ∧ q ≤ 99 then some 5
    else if 128 ≤ q ∧ q ≤ 147 then some 6 else none
  cls.map fun c => BitVec.ofNat 64 (2 ^ 44 * fixedBase q + 2 ^ 39 * fixedSize q + 2 ^ 35 * c + 2 ^ 34)

/-- A word made POISON because it is uncorrectable (R413, R418). -/
def makePoison (s : State) (h : HiveId) (agent w : Nat) (asRead : W64) : State × List Ev :=
  let s := s.modHoney h (fun y => y.put w asRead .poison)
  let s := s.count (hsmPage h) Reg.HSM_UE_CNT
  let (s, e) := logAdd s h ⟨1, 127, agent, w, s.short⟩
  (s, e ++ [.raise (hsmPage h) Reg.HSM_EVENTS 1, .guard (hiveDom h) 0])

/-- A correctable error of a word: counted, added to the bucket, logged; its write-back waits (R413). -/
def correctable (s : State) (h : HiveId) (agent w pos : Nat) : State × List Ev :=
  let s := s.modHoney h (fun y => { y with writeback := some w })
  let s := s.count (hsmPage h) Reg.HSM_CE_CNT
  let (s, e1) := bucketAdd s h (w / 2 ^ 17)
  let (s, e2) := logAdd s h ⟨0, pos, agent, w, s.short⟩
  (s, e1 ++ e2)

/-- An access to a retired page (R423). -/
def retiredAccess (s : State) (h : HiveId) (agent w : Nat) : State × List Ev :=
  let s := s.count (hsmPage h) Reg.HSM_RETIRED_ACC_CNT
  let (s, e) := logAdd s h ⟨3, 127, agent, w, s.short⟩
  (s, e ++ [.raise (hsmPage h) Reg.HSM_EVENTS 8])

/-- What a word reads that was never written: 0, and the first descriptor word of a fixed ring as the device sets it (R411,
08_queues_placement.md R260). -/
def unwritten (s : State) (w : Nat) : W64 := if s.chip.started && w % 4 = 0 && w < 2 ^ 18 then (fixedD0 (w / 4)).getD 0 else 0

/-- A read of the store's word, past the caches (R413, R419, R423): data and poison. -/
def storeRead (s : State) (h : HiveId) (agent w : Nat) : State × List Ev × W64 × Bool :=
  let s := s.modHoney h writeBack
  let y := s.honey h
  if y.retiredAt w then
    let (s, e) := retiredAccess s h agent w
    (s, e, 0, true)
  else match y.merge.find? (fun m => m.waddr = w) with
    | some m => (s, [], m.data, false)
    | none =>
      match y.stateOf w with
      | .poison => (s, [], y.data w, true)
      | .invalid => (s, [], unwritten s w, false)
      | .valid =>
        match tget [] y.err w with
        | [] => (s, [], y.data w, false)
        | [b] =>
          let (s, e) := correctable s h agent w b
          (s, e, y.data w, false)
        | bits =>
          if bits.length = 2 || Config.multiErrorDetected w then
            let x := flipBits (y.data w) bits
            let (s, e) := makePoison s h agent w x
            (s, e, x, true)
          else
            let (v, s) := s.free
            (s, [], v, false)

/-- A full write of the store's word, past the caches (R411, R419, R423): whether it was refused. -/
def storeWrite (s : State) (h : HiveId) (agent w : Nat) (x : W64) (poison : Bool) : State × List Ev × Bool :=
  let s := s.modHoney h writeBack
  if (s.honey h).retiredAt w then
    let (s, e) := retiredAccess s h agent w
    (s, e, true)
  else
    (s.modHoney h (fun y =>
      { y.put w x (if poison then .poison else .valid) with merge := y.merge.filter (fun m => m.waddr ≠ w) }), [], false)

/-- The bytes of `x` that a mask names, over those of `old`. -/
def mergeBytes (old x : W64) (mask : BitVec 8) : W64 :=
  (List.range 8).foldl (fun a i =>
    if mask.getLsbD i then (a &&& ~~~(0xFF#64 <<< (8 * i))) ||| (x &&& (0xFF#64 <<< (8 * i))) else a) old

/-- A merge-buffer entry flushed as one full write (R419). -/
def flushEntry (y : Honey) (m : MergeEnt) : Honey :=
  { y.put m.waddr m.data .valid with merge := y.merge.filter (fun n => n.waddr ≠ m.waddr) }

/-- A write narrower than a word (R418, R419): whether it was refused. `x` holds the bytes at their places. What the merge buffer finds as
it reads the word is logged under its own code; a refusal and an access to a retired page under the writer's (log entry 102). -/
def storeNarrow (s : State) (h : HiveId) (agent w : Nat) (x : W64) (mask : BitVec 8) : State × List Ev × Bool :=
  let s := s.modHoney h writeBack
  let y := s.honey h
  if y.retiredAt w then
    let (s, e) := retiredAccess s h agent w
    (s, e, true)
  else
    let settleEntry (s : State) (m : MergeEnt) : State :=
      if m.mask = 0xFF#8 then s.modHoney h (fun y => flushEntry y m)
      else s.modHoney h (fun y => { y with merge := y.merge.filter (fun n => n.waddr ≠ w) ++ [m] })
    match y.merge.find? (fun m => m.waddr = w) with
    | some m =>
      let m' : MergeEnt := { m with data := mergeBytes m.data x mask, mask := m.mask ||| mask, last := s.tick }
      (if m'.mask = 0xFF#8 then s.modHoney h (fun y => flushEntry y m')
       else s.modHoney h (fun y => { y with merge := y.merge.map (fun n => if n.waddr = w then m' else n) }), [], false)
    | none =>
      let refuse (s : State) (e : List Ev) : State × List Ev × Bool :=
        let s := s.count (hsmPage h) Reg.HSM_REFUSED_CNT
        let (s, e') := logAdd s h ⟨2, 127, agent, w, s.short⟩
        (s, e ++ e' ++ [.raise (hsmPage h) Reg.HSM_EVENTS 2], true)
      let s := match (s.honey h).merge with
        | m :: _ => if (s.honey h).merge.length ≥ 8 then s.modHoney h (fun y => flushEntry y m) else s
        | [] => s
      let y := s.honey h
      let fresh (s : State) (e : List Ev) (base : W64) : State × List Ev × Bool :=
        (settleEntry s ⟨w, mergeBytes base x mask, mask, s.tick⟩, e, false)
      match y.stateOf w with
      | .poison => refuse s []
      | .invalid => fresh s [] (unwritten s w)
      | .valid =>
        match tget [] y.err w with
        | [] => fresh s [] (y.data w)
        | [b] =>
          let (s, e) := correctable s h agMerge w b
          fresh s e (y.data w)
        | bits =>
          if bits.length = 2 || Config.multiErrorDetected w then
            let (s, e) := makePoison s h agMerge w (flipBits (y.data w) bits)
            refuse s e
          else
            let (v, s) := s.free
            fresh s [] v

/-! ### The directory (12_workers.md R399) -/

/-- The words of a line written back by its owner. -/
def backLine (s : State) (h : HiveId) (c : CLine) : State × List Ev :=
  (List.zip (List.range 8) c.words).foldl (fun (s, e) (i, x) =>
    let (s, e', _) := storeWrite s h agCache (c.line * 8 + i) x.1 x.2
    (s, e ++ e')) (s, [])

/-- The lines every cache of the hive holds of a line number, with their cache. -/
def holders (s : State) (h : HiveId) (line : Nat) : List (Nat × CLine) :=
  (s.hive h).caches.filterMap (fun (w, ls) => (ls.find? (fun c => c.line = line)).map (fun c => (w, c)))

/-- A recall for a read: a line held M is written back and stays S; one held E becomes S. -/
def recallRead (s : State) (h : HiveId) (line : Nat) : State × List Ev :=
  match holders s h line with
  | [] => (s, [])
  | hs =>
    let (s, e) := hs.foldl (fun (s, e) (_, c) =>
      if c.state = .m then let (s, e') := backLine s h c; (s, e ++ e') else (s, e)) (s, [])
    (s.modHive h (fun x => { x with caches := x.caches.map (fun (w, ls) =>
      (w, ls.map (fun c => if c.line = line then { c with state := .s } else c))) }), e)

/-- A recall for an uncached write: every copy goes, a line held M after its write-back. -/
def recallInv (s : State) (h : HiveId) (line : Nat) : State × List Ev :=
  match holders s h line with
  | [] => (s, [])
  | hs =>
    let (s, e) := hs.foldl (fun (s, e) (_, c) =>
      if c.state = .m then let (s, e') := backLine s h c; (s, e ++ e') else (s, e)) (s, [])
    (s.modHive h (fun x => { x with caches := (x.caches.map (fun (w, ls) =>
      (w, ls.filter (fun c => c.line ≠ line)))).filter (fun e => !e.2.isEmpty) }), e)

/-- A coherent read of a word by any agent but a cache. -/
def hReadE (s : State) (h : HiveId) (agent w : Nat) : State × List Ev × W64 × Bool :=
  let (s, e1) := recallRead s h (w / 8)
  let (s, e2, x, p) := storeRead s h agent w
  (s, e1 ++ e2, x, p)

/-- A coherent full write of a word by any agent but a cache. -/
def hWriteE (s : State) (h : HiveId) (agent w : Nat) (x : W64) : State × List Ev × Bool :=
  let (s, e1) := recallInv s h (w / 8)
  let (s, e2, r) := storeWrite s h agent w x false
  (s, e1 ++ e2, r)

/-- A coherent narrow write by any agent but a cache. -/
def hNarrowE (s : State) (h : HiveId) (agent w : Nat) (x : W64) (mask : BitVec 8) : State × List Ev × Bool :=
  let (s, e1) := recallInv s h (w / 8)
  let (s, e2, r) := storeNarrow s h agent w x mask
  (s, e1 ++ e2, r)

/-- A read of a word with no effect of any kind (12_workers.md R403): the value a coherent read would return. -/
def hPeek (s : State) (h : HiveId) (w : Nat) : W64 × Bool :=
  match holders s h (w / 8) |>.find? (fun c => c.2.state = .m) with
  | some (_, c) => c.words.getD (w % 8) (0, false)
  | none => let r := storeRead s h agQueue w; (r.2.2.1, r.2.2.2)

end Sys2Proof.Machine
end

