-- ==== Sys2Proof/Machine/Queue.lean ====
section
/-! DEFINITION. The queue engine of a hive: roles, descriptors, reserve, write, commit, abort, pop, release, reset
(08_queues_placement.md R259–R272). Descriptors and rings lie in the honey store. -/

namespace Sys2Proof.Machine

/-- Result codes of a producer or consumer access (R288, 12_workers.md R390). -/
abbrev qOk : Nat := 0
abbrev qBusy : Nat := 1
abbrev qFull : Nat := 2
abbrev qTooBig : Nat := 3
abbrev qDisabled : Nat := 4
abbrev qAborted : Nat := 5
abbrev qWasReset : Nat := 6
abbrev qNone : Nat := 7

/-- The class of a queue (R260, R262); none for a reserved number. -/
def qClass (q : Nat) : Option Nat :=
  if q = 0 then some 0 else if q = 1 then some 1
  else if 2 ≤ q ∧ q ≤ 21 then some 2
  else if 32 ≤ q ∧ q ≤ 87 then some 3
  else if 88 ≤ q ∧ q ≤ 94 then some 4
  else if 96 ≤ q ∧ q ≤ 99 then some 5
  else if 128 ≤ q ∧ q ≤ 147 then some 6
  else if 256 ≤ q ∧ q ≤ 447 then some 4
  else if 1024 ≤ q ∧ q ≤ 65535 then some 7 else none

/-- Whether the ring of a queue is device-sized (R260). -/
def qFixed (q : Nat) : Bool := (fixedD0 q).isSome

/-- Words at which a fixed ring is full: 16 entries and 32 messages of 3 words; a response ring takes what it has room for (R260, R274,
10_time_transfer.md R351). -/
def qFixedLimit (q : Nat) : Nat := if q ≤ 21 then 48 else if q ≤ 99 then 96 else 2 ^ 32

/-- The smallest SIZE of a host-set ring (R260). -/
def qMinSize (cb128 : Bool) (q : Nat) : Nat :=
  if q = 0 then 8 else if q = 1 then 13
  else if 32 ≤ q ∧ q ≤ 79 then (if cb128 then 18 else 13)
  else if 80 ≤ q ∧ q ≤ 87 then 16
  else if q < 1024 then 6 else 4

/-- Whether CB-128 output is in force and not blocked (07_frames_compression.md R249). -/
def State.cb128 (s : State) : Bool := bit (s.cfg 0x15 Reg.FRM_CTL) 0 && s.frameK = 16

def State.queue (s : State) (h : HiveId) (q : Nat) : Queue := tget {} (s.hive h).queues q
def State.modQueue (s : State) (h : HiveId) (q : Nat) (f : Queue → Queue) : State :=
  s.modHive h (fun x => { x with queues := tset {} x.queues q (f (tget {} x.queues q)) })

/-- The Q_ page of a hive. -/
abbrev qPage (h : HiveId) : Nat := hivePage h 0x17

/-- BASE, SIZE, EN and TMO_EN of a descriptor word D0 (R262). -/
abbrev d0Base (d : W64) : Nat := fieldN d.toNat 63 44
abbrev d0Size (d : W64) : Nat := fieldN d.toNat 43 39
abbrev d0En (d : W64) : Bool := d.toNat.testBit 34
abbrev d0Tmo (d : W64) : Bool := d.toNat.testBit 33

/-- The word D0 of a configuration (R262, R288). -/
def d0Of (cls : Nat) (base size : Nat) (en tmo : Bool) : W64 :=
  BitVec.ofNat 64 (2 ^ 44 * base + 2 ^ 39 * size + 2 ^ 35 * cls + bitAt en 34 + bitAt tmo 33)

/-- The pointer word of a pointer and its copy (R262). -/
def ptrWord (p : BitVec 32) : W64 := p ++ p

/-- A descriptor as an access finds it. -/
structure Desc where
  d0 : W64
  head : BitVec 32
  tail : BitVec 32
  resv : BitVec 32
deriving DecidableEq, Repr

/-- Whether a queue is enabled: EN of its descriptor, and for a fixed ring from start-up on (R260). -/
def qEnabled (s : State) (h : HiveId) (q : Nat) (d0 : W64) : Bool :=
  if qFixed q then s.chip.started && decide ((s.honey h).stateOf (4 * q) ≠ .poison) && !(s.queue h q).cfgErr else d0En d0

/-- Committed, unconsumed words (R262). -/
abbrev Desc.count (d : Desc) : Nat := (d.tail - d.head).toNat
/-- Free space of the ring in words (R262). -/
def Desc.space (d : Desc) : Nat := 2 ^ d0Size d.d0 - (d.resv - d.head).toNat

/-- Word address of a ring position (R262). -/
def ringAddr (d0 : W64) (p : BitVec 32) : Nat := d0Base d0 * 8 + p.toNat % 2 ^ d0Size d0

/-- One pointer word written. -/
def putPtr (s : State) (h : HiveId) (q i : Nat) (p : BitVec 32) : State × List Ev :=
  let (s, e, _) := hWriteE s h agQueue (4 * q + i) (ptrWord p)
  (s, e)

/-- The open packet of a queue goes; its producer is owed a one-time result (R266, R269). -/
def dropOpen (s : State) (h : HiveId) (q result : Nat) : State :=
  let s := match (s.queue h q).opened with
    | some (.path n) =>
      let s := s.modQueue h q (fun x => { x with owed := tset 0 x.owed n result })
      if 64 ≤ n then s.modWorker (n - 64) (fun w => { w with openQ := none }) else s
    | _ => s
  s.modQueue h q (fun x => { x with opened := none, written := 0, frozen := 0 })

/-- Frames that will never be delivered, joined to the ranges that wait for a note (07_frames_compression.md R248). -/
def addLost (l : List (BitVec 40 × Nat)) (f : BitVec 40) : List (BitVec 40 × Nat) :=
  match l.getLast? with
  | some (a, n) =>
    if a + BitVec.ofNat 40 n = f ∧ n < 2 ^ 24 - 1 then l.dropLast ++ [(a, n + 1)] else l ++ [(f, 1)]
  | none => [(f, 1)]

/-- A frame of the output stage abandoned (07_frames_compression.md R244, R253): its jobs free, its reservations are
rewound, and it waits for a lost-frame note. -/
def abandonFrame (s : State) (h : HiveId) (f : BitVec 40) : State × List Ev :=
  let fr := (s.hive h).fr
  if fr.frames.any (fun o => o.frame = f && o.abandoned) || fr.lostRanges.any (fun r => (f - r.1).toNat < r.2) then (s, [])
  else
    let mine := fr.jobs.filter (fun j => j.2.frame = f && j.2.state ≠ 0)
    let s := s.modHive h (fun x => { x with
      fr := { x.fr with
        jobs := x.fr.jobs.filter (fun j => !(j.2.frame = f && j.2.state ≠ 0))
        frames := x.fr.frames.filterMap (fun o => if o.frame ≠ f then some o else if o.closed then none else some { o with abandoned := true, slot := none })
        lostRanges := addLost x.fr.lostRanges f
        undelivered := x.fr.undelivered.map (fun u => if u.1 = f ∧ u.2.1 = 1 then (f, 1, none) else u) } })
    mine.foldl (fun (s, e) (j, _) =>
      if (s.queue h (32 + j)).opened = some .device then
        let (s, e1, t, p) := hReadE s h agQueue (4 * (32 + j) + 2)
        let (s, e2) := putPtr s h (32 + j) 3 (if p then 0 else t.extractLsb' 32 32)
        (dropOpen s h (32 + j) qAborted, e ++ e1 ++ e2)
      else (s, e)) (s, [])

/-- A job that starts again from its first record (07_frames_compression.md R244): it reads its input buffer again; earlier buffers of a
source frame have been filled anew since, and what was read of them is kept. -/
def Job.restart (b : Job) : Job :=
  { b with inWords := 0, outWords := 0, reserved := 0, resumable := false, state := if b.state = 0 then 0 else 1, read := if b.cb then b.read else 0 }

/-- What the reset of a frame-output queue does to jobs and frames (07_frames_compression.md R244). -/
def frameQueueReset (s : State) (h : HiveId) (q : Nat) : State × List Ev :=
  if 32 ≤ q ∧ q ≤ 87 then
    let gone := (s.hive h).place.waiting.filter (fun u => u.queue = q && u.words.isEmpty)
    let s := s.modHive h (fun x => { x with
      place := { x.place with waiting := x.place.waiting.filter (fun u => !(u.queue = q && u.words.isEmpty)) }
      fr := { x.fr with jobs := x.fr.jobs.map (fun (j, b) =>
        (j, if j + 32 = q then b.restart else b)) } })
    (gone.map (·.frame)).dedup.foldl (fun (s, e) f => let (s, e') := abandonFrame s h f; (s, e ++ e')) (s, [])
  else (s, [])

/-- A queue reset (R269): pointers, contents, open packet, SEQ. `host`: through Q_CTL, without the error to the guard. -/
def qResetE (s : State) (h : HiveId) (q : Nat) (host : Bool) : State × List Ev :=
  let (s, e1) := putPtr s h q 1 0
  let (s, e2) := putPtr s h q 2 0
  let (s, e3) := putPtr s h q 3 0
  let s := dropOpen s h q qWasReset
  let s := s.modQueue h q (fun x => { x with seq := 0, freed := [] })
  let s := if q = 0 then s.modHive h (fun x => { x with noticeReset := true }) else s
  let (s, e4) := frameQueueReset s h q
  let s := s.count (qPage h) Reg.Q_RESET_CNT
  (s, e1 ++ e2 ++ e3 ++ e4 ++ [.raise (qPage h) Reg.Q_EVENTS 1] ++ (if host then [] else [.guard (hiveDom h) 1]))

/-- D0 as an access finds it (R269), and whether it was poisoned: then EN clears and CFG_ERR is set. -/
def qDescHead (s : State) (h : HiveId) (q : Nat) : State × List Ev × W64 × Bool :=
  let r := hReadE s h agQueue (4 * q)
  if r.2.2.2 then
    let d0 := r.2.2.1 &&& ~~~(1#64 <<< 34)
    let w := hWriteE r.1 h agQueue (4 * q) d0
    (w.1.modQueue h q (fun x => { x with cfgErr := true }), r.2.1 ++ w.2.1, d0, true)
  else (r.1, r.2.1, r.2.2.1, false)

/-- A pointer word that agrees with its copy (R262). -/
def ptrGood (w : W64) : Bool := w.extractLsb' 32 32 = w.extractLsb' 0 32

/-- The open packet of a queue that clears EN aborted: RESV returns to TAIL, its producer is owed ABORTED (R266, R269, R270). -/
def closeOpen (s : State) (h : HiveId) (q : Nat) (tail : BitVec 32) : State × List Ev :=
  if (s.queue h q).opened.isNone then (s, [])
  else
    let (s, e) := putPtr s h q 3 tail
    (dropOpen s h q qAborted, e)

/-- The descriptor as an access finds it (R269): a mismatch of a pointer and its copy, or a poisoned pointer word, resets
the queue; a poisoned D0 aborts the open packet. -/
def qDescE (s : State) (h : HiveId) (q : Nat) : State × List Ev × Desc :=
  let d := qDescHead s h q
  let a := hReadE d.1 h agQueue (4 * q + 1)
  let b := hReadE a.1 h agQueue (4 * q + 2)
  let c := hReadE b.1 h agQueue (4 * q + 3)
  let e := d.2.1 ++ a.2.1 ++ b.2.1 ++ c.2.1
  if a.2.2.2 || b.2.2.2 || c.2.2.2 || !ptrGood a.2.2.1 || !ptrGood b.2.2.1 || !ptrGood c.2.2.1 then
    let r := qResetE c.1 h q false
    (r.1, e ++ r.2, ⟨d.2.2.1, 0, 0, 0⟩)
  else
    let tail := b.2.2.1.extractLsb' 32 32
    let resv := c.2.2.1.extractLsb' 32 32
    if d.2.2.2 && (c.1.queue h q).opened.isSome then
      let k := closeOpen c.1 h q tail
      (k.1, e ++ k.2, ⟨d.2.2.1, a.2.2.1.extractLsb' 32 32, tail, tail⟩)
    else (c.1, e, ⟨d.2.2.1, a.2.2.1.extractLsb' 32 32, tail, resv⟩)

/-- A one-time result owed to a path is given once (R266, R269). -/
def takeOwed (s : State) (h : HiveId) (q : Nat) (p : Producer) : Option (State × Nat) :=
  match p with
  | .device => none
  | .path n =>
    match tfind (s.queue h q).owed n with
    | some r => some (s.modQueue h q (fun x => { x with owed := terase x.owed n }), r)
    | none => none

/-- A reservation of `n` words (R264). -/
def qReserveE (s : State) (h : HiveId) (q : Nat) (p : Producer) (n : Nat) : State × List Ev × Nat :=
  if (qClass q).isNone then (s, [], qDisabled) else
  let (s, e, d) := qDescE s h q
  match takeOwed s h q p with
  | some (s, r) => (s, e, r)
  | none =>
    if !qEnabled s h q d.d0 then (s, e, qDisabled) else
    let x := s.queue h q
    match x.opened with
    | some o =>
      if o ≠ p then (s, e, qBusy) else
      let held := (d.resv - d.tail).toNat
      if held + n > 2 ^ d0Size d.d0 - 1 ∨ held - 1 + n > 2 ^ 24 - 1 then (s, e, qTooBig)
      else if d.space < n then (s, e, qFull)
      else
        let (s, e1) := putPtr s h q 3 (d.resv + BitVec.ofNat 32 n)
        (s.modQueue h q (fun x => { x with lastUse := s.tick, frozen := 0 }), e ++ e1, qOk)
    | none =>
      if n + 1 > 2 ^ d0Size d.d0 - 1 ∨ n > 2 ^ 24 - 1 then (s, e, qTooBig)
      else if d.space < n + 1 then (s, e, qFull)
      else
        let (s, e1) := putPtr s h q 3 (d.resv + BitVec.ofNat 32 (n + 1))
        (s.modQueue h q (fun x => { x with opened := some p, written := 0, lastUse := s.tick, frozen := 0 }), e ++ e1, qOk)

/-- The open packet rewound: RESV returns to TAIL (R266). -/
def rewindE (s : State) (h : HiveId) (q : Nat) (d : Desc) : State × List Ev :=
  let (s, e) := putPtr s h q 3 d.tail
  (s.modQueue h q (fun x => { x with opened := none, written := 0, frozen := 0 }), e)

/-- The result of a write, commit or abort by a producer without an open packet (R265). -/
def noPacket (s : State) (h : HiveId) (q : Nat) : Nat := if (s.queue h q).opened.isSome then qBusy else qAborted

/-- One word written to the open packet (R265, R266). -/
def qWriteE (s : State) (h : HiveId) (q : Nat) (p : Producer) (w : W64) : State × List Ev × Nat :=
  if (qClass q).isNone then (s, [], qAborted) else
  let (s, e, d) := qDescE s h q
  match takeOwed s h q p with
  | some (s, r) => (s, e, r)
  | none =>
    let x := s.queue h q
    if x.opened ≠ some p then (s, e, noPacket s h q)
    else if x.written + 1 ≥ (d.resv - d.tail).toNat then
      let (s, e1) := rewindE s h q d
      (s, e ++ e1, qAborted)
    else
      let (s, e1, refused) := hWriteE s h agQueue (ringAddr d.d0 (d.tail + BitVec.ofNat 32 (x.written + 1))) w
      if refused then
        let (s, e2) := rewindE s h q d
        (s, e ++ e1 ++ e2, qAborted)
      else (s.modQueue h q (fun x => { x with written := x.written + 1, lastUse := s.tick, frozen := 0 }), e ++ e1, qOk)

/-- The packet word (R263). -/
def packetWord (len cls : Nat) (seq : BitVec 32) : W64 := BitVec.ofNat 64 (2 ^ 40 * len + 2 ^ 36 * cls + seq.toNat)

/-- The open packet committed (R265): result, and its position and length when it became visible. -/
def qCommitE (s : State) (h : HiveId) (q : Nat) (p : Producer) : State × List Ev × Nat × Option (Nat × Nat) :=
  match qClass q with
  | none => (s, [], qAborted, none)
  | some cls =>
    let (s, e, d) := qDescE s h q
    match takeOwed s h q p with
    | some (s, r) => (s, e, r, none)
    | none =>
      let x := s.queue h q
      if x.opened ≠ some p then (s, e, noPacket s h q, none)
      else if x.written = 0 then
        let (s, e1) := rewindE s h q d
        (s, e ++ e1, qOk, none)
      else
        let (s, e1, refused) := hWriteE s h agQueue (ringAddr d.d0 d.tail) (packetWord x.written cls x.seq)
        if refused then
          let (s, e2) := rewindE s h q d
          (s, e ++ e1 ++ e2, qAborted, none)
        else
          let t := d.tail + BitVec.ofNat 32 (x.written + 1)
          let (s, e2) := putPtr s h q 3 t
          let (s, e3) := putPtr s h q 2 t
          (s.modQueue h q (fun y => { y with opened := none, written := 0, seq := y.seq + 1, lastUse := s.tick, frozen := 0 }),
           e ++ e1 ++ e2 ++ e3, qOk, some (d.tail.toNat, x.written))

/-- The open packet aborted by its producer (R266). -/
def qAbortE (s : State) (h : HiveId) (q : Nat) (p : Producer) : State × List Ev × Nat :=
  if (qClass q).isNone then (s, [], qAborted) else
  let (s, e, d) := qDescE s h q
  match takeOwed s h q p with
  | some (s, r) => (s, e, r)
  | none =>
    if (s.queue h q).opened ≠ some p then (s, e, noPacket s h q)
    else
      let (s, e1) := rewindE s h q d
      (s, e ++ e1, qOk)

/-- The open packet aborted as bad by the device, its producer owed ABORTED (R266). -/
def qKillE (s : State) (h : HiveId) (q : Nat) : State × List Ev :=
  if (s.queue h q).opened.isNone then (s, []) else
  let (s, e, d) := qDescE s h q
  let (s, e1) := closeOpen s h q d.tail
  (s, e ++ e1)

/-- Words written to a ring from a position on. -/
def ringWriteE (h : HiveId) (d0 : W64) : List W64 → BitVec 32 → State → State × List Ev
  | [], _, s => (s, [])
  | w :: ws, p, s =>
    let (s, e, _) := hWriteE s h agQueue (ringAddr d0 p) w
    let (s, e') := ringWriteE h d0 ws (p + 1) s
    (s, e ++ e')

/-- A whole packet put by a device producer into a fixed ring: false where the ring is full (R260, R274). -/
def qPutFixedE (s : State) (h : HiveId) (q : Nat) (ws : List W64) : State × List Ev × Bool :=
  match qClass q with
  | none => (s, [], false)
  | some cls =>
    let (s, e, d) := qDescE s h q
    let x := s.queue h q
    if !qEnabled s h q d.d0 ∨ d.count ≥ qFixedLimit q ∨ d.space < ws.length + 1 then (s, e, false)
    else
      let t := d.tail + BitVec.ofNat 32 (ws.length + 1)
      let (s, e0) := ringWriteE h d.d0 (packetWord ws.length cls x.seq :: ws) d.tail s
      let (s, e1) := putPtr s h q 3 t
      let (s, e2) := putPtr s h q 2 t
      (s.modQueue h q (fun y => { y with seq := y.seq + 1 }), e ++ e0 ++ e1 ++ e2, true)

/-- Words written to the open packet in order, as far as the first that fails. -/
def qWriteList (h : HiveId) (q : Nat) (p : Producer) : List W64 → State → State × List Ev × Nat
  | [], s => (s, [], qOk)
  | w :: ws, s =>
    let (s, e, r) := qWriteE s h q p w
    if r ≠ qOk then (s, e, r)
    else
      let (s, e', r) := qWriteList h q p ws s
      (s, e ++ e', r)

/-- A whole packet put into a host-set ring by one producer: reserve, write, commit. -/
def qPutE (s : State) (h : HiveId) (q : Nat) (p : Producer) (ws : List W64) : State × List Ev × Nat × Option (Nat × Nat) :=
  let (s, e, r) := qReserveE s h q p ws.length
  if r ≠ qOk then (s, e, r, none) else
  let (s, e', r) := qWriteList h q p ws s
  if r ≠ qOk then (s, e ++ e', r, none) else
  let (s, e'', r, c) := qCommitE s h q p
  (s, e ++ e' ++ e'', r, c)

/-- The word at HEAD taken (R271): none on an empty queue; with its poison. -/
def qPopE (s : State) (h : HiveId) (q : Nat) : State × List Ev × Option (W64 × Bool) :=
  let (s, e, d) := qDescE s h q
  if d.count = 0 then (s, e, none)
  else
    let (s, e1, w, p) := hReadE s h agQueue (ringAddr d.d0 d.head)
    let (s, e2) := putPtr s h q 1 (d.head + 1)
    (s, e ++ e1 ++ e2, some (w, p))

/-- HEAD advanced by `n` words: false where the count is smaller (R271). -/
def qReleaseE (s : State) (h : HiveId) (q n : Nat) : State × List Ev × Bool :=
  let (s, e, d) := qDescE s h q
  if n > d.count then (s, e, false)
  else
    let (s, e1) := putPtr s h q 1 (d.head + BitVec.ofNat 32 n)
    (s, e ++ e1, true)

/-- A queue's count and pointers as a read shows them, without effect. -/
def qPeek (s : State) (h : HiveId) (q : Nat) : Desc :=
  let r (i : Nat) := (hPeek s h (4 * q + i)).1
  ⟨r 0, (r 1).extractLsb' 32 32, (r 2).extractLsb' 32 32, (r 3).extractLsb' 32 32⟩

/-- Whether setting EN with this configuration is refused (R270). -/
def qCfgBad (s : State) (h : HiveId) (q base size : Nat) : Bool :=
  let bytes := 8 * 2 ^ size
  let start := base * 64
  decide (size < qMinSize s.cb128 q ∨ size < 4 ∨ size > 22 ∨ start % min bytes 4096 ≠ 0 ∨ start < 0x800000 ∨ start + bytes > 0x3000000)
    || (s.honey h).retired.any (fun p => decide (start < 4096 * p + 4096 ∧ 4096 * p < start + bytes))

/-- Whether a write of Q_CFG is ignored whole by a hive: it would move the ring of an enabled queue (R270). -/
def qCfgLocked (v : W32) (d0 : W64) : Bool := d0En d0 && (decide (fld v 19 0 ≠ d0Base d0) || decide (fld v 24 20 ≠ d0Size d0))

/-- Whether a write of Q_CFG sets EN in a hive, and may not (R270). -/
def qCfgRefused (s : State) (h : HiveId) (q : Nat) (v : W32) (d0 : W64) : Bool :=
  bit v 25 && !d0En d0 && qCfgBad s h q (fld v 19 0) (fld v 24 20)

/-- A write of Q_CFG as one hive takes it (R260, R270); `bad`: setting EN is refused. -/
def qConfigE (s : State) (h : HiveId) (q cls : Nat) (v : W32) (d0 : W64) (bad : Bool) : State × List Ev :=
  let en := bit v 25
  if bad && d0En d0 then (s, [])
  else
    let (s, e1) := if d0En d0 && !en then qKillE s h q else (s, [])
    let (s, e2, _) := hWriteE s h agQueue (4 * q) (d0Of cls (fld v 19 0) (fld v 24 20) (en && !bad) (bit v 26))
    (s.modQueue h q (fun x => { x with cfgErr := bad || (!en && x.cfgErr) }), e1 ++ e2)

end Sys2Proof.Machine
end

