-- ==== Sys2Proof/Machine/Events.lean ====
section
/-! DEFINITION. Event bits and notices (08_queues_placement.md R273), events of guard sources and the opening and merging
of handling records (14_redundancy_faults.md R452–R460), and the store and queue operations with their events
delivered. -/

namespace Sys2Proof.Machine

/-- The guard page of the active hive. -/
abbrev chipGrdPage (s : State) : Nat := grdPage (hiveDom (higherClaim s))

/-- The two words of a notice (R273). -/
def noticeWords (pg off bits : Nat) (short : BitVec 32) (reset : Bool) (lost : Nat) : W64 × W64 :=
  (BitVec.ofNat 64 (pg / 2 ^ 12 * 2 ^ 44 + 2 ^ 32 * off + bits),
   short ++ BitVec.ofNat 1 (bitAt reset 0) ++ 0#15 ++ BitVec.ofNat 16 lost)

/-- An entry of the trace that the guard keeps of notices (R464). -/
def traceAdd (s : State) (h : HiveId) (w : W64 × W64) : State :=
  s.modHive h (fun x => { x with guard := { x.guard with
    trace := (if x.guard.trace.length ≥ 4096 then x.guard.trace.tail else x.guard.trace) ++ [w] } })

/-- A notice put into queue 0, or dropped and counted (R273). -/
def noticePut (s : State) (h : HiveId) (w : W64 × W64) : State × List Ev :=
  let r := qPutE s h 0 .device [w.1, w.2]
  if r.2.2.1 = qOk then (r.1.modHive h (fun x => { x with noticeLost := 0, noticeReset := x.noticeReset && !w.2.getLsbD 31 }), r.2.1)
  else
    ((r.1.modHive h (fun x => { x with noticeLost := satAdd 16 x.noticeLost 1 })).count (qPage h) Reg.Q_NOTICE_LOST,
     r.2.1 ++ [.raise (qPage h) Reg.Q_EVENTS 4])

/-- A notice in queue 0 of the active hive, or dropped and counted; a trace entry in either case (R273, R464). The access itself may find
the queue mismatched and reset it, which this notice then tells (R269). -/
def noticeE (s : State) (pg off bits : Nat) : State × List Ev :=
  let h := higherClaim s
  let d := qDescE s h 0
  let w := noticeWords pg off bits s.short (d.1.hive h).noticeReset (d.1.hive h).noticeLost
  let r := noticePut (traceAdd d.1 h w) h w
  (r.1, d.2.1 ++ r.2)

/-- The bits of a W1C register that raise a notice when set: those that were 0, unless they are masked page errors (R273,
15_control.md R475). -/
def toldBits (s : State) (pg off bits : Nat) : W32 :=
  let fresh := w32 bits &&& ~~~(s.reg pg off)
  if off = Reg.ERR_STATUS then fresh &&& ~~~(s.reg pg Reg.ERR_MASK) else fresh

/-- Bits of a W1C register set, with their notice (R273). -/
def raiseE (s : State) (pg off bits : Nat) : State × List Ev :=
  let told := toldBits s pg off bits
  let s := s.setReg pg off (s.reg pg off ||| w32 bits)
  if told = 0 then (s, [])
  else noticeE (s.count pg Reg.EVT_COUNT) pg off told.toNat

/-- The class of a source (R453, R454). -/
def srcClass (g src : Nat) : Nat :=
  if g < 6 then
    if src < 12 then 0 else [1, 2, 3, 4, 5, 6, 7, 8, 9].getD (src - 12) 15
  else [10, 11, 1, 3, 4, 12, 13, 8, 7, 9].getD src 15

/-- The step a record opened by a source starts at (R457). -/
def srcStart (g src : Nat) : Nat := if g < 6 then (if src < 12 then 0 else 1) else 2

/-- The configuration of a source: N, W, CEIL (R471). -/
def srcCfg (s : State) (g src : Nat) : W32 := s.reg (grdPage g) Reg.GRD_SRC_CFG src
/-- CEIL of a source; 5 to 7 count as 4 (R471). -/
def srcCeil (s : State) (g src : Nat) : Nat := min 4 (fld (srcCfg s g src) 18 16)

/-- Ticks of the grace timer (R457): 1,024 ticks a microsecond. -/
def graceTicks (s : State) (h : HiveId) : Nat := 1024 * (fld (s.reg (grdPage (hiveDom h)) Reg.GRD_GRACE) 19 0)

/-- A severe event at the chip guard (R456, R457, R460, R463). -/
def severeE (s : State) (g src : Nat) : State × List Ev :=
  let h := higherClaim s
  let pg := chipGrdPage s
  let c := srcCeil s g src
  let x := s.hive h
  if x.dup.fatal ∨ c = 0 then (s, [.raise pg Reg.GRD_EVENTS 1])
  else match x.guard.record with
    | none =>
      let cap := if g = hiveDom (otherHive h) then 3 else 4
      let r : Record := {
        region := regionCode g, src := src, step := srcStart g src, ceil := min c cap
        seq := x.guard.seq + 1, classOr := BitVec.ofNat 16 (2 ^ srcClass g src), count := 0
        regionOr := BitVec.ofNat 8 (2 ^ g), time := s.short, deadline := s.tick + graceTicks s h }
      (s.modHive h (fun x => { x with guard := { x.guard with record := some r, seq := x.guard.seq + 1
                                                            , openSec := x.tb.core.sec } }),
       [.raise pg Reg.GRD_EVENTS 1])
    | some r =>
      let cap := if r.region = hiveRegion (otherHive h) then 3 else 4
      let r' := { r with
        count := min 63 (r.count + 1), classOr := r.classOr ||| BitVec.ofNat 16 (2 ^ srcClass g src)
        regionOr := r.regionOr ||| BitVec.ofNat 8 (2 ^ g), ceil := max r.ceil (min c cap) }
      (s.modHive h (fun x => { x with guard := { x.guard with record := some r' } }),
       .raise pg Reg.GRD_EVENTS 1 :: (if r.count = 0 then [.raise pg Reg.GRD_EVENTS 32] else []))

def State.source (s : State) (g src : Nat) : Source := tget {} (s.region g).sources src
def State.modSource (s : State) (g src : Nat) (f : Source → Source) : State :=
  s.modRegion g (fun r => { r with sources := tset {} r.sources src (f (tget {} r.sources src)) })

/-- The errors of a source in its window, an event included, and the window's end (R455). -/
def windowCount (s : State) (g src : Nat) : Nat × Option Nat :=
  let x := s.source g src
  let live := match x.windowEnd with | some e => decide (s.tick < e) | none => false
  (if live then x.count + 1 else 1, if live then x.windowEnd else some (s.tick + 2 ^ fld (srcCfg s g src) 13 8))

/-- One event of a source (R451, R455). -/
def guardE (s : State) (g src : Nat) : State × List Ev :=
  if (s.source g src).broken then (s, []) else
  let s := s.count (grdPage g) Reg.GRD_SRC_CNT 1 src
  let n := fld (srcCfg s g src) 7 0
  let w := windowCount s g src
  if n ≠ 0 ∧ w.1 ≥ n then
    severeE (s.modSource g src (fun x => { x with pair := 2, count := 0, windowEnd := none, severe := true })) g src
  else (s.modSource g src (fun x => { x with pair := 2, count := w.1, windowEnd := w.2 }), [])

/-- Delivery of events in order, each with those it gives rise to, at most `fuel` of them. -/
def deliver : Nat → State → List Ev → State
  | 0, s, _ => s
  | _ + 1, s, [] => s
  | n + 1, s, .raise pg off bits :: es => let r := raiseE s pg off bits; deliver n r.1 (es ++ r.2)
  | n + 1, s, .guard g src :: es => let r := guardE s g src; deliver n r.1 (es ++ r.2)

/-- Delivery of the events of one operation. Every bit is set once and every damaged word is repaired or marked once, so the
bound is not met (log entry 11). -/
def settle (s : State) (es : List Ev) : State := deliver 400 s es

/-- Bits of a W1C register raised. -/
def raise (s : State) (pg off bits : Nat) : State := settle s [.raise pg off bits]

/-- Page errors (15_control.md R475). -/
abbrev errRo : Nat := 1
abbrev errRsvd : Nat := 2
abbrev errUnmapped : Nat := 4
abbrev errValue : Nat := 8
abbrev errStage : Nat := 16
abbrev pageErr (s : State) (pg bits : Nat) : State := raise s pg Reg.ERR_STATUS bits

/-- One error event of a guard source. -/
def guardEvent (s : State) (g src : Nat) : State := settle s [.guard g src]

/-- The guard source of a comb's block FIFOs (R453). -/
abbrev blockSrc (b : Nat) : Nat := b % 12

/-! ### Store and queue operations with their events delivered -/

def hRead (s : State) (h : HiveId) (agent w : Nat) : State × W64 × Bool :=
  let r := hReadE s h agent w
  (settle r.1 r.2.1, r.2.2)

def hWrite (s : State) (h : HiveId) (agent w : Nat) (x : W64) : State × Bool :=
  let r := hWriteE s h agent w x
  (settle r.1 r.2.1, r.2.2)

def hNarrow (s : State) (h : HiveId) (agent w : Nat) (x : W64) (mask : BitVec 8) : State × Bool :=
  let r := hNarrowE s h agent w x mask
  (settle r.1 r.2.1, r.2.2)

def qReserve (s : State) (h : HiveId) (q : Nat) (p : Producer) (n : Nat) : State × Nat :=
  let r := qReserveE s h q p n
  (settle r.1 r.2.1, r.2.2)

def qWrite (s : State) (h : HiveId) (q : Nat) (p : Producer) (w : W64) : State × Nat :=
  let r := qWriteE s h q p w
  (settle r.1 r.2.1, r.2.2)

def qCommit (s : State) (h : HiveId) (q : Nat) (p : Producer) : State × Nat × Option (Nat × Nat) :=
  let r := qCommitE s h q p
  (settle r.1 r.2.1, r.2.2)

def qAbort (s : State) (h : HiveId) (q : Nat) (p : Producer) : State × Nat :=
  let r := qAbortE s h q p
  (settle r.1 r.2.1, r.2.2)

def qKill (s : State) (h : HiveId) (q : Nat) : State :=
  let r := qKillE s h q
  settle r.1 r.2

def qPut (s : State) (h : HiveId) (q : Nat) (p : Producer) (ws : List W64) : State × Nat × Option (Nat × Nat) :=
  let r := qPutE s h q p ws
  (settle r.1 r.2.1, r.2.2)

def qPutFixed (s : State) (h : HiveId) (q : Nat) (ws : List W64) : State × Bool :=
  let r := qPutFixedE s h q ws
  (settle r.1 r.2.1, r.2.2)

def qPop (s : State) (h : HiveId) (q : Nat) : State × Option (W64 × Bool) :=
  let r := qPopE s h q
  (settle r.1 r.2.1, r.2.2)

def qRelease (s : State) (h : HiveId) (q n : Nat) : State × Bool :=
  let r := qReleaseE s h q n
  (settle r.1 r.2.1, r.2.2)

def qReset (s : State) (h : HiveId) (q : Nat) (host : Bool) : State :=
  let r := qResetE s h q host
  settle r.1 r.2

def qDesc (s : State) (h : HiveId) (q : Nat) : State × Desc :=
  let r := qDescE s h q
  (settle r.1 r.2.1, r.2.2)

def abandon (s : State) (h : HiveId) (f : BitVec 40) : State :=
  let r := abandonFrame s h f
  settle r.1 r.2

/-- A scheduled action refused EXPIRED (11_systems.md R369). -/
def schedExpired (s : State) : State := raise (s.count chipPage Reg.CHIP_SCHED_EXP_CNT) chipPage Reg.CHIP_SYS_EVENTS 4

/-- Whether the device is declared fatal in the active hive (14_redundancy_faults.md R463). -/
def State.fatal (s : State) : Bool := (s.hive (higherClaim s)).dup.fatal

/-! ### Frames that run across a boundary -/

/-- Whether frames are built now (02_timebase.md R45, R50). -/
def State.framing (s : State) : Bool := s.chip.framing

/-- Records discarded by R45, R53 and R70, counted on the active hive. -/
def discarded (s : State) (n : Nat) : State := s.count (hivePage (higherClaim s) 0x10) Reg.TIM_STEP_DISCARD n

end Sys2Proof.Machine
end

