-- ==== Sys2Proof/Machine/Memory.lean ====
section
/-! DEFINITION. The memories of a hive beyond single words: forager, buckets, merge buffer, retirement, the error log, the
honey-store window, and the journal of the non-volatile store (13_memory.md R414–R436). -/

namespace Sys2Proof.Machine

/-- The corrected word is written back (R414). -/
def correctedWriteback (h : HiveId) (s : State) : State := s.modHoney h writeBack

/-! ### The forager (R416, R417) -/

/-- Ticks of a second. -/
abbrev secTicks : Nat := 1024000000

/-- The tick at which the forager's next read is due: the reads of a pass are evenly spaced. -/
def forageDue (y : Honey) : Nat := y.passStart + y.pos * (y.passSec * secTicks) / honeyWords

/-- The forager passes its present word; the end of a pass starts the next at once. -/
def forageNext (h : HiveId) (s : State) : State :=
  if (s.honey h).pos + 1 < honeyWords then s.modHoney h (fun y => { y with pos := y.pos + 1 })
  else
    let s := s.setReg (hsmPage h) Reg.HSM_FORAGE_CNT (s.reg (hsmPage h) Reg.HSM_FORAGE_CNT + 1)
    s.modHoney h (fun y => { y with
      pos := 0, passStart := s.tick, passLate := false, passSec := fld (s.reg (hsmPage h) Reg.HSM_FORAGE_PASS) 11 0 })

/-- The forager reads its next word once it is due: it stands still at a word the merge buffer holds, and passes INVALID
and POISON words and retired pages without reading them. -/
def foragerRead (h : HiveId) (s : State) : State :=
  let y := s.honey h
  if !bit (s.reg (hsmPage h) Reg.HSM_CTL) 0 ∨ s.tick < forageDue y ∨ y.merge.any (fun m => m.waddr = y.pos) then s
  else if y.retiredAt y.pos ∨ y.stateOf y.pos ≠ .valid then forageNext h s
  else
    let r := storeRead s h agForager y.pos
    forageNext h (settle r.1 r.2.1)

/-- A pass is not complete after its time: it is counted late, once (R417). -/
def forageLate (h : HiveId) (s : State) : State :=
  let y := s.honey h
  if y.passLate ∨ s.tick < y.passStart + y.passSec * secTicks then s
  else
    let s := s.modHoney h (fun y => { y with passLate := true })
    raise (s.count (hsmPage h) Reg.HSM_FORAGE_LATE_CNT) (hsmPage h) Reg.HSM_EVENTS 16

/-- Every bucket loses 1, once in 2^HSM_LEAK ticks (R415). -/
def bucketLeak (h : HiveId) (s : State) : State :=
  if s.tick < (s.honey h).leakTick + 2 ^ fld (s.reg (hsmPage h) Reg.HSM_LEAK) 5 0 then s
  else s.modHoney h (fun y => { y with
    leakTick := y.leakTick + 2 ^ fld (s.reg (hsmPage h) Reg.HSM_LEAK) 5 0, buckets := (y.buckets.map (fun e => (e.1, e.2 - 1))).filter (fun e => e.2 ≠ 0) })

/-- Entries that have seen no write for 64 ticks are flushed (R419). -/
def mergeFlush (h : HiveId) (s : State) : State :=
  s.modHoney h (fun y => (y.merge.filter (fun m => m.last + 64 ≤ s.tick)).foldl flushEntry y)

/-! ### Retirement (R421) -/

/-- Queues whose descriptor some store, merge-buffer or cache entry holds. -/
def knownQueues (s : State) (h : HiveId) : List Nat :=
  let y := s.honey h
  let ws := y.st.map (·.1) ++ y.merge.map (·.waddr)
    ++ (s.hive h).caches.flatMap (fun c => c.2.flatMap (fun l => [l.line * 8, l.line * 8 + 4]))
  ((ws.filter (fun w => w % 4 = 0 ∧ w < 2 ^ 18)).map (· / 4)).dedup

/-- Whether the ring of an enabled queue covers a page. -/
def ringCovers (d0 : W64) (p : Nat) : Bool :=
  let start := d0Base d0 * 64
  d0En d0 && decide (start < 4096 * p + 4096 ∧ 4096 * p < start + 8 * 2 ^ d0Size d0)

/-- A queue whose ring covers a retired page resets and clears EN (R270). -/
def retireQueue (h : HiveId) (p q : Nat) (s : State) : State :=
  let d0 := (hPeek s h (4 * q)).1
  if qFixed q ∨ !ringCovers d0 p then s
  else
    let s := qReset s h q false
    (hWrite s h agQueue (4 * q) (d0 &&& ~~~(1#64 <<< 34))).1

/-- A page retired: its cached lines and merge entries go, queues on it reset. -/
def retirePage (h : HiveId) (p : Nat) (s : State) : State :=
  let qs := knownQueues s h
  let s := s.modHive h (fun x => { x with
    caches := (x.caches.map (fun (w, ls) => (w, ls.filter (fun c => c.line / 64 ≠ p)))).filter (fun e => !e.2.isEmpty)
    honey := { x.honey with merge := x.honey.merge.filter (fun m => m.waddr / 512 ≠ p) } })
  let s := forL qs (retireQueue h p) s
  s.modHoney h (fun y => { y with retired := (y.retired.filter (· < p)) ++ p :: (y.retired.filter (· > p)) })

/-- A page returned to use, every word INVALID. -/
def unretirePage (h : HiveId) (p : Nat) (s : State) : State :=
  s.modHoney h (fun y => { y with
    retired := y.retired.filter (· ≠ p)
    bytes := y.bytes.filter (fun c => c.1 / 4096 ≠ p)
    st := y.st.filter (fun c => c.1 / 512 ≠ p)
    err := y.err.filter (fun c => c.1 / 512 ≠ p) })

/-- A write of HSM_RETIRE (R421): GO retires, CLEAR in place of GO returns a page to use; the result is the path's. -/
def hsmRetire (p : Path) (h : HiveId) (v : W32) (s : State) : State :=
  let pg := fld v 13 0
  let result (r : Nat) (s : State) : State := s.setSel p (hsmPage h) Reg.HSM_RETIRE_STATUS (w32 r)
  let isIn := (s.honey h).retired.contains pg
  if !bit v 16 ∧ !bit v 17 then s
  else if pg < 2048 ∨ pg > 12287 then result 2 s
  else if bit v 16 then (if isIn then result 1 s else result 0 (retirePage h pg s))
  else if isIn then result 0 (unretirePage h pg s) else result 1 s

/-! ### The error log and the window (R420, R433) -/

/-- The first word of a log entry (R420). -/
def logWord (e : LogEnt) : W64 :=
  BitVec.ofNat 64 (2 ^ 61 * e.kind + 2 ^ 54 * e.bit + 2 ^ 49 * e.agent + e.waddr)

/-- The entry an empty log returns (R420). -/
def logEmpty : LogEnt := ⟨7, 127, 0, 0, 0⟩

/-- A read of HSM_LOG_POP_LO: the oldest entry goes, and the path keeps it. -/
def hsmLogPop (p : Path) (h : HiveId) (s : State) : State × W32 :=
  let e := (s.honey h).log.headD logEmpty
  let w := logWord e
  let s := s.modHoney h (fun y => { y with log := y.log.tail })
  let s := s.setSel p (hsmPage h) Reg.HSM_LOG_POP_HI (w.extractLsb' 32 32)
  (s.setSel p (hsmPage h) Reg.HSM_LOG_TIME e.short, w.extractLsb' 0 32)

/-- The word address of the window on a path. -/
def winAddr (s : State) (p : Path) (h : HiveId) : Nat := fld (s.sel p (hsmPage h) Reg.HSM_WIN_ADDR) 25 3

/-- After an access to a HI half with AUTOINC set the window's address advances by 8 (R433). -/
def winAdvance (p : Path) (h : HiveId) (s : State) : State :=
  let a := s.sel p (hsmPage h) Reg.HSM_WIN_ADDR
  if bit a 0 then s.setSel p (hsmPage h) Reg.HSM_WIN_ADDR ((a + 8) &&& 0x3FFFFF9) else s

def winResult (p : Path) (h : HiveId) (r : Nat) (s : State) : State := s.setSel p (hsmPage h) Reg.HSM_WIN_STATUS (w32 r)

/-- A read of HSM_WIN_RDATA_LO: the word, whether it was poisoned. -/
def hsmWinRead (p : Path) (h : HiveId) (s : State) : State × W32 × Bool :=
  let a := winAddr s p h
  if a ≥ honeyWords then
    ((winResult p h 3 s).setSel p (hsmPage h) Reg.HSM_WIN_RDATA_HI 0, 0, false)
  else
    let (s, x, bad) := hRead s h agWindow a
    let s := winResult p h (if bad then 1 else 0) s
    (s.setSel p (hsmPage h) Reg.HSM_WIN_RDATA_HI (x.extractLsb' 32 32), x.extractLsb' 0 32, bad)

/-- A write of HSM_WIN_WDATA_HI: the whole word as a full write. -/
def hsmWinWrite (p : Path) (h : HiveId) (v : W32) (s : State) : State :=
  let a := winAddr s p h
  let lo := s.sel p (hsmPage h) Reg.HSM_WIN_WDATA_LO
  let s :=
    if a ≥ honeyWords then winResult p h 3 s
    else
      let (s, refused) := hWrite s h agWindow a (v ++ lo)
      winResult p h (if refused then 2 else 0) s
  winAdvance p h s

/-- A write of HSM_CTL: FORAGE_EN (R417). -/
def forageEnable (h : HiveId) (v : W32) (s : State) : State := s.setReg (hsmPage h) Reg.HSM_CTL (v &&& 1)

/-! ### The journal (R424–R432) -/

/-- Units of the non-volatile store. -/
abbrev mramUnits : Nat := 4096

def mramWord (m : Memory) (i : Nat) : W64 := BitVec.ofNat 64 (m.getN (8 * i) 8)
def mramPut (m : Memory) (i : Nat) (x : W64) : Memory := m.setN (8 * i) 8 x.toNat

/-- Units of a record with a payload of `len` bytes (R424). -/
def recUnits (len : Nat) : Nat := (32 + len + 63) / 64

/-- Kinds that are not reserved (R425). -/
def kindKnown (k : Nat) : Bool := decide ((1 ≤ k ∧ k ≤ 8) ∨ (0x40 ≤ k ∧ k ≤ 0x7F))

/-- The greatest payload of a kind in bytes (R409, R425). -/
def kindMax (k : Nat) : Nat := if k ≥ 0x40 then 4096 else 65536

/-- A record as the scan finds it: first unit, kind, instance, SEQ, LENGTH, superseded. -/
structure MRec where
  unit : Nat
  kind : Nat
  inst : Nat
  seq : Nat
  len : Nat
  old : Bool
deriving DecidableEq, Repr

/-- The payload words of a record. -/
def payloadAt (m : Memory) (unit len : Nat) : List W64 := (List.range (len / 8)).map (fun i => mramWord m (8 * unit + 4 + i))

/-- Whether a length lies within the bounds of a record: 0 marks a deletion (R409, R424). -/
def lenOk (kind len : Nat) : Bool := len = 0 || (decide (8 ≤ len ∧ len ≤ kindMax kind) && len % 8 = 0)

/-- The valid record that a unit starts, if it does (R431). -/
def recordAt (m : Memory) (u : Nat) : Option MRec :=
  let m0 := (mramWord m (8 * u)).toNat
  if m0 / 2 ^ 48 ≠ 0xC0AA then none else
  let m2 := (mramWord m (8 * u + 2)).toNat
  let m3 := (mramWord m (8 * u + 3)).toNat
  let kind := fieldN m2 63 56
  let len := fieldN m3 63 32
  if m0 % 2 ^ 48 = m2 % 2 ^ 48 ∧ kindKnown kind ∧ lenOk kind len ∧ u + recUnits len ≤ mramUnits
    ∧ (crc32c ((payloadAt m u len).flatMap bytesLsb)).toNat = m3 % 2 ^ 32 then
    some ⟨u, kind, fieldN m2 55 48, m2 % 2 ^ 48, len, (mramWord m (8 * u + 1)).toNat / 2 ^ 48 = 0x5DED⟩
  else none

/-- The scan from unit `u` (R431): past a valid record, else one unit on. -/
def scanFrom (m : Memory) : Nat → Nat → List MRec
  | 0, _ => []
  | n + 1, u =>
    if u ≥ mramUnits then [] else
    match recordAt m u with
    | some r => r :: scanFrom m n (u + recUnits r.len)
    | none => scanFrom m n (u + 1)

/-- The valid records of a non-volatile store. -/
def records (m : Memory) : List MRec := scanFrom m mramUnits 0

/-- The record of the highest SEQ among those that are not superseded (R431). -/
def winnerOf (rs : List MRec) (kind inst : Nat) : Option MRec :=
  (rs.filter (fun r => r.kind = kind && r.inst = inst && !r.old)).foldl (fun b r =>
    match b with
    | none => some r
    | some c => if r.seq > c.seq then some r else some c) none

/-- The payload of a record that is present (R431). -/
def recordPayload (m : Memory) (kind inst : Nat) : Option (List W64) :=
  match winnerOf (records m) kind inst with
  | some r => if r.len = 0 then none else some (payloadAt m r.unit r.len)
  | none => none

/-- The SEQ the next record takes (R424). -/
def nextSeq (rs : List MRec) : Nat := rs.foldl (fun b r => max b r.seq) 0 + 1

/-- The occupied runs: first unit and units of every committed record that is not superseded, in order (R428). -/
def usedRuns (rs : List MRec) : List (Nat × Nat) := (rs.filter (fun r => !r.old)).map (fun r => (r.unit, recUnits r.len))

/-- The free runs between occupied ones: first unit and units. -/
def freeRuns (used : List (Nat × Nat)) : List (Nat × Nat) :=
  let r := used.foldl (fun (acc : List (Nat × Nat) × Nat) u =>
    (if u.1 > acc.2 then acc.1 ++ [(acc.2, u.1 - acc.2)] else acc.1, max acc.2 (u.1 + u.2))) ([], 0)
  if r.2 < mramUnits then r.1 ++ [(r.2, mramUnits - r.2)] else r.1

/-- The word writes of a record by the four steps, or none where no free run fits (R428). -/
def recordWrites (m : Memory) (kind inst : Nat) (payload : List W64) : Option (List (Nat × W64)) :=
  let rs := records m
  let len := 8 * payload.length
  match (freeRuns (usedRuns rs)).find? (fun f => f.2 ≥ recUnits len) with
  | none => none
  | some (u, _) =>
    let seq := nextSeq rs
    let crc := crc32c (payload.flatMap bytesLsb)
    let at0 := 8 * u
    some ([(at0, 0), (at0 + 1, 0)] ++ (List.zip (List.range payload.length) payload).map (fun (i, x) => (at0 + 4 + i, x))
      ++ [(at0 + 2, BitVec.ofNat 64 (2 ^ 56 * kind + 2 ^ 48 * inst + seq)),
          (at0 + 3, BitVec.ofNat 64 (2 ^ 32 * len + crc.toNat)),
          (at0, BitVec.ofNat 64 (2 ^ 48 * 0xC0AA + seq))]
      ++ (match winnerOf rs kind inst with
          | some old => [(8 * old.unit + 1, BitVec.ofNat 64 (2 ^ 48 * 0x5DED))]
          | none => []))

/-- The NVS_ page of a hive. -/
abbrev nvsPage (h : HiveId) : Nat := hivePage h 0x1C

/-- The words of the payload read from the honey store; none once a word is poisoned, with the words before it. -/
def readPayload (h : HiveId) (a n : Nat) (s : State) : State × List W64 × Bool :=
  (List.range n).foldl (fun (s, ws, bad) i =>
    if bad then (s, ws, bad) else
    let (s, x, p) := hRead s h agWindow (a + i)
    if p then (s, ws, true) else (s, ws ++ [x], false)) (s, [], false)

/-- The start of an NVS_ command (R432). -/
def nvsCommand (h : HiveId) (v : W32) (s : State) : State :=
  let cmd := fld v 1 0
  if !bit v 31 ∨ cmd = 0 then s else
  let kind := fld v 15 8
  let inst := fld v 23 16
  let a := fld (s.reg (nvsPage h) Reg.NVS_ADDR) 25 3
  let len := fld (s.reg (nvsPage h) Reg.NVS_LEN) 16 0
  let m := (s.hive h).mram
  let start (c : NvsCmd) (s : State) : State := s.modHive h (fun x => { x with nvs := some c, nvsState := 1, nvsResult := 0 })
  let mk (ws : List (Nat × W64)) (r : Nat) : NvsCmd := { op := cmd, kind := kind, inst := inst, addr := a, len := len, writes := ws, result := r }
  if (s.hive h).nvs.isSome then
    raise (s.modHive h (fun x => { x with nvsResult := 1 })) (nvsPage h) Reg.NVS_EVENTS 2
  else if !kindKnown kind then start (mk [] 6) s
  else if cmd = 2 then
    match recordPayload m kind inst with
    | none => start (mk [] 5) s
    | some ws => start (mk [] (if a + ws.length > honeyWords then 6 else 0)) s
  else if kind = 1 ∨ kind = 2 then start (mk [] 2) s
  else if cmd = 3 then
    match recordWrites m kind inst [] with
    | none => start (mk [] 3) s
    | some ws => start (mk ws 0) s
  else if len = 0 ∨ !lenOk kind len ∨ a + len / 8 > honeyWords then start (mk [] 6) s
  else
    let (s, payload, bad) := readPayload h a (len / 8) s
    match recordWrites m kind inst (if bad then List.replicate (len / 8) 0 else payload) with
    | none => start (mk [] 3) s
    | some ws => if bad then start (mk (ws.take (2 + payload.length)) 4) s else start (mk ws 0) s

/-- The CLAIM record of a hive falls due (14_redundancy_faults.md R441): its write starts unless a command runs. -/
def claimDue (h : HiveId) (s : State) : State :=
  let s := s.modHive h (fun x => { x with dup := { x.dup with nvPending := true } })
  if (s.hive h).nvs.isSome then s
  else match recordWrites (s.hive h).mram 7 0 [(s.hive h).dup.claim.zeroExtend 64] with
    | none => s
    | some ws => s.modHive h (fun x => { x with
        nvs := some { op := 1, kind := 7, inst := 0, addr := 0, len := 8, writes := ws, result := 0, src := 1 } })

/-- The end of a running command that the host started (R432). -/
def nvsDone (h : HiveId) (s : State) : State :=
  match (s.hive h).nvs with
  | none => s
  | some c =>
    if c.src = 1 then s else
    let s := s.modHive h (fun x => { x with nvs := none, mram := c.writes.foldl (fun m w => mramPut m w.1 w.2) x.mram })
    let s :=
      if c.src ≠ 0 then s else
      let s := s.modHive h (fun x => { x with nvsState := 2, nvsResult := c.result })
      let s :=
        if c.op = 2 ∧ c.result = 0 then
          match recordPayload (s.hive h).mram c.kind c.inst with
          | none => s
          | some ws =>
            let s := (List.zip (List.range ws.length) ws).foldl (fun s (i, x) => (hWrite s h agWindow (c.addr + i) x).1) s
            s.setReg (nvsPage h) Reg.NVS_LAST_LEN (w32 (8 * ws.length))
        else s
      raise s (nvsPage h) Reg.NVS_EVENTS (if c.result = 0 then 1 else 2)
    if (s.hive h).dup.nvPending then claimDue h s else s

/-- The CLAIM record is committed (14_redundancy_faults.md R441). -/
def claimCommit (h : HiveId) (s : State) : State :=
  match (s.hive h).nvs with
  | none => s
  | some c =>
    if c.src ≠ 1 then s else
    s.modHive h (fun x => { x with
      nvs := none, mram := c.writes.foldl (fun m w => mramPut m w.1 w.2) x.mram, dup := { x.dup with nvPending := false } })

/-- A brown-out warning for one hive (R429): the word write that has begun completes, no further one starts. How many had
begun is not stated: a free value. A command so interrupted ends with BROWNOUT. -/
def nvsBrownout (h : HiveId) (s : State) : State :=
  match (s.hive h).nvs with
  | none => s
  | some c =>
    let (v, s) := s.free
    let k := v.toNat % (c.writes.length + 1)
    let s := s.modHive h (fun x => { x with
      nvs := none, mram := (c.writes.take k).foldl (fun m w => mramPut m w.1 w.2) x.mram })
    if c.src ≠ 0 then s
    else raise (s.modHive h (fun x => { x with nvsState := 2, nvsResult := 7 })) (nvsPage h) Reg.NVS_EVENTS 2

/-- A brown-out warning (R429, 16_power_reset.md R496). -/
def brownoutWarn (s : State) : State := nvsBrownout .b (nvsBrownout .a s)

/-- A read of NVS_RAW_LO (R435): the word's low half; the path keeps the high half. -/
def nvsRawRead (p : Path) (h : HiveId) (s : State) : State × W32 :=
  let x := mramWord (s.hive h).mram (fld (s.sel p (nvsPage h) Reg.NVS_RAW_ADDR) 14 0)
  (s.setSel p (nvsPage h) Reg.NVS_RAW_HI (x.extractLsb' 32 32), x.extractLsb' 0 32)

/-! ### The commands of this chapter that name no access path -/

def execCorrectedWriteback (h : HiveId) (s : State) : Host.Outcome State Fault Refusal := done s (correctedWriteback h s)
def execForagerRead (h : HiveId) (s : State) : Host.Outcome State Fault Refusal := done s (foragerRead h s)
def execForageLate (h : HiveId) (s : State) : Host.Outcome State Fault Refusal := done s (forageLate h s)
def execBucketLeak (h : HiveId) (s : State) : Host.Outcome State Fault Refusal := done s (bucketLeak h s)
def execMergeBufferFlush (h : HiveId) (s : State) : Host.Outcome State Fault Refusal := done s (mergeFlush h s)
def execNvsCommandDone (h : HiveId) (s : State) : Host.Outcome State Fault Refusal := done s (nvsDone h s)
def execBrownoutWarning (s : State) : Host.Outcome State Fault Refusal := done s (brownoutWarn s)
def execClaimRecordCommit (h : HiveId) (s : State) : Host.Outcome State Fault Refusal := done s (claimCommit h s)

end Sys2Proof.Machine
end

