-- ==== Sys2Proof/Machine/Line.lean ====
section
/-! DEFINITION. The line code of a lane: blocks of a sync header and 64 bits, the scrambler, and the PRBS generator and checker
(09_lanes.md R292, R293, R319, R320). -/

namespace Sys2Proof.Machine

/-! ### The scrambler (R292) -/

/-- The bit a scrambler adds to the next one: those 39 and 58 bits before it on the line. -/
def scrTap (st : BitVec 58) : Bool := st.getLsbD 38 ^^ st.getLsbD 57

/-- A bit has gone over the line. -/
def linePush (st : BitVec 58) (b : Bool) : BitVec 58 := (st <<< 1) ||| (BitVec.ofBool b).zeroExtend 58

/-- Bits scrambled, the first to go onto the line first. -/
def scrambleBits : BitVec 58 → List Bool → BitVec 58 × List Bool
  | st, [] => (st, [])
  | st, d :: ds =>
    let b := d ^^ scrTap st
    let (st', bs) := scrambleBits (linePush st b) ds
    (st', b :: bs)

/-- Bits of the line descrambled. -/
def descrambleBits : BitVec 58 → List Bool → BitVec 58 × List Bool
  | st, [] => (st, [])
  | st, b :: bs =>
    let (st', ds) := descrambleBits (linePush st b) bs
    (st', (b ^^ scrTap st) :: ds)

/-- The bits of a word as they go onto the line: the least significant first. -/
def lineBits (w : W64) : List Bool := (List.range 64).map (fun i => w.getLsbD i)

/-- The word of 64 bits of the line. -/
def lineWord : List Bool → W64
  | [] => 0
  | b :: bs => (lineWord bs <<< 1) ||| (BitVec.ofBool b).zeroExtend 64

/-- A word scrambled for the line. -/
def scramble (st : BitVec 58) (w : W64) : BitVec 58 × W64 := let (st', bs) := scrambleBits st (lineBits w); (st', lineWord bs)

/-- A word of the line descrambled. -/
def descramble (st : BitVec 58) (w : W64) : BitVec 58 × W64 := let (st', ds) := descrambleBits st (lineBits w); (st', lineWord ds)

/-! ### Blocks (R293) -/

/-- The sync headers of data and control blocks. -/
abbrev hdrData : BitVec 2 := 0b01
abbrev hdrCtrl : BitVec 2 := 0b10

/-- Blocks with their words scrambled one after the other; the sync headers go as they are. -/
def scrambleBlocks : BitVec 58 → List LineBlock → BitVec 58 × List LineBlock
  | st, [] => (st, [])
  | st, b :: bs =>
    let (st', w) := scramble st b.word
    let (st'', cs) := scrambleBlocks st' bs
    (st'', ⟨b.hdr, w⟩ :: cs)

/-- The blocks of a packet before the scrambler (R293, R298). -/
def packetBlocks (p : RawPacket) : List LineBlock :=
  ⟨hdrCtrl, p.header ++ 0x78#8⟩ :: (p.payload ++ [p.trailer]).map (fun w => ⟨hdrData, w⟩)

/-- The block of a timing block before the scrambler (R293, 10_time_transfer.md R329). -/
def timingLine (content : BitVec 56) : LineBlock := ⟨hdrCtrl, content ++ 0x4B#8⟩

/-! ### PRBS (R319, R320) -/

/-- The two exponents of a sequence's polynomial by POLY. -/
def prbsPoly (poly : Nat) : Nat × Nat :=
  match poly with
  | 0 => (7, 6) | 1 => (9, 5) | 2 => (15, 14) | 3 => (23, 18) | _ => (31, 28)

/-- The next bit of a sequence from those before it, the latest in bit 0. -/
def prbsNext (poly : Nat) (st : BitVec 31) : Bool := let (n, m) := prbsPoly poly; st.getLsbD (n - 1) ^^ st.getLsbD (m - 1)

/-- A bit enters a sequence's register. -/
def prbsPush (st : BitVec 31) (b : Bool) : BitVec 31 := (st <<< 1) ||| (BitVec.ofBool b).zeroExtend 31

/-- Whether an armed injection inverts the next bit, and what remains of it: mode, length or exponent, bits so far (R320). RATE inverts the
last bit of every 2^EXP (DESIGN CHOICE, log entry 99: the rule names no place). -/
def injectBit : Option (Nat × Nat × Nat) → Bool × Option (Nat × Nat × Nat)
  | none => (false, none)
  | some (2, e, n) => (decide (n + 1 = 2 ^ e), some (2, e, (n + 1) % 2 ^ e))
  | some (m, len, n) => (true, if m = 0 ∨ n ≥ len then none else some (m, len, n + 1))

/-- Bits of the generator's output: register, injection, the bits. -/
def prbsBits (poly : Nat) (inv : Bool) : Nat → BitVec 31 → Option (Nat × Nat × Nat) → BitVec 31 × Option (Nat × Nat × Nat) × List Bool
  | 0, st, inj => (st, inj, [])
  | n + 1, st, inj =>
    let b := prbsNext poly st
    let (flip, inj) := injectBit inj
    let (st', inj', bs) := prbsBits poly inv n (prbsPush st b) inj
    (st', inj', (b ^^ inv ^^ flip) :: bs)

/-- A checker takes a bit (R319): unlocked it runs on the bits received and locks after 64 that agree; locked it runs on its own, counts those
that do not, and loses lock at 32 in any 64. The errors counted. -/
def PrbsCheck.bit (poly : Nat) (inv b : Bool) (k : PrbsCheck) : PrbsCheck × Nat :=
  let r := b ^^ inv
  let p := prbsNext poly k.reg
  let agree := (k.agree <<< 1) ||| (BitVec.ofBool (r == p)).zeroExtend 64
  if k.sync then
    let lost := decide (((List.range 64).filter (fun i => !agree.getLsbD i)).length ≥ 32)
    ({ reg := prbsPush k.reg p, agree := if lost then 0 else agree, sync := !lost }, bitAt (r != p) 0)
  else ({ reg := prbsPush k.reg r, agree := agree, sync := decide (agree = BitVec.allOnes 64) }, 0)

/-- A checker takes bits in their order: the errors counted. -/
def PrbsCheck.bits (poly : Nat) (inv : Bool) : List Bool → PrbsCheck → PrbsCheck × Nat
  | [], k => (k, 0)
  | b :: bs, k =>
    let (k, m) := k.bit poly inv b
    let (k, n) := k.bits poly inv bs
    (k, m + n)

/-- The 66 bits of a block as they go over the line. -/
def blockBits (b : LineBlock) : List Bool := b.hdr.getLsbD 0 :: b.hdr.getLsbD 1 :: lineBits b.word

/-- 66 bits of the line as a block. -/
def bitsBlock (bs : List Bool) : LineBlock :=
  ⟨BitVec.ofNat 2 (bitAt (bs.getD 0 false) 0 + bitAt (bs.getD 1 false) 1), lineWord (bs.drop 2)⟩

end Sys2Proof.Machine
end

