-- ==== Sys2Proof/Machine/Cells.lean ====
section
/-! DEFINITION. Cells: edges, the interpolator pool, pulses and their records, muting, clock-monitor mode; the calibration
injector and the bias output of a block (03_cells.md R82–R119). -/

namespace Sys2Proof.Machine

/-! ### Settings of a cell -/

/-- A window register of a cell in force (R116). -/
abbrev State.cellReg (s : State) (c off : Nat) : W32 := s.reg (blkPage (c / 16)) off (c % 16)
abbrev State.cellCfg (s : State) (c : Nat) : W32 := s.cellReg c Reg.CELL_CFG

/-- The fields of CELL_CFG (R118). -/
abbrev cEn (v : W32) : Bool := bit v 0
abbrev cThEn (v : W32) (th : Nat) : Bool := bit v (6 + th)
abbrev cCm (v : W32) : Bool := bit v 10
abbrev cSkewOk (v : W32) : Bool := bit v 11
abbrev cMuteCeil (v : W32) : Nat := fld v 23 12

/-- DAC code, hysteresis and enable bit of a threshold from the window registers (R118). -/
def thSetting (cfg th01 th23 : W32) (th : Nat) : BitVec 12 × BitVec 4 × Bool :=
  let w := if th < 2 then th01 else th23
  (w.extractLsb' (16 * (th % 2)) 12, w.extractLsb' (16 * (th % 2) + 12) 4, cThEn cfg th)

/-- The setting in force in a discriminator (R88). -/
def discSetting (s : State) (c th : Nat) : BitVec 12 × BitVec 4 × Bool :=
  match (lget {} (s.cell c).discs th).kept with
  | some k => k
  | none => thSetting (s.cellCfg c) (s.cellReg c Reg.CELL_TH01) (s.cellReg c Reg.CELL_TH23) th

abbrev thOn (s : State) (c th : Nat) : Bool := (discSetting s c th).2.2

/-- The lowest-numbered enabled threshold (R98). -/
def lowTh (s : State) (c : Nat) : Option Nat := (List.range 4).find? (fun th => thOn s c th)

/-! ### Times and frames -/

/-- Fu of the tick count at the start of the present tick. -/
abbrev State.mono (s : State) : Nat := 1000 * s.tick

/-- The frame scheme that a time falls under: length in fu and epoch (02_timebase.md R53). -/
def schemeAt (s : State) (t : Int) : Int × Int :=
  match s.chip.schemePrev with
  | some (b, k, ep) => if t < b then ((1024 * 2 ^ k : Nat), ep) else (s.frameFu, s.epochFu)
  | none => (s.frameFu, s.epochFu)

/-- The frame in which a time falls (R101). -/
def frameOf (s : State) (t : Int) : BitVec 40 :=
  let (len, ep) := schemeAt s t
  BitVec.ofInt 40 ((t - ep).fdiv len)

/-- The distance of a time from the start of its frame (02_timebase.md R49). -/
def frameRel (s : State) (t : Int) : Nat :=
  let (len, ep) := schemeAt s t
  ((t - ep).fmod len).toNat

/-- Skew and its mark for a raw time: those in force before a commit serve the times before its boundary (R101,
15_control.md R480). -/
def skewAt (s : State) (c : Nat) (raw : Int) : Int × Bool :=
  let cur := ((s.cellReg c Reg.CELL_SKEW).extractLsb' 0 16).toInt
  match (s.cell c).skewPrev with
  | some (b, w, v) => if raw < b then ((w.extractLsb' 0 16).toInt, v) else (cur, cSkewOk (s.cellCfg c))
  | none => (cur, cSkewOk (s.cellCfg c))

/-- The die offset of a comb for a time `t` that holds the skew already (02_timebase.md R56): the offset in force before the boundary
serves the records that it puts before the boundary, so the records of one frame see one value. Where the offset fell, a time of
the last fu before the boundary meets neither frame's value; it takes the new one (log entry 84). -/
def dieOffset (s : State) (comb : Nat) (t : Int) : Int :=
  let old := lget 0 s.chip.spinePrev comb
  if t + old < s.chip.spineAt then old else lget 0 s.chip.spineNow comb

/-- The corrected time of a raw leading time of a cell (R101). -/
def corrected (s : State) (c : Nat) (raw : Int) : Int :=
  let t := raw + (skewAt s c raw).1
  t + dieOffset s (c / 192) t

/-- Whether a time belongs to a gap in frame building (02_timebase.md R45, R53, R70): `gen` tells a time taken before the last step. -/
def inGap (s : State) (gen : Nat) (t : Int) : Bool :=
  match s.chip.gap with
  | some (a, b) =>
    if gen = s.chip.stepGen then decide (a ≤ t ∧ t < b)
    else match s.chip.gapFrom with
      | some (g, u) => decide (g < gen) || (decide (g = gen) && decide (u ≤ t))
      | none => true
  | none => false

/-! ### The interpolator pool (R89–R92) -/

/-- The free interpolator an edge takes: the lowest; where none is free, the calibrating one. -/
def pickItp (x : Cell) : Option (Nat × Bool) :=
  match x.itps.findIdx? (fun i => i = .free) with
  | some i => some (i, false)
  | none => (x.itps.findIdx? (fun i => i = .calib)).map (fun i => (i, true))

/-- An edge reaches the pool (R89–R92): its stamp. `mk` is what the interpolator then does, `tick` the boundary that launches it. -/
def takeStamp (c : Nat) (mk : Itp) (s : State) (tick : Int := s.now + 1000) : State × Stamp :=
  match pickItp (s.cell c) with
  | some (i, yielded) =>
    let s := s.modCell c (fun x => { x with itps := lset x.itps i mk })
    (if yielded then s.count (blkPage (c / 16)) Reg.CELL_CAL_YIELD_CNT else s, .waiting i)
  | none => (s.count (blkPage (c / 16)) Reg.CELL_COARSE_CNT, .known (tick - 500) true)

/-! ### Records (R93–R100) -/

/-- TOT from raw times (R96). -/
def totOf (lead trail : Int) : Nat :=
  let d := trail - lead
  if d < 0 then 0 else min 16383 ((d + 8).toNat / 16)

/-- Flags of a record without SKEW_OK, which the block adds (R95). -/
def recFlags (cl ct ovf pile cal : Bool) : BitVec 7 :=
  BitVec.ofNat 7 (bitAt cl 0 + bitAt ct 1 + bitAt ovf 2 + bitAt pile 3 + bitAt cal 4)

/-- The record of a pulse both of whose edges are known (R93, R97). -/
def pulseRec (parity : Bool) (p : Pulse) : Option RawRec :=
  match p.lead with
  | .waiting _ => none
  | .known t cl =>
    if p.ovf then some ⟨p.th, t, 16383, recFlags cl false true p.pileup p.cal, parity, p.gen⟩
    else match p.trail with
      | some (.known u ct) => some ⟨p.th, t, totOf t u, recFlags cl ct false p.pileup p.cal, parity, p.gen⟩
      | _ => none

/-- A block's open slot of a frame changed. -/
def State.modSlot (s : State) (b : Nat) (f : BitVec 40) (g : Slot → Slot) : State :=
  s.modBlock b (fun x => { x with slots := x.slots.map (fun k => if k.frame = f then g k else k) })

/-- One more record counted for a cell's frame (R103). -/
def countRec (c : Nat) (f : BitVec 40) (s : State) : State :=
  s.modCell c (fun x => { x with recs := tset 0 x.recs f.toNat (tget 0 x.recs f.toNat + 1) })

/-- A completed record enters the cell FIFO, or is dropped and counted (R99, R100). -/
def pushRec (c : Nat) (r : RawRec) (s : State) : State :=
  let t := corrected s c r.fu
  let f := frameOf s t
  let b := c / 16
  let s := if r.flags.getLsbD 4 then s else countRec c f s
  if (s.cell c).fifo.length < 16 then
    s.modCell c (fun x => { x with fifo := x.fifo ++ [r], wrPos := x.wrPos + 1 })
  else
    let s := s.count (blkPage b) Reg.CELL_DROP_CNT
    let s := s.modBlock b (fun x => { x with drops := tset 0 x.drops f.toNat (tget 0 x.drops f.toNat + 1) })
    raise s (blkPage b) Reg.CELL_DROP_MASK (2 ^ (c % 16))

/-- Pulses whose edges are all known make their records, in the order they stand (R93, R99). -/
def complete (c : Nat) (s : State) : State :=
  let ps := (s.cell c).pulses
  let par := s.cb128
  let ready := ps.filterMap (pulseRec par)
  let s := s.modCell c (fun x => { x with pulses := x.pulses.filter (fun p => (pulseRec par p).isNone) })
  ready.foldl (fun s r => pushRec c r s) s

/-- A pulse of a threshold that has neither closed nor run out. -/
def openPulse (x : Cell) (th : Nat) : Option Pulse := x.pulses.find? (fun p => p.th = th && p.trail.isNone && !p.ovf)

/-- A pulse of a threshold closes: the setting that waits comes into force (R88). -/
def closeTh (c th : Nat) (s : State) : State :=
  s.modCell c (fun x => { x with discs := lmod x.discs th (fun d => { d with kept := none }) })

/-! ### Edges (R86–R98, R105, R111) -/

/-- Whether an injection into the cell lies within its calibration window (R111). -/
def inCalWin (s : State) (c m : Nat) : Bool :=
  match (s.cell c).injected with
  | some t => decide (t ≤ m ∧ m ≤ t + 1000 * (max 1 (fld (s.reg (blkPage (c / 16)) Reg.INJ_CAL_WIN) 7 0)))
  | none => false

/-- The launching tick boundary of an edge at `t` (04_interpolators.md R121): the first tick boundary after it. -/
def launchOf (t : Int) (s : State) : Int := s.now + 1000 * ((t - s.now).fdiv 1000 + 1)

/-- A leading edge of TH_`th` counted within every excursion that runs, and its own excursion begun (R98). -/
def noteLeading (th : Nat) (x : Cell) : Cell :=
  { x with exc := lset (x.exc.map (fun row => lmod row th (· + 1))) th [0, 0, 0, 0] }

/-- Whether a leading edge of a threshold is the second or later one within the excursion of the lowest enabled threshold (R98):
the excursion runs while that threshold's pulse is open. -/
def isPileup (x : Cell) (low : Option Nat) (th : Nat) : Bool :=
  match low with
  | some l => decide (l ≠ th) && (openPulse x l).isSome && decide (lget 0 (lget [] x.exc l) th ≠ 0)
  | none => false

/-- A leading edge (R86, R88, R93, R98, R103): the pulse it opens. While the trailing edge of a pulse closed by TOT_OVF is
awaited, a leading edge comes first only under a setting that has changed since. -/
def leadingEdge (c th m : Nat) (s : State) : State :=
  let x := s.cell c
  let d := lget {} x.discs th
  if (openPulse x th).isSome ∨ (d.ignoreTrail ∧ !d.moved) then s else
  let label := s.now + ((m : Int) - (s.mono : Int))
  let cal := inCalWin s c m
  let mutedHere := x.muted && !cal
  let pile := isPileup x (lowTh s c) th
  let s := s.modCell c (fun x => noteLeading th { x with discs := lmod x.discs th (fun d => { d with ignoreTrail := false, moved := false }) })
  let mk (st : Stamp) : Pulse :=
    { th := th, leadM := m, leadLabel := label, lead := st, pileup := pile, cal := cal, muted := mutedHere, gen := s.chip.stepGen }
  if mutedHere then
    let s := s.modCell c (fun x => { x with pulses := x.pulses ++ [mk (.waiting 4)] })
    countRec c (frameOf s (corrected s c label)) s
  else
    let tick := launchOf label s
    let (s, st) := takeStamp c (.edge th true tick false) s tick
    s.modCell c (fun x => { x with pulses := x.pulses ++ [mk st] })

/-- A trailing edge (R93, R97). -/
def trailingEdge (c th m : Nat) (s : State) : State :=
  let x := s.cell c
  if (lget {} x.discs th).ignoreTrail then
    s.modCell c (fun x => { x with discs := lmod x.discs th (fun d => { d with ignoreTrail := false, moved := false }) })
  else match openPulse x th with
    | none => s
    | some p =>
      if p.muted then
        closeTh c th (s.modCell c (fun x => { x with pulses := x.pulses.filter (fun q => q ≠ p) }))
      else
        let tick := launchOf (s.now + ((m : Int) - (s.mono : Int))) s
        let (s, st) := takeStamp c (.edge th false tick false) s tick
        let s := s.modCell c (fun x => { x with pulses := x.pulses.map (fun q => if q = p then { q with trail := some st } else q) })
        complete c (closeTh c th s)

/-- A leading edge of TH_0 in clock-monitor mode, with its launching tick boundary (R105, R106). -/
def monitorEdge (c : Nat) (tick : Int) (s : State) : State :=
  let n := fld (s.cellReg c Reg.CELL_SKEW) 31 16 + 1
  let e := (s.cell c).cmEdges
  let s := s.modCell c (fun x => { x with cmEdges := e + 1 })
  if e % n ≠ 0 then s
  else match pickItp (s.cell c) with
    | none => s.count (blkPage (c / 16)) Reg.CELL_CM_COARSE_CNT
    | some _ => (takeStamp c (.stampCm tick (BitVec.ofNat 32 (e / n)) false) s).1

/-- The rank of an edge that reaches the pool with others (R90). -/
def edgeRank (e : EdgeIn) : Nat := (if e.rising then 0 else 4) + e.th.val

/-- The instant of an edge in fu from the start of the present tick. -/
def edgeAt (e : EdgeIn) : Nat := (if e.next then 2000 else 1000) - (e.delta.val + 1)

/-- The allocator's resolve window in whole fu: 150 ps are 153.6 fu (R82). -/
abbrev resolveFu : Nat := 153

/-- A list of edges with one more, in order of arrival. -/
def insertEdge (e : EdgeIn) : List EdgeIn → List EdgeIn
  | [] => [e]
  | f :: rest => if edgeAt e < edgeAt f then e :: f :: rest else f :: insertEdge e rest

/-- The edge of a list in order of arrival that the pool serves next (R89, R90): of those that arrive within the resolve window of the
first, the highest in rank; of one threshold the earlier edge goes first. -/
def nextEdge (first : EdgeIn) (rest : List EdgeIn) : EdgeIn :=
  ((rest.filter (fun e => decide (edgeAt e ≤ edgeAt first + resolveFu))).foldl (fun (acc : EdgeIn × List (Fin 4)) e =>
    if acc.2.contains e.th then acc
    else (if edgeRank e < edgeRank acc.1 then e else acc.1, e.th :: acc.2)) (first, [first.th])).1

/-- The order in which the pool serves edges that stand in order of arrival. -/
def serveOrder : Nat → List EdgeIn → List EdgeIn
  | 0, es => es
  | _ + 1, [] => []
  | n + 1, e :: rest => let f := nextEdge e rest; f :: serveOrder n ((e :: rest).erase f)

/-- The edges of a command in the order in which they are served: an edge of the next tick comes with the command only where it competes
with one of the present tick. -/
def rankEdges (es : List EdgeIn) : List EdgeIn :=
  let here := es.filter (fun e => !e.next)
  let es := es.filter (fun e => !e.next || here.any (fun f => decide (edgeAt e ≤ edgeAt f + resolveFu)))
  serveOrder es.length (es.foldl (fun l e => insertEdge e l) [])

/-- One edge of an enabled, unblanked cell. Clock-monitor mode counts the leading edges of TH_0 whatever its enable bit, and
counts on from the old edge count where EN alone changes (DESIGN CHOICE, log entry 85: R105 states neither). -/
def oneEdge (c : Nat) (e : EdgeIn) (s : State) : State :=
  let m := s.mono + edgeAt e
  let blanked : Bool := match (s.cell c).blankEnd with | some t => decide (m < t) | none => false
  let tt := s.now / 8000
  let s := if blanked ∨ !e.rising ∨ cCm (s.cellCfg c) ∨ !thOn s c e.th.val ∨ (s.cell c).muted then s
    else s.modCell c (fun x => { x with prims := (x.prims.filter (fun p => decide (p.2 + 12 > tt))) ++ [(e.th.val, tt)] })
  if blanked then s
  else if cCm (s.cellCfg c) then (if e.th.val = 0 ∧ e.rising then monitorEdge c (s.now + (if e.next then 2000 else 1000)) s else s)
  else if e.rising then (if thOn s c e.th.val then leadingEdge c e.th.val m s else s)
  else trailingEdge c e.th.val m s

/-- Whether a comb captures: its domain is in Run or Idle and not in reset (16_power_reset.md R498). -/
def capturing (s : State) (comb : Nat) : Bool :=
  let d := s.domain comb
  (d.state = .run || d.state = .idle) && !d.inReset && !(s.comb comb).inReset && s.chip.started

/-- Edges that reach a cell's pool within one resolve window (R89, R90). -/
def discriminatorEdges (c : Nat) (es : List EdgeIn) (s : State) : State :=
  if !cEn (s.cellCfg c) ∨ !capturing s (c / 192) then s
  else (rankEdges es).foldl (fun s e => oneEdge c e s) s

/-- A pulse still open 256 ns after its leading edge (R97). -/
def pulseTimeout (c th : Nat) (s : State) : State :=
  match openPulse (s.cell c) th with
  | none => s
  | some p =>
    if s.mono + 1000 ≤ p.leadM + 262144 then s
    else
      let new := thSetting (s.cellCfg c) (s.cellReg c Reg.CELL_TH01) (s.cellReg c Reg.CELL_TH23) th
      let drop (d : Disc) : Disc := { d with ignoreTrail := true, moved := d.kept.any (· ≠ new) }
      if p.muted then
        closeTh c th (s.modCell c (fun x => { x with
          pulses := x.pulses.filter (fun q => q ≠ p), discs := lmod x.discs th drop }))
      else
        let s := s.count (blkPage (c / 16)) Reg.CELL_LONG_CNT
        let s := s.modCell c (fun x => { x with
          pulses := x.pulses.map (fun q => if q = p then { q with ovf := true } else q), discs := lmod x.discs th drop })
        complete c (closeTh c th s)

/-- The blanking after a front-end reconfiguration ends (R87). -/
def blankingEnd (c : Nat) (s : State) : State :=
  match (s.cell c).blankEnd with
  | some t => if s.mono + 1000 ≤ t then s else s.modCell c (fun x => { x with blankEnd := none })
  | none => s

/-! ### Histograms (04_interpolators.md R128) -/

/-- The table index of an interpolator within its block. -/
abbrev localItp (c i : Nat) : Nat := 4 * (c % 16) + i

/-- An interpolator's histogram is cleared, and what its builder makes of it is dropped, so that the table in force stays (R128). -/
def clearHist (b i : Nat) (s : State) : State :=
  let s := s.modCal (64 * b + i) (fun k => { k with hist := [], fill := 0, waiting := false })
  s.modBlock b (fun x => { x with
    buildQueue := x.buildQueue.filter (· ≠ i)
    building := if x.building = some i then none else x.building
    built := x.built.filter (fun n => decide (n.itp ≠ i)) })

/-! ### Commits and mutes at a boundary (R87, R88, R103, R104) -/

/-- What a commit does to a cell, given its registers before; `b` is the boundary, `m` the same in fu of the tick count. -/
def cellCommit (c : Nat) (cfg0 th01 th23 skew0 : W32) (b : Int) (m : Nat) (s : State) : State :=
  let cfg := s.cellCfg c
  let s := s.modCell c (fun x => { x with skewPrev := some (b, skew0, cSkewOk cfg0) })
  if (cfg ^^^ cfg0) &&& 0x43F ≠ 0 then
    let opens := ((s.cell c).pulses.filter (fun p => p.trail.isNone && !p.ovf && !p.muted)).length
    let s := s.count (blkPage (c / 16)) Reg.CELL_LONG_CNT opens
    let s := s.modCell c (fun x => { x with
      pulses := (x.pulses.filter (fun p => !(p.muted && p.trail.isNone))).map (fun p => if p.trail.isNone then { p with ovf := true } else p)
      discs := [{}, {}, {}, {}], blankEnd := some (m + 204800)
      cmEdges := if cCm cfg && !cCm cfg0 then 0 else x.cmEdges })
    let s := if cEn cfg0 && !cEn cfg then forN 4 (fun i s => clearHist (c / 16) (localItp c i) s) s else s
    complete c s
  else
    let new := thSetting cfg (s.cellReg c Reg.CELL_TH01) (s.cellReg c Reg.CELL_TH23)
    s.modCell c (fun x => { x with discs := (List.range 4).map (fun th =>
      let d := lget {} x.discs th
      let old := thSetting cfg0 th01 th23 th
      if (openPulse x th).isSome then (if d.kept.isNone then { d with kept := some old } else d)
      else if d.ignoreTrail ∧ old ≠ new th then { d with moved := true } else d) })

/-- The mute decision of a cell at the end of frame `f` (R103, R104), on the records complete by then: a pulse of the frame whose
record completes later does not count (DESIGN CHOICE, log entry 86). -/
def muteDecision (commit : Bool) (f : BitVec 40) (c : Nat) (s : State) : State :=
  let cfg := s.cellCfg c
  let n := tget 0 (s.cell c).recs f.toNat
  let m := !commit && cMuteCeil cfg ≠ 0 && !cCm cfg && decide (n > 16 * cMuteCeil cfg)
  s.modCell c (fun x => { x with muted := m })

/-- Whether a pulse of a frame has yet to make its record (R102). -/
def framePending (s : State) (c : Nat) (f : BitVec 40) : Bool :=
  (s.cell c).pulses.any (fun p => !p.muted &&
    decide (frameDiff (frameOf s (corrected s c (match p.lead with | .known t _ => t | .waiting _ => p.leadLabel))) f ≤ 0))

/-! ### The injector (R107–R111, R119) -/

/-- The sequencer reads a segment's entry and starts it (R108). -/
def startSegment (b seg tick : Nat) (s : State) : State :=
  let r (off : Nat) := s.reg (blkPage b) off seg
  let a := r Reg.INJ_SEG_A
  let w := r Reg.INJ_SEG_B
  let n := r Reg.INJ_SEG_C
  s.modBlock b (fun x => { x with inj := { x.inj with
    state := 2, seg := seg, sample := 0, segStart := tick, amp := fld a 11 0, mask := a.extractLsb' 12 16
    interval := max 64 (fld w 23 0), count := fld w 31 24 + 1, next := fld n 5 0, stop := bit n 8, bound := none } })

/-- The sequencer stops at once: requests are discarded, RUN clears (R110). A stop at END discards a request that is pending and not
bound as well, and INJ_STATUS keeps SEG and SAMPLE (DESIGN CHOICE, log entry 87: R109, R110 and R119 state neither). -/
def stopInjector (b : Nat) (s : State) : State :=
  let s := s.modBlock b (fun x => { x with inj := { x.inj with state := 0, pend := none, bound := none } })
  s.setReg (blkPage b) Reg.INJ_CTL (s.reg (blkPage b) Reg.INJ_CTL &&& ~~~1)

/-- A write of INJ_CTL (R110, 15_control.md R488): while the emergency stop is latched, RUN is ignored. -/
def injCtl (b : Nat) (v : W32) (s : State) : State :=
  let old := s.reg (blkPage b) Reg.INJ_CTL
  let v := v &&& 0x3F07
  if s.chip.estop ∧ bit v 0 then
    pageErr (s.setReg (blkPage b) Reg.INJ_CTL ((v &&& ~~~1) ||| (old &&& 1))) (blkPage b) errValue
  else
    let s := s.setReg (blkPage b) Reg.INJ_CTL v
    if bit v 0 ∧ !bit old 0 then
      if bit v 1 then s.modBlock b (fun x => { x with inj := { x.inj with state := 1, seg := fld v 13 8, sample := 0, bound := none } })
      else startSegment b (fld v 13 8) s.tick s
    else if !bit v 0 ∧ bit old 0 then stopInjector b s
    else s

/-- A jump request (R109). -/
def injJump (b : Nat) (v : W32) (s : State) : State :=
  if !bit v 8 then s
  else if (s.block b).inj.state = 0 then raise s (blkPage b) Reg.INJ_EVENTS 4
  else s.modBlock b (fun x => { x with inj := { x.inj with pend := some (fld v 5 0, s.tick) } })

/-- A sample starts (R108, R109): the masked cells are injected; at a last sample a pending request is bound. -/
def injSample (b : Nat) (s : State) : State :=
  let i := (s.block b).inj
  let due := i.segStart + i.sample * i.interval
  if i.state ≠ 2 ∨ i.sample ≥ i.count ∨ s.tick < due then s
  else
    let s := forN 16 (fun k s => if i.mask.getLsbD k then s.modCell (16 * b + k) (fun x => { x with injected := some (1000 * due) }) else s) s
    let last := i.sample + 1 = i.count
    let bind : Option Nat := match i.pend with
      | some (t, w) => if last ∧ w < due then some t else none
      | none => none
    s.modBlock b (fun x => { x with inj := { x.inj with
      sample := i.sample + 1
      bound := if bind.isSome then bind else x.inj.bound
      pend := if bind.isSome then none else x.inj.pend } })

/-- A segment ends (R108–R110). -/
def segmentEnd (b : Nat) (s : State) : State :=
  let i := (s.block b).inj
  let stop := i.segStart + i.count * i.interval
  if i.state ≠ 2 ∨ i.sample < i.count ∨ s.tick < stop then s
  else match i.bound with
    | some t => raise (startSegment b t stop s) (blkPage b) Reg.INJ_EVENTS 2
    | none =>
      if i.stop then raise (stopInjector b s) (blkPage b) Reg.INJ_EVENTS 1
      else startSegment b i.next stop s

/-! ### The bias output (R112–R115) -/

/-- Ticks between steps at a slew rate (R112): a step of 6/4,095 V at 0.1 V/s a unit. -/
def biasPeriod (s : State) (b : Nat) : Nat := 61440000000 / (4095 * max 1 (fld (s.reg (blkPage b) Reg.BIAS_SLEW) 9 0))

/-- A bias target taken (R113, R114). -/
def biasTo (b target : Nat) (s : State) : State :=
  let s := s.setReg (blkPage b) Reg.BIAS_TARGET (w32 target)
  if (s.block b).biasNow = target then
    raise (s.modBlock b (fun x => { x with slewing := false })) (blkPage b) Reg.BIAS_EVENTS 1
  else s.modBlock b (fun x => { x with
    slewing := true, biasNext := if x.slewing then x.biasNext else s.tick + biasPeriod s b })

/-- A write of BIAS_TARGET (15_control.md R488). -/
def biasTarget (b : Nat) (v : W32) (s : State) : State :=
  if s.chip.estop then pageErr s (blkPage b) errValue else biasTo b (fld v 11 0) s

/-- The output moves one code toward its target (R112–R114). -/
def biasStep (b : Nat) (s : State) : State :=
  let x := s.block b
  let t := fld (s.reg (blkPage b) Reg.BIAS_TARGET) 11 0
  if !x.slewing ∨ s.tick < x.biasNext then s
  else
    let n := if x.biasNow < t then x.biasNow + 1 else x.biasNow - 1
    let s := s.modBlock b (fun y => { y with biasNow := n, biasNext := y.biasNext + biasPeriod s b })
    if n = t then raise (s.modBlock b (fun y => { y with slewing := false })) (blkPage b) Reg.BIAS_EVENTS 1 else s

/-- The load draws more than the current limit (R115). -/
def biasOverload (b : Nat) (s : State) : State :=
  let s := s.modBlock b (fun x => { x with overload := true })
  guardEvent (raise s (blkPage b) Reg.BIAS_EVENTS 2) (b / 12) 16

/-! ### The commands of this chapter that name no access path -/

def execDiscriminatorEdge (cell : Fin 1152) (edges : List EdgeIn) (s : State) : Host.Outcome State Fault Refusal :=
  done s (discriminatorEdges cell.val edges s)
def execPulseTimeout (cell : Fin 1152) (th : Fin 4) (s : State) : Host.Outcome State Fault Refusal :=
  done s (pulseTimeout cell.val th.val s)
def execBlankingEnd (cell : Fin 1152) (s : State) : Host.Outcome State Fault Refusal := done s (blankingEnd cell.val s)
def execInjSample (blk : Fin 72) (s : State) : Host.Outcome State Fault Refusal := done s (injSample blk.val s)
def execSegmentEnd (blk : Fin 72) (s : State) : Host.Outcome State Fault Refusal := done s (segmentEnd blk.val s)
def execBiasStep (blk : Fin 72) (s : State) : Host.Outcome State Fault Refusal := done s (biasStep blk.val s)
def execBiasOverload (blk : Fin 72) (s : State) : Host.Outcome State Fault Refusal := done s (biasOverload blk.val s)

end Sys2Proof.Machine
end

