-- ==== Sys2Proof/Machine/Interp.lean ====
section
/-! DEFINITION. Interpolators: conversion, code-density calibration, the table builder, table swaps, and the regression units
(04_interpolators.md R121–R149). -/

namespace Sys2Proof.Machine

/-! ### Tables and conversions (R121–R127) -/

/-- The nominal table (R126). -/
def nominalEntry (i : Nat) : Nat × Nat := (160 * i + 80, 160)

/-- Entry `i` of a table in force. -/
def entryOf (t : Option BinTable) (i : Nat) : Nat × Nat :=
  match t with
  | none => nominalEntry i
  | some l => lget (0, 0) l i

/-- The raw time of an edge (R127). -/
def rawTime (t : Option BinTable) (n : Nat) (tickFu : Int) : Int := tickFu - (((entryOf t n).1 + 32) / 64 : Nat)

/-- The table that serves a conversion: the old one where it was launched before the swap (R127). -/
def tableFor (k : ItpCal) (old : Bool) : Option BinTable := if old then k.prev else k.table

/-! Tables, histograms and builders of a site stand under its number: blocks are 0 to 71, the link interpolators of the hives 72 and 73
(10_time_transfer.md R331), the interpolator of lane `l` being number `l` there. Only blocks have registers for them. -/

/-- The site of a hive's link interpolators. -/
def linkSite : HiveId → Nat
  | .a => 72
  | .b => 73

/-- The table in force of a lane's link interpolator. -/
def linkTable (s : State) (h : HiveId) (l : Nat) : Option BinTable := (s.cal (64 * linkSite h + l)).table

/-- A counter of the block page of a site raised. -/
def siteCount (b off : Nat) (s : State) : State := if b < 72 then s.count (blkPage b) off else s

/-- Bits of CAL_EVENTS of a site raised. -/
def siteRaise (b bits : Nat) (s : State) : State := if b < 72 then raise s (blkPage b) Reg.CAL_EVENTS bits else s

/-- A count beyond 399 clamps (R124). -/
def clampIndex (b count : Nat) (s : State) : State × Nat :=
  if count ≤ 399 then (s, count) else (siteRaise b 2 (siteCount b Reg.TDC_CLAMP_CNT s), 399)

/-! ### Calibration (R128–R132) -/

/-- Whether the calibration pointer passes an interpolator over (R129). -/
def passedOver (s : State) (c i : Nat) : Bool :=
  let k := s.cal (4 * c + i)
  k.waiting || k.trimNew.isSome || (match (s.block (c / 16)).loadPend with | some t => t.itp = localItp c i | none => false)

/-- The first interpolator from `p` on that is not passed over; `p` itself where all are. -/
def nextCal (s : State) (c p : Nat) : Nat :=
  match (List.range 4).find? (fun j => !passedOver s c ((p + j) % 4)) with
  | some j => (p + j) % 4
  | none => p % 4

/-- The fields of CAL_CTL (R147). -/
abbrev histExp (v : W32) : Nat := fld v 12 8

/-- The histogram size of a site, as its exponent (R130): no register holds that of the link interpolators (log entry 83). -/
def siteExp (s : State) (b : Nat) : Nat := if b < 72 then histExp (s.reg (blkPage b) Reg.CAL_CTL) else 20 + Config.linkHistExp.val

/-- A random edge is offered (R128, R129): only to the interpolator the pointer names, only with all four free. -/
def randomEdge (c : Nat) (s : State) : State :=
  let ctl := s.reg (blkPage (c / 16)) Reg.CAL_CTL
  let p := nextCal s c (s.cell c).calPtr
  if bit ctl 0 ∧ cEn (s.cellCfg c) ∧ capturing s (c / 192) ∧ (s.cell c).itps.all (fun i => i = .free) ∧ !passedOver s c p then
    s.modCell c (fun x => { x with calPtr := p, itps := lset x.itps p .calib })
  else s

/-- Bin `n` of the filling histogram of interpolator `i` of a site gains 1; a full one passes to the builder (R130). -/
def binAdd (b i n : Nat) (s : State) : State :=
  let k := s.cal (64 * b + i)
  if k.waiting then s
  else
    let full := decide (k.fill + 1 ≥ 2 ^ siteExp s b)
    let s := s.modCal (64 * b + i) (fun k => { k with hist := tset 0 k.hist n (tget 0 k.hist n + 1), fill := k.fill + 1, waiting := full })
    if full then s.modBlock b (fun x => { x with buildQueue := x.buildQueue ++ [i] }) else s

/-- A completed calibration conversion of a cell with index `n` (R128–R130): that of a cell whose EN was cleared meanwhile adds nothing. -/
def histogramAdd (c i n : Nat) (s : State) : State :=
  if !cEn (s.cellCfg c) then s
  else
    let s := binAdd (c / 16) (localItp c i) n s
    s.modCell c (fun x => { x with calPtr := nextCal s c (i + 1) })

/-! ### Link interpolators (10_time_transfer.md R331) -/

/-- A random edge is offered to a lane's link interpolator: it takes it when it is free and its histogram does not wait. -/
def linkEdge (h : HiveId) (l : Nat) (s : State) : State :=
  let m := s.domain (hiveDom h)
  if !s.chip.started ∨ m.inReset ∨ !(m.state = .run || m.state = .idle) ∨ (s.cal (64 * linkSite h + l)).waiting then s
  else s.modHive h (fun x => { x with servo := { x.servo with linkCal := if x.servo.linkCal.contains l then x.servo.linkCal else x.servo.linkCal ++ [l] } })

/-- A calibration conversion of a link interpolator completes. -/
def linkConversion (h : HiveId) (l count : Nat) (s : State) : State :=
  if !(s.hive h).servo.linkCal.contains l then s
  else binAdd (linkSite h) l (min 399 count) (s.modHive h (fun x => { x with servo := { x.servo with linkCal := x.servo.linkCal.filter (· ≠ l) } }))

/-- A random edge yields to a timing block: its conversion is abandoned. -/
def linkYield (h : HiveId) (l : Nat) (s : State) : State :=
  s.modHive h (fun x => { x with servo := { x.servo with linkCal := x.servo.linkCal.filter (· ≠ l) } })

/-- A REF_ setting that judging uses: a write takes effect at the next gate end (02_timebase.md R68). -/
def refEff (s : State) (off : Nat) : W32 :=
  match s.chip.refWrites.find? (fun w => w.1 = off) with
  | some w => w.2.1
  | none => s.cfg 0x11 off

/-- Whether a reference candidate is enabled, by the settings in effect (02_timebase.md R63, R68). -/
def anyCand (s : State) : Bool :=
  [Reg.REF_CAND_0_CFG, Reg.REF_CAND_1_CFG, Reg.REF_CAND_2_CFG, Reg.REF_CAND_3_CFG].any (fun o => bit (refEff s o) 0)

/-- Whether a slot serves reference judging (R142): the rows of the host's gates do nothing there. -/
def rgReserved (s : State) (n : Nat) : Bool := decide (12 ≤ n) && anyCand s

/-- A stamp of a clock-monitor cell goes to the regression units of both hives (03_cells.md R105, R139). -/
def sendStamp (slotOk : Nat → Bool) (st : Option (BitVec 32) × BitVec 32) (s : State) : State :=
  let put (x : Hive) : Hive := { x with slots := x.slots.map (fun (n, k) =>
    (n, if slotOk n ∧ !rgReserved s n ∧ (k.gate.isSome ∨ !k.closed.isEmpty ∨ k.state = 1) then { k with stamps := k.stamps ++ [st] } else k)) }
  { s with hiveA := put s.hiveA, hiveB := put s.hiveB }

/-- The registers of a regression slot, held once per device (R139). -/
abbrev rgReg (s : State) (n off : Nat) : W32 := s.cfg 0x12 off n

/-- A conversion completes (R122, R127): the pulse, the stamp with its corrected time (03_cells.md R105) or the histogram gets its
result, the interpolator frees. -/
def conversionComplete (c i count : Nat) (s : State) : State :=
  match lget .free (s.cell c).itps i with
  | .free => s
  | what =>
    let (s, n) := clampIndex (c / 16) count s
    let s := s.modCell c (fun x => { x with itps := lset x.itps i .free })
    let k := s.cal (4 * c + i)
    match what with
    | .free => s
    | .calib => histogramAdd c i n s
    | .stampCm tickFu index old =>
      sendStamp (fun m => fld (rgReg s m Reg.CAL_RG_CFG) 1 0 = 1 && fld (rgReg s m Reg.CAL_RG_CFG) 14 4 = c)
        (some index, shortOf (corrected s c (rawTime (tableFor k old) n tickFu))) s
    | .edge th rising tickFu old =>
      let st := Stamp.known (rawTime (tableFor k old) n tickFu) false
      let upd (p : Pulse) : Pulse :=
        if p.th ≠ th then p
        else if rising then (if p.lead = .waiting i then { p with lead := st } else p)
        else if p.trail = some (.waiting i) then { p with trail := some st } else p
      complete c (s.modCell c (fun x => { x with pulses := x.pulses.map upd }))

/-- The table of a histogram of `n` entries in all (R131). -/
def buildTable (hist : Tab Nat) (n : Nat) : BinTable :=
  ((List.range 400).foldl (fun (acc : Nat × BinTable) i =>
    let lo := 64000 * acc.1 / n
    let a := acc.1 + tget 0 hist i
    let hi := 64000 * a / n
    (a, (( lo + hi) / 2, hi - lo) :: acc.2)) (0, [])).2.reverse

/-- The first bin whose width moved by more than 20 % (R131). -/
def driftBin (new : BinTable) (old : Option BinTable) : Option Nat :=
  (List.range 400).find? (fun i =>
    let a := (lget (0, 0) new i).2
    let b := (entryOf old i).2
    decide (5 * ((a - b) + (b - a)) > b))

/-- The builder starts the oldest completed histogram once its result buffer is empty (R131, R132). -/
def buildStart (b : Nat) (s : State) : State :=
  let x := s.block b
  match x.buildQueue with
  | i :: rest => if x.built.isNone ∧ x.building.isNone then s.setBlock b { x with buildQueue := rest, building := some i } else s
  | [] => s

/-- The builder completes its table and the drift check (R131). -/
def buildDone (b : Nat) (s : State) : State :=
  match (s.block b).building with
  | none => s
  | some i =>
    let k := s.cal (64 * b + i)
    let t := buildTable k.hist k.fill
    s.modBlock b (fun x => { x with building := none, built := some ⟨i, t, driftBin t k.table, s.tick⟩ })

/-- A histogram restarts empty. -/
def histRestart (i : Nat) (s : State) : State := s.modCal i (fun k => { k with hist := [], fill := 0, waiting := false })

/-- A histogram restarts empty for a new trim (R124): one that waits for the builder or is being built goes with it, since it no
longer holds the entries of R131 (DEDUCED, log entry 88). -/
def trimRestart (b i : Nat) (s : State) : State :=
  (histRestart (64 * b + i) s).modBlock b (fun x => { x with
    buildQueue := x.buildQueue.filter (· ≠ i), building := if x.building = some i then none else x.building })

/-- A table comes into force in an interpolator at boundary `bd` (R124, R127, R133): a pending trim acts, and conversions
launched before keep the old table. -/
def swapTable (b i : Nat) (t : BinTable) (bd : Int) (s : State) : State :=
  let c := 16 * b + i / 4
  let mark (x : Itp) : Itp := match x with
    | .edge th r f o => .edge th r f (o || decide (f < bd))
    | .stampCm f e o => .stampCm f e (o || decide (f < bd))
    | y => y
  let trimmed := (s.cal (64 * b + i)).trimNew.isSome
  let s := s.modCal (64 * b + i) (fun k => { k with prev := k.table, table := some t, trim := k.trimNew.getD k.trim, trimNew := none })
  let s := if b < 72 then s.modCell c (fun x => { x with itps := lmod x.itps (i % 4) mark }) else s
  siteCount b Reg.CAL_SWAP_CNT (if trimmed then trimRestart b i s else s)

/-- The built table of a site at a swap boundary (R133); link interpolators have no HOLD_ON_ALARM (log entry 83). -/
def swapBuilt (b : Nat) (n : NewTable) (bd : Int) (s : State) : State :=
  let s := s.modBlock b (fun x => { x with built := none })
  let s := match n.alarm with
    | none => swapTable b n.itp n.table bd s
    | some bin =>
      let s := siteCount b Reg.CAL_DRIFT_CNT s
      let s := if b < 72 then s.setReg (blkPage b) Reg.CAL_LAST_ALARM (w32 (n.itp + 2 ^ 16 * bin)) else s
      let s := siteRaise b 1 s
      if b < 72 ∧ bit (s.reg (blkPage b) Reg.CAL_CTL) 13 then siteRaise b 8 s
      else swapTable b n.itp n.table bd s
  histRestart (64 * b + n.itp) s

/-- The swaps of a site at a frame boundary at `bd` (R132–R134): tables complete, or named by GO, for at least 1 µs. -/
def blockSwaps (bd : Int) (b : Nat) (s : State) : State :=
  let x := s.block b
  let due (n : Option NewTable) : Option NewTable := n.filter (fun t => decide (t.tick + 1024 ≤ s.tick))
  let load := due x.loadPend
  let s := match due x.built with
    | none => s
    | some n =>
      if (load.map (·.itp)) = some n.itp then
        siteRaise b 8 (histRestart (64 * b + n.itp) (s.modBlock b (fun y => { y with built := none })))
      else swapBuilt b n bd s
  match load with
  | none => s
  | some n =>
    let s := s.modBlock b (fun y => { y with loadPend := none })
    siteRaise b 4 (swapTable b n.itp n.table bd s)

/-! ### Registers of the block page (R146, R147) -/

/-- A write of CAL_CTL (R130, R135): an exponent outside 20 to 26 is ignored, a new one clears the filling histograms. -/
def calCtl (b : Nat) (v : W32) (s : State) : State :=
  let old := s.reg (blkPage b) Reg.CAL_CTL
  let e := histExp v
  let ok := decide (20 ≤ e ∧ e ≤ 26)
  let e' := if ok then e else histExp old
  let s := s.setReg (blkPage b) Reg.CAL_CTL (((v &&& 0x200F)) ||| w32 (e' * 2 ^ 8))
  if e' ≠ histExp old then forN 64 (fun i s => s.modCal (64 * b + i) (fun k => if k.waiting then k else { k with hist := [], fill := 0 })) s
  else s

/-- A write of TDC_LOAD (R134). -/
def tdcLoad (b : Nat) (v : W32) (s : State) : State :=
  if !bit v 8 ∨ (s.block b).loadPend.isSome then s
  else
    let buf := (s.block b).loadBuf
    let t : BinTable := (List.range 400).map (fun i => let w := tget 0 buf i; (fld w 15 0, fld w 31 16))
    s.modBlock b (fun x => { x with loadPend := some ⟨4 * fld v 3 0 + fld v 5 4, t, none, s.tick⟩ })

/-- A write of TDC_ENTRY: it acts only with LOAD set and no load pending (R134, R146). -/
def tdcEntry (sel : W32) (b : Nat) (v : W32) (s : State) : State :=
  if bit sel 20 ∧ fld sel 16 8 < 400 ∧ (s.block b).loadPend.isNone then
    s.modBlock b (fun x => { x with loadBuf := tset 0 x.loadBuf (fld sel 16 8) v })
  else s

/-- The interpolator TDC_SEL names, numbered within the device. -/
def selItp (sel : W32) (b : Nat) : Nat := 64 * b + 4 * fld sel 3 0 + fld sel 5 4

/-- A write of TDC_TRIM (R124). -/
def tdcTrim (sel : W32) (b : Nat) (v : W32) (s : State) : State :=
  s.modCal (selItp sel b) (fun k => { k with trimNew := some (v.extractLsb' 0 6) })

/-- TDC_ENTRY as read. -/
def tdcEntryRead (s : State) (sel : W32) (b : Nat) : W32 :=
  let i := fld sel 16 8
  if i ≥ 400 then 0
  else if bit sel 20 then tget 0 (s.block b).loadBuf i
  else let e := entryOf (s.cal (selItp sel b)).table i; w32 (e.1 % 2 ^ 16 + 2 ^ 16 * e.2)

/-- CAL_STATUS. -/
def calStatus (s : State) (b : Nat) : W32 :=
  let x := s.block b
  w32 (bitAt x.building.isSome 0 + bitAt ((List.range 64).any (fun i => (s.cal (64 * b + i)).table.isNone)) 1
    + bitAt x.built.isSome 2 + bitAt x.loadPend.isSome 3)

/-! ### The regression unit (R139–R145) -/

/-- Mode, INPUT, EDGE and REPEAT of a slot's gate (R149). -/
abbrev rgMode (s : State) (n : Nat) : Nat := fld (rgReg s n Reg.CAL_RG_GATE) 1 0
abbrev rgEdge (s : State) (n : Nat) : Bool := bit (rgReg s n Reg.CAL_RG_GATE) 4
abbrev rgRepeat (s : State) (n : Nat) : Bool := bit (rgReg s n Reg.CAL_RG_GATE) 5
abbrev rgLen (s : State) (n : Nat) : Nat := (rgReg s n Reg.CAL_RG_LEN).toNat
/-- The frame a FRAME gate starts at. -/
def rgFrame (s : State) (n : Nat) : BitVec 40 := BitVec.ofNat 40 (s.reg64 (cfgPage 0x12) Reg.CAL_RG_FRAME_LO n)
/-- P, the nominal stamp interval in 1/256 fu. -/
def rgNom (s : State) (n : Nat) : Int := (s.reg64 (cfgPage 0x12) Reg.CAL_RG_NOM_LO n % 2 ^ 56 : Nat)

def State.rg (s : State) (h : HiveId) (n : Nat) : RgSlot := tget {} (s.hive h).slots n
def State.modRg (s : State) (h : HiveId) (n : Nat) (f : RgSlot → RgSlot) : State :=
  s.modHive h (fun x => { x with slots := tset {} x.slots n (f (tget {} x.slots n)) })

/-- The registration page of a hive. -/
abbrev rgPage (h : HiveId) : Nat := hivePage h 0x12

/-- The frame that stands for a named one: those a step left unbuilt stand for the first one built after it (11_systems.md R372). -/
def builtFrame (s : State) (f : BitVec 40) : BitVec 40 :=
  match s.chip.deferredTo with
  | some m => if frameDiff f s.chip.deferredFrom ≥ 0 ∧ frameDiff f m < 0 then m else f
  | none => f

/-- The instant at which an open gate closes, where it is known (R141). -/
def gateCloses (s : State) (n : Nat) (k : RgSlot) (g : RgGate) : Option Int :=
  match rgMode s n with
  | 0 => if rgLen s n = 0 then none else some (g.opened + 1000 * (rgLen s n : Int))
  | 1 => some (s.frameStart (builtFrame s (g.frame + BitVec.ofNat 40 (max 1 (rgLen s n)))))
  | _ => (k.edges.find? (fun e => e.2 != rgEdge s n)).map (·.1)

/-- ARM of a slot (R141, R142). -/
def rgArm (n : Nat) (h : HiveId) (s : State) : State :=
  let k := s.rg h n
  if rgReserved s n ∨ k.state = 1 ∨ k.state = 2 then s
  else match rgMode s n with
    | 0 => s.modRg h n (fun k => { k with state := 2, expired := false, gate := some { opened := s.fuOf h }, stamps := [], edges := [] })
    | 1 =>
      if frameDiff (rgFrame s n) s.frameNow ≤ 0 then s.modRg h n (fun k => { k with expired := true })
      else s.modRg h n (fun k => { k with state := 1, expired := false, stamps := [], edges := [] })
    | 2 => s.modRg h n (fun k => { k with state := 1, expired := false, stamps := [], edges := [] })
    | _ => s

/-- STOP of a slot: an open gate closes at once; with no gate open an ARMED slot returns to IDLE (R141). -/
def rgStop (n : Nat) (h : HiveId) (s : State) : State :=
  if rgReserved s n then s else s.modRg h n (fun k =>
    match k.gate with
    | some g => { k with gate := none, closed := k.closed ++ [{ g with closed := s.fuOf h }] }
    | none => if k.state = 1 then { k with state := 0 } else k)

/-- A write of CAL_RG_CTL, applied to both units (R139). -/
def rgCtl (n : Nat) (v : W32) (s : State) : State :=
  let k := s.rg (higherClaim s) n
  let late := decide (rgMode s n = 1) && !rgReserved s n && !decide (k.state = 1 ∨ k.state = 2) && decide (frameDiff (rgFrame s n) s.frameNow ≤ 0)
  let s := if bit v 0 then rgArm n .b (rgArm n .a s) else s
  let s := if bit v 0 && late then schedExpired s else s
  if bit v 1 then rgStop n .b (rgStop n .a s) else s

/-- The gate of an ARMED slot opens (R141). -/
def rgOpen (n : Nat) (h : HiveId) (s : State) : State :=
  let k := s.rg h n
  if rgReserved s n ∨ k.state ≠ 1 then s
  else match rgMode s n with
    | 1 =>
      let f := builtFrame s (rgFrame s n)
      if frameDiff f s.frameNow > 0 then s
      else s.modRg h n (fun k => { k with state := 2, gate := some { opened := s.frameStart f, frame := rgFrame s n } })
    | 2 =>
      match k.edges.dropWhile (fun e => !e.2) with
      | (t, _) :: rest => s.modRg h n (fun k => { k with state := 2, gate := some { opened := t }, edges := rest })
      | [] => s.modRg h n (fun k => { k with edges := [] })
    | _ => s

/-- The open gate of a slot closes once its closing instant has come (R141); with REPEAT the next opens there. A REPEAT gate with EDGE
set waits for its next edge in state ARMED, where STOP finds no gate open (DESIGN CHOICE, log entry 89: R141 and R145 name no
state between two gates). -/
def rgClose (n : Nat) (h : HiveId) (s : State) : State :=
  let k := s.rg h n
  if rgReserved s n then s else
  match k.gate with
  | none => s
  | some g =>
    match gateCloses s n k g with
    | none => s
    | some t =>
      if s.fuOf h < t then s
      else
        let closed := k.closed ++ [{ g with closed := t }]
        let rest := (k.edges.dropWhile (fun e => e.2 == rgEdge s n)).tail
        let next : Option RgGate :=
          if !rgRepeat s n then none
          else match rgMode s n with
            | 0 => some { opened := t }
            | 1 => some { opened := t, frame := g.frame + BitVec.ofNat 40 (max 1 (rgLen s n)) }
            | _ => if rgEdge s n then none else some { opened := t }
        let waits := rgRepeat s n && rgMode s n = 2 && rgEdge s n
        s.modRg h n (fun k => { k with
          closed := closed, gate := next, state := if waits then 1 else 2
          edges := if rgMode s n = 2 then rest else k.edges })

/-- An edge on a GATE_n input, stamped (R141). -/
def gateEdge (m : Nat) (rising : Bool) (delta : Nat) (s : State) : State :=
  let put (h : HiveId) (s : State) : State :=
    let t := s.fuOf h + 999 - delta
    s.modHive h (fun x => { x with slots := x.slots.map (fun (n, k) =>
      (n, if !rgReserved s n ∧ rgMode s n = 2 ∧ fld (rgReg s n Reg.CAL_RG_GATE) 3 2 = m ∧ (k.state = 1 ∨ k.state = 2)
          then { k with edges := k.edges ++ [(t, rising)] } else k)) })
  put .b (put .a s)

/-- One stamp accumulated in a gate (R143). -/
def rgAdd (p : Int) (index : Option (BitVec 32)) (t : Int) (g : RgGate) : RgGate :=
  let g := if index.isNone then { g with pps := g.pps + 1 } else g
  let e : Int := match index with | some i => (i.toNat : Int) | none => g.pps - 1
  let (e0, t0) := g.origin.getD (e, t)
  let g := { g with origin := some (e0, t0) }
  let n : Int := (e - e0) % 2 ^ 32
  let r := (t - t0) * 256 - n * p
  if r.natAbs > 2 ^ 46 then { g with range := true }
  else if g.sums.k ≥ (2 : Int) ^ 30 then { g with full := true }
  else { g with sums := { k := g.sums.k + 1, n := g.sums.n + n, r := g.sums.r + r, nr := g.sums.nr + n * r, nn := g.sums.nn + n * n, rr := g.sums.rr + r * r } }

/-- The oldest stamp of a slot is extended to a full count and accumulated in the gate it belongs to (R140, R141, R143). -/
def rgStamp (n : Nat) (h : HiveId) (s : State) : State :=
  let k := s.rg h n
  if rgReserved s n then s else
  match k.stamps with
  | [] => s
  | (index, sh) :: rest =>
    let now := s.fuOf h
    let t := now - shortDiff (shortOf now) sh
    let p := rgNom s n
    let add (k : RgSlot) : RgSlot :=
      match k.closed.findIdx? (fun g => decide (g.opened ≤ t ∧ t < g.closed)) with
      | some i => { k with closed := lmod k.closed i (rgAdd p index t) }
      | none =>
        match k.gate with
        | none => k
        | some g =>
          let before : Bool := match gateCloses s n k g with | some c => decide (t < c) | none => true
          if g.opened ≤ t ∧ before then { k with gate := some (rgAdd p index t g) } else k
    s.modRg h n (fun k => add { k with stamps := rest })

/-- The nearest integer of a rational, halves away from zero. -/
def roundAway (q : ℚ) : Int := if q ≥ 0 then (q + 1 / 2).floor else - (-q + 1 / 2).floor

/-- The nearest integer of the square root of a rational that is not negative, halves up. -/
def roundSqrt (q : ℚ) : Nat := (Nat.sqrt (4 * q).floor.toNat + 1) / 2

/-- A full count as a time word (02_timebase.md R41). -/
def timeWordOf (fu : Int) (q : Qual) : BitVec 96 := timeWord (({} : TimeCore).atFu fu) q

/-- The results of a closed gate (R144); `v` and `w` are free values for results the formulas do not define. -/
def rgResult (p : Int) (g : RgGate) (q : Qual) (seq : BitVec 16) (v w : W64) : RgResult :=
  let c := g.sums
  let d := c.k * c.nn - c.n * c.n
  let centre := timeWordOf ((g.opened + g.closed + 1) / 2) q
  let base : RgResult := { k := c.k.toNat, centre := centre, sums := c, few := false, full := g.full, range := g.range, seq := seq }
  if c.k < 3 ∨ d = 0 then { base with few := true }
  else
    let beta : ℚ := (c.k * c.nr - c.n * c.r : Int) / (d : ℚ)
    let alpha : ℚ := (c.r - beta * c.n) / c.k
    let per : ℚ := p + beta
    let t0 : Int := (g.origin.getD (0, 0)).2
    let lim (x : Int) : Int := clampI (-2 ^ 63) (2 ^ 63 - 1) x
    let freq := if per = 0 then v.toInt else lim (roundAway (-1000000000000000 * beta / per))
    let phase :=
      if per = 0 ∨ p = 0 then w.toInt
      else
        let tc : ℚ := ((g.opened + g.closed : Int) : ℚ) / 2
        let m : Int := roundAway (((tc - t0) * 256 - alpha) / per)
        let tfit : ℚ := t0 * 256 + m * p + alpha + beta * m
        lim (roundAway (tfit - p * roundAway (tfit / p)))
    let sse : ℚ := c.rr - alpha * c.r - beta * c.nr
    { base with freq := freq, phase := phase, rms := min (2 ^ 32 - 1) (roundSqrt (sse / c.k)) }

/-- The oldest closed gate of a slot gives its results (R144, R145). -/
def rgFinish (n : Nat) (v w : W64) (h : HiveId) (s : State) : State :=
  let k := s.rg h n
  if rgReserved s n then s else
  match k.closed with
  | [] => s
  | g :: rest =>
    let res := rgResult (rgNom s n) g (s.hive h).tb.qual (k.res.seq + 1) v w
    let s := s.modRg h n (fun k => { k with
      closed := rest, res := res, state := if k.gate.isNone ∧ rest.isEmpty ∧ k.state = 2 then 3 else k.state })
    raise s (rgPage h) Reg.CAL_RG_EVENTS (2 ^ n)

/-- The results of a slot on both hives: undefined quotients are the same free values in both (R139). -/
def rgResultBoth (n : Nat) (s : State) : State :=
  let (v, s) := s.free
  let (w, s) := s.free
  rgFinish n v w .b (rgFinish n v w .a s)

/-- Whether a write to a slot's configuration is ignored (R142). -/
def rgLocked (s : State) (n : Nat) : Bool :=
  let k := s.rg (higherClaim s) n
  rgReserved s n || k.state = 1 || k.state = 2

/-- CAL_RG_STATUS of a slot, from a result set (R149). -/
def rgStatus (s : State) (h : HiveId) (n : Nat) : W32 :=
  let k := s.rg h n
  let r := k.res
  w32 (k.state + bitAt r.few 3 + bitAt r.full 4 + bitAt r.range 5 + bitAt k.expired 6 + bitAt (rgReserved s n) 7 + 2 ^ 16 * r.seq.toNat)

/-! ### The commands of this chapter that name no access path -/

/-- The number of a builder's site. -/
def builderSite : Builder → Nat
  | .block b => b.val
  | .hive h => linkSite h

def execRandomEdgeOffer (site : EdgeSite) (s : State) : Host.Outcome State Fault Refusal :=
  done s (match site with | .cell c => randomEdge c.val s | .link h l => linkEdge h l.val s)
/-- A link interpolator is the only one of its lane: `itp` is not used for it. -/
def execConversionComplete (site : EdgeSite) (itp : Fin 4) (count : Nat) (s : State) : Host.Outcome State Fault Refusal :=
  done s (match site with | .cell c => conversionComplete c.val itp.val count s | .link h l => linkConversion h l.val count s)
def execTableBuildStart (site : Builder) (s : State) : Host.Outcome State Fault Refusal := done s (buildStart (builderSite site) s)
def execTableBuildDone (site : Builder) (s : State) : Host.Outcome State Fault Refusal := done s (buildDone (builderSite site) s)
def execGateOpen (slot : Fin 16) (s : State) : Host.Outcome State Fault Refusal :=
  done s (rgOpen slot.val .b (rgOpen slot.val .a s))
def execGateClose (slot : Fin 16) (s : State) : Host.Outcome State Fault Refusal :=
  done s (rgClose slot.val .b (rgClose slot.val .a s))
def execGateNEdge (n : Fin 4) (rising : Bool) (delta : Fin 1000) (s : State) : Host.Outcome State Fault Refusal :=
  done s (gateEdge n.val rising delta.val s)
def execRegressionStamp (slot : Fin 16) (s : State) : Host.Outcome State Fault Refusal :=
  done s (rgStamp slot.val .b (rgStamp slot.val .a s))
def execRegressionResult (slot : Fin 16) (s : State) : Host.Outcome State Fault Refusal := done s (rgResultBoth slot.val s)

end Sys2Proof.Machine
end

