-- ==== Sys2Proof/Machine/Blocks.lean ====
section
/-! DEFINITION. Blocks, region mergers and the die bridge up to the hive's receiver (05_blocks_regions.md R151–R185, R567). -/

namespace Sys2Proof.Machine

/-! ### Output time (R151–R156) -/

/-- The trigger mode of a block: 0 STREAMING, 1 TRIGGERED, 2 MIXED (06_trigger.md R221). -/
abbrev blkMode (s : State) (b : Nat) : Nat := fld (s.reg (blkPage b) Reg.TRG_BLK_CFG) 1 0

/-- The cells of a block streamed in MIXED mode. -/
abbrev blkStream (s : State) (b : Nat) : BitVec 16 := (s.reg (blkPage b) Reg.TRG_BLK_STREAM).extractLsb' 0 16

/-- The horizon a comb's blocks hold, in fu. -/
abbrev combH (s : State) (c : Nat) : Int := 8000 * ((s.comb c).h)

/-- Mode and streamed cells that serve a time (R156). -/
def modeAt (s : State) (b : Nat) (t : Int) : Nat × BitVec 16 :=
  match (s.block b).modes.find? (fun m => decide (t < m.1)) with
  | some (_, m, k) => (m, k)
  | none => (blkMode s b, blkStream s b)

/-- Whether the output time of a mode has reached `t`. -/
def modePassed (s : State) (c mode : Nat) (t : Int) : Bool := if mode = 0 then decide (t ≤ s.now) else decide (t ≤ combH s c)

/-- Whether a block's output time has reached `t`, the end of the times before it: every earlier mode's has reached its boundary, and
that of the mode that serves the last time before `t` has reached `t` (R151, R156, R178). -/
def outPassed (s : State) (b : Nat) (t : Int) : Bool :=
  ((s.block b).modes.all (fun m => decide (t ≤ m.1) || modePassed s (b / 12) m.2.1 m.1)) && modePassed s (b / 12) (modeAt s b (t - 1)).1 t

/-- Whether a record may leave: in STREAMING mode any record, else one below the horizon. -/
def mayLeave (s : State) (b : Nat) (t : Int) : Bool :=
  if (modeAt s b t).1 = 0 then (s.block b).modes.all (fun m => decide (t < m.1) || modePassed s (b / 12) m.2.1 m.1)
  else outPassed s b (t + 1)

/-- Whether the store works as a ring: in TRIGGERED and MIXED modes, and while an earlier such mode's records wait
(R154–R156). -/
def isRing (s : State) (b : Nat) : Bool :=
  decide (blkMode s b ≠ 0) || (s.block b).modes.any (fun m => decide (m.2.1 ≠ 0) && !modePassed s (b / 12) m.2.1 m.1)

/-- Whether a record is selected as it enters: streamed, or within a window received (R151, 06_trigger.md R200). -/
def selectedOn (s : State) (c : Nat) (t : Int) : Bool :=
  let (m, k) := modeAt s (c / 16) t
  m = 0 || (m = 2 && k.getLsbD (c % 16)) || (s.comb (c / 192)).windows.any (fun w => decide (w.1 ≤ t ∧ t ≤ w.2))

/-! ### Slots -/

/-- The start and end of a frame, of a record's time. -/
def frameSpan (s : State) (t : Int) : Int × Int :=
  let (len, _) := schemeAt s t
  let a := t - (frameRel s t : Int)
  (a, a + len)

/-- A new slot for a block. -/
def openSlot (s : State) (b : Nat) (f : BitVec 40) (a e : Int) : State :=
  s.modBlock b (fun x => if x.slots.any (fun k => k.frame = f) then x
    else { x with slots := x.slots ++ [{ frame := f, start := a, stop := e, gen := s.chip.stepGen, isolated := x.isolated }] })

/-- The slot of a record's frame: the next frame's slot opens for a record whose corrected time runs ahead. -/
def findSlot (s : State) (b : Nat) (f : BitVec 40) : Option Slot := (s.block b).slots.find? (fun k => k.frame = f)

/-- Marks every open slot of a block, and its close groups still held by the merger, BLOCK_LOST (R164). -/
def markLost (b : Nat) (s : State) : State :=
  let s := s.modBlock b (fun x => { x with slots := x.slots.map (fun k => { k with lost := true }) })
  s.modComb (b / 12) (fun x => { x with slots := x.slots.map (fun k => { k with
    groups := k.groups.map (fun (i, ws) => (i, if i = b % 12 then lmod ws 0 (· ||| 2) else ws)) }) })

/-- Highest fill seen (R182). -/
def noteFill (b : Nat) (s : State) : State := s.maxReg (blkPage b) Reg.BLK_FILL_MAX (s.block b).store.length

/-- A record overwritten in the ring (R154). -/
def overwriteOldest (b : Nat) (s : State) : State :=
  match (s.block b).store with
  | [] => s
  | r :: rest =>
    let s := s.modBlock b (fun x => { x with store := rest })
    let s := s.count (blkPage b) Reg.BLK_OVERRUN_CNT
    let s := s.modSlot b r.frame (fun k =>
      let t := (r.fu - k.start).toNat
      { k with overrun := some (match k.overrun with | none => (t, t) | some (a, z) => (min a t, max z t)) })
    raise s (blkPage b) Reg.BLK_EVENTS 1

/-- A record of a frame the block no longer holds open (R567). -/
def lateAtBlock (b : Nat) (s : State) : State :=
  raise (s.count (blkPage b) Reg.BLK_CUT_CNT) (blkPage b) Reg.BLK_EVENTS 8

/-- A word of a frame that fails its parity (R166): POISON goes into the close word, also where the merger holds it already. -/
def poisonWord (b : Nat) (ofFrame : BitVec 40 → Bool) (s : State) : State :=
  let s := s.count (blkPage b) Reg.BLK_POISON_CNT
  let s := s.modBlock b (fun x => { x with slots := x.slots.map (fun k => if ofFrame k.frame then { k with poison := true } else k) })
  let s := s.modComb (b / 12) (fun x => { x with slots := x.slots.map (fun k => if ofFrame k.frame then { k with
    groups := k.groups.map (fun (i, ws) => (i, if i = b % 12 then lmod ws 0 (· ||| 8) else ws)) } else k) })
  guardEvent (raise s (blkPage b) Reg.BLK_EVENTS 4) (b / 12) (blockSrc b)

/-- The end-of-frame markers of a cell up to the point read are applied (R157). -/
def applyMarkers (c : Nat) (s : State) : State :=
  let x := s.cell c
  let ready := x.markers.filter (fun m => m.2 ≤ x.rdPos)
  let s := s.modCell c (fun x => { x with markers := x.markers.filter (fun m => !(m.2 ≤ x.rdPos)) })
  ready.foldl (fun s m => s.modSlot (c / 16) m.1 (fun k => { k with markers := k.markers ||| (1#16 <<< (c % 16)) })) s

/-- The pulse record (03_cells.md R94). -/
def recordWord (c th time tot : Nat) (flags : BitVec 7) : W64 :=
  BitVec.ofNat 64 (2 ^ 53 * c + 2 ^ 51 * th + time % 2 ^ 30 * 2 ^ 21 + tot % 2 ^ 14 * 2 ^ 7 + flags.toNat)

abbrev recCell (w : W64) : Nat := fieldN w.toNat 63 53
abbrev recTh (w : W64) : Nat := fieldN w.toNat 52 51
abbrev recTime (w : W64) : Nat := fieldN w.toNat 50 21

/-- A corrected record enters the store of its block (R153–R155). -/
def storeRecord (b : Nat) (r : StoreRec) (s : State) : State :=
  if !r.selected ∧ mayLeave s b r.fu then s
  else
    let s := if (s.block b).store.length ≥ 4096 then overwriteOldest b s else s
    noteFill b (s.modBlock b (fun x => { x with store := x.store ++ [r] }))

/-- The parity of a word. -/
def parityOf (x : W64) : Bool := ((List.range 64).filter (fun i => x.getLsbD i)).length % 2 = 1

/-- A record read from a FIFO in which bits of its word have flipped (R166): its time is that of the word as it now stands, and a word
written under parity gains the poison tag. -/
def StoreRec.read (r : StoreRec) (upset : W64) : StoreRec :=
  let word := r.word ^^^ upset
  { r with word := word, fu := r.fu - (recTime r.word : Int) + (recTime word : Int), poison := r.poison || (r.parity && parityOf upset) }

/-- A record read from the store or a merger input of its block, with the poison it gains there counted (R166). -/
def readRec (b : Nat) (r : StoreRec) (upset : W64) (s : State) : State × StoreRec :=
  let q := r.read upset
  (if q.poison && !r.poison then poisonWord b (· = r.frame) s else s, { q with parity := s.cb128 })

/-- The block reads the oldest record of a cell FIFO, corrects it and writes it to its store (R153–R157, 03_cells.md R101).
`upset` are bits of the word that have flipped in the FIFO or in the handshake FIFO it crosses. -/
def blockWrite (c : Nat) (upset : W64) (s : State) : State :=
  let b := c / 16
  match (s.cell c).fifo with
  | [] => s
  | r :: rest =>
    if !isRing s b ∧ (s.block b).store.length ≥ 4096 then s
    else
      let s := s.modCell c (fun x => { x with fifo := rest, rdPos := x.rdPos + 1 })
      let ok := (skewAt s c r.fu).2
      let t := corrected s c r.fu
      let word := recordWord c r.th (frameRel s t) r.tot (if ok then r.flags ||| 32 else r.flags) ^^^ upset
      let (start, stop) := frameSpan s t
      let f := frameOf s t
      let t' := start + (recTime word : Int)
      let bad := r.parity && parityOf upset
      let s :=
        if inGap s r.gen t then discarded s 1
        else if (s.block b).isolated then s
        else
          let next := match (s.block b).slots.getLast? with | some k => decide (f = k.frame + 1) | none => false
          let s := if next && s.framing then openSlot s b f start stop else s
          if (findSlot s b f).isNone then (if s.framing then lateAtBlock b s else discarded s 1)
          else
            let s := if bad then poisonWord b (· = f) s else s
            storeRecord b ⟨word, t', f, selectedOn s c t', bad, s.cb128⟩ s
      applyMarkers c s

/-- The position in a cell's FIFO after its last record of a frame (R157). -/
def markerPos (s : State) (c : Nat) (f : BitVec 40) : Nat :=
  let x := s.cell c
  x.rdPos + (x.fifo.reverse.dropWhile (fun r => decide (frameDiff (frameOf s (corrected s c r.fu)) f > 0))).length

/-- Whether no edge still to come can open a pulse of a slot's frame: the corrected present time has reached the frame's end, or a step
lies between (03_cells.md R102). -/
def slotOver (s : State) (c : Nat) (k : Slot) : Bool := decide (k.stop ≤ corrected s c s.now) || decide (k.gen ≠ s.chip.stepGen)

/-- A cell's end-of-frame marker (R157, R178, 03_cells.md R102): for the oldest draining slot without it, once every pulse of the
frame has made its record. -/
def eofMarker (c : Nat) (s : State) : State :=
  let b := c / 16
  match (s.block b).slots.find? (fun k => !k.markers.getLsbD (c % 16) && !(s.cell c).markers.any (fun m => m.1 = k.frame)) with
  | none => s
  | some k =>
    if (k.drainTick.isNone && !outPassed s b k.stop) ∨ framePending s c k.frame ∨ !slotOver s c k then s
    else applyMarkers c (s.modCell c (fun x => { x with markers := x.markers ++ [(k.frame, markerPos s c k.frame)] }))

/-! ### Drain and close of a block (R158–R160, R178–R179) -/

/-- Slots whose output time has passed their end begin to drain (R178). -/
def startDrains (s : State) : State :=
  let hv := higherClaim s
  let s := s.modHive hv (fun x => { x with fr := { x.fr with frames := x.fr.frames.map (fun o =>
    if o.drainTick.isNone ∧ (List.range 72).all (fun b => outPassed s b o.stop) then { o with drainTick := some s.tick } else o) } })
  let s := forN 72 (fun b s => if (s.block b).slots.isEmpty then s else s.modBlock b (fun x => { x with
    slots := x.slots.map (fun k => if k.drainTick.isNone ∧ outPassed s b k.stop then { k with drainTick := some s.tick } else k) })) s
  forN 6 (fun c s => if (s.comb c).slots.isEmpty then s else s.modComb c (fun x => { x with
    slots := x.slots.map (fun k =>
      if k.drainTick.isNone ∧ (List.range 12).all (fun i => outPassed s (12 * c + i) k.stop ||
          (match findSlot s (12 * c + i) k.frame with | some q => q.drainTick.isSome | none => true))
      then { k with drainTick := some s.tick } else k) })) s

/-- The close group of a block's slot (R159, R160). -/
def closeGroup (s : State) (b : Nat) (k : Slot) : List W64 :=
  let flags := bitAt k.overrun.isSome 0 + bitAt k.lost 1 + bitAt k.cut.isSome 2 + bitAt k.poison 3 + bitAt k.isolated 4
  let len := BitVec.ofNat 64 (2 ^ 57 * b + 2 ^ 53 * (fieldN k.frame.toNat 3 0) + k.taken % 2 ^ 24 * 2 ^ 29
    + 2 ^ 13 * (min (tget 0 (s.block b).drops k.frame.toNat) 65535) + k.mutes.length * 2 ^ 8 + flags)
  len :: (match k.overrun with | some (a, z) => [BitVec.ofNat 64 (a % 2 ^ 30 * 2 ^ 32 + z % 2 ^ 30)] | none => [])
    ++ (match k.cut with | some n => [BitVec.ofNat 64 n] | none => [])
    ++ k.mutes.map (fun i => let c := 16 * b + i; BitVec.ofNat 64 (2 ^ 53 * c + min (tget 0 (s.cell c).recs k.frame.toNat) (2 ^ 32 - 1)))

/-- A slot closes: the close group goes to the merger (R158). -/
def closeBlock (b : Nat) (k : Slot) (s : State) : State :=
  let ws := closeGroup s b k
  let drain := match k.drainTick with | some t => s.tick - t | none => 0
  let s := s.modComb (b / 12) (fun x => { x with slots := x.slots.map (fun q =>
    if q.frame = k.frame then { q with groups := tput q.groups (b % 12) ws } else q) })
  let s := s.modBlock b (fun x => { x with
    slots := x.slots.filter (fun q => q.frame ≠ k.frame)
    drops := x.drops.filter (fun e => decide (frameDiff (BitVec.ofNat 40 e.1) k.frame > 0)) })
  let s := forN 16 (fun i s => s.modCell (16 * b + i) (fun x => { x with
    recs := x.recs.filter (fun e => decide (frameDiff (BitVec.ofNat 40 e.1) k.frame > 0)) })) s
  let s := s.setReg (blkPage b) Reg.BLK_LAST_COUNT (w32 (k.taken % 2 ^ 24))
  let s := s.setReg64 (blkPage b) Reg.BLK_LAST_FRAME_LO k.frame.toNat
  let s := s.setReg (blkPage b) Reg.BLK_DRAIN_LAST (w32 (min drain 65535))
  s.maxReg (blkPage b) Reg.BLK_DRAIN_MAX (min drain 65535)

/-- A block closes its oldest slot once the three conditions hold (R158). -/
def blockClose (b : Nat) (s : State) : State :=
  match (s.block b).slots with
  | [] => s
  | k :: _ =>
    if k.markers = 0xFFFF#16 ∧ (k.drainTick.isSome || outPassed s b k.stop) ∧ !((s.block b).store.any (fun r => r.frame = k.frame)) then
      closeBlock b k s
    else s

/-- The drain deadline in fu (R179). -/
def drainFu (s : State) : Nat := if s.frameK = 12 then 4096 * 1024 else 8192 * 1000

/-- Whether a drain has reached its deadline. -/
def overdue (s : State) (t : Option Nat) : Bool :=
  match t with | some d => decide (1000 * (s.tick - d) ≥ drainFu s) | none => false

/-- The records of a frame in a cell FIFO are discarded: how many there were. -/
def cutCell (c : Nat) (f : BitVec 40) (s : State) : State × Nat :=
  let gone (r : RawRec) : Bool := decide (frameOf s (corrected s c r.fu) = f)
  let n := ((s.cell c).fifo.filter gone).length
  (if n = 0 then s else applyMarkers c (s.modCell c (fun x => { x with fifo := x.fifo.filter (fun r => !gone r), rdPos := x.rdPos + n })), n)

/-- A block is cut (R179): it discards the frame's records in its cell FIFOs and its store. -/
def cutBlock (b : Nat) (s : State) : State :=
  match (s.block b).slots with
  | [] => s
  | k :: _ =>
    if !overdue s k.drainTick then s
    else
      let n := ((s.block b).store.filter (fun r => r.frame = k.frame)).length
      let (s, n) := (List.range 16).foldl (fun (acc : State × Nat) i => let r := cutCell (16 * b + i) k.frame acc.1; (r.1, acc.2 + r.2)) (s, n)
      let s := s.modBlock b (fun x => { x with store := x.store.filter (fun r => r.frame ≠ k.frame) })
      let s := s.count (blkPage b) Reg.BLK_CUT_CNT n
      closeBlock b { k with cut := some n } (raise s (blkPage b) Reg.BLK_EVENTS 8)

/-! ### The region merger (R161, R167–R171, R179) -/

/-- The slot the merger serves: the oldest open one (R170). -/
def mergerSlot (s : State) (c : Nat) : Option RegSlot := (s.comb c).slots.head?

def State.modRegSlot (s : State) (c : Nat) (f : BitVec 40) (g : RegSlot → RegSlot) : State :=
  s.modComb c (fun x => { x with slots := x.slots.map (fun k => if k.frame = f then g k else k) })

/-- Whether an input presents its frame end: its block has closed the frame, or is isolated (R168). -/
def inputClosed (s : State) (b : Nat) (k : RegSlot) : Bool :=
  (tfind k.groups (b % 12)).isSome || (s.block b).isolated

/-- The floor a block forms for a slot (R167). -/
def floorOf (s : State) (b : Nat) (k : RegSlot) : Int :=
  let base := (if (modeAt s b k.start).1 = 0 then s.now else combH s (b / 12)) - 409600
  let stored := ((s.block b).store.filter (fun r => r.frame = k.frame)).map (·.fu)
  let queued := (List.range 16).flatMap (fun i =>
    ((s.cell (16 * b + i)).fifo.map (fun r => corrected s (16 * b + i) r.fu)).filter (fun t => frameOf s t = k.frame))
  min k.stop (max k.start ((stored ++ queued).foldl min base))

/-- An item's time. -/
def MItem.fu : MItem → Int
  | .record r _ => r.fu
  | .floor _ t => t

/-- The input of a block in its comb. -/
def State.input (s : State) (b : Nat) : List MItem := lget [] (s.comb (b / 12)).inputs (b % 12)
def State.modInput (s : State) (b : Nat) (f : List MItem → List MItem) : State :=
  s.modComb (b / 12) (fun x => { x with inputs := lmod x.inputs (b % 12) f })

/-- Whether an item is a record of a frame. -/
def MItem.isRecOf (f : BitVec 40) : MItem → Bool
  | .record r _ => decide (r.frame = f)
  | .floor _ _ => false

/-- The merger reads the next record of a block whose input is empty: the first in its store that may leave (R153). The floor
that the block then gives goes with it (R167). `upset` are bits of the word that have flipped in the store. -/
def feedInput (b : Nat) (upset : W64) (s : State) : State :=
  match mergerSlot s (b / 12) with
  | none => s
  | some k =>
    if !(s.input b).isEmpty ∨ inputClosed s b k then s
    else match (s.block b).store.find? (fun r => r.frame = k.frame && r.selected && mayLeave s b r.fu) with
      | none => s
      | some r =>
        let s := s.modBlock b (fun x => { x with store := x.store.erase r, floorTick := s.tick })
        let s := s.modSlot b k.frame (fun q => { q with taken := q.taken + 1 })
        let fl := floorOf s b k
        let (s, r) := readRec b r upset s
        let s := s.modInput b (· ++ [.record r fl])
        s.modRegSlot (b / 12) k.frame (fun q => { q with took := tset 0 q.took (b % 12) (tget 0 q.took (b % 12) + 1) })

/-- A block passes no record for 128 ticks: it gives a floor (R167). -/
def floorEmit (b : Nat) (s : State) : State :=
  match mergerSlot s (b / 12) with
  | none => s
  | some k =>
    if s.tick < (s.block b).floorTick + 128 ∨ inputClosed s b k then s
    else
      let fl := floorOf s b k
      let s := s.modBlock b (fun x => { x with floorTick := s.tick })
      s.modInput b (· ++ [.floor k.frame fl])

/-- The sideband of a flit without its check (R172). -/
def flitSide (f : Flit) : BitVec 8 := BitVec.ofNat 8 (f.kind + bitAt f.slot 3 + bitAt f.poison 4)

/-- A flit put at the transmitters. -/
def pushFlit (c : Nat) (f : Flit) (s : State) : State := s.modComb c (fun x => { x with out := x.out ++ [f] })

/-- A floor marker (R168, R172). -/
def floorFlit (k : RegSlot) (t : Int) : Flit :=
  let rel := (clampI 0 (min (k.stop - k.start) (2 ^ 30) - 1) (t - k.start)).toNat
  ⟨2, k.frame.getLsbD 0, false, BitVec.ofNat 64 (2 ^ 30 * (fieldN k.frame.toNat 3 0) + rel), false⟩

/-- The minimum of the floors of a slot: those of the items released, and the frame end for a closed input that holds no record of the
frame any more (R168). A record that waits in an input is never below it. -/
def minFloor (s : State) (c : Nat) (k : RegSlot) : Int :=
  (List.range 12).foldl (fun m i =>
    let b := 12 * c + i
    min m (if inputClosed s b k && !(s.input b).any (MItem.isRecOf k.frame) then k.stop else lget k.start k.floors i)) k.stop

/-- The bundle of a comb to a hive. -/
def Comb.bundle (x : Comb) : HiveId → Bundle
  | .a => x.bundleA
  | .b => x.bundleB

/-- Whether a flit uses a control credit (R173). -/
abbrev isCtl (f : Flit) : Bool := decide (3 ≤ f.kind)

/-- Whether the comb holds a data credit from the governing hive for one more flit than already waits (R173). -/
def dataCredit (s : State) (c : Nat) : Bool :=
  let x := (s.comb c).bundle (higherClaim s)
  decide (x.state = 2) && decide (((s.comb c).out.filter (fun f => !isCtl f)).length < x.dataCr)

/-- A region floor marker, when the minimum has risen by 128 ticks or 128 ticks have passed, once a credit is held (R168, R173). -/
def regionFloor (c : Nat) (s : State) : State :=
  match mergerSlot s c with
  | none => s
  | some k =>
    let m := minFloor s c k
    let x := s.comb c
    if (m ≥ x.floorSent + 128000 ∨ s.tick ≥ x.floorTick + 128) ∧ dataCredit s c then
      pushFlit c (floorFlit k m) (s.setComb c { x with floorSent := m, floorTick := s.tick })
    else s

/-- A record beyond the disorder bound, or of a slot already closed (R169, R567). -/
def disorderDrop (c : Nat) (s : State) : State :=
  let s := s.modComb c (fun x => { x with disorder := true })
  let s := s.count (combPage c 0x02) Reg.MRG_DISORDER_CNT
  guardEvent (raise s (combPage c 0x02) Reg.MRG_EVENTS 1) c 12

/-- The head an input presents. -/
def headOf (s : State) (b : Nat) (k : RegSlot) : Option Int :=
  match s.input b with
  | i :: _ => some i.fu
  | [] => if inputClosed s b k then some k.stop else none

/-- The input whose head the merger releases next: the earliest, the lowest block on a tie, once all 12 present a head (R168). -/
def nextInput (s : State) (c : Nat) (k : RegSlot) : Option Nat :=
  if (List.range 12).any (fun i => (headOf s (12 * c + i) k).isNone) then none
  else ((List.range 12).foldl (fun (m : Option (Int × Nat)) i =>
    match s.input (12 * c + i) with
    | [] => m
    | x :: _ => match m with | some (t, _) => if x.fu < t then some (x.fu, i) else m | none => some (x.fu, i)) none).map (·.2)

/-- A record released to the bridge, or discarded beyond the disorder bound (R169). -/
def releaseRec (c : Nat) (k : RegSlot) (r : StoreRec) (s : State) : State :=
  let flit : Flit := ⟨1, k.frame.getLsbD 0, r.poison, r.word, false⟩
  if r.frame ≠ k.frame then disorderDrop c s
  else match k.latest with
    | none => pushFlit c flit (s.modRegSlot c k.frame (fun q => { q with latest := some r.fu }))
    | some l =>
      if r.fu < l - 1024000 then disorderDrop c s
      else
        let s := if r.fu < l then s.maxReg (combPage c 0x02) Reg.MRG_MAX_LAG (l - r.fu).toNat else s
        pushFlit c flit (s.modRegSlot c k.frame (fun q => { q with latest := some (max l r.fu) }))

/-- The head of input `i` is released; the floor that came with it counts from then on (R167, R168). -/
def releaseItem (c : Nat) (k : RegSlot) (i : Nat) (upset : W64) (s : State) : State :=
  let b := 12 * c + i
  let raise (fl : Int) (s : State) : State := s.modRegSlot c k.frame (fun q => { q with floors := lmod q.floors i (max fl) })
  match s.input b with
  | [] => s
  | .floor f fl :: rest =>
    let s := s.modInput b (fun _ => rest)
    if f = k.frame then raise fl s else s
  | .record r fl :: rest =>
    let (s, r) := readRec b r upset (s.modInput b (fun _ => rest))
    releaseRec c k r (raise fl s)

/-- Whether a list of items starts with a record. -/
def headIsRec : List MItem → Bool
  | .record _ _ :: _ => true
  | _ => false

/-- The merger fills its inputs and releases the earliest item once all 12 present a head (R168, R169). A record goes to the bridge
only when the transmitters hold nothing and a data credit is held, so that close flits never wait behind one (R173).
`upsets` are bits that have flipped in the words read: of the 12 stores, and then of the merger input. -/
def mergerRelease (c : Nat) (upsets : List W64) (s : State) : State :=
  if !(s.comb c).out.isEmpty ∨ (s.comb c).inReset then s else
  let s := forN 12 (fun i s => feedInput (12 * c + i) (lget 0 upsets i) s) s
  match mergerSlot s c with
  | none => s
  | some k =>
    match nextInput s c k with
    | none => regionFloor c s
    | some i =>
      if headIsRec (s.input (12 * c + i)) && !dataCredit s c then s
      else regionFloor c (releaseItem c k i (lget 0 upsets 12) s)

/-- Whether the merger has a record ready for the bridge (R173). -/
def recordReady (s : State) (c : Nat) : Bool :=
  (s.comb c).out.any (fun f => decide (f.kind = 1)) ||
    (match mergerSlot s c with
     | some k => (match nextInput s c k with | some i => headIsRec (s.input (12 * c + i)) | none => false)
     | none => false)

/-- A length word that names another COUNT than the merger took (R161). -/
def checkLength (c : Nat) (k : RegSlot) (i : Nat) (s : State) : State :=
  let ws := tget [] k.groups i
  if ws = [] ∨ fieldN (ws.headD 0).toNat 52 29 = tget 0 k.took i % 2 ^ 24 then s
  else
    let s := s.modRegSlot c k.frame (fun q => { q with groups := tput q.groups i (lmod ws 0 (· ||| 2)) })
    let s := s.count (combPage c 0x02) Reg.MRG_LENGTH_CNT
    guardEvent (raise s (combPage c 0x02) Reg.MRG_EVENTS 2) c 12

/-- The region sends its close groups and the region close word of a slot (R171). -/
def closeRegion (c : Nat) (cut : Bool) (k : RegSlot) (s : State) : State :=
  let wrong := (List.range 12).any (fun i => fieldN ((tget [] k.groups i).headD 0).toNat 52 29 ≠ tget 0 k.took i % 2 ^ 24)
  let s := forN 12 (checkLength c k) s
  let k := ((s.comb c).slots.find? (fun q => q.frame = k.frame)).getD k
  let bit0 := k.frame.getLsbD 0
  let s := forN 12 (fun i s => (List.zip (List.range 400) (tget [] k.groups i)).foldl (fun s (j, w) =>
    pushFlit c ⟨if j = 0 then 3 else 4, bit0, false, w, false⟩ s) s) s
  let drain := min 8191 (match k.drainTick with | some t => (s.tick - t) / 8 | none => 0)
  let flags := bitAt cut 0 + bitAt (s.comb c).disorder 1 + bitAt wrong 2 + bitAt k.reset 3
  let s := pushFlit c ⟨5, bit0, false, BitVec.ofNat 64 (2 ^ 61 * c + 2 ^ 21 * k.frame.toNat + 2 ^ 13 * flags + drain), false⟩ s
  let s := s.modComb c (fun x => { x with
    slots := x.slots.filter (fun q => q.frame ≠ k.frame), disorder := false, lastClosed := some k.frame
    inputs := x.inputs.map (fun l => l.filter (fun i => match i with | .floor f _ => f ≠ k.frame | .record _ _ => true))
    windows := x.windows.filter (fun w => decide (k.stop ≤ w.2)), floorTick := s.tick
    floorSent := match x.slots.find? (fun q => q.frame ≠ k.frame) with | some q => q.start | none => x.floorSent })
  let s := s.setReg (combPage c 0x02) Reg.REG_DRAIN_LAST (w32 drain)
  let s := s.maxReg (combPage c 0x02) Reg.REG_DRAIN_MAX drain
  if cut then raise s (combPage c 0x02) Reg.REG_EVENTS 4 else s

/-- The region closes its oldest slot once all 12 close groups are there and no record of it waits (R171). -/
def regionClose (c : Nat) (s : State) : State :=
  match mergerSlot s c with
  | none => s
  | some k =>
    if (List.range 12).all (fun i => (tfind k.groups i).isSome && !((s.input (12 * c + i)).any (MItem.isRecOf k.frame))) then closeRegion c false k s
    else s

/-- Records of a cut frame in an input join the block's cut word (R179). -/
def cutInput (c : Nat) (f : BitVec 40) (i : Nat) (s : State) : State :=
  let b := 12 * c + i
  let n := ((s.input b).filter (MItem.isRecOf f)).length
  if n = 0 then s
  else
    let s := s.modInput b (fun l => l.filter (fun x => !x.isRecOf f))
    let s := raise (s.count (blkPage b) Reg.BLK_CUT_CNT n) (blkPage b) Reg.BLK_EVENTS 8
    s.modRegSlot c f (fun q =>
      match tget [] q.groups i with
      | [] => q
      | w :: rest =>
        let ovr := w.getLsbD 0
        let pre := if ovr then rest.take 1 else []
        let post := if ovr then rest.drop 1 else rest
        let group :=
          if w.getLsbD 2 then w :: pre ++ lmod post 0 (· + BitVec.ofNat 64 n)
          else (w ||| 4) :: pre ++ BitVec.ofNat 64 n :: post
        { q with groups := tput q.groups i group })

/-- The merger is cut (R179). -/
def cutRegion (c : Nat) (s : State) : State :=
  match mergerSlot s c with
  | none => s
  | some k =>
    if !overdue s k.drainTick then s
    else
      let s := forN 12 (cutInput c k.frame) s
      match mergerSlot s c with
      | none => s
      | some k => closeRegion c true k s

/-- At the drain deadline the stages of the combs that are still open are cut (R179). -/
def combDeadline (s : State) : State := forN 6 cutRegion (forN 72 cutBlock s)

/-! ### Protected FIFOs (R162–R165) and isolation (R181, R183) -/

/-- The reset of a FIFO that belongs to a block (R163). -/
def blockFifoReset (b : Nat) (s : State) : State :=
  let s := s.count (blkPage b) Reg.BLK_RESET_CNT
  guardEvent (raise (markLost b s) (blkPage b) Reg.BLK_EVENTS 2) (b / 12) (blockSrc b)

/-- The reset of a FIFO of the region (R163). -/
def regionFifoReset (c : Nat) (s : State) : State :=
  let s := forN 12 (fun i s => markLost (12 * c + i) s) s
  guardEvent (raise s (combPage c 0x02) Reg.REG_EVENTS 8) c 12

/-- A change of the bundle of a comb to a hive. -/
def State.modBundle (s : State) (c : Nat) (h : HiveId) (f : Bundle → Bundle) : State :=
  s.modComb c (fun x => match h with | .a => { x with bundleA := f x.bundleA } | .b => { x with bundleB := f x.bundleB })

/-- A pointer mismatch resets one protected FIFO (R163, R164); in CB-128 mode the pointers are not duplicated (R166). -/
def pointerMismatch (f : FifoId) (s : State) : State :=
  if s.cb128 then s else
  match f with
  | .cell c => blockFifoReset (c.val / 16) (applyMarkers c.val (s.modCell c.val (fun x => { x with fifo := [], rdPos := x.wrPos })))
  | .handshake b => blockFifoReset b.val s
  | .store b => blockFifoReset b.val (s.modBlock b.val (fun x => { x with store := [] }))
  | .mergerIn b => blockFifoReset b.val (s.modInput b.val (fun _ => []))
  | .replay c h => regionFifoReset c.val (s.modBundle c.val h (fun x => { x with replay := [] }))
  | .regionHandshake c => regionFifoReset c.val s

/-- A block enters isolation at once (R183). -/
def isolateBlock (b : Nat) (s : State) : State :=
  let s := s.modBlock b (fun x => { x with
    isolated := true, rejoinReq := false, store := [], slots := x.slots.map (fun k => { k with isolated := true }) })
  raise s (blkPage b) Reg.BLK_EVENTS 16

/-- A write of BLK_CTL (R183). -/
def blkCtl (b : Nat) (v : W32) (s : State) : State :=
  let s := if bit v 0 then isolateBlock b s else s
  if bit v 1 ∧ (s.block b).isolated then s.modBlock b (fun x => { x with rejoinReq := true }) else s

/-! ### The die bridge (R172–R177) -/

/-- The REG_EVENTS bit of a bundle that goes DOWN. -/
def downBit : HiveId → Nat
  | .a => 1
  | .b => 2

/-- A bundle goes DOWN (R174). -/
def bundleDown (c : Nat) (h : HiveId) (s : State) : State :=
  let s := s.modBundle c h (fun x => { x with state := 0, inFlight := [], replay := [], failed := false, fails := 0, dataCr := 0, ctlCr := 0 })
  guardEvent (raise s (combPage c 0x02) Reg.REG_EVENTS (downBit h)) c 13

/-- The comb sends its next flit on both bundles while it holds a credit of its class from the governing hive (R173); its
replay buffer holds 128 flits not yet accepted there (R174). -/
def bridgeSend (c : Nat) (s : State) : State :=
  match (s.comb c).out with
  | [] => s
  | f :: rest =>
    let g := (s.comb c).bundle (higherClaim s)
    let credit := if isCtl f then g.ctlCr else g.dataCr
    if g.state ≠ 2 ∨ credit = 0 ∨ g.sent - g.acked ≥ 128 ∨ (s.comb c).inReset then s
    else
      let put (x : Bundle) : Bundle :=
        if x.state ≠ 2 then x
        else { x with
          replay := (if x.replay.length ≥ 128 then x.replay.tail else x.replay) ++ [{ f with parity := s.cb128 }], inFlight := x.inFlight ++ [f], sent := x.sent + 1
          dataCr := if isCtl f then x.dataCr else x.dataCr - 1, ctlCr := if isCtl f then x.ctlCr - 1 else x.ctlCr }
      s.modComb c (fun x => { x with out := rest, bundleA := put x.bundleA, bundleB := put x.bundleB })

/-- The 80 bits of a flit as the CRC takes them. -/
def flitBits (f : Flit) : BitVec 72 := f.payload ++ flitSide f
def flitCheck (x : BitVec 72) : BitVec 8 := crc8 7#8 0#8 (bitsMsb x)

/-- The flit a hive takes from a bundle, with bits flipped on the way; none where it is discarded (R174). The state keeps
what the bundle then is. -/
def bridgeTake (c : Nat) (h : HiveId) (upset : BitVec 80) (s : State) : State × Option Flit :=
  let x := (s.comb c).bundle h
  match x.inFlight with
  | [] => (s, none)
  | f :: rest =>
    let body := flitBits f ^^^ (upset.extractLsb' 8 72)
    let check := flitCheck (flitBits f) ^^^ upset.extractLsb' 0 8
    if x.failed then (s.modBundle c h (fun x => { x with inFlight := rest }), none)
    else if flitCheck body ≠ check then
      let s := s.modBundle c h (fun x => { x with inFlight := rest, failed := true })
      if x.fails ≥ 16 then (bundleDown c h s, none) else (s, none)
    else
      let side := body.extractLsb' 0 8
      let g : Flit := ⟨(side.extractLsb' 0 3).toNat, side.getLsbD 3, side.getLsbD 4, body.extractLsb' 8 64, false⟩
      (s.modBundle c h (fun x => { x with inFlight := rest, acked := x.acked + 1, fails := 0 }), some g)

/-- A flit read from the replay buffer with bits of its word flipped there (R166). -/
def Flit.read (f : Flit) (upset : W64) : Flit := { f with payload := f.payload ^^^ upset, poison := f.poison || (f.parity && parityOf upset) }

/-- Poison that a flit gains in the replay buffer (R166): the block of a record counts it; a floor or close word is delivered with the
tag alone. -/
def poisonFlit (f g : Flit) (s : State) : State :=
  let b := recCell f.payload / 16
  if g.poison && !f.poison && decide (f.kind = 1) && decide (b < 72) then poisonWord b (fun n => n.getLsbD 0 = f.slot) s else s

/-- The replay of a bundle whose hive has asked for one: the flits from the failed one on are sent again (R174). `upsets` are bits
that have flipped in their words in the replay buffer. -/
def bridgeReplay (c : Nat) (h : HiveId) (upsets : List W64) (s : State) : State :=
  let x := (s.comb c).bundle h
  if !x.failed then s
  else
    let owed := x.sent - x.acked
    let old := x.replay.drop (x.replay.length - owed)
    let again := (List.zip (List.range 128) old).map (fun e => e.2.read (lget 0 upsets e.1))
    let s := s.modBundle c h (fun x => { x with
      replay := x.replay.take (x.replay.length - owed) ++ again, inFlight := again, acked := x.sent - again.length
      failed := false, fails := x.fails + 1 })
    let s := forL (List.zip old again) (fun e s => poisonFlit e.1 e.2 s) s
    s.count (combPage c 0x02) (match h with | .a => Reg.REG_RETRY_A | .b => Reg.REG_RETRY_B)

/-- A batch of 16 credits is returned (R173). -/
def creditReturn (c : Nat) (h : HiveId) (ctl : Bool) (s : State) : State :=
  s.modBundle c h (fun x =>
    if ctl then (if x.retCtl ≥ 16 then { x with retCtl := x.retCtl - 16, ctlCr := x.ctlCr + 16 } else x)
    else (if x.retData ≥ 16 then { x with retData := x.retData - 16, dataCr := x.dataCr + 16 } else x))

/-- A write of REG_CTL (R184). -/
def regCtl (c : Nat) (v : W32) (s : State) : State :=
  let s := if bit v 0 then s.modBundle c .a (fun x => { x with retrain := true }) else s
  if bit v 1 then s.modBundle c .b (fun x => { x with retrain := true }) else s

/-- A requested retrain starts at a frame boundary (R174). -/
def retrainStart (c : Nat) (h : HiveId) (s : State) : State :=
  let x := (s.comb c).bundle h
  if !x.retrain then s
  else
    let s := s.modBundle c h (fun _ => { state := 1 })
    if x.state = 2 then raise s (combPage c 0x02) Reg.REG_EVENTS (downBit h) else s

/-- A bundle completes training: the hive advertises its credits (R173, R174). -/
def bundleTrained (c : Nat) (h : HiveId) (s : State) : State :=
  if ((s.comb c).bundle h).state ≠ 1 ∨ (s.domain c).inReset then s
  else s.modBundle c h (fun _ => { state := 2, dataCr := 4096, ctlCr := 64 })

/-- BLK_STATUS (R183). -/
def blkStatus (s : State) (b : Nat) : W32 :=
  let x := s.block b
  w32 (blkMode s b + bitAt x.isolated 2 + bitAt s.cb128 3 + bitAt (x.slots.any (fun k => k.drainTick.isSome)) 4 + 2 ^ 16 * (min x.store.length 4096))

/-- REG_STATUS (R185). -/
def regStatus (s : State) (c : Nat) : W32 :=
  let x := s.comb c
  w32 (x.bundleA.state + x.bundleB.state * 4 + bitAt (higherClaim s = .b) 4 + bitAt s.cb128 5)

/-- MRG_STATUS (R184): with no slot open no input is waited for, as the reset value has it. -/
def mrgStatus (s : State) (c : Nat) : W32 :=
  match mergerSlot s c with
  | none => 0
  | some k => w32 ((List.range 12).foldl (fun a i => a + bitAt (headOf s (12 * c + i) k).isNone i) 0 + bitAt k.drainTick.isSome 12)

/-! ### The commands of this chapter that name no access path and end at the bridge -/

def execEofMarker (cell : Fin 1152) (s : State) : Host.Outcome State Fault Refusal := done s (eofMarker cell.val s)
def execBlockWrite (cell : Fin 1152) (upset : W64) (s : State) : Host.Outcome State Fault Refusal :=
  done s (blockWrite cell.val upset s)
def execFloorEmit (blk : Fin 72) (s : State) : Host.Outcome State Fault Refusal := done s (floorEmit blk.val s)
def execMergerRelease (reads : CombReads) (s : State) : Host.Outcome State Fault Refusal :=
  done s (mergerRelease reads.comb.val reads.upsets s)
def execBlockClose (blk : Fin 72) (s : State) : Host.Outcome State Fault Refusal := done s (blockClose blk.val s)
def execRegionClose (comb : Fin 6) (s : State) : Host.Outcome State Fault Refusal := done s (regionClose comb.val s)
def execFifoPointerMismatch (f : FifoId) (s : State) : Host.Outcome State Fault Refusal := done s (pointerMismatch f s)
def execBridgeFlitSend (comb : Fin 6) (s : State) : Host.Outcome State Fault Refusal := done s (bridgeSend comb.val s)
def execBridgeReplay (reads : CombReads) (h : HiveId) (s : State) : Host.Outcome State Fault Refusal :=
  done s (bridgeReplay reads.comb.val h reads.upsets s)
def execCreditBatchReturn (comb : Fin 6) (h : HiveId) (ctl : Bool) (s : State) : Host.Outcome State Fault Refusal :=
  done s (creditReturn comb.val h ctl s)

end Sys2Proof.Machine
end

