-- ==== Sys2Proof/Machine/Coder.lean ====
section
/-! DEFINITION. The compressed block and the CB-128 source frame as words (07_frames_compression.md R235–R240, R249–R252). -/

namespace Sys2Proof.Machine

/-- `n` bits of a number, most significant first. -/
def bitsOf (x n : Nat) : List Bool := (List.range n).map (fun i => x.testBit (n - 1 - i))

/-- The number of up to 64 bits, first bit most significant, padded with zeros to 64. -/
def packWord (bs : List Bool) : W64 :=
  BitVec.ofNat 64 ((List.range 64).foldl (fun a i => 2 * a + (if bs.getD i false then 1 else 0)) 0)

/-- Bits packed into words from bit 63 downwards. -/
def packBits : Nat → List Bool → List W64
  | 0, _ => []
  | _, [] => []
  | n + 1, bs => packWord (bs.take 64) :: packBits n (bs.drop 64)

/-- TOT and FLAGS of a record (03_cells.md R94). -/
abbrev recTot (w : W64) : Nat := fieldN w.toNat 20 7
abbrev recFlag (w : W64) : Nat := fieldN w.toNat 6 0

/-- The order key of a record (R225). -/
def orderKey (w : W64) : Nat := 2 ^ 34 * (recTime w) + 2 ^ 21 * (fieldN w.toNat 63 51) + fieldN w.toNat 20 0

/-- A signed difference as an unsigned number (R237). -/
def zigzag (d : Int) : Nat := if d ≥ 0 then (2 * d).toNat else (-2 * d - 1).toNat

/-- The Rice parameter of an adaptation state (R237). -/
def kofFrom (s : Nat) : Nat → Nat → Nat
  | 0, k => k
  | n + 1, k => if 32 * 2 ^ k ≤ s then kofFrom s n (k + 1) else k
def kof (s : Nat) : Nat := kofFrom s 30 0

/-- One Rice code and the adaptation state after it (R237). -/
def rice (s u : Nat) : List Bool × Nat :=
  let k := kof s
  let q := u / 2 ^ k
  let bs := if q < 24 then List.replicate q true ++ false :: bitsOf u k else List.replicate 24 true ++ bitsOf u 32
  (bs, (s + u - s / 16) % 2 ^ 64)

/-- The predictor state (R237). -/
structure Coder where
  prevT : Nat
  prevC : Nat := 0
  prevF : Nat := 0x20
  tots : Tab Nat := []
  s0 : Nat
  s1 : Nat
  s2 : Nat
deriving DecidableEq, Repr

/-- The unsigned values of a record's coded fields: time, cell, ToT (R237). -/
def coderU (c : Coder) (w : W64) : Nat × Nat × Nat :=
  (recTime w - c.prevT, zigzag ((recCell w : Int) - c.prevC), zigzag ((recTot w : Int) - (tget 0 c.tots (recCell w) : Nat)))

/-- One record coded (R237). -/
def coderStep (c : Coder) (w : W64) : List Bool × Coder :=
  let (u0, u1, u2) := coderU c w
  let (b0, s0) := rice c.s0 u0
  let (b1, s1) := rice c.s1 u1
  let (b2, s2) := rice c.s2 u2
  let f := recFlag w
  let bf := if f = c.prevF then [true] else false :: bitsOf f 7
  (b0 ++ b1 ++ bitsOf (recTh w) 2 ++ b2 ++ bf,
   { prevT := recTime w, prevC := recCell w, prevF := f, tots := tset 0 c.tots (recCell w) (recTot w), s0 := s0, s1 := s1, s2 := s2 })

/-- The sums of the first pass (R238). -/
def firstPass (t0 : Nat) (ws : List W64) : Nat × Nat × Nat :=
  (ws.foldl (fun (acc : (Nat × Nat × Nat) × Coder) w =>
    let (u0, u1, u2) := coderU acc.2 w
    ((acc.1.1 + u0, acc.1.2.1 + u1, acc.1.2.2 + u2), (coderStep acc.2 w).2))
    ((0, 0, 0), { prevT := t0, s0 := 0, s1 := 0, s2 := 0 })).1

/-- The coded bits of each record under three parameters. -/
def codeAll (t0 k0 k1 k2 : Nat) (ws : List W64) : List (List Bool) :=
  ((ws.foldl (fun (acc : List (List Bool) × Coder) w =>
    let (b, c) := coderStep acc.2 w
    (b :: acc.1, c)) ([], { prevT := t0, s0 := 16 * 2 ^ k0, s1 := 16 * 2 ^ k1, s2 := 16 * 2 ^ k2 })).1).reverse

/-- A compressed block: header and payload; whether it is RAW; the bit at which each record's code ends (R235–R240). -/
def compressedBlock (raw : Bool) (device : BitVec 12) (frame : BitVec 40) (index : Nat) (recs : List StoreRec) : List W64 × Bool × List Nat :=
  let ws := recs.map (·.word)
  let n := ws.length
  let t0 := recTime (ws.headD 0)
  let (a, b, c) := firstPass t0 ws
  let k0 := kof (16 * (a / n))
  let k1 := kof (16 * (b / n))
  let k2 := kof (16 * (c / n))
  let coded := codeAll t0 k0 k1 k2 ws
  let bits := coded.flatten
  let len := (bits.length + 63) / 64
  let isRaw := raw || decide (len ≥ n)
  let payload := if isRaw then ws else packBits (len + 1) bits
  let ends := if isRaw then (List.range n).map (fun i => 64 * (i + 1))
    else (coded.foldl (fun (acc : List Nat × Nat) x => (acc.1 ++ [acc.2 + x.length], acc.2 + x.length)) ([], 0)).1
  let c0 := BitVec.ofNat 64 (3 * 2 ^ 60 + 2 ^ 48 * device.toNat + frame.toNat)
  let c1 := BitVec.ofNat 64 (2 ^ 52 * index + 2 ^ 39 * n + bitAt isRaw 38 + bitAt (recs.any (·.poison)) 37
    + (if isRaw then 0 else 2 ^ 32 * k0 + 2 ^ 27 * k1 + 2 ^ 22 * k2) + payload.length)
  let c2 := BitVec.ofNat 64 (2 ^ 32 * ((crc32c (ws.flatMap bytesMsb)).toNat) + t0)
  (c0 :: c1 :: c2 :: payload, isRaw, ends)

/-- The SOURCE number of a CB-128 source frame (R250). -/
def cbSource (device : BitVec 12) (s : Nat) : Nat := device.toNat * 9 + s

/-- A CB record (R250). -/
def cbRecord (s : Nat) (r : StoreRec) : Nat :=
  let w := r.word
  let f := recFlag w
  let flags := bitAt (f.testBit 0 || f.testBit 1) 0 + bitAt (f.testBit 2) 1 + bitAt (f.testBit 4) 2 + bitAt r.poison 3
  (recCell w - 128 * s) % 128 * 2 ^ 41 + 2 ^ 39 * (recTh w) + recTime w / 8 * 2 ^ 16 + recTot w / 4 * 2 ^ 4 + flags

/-- The bits of a CB-128 source frame's header and records (R250, R251). -/
def cbBits (device : BitVec 12) (frame : BitVec 40) (s : Nat) (recs : List StoreRec) : List Bool :=
  bitsOf (2 ^ 40 * 0xCB + cbSource device s % 2 ^ 16 * 2 ^ 24 + frame.toNat % 2 ^ 24) 48 ++ recs.flatMap (fun r => bitsOf (cbRecord s r) 48)

/-- The CB trailer (R250). -/
def cbTrailer (flags muted count : Nat) : List Bool := bitsOf (2 ^ 40 * 0xCE + 2 ^ 32 * flags + 2 ^ 24 * (min muted 255) + count % 2 ^ 24) 48

end Sys2Proof.Machine
end

