-- ==== Sys2Proof/Machine/Trigger.lean ====
section
/-! DEFINITION. Trigger and swarm (06_trigger.md R187–R223): primitives, lines, decisions, the horizon, host triggers, swarm
messages and candidates. -/

namespace Sys2Proof.Machine

/-! ### Settings -/

abbrev trgCfg (s : State) (off : Nat) (i : Nat := 0) : W32 := s.cfg 0x13 off i
abbrev swmCfg (s : State) (off : Nat) (i : Nat := 0) : W32 := s.cfg 0x14 off i
/-- The TRG_ and SWM_ pages of a hive. -/
abbrev trgPage (h : HiveId) : Nat := hivePage h 0x13
abbrev swmPage (h : HiveId) : Nat := hivePage h 0x14

/-- The registers of a trigger line: CFG, THR, PS, WIN. -/
structure LineRegs where
  cfg : W32
  thr : W32
  ps : W32
  win : W32
deriving DecidableEq, Repr

/-- Registers of a line in force. -/
def lineNow (s : State) (i : Nat) : LineRegs :=
  ⟨trgCfg s Reg.TRG_LINE_CFG i, trgCfg s Reg.TRG_LINE_THR i, trgCfg s Reg.TRG_LINE_PS i, trgCfg s Reg.TRG_LINE_WIN i⟩

/-- Registers that serve a line for a trigger tick (R191). -/
def lineAt (s : State) (h : HiveId) (j : Int) (i : Nat) : LineRegs :=
  match (s.hive h).trig.before with
  | some (b, l) => if 8000 * j < b then (match l[i]? with | some (a, c, d, e) => ⟨a, c, d, e⟩ | none => lineNow s i) else lineNow s i
  | none => lineNow s i

/-- COND, EN, AUTO, EXT_SRC, REGIONS, READ_MASK, EXT_EDGE, LEVEL, HOLDOFF, PS, PRE, POST (R219, R220). -/
def LineRegs.cond (r : LineRegs) : Nat := fld r.cfg 1 0
def LineRegs.en (r : LineRegs) : Bool := bit r.cfg 2
def LineRegs.auto (r : LineRegs) : Bool := bit r.cfg 3
def LineRegs.extSrc (r : LineRegs) : Nat := fld r.cfg 5 4
def LineRegs.regions (r : LineRegs) : BitVec 6 := r.cfg.extractLsb' 6 6
def LineRegs.readMask (r : LineRegs) : BitVec 6 := r.cfg.extractLsb' 12 6
def LineRegs.extEdge (r : LineRegs) : Bool := bit r.cfg 18
def LineRegs.level (r : LineRegs) : Nat := max 1 (fld r.thr 10 0)
def LineRegs.holdoff (r : LineRegs) : Nat := fld r.thr 27 16
def LineRegs.prescale (r : LineRegs) : Nat := fld r.ps 15 0 + 1
def LineRegs.pre (r : LineRegs) : Nat := fld r.win 15 0
def LineRegs.post (r : LineRegs) : Nat := fld r.win 31 16

/-- SWM_CTL fields (R223). -/
abbrev swEn (s : State) : Bool := bit (swmCfg s Reg.SWM_CTL) 0
abbrev swSrc (s : State) : Nat := fld (swmCfg s Reg.SWM_CTL) 3 1
abbrev swSend (s : State) : Bool := bit (swmCfg s Reg.SWM_CTL) 4
abbrev swK (s : State) : Nat := max 1 (fld (swmCfg s Reg.SWM_CTL) 13 8)
abbrev swWin (s : State) : Int := (1024 * (fld (swmCfg s Reg.SWM_WIN) 12 0) : Nat)
abbrev swDeadline (s : State) : Int := (1024 * (fld (swmCfg s Reg.SWM_DEADLINE) 14 0) : Nat)

/-- The device identifier that serves a time (11_systems.md R356). -/
def deviceAt (s : State) (t : Int) : BitVec 12 :=
  let now := (s.reg chipPage Reg.CHIP_DEVICE_ID).extractLsb' 0 12
  match s.chip.idPrev with
  | some (some b, d) => if t < b then d else now
  | some (none, d) => d
  | none => now

/-- The behaviour level in force (11_systems.md R365). -/
abbrev behaviour (s : State) : Nat := fld (s.reg chipPage Reg.BEHAVIOUR_LEVEL) 3 0

/-! ### The horizon (R189–R191) -/

/-- ⌈a / b⌉ for `b` positive. -/
def ceilDiv (a b : Int) : Int := -((-a).fdiv b)

/-- The lag a line needs, in trigger ticks (R189). -/
def lineLag (s : State) (r : LineRegs) : Nat :=
  let lat : Int := if r.cond = 3 then ceilDiv (swDeadline s) 8000 else 33
  (ceilDiv ((1024 * r.pre : Nat) + 8000 * lat) 8000).toNat

/-- The lag L before the bound of 4,194 (R189). -/
def lagWanted (s : State) : Nat :=
  (List.range 8).foldl (fun m i => let r := lineNow s i; if r.en then max m (lineLag s r) else m) 132

/-- The lag L is formed anew at a commit (R189, R191). -/
def lagUpdate (h : HiveId) (s : State) : State :=
  let w := lagWanted s
  let old := (s.hive h).trig.clamped
  let s := s.modHive h (fun x => { x with trig := { x.trig with target := min 4194 w, clamped := decide (w > 4194) } })
  if w > 4194 ∧ !old then raise s (trgPage h) Reg.TRG_EVENTS 8 else s

/-- The trigger tick that starts now. -/
abbrev ttNow (s : State) (h : HiveId) : Int := s.fuOf h / 8000

/-- H after its step at trigger tick `j` (R191): it advances by one while the lag is L, stands still while it is smaller, and
by two while it is larger, once everything formed before the commit is decided. -/
def advanceH (t : Trig) (j : Int) : Trig :=
  let d := j - t.h - (t.target : Int)
  match t.jumpAt with
  | some (a, _) =>
    if 8000 * t.h < a then { t with h := t.h + 1 }
    else { t with h := max t.h (j - (t.target : Int)), jumpAt := none }
  | none =>
    if d ≤ 0 then t
    else if d = 1 then { t with h := t.h + 1 }
    else
      let waits := match t.before with
        | some (b, _) => decide (8000 * (j - 33) < b) || t.cands.any (fun c => decide (8000 * c.formed < b))
        | none => false
      { t with h := if waits then t.h + 1 else t.h + 2 }

/-- Present lag of H in trigger ticks; while H has still to pass over a forward step, on the scale before it. -/
def lagNow (s : State) (h : HiveId) : Int :=
  let t := (s.hive h).trig
  ttNow s h - (match t.jumpAt with | some (_, e) => e | none => 0) - t.h

/-! A step moves the numbers of the trigger ticks. The tick that it cuts short goes on as the first one on the new scale (DESIGN CHOICE,
log entry 90: R191 has the lines evaluated as usual and does not say how the grids of 8,000 fu meet). What waits for its evaluation
carries the new numbers; a trigger time stays on the scale on which it was taken. -/

/-- The number a trigger tick had on its own scale: steps since then are taken back. -/
def tickLabel : List (Int × Int) → Int → Int
  | [], j => j
  | (n, e) :: rest, j => if j < n then tickLabel rest (j - e) else j

/-- The trigger after a step at the instant `t` that moves time by `d` and the labels of ticks by `w` fu (R191): a forward step makes H
pass over it once everything before the step is final; a backward step lets H stand. -/
def Trig.step (t d w : Int) (x : Trig) : Trig :=
  let n := (t + d).fdiv 8000
  let e := n - t.fdiv 8000
  let move (l : Line) : Line := { l with lastFire := l.lastFire.map (· + e) }
  { x with
    relabel := (n, e) :: x.relabel
    jumpAt := match x.jumpAt with
      | some (a, f) => some (a, f + e)
      | none => if d > 0 then some (t, e) else none
    before := x.before.map (fun (b, l) => (b + w, l))
    lines := x.lines.map move
    prims := x.prims.map (fun p => { p with tt := p.tt + e })
    extEdges := x.extEdges.map (fun (i, r, u, j) => (i, r, u, j + e))
    cands := x.cands.map (fun c => { c with decideTick := c.decideTick + e, formed := c.formed + e }) }

/-- The edges of the cells' primitives carry the new numbers. -/
def Cell.stepPrims (e : Int) (x : Cell) : Cell := { x with prims := x.prims.map (fun (th, j) => (th, j + e)) }

/-! ### Primitives (R192–R194) -/

/-- Whether a cell contributes to its block's primitive of trigger tick `j` (R192). -/
def contributes (s : State) (c : Nat) (j : Int) : Bool :=
  let cfg := s.reg (blkPage (c / 16)) Reg.TRG_BLK_CFG
  let th := fld cfg 3 2
  let stretch := fld (trgCfg s Reg.TRG_CTL) 6 4
  let cc := s.cellCfg c
  bit cfg (16 + c % 16) && cEn cc && cThEn cc th && !cCm cc
    && (s.cell c).prims.any (fun p => p.1 = th && decide (j - stretch ≤ p.2 ∧ p.2 ≤ j))

/-- The multiplicity of a block (R192, R193). -/
def multiplicity (s : State) (b : Nat) (j : Int) : Nat :=
  if (s.block b).isolated then 0 else ((List.range 16).filter (fun i => contributes s (16 * b + i) j)).length

/-- BLK_MIN (R220). -/
def blkMin (s : State) : Nat := min 16 (max 1 (fld (trgCfg s Reg.TRG_CTL) 12 8))

/-- The region primitive word of the trigger tick that has just ended, sent to both hives (R193). -/
def primitiveWord (c : Nat) (ok : Bool) (s : State) : State :=
  if !capturing s c then s
  else
    let j := s.now / 8000 - 1
    let ms := (List.range 12).map (fun i => multiplicity s (12 * c + i) j)
    let p : Prim := ⟨c, j, ms.foldl (· + ·) 0, (ms.filter (fun m => decide (m ≥ blkMin s))).length, ok⟩
    let put (x : Hive) : Hive := { x with trig := { x.trig with
      prims := (x.trig.prims.filter (fun q => decide (j < q.tt + 40) && !(q.comb = c && q.tt = j))) ++ [p] } }
    { s with hiveA := put s.hiveA, hiveB := put s.hiveB }

/-- SUM and ACT of a region for a trigger tick as the hive has them; none where the word counts as 0 (R194). -/
def primOf (s : State) (h : HiveId) (c : Nat) (j : Int) : Option (Nat × Nat) :=
  if ((s.comb c).bundle h).state ≠ 2 then none
  else match (s.hive h).trig.prims.find? (fun p => p.comb = c && p.tt = j) with
    | some p => if p.good then some (p.sum, p.act) else none
    | none => none

/-! ### Decisions (R198–R202, R214–R216) -/

/-- The automatic prescale of a frame (R198, R202). -/
def autoOf (t : Trig) (f : BitVec 40) : Nat :=
  2 ^ (match t.autoHist.find? (fun e => e.1 = f) with | some (_, e) => e | none => t.autoExp)

/-- Occupied decision entries (R201). -/
def pendingEntries (t : Trig) : Nat := t.entries.length + (t.cands.map (fun c => c.lines.length)).sum

/-- The highest PENDING of the frame and since the last read. -/
def notePending (h : HiveId) (s : State) : State :=
  let n := pendingEntries (s.hive h).trig
  let s := s.modHive h (fun x => { x with trig := { x.trig with peak := max x.trig.peak n } })
  s.maxReg (trgPage h) Reg.TRG_PEND_MAX n

/-- A refused trigger (R199). -/
def refuse (h : HiveId) (t : Int) (s : State) : State :=
  let f := (frameOf s t).toNat
  let s := s.modHive h (fun x => { x with trig := { x.trig with refused := tset 0 x.trig.refused f (tget 0 x.trig.refused f + 1) } })
  raise (s.count (trgPage h) Reg.TRG_REFUSED_CNT) (trgPage h) Reg.TRG_EVENTS 1

/-- An accepted trigger (R199, R214, R216): its entry, its window, its SEQ. -/
def accept (h : HiveId) (line : Nat) (host : Bool) (t : Int) (pre post : Nat) (mask : BitVec 6) (prim origins : Nat) (s : State) : State :=
  let x := (s.hive h).trig
  let hFu := 8000 * x.h
  let start := t - (1024 * pre : Nat)
  let stop := t + (1024 * post : Nat)
  let d : Decision := { line := line, host := host, trunc := decide (start < hFu), t := t, pre := pre, post := post, lo := max start hFu, hi := stop, origins := origins, prim := prim, mask := mask, seq := x.seq }
  let s := s.count (trgPage h) Reg.TRG_LINE_TAKE_CNT 1 line
  let s := s.modHive h (fun y => { y with trig := { y.trig with
    seq := x.seq + 1
    entries := if stop < hFu then x.entries else x.entries ++ [d]
    decided := if stop < hFu then x.decided else x.decided ++ [d]
    unsent := if stop < hFu then x.unsent else x.unsent ++ [d] } })
  notePending h s

/-- The prescale of a line: whether a firing passes (R198). -/
def passPrescale (h : HiveId) (line n : Nat) (s : State) : State × Bool :=
  let c := (lget {} (s.hive h).trig.lines line).ps + 1
  let pass := decide (c ≥ n)
  (s.modHive h (fun x => { x with trig := { x.trig with lines := lmod x.trig.lines line (fun l => { l with ps := if pass then 0 else c }) } }), pass)

/-- A firing of a line that may take decisions (R198, R199). -/
def takeFiring (h : HiveId) (line : Nat) (r : LineRegs) (t : Int) (prim : Nat) (s : State) : State :=
  let a := if r.auto then autoOf (s.hive h).trig (frameOf s t) else 1
  let (s, pass) := passPrescale h line (r.prescale * a) s
  if !pass then s
  else if pendingEntries (s.hive h).trig ≥ 64 then refuse h t s
  else accept h line false t r.pre r.post r.readMask prim 0 s

/-! ### Swarm messages (R205–R207) -/

/-- The two words of a swarm message (R205). -/
def swarmWords (origin : BitVec 12) (hops sync bl mult : Nat) (short : BitVec 32) (fp : BitVec 16) (frame : BitVec 40) : List W64 :=
  [origin ++ BitVec.ofNat 2 hops ++ BitVec.ofNat 2 sync ++ BitVec.ofNat 4 bl ++ 0#1 ++ BitVec.ofNat 11 mult ++ short,
   fp ++ 0#8 ++ frame]

/-- The level messages leave with (R207). -/
def levelInUse (s : State) (h : HiveId) : Nat :=
  (s.hive h).trig.origins.foldl (fun m o => if o.2.state = 1 then min m o.2.bl else m) (behaviour s)

/-- TX_BL follows the origins heard; a fall below the device's own level raises BL_FALLBACK (R207). -/
def updateLevel (h : HiveId) (s : State) : State :=
  let n := levelInUse s h
  let old := (s.hive h).trig.txBl
  let s := s.modHive h (fun x => { x with trig := { x.trig with txBl := n } })
  if n < behaviour s ∧ n < old then raise s (swmPage h) Reg.SWM_EVENTS 16 else s

abbrev peerReg (n : Nat) : Nat := Reg.SWM_PEER_0_CFG + 4 * n

/-- A message put in the transmit queue of each enabled peer lane but `except` (R206, R208, 08_queues_placement.md R274). -/
def sendSwarm (h : HiveId) (ws : List W64) (exc : Option Nat) (s : State) : State :=
  forN 4 (fun n s =>
    let cfg := swmCfg s (peerReg n)
    if !bit cfg 8 ∨ exc = some (fld cfg 4 0) then s
    else
      let (s, ok) := qPutFixed s h (96 + n) ws
      if ok then s else raise (s.count (swmPage h) Reg.SWM_TX_DROP_CNT) (swmPage h) Reg.SWM_EVENTS 8) s

/-- A firing of the SRC line in trigger tick `j` (R206, R212, R213, R218): message and candidate. `gap`: the trigger time lies in a gap. -/
def swarmFire (h : HiveId) (j t : Int) (mult : Nat) (gap : Bool) (s : State) : State :=
  if !swEn s then s
  else
    let sync := (s.hive h).tb.qual.sync
    let short := shortOf t
    let s := if !swSend s then s
      else
        let s := sendSwarm h (swarmWords (deviceAt s t) 0 sync (s.hive h).trig.txBl mult short s.chip.fpNow (frameOf s t)) none s
        let add (x : Hive) : Hive := { x with trig := { x.trig with formed := ((short :: x.trig.formed).take 64) } }
        { s with hiveA := add s.hiveA, hiveB := add s.hiveB }
    if gap then s
    else if sync ≠ 2 then s.count (swmPage h) Reg.SWM_UNSYNC_CNT
    else
      let (s, ls) := (List.range 8).foldl (fun (s, ls) i =>
        let r := lineAt s h j i
        if !(r.en && r.cond = 3) then (s, ls)
        else if pendingEntries (s.hive h).trig + ls.length ≥ 64 then (refuse h t s, ls)
        else (s, ls ++ [({ line := i, pre := r.pre, post := r.post, mask := r.readMask, auto := r.auto, ps := r.prescale } : CandLine)])) (s, ([] : List CandLine))
      let c : SwCand := { t := t, mult := mult, decideTick := ceilDiv (8000 * j + swDeadline s) 8000, formed := j, win := swWin s, k := swK s, multMin := fld (swmCfg s Reg.SWM_MULT_MIN) 15 0, lines := ls }
      notePending h (s.modHive h (fun x => { x with trig := { x.trig with cands := x.trig.cands ++ [c] } }))

/-! ### Line evaluation (R196, R197, R200) -/

/-- The regions a mask names. -/
def regionSum (mask : BitVec 6) (v : Nat → Nat) : Nat := ((List.range 6).filter (fun c => mask.getLsbD c)).foldl (fun a c => a + v c) 0

/-- Whether a firing lies in the gap of a backward step: it is not taken (R191). `old` tells a trigger tick before the last step. -/
def firingGap (s : State) (old : Bool) (t : Int) : Bool :=
  !old && s.chip.gapBack && (match s.chip.gap with | some (a, b) => decide (a ≤ t ∧ t < b) | none => false)

/-- Line `i` for trigger tick `j` (R196–R200, R206). -/
def evalLine (h : HiveId) (j : Int) (sums acts : Nat → Nat) (i : Nat) (s : State) : State :=
  let label := tickLabel (s.hive h).trig.relabel j
  let t := 8000 * label
  let r := lineAt s h j i
  let l := lget {} (s.hive h).trig.lines i
  let isSrc := swSrc s = i
  let held (n : Int) : Bool := match l.lastFire with | some f => decide (n ≤ f + (r.holdoff : Int)) | none => false
  let fire (t : Int) (prim : Nat) (s : State) : State :=
    let s := s.modHive h (fun x => { x with trig := { x.trig with lines := lmod x.trig.lines i (fun l => { l with lastFire := some j }) } })
    let s := s.count (trgPage h) Reg.TRG_LINE_FIRE_CNT 1 i
    let gap := firingGap s (label != j) t
    let s := if r.en ∧ !gap then takeFiring h i r t prim s else s
    if isSrc ∧ r.cond < 2 then swarmFire h j t prim gap s else s
  if r.cond < 2 then
    let v := regionSum r.regions (if r.cond = 0 then acts else sums)
    let now := decide (v ≥ r.level) && (r.en || isSrc)
    let s := s.modHive h (fun x => { x with trig := { x.trig with lines := lmod x.trig.lines i (fun l => { l with cond := now }) } })
    if now ∧ !l.cond ∧ !held j then fire t v s else s
  else if r.cond = 2 ∧ r.en then
    let es := (s.hive h).trig.extEdges.filter (fun e =>
      e.2.2.2 = j && (r.extSrc = 2 || r.extSrc = e.1) && e.2.1 != r.extEdge)
    match es with
    | e :: _ => if held j then s else fire e.2.2.1 0 s
    | [] => s
  else s

/-- Whether a comb is parked or below Idle: its words count as 0 without an error (16_power_reset.md R508). -/
def quiet (s : State) (c : Nat) : Bool := let d := s.domain c; d.parked || !(d.state = .run || d.state = .idle)

/-- The lines are evaluated for trigger tick `j` (R190, R194). -/
def evalLines (h : HiveId) (j : Int) (s : State) : State :=
  let bad := ((List.range 6).filter (fun c => (primOf s h c j).isNone && !quiet s c)).length
  let s := if bad = 0 then s else raise (s.count (trgPage h) Reg.TRG_PRIM_ERR_CNT bad) (trgPage h) Reg.TRG_EVENTS 16
  let ps := (List.range 6).map (fun c => (primOf s h c j).getD (0, 0))
  let s := forN 8 (evalLine h j (fun c => (lget (0, 0) ps c).1) (fun c => (lget (0, 0) ps c).2)) s
  s.modHive h (fun x => { x with trig := { x.trig with extEdges := x.trig.extEdges.filter (fun e => decide (j < e.2.2.2)) } })

/-! ### Swarm decisions (R211, R213) -/

/-- The message of each matching origin nearest to the candidate, the earlier arrival on a tie. -/
def matching (held : List SwMsg) (c : SwCand) : List SwMsg :=
  let dist (m : SwMsg) : Nat := (shortDiff m.tc (shortOf c.t)).natAbs
  (held.filter (fun m => decide ((dist m : Int) ≤ c.win))).foldl (fun acc m =>
    match acc.findIdx? (fun q => q.org = m.org) with
    | some i => if dist m < dist (acc.getD i m) then lset acc i m else acc
    | none => acc ++ [m]) []

/-- The decision on a candidate (R211). An accepted one is a firing of each SWARM line that holds an entry for it (R196, R198, R213). -/
def decideCand (h : HiveId) (c : SwCand) (s : State) : State :=
  let ms := matching (s.hive h).trig.held c
  let total := ms.foldl (fun a m => a + m.mult) c.mult
  let ok := decide (ms.length ≥ c.k) && (c.multMin = 0 || decide (total ≥ c.multMin))
  let s := s.modHive h (fun x => { x with trig := { x.trig with cands := x.trig.cands.erase c } })
  if !ok then s.count (swmPage h) Reg.SWM_NOCOINC_CNT
  else
    c.lines.foldl (fun s l =>
      let a := if l.auto then autoOf (s.hive h).trig (frameOf s c.t) else 1
      let (s, pass) := passPrescale h l.line (l.ps * a) (s.count (trgPage h) Reg.TRG_LINE_FIRE_CNT 1 l.line)
      if pass then accept h l.line false c.t l.pre l.post l.mask c.mult ms.length s else s)
      (s.count (swmPage h) Reg.SWM_COINC_CNT)

/-! ### The trigger tick (R190) -/

/-- The new decisions and H reach the blocks of a comb whose bundle is UP (R151, R153, R191, R200). -/
def sendDown (h : HiveId) (new : List Decision) (c : Nat) (s : State) : State :=
  if ((s.comb c).bundle h).state ≠ 2 then s
  else
    let ws := (new.filter (fun d => d.mask.getLsbD c)).map (fun d => (d.lo, d.hi))
    let hNew := (s.hive h).trig.h
    let s := s.modComb c (fun x => { x with h := max x.h hNew, windows := x.windows ++ ws })
    forN 12 (fun i s =>
      let b := 12 * c + i
      if (s.block b).store.isEmpty then s
      else
        let mark (r : StoreRec) : StoreRec := if ws.any (fun w => decide (w.1 ≤ r.fu ∧ r.fu ≤ w.2)) then { r with selected := true } else r
        s.modBlock b (fun x => { x with store := (x.store.map mark).filter (fun r => r.selected || !mayLeave s b r.fu) })) s

/-- A trigger tick boundary in the active hive, once per trigger tick (R190). -/
def triggerTick (s : State) : State :=
  let h := higherClaim s
  if s.fuOf h % 8000 ≠ 0 ∨ (s.hive h).trig.doneTick = some s.tick ∨ !s.chip.started then s
  else
    let j := ttNow s h
    let s := s.modHive h (fun x => { x with trig := { x.trig with doneTick := some s.tick } })
    let s := evalLines h (j - 33) s
    let due := (s.hive h).trig.cands.filter (fun c => decide (c.decideTick ≤ j))
    let s := due.foldl (fun s c => decideCand h c s) s
    let s := s.modHive h (fun x => { x with trig := advanceH x.trig j })
    let hFu := 8000 * ((s.hive h).trig.h)
    let s := s.modHive h (fun x => { x with trig := { x.trig with entries := x.trig.entries.filter (fun d => decide (hFu ≤ d.hi)) } })
    let new := (s.hive h).trig.unsent
    let s := s.modHive h (fun x => { x with trig := { x.trig with
      unsent := [], relabel := x.trig.relabel.takeWhile (fun r => decide (j - 33 < r.1)) } })
    startDrains (forN 6 (sendDown h new) s)

/-- The automatic prescale of the frame that begins (R198, R202). -/
def autoPrescale (h : HiveId) (f : BitVec 40) (s : State) : State :=
  let t := (s.hive h).trig
  let cap := min 8 (fld (trgCfg s Reg.TRG_CTL) 19 16)
  let e := if t.peak > 48 then min cap (t.autoExp + 1) else if t.peak < 16 then t.autoExp - 1 else t.autoExp
  let s := s.modHive h (fun x => { x with trig := { x.trig with
    autoExp := e, autoHist := ((f, e) :: x.trig.autoHist).take 32, peak := pendingEntries x.trig
    lines := if e = t.autoExp then x.trig.lines
      else (List.zip (List.range 8) x.trig.lines).map (fun (i, l) => if (lineNow s i).auto then { l with ps := 0 } else l) } })
  if e > t.autoExp then raise s (trgPage h) Reg.TRG_EVENTS 2
  else if e < t.autoExp then raise s (trgPage h) Reg.TRG_EVENTS 4 else s

/-! ### External and host triggers (R203, R204) -/

/-- An edge of an external trigger input (R203). -/
def extEdge (n : Nat) (rising : Bool) (delta : Nat) (s : State) : State :=
  let h := higherClaim s
  let t := s.fuOf h + 999 - delta
  let wanted := (List.range 8).any (fun i => let r := lineNow s i; r.en && r.cond = 2 && (r.extSrc = 2 || r.extSrc = n) && r.extEdge != rising)
  if !wanted then s
  else
    let m : Int := (s.mono : Int) + 999 - delta
    let dead := match lget none (s.hive h).trig.extLast n with | some l => decide (m - l < 43008) | none => false
    if dead then s.count (trgPage h) Reg.TRG_EXT_LOST_CNT
    else s.modHive h (fun x => { x with trig := { x.trig with
      extLast := lset x.trig.extLast n (some m), extEdges := x.trig.extEdges ++ [(n, rising, t, t.fdiv 8000)] } })

/-- A write of TRG_HOST_CTL (R204): 1 TAKEN, 2 EXPIRED, 3 FULL, 4 AHEAD, 5 OFF. -/
def hostTrigger (v : W32) (s : State) : State :=
  if !bit v 8 then s
  else
    let h := higherClaim s
    let i := fld v 2 0
    let r := lineNow s i
    let now := s.fuOf h
    let t := now + shortDiff (trgCfg s Reg.TRG_HOST_TIME) (shortOf now)
    let result (n : Nat) (s : State) : State := s.modHive h (fun x => { x with trig := { x.trig with hostStatus := n } })
    if !r.en then result 5 s
    else if t - (1024 * r.pre : Nat) < 8000 * ((s.hive h).trig.h) then result 2 s
    else if t - now > 1048576 * 1024 then result 4 s
    else if pendingEntries (s.hive h).trig ≥ 64 then result 3 (refuse h t s)
    else result 1 (accept h i true t r.pre r.post r.readMask 0 0 s)

/-! ### Receipt of swarm messages (R208–R210) -/

/-- The origin entry of a device (R222). -/
def originEntry (s : State) (own dev : BitVec 12) : Option Nat :=
  if dev = own then none
  else (List.range 64).find? (fun n => let c := swmCfg s Reg.SWM_ORG_CFG n; bit c 12 && c.extractLsb' 0 12 = dev)

/-- The identity of a message enters the duplicate memory of a hive (R208). -/
def dupAdd (h : HiveId) (id : BitVec 12 × BitVec 32) (s : State) : State :=
  s.modHive h (fun x => { x with trig := { x.trig with
    dup := (if x.trig.dup.length ≥ 256 then x.trig.dup.tail else x.trig.dup) ++ [id] } })

/-- An identifier clash (11_systems.md R358). -/
def idClash (s : State) : State := raise (s.count chipPage Reg.CHIP_ID_CLASH_CNT) chipPage Reg.CHIP_SYS_EVENTS 1

/-- The local fingerprint for a time (11_systems.md R363). -/
def fpFor (s : State) (t : Int) : BitVec 16 :=
  if frameDiff s.frameNow (frameOf s t) = 1 then s.chip.fpPrev else s.chip.fpNow

/-- A forwarded message: HOPS is one higher, and reserved bits are 0 (00_scope.md R8, R208). -/
def forwarded (w0 w1 : W64) : List W64 := [(w0 + (1#64 <<< 50)) &&& ~~~(1#64 <<< 43), w1 &&& ~~~(0xFF#64 <<< 40)]

/-- A message reaches the swarm logic (R208). -/
def swarmMessage (lane : Nat) (ws : List W64) (s : State) : State :=
  let h := higherClaim s
  let w0 := ws.getD 0 0
  let w1 := ws.getD 1 0
  let origin := w0.extractLsb' 52 12
  let hops := (w0.extractLsb' 50 2).toNat
  let sync := (w0.extractLsb' 48 2).toNat
  let bl := (w0.extractLsb' 44 4).toNat
  let mult := (w0.extractLsb' 32 11).toNat
  let short := w0.extractLsb' 0 32
  let fp := w1.extractLsb' 48 16
  let frame := w1.extractLsb' 0 40
  let own := deviceAt s s.now
  let s := s.count (swmPage h) Reg.SWM_RX_CNT
  let standby := otherHive h
  let s := if (s.hive standby).trig.dup.contains (origin, short) ∨ origin = own then s else dupAdd standby (origin, short) s
  let s := if origin = own ∧ !((s.hive h).trig.formed.contains short) then idClash s else s
  if (s.hive h).trig.dup.contains (origin, short) ∨ origin = own then s.count (swmPage h) Reg.SWM_DUP_CNT
  else
    let s := dupAdd h (origin, short) s
    let s := if hops < 3 then sendSwarm h (forwarded w0 w1) (some lane) s else s
    if !swEn s then s
    else match originEntry s own origin with
      | none => raise (s.count (swmPage h) Reg.SWM_UNKNOWN_CNT) (swmPage h) Reg.SWM_EVENTS 4
      | some n =>
        let now := s.fuOf h
        let tc := short + swmCfg s Reg.SWM_ORG_OFFSET n
        let full := now + shortDiff tc (shortOf now)
        let old := tget {} (s.hive h).trig.origins n
        let setOrg (st : Nat) (s : State) : State := updateLevel h (s.modHive h (fun x => { x with trig := { x.trig with
          origins := tset {} x.trig.origins n { old with state := st, sync := sync, bl := bl, fp := fp, hops := hops } } }))
        if fp ≠ fpFor s full then
          let s := setOrg 3 (s.count (swmPage h) Reg.SWM_DISC_CNT)
          if old.state = 3 then s else raise s (swmPage h) Reg.SWM_EVENTS 1
        else if sync ≠ 2 ∨ (frameDiff frame (frameOf s full)).natAbs > 1 then
          setOrg 2 (s.count (swmPage h) Reg.SWM_EXCL_CNT)
        else
          let s := setOrg 1 s
          let limit := tc + BitVec.ofInt 32 (swDeadline s - swWin s)
          if shortDiff (shortOf now) limit > 0 then
            let f := (s.hive h).tb.core.frame.toNat
            let s := s.modHive h (fun x => { x with trig := { x.trig with late := tset 0 x.trig.late f (tget 0 x.trig.late f + 1) } })
            raise (s.count (swmPage h) Reg.SWM_LATE_CNT) (swmPage h) Reg.SWM_EVENTS 2
          else s.modHive h (fun x => { x with trig := { x.trig with
            held := x.trig.held ++ [⟨n, tc, mult⟩]
            origins := tset {} x.trig.origins n { tget {} x.trig.origins n with last := tc } } })

/-- The oldest packet of a type a lane has accepted. -/
def takeRx (lane ptype : Nat) (s : State) : State × Option RxPacket :=
  match (s.lane lane).rx.find? (fun p => p.ptype = ptype) with
  | none => (s, none)
  | some p => (s.modLane lane (fun l => { l with rx := l.rx.erase p }), some p)

/-- A received SWARM packet. -/
def swarmReceive (lane : Nat) (s : State) : State :=
  match takeRx lane 5 s with
  | (s, none) => s
  | (s, some p) => swarmMessage lane p.payload s

/-- Messages whose time has passed are dropped (R208). -/
def swarmExpiry (s : State) : State :=
  let h := higherClaim s
  let now := shortOf (s.fuOf h)
  s.modHive h (fun x => { x with trig := { x.trig with
    held := x.trig.held.filter (fun m => decide (shortDiff now (m.tc + BitVec.ofInt 32 (swWin s + swDeadline s)) ≤ 0)) } })

/-! ### Status registers -/

/-- TRG_STATUS (R220). -/
def trgStatus (s : State) (h : HiveId) : W32 :=
  let t := (s.hive h).trig
  let act := higherClaim s = h
  let lag := if act then lagNow s h else 132
  w32 (min 127 (pendingEntries t) + t.autoExp * 2 ^ 8 + bitAt t.clamped 12
    + bitAt (act && s.chip.started && decide (lag < (t.target : Int) ∨ lag > (t.target : Int) + 1)) 13 + 2 ^ 16 * ((clampI 0 8191 lag).toNat))

/-- SWM_ORG_STATE (R223). -/
def originState (s : State) (h : HiveId) (n : Nat) : W32 :=
  let o := tget {} (s.hive h).trig.origins n
  w32 (o.state + o.sync * 4 + o.bl * 16 + o.fp.toNat * 256 + 2 ^ 24 * o.hops)

/-! ### The commands of this chapter that name no access path -/

def execTriggerTick (s : State) : Host.Outcome State Fault Refusal := done s (triggerTick s)
def execPrimitiveWord (comb : Fin 6) (parityOk : Bool) (s : State) : Host.Outcome State Fault Refusal :=
  done s (primitiveWord comb.val parityOk s)
def execExtTrigEdge (n : Fin 2) (rising : Bool) (delta : Fin 1000) (s : State) : Host.Outcome State Fault Refusal :=
  done s (extEdge n.val rising delta.val s)
def execSwarmReceive (lane : Fin 20) (s : State) : Host.Outcome State Fault Refusal := done s (swarmReceive lane.val s)
def execSwarmHoldExpiry (s : State) : Host.Outcome State Fault Refusal := done s (swarmExpiry s)

end Sys2Proof.Machine
end

