-- ==== Sys2Proof/Machine/Frames.lean ====
section
/-! DEFINITION. Frame building and compression in the active hive (07_frames_compression.md R224–R258). -/

namespace Sys2Proof.Machine

/-- The FRM_ and CMP_ pages of a hive. -/
abbrev frmPage (h : HiveId) : Nat := hivePage h 0x15
abbrev cmpPage (h : HiveId) : Nat := hivePage h 0x16

def State.fr (s : State) (h : HiveId) : Framer := (s.hive h).fr
def State.modFr (s : State) (h : HiveId) (f : Framer → Framer) : State := s.modHive h (fun x => { x with fr := f x.fr })
def State.modFrame (s : State) (h : HiveId) (f : BitVec 40) (g : OpenFrame → OpenFrame) : State :=
  s.modFr h (fun x => { x with frames := x.frames.map (fun o => if o.frame = f then g o else o) })
def State.job (s : State) (h : HiveId) (j : Nat) : Job := tget {} (s.fr h).jobs j
def State.setJob (s : State) (h : HiveId) (j : Nat) (x : Job) : State := s.modFr h (fun f => { f with jobs := tset {} f.jobs j x })

/-! ### Destination and start of a frame -/

/-- The table entry of a frame (08_queues_placement.md R276). -/
def plcHash (n : BitVec 40) (e : BitVec 16) : Nat :=
  let x : BitVec 32 := n.extractLsb' 0 32 ^^^ (n.extractLsb' 32 8).zeroExtend 32 ^^^ (e.zeroExtend 32 <<< 8)
  ((x * 0x9E3779B1#32) >>> 24).toNat

/-- The receiver index of a frame by the bank and epoch in force. -/
def receiverOf (s : State) (n : BitVec 40) : Nat :=
  fld (s.cfg 0x18 Reg.PLC_TBL (plcHash n s.chip.plcEpoch + (if s.chip.plcBank then 256 else 0))) 5 0

/-- A frame starts in the active hive, under the settings in force (R231, R232, R254). -/
def startFrame (h : HiveId) (f : BitVec 40) (a e : Int) (s : State) : State :=
  let x := s.fr h
  let flags := bitAt (h = .b) 0 + bitAt x.takeoverFlag 1 + bitAt x.commitFlag 2 + bitAt x.resumeFlag 3
  let o : OpenFrame := { frame := f, start := a, stop := e, dest := receiverOf s f, qual := (s.hive h).tb.qual, flags := BitVec.ofNat 9 flags, fp := s.chip.fpNow, k := s.frameK, cb128 := s.cb128, raw := bit (s.cfg 0x16 Reg.CMP_CTL) 0, auto := (s.hive h).trig.autoExp, device := deviceAt s a, bl := behaviour s }
  let s := s.modFr (otherHive h) (fun y => { y with commitFlag := false, resumeFlag := false })
  s.modFr h (fun y => { y with
    commitFlag := false, resumeFlag := false
    frames := y.frames ++ [o], takeoverFlag := false, anyBuilt := true
    undelivered := y.undelivered ++ [(f, 1, some f)] })

/-! ### The region inputs (R226–R228) -/

/-- Whether a frame of a region falls from a reset of the region to its rejoin, and its own close word has not come
(16_power_reset.md R520). -/
def regionReset (s : State) (c : Nat) (o : OpenFrame) : Bool :=
  (tfind o.closes c).isNone && ((s.comb c).inReset ||
    (match (s.comb c).rejoined with | some m => decide (frameDiff o.frame m < 0) | none => false))

/-- Whether a region counts as closed for the hive: its close word is there, or its bundle is not UP, or it is parked (R174,
16_power_reset.md R508). -/
def closedFor (s : State) (h : HiveId) (o : OpenFrame) (c : Nat) : Bool :=
  (tfind o.closes c).isSome || quiet s c || regionReset s c o || decide (((s.comb c).bundle h).state ≠ 2)

def State.modSort (s : State) (h : HiveId) (c : Nat) (g : SortBuf → SortBuf) : State :=
  s.modFr h (fun x => { x with sorts := lmod x.sorts c g })

/-- A receive buffer place of a bundle frees (05_blocks_regions.md R173). -/
def freeCredit (c : Nat) (h : HiveId) (ctl : Bool) (s : State) : State :=
  s.modBundle c h (fun x => if ctl then { x with retCtl := x.retCtl + 1 } else { x with retData := x.retData + 1 })

/-- A record below its region's floor or the last released time (R227). -/
def orderDrop (h : HiveId) (c : Nat) (f : BitVec 40) (s : State) : State :=
  let s := freeCredit c h false s
  let s := s.modFrame h f (fun o => { o with order := true })
  guardEvent (raise (s.count (frmPage h) Reg.FRM_ORDER_CNT) (frmPage h) Reg.FRM_EVENTS 2) (hiveDom h) 2

/-- The latest floor of a region for a frame, as a distance from its start. -/
def floorRel (s : State) (h : HiveId) (c : Nat) (o : OpenFrame) : Nat :=
  match (lget {} (s.fr h).sorts c).floor with
  | some (f, t) => if f = o.frame then (t - o.start).toNat else 0
  | none => 0

/-- A good flit in the active hive (R172, R226, R227). -/
def hiveFlit (h : HiveId) (c : Nat) (f : Flit) (s : State) : State :=
  match (s.fr h).frames.find? (fun o => o.frame.getLsbD 0 = f.slot && (tfind o.closes c).isNone && !quiet s c && !regionReset s c o) with
  | none => freeCredit c h (isCtl f) s
  | some o =>
    match f.kind with
    | 1 =>
      let t := recTime f.payload
      let below : Bool := match o.lastTime with | some l => decide (t < l) | none => false
      if t < floorRel s h c o ∨ below then orderDrop h c o.frame s
      else
        let s := s.modSort h c (fun b => { b with
          recs := b.recs ++ [{ word := f.payload, fu := o.start + (t : Int), frame := o.frame, selected := true, poison := f.poison }] })
        s.maxReg (frmPage h) Reg.FRM_SORT_MAX (lget {} (s.fr h).sorts c).recs.length
    | 2 =>
      freeCredit c h false (s.modSort h c (fun b => { b with floor := some (o.frame, o.start + (fieldN f.payload.toNat 29 0 : Int)) }))
    | 3 => freeCredit c h true (s.modSort h c (fun b => { b with groups := b.groups ++ [[f.payload]] }))
    | 4 => freeCredit c h true (s.modSort h c (fun b => { b with groups := lmod b.groups (b.groups.length - 1) (· ++ [f.payload]) }))
    | 5 =>
      let gs := (lget {} (s.fr h).sorts c).groups
      let s := s.modFrame h o.frame (fun o => { o with closes := tput o.closes c (gs, f.payload) })
      freeCredit c h true (s.modSort h c (fun b => { b with groups := [] }))
    | _ => s

/-- Close group and close word the hive writes for a region it counts as closed (R228, 16_power_reset.md R508, R520). -/
def ownClose (c : Nat) (f : BitVec 40) (lost reset : Bool) : List (List W64) × W64 :=
  ((List.range 12).map (fun i => [BitVec.ofNat 64 (2 ^ 57 * (12 * c + i) + 2 ^ 53 * (fieldN f.toNat 3 0) + bitAt lost 1)]),
   BitVec.ofNat 64 (2 ^ 61 * c + 2 ^ 21 * f.toNat + bitAt reset 16))

/-- The hive fills in the close of a region that has sent none. -/
def fillClose (h : HiveId) (f : BitVec 40) (c : Nat) (s : State) : State :=
  let q := quiet s c
  s.modFrame h f (fun o =>
    if (tfind o.closes c).isSome then o
    else
      let r := !q && regionReset s c o
      { o with closes := tput o.closes c (ownClose c f (!q) r), bundle := o.bundle || (!q && !r) })

/-- A bundle leaves UP or comes to UP: its region is closed for every frame open while the bundle was not UP (R228, 05_blocks_regions.md
R174), and what had come of its close words is void. -/
def voidRegion (h : HiveId) (c : Nat) (s : State) : State :=
  forL ((s.fr h).frames.map (·.frame)) (fun f s => fillClose h f c s) (s.modSort h c (fun b => { b with groups := [] }))

/-- A change of a bundle of a region to a hive; where it leaves UP or comes to UP the region is void for the open frames (R228). -/
def bundleWork (h : HiveId) (c : Nat) (f : State → State) (s : State) : State :=
  let t := f s
  if decide (((s.comb c).bundle h).state = 2) != decide (((t.comb c).bundle h).state = 2) then voidRegion h c t else t

/-- A hive receives a flit; the standby counts a record and returns its credit on receipt (01_device_overview.md R24,
05_blocks_regions.md R174, R175). -/
def bridgeReceive (c : Nat) (h : HiveId) (upset : BitVec 80) (s : State) : State :=
  match bridgeTake c h upset s with
  | (t, none) => bundleWork h c (fun _ => t) s
  | (s, some f) =>
    if h = higherClaim s then hiveFlit h c f s
    else freeCredit c h (isCtl f) (if f.kind = 1 then s.modHive h (fun x => { x with accepted := x.accepted + 1 }) else s)

/-! ### The six-way merge (R224–R228, R252) -/

/-- The frame the merge serves: the oldest that has not closed (R228). -/
def mergeFrame (s : State) (h : HiveId) : Option OpenFrame := (s.fr h).frames.find? (fun o => !o.closed)

/-- The releasable record of a region with the lowest order key (R226). -/
def releasable (s : State) (h : HiveId) (o : OpenFrame) (c : Nat) : Option StoreRec :=
  let lim := if closedFor s h o c then 2 ^ 31 else floorRel s h c o
  ((lget {} (s.fr h).sorts c).recs.filter (fun r => r.frame = o.frame && decide (recTime r.word < lim))).foldl (fun m r =>
    match m with
    | none => some r
    | some q => if orderKey r.word < orderKey q.word then some r else m) none

/-- The next record in strict order, once every region has presented a later one or closed (R226, 01_device_overview.md
R29). -/
def nextRelease (s : State) (h : HiveId) : Option (OpenFrame × Nat × StoreRec) :=
  match mergeFrame s h with
  | none => none
  | some o =>
    let heads := (List.range 6).map (fun c => releasable s h o c)
    let best := (List.range 6).foldl (fun (m : Option (Nat × StoreRec)) c =>
      match lget none heads c with
      | none => m
      | some r => match m with
        | none => some (c, r)
        | some (_, q) => if orderKey r.word < orderKey q.word then some (c, r) else m) none
    match best with
    | none => none
    | some (c, r) =>
      if (List.range 6).all (fun d => (lget none heads d).isSome || closedFor s h o d || decide (recTime r.word < floorRel s h d o))
      then some (o, c, r) else none

/-- The lowest free job. -/
def freeJob (s : State) (h : HiveId) : Option Nat := (List.range 48).find? (fun j => (s.job h j).state = 0)

/-- The lowest free open-frame slot: at most 8 frames are open (R224). -/
def freeSlot (s : State) (h : HiveId) : Option Nat :=
  (List.range 8).find? (fun n => !(s.fr h).frames.any (fun o => o.slot = some n))

/-- A frame takes an open-frame slot with its first item. -/
def takeSlot (h : HiveId) (f : BitVec 40) (s : State) : State :=
  s.modFrame h f (fun o => if o.slot.isSome then o else { o with slot := freeSlot s h })

/-- The word of a place in a job's input buffer (R228, R252, 13_memory.md R410). -/
def inputAddr (j : Nat) (buf : Bool) (i : Nat) : Nat := 0x40000 + (Config.inputWord j buf i).val

/-- The merge writes records into an input buffer (R228). -/
def bufferFill (h : HiveId) (j : Nat) (buf : Bool) (recs : List StoreRec) (s : State) : State :=
  forL (List.zip (List.range recs.length) recs) (fun e s => (hWrite s h agEngine (inputAddr j buf e.1) e.2.word).1) s

/-- An engine reads the records of a job's present input buffer that it has not read: each as the honey store gives it, poison included
(R240, R252). -/
def bufferRead (h : HiveId) (j : Nat) (s : State) : State :=
  let b := s.job h j
  let first := max b.read (b.recs.length - b.present)
  let base := b.recs.length - b.present
  let (s, got, bad) := (List.zip (List.range b.recs.length) b.recs).foldl (fun (acc : State × List StoreRec × Bool) e =>
    if e.1 < first then (acc.1, acc.2.1 ++ [e.2], acc.2.2)
    else
      let (s, x, p) := hRead acc.1 h agEngine (inputAddr j b.buf (e.1 - base))
      (s, acc.2.1 ++ [{ e.2 with word := x, poison := p || (b.cb && e.2.poison) }], acc.2.2 || p)) (s, [], b.poisoned)
  s.setJob h j { s.job h j with recs := got, read := got.length, poisoned := bad }

/-- The CB-128 source of a record. -/
abbrev sourceOf (w : W64) : Nat := recCell w / 128

/-- The job of a CB-128 source of a frame. -/
def cbJob (s : State) (h : HiveId) (f : BitVec 40) (i : Nat) : Option Nat :=
  (List.range 48).find? (fun j => let b := s.job h j; b.state ≠ 0 && b.cb && b.frame = f && b.index = i)

/-- A job for a CB-128 source, if there is none yet and one is free. -/
def cbOpen (h : HiveId) (o : OpenFrame) (i : Nat) (s : State) : State :=
  if (cbJob s h o.frame i).isSome then s
  else match freeJob s h with
    | none => s
    | some j => s.setJob h j { state := 1, frame := o.frame, index := i, cb := true, ended := false, device := o.device }

/-- A CB-128 job takes its next input buffer once the present one is coded, if that is full or the last (R252). -/
def cbFeed (h : HiveId) (f : BitVec 40) (i : Nat) (s : State) : State :=
  match (s.fr h).frames.find? (fun o => o.frame = f), cbJob s h f i with
  | some o, some j =>
    let b := s.job h j
    let next := lget [] o.cbs i
    if b.present ≠ 0 ∨ b.ended then s
    else if next.length ≥ 4096 ∨ (o.closed ∧ next ≠ []) then
      let s := s.setJob h j { b with recs := b.recs ++ next, present := next.length, buf := !b.buf, ended := o.closed }
      bufferFill h j (!b.buf) next (s.modFrame h f (fun o => { o with cbs := lset o.cbs i [] }))
    else if o.closed then s.setJob h j { b with ended := true }
    else s
  | _, _ => s

/-- A full or last run becomes a job (R228). -/
def cutRun (h : HiveId) (f : BitVec 40) (s : State) : State :=
  match (s.fr h).frames.find? (fun o => o.frame = f), freeJob s h with
  | some o, some j =>
    if o.run = [] then s
    else
      let s := s.setJob h j { state := 1, frame := f, index := o.runs, raw := o.raw, recs := o.run, present := o.run.length, device := o.device }
      bufferFill h j false o.run (s.modFrame h f (fun o => { o with run := [], runs := o.runs + 1 }))
  | _, _ => s

/-- Whether the merge can pass a record on: an open-frame slot, and a job where one is needed (R224, R252). -/
def canTake (s : State) (h : HiveId) (o : OpenFrame) (r : StoreRec) : Bool :=
  o.abandoned || ((o.slot.isSome || (freeSlot s h).isSome) &&
    (if o.cb128 then
      match cbJob s h o.frame (sourceOf r.word) with
      | some j => decide ((lget [] o.cbs (sourceOf r.word)).length < 4096) || decide ((s.job h j).present = 0)
      | none => (freeJob s h).isSome
    else decide (o.run.length < 4096) || (freeJob s h).isSome))

/-- Whether the merge holds a record back for lack of a job or of an open-frame slot. -/
def mergeStalled (s : State) (h : HiveId) : Bool :=
  match nextRelease s h with
  | some (o, _, r) => !canTake s h o r
  | none => false

/-- The merge releases the lowest record in strict order (R226, R228, R252). -/
def sortRelease (s : State) : State :=
  let h := higherClaim s
  match nextRelease s h with
  | none => s
  | some (o, c, r) =>
    if !canTake s h o r then raise s (frmPage h) Reg.FRM_EVENTS 16
    else
      let s := freeCredit c h false (s.modSort h c (fun b => { b with recs := b.recs.erase r }))
      if o.abandoned then s
      else
        let s := takeSlot h o.frame s
        let note (o : OpenFrame) : OpenFrame := { o with records := o.records + 1, lastKey := some (orderKey r.word), lastTime := some (recTime r.word) }
        if o.cb128 then
          let i := sourceOf r.word
          let s := cbFeed h o.frame i (cbOpen h o i s)
          let s := s.modFrame h o.frame (fun o => note { o with cbs := lmod o.cbs i (· ++ [r]) })
          cbFeed h o.frame i s
        else
          let s := if o.run.length ≥ 4096 then cutRun h o.frame s else s
          let s := s.modFrame h o.frame (fun o => note { o with run := o.run ++ [r] })
          if o.run.length = 4095 then cutRun h o.frame s else s

/-! ### Hive close (R178, R228) -/

/-- The active hive closes its oldest frame once it holds all six region close words and no record waits (R178, R228). -/
def hiveClose (s : State) : State :=
  let h := higherClaim s
  match mergeFrame s h with
  | none => s
  | some o =>
    let waits := (s.fr h).sorts.any (fun b => b.recs.any (fun r => r.frame = o.frame))
    if o.drainTick.isNone ∨ waits ∨ !((List.range 6).all (fun c => closedFor s h o c)) then s
    else if !o.abandoned ∧ o.slot.isNone ∧ (freeSlot s h).isNone then s
    else if !o.abandoned ∧ !o.cb128 ∧ o.run ≠ [] ∧ (freeJob s h).isNone then s
    else
      let need := ((List.range 9).filter (fun i => (cbJob s h o.frame i).isNone)).length
      let free := ((List.range 48).filter (fun j => (s.job h j).state = 0)).length
      if !o.abandoned ∧ o.cb128 ∧ need > free then s
      else
        let drain := min 65535 ((s.tick - o.drainTick.getD s.tick) / 8)
        let s := forN 6 (fillClose h o.frame) s
        if o.abandoned then s.modFr h (fun x => { x with frames := x.frames.filter (fun q => q.frame ≠ o.frame) })
        else
          let s := takeSlot h o.frame s
          let s := s.modFrame h o.frame (fun q => { q with closed := true, drain := drain, lost := decide ((s.fr h).lostRanges ≠ []) })
          if o.cb128 then
            let s := s.modFr h (fun x => { x with lostRanges := x.lostRanges.drop 15 })
            forN 9 (fun i s => cbFeed h o.frame i (cbFeed h o.frame i (cbOpen h o i s))) s
          else cutRun h o.frame s

/-! ### HEAD units (R229–R234) -/

/-- A list put in order by a rank. -/
def sortOn {α : Type} (rank : α → Nat) (l : List α) : List α :=
  l.foldr (fun x acc => acc.takeWhile (fun y => rank y < rank x) ++ x :: acc.dropWhile (fun y => rank y < rank x)) []

/-- The triggers a frame lists, in order (R214, R217, R234). -/
def listedIn (t : Trig) (o : OpenFrame) : List Decision :=
  let ds := t.decided.filter (fun d => decide (d.lo < o.stop ∧ o.start ≤ d.hi))
  let base := ds.foldl (fun m d => min m d.t) o.start
  sortOn (fun d => 2 ^ 35 * ((d.t - base).toNat) + 2 ^ 32 * d.line + d.seq.toNat) ds

/-- The two words of a trigger-list entry (R233). -/
def triggerEntry (s : State) (o : OpenFrame) (d : Decision) : List W64 :=
  let split := decide (d.lo < o.start ∨ o.stop ≤ d.hi)
  let delta := (frameOf s d.t - o.frame).extractLsb' 0 8
  [BitVec.ofNat 64 (2 ^ 61 * d.line + bitAt d.host 60 + bitAt d.trunc 59 + bitAt split 58 + 2 ^ 52 * (min d.origins 63)
     + d.prim % 2 ^ 11 * 2 ^ 41 + 2 ^ 30 * delta.toNat + frameRel s d.t),
   BitVec.ofNat 64 (2 ^ 48 * d.pre + 2 ^ 32 * d.post + d.seq.toNat)]

/-- The words of a HEAD unit (R231–R234). -/
def headWords (o : OpenFrame) (entries : List (List W64)) : List W64 :=
  let tw := timeWordOf o.start o.qual
  [BitVec.ofNat 64 (2 ^ 60 + 2 ^ 48 * o.device.toNat + 2 ^ 44 * o.bl + o.frame.toNat),
   tw.extractLsb' 32 64,
   BitVec.ofNat 64 (2 ^ 32 * ((tw.extractLsb' 0 32).toNat) + 2 ^ 16 * o.fp.toNat + o.k * 2 ^ 11 + o.qual.sync * 2 ^ 9 + o.flags.toNat),
   BitVec.ofNat 64 (2 ^ 50 * entries.length)] ++ entries.flatten

/-- A committed unit waits for placement (08_queues_placement.md R280). -/
def addUnit (h : HiveId) (o : OpenFrame) (queue rank pos len : Nat) (s : State) : State :=
  s.modHive h (fun x => { x with place := { x.place with
    waiting := x.place.waiting ++ [{ rcv := o.dest, frame := o.frame, rank := rank, order := x.place.arrivals, queue := queue, pos := pos, len := len }]
    arrivals := x.place.arrivals + 1 } })

/-- The HEAD unit of the oldest frame without one is committed once H has passed the frame end (R229, R281). -/
def headCommit (s : State) : State :=
  let h := higherClaim s
  match (s.fr h).frames.find? (fun o => !o.headDone && !o.cb128 && !o.abandoned) with
  | none => s
  | some o =>
    if 8000 * ((s.hive h).trig.h) < o.stop then s
    else
      let s := takeSlot h o.frame s
      match ((s.fr h).frames.find? (fun q => q.frame = o.frame)).bind (·.slot) with
      | none => s
      | some n =>
        let all := listedIn (s.hive h).trig o
        let entries := (all.take 16383).map (triggerEntry s o)
        let (s, r, c) := qPut s h (80 + n) .device (headWords o entries)
        match r, c with
        | 0, some (pos, len) =>
          let s := addUnit h o (80 + n) 0 pos len s
          let lost := all.length - 16383
          let s := s.modFrame h o.frame (fun q => { q with headDone := true, unlisted := lost })
          let s := s.modHive h (fun x => { x with trig := { x.trig with decided := x.trig.decided.filter (fun d => decide (o.stop ≤ d.hi)) } })
          let s := if o.flags.getLsbD 1 ∨ o.flags.getLsbD 3 then
              s.modHive h (fun x => { x with place := { x.place with restart := (List.range 64).map (fun i => (i, (o.frame, (0 : BitVec 32)))) } })
            else s
          if lost = 0 then s else raise (s.count (frmPage h) Reg.FRM_UNLISTED_CNT lost) (frmPage h) Reg.FRM_EVENTS 1
        | _, _ => s

/-! ### Jobs (R235–R244, R249–R253) -/

/-- FLAGS of a block's length word in a frame's close words. -/
def blockFlags (o : OpenFrame) (b : Nat) : Nat :=
  fieldN (((tget ([], 0) o.closes (b / 12)).1.getD (b % 12) []).headD 0).toNat 7 0

/-- MUTES of a block in a frame's close words. -/
def blockMutes (o : OpenFrame) (b : Nat) : Nat :=
  fieldN (((tget ([], 0) o.closes (b / 12)).1.getD (b % 12) []).headD 0).toNat 12 8

/-- The trailer of a CB-128 source frame (R250, R251). -/
def cbTail (o : OpenFrame) (i : Nat) (recs : List StoreRec) : List Bool :=
  let f (n : Nat) : Bool := (List.range 8).any (fun j => (blockFlags o (8 * i + j)).testBit n)
  let flags := bitAt (f 0) 0 + bitAt (f 1) 1 + bitAt (f 2) 2 + bitAt (f 3 || recs.any (·.poison)) 3 + bitAt o.lost 4 + bitAt (decide (o.auto > 0)) 5
  cbTrailer flags ((List.range 8).map (fun j => blockMutes o (8 * i + j))).sum recs.length

/-- The words a job has ready: all of them for a compressed block, for a source frame those its buffers fill, and all once it
has ended. The second part is where each record's code ends, in bits of the payload. -/
def jobWords (s : State) (h : HiveId) (b : Job) : List W64 × Bool × List Nat :=
  if !b.cb then compressedBlock b.raw b.device b.frame b.index b.recs
  else
    let bits := cbBits b.device b.frame b.index b.recs
    let ends := (List.range b.recs.length).map (fun i => 48 * (i + 2))
    if b.ended then
      match (s.fr h).frames.find? (fun o => o.frame = b.frame) with
      | some o => let all := bits ++ cbTail o b.index b.recs; (packBits (all.length / 64 + 1) all, false, ends)
      | none => ([], false, ends)
    else (packBits (bits.length / 64) bits, false, ends)

/-- Words of a unit before its payload. -/
abbrev unitHeader (cb : Bool) : Nat := if cb then 0 else 3

/-- Input words fully coded in the output written (R242). -/
def codedIn (cb : Bool) (ends : List Nat) (out : Nat) : Nat := (ends.filter (fun e => e ≤ 64 * (out - unitHeader cb))).length

/-- A job that cannot reserve is paused (R242). -/
def pauseJob (h : HiveId) (j : Nat) (s : State) : State :=
  let b := s.job h j
  let (_, _, ends) := jobWords s h b
  let s := s.setJob h j { b with state := 3, resumable := false, inWords := codedIn b.cb ends b.outWords }
  raise (s.count (cmpPage h) Reg.CMP_PAUSE_CNT) (cmpPage h) Reg.CMP_EVENTS 1

/-- A job whose unit is too big for its queue ends (R253). -/
def tooBigJob (h : HiveId) (j : Nat) (s : State) : State :=
  let f := (s.job h j).frame
  let s := raise (s.count (cmpPage h) Reg.CMP_TOOBIG_CNT) (cmpPage h) Reg.CMP_EVENTS 8
  abandon s h f

/-- Words written by a job as far as its reservation reaches; false where a write was refused. -/
def writeWords (h : HiveId) (j : Nat) (ws : List W64) (s : State) : State × Bool :=
  ws.foldl (fun (s, ok) w =>
    if !ok then (s, ok) else
    let (s, r) := qWrite s h (32 + j) .device w
    (s, r = qOk)) (s, true)

/-- A running job reserves 64 words at a time and writes them, until its words are written or it must stop (R242). -/
def runJob (h : HiveId) (j : Nat) (ws : List W64) : Nat → State → State
  | 0, s => s
  | n + 1, s =>
    let b := s.job h j
    if b.state ≠ 2 ∨ b.outWords ≥ ws.length then s
    else if b.outWords < b.reserved then
      let part := (ws.drop b.outWords).take (b.reserved - b.outWords)
      let (s, ok) := writeWords h j part s
      let b := s.job h j
      if ok then runJob h j ws n (s.setJob h j { b with outWords := b.outWords + part.length })
      else s.setJob h j b.restart
    else
      let (s, r) := qReserve s h (32 + j) .device 64
      let b := s.job h j
      if r = qOk then runJob h j ws n (s.setJob h j { b with reserved := b.reserved + 64 })
      else if r = qTooBig then tooBigJob h j s
      else pauseJob h j s

/-- Whether a job may run: queued with input, or resumable. -/
def eligibleJob (b : Job) : Bool :=
  (b.state = 1 && (!b.cb || decide (b.present ≠ 0) || b.ended)) || (b.state = 3 && b.resumable)

/-- The eligible job with the lowest frame, then the lowest INDEX (R241). -/
def nextJob (s : State) (h : HiveId) : Option Nat :=
  (List.range 48).foldl (fun (m : Option Nat) j =>
    let b := s.job h j
    if !eligibleJob b then m
    else match m with
      | none => some j
      | some q =>
        let a := s.job h q
        let d := frameDiff b.frame a.frame
        if d < 0 ∨ (d = 0 ∧ b.index < a.index) then some j else m) none

/-- Engines running a job. -/
def runningJobs (s : State) (h : HiveId) : Nat := ((List.range 48).filter (fun j => (s.job h j).state = 2)).length

/-- Whether the budget arbiter defers compression: from its second throttle step on (R243, 16_power_reset.md R514). -/
def deferring (s : State) : Bool := decide (2 ≤ s.chip.throttle)

/-- An engine takes the next job, reads its input buffer and codes it as far as its queue lets it (R240–R243). -/
def jobStart (s : State) : State :=
  let h := higherClaim s
  if deferring s ∨ runningJobs s h ≥ 6 then s
  else match nextJob s h with
    | none => s
    | some j =>
      let s := s.setJob h j { s.job h j with state := 2, resumable := false }
      let s := if (s.job h j).read < (s.job h j).recs.length then bufferRead h j s else s
      let b := s.job h j
      let (ws, _, ends) := jobWords s h b
      let s := runJob h j ws (2 * ws.length / 64 + 4) s
      let b := s.job h j
      if b.state ≠ 2 then s
      else
        let s := s.setJob h j { b with inWords := codedIn b.cb ends b.outWords, present := if b.cb then 0 else b.present, state := if b.cb ∧ !b.ended then 1 else 2 }
        if b.cb then cbFeed h b.frame b.index s else s

/-- A paused job becomes resumable when its queue can grant the next 64 words (R242). -/
def jobResumable (j : Nat) (s : State) : State :=
  let h := higherClaim s
  let b := s.job h j
  if b.state ≠ 3 ∨ b.resumable then s
  else
    let (s, d) := qDesc s h (32 + j)
    let b := s.job h j
    let need := if (s.queue h (32 + j)).opened.isSome then 64 else 65
    if b.state = 3 ∧ qEnabled s h (32 + j) d.d0 ∧ d.space ≥ need then s.setJob h j { b with resumable := true } else s

/-- A frame leaves the output stage (R229, R255). -/
def frameDone (h : HiveId) (o : OpenFrame) (s : State) : State :=
  let s := s.modFr h (fun x => { x with frames := x.frames.filter (fun q => q.frame ≠ o.frame) })
  let s := s.setReg64 (frmPage h) Reg.FRM_LAST_LO o.frame.toNat
  let s := s.setReg (frmPage h) Reg.FRM_LAST_RECORDS (w32 (o.records % 2 ^ 24))
  let s := s.maxReg (frmPage h) Reg.FRM_DRAIN_MAX o.drain
  s.modHive h (fun x => { x with
    trig := { x.trig with
      refused := terase x.trig.refused o.frame.toNat, late := terase x.trig.late o.frame.toNat
      decided := if o.cb128 then x.trig.decided.filter (fun d => decide (o.stop ≤ d.hi)) else x.trig.decided } })

/-- A job whose words are all written commits its unit (R229, R250). -/
def jobComplete (j : Nat) (s : State) : State :=
  let h := higherClaim s
  let b := s.job h j
  let (ws, isRaw, _) := jobWords s h b
  if b.state ≠ 2 ∨ !b.ended ∨ b.outWords < ws.length ∨ ws = [] then s
  else match (s.fr h).frames.find? (fun o => o.frame = b.frame) with
    | none => s
    | some o =>
      if b.cb ∧ o.cbSent ≠ b.index then s
      else
        let (s, r, c) := qCommit s h (32 + j) .device
        match r, c with
        | 0, some (pos, len) =>
          let bad := b.recs.any (·.poison)
          let s := addUnit h o (32 + j) (if b.cb then 1 + b.index else 1) pos len s
          let s := s.setJob h j {}
          let s := s.modFrame h o.frame (fun q => { q with cblocks := q.cblocks + 1, poison := q.poison || bad, cbSent := if b.cb then q.cbSent + 1 else q.cbSent })
          let s := s.modFr h (fun x => { x with
            recTotal := x.recTotal + BitVec.ofNat 64 b.recs.length, wordTotal := x.wordTotal + BitVec.ofNat 64 (ws.length - unitHeader b.cb) })
          let s := s.count (cmpPage h) Reg.CMP_JOB_CNT
          let s := if isRaw then s.count (cmpPage h) Reg.CMP_RAW_CNT else s
          let s := if b.poisoned then raise (s.count (cmpPage h) Reg.CMP_POISON_CNT) (cmpPage h) Reg.CMP_EVENTS 2 else s
          if b.cb ∧ b.index = 8 then frameDone h o s else s
        | _, _ =>
          let b := s.job h j
          if b.state = 2 then s.setJob h j b.restart else s

/-! ### Trailers (R245–R248) -/

/-- The close groups a trailer carries (R247). -/
def blockNotes (o : OpenFrame) : List (List W64) :=
  ((List.range 6).flatMap (fun c => (tget ([], 0) o.closes c).1)).filter (fun g =>
    let w := (g.headD 0).toNat
    decide (fieldN w 7 0 ≠ 0 ∨ fieldN w 28 13 ≠ 0 ∨ fieldN w 12 8 ≠ 0))

/-- FLAGS of a region close word. -/
abbrev regionFlags (w : W64) : Nat := fieldN w.toNat 20 13

/-- The words of a TRAIL unit (R245–R247). -/
def trailWords (o : OpenFrame) (refused late : Nat) (notes : List (BitVec 40 × Nat)) : List W64 :=
  let lens := (List.range 6).flatMap (fun c => (tget ([], 0) o.closes c).1)
  let bn := blockNotes o
  let words := (List.range 6).map (fun c => (tget ([], 0) o.closes c).2)
  let rn := words.filter (fun w => regionFlags w ≠ 0)
  let f (n : Nat) : Bool := lens.any (fun g => (g.headD 0).getLsbD n)
  let rf (n : Nat) : Bool := words.any (fun w => w.getLsbD (13 + n))
  let muted := lens.any (fun g => decide (fieldN (g.headD 0).toNat 12 8 ≠ 0))
  let flags := bitAt (f 0) 0 + bitAt (f 1) 1 + bitAt (f 2 || rf 0) 2 + bitAt (f 3 || o.poison) 3 + bitAt (f 4) 4 + bitAt muted 5
    + bitAt (rf 1) 6 + bitAt (rf 2) 7 + bitAt (rf 3) 8 + bitAt (decide (notes ≠ [])) 9 + bitAt (decide (o.unlisted ≠ 0)) 10
    + bitAt o.order 11 + bitAt o.bundle 12
  let drop := (lens.map (fun g => fieldN (g.headD 0).toNat 28 13)).sum
  let cutOf (g : List W64) : Nat :=
    if (g.headD 0).getLsbD 2 then fieldN ((g.getD (if (g.headD 0).getLsbD 0 then 2 else 1) 0)).toNat 31 0 else 0
  let cut := (lens.map cutOf).sum
  [BitVec.ofNat 64 (4 * 2 ^ 60 + 2 ^ 48 * o.device.toNat + o.frame.toNat),
   BitVec.ofNat 64 (2 ^ 52 * (min o.cblocks 4095) + 2 ^ 28 * (min o.records (2 ^ 24 - 1)) + 2 ^ 21 * bn.length + 2 ^ 18 * rn.length
     + 2 ^ 14 * notes.length + o.auto * 2 ^ 10),
   BitVec.ofNat 64 (2 ^ 48 * flags + 2 ^ 32 * o.drain + min refused (2 ^ 32 - 1)),
   BitVec.ofNat 64 (2 ^ 32 * (min late (2 ^ 32 - 1)) + min o.unlisted (2 ^ 32 - 1)),
   BitVec.ofNat 64 (2 ^ 32 * (min drop (2 ^ 32 - 1)) + min cut (2 ^ 32 - 1))]
  ++ bn.flatten ++ rn ++ notes.map (fun n => BitVec.ofNat 64 (2 ^ 24 * n.1.toNat + n.2))

/-- The TRAIL unit of a frame whose other units are all committed (R229, R245–R248). -/
def trailerCommit (s : State) : State :=
  let h := higherClaim s
  let busy (f : BitVec 40) : Bool := (List.range 48).any (fun j => (s.job h j).state ≠ 0 && (s.job h j).frame = f)
  match (s.fr h).frames.find? (fun o => o.closed && o.headDone && !o.cb128 && !o.abandoned && decide (o.run = []) && !busy o.frame) with
  | none => s
  | some o =>
    match o.slot with
    | none => s
    | some n =>
      let t := (s.hive h).trig
      let notes := (s.fr h).lostRanges.take 15
      let (s, r, c) := qPut s h (80 + n) .device (trailWords o (tget 0 t.refused o.frame.toNat) (tget 0 t.late o.frame.toNat) notes)
      match r, c with
      | 0, some (pos, len) =>
        let s := addUnit h o (80 + n) 10 pos len s
        let s := frameDone h o s
        let s := s.modFr h (fun x => { x with
          lostRanges := x.lostRanges.drop 15
          undelivered := x.undelivered.map (fun u => if u.2.2.isNone ∧ notes.any (fun r => decide ((u.1 - r.1).toNat < r.2)) then (u.1, u.2.1, some o.frame) else u) })
        if notes = [] then s
        else raise (s.count (frmPage h) Reg.FRM_LOST_CNT (notes.map (·.2)).sum) (frmPage h) Reg.FRM_EVENTS 4
      | _, _ => s

/-! ### Status registers (R256, R258): those of the standby stay at 0 -/

def frmStatus (s : State) (h : HiveId) : W32 :=
  let cbOn := bit (s.cfg 0x15 Reg.FRM_CTL) 0
  let act := decide (h = higherClaim s)
  w32 ((((s.fr h).frames.filter (fun o => o.slot.isSome)).length) + bitAt (act && s.cb128) 4 + bitAt (act && cbOn && decide (s.frameK ≠ 16)) 5
    + bitAt (act && s.framing) 6)

def cmpStatus (s : State) (h : HiveId) : W32 :=
  let js := (List.range 48).map (fun j => (s.job h j).state)
  w32 ((js.filter (· ≠ 0)).length + (js.filter (· = 3)).length * 2 ^ 8 + 2 ^ 16 * ((js.filter (· = 2)).length) + bitAt (decide (h = higherClaim s) && deferring s) 19)

def jobState (s : State) (h : HiveId) (j : Nat) : W32 :=
  let b := s.job h j
  if j ≥ 48 ∨ b.state = 0 then 0
  else
    let next := match (s.fr h).frames.find? (fun o => o.frame = b.frame) with | some o => (lget [] o.cbs b.index).length | none => 0
    w32 (b.state + bitAt b.resumable 2 + bitAt b.cb 3 + b.index % 2 ^ 12 * 2 ^ 4
      + 2 ^ 16 * (if b.cb then (if b.present = 0 then next else b.present) else b.recs.length))

/-! ### The commands of this chapter that name no access path, and the bridge's receiver -/

/-- Frame building stops once the device is fatal (14_redundancy_faults.md R463). -/
def whileBuilding (f : State → State) (s : State) : State := if s.fatal then s else f s

def execBridgeFlitReceive (comb : Fin 6) (h : HiveId) (upset : BitVec 80) (s : State) : Host.Outcome State Fault Refusal :=
  done s (bridgeReceive comb.val h upset s)
def execSortRelease (s : State) : Host.Outcome State Fault Refusal := done s (whileBuilding sortRelease s)
def execHiveClose (s : State) : Host.Outcome State Fault Refusal := done s (whileBuilding hiveClose s)
def execHeadCommit (s : State) : Host.Outcome State Fault Refusal := done s (whileBuilding headCommit s)
def execJobStart (s : State) : Host.Outcome State Fault Refusal := done s (whileBuilding jobStart s)
def execJobResumable (j : Fin 48) (s : State) : Host.Outcome State Fault Refusal := done s (jobResumable j.val s)
def execJobComplete (j : Fin 48) (s : State) : Host.Outcome State Fault Refusal := done s (whileBuilding (jobComplete j.val) s)
def execTrailerCommit (s : State) : Host.Outcome State Fault Refusal := done s (whileBuilding trailerCommit s)
def execDrainDeadline (s : State) : Host.Outcome State Fault Refusal := done s (combDeadline s)

end Sys2Proof.Machine
end

