-- ==== Sys2Proof/Machine/Placement.lean ====
section
/-! DEFINITION. Placement (08_queues_placement.md R276–R290): table switch, frame units on lanes, the dump, worker jobs. -/

namespace Sys2Proof.Machine

/-- A configuration register of the PLC_ page. -/
abbrev plcCfg (s : State) (off : Nat) (i : Nat := 0) : W32 := s.cfg 0x18 off i
/-- The PLC_ page of a hive. -/
abbrev plcPage (h : HiveId) : Nat := hivePage h 0x18
def State.modPlace (s : State) (h : HiveId) (f : Place → Place) : State := s.modHive h (fun x => { x with place := f x.place })

/-! ### The table switch (R277, 11_systems.md R369, R370) -/

/-- ARM of a switch. -/
def plcArm (s : State) : State :=
  let f := BitVec.ofNat 40 (s.reg64 (cfgPage 0x18) Reg.PLC_SWITCH_FRAME_LO)
  if frameDiff f s.frameNow ≤ 0 then
    let s := if s.chip.plcArmed.isSome then s else s.modChip (fun c => { c with plcState := 3 })
    schedExpired (raise s (plcPage (higherClaim s)) Reg.PLC_EVENTS 2)
  else s.modChip (fun c => { c with plcArmed := some f, plcState := 1 })

/-- DISARM of a switch. -/
def plcDisarm (s : State) : State :=
  if s.chip.plcArmed.isSome then s.modChip (fun c => { c with plcArmed := none, plcState := 0 }) else s

/-- The other bank and the new epoch come into force. -/
def plcSwitch (s : State) : State :=
  let s := s.modChip (fun c => { c with
    plcBank := !c.plcBank, plcEpoch := (plcCfg s Reg.PLC_EPOCH_NEXT).extractLsb' 0 16, plcArmed := none, plcState := 2 })
  raise s (plcPage (higherClaim s)) Reg.PLC_EVENTS 1

/-- A pending switch is refused EXPIRED at a boundary that renumbers the frames (11_systems.md R372). -/
def plcExpire (s : State) : State :=
  if s.chip.plcArmed.isNone then s
  else schedExpired (raise (s.modChip (fun c => { c with plcArmed := none, plcState := 3 })) (plcPage (higherClaim s)) Reg.PLC_EVENTS 2)

/-! ### Lanes in placement (R279) -/

/-- LNK_CFG in force: role, TIMING, AUTO_TRAIN (09_lanes.md R325). -/
abbrev laneRole (s : State) (l : Nat) : Nat := fld (s.reg (lanePage l) Reg.LNK_CFG) 1 0
abbrev laneTiming (s : State) (l : Nat) : Bool := bit (s.reg (lanePage l) Reg.LNK_CFG) 2
abbrev laneAuto (s : State) (l : Nat) : Bool := bit (s.reg (lanePage l) Reg.LNK_CFG) 3

/-- A lane in placement. -/
def inPlacement (s : State) (l : Nat) : Bool :=
  let x := s.lane l
  decide (laneRole s l = 1) && decide (x.state = .up) && x.txAwake && !s.chip.removed.contains l

/-- Identifier, EN and lane mask of a receiver. -/
abbrev rcvId (s : State) (r : Nat) : BitVec 16 := (plcCfg s Reg.PLC_RCV_ID r).extractLsb' 0 16
abbrev rcvEn (s : State) (r : Nat) : Bool := bit (plcCfg s Reg.PLC_RCV_ID r) 16
abbrev rcvLane (s : State) (r l : Nat) : Bool := bit (plcCfg s Reg.PLC_RCV_LANES r) l

/-- The lanes eligible for a receiver. -/
def eligibleLanes (s : State) (r : Nat) : List Nat := (List.range 20).filter (fun l => inPlacement s l && rcvLane s r l)

/-- Words of frame units placed on a lane and not yet acknowledged (R280). -/
def laneLoad (x : Lane) : Nat :=
  ((x.waiting ++ x.retry).map (fun p => match p.load with | .unit _ _ _ => p.payload.length | _ => 0)).sum

/-- The least-loaded lane of a list, the lower number on a tie. -/
def leastLoaded (s : State) : List Nat → Option Nat
  | [] => none
  | l :: ls => some (ls.foldl (fun m n => if laneLoad (s.lane n) < laneLoad (s.lane m) then n else m) l)

/-! ### Credit (R281) -/

/-- The most credit a receiver can hold (R259). -/
abbrev creditMax : Nat := 2 ^ 31 - 1
/-- The credit every receiver starts with. -/
def creditInit (s : State) : Nat := min creditMax (plcCfg s Reg.PLC_RCV_INIT).toNat
def creditOf (s : State) (h : HiveId) (r : Nat) : Nat := (tfind (s.hive h).place.credit r).getD (creditInit s)
def setCredit (h : HiveId) (r n : Nat) (s : State) : State := s.modPlace h (fun p => { p with credit := tput p.credit r (min creditMax n) })

/-- Every receiver's credit starts at PLC_RCV_INIT. -/
def creditStart (h : HiveId) (s : State) : State :=
  s.modPlace h (fun p => { p with credit := (List.range 64).map (fun r => (r, creditInit s)) })

/-! ### Order of units (R280) -/

/-- Whether a unit comes before another. -/
def unitBefore (a b : PUnit) : Bool :=
  let d := frameDiff a.frame b.frame
  decide (d < 0) || (decide (d = 0) && (decide (a.rank < b.rank) || (decide (a.rank = b.rank) && decide (a.order < b.order))))

/-- The first unit of a list in placement's order. -/
def firstUnit : List PUnit → Option PUnit
  | [] => none
  | u :: us => some (us.foldl (fun m v => if unitBefore v m then v else m) u)

/-- The unit placement takes next for a receiver: none while an earlier frame of the receiver, or the HEAD of the unit's own
frame, is not yet there. -/
def nextUnit (s : State) (h : HiveId) (r : Nat) : Option PUnit :=
  match firstUnit ((s.hive h).place.waiting.filter (fun u => decide (u.rcv = r) && u.words.isEmpty)) with
  | none => none
  | some u =>
    let held := (s.fr h).frames.any (fun o => !o.abandoned && decide (o.dest = r) &&
      (decide (frameDiff o.frame u.frame < 0) || (decide (o.frame = u.frame) && !o.cb128 && decide (u.rank ≠ 0) && !o.headDone)))
    if held then none else some u

/-- Units taken back that wait to be placed again (R282). -/
def takenBack (s : State) (h : HiveId) (r : Nat) : List PUnit :=
  (s.hive h).place.waiting.filter (fun u => decide (u.rcv = r) && !u.words.isEmpty)

/-- Words of the units that wait for a receiver. -/
def waitingWords (s : State) (h : HiveId) (r : Nat) : Nat :=
  (((s.hive h).place.waiting.filter (fun u => decide (u.rcv = r))).map (·.len)).sum

/-! ### Placing (R280, R282, 09_lanes.md R308) -/

/-- The parts of a list of words, 126 words each. -/
def chunks (ws : List W64) : List (List W64) := (List.range ((ws.length + 125) / 126)).map (fun i => (ws.drop (126 * i)).take 126)

/-- The DATA packets of a unit or a dump packet. -/
def dataPackets (mk : Bool → Bool → Load) (id : BitVec 16) (ws : List W64) : List TxPacket :=
  let cs := chunks ws
  (List.zip (List.range cs.length) cs).map (fun (i, c) =>
    { ptype := 1, load := mk (decide (i = 0)) (decide (i + 1 = cs.length)), rcv := id, payload := c })

/-- A unit put on a lane. -/
def putUnit (l : Nat) (u : PUnit) (s : State) : State :=
  s.modLane l (fun x => { x with waiting := x.waiting ++ dataPackets (fun a b => .unit u a b) (rcvId s u.rcv) u.words })

/-- HEAD of a queue moved over the packets at its front that have been placed. -/
def freeFront (h : HiveId) (q : Nat) : Nat → State → State
  | 0, s => s
  | n + 1, s =>
    let (s, d) := qDesc s h q
    match (s.queue h q).freed.find? (fun f => f.1 = d.head.toNat) with
    | none => s
    | some f =>
      let s := s.modQueue h q (fun x => { x with freed := x.freed.erase f })
      freeFront h q n (qRelease s h q f.2).1

/-- A committed unit's words taken from its queue, whose space frees. -/
def takeUnit (h : HiveId) (u : PUnit) (s : State) : State × List W64 :=
  let (s, d) := qDesc s h u.queue
  let (s, ws) := (List.range u.len).foldl (fun (s, ws) i =>
    let (s, w, _) := hRead s h agLane (ringAddr d.d0 (BitVec.ofNat 32 (u.pos + 1 + i)))
    (s, ws ++ [w])) (s, [])
  let s := s.modQueue h u.queue (fun x => { x with freed := x.freed ++ [(u.pos, u.len + 1)] })
  (freeFront h u.queue (s.queue h u.queue).freed.length s, ws)

/-- Whether a receiver can take units; an episode without a lane is noted once (R280). -/
def rcvOpen (h : HiveId) (r : Nat) (s : State) : State × Bool :=
  if !rcvEn s r || (eligibleLanes s r).isEmpty then
    if (s.hive h).place.noLane.contains r then (s, false)
    else (raise (s.modPlace h (fun p => { p with noLane := r :: p.noLane })) (plcPage h) Reg.PLC_EVENTS 8, false)
  else (s.modPlace h (fun p => { p with noLane := p.noLane.filter (· ≠ r) }), true)

/-- Whether frame units are placed at all (R289, 14_redundancy_faults.md R463). -/
def placing (s : State) : Bool := bit (plcCfg s Reg.PLC_CTL) 0 && !s.fatal

/-- Placement takes the next unit of a receiver. A queue whose pointers disagree resets as placement comes to it, and its units are
gone (R269). -/
def unitPlace (r : Nat) (s : State) : State :=
  let h := higherClaim s
  if !placing s ∨ takenBack s h r ≠ [] then s
  else match nextUnit s h r with
    | none => s
    | some u =>
      match rcvOpen h r (qDesc s h u.queue).1 with
      | (s, false) => s
      | (s, true) =>
        if creditOf s h r < u.len ∨ !(s.hive h).place.waiting.contains u then s
        else match leastLoaded s (eligibleLanes s r) with
          | none => s
          | some l =>
            let (s, ws) := takeUnit h u s
            let s := s.modPlace h (fun p => { p with waiting := p.waiting.erase u })
            let s := setCredit h r (creditOf s h r - u.len) s
            putUnit l { u with words := ws, charged := true } s

/-- The units taken back from a lane are placed again in their order, without a new charge (R282). -/
def unitReplace (r : Nat) (s : State) : State :=
  let h := higherClaim s
  if !placing s then s
  else forN (takenBack s h r).length (fun _ s =>
    match firstUnit (takenBack s h r) with
    | none => s
    | some u =>
      match rcvOpen h r s with
      | (s, false) => s
      | (s, true) =>
        match leastLoaded s (eligibleLanes s r) with
        | none => s
        | some l =>
          let s := s.modPlace h (fun p => { p with waiting := p.waiting.erase u })
          raise ((putUnit l u s).count (plcPage h) Reg.PLC_REPLACE_CNT) (plcPage h) Reg.PLC_EVENTS 4) s

/-- Units waiting for credit in this tick (R289). -/
def creditWaits (s : State) : Bool :=
  let h := higherClaim s
  placing s && (List.range 64).any (fun r =>
    match nextUnit s h r with
    | some u => rcvEn s r && !(eligibleLanes s r).isEmpty && decide (creditOf s h r < u.len)
    | none => false)

/-- A packet whose unit or dump packet has been taken back: the copy goes on over its link and belongs to no unit (R282). -/
def TxPacket.taken (p : TxPacket) : TxPacket :=
  match p.load with
  | .unit _ a b => { p with load := .taken a b }
  | .dump _ a b => { p with load := .taken a b }
  | _ => p

/-- Packets of a lane that leaves placement: frame units and dump packets go back, the others are lost (R282,
09_lanes.md R307). -/
def takeBack (h : HiveId) (ps : List TxPacket) (s : State) : State :=
  let us := (ps.filterMap (fun p => match p.load with | .unit u _ _ => some u | _ => none)).dedup
  let ds := (ps.filterMap (fun p => match p.load with | .dump ws _ _ => some ws | _ => none)).dedup
  s.modPlace h (fun p => { p with waiting := p.waiting ++ us, dumpBack := p.dumpBack ++ ds })

/-- Whether a packet is a part of a frame unit. -/
def TxPacket.isUnit (p : TxPacket) : Bool := match p.load with | .unit _ _ _ => true | _ => false

/-- The frame units of a lane that leaves placement while its link may stay up: each is taken back once; parts already sent go on as
copies without a unit, so that a later loss of the link takes none of them again (R282). -/
def leavePlacement (l : Nat) (s : State) : State :=
  let x := s.lane l
  let s := takeBack (higherClaim s) ((x.retry ++ x.waiting).filter TxPacket.isUnit) s
  s.modLane l (fun x => { x with
    waiting := x.waiting.filter (fun p => !p.isUnit), retry := x.retry.map (fun p => if p.isUnit then p.taken else p) })

/-! ### The dump (R283) -/

/-- The lane of a dump packet: the lowest in service that reaches PLC_DUMP_RCV, whatever its role. -/
def dumpLane (s : State) : Option Nat :=
  (List.range 20).find? (fun l => decide ((s.lane l).state = .up) && (s.lane l).txAwake && rcvLane s (fld (plcCfg s Reg.PLC_DUMP_RCV) 5 0) l)

/-- A dump packet is sent, credit ignored; those taken back from a lane go first. -/
def dumpPlace (s : State) : State :=
  let h := higherClaim s
  match dumpLane s with
  | none => s
  | some l =>
    let send (ws : List W64) (s : State) : State :=
      let id := rcvId s (fld (plcCfg s Reg.PLC_DUMP_RCV) 5 0)
      s.modLane l (fun x => { x with waiting := x.waiting ++ dataPackets (fun a b => .dump ws a b) id ws })
    match (s.hive h).place.dumpBack with
    | ws :: rest => send ws (s.modPlace h (fun p => { p with dumpBack := rest }))
    | [] =>
      match qPop s h 1 with
      | (s, none) => s
      | (s, some (w, _)) =>
        let n := fieldN w.toNat 63 40
        let (s, ws) := (List.range n).foldl (fun (s, ws) _ =>
          match qPop s h 1 with
          | (s, some (x, _)) => (s, ws ++ [x])
          | (s, none) => (s, ws)) (s, [])
        send ws s

/-! ### Worker jobs (R284–R286) -/

/-- The workers placement may choose for intake `i`: the comb's, or the active hive's. -/
def intakeWorkers (h : HiveId) (i : Nat) : List Nat :=
  (List.range 24).map (fun k => if i < 6 then 24 * i + k else (match h with | .a => 144 | .b => 168) + k)

/-- Kernel table of a worker: KERNEL, EN, ENTRY (12_workers.md R392, R405). -/
def ktabOf (s : State) (w e : Nat) : W32 := (tfind (s.worker w).ktab e).getD (if e < 16 then Config.residentKtab w e else 0)

/-- The enabled kernel-table entry of a kernel. -/
def kernelEntry (s : State) (w kernel : Nat) : Option Nat :=
  if kernel = 0 then none
  else (List.range 32).find? (fun e => let k := ktabOf s w e; bit k 16 && decide (fld k 15 0 = kernel))

/-- Jobs in a worker's mailbox, a running job included. -/
def workerJobs (s : State) (h : HiveId) (w : Nat) : Nat :=
  (qPeek s h (256 + w)).count / 3 + (if (s.worker w).jobActive then 1 else 0)

/-- Whether a worker can take a job (R285). -/
def workerEligible (s : State) (h : HiveId) (i w kernel : Nat) : Bool :=
  let q := 256 + w
  let d := qPeek s h q
  bit (plcCfg s (Reg.PLC_WRK_MASK_0 + 4 * i)) (w % 24) && decide ((s.worker w).state ≠ .halted) && (kernelEntry s w kernel).isSome
    && qEnabled s h q d.d0 && decide (d.space ≥ 3) && (s.queue h q).opened.isNone

/-- The worker a job goes to: the fewest jobs, then a worker of the job's block, then the lower index (R285). -/
def chooseWorker (s : State) (h : HiveId) (i : Nat) (job : W64) : Option Nat :=
  let kernel := fieldN job.toNat 63 48
  let blk := fieldN job.toNat 47 40
  let own (w : Nat) : Bool := decide (i < 6) && decide (w / 2 = blk)
  ((intakeWorkers h i).filter (fun w => workerEligible s h i w kernel)).foldl (fun (m : Option Nat) w =>
    match m with
    | none => some w
    | some v =>
      let a := workerJobs s h w
      let b := workerJobs s h v
      if a < b ∨ (a = b ∧ own w = true ∧ own v = false) then some w else m) none

/-- Whether a job's BLOCK lies on the intake's region (R284). -/
def jobFits (i : Nat) (job : W64) : Bool :=
  let blk := fieldN job.toNat 47 40
  if i < 6 then decide (blk / 12 = i) else decide (blk = 0xFF)

/-- The head job of an intake, those given back first: the job, and its words in the intake's queue; a packet of another length than
two words has no job. -/
def headJob (s : State) (h : HiveId) (i : Nat) : Option (Option (W64 × W64) × Option Nat) :=
  match tget [] (s.hive h).place.jobsBack i with
  | j :: _ => some (some j, none)
  | [] =>
    let q := 88 + i
    let d := qPeek s h q
    if d.count = 0 then none
    else
      let w (k : Nat) := (hPeek s h (ringAddr d.d0 (d.head + BitVec.ofNat 32 k))).1
      let n := fieldN (w 0).toNat 63 40
      some (if n = 2 then some (w 1, w 2) else none, some (n + 1))

/-- The head job leaves its intake. -/
def dropHead (h : HiveId) (i : Nat) (words : Option Nat) (s : State) : State :=
  match words with
  | none => s.modPlace h (fun p => { p with jobsBack := tset [] p.jobsBack i (tget [] p.jobsBack i).tail })
  | some n => forN n (fun _ s => (qPop s h (88 + i)).1) s

/-- Placement comes to the queues of an intake and of its workers: a queue whose pointers disagree resets (R269). -/
def touchJobs (h : HiveId) (i : Nat) (s : State) : State :=
  forL ((88 + i) :: (intakeWorkers h i).map (256 + ·)) (fun q s => (qDesc s h q).1) s

/-- Placement places the head job of an intake. -/
def jobPlace (i : Nat) (s : State) : State :=
  let h := higherClaim s
  let s := if bit (plcCfg s Reg.PLC_CTL) 1 ∧ !s.fatal then touchJobs h i s else s
  if !bit (plcCfg s Reg.PLC_CTL) 1 ∨ s.fatal then s
  else match headJob s h i with
    | none => s
    | some (none, n) => raise ((dropHead h i n s).count (plcPage h) Reg.PLC_JOB_REFUSED_CNT) (plcPage h) Reg.PLC_EVENTS 16
    | some (some j, n) =>
      if !jobFits i j.1 then raise ((dropHead h i n s).count (plcPage h) Reg.PLC_JOB_REFUSED_CNT) (plcPage h) Reg.PLC_EVENTS 16
      else match chooseWorker s h i j.1 with
        | none => s
        | some w =>
          let (s, r, _) := qPut s h (256 + w) .device [j.1, j.2]
          if r = qOk then dropHead h i n s else s

/-- Whether an intake's head job has no eligible worker (R289). -/
def jobWaits (s : State) (h : HiveId) (i : Nat) : Bool :=
  match headJob s h i with
  | some (some j, _) => jobFits i j.1 && (chooseWorker s h i j.1).isNone
  | _ => false

/-! ### The open-packet timer (R267) -/

/-- Ticks an open packet of a queue has seen no use, those of its worker's halt apart. -/
def idleTicks (s : State) (x : Queue) : Nat := s.tick - x.lastUse - x.frozen

/-- An open packet idle for 2^Q_OPEN_TMO ticks is aborted; device producers never time out. -/
def openTimeout (h : HiveId) (q : Nat) (s : State) : State :=
  let x := s.queue h q
  match x.opened with
  | some (.path n) =>
    let halted := decide (64 ≤ n) && decide ((s.worker (n - 64)).state = .halted)
    if halted || !d0Tmo (qPeek s h q).d0 || decide (idleTicks s x < 2 ^ fld (s.cfg 0x17 Reg.Q_OPEN_TMO) 5 0) then s
    else raise ((qKill s h q).count (qPage h) Reg.Q_TMO_CNT) (qPage h) Reg.Q_EVENTS 2
  | _ => s

/-! ### Status registers (R289) -/

def plcStatus (s : State) : W32 := w32 (bitAt s.chip.plcBank 0 + 2 ^ 16 * s.chip.plcEpoch.toNat)
def plcLanesIn (s : State) : W32 := w32 ((List.range 20).map (fun l => bitAt (inPlacement s l) l)).sum
def plcJobWait (s : State) (h : HiveId) : W32 := w32 ((List.range 7).map (fun i => bitAt (jobWaits s h i) i)).sum

/-! ### The commands of this part that name no access path -/

def execUnitPlace (rcv : Fin 64) (s : State) : Host.Outcome State Fault Refusal := done s (unitPlace rcv.val s)
def execUnitReplace (rcv : Fin 64) (s : State) : Host.Outcome State Fault Refusal := done s (unitReplace rcv.val s)
def execJobPlace (intake : Fin 7) (s : State) : Host.Outcome State Fault Refusal := done s (jobPlace intake.val s)
def execOpenPacketTimeout (h : HiveId) (q : Fin 65536) (s : State) : Host.Outcome State Fault Refusal :=
  done s (openTimeout h q.val s)

end Sys2Proof.Machine
end

