-- ==== Sys2Proof/Machine/Time.lean ====
section
/-! DEFINITION. Time base: references and their selection, holdover, steps, second boundaries, PPS (02_timebase.md R40–R81). Both hives
keep the same references, selection and steps (R30); events are raised in the active hive. -/

namespace Sys2Proof.Machine

/-- The spine delay of a die from the round trip measured: half of it less the factory constant (R56). -/
def spineDelay (s : State) (i trip : Nat) : Int :=
  let half := if trip % 2 = 1 ∧ Config.halfRoundsUp trip then trip / 2 + 1 else trip / 2
  (half : Int) - (lget 0 s.chip.spineConst i : Int)

/-- A change of both hives. -/
def State.both (s : State) (f : Hive → Hive) : State := { s with hiveA := f s.hiveA, hiveB := f s.hiveB }
def State.bothTb (s : State) (f : TimeBase → TimeBase) : State := s.both (fun x => { x with tb := f x.tb })
def State.bothServo (s : State) (f : Servo → Servo) : State := s.both (fun x => { x with servo := f x.servo })
def State.modQual (s : State) (f : Qual → Qual) : State := s.bothTb (fun t => { t with qual := f t.qual })
/-- A change of the voted core of both hives. -/
def State.modCore (s : State) (f : TimeCore → TimeCore) : State := s.bothTb (fun t => t.modCore f)
/-- The time base of the active hive. -/
abbrev State.tb (s : State) : TimeBase := (s.hive (higherClaim s)).tb
/-- Events of the active hive's TIM_ page. -/
def timEvent (n : Nat) (s : State) : State := raise s (hivePage (higherClaim s) 0x10) Reg.TIM_EVENTS n
/-- Events of the active hive's WAG_ page (10_time_transfer.md R354). -/
def wagEvent (n : Nat) (s : State) : State := raise s (hivePage (higherClaim s) 0x1A) Reg.WAG_EVENTS n

/-- Ticks of a second. -/
abbrev secondTicks : Nat := 1024000000

/-! ### Settings of the references (R68, R80, R81) -/

abbrev candCfgReg (c : Nat) : Nat := Reg.REF_CAND_0_CFG + 16 * c

abbrev candCfg (s : State) (c : Nat) : W32 := refEff s (candCfgReg c)
abbrev candLane (s : State) (c : Nat) : Nat := fld (candCfg s c) 12 8
abbrev candPrio (s : State) (c : Nat) : Nat := fld (candCfg s c) 5 4

def State.cand (s : State) (c : Nat) : Cand := lget {} s.tb.cands c
def State.modCand (s : State) (c : Nat) (f : Cand → Cand) : State := s.bothTb (fun t => { t with cands := lmod t.cands c f })

/-- Whether the lane of a candidate is timing-enabled in the required role (R62). -/
def candLaneOk (s : State) (c : Nat) : Bool :=
  if c = 2 then true
  else let l := candLane s c; decide (l < 20) && laneTiming s l && decide (laneRole s l = if c = 3 then 2 else 1)

/-! ### Holdover and handover (R59, R61, R66, R67) -/

/-- LOCKED clears. -/
def unlock (s : State) : State :=
  let was := s.tb.qual.locked
  let s := (s.modQual (fun q => { q with locked := false })).modCore (fun c => { c with lockRun := 0 })
  if was then timEvent 32 s else s

/-- TIM_HOLD_SEC of both hives. -/
def holdSec (n : Nat) (s : State) : State :=
  (s.setReg (hivePage .a 0x10) Reg.TIM_HOLD_SEC (w32 n)).setReg (hivePage .b 0x10) Reg.TIM_HOLD_SEC (w32 n)

/-- Holdover is entered (R59). -/
def enterHoldover (s : State) : State :=
  let was := s.tb.qual.holdover
  let s := unlock s
  let s := s.bothTb (fun t => { t with sel := none, selLane := none, src := .refclk, qual := { t.qual with holdover := true, suspectRef := false } })
  let s := s.modCore (fun c => { c with freq := c.holdAvg, sum := 0, num := 0 })
  if was then s else timEvent 4 (holdSec 0 (s.bothTb (fun t => { t with holdTick := s.tick })))

/-- The partner of a lane: SRC, and ROOT_ID with ROOT_GEN once it has reported (10_time_transfer.md R346). -/
def partnerOf (s : State) (l : Nat) : BitVec 12 × Option (BitVec 16 × BitVec 8) :=
  let w := tget {} (s.hive (higherClaim s)).servo.lanes l
  ((s.lane l).pSrc, if w.reported then some (w.rootId, w.rootGen) else none)

/-- A candidate is selected: the servo's period goes on with the samples that the period holds of it (R61, R67, 10_time_transfer.md R339,
R341, R345, R346). -/
def handover (c : Nat) (s : State) : State :=
  let hold := s.tb.qual.holdover
  let p := partnerOf s (candLane s c)
  let src : DpllSrc := if c = 2 then .clk10m else .lane (candLane s c)
  let s := s.bothTb (fun t => { t with sel := some c, selLane := if c = 2 then none else some p, src := src, qual := { t.qual with holdover := false } })
  let w := tget {} (s.hive (higherClaim s)).servo.lanes (candLane s c)
  let v := (s.hive (higherClaim s)).servo
  let (sum, n) := if c = 2 then (v.extSum, v.extN) else (w.sumTh2, w.n)
  let s := s.modCore (fun k => { k with integ := k.freq.signExtend 64, sum := BitVec.ofInt 64 sum, num := BitVec.ofNat 16 n })
  let s := if c = 2 then s.bothServo (fun v => { v with ownGen := v.ownGen + 1 }) else s
  timEvent (16 + bitAt hold 3) (if hold then holdSec 0 s else s)

/-- The QUALIFIED candidate of highest priority among those that meet a condition, the lower index on a tie (R65). -/
def bestCand (s : State) (ok : Cand → Bool) : Option Nat :=
  (List.range 4).foldl (fun (m : Option Nat) c =>
    let x := s.cand c
    if x.state ≠ .qualified ∨ !ok x then m
    else match m with
      | none => some c
      | some d => if candPrio s c < candPrio s d then some c else m) none

/-- SUSPECT_REF follows the state of the selected candidate (R43). -/
def markSuspect (s : State) : State :=
  let b := match s.tb.sel with | some c => decide ((s.cand c).state = .suspect) | none => false
  s.modQual (fun q => { q with suspectRef := b })

/-- Selection at a gate end (R65, R66). -/
def evalSelection (s : State) : State :=
  let fresh (s : State) : State :=
    match bestCand s (fun _ => true) with
    | some c => handover c s
    | none => if s.tb.sel.isNone && s.tb.qual.holdover then s else enterHoldover s
  let s := match s.tb.sel with
    | none => fresh s
    | some c =>
      let x := s.cand c
      if x.state = .qualified ∨ x.state = .suspect then
        if bit (refEff s Reg.REF_CTL) 0 then
          match bestCand s (fun y => decide (y.qualSec ≥ fld (refEff s Reg.REF_REVERT_HOLD) 15 0)) with
          | some d => if candPrio s d < candPrio s c then handover d s else s
          | none => s
        else s
      else fresh s
  markSuspect s

/-- A candidate is lost or disabled (R64, R66). -/
def dropCand (c : Nat) (st : CandState) (s : State) : State :=
  let s := s.modCand c (fun x => { x with state := st, count := 0, qualSec := 0, fresh := true })
  if s.tb.sel = some c then enterHoldover s else s

/-- Fu of 16 waggle intervals. -/
abbrev lossFu : Nat := 16 * 2 ^ 20

/-- Fu of 1 s, and of 1 µs. -/
abbrev secondFu : Nat := 1024000000000
abbrev microFu : Nat := 1024000
/-- The present instant and one that lies `999 - delta` fu into the present tick, in fu of the tick count. -/
abbrev monoOf (s : State) (delta : Nat) : Nat := 1000 * s.tick + 999 - delta

/-- Whether PPS_IN is missing: no edge has come within 1 µs of the time at which the next was due, 1 s after the last (R40). -/
def ppsLost (s : State) : Bool :=
  match s.tb.lastPps with
  | some m => decide (m + secondFu + microFu < 1000 * s.tick)
  | none => true

/-- Whether a lane candidate is lost (R40). -/
def laneLost (s : State) (l : Nat) : Bool :=
  !(s.lane l).lock || (match (tget {} (s.hive (higherClaim s)).servo.lanes l).lastValid with
    | some t => decide (1000 * (s.tick - t) ≥ lossFu)
    | none => true)

/-- Loss of a candidate is detected (R40, R64, R66); for the external one, `clk10m` tells that four periods of CLK10M are missing. The
loss of a selected lane partner is a change of master (10_time_transfer.md R346). -/
def referenceLoss (c : Nat) (clk10m : Bool) (s : State) : State :=
  if c = 2 ∧ !clk10m ∧ !ppsLost s ∨ c ≠ 2 ∧ candLaneOk s c ∧ !laneLost s (candLane s c) then s
  else
    let s := s.modCand c (fun x => { x with present := false })
    let s := if c ≠ 2 ∧ s.tb.sel = some c then wagEvent 2 s else s
    if (s.cand c).state = .disabled ∨ (s.cand c).state = .absent then s else dropCand c .absent s

/-- The gate in progress does not count for a candidate that enters QUALIFYING now, unless it begins in this very tick (R64). -/
def gateBegun (s : State) : Bool := decide (s.tb.gateTick ≠ some s.tick)

/-- The signal of a candidate appears (R62, R64). -/
def signalPresent (c : Nat) (s : State) : State :=
  if !candLaneOk s c ∨ c = 2 ∧ ppsLost s then s
  else
    let s := s.modCand c (fun x => { x with present := true })
    if (s.cand c).state = .absent then s.modCand c (fun x => { x with state := .qualifying, count := 0, fresh := gateBegun s }) else s

/-! ### Gate ends (R63, R64) -/

/-- A signed value limited to 32 bits. -/
def sat32 (x : Int) : Int := clampI (-(2 ^ 31)) (2 ^ 31 - 1) x

/-- The state of a candidate after a gate inside or outside tolerance (R64). -/
def judge (qualTime : Nat) (inside : Bool) (x : Cand) : Cand :=
  match x.state with
  | .qualifying =>
    if x.fresh then { x with fresh := false }
    else if !inside then { x with count := 0 }
    else if x.count + 1 ≥ qualTime then { x with state := .qualified, count := 0, qualSec := 0 }
    else { x with count := x.count + 1 }
  | .qualified =>
    if inside then { x with qualSec := min 65535 (x.qualSec + 1) }
    else { x with state := .suspect, count := 1, qualSec := 0 }
  | .suspect =>
    if inside then { x with state := .qualified, count := 0, qualSec := 0 }
    else if x.count + 1 ≥ qualTime then { x with state := .qualifying, count := 0, fresh := false }
    else { x with count := x.count + 1 }
  | _ => x

/-- A candidate at a gate end: the settings that take effect, then its result (R63, R64, R68). DESIGN CHOICE (log entry 93): a LANE that
takes effect under an enabled candidate leaves its state, its presence, the DPLL's input and the partner on record as they are, while the
servo and the role check go by the new lane; and QUAL_SEC does not count a gate that gives no result. -/
def candGate (c : Nat) (result : Option (Int × Int)) (s : State) : State :=
  let en := bit (candCfg s c) 0
  let x := s.cand c
  if !en then (if x.state = .disabled then s else dropCand c .disabled s)
  else if x.state = .disabled then
    s.modCand c (fun x => { x with state := if x.present && candLaneOk s c then .qualifying else .absent, count := 0, qualSec := 0, fresh := false })
  else if !candLaneOk s c ∧ x.state ≠ .absent then dropCand c .absent s
  else match result with
    | none => s
    | some (f, p) =>
      let inF := decide (f.natAbs ≤ (refEff s Reg.REF_FTOL).toNat)
      let inP := decide (p.natAbs ≤ (refEff s Reg.REF_PTOL).toNat)
      s.modCand c (fun x => judge (fld (refEff s Reg.REF_QUAL_TIME) 9 0) (inF && inP) { x with freq := sat32 f, phase := sat32 p, inFtol := inF, inPtol := inP })

/-! ### The judging slots (R63, 10_time_transfer.md R339, 04_interpolators.md R142) -/

/-- The nominal interval of the judging stamps, 2^20 ns, in 1/256 fu. -/
abbrev judgeNom : Int := 256 * 2 ^ 30

/-- A judging slot of both hives. -/
def modJudge (c : Nat) (f : RgSlot → RgSlot) (s : State) : State := (s.modRg .a (12 + c) f).modRg .b (12 + c) f

/-- A candidate's result set in its slot, in both hives. -/
def judgeNote (c : Nat) (r : RgResult) (s : State) : State :=
  let s := modJudge c (fun k => { k with res := r }) s
  raise (raise s (rgPage .a) Reg.CAL_RG_EVENTS (2 ^ (12 + c))) (rgPage .b) Reg.CAL_RG_EVENTS (2 ^ (12 + c))

/-- A fractional frequency against local time, composed with that of local time against judge time, in parts in 10^15. -/
def composeFreq (f drift : Int) : Int := f + drift + divNearAway (f * drift) 1000000000000000

/-- A candidate's frequency and phase over the gate that ends now: those of a lane from its stamps, with `drift` the frequency of local
time against judge time; those of the external reference, `ext`, as measured (R63). A lane with too few stamps has none (DESIGN CHOICE, log
entry 93). -/
def judgeResult (c : Nat) (drift : Int) (ext : Option (Int × Int)) (s : State) : State × Option (Int × Int) :=
  let k := s.rg (higherClaim s) (12 + c)
  match k.gate with
  | none => (s, none)
  | some g =>
    let g := { g with closed := s.now }
    if c = 2 then
      match ext with
      | none => (s, none)
      | some (f, p) =>
        (judgeNote c { k.res with freq := f, phase := 256 * p, centre := timeWordOf ((g.opened + g.closed + 1) / 2) s.tb.qual, few := false, seq := k.res.seq + 1 } s, some (f, p))
    else
      let (v, s) := s.free
      let (w, s) := s.free
      let r := rgResult judgeNom g s.tb.qual (k.res.seq + 1) v w
      (judgeNote c r s, if r.few then none else some (composeFreq r.freq drift, divNearAway r.phase 256))

/-- A stamp of a judging slot: it belongs to the gate in progress, or waits for the next one. -/
def judgeStamp (index : BitVec 32) (t : Int) (k : RgSlot) : RgSlot :=
  match k.gate with
  | none => k
  | some g =>
    if t < g.opened then k
    else if t < secondFu * (g.opened.fdiv secondFu + 1) then { k with gate := some (rgAdd judgeNom (some index) t g) }
    else { k with stamps := k.stamps ++ [(some index, shortOf t)] }

/-- The next gate of a judging slot opens; stamps that waited for it join it. -/
def judgeOpen (now : Int) (k : RgSlot) : RgSlot :=
  let k0 : RgSlot := { res := k.res, state := 2, gate := some { opened := now } }
  k.stamps.foldl (fun k e => match e.1 with | some i => judgeStamp i (now - shortDiff (shortOf now) e.2) k | none => k) k0

/-- The gates of the next second open on the slots of the enabled candidates; the host's gates on reserved slots end without a result
(DESIGN CHOICE, log entry 93). -/
def judgeNext (s : State) : State :=
  if !anyCand s then s
  else forN 4 (fun c s => modJudge c (fun k => if (s.cand c).state = .disabled then { res := k.res } else judgeOpen s.now k) s) s

/-- The end of a judging gate (R63–R68): results first, then states in the order of the candidates, then selection. -/
def gateEnd (drift : Int) (ext : Option (Int × Int)) (s : State) : State :=
  let c := s.tb.core
  if c.nsec ≠ 0 ∨ c.frac ≠ 0 ∨ s.tb.gateTick = some s.tick then s
  else
    let s := s.modChip (fun k => { k with refWrites := k.refWrites.filter (fun w => !(w.2.2 < s.tick)) })
    let s := if s.tb.gateStep then s
      else forN 4 (fun c s => let (s, r) := judgeResult c drift ext s; candGate c r s) s
    let s := forN 4 (fun c s => s.modCand c (fun x => { x with fresh := false })) s
    judgeNext (evalSelection (s.bothTb (fun t => { t with gateStep := false, gateTick := some s.tick })))

/-- A write of a REF_ setting (R68, R80): it is stored at once and acts at the next gate end; clearing EN acts at once. -/
def refWrite (off : Nat) (v : W32) (s : State) : State :=
  let old := s.cfg 0x11 off
  let s := s.modChip (fun k => { k with refWrites := k.refWrites ++ [(off, old, s.tick)] })
  let s := s.setReg (cfgPage 0x11) off v
  match (List.range 4).find? (fun c => candCfgReg c = off) with
  | some c =>
    if bit v 0 then s
    else
      let was := anyCand s
      let s := s.modChip (fun k => { k with refWrites := k.refWrites.map (fun w => if w.1 = off then (w.1, w.2.1 &&& ~~~1, w.2.2) else w) })
      let s := if was then modJudge c (fun k => { res := k.res }) s else s
      if (s.cand c).state = .disabled then s else dropCand c .disabled s
  | none => s

/-! ### Steps (R69–R71, 10_time_transfer.md R344) -/

/-- The amount of time by which an armed step moves time that stands at `t`. -/
def stepDelta (a : StepArm) (t : Int) : Int :=
  let x : Int := (1024 * (1000000000 * a.sec + a.nsec) + a.frac : Nat)
  if a.abs then x - t else if a.neg then -x else x

/-- Waggle samples and histories taken before a step go; a timing block sent keeps its place in the stream, `w` the change of the labels
(10_time_transfer.md R344). -/
def servoStep (w now : Int) (s : State) : State :=
  let s := s.bothServo (fun v => { v with
    lanes := v.lanes.map (fun (l, x) => (l, { x with txHist := [], rxHist := [], toReport := [], sumTh2 := 0, sumRt := 0, sumD := 0, n := 0, seen := 0, oneSum := 0, oneN := 0, lastRx := none, txMark := none, repMark := none, txAt := x.txAt.map (· + w) }))
    extSum := 0, extN := 0, extPps := none, ppsUsed := false, period := now.fdiv (2 ^ 30) })
  let s := s.modCore (fun c => { c with sum := 0, num := 0, skip := 1 })
  forN 4 (fun c s => if anyCand s then modJudge c (fun k => { k with stamps := [] }) s else s) s

/-- The trigger's labels move with a step at the instant `t` (06_trigger.md R191). -/
def triggerStep (t d : Int) (s : State) : State :=
  let s := s.both (fun x => { x with trig := x.trig.step t d (1000 * d.fdiv 1000) })
  { s with cells := s.cells.map (fun e => (e.1, e.2.stepPrims ((t + d).fdiv 8000 - t.fdiv 8000))) }

/-- The time word moves by a step at the instant `t`: whole ticks are relabelled, the rest is a phase step of the DPLL output (R46, R70,
R71). An identifier that changed at a frame already built is of the past. -/
def moveTime (t d : Int) (s : State) : State :=
  let w := 1000 * d.fdiv 1000
  let s := triggerStep t d (s.modCore (fun c => c.atFu (c.fu + w)))
  let s := s.bothTb (fun t => { t with gateStep := true, qual := { t.qual with unsync := false, coarse := false } })
  let s := s.modChip (fun c => { c with
    step := none, stepState := 2, stepGen := c.stepGen + 1, stepFirst := true, phaseStep := (c.phaseStep + (d.fmod 1000).toNat) % 1000
    idPrev := match c.idPrev with | some (some _, _) => none | p => p })
  timEvent 1 (servoStep w s.now s)

/-- The first frame whose start is at or after an instant, as an index that does not wrap (R53, R70). -/
def frameFrom (s : State) (t : Int) : Int := -((s.epochFu - t).fdiv s.frameFu)

/-- After a step or a change of the frame scheme at the instant `t`, frame building waits for frame `m`. `from`: the instant at which frames
ended, on its own scale, where they ran up to it. The frame that follows has had frames unbuilt before it where the gap has any length
(07_frames_compression.md R232). -/
def openGap (t : Int) (m : Int) (back : Bool) (fromAt : Option (Nat × Int)) (s : State) : State :=
  let start := s.epochFu + m * s.frameFu
  let s := s.modCore (fun c => { c with frame := BitVec.ofInt 40 (m - 1) })
  let s := if start > t then s.both (fun x => { x with fr := { x.fr with resumeFlag := true } }) else s
  s.modChip (fun c => { c with
    framing := false, resumeAt := some (BitVec.ofInt 40 m), gap := some (t, start), gapBack := back
    gapFrom := if fromAt.isSome then fromAt else c.gapFrom })

/-- The selection horizon of a hive stands at the present lag, and never before where it was (06_trigger.md R191). -/
def horizonUp (x : Hive) : Hive :=
  { x with trig := { x.trig with h := max x.trig.h (x.tb.core.fu / 8000 - (x.trig.target : Int)), jumpAt := none } }

/-- The selection horizon of a hive starts at the present lag. -/
def horizonRestart (h : HiveId) (s : State) : State :=
  s.modHive h (fun x => { x with trig := { x.trig with h := x.tb.core.fu / 8000 - (x.trig.target : Int), jumpAt := none } })

/-- A step applies at an instant that stands at `t` (R69–R71). Frame numbers never repeat: a step in mode 0, or one that meets frames being
built or awaited, resumes at the frame that was to come or a later one (R70). -/
def stepNow (a : StepArm) (t : Int) (s : State) : State :=
  let d := stepDelta a t
  let n := s.frameNow
  let running := s.chip.framing
  let ahead := running || s.chip.resumeAt.isSome || decide (a.mode = 0)
  let fromAt := if running then some (s.chip.stepGen, t) else none
  let s := moveTime t d s
  let t' := t + d
  let m := frameFrom s t'
  let m := if ahead then max m (m + frameDiff (n + 1) (BitVec.ofInt 40 m)) else m
  let s := openGap t' m (decide (d < 0)) fromAt s
  if !running && decide (0 ≤ d) then s.both horizonUp else s

/-- A refused GO (R69, 11_systems.md R370): `code` is EXPIRED or BUSY. -/
def stepRefused (code : Nat) (s : State) : State :=
  let s := if s.chip.step.isSome then s else s.modChip (fun c => { c with stepState := code })
  timEvent 2 s

/-- A write of TIM_STEP_CTL (R69, R71, R79). -/
def stepCtl (v : W32) (s : State) : State :=
  let s := s.setReg (cfgPage 0x10) Reg.TIM_STEP_CTL (v &&& 0xF)
  if !bit v 8 then s
  else
    let a : StepArm := { mode := fld v 1 0, abs := bit v 2, neg := bit v 3, frame := BitVec.ofNat 40 (s.reg64 (cfgPage 0x10) Reg.TIM_STEP_FRAME_LO), sec := s.reg64 (cfgPage 0x10) Reg.TIM_STEP_SEC_LO % 2 ^ 48, nsec := fld (s.cfg 0x10 Reg.TIM_STEP_NSEC) 29 0, frac := fld (s.cfg 0x10 Reg.TIM_STEP_FRAC) 9 0, goTick := s.tick }
    let arm (s : State) : State := s.modChip (fun c => { c with step := some a, stepState := 1 })
    match a.mode with
    | 0 => if frameDiff a.frame s.frameNow ≤ 0 then schedExpired (stepRefused 3 s) else arm s
    | 1 => arm s
    | 2 => if s.chip.framing then stepRefused 4 s else stepNow a s.now s
    | _ => stepRefused 4 s

/-- PPS_IN has been absent for 1.5 s after GO (R69). -/
def stepPpsTimeout (s : State) : State :=
  match s.chip.step with
  | some a => if a.mode = 1 ∧ s.tick ≥ a.goTick + 1536000000 then timEvent 2 (s.modChip (fun c => { c with step := none, stepState := 3 })) else s
  | none => s

/-! ### PPS_IN (R342 of 10_time_transfer.md, R69) -/

/-- The local second nearest to an instant. -/
def nearSecond (t : Int) : Int := 1024000000000 * ((t + 512000000000).fdiv 1024000000000)

/-- A PPS_IN rising edge. -/
def ppsIn (delta : Nat) (s : State) : State :=
  let t := s.now + 999 - delta
  let g := nearSecond t
  let s := sendStamp (fun m => fld (rgReg s m Reg.CAL_RG_CFG) 1 0 = 2) (none, shortOf t) s
  let m := monoOf s delta
  let early : Bool := match s.tb.lastPps with | some p => decide (m + microFu < p + secondFu) | none => false
  let s := if early then s else s.bothTb (fun b => { b with lastPps := some m })
  let far := decide ((t - g).natAbs > 51200)
  let s := s.bothServo (fun v => if far then { v with extPps := some t, extSum := 2 * (t - g), extN := 1, ppsUsed := true } else { v with extPps := some t })
  let s := if far ∧ s.tb.sel = some 2 then s.modCore (fun c => { c with sum := BitVec.ofInt 64 (2 * (t - g)), num := 1 }) else s
  match s.chip.step with
  | some a => if a.mode = 1 then stepNow a t s else s
  | none => s

/-! ### Seconds (R58, R59, R72–R74) -/

/-- The running mean of the frequency word over the samples kept (R58). -/
def runningMean (l : List Int) : Int :=
  let n := l.length
  if n = 0 then 0
  else
    let t := l.foldl (· + ·) 0
    if t.fmod n = 0 then t.fdiv n else if Config.meanRoundsUp t n then t.fdiv n + 1 else t.fdiv n

/-! PPS_OUT and CLK_OUT (R72, R73). TIM_OUT_DLY moves both: its whole ticks in the time core, the rest in a delay line of 8 fu a
step. -/

/-- TIM_OUT_DLY in fu. -/
def outDelay (s : State) : Int := (s.cfg 0x10 Reg.TIM_OUT_DLY).toInt
/-- Its whole ticks. -/
def outTicks (s : State) : Int := (outDelay s).fdiv 1000
/-- Its steps of the output delay line. -/
def outSteps (s : State) : Nat :=
  let r := ((outDelay s).fmod 1000).toNat
  if r % 8 ≠ 0 ∧ Config.delayRoundsUp r then r / 8 + 1 else r / 8

/-- Whether PPS_OUT may be high (R73, R78). -/
def ppsAllowed (s : State) : Bool :=
  let out := s.cfg 0x10 Reg.TIM_OUT_CTL
  bit out 0 && (decide (s.tb.qual.sync ≠ 0) || bit out 2)

/-- PPS_OUT rises where SEC increments, moved by the whole ticks of TIM_OUT_DLY. -/
def ppsRise (s : State) : State :=
  if ppsAllowed s ∧ (s.now - 1000 * outTicks s) % (secondFu : Int) = 0 then
    s.bothTb (fun t => { t with ppsHigh := true, ppsFall := s.tick + 1024 * (fld (s.cfg 0x10 Reg.TIM_OUT_CTL) 22 4) })
  else s

/-- PPS_OUT at a tick: it rises there where TIM_OUT_DLY holds whole ticks, and does not stay high where it may not be. -/
def ppsTick (s : State) : State :=
  if s.tb.ppsHigh ∧ !ppsAllowed s then s.bothTb (fun t => { t with ppsHigh := false })
  else if outTicks s = 0 then s else ppsRise s

/-- The level of PPS_OUT before the delay line: only the hive of the higher claim drives it. -/
def ppsOut (s : State) (h : HiveId) : Bool := decide (h = higherClaim s) && s.tb.ppsHigh && ppsAllowed s

/-- The level of CLK_OUT before the delay line: an eighth of the spine, a rising edge with each of PPS_OUT; high for half its period (DESIGN
CHOICE, log entry 94: R72 states no duty). -/
def clkOut (s : State) (h : HiveId) : Bool :=
  decide (h = higherClaim s) && bit (s.cfg 0x10 Reg.TIM_OUT_CTL) 1 && decide ((s.now.fdiv 1000 - outTicks s) % 8 < 4)

/-- Whole seconds in the present holdover (R59). -/
def holdSeconds (s : State) : Nat := min (2 ^ 32 - 1) ((s.tick - s.tb.holdTick) / secondTicks)

/-- A second boundary. The frequency word enters its running mean here, once a second, and while fewer seconds have passed than
TIM_HOLD_AVG names the mean is over those; TIM_HOLD_SEC is brought up here (DESIGN CHOICE, log entry 92: R58 and R59 state no instant). -/
def secondBoundary (s : State) : State :=
  let c := s.tb.core
  if c.nsec ≠ 0 ∨ c.frac ≠ 0 ∨ s.tb.secondTick = some s.tick then s
  else
    let s := s.bothTb (fun t => { t with secondTick := some s.tick })
    let n := max 1 (fld (s.cfg 0x10 Reg.TIM_HOLD_AVG) 12 0)
    let s := s.bothTb (fun t => { t with holdHist := (t.core.freq.toInt :: t.holdHist).take n })
    let s := s.modCore (fun k => { k with holdAvg := BitVec.ofInt 40 (runningMean s.tb.holdHist) })
    let s := if s.tb.qual.holdover then holdSec (holdSeconds s) s else s
    let s := if outTicks s = 0 then ppsRise s else s
    if s.reg64 (cfgPage 0x10) Reg.TIM_UTC_NEXT_SEC_LO % 2 ^ 48 = c.sec.toNat then
      timEvent 128 (s.setReg (cfgPage 0x10) Reg.TIM_UTC_OFFSET (s.cfg 0x10 Reg.TIM_UTC_NEXT_OFFSET))
    else s

/-- PPS_OUT falls (R72). -/
def ppsOutFall (s : State) : State :=
  if s.tb.ppsHigh ∧ s.tick ≥ s.tb.ppsFall then s.bothTb (fun t => { t with ppsHigh := false }) else s

/-! ### REFCLK (R78) -/

def refclkBad (h : HiveId) (s : State) : State :=
  if (s.hive h).tb.refclkBad then s
  else guardEvent (s.modHive h (fun x => { x with tb := { x.tb with refclkBad := true } })) (hiveDom h) 7

def refclkGood (h : HiveId) (s : State) : State := s.modHive h (fun x => { x with tb := { x.tb with refclkBad := false } })

/-- A write of the frequency word (R57): ignored while the servo is enabled. -/
def freqWrite (v : Nat) (s : State) : State :=
  if bit (s.cfg 0x1A Reg.WAG_CTL) 0 then s
  else s.modCore (fun c => { c with freq := BitVec.ofInt 40 (clampI (-200000000000) 200000000000 (signedN 40 v)) })

/-! ### Status registers (R76, R78, R80, R81) -/

/-- Whether the present time lies before the frame epoch (R50). -/
def preEpoch (s : State) (h : HiveId) : Bool := decide (s.fuOf h < s.epochFu)

def selBits (t : TimeBase) : Nat := match t.sel with | some c => c + 4 | none => 0

def timStatus (s : State) (h : HiveId) : W32 :=
  let t := (s.hive h).tb
  w32 (t.qual.bits + t.qual.sync * 2 ^ 8 + bitAt (preEpoch s h) 10 + bitAt s.framing 11 + 2 ^ 12 * (selBits t))

/-- TIM_DPLL_STATUS. IN_LOCK is set from the end of start-up on, but not while the input is a REFCLK that is bad (DESIGN CHOICE, log entry
95: R78 gives no condition). -/
def dpllStatus (s : State) (h : HiveId) : W32 :=
  let t := (s.hive h).tb
  let (code, lane) := match t.src with | .refclk => (0, 0) | .clk10m => (1, 0) | .lane n => (2, n)
  w32 (code + lane * 2 ^ 4 + bitAt (s.chip.started && !(t.src = .refclk && t.refclkBad)) 9 + bitAt t.refclkBad 10)

def candCode : CandState → Nat
  | .disabled => 0 | .absent => 1 | .qualifying => 2 | .qualified => 3 | .suspect => 4

def candStatus (s : State) (h : HiveId) (c : Nat) : W32 :=
  let t := (s.hive h).tb
  let x := lget {} t.cands c
  w32 (candCode x.state + bitAt (decide (t.sel = some c)) 3 + bitAt x.inFtol 4 + bitAt x.inPtol 5 + x.count % 1024 * 2 ^ 8 + 2 ^ 18 * (min 16383 x.qualSec))

/-! ### The commands of this chapter that name no access path -/

def execSecondBoundary (s : State) : Host.Outcome State Fault Refusal := done s (secondBoundary s)
def execPpsOutFall (s : State) : Host.Outcome State Fault Refusal := done s (ppsOutFall s)
def execReferenceLoss (loss : RefLoss) (s : State) : Host.Outcome State Fault Refusal := done s (referenceLoss loss.cand.val loss.clk10m s)
def execSignalPresent (c : Fin 4) (s : State) : Host.Outcome State Fault Refusal := done s (signalPresent c.val s)
def execGateEnd (result : GateResult) (s : State) : Host.Outcome State Fault Refusal := done s (gateEnd result.drift result.ext s)
def execPpsInEdge (delta : Fin 1000) (s : State) : Host.Outcome State Fault Refusal := done s (ppsIn delta.val s)
def execStepPpsTimeout (s : State) : Host.Outcome State Fault Refusal := done s (stepPpsTimeout s)
def execRefclkBad (h : HiveId) (s : State) : Host.Outcome State Fault Refusal := done s (refclkBad h s)
def execRefclkRecovered (h : HiveId) (s : State) : Host.Outcome State Fault Refusal := done s (refclkGood h s)

end Sys2Proof.Machine
end

