-- ==== Sys2Proof/Machine/Waggle.lean ====
section
/-! DEFINITION. Waggle time transfer: timing blocks, REPORTs and samples, the servo, roots, transmit timestamps (10_time_transfer.md R327–R354).
Both hives keep the same servo state (R348); events and counters are those of the active hive. -/

namespace Sys2Proof.Machine

abbrev wagCfg (s : State) (off : Nat) (i : Nat := 0) : W32 := s.cfg 0x1A off i
abbrev wagPage (s : State) : Nat := hivePage (higherClaim s) 0x1A
abbrev State.servo (s : State) : Servo := (s.hive (higherClaim s)).servo
def State.wag (s : State) (l : Nat) : WagLane := tget {} s.servo.lanes l
def State.modWag (s : State) (l : Nat) (f : WagLane → WagLane) : State :=
  s.bothServo (fun v => { v with lanes := tset {} v.lanes l (f (tget {} v.lanes l)) })

/-- Waggle state of a lane in one hive. -/
def State.wagOf (s : State) (h : HiveId) (l : Nat) : WagLane := tget {} (s.hive h).servo.lanes l
def State.modWagOf (s : State) (h : HiveId) (l : Nat) (f : WagLane → WagLane) : State :=
  s.modHive h (fun x => { x with servo := { x.servo with lanes := tset {} x.servo.lanes l (f (tget {} x.servo.lanes l)) } })

/-- A sum and a count as the voted core holds them. -/
abbrev coreSum (x : Int) : BitVec 64 := BitVec.ofInt 64 x
abbrev coreNum (n : Nat) : BitVec 16 := BitVec.ofNat 16 n

/-! ### Roots (R345) -/

/-- ROOT_ID, ROOT_GEN and DEPTH the device sends. -/
def ownRoot (s : State) : BitVec 16 × BitVec 8 × Nat :=
  let own := (wagCfg s Reg.WAG_ROOT_ID).extractLsb' 0 16
  match s.tb.sel with
  | none => (own, s.servo.ownGen, 15)
  | some 2 => (own, s.servo.ownGen, 0)
  | some c => let w := s.wag (candLane s c); (w.rootId, w.rootGen, min 15 (w.pDepth + 1))

/-- The lane candidates that name a lane. -/
def candsOn (s : State) (l : Nat) : List Nat := [0, 1, 3].filter (fun c => candLane s c = l)

/-- The selected partner shows another identity or root (R346). -/
def masterChange (c : Nat) (s : State) : State :=
  wagEvent 2 (dropCand c .absent (s.modCand c (fun x => { x with present := false })))

/-- A good packet of a lane shows its partner's SRC (R346). -/
def partnerSrc (l : Nat) (src : BitVec 12) (s : State) : State :=
  match s.tb.sel, s.tb.selLane with
  | some c, some (rec, _) => if c ≠ 2 ∧ candLane s c = l ∧ rec ≠ src then masterChange c s else s
  | _, _ => s

/-- A REPORT shows its sender's root (R346, R347). -/
def partnerRoot (l : Nat) (id : BitVec 16) (gen : BitVec 8) (s : State) : State :=
  let w := s.wag l
  let changed := w.reported && !(w.rootId = id && w.rootGen = gen)
  let s := s.modWag l (fun w => { w with rootId := id, rootGen := gen, reported := true })
  forL (candsOn s l) (fun c s =>
    if s.tb.sel = some c then
      match s.tb.selLane with
      | some (src, none) => s.bothTb (fun t => { t with selLane := some (src, some (id, gen)) })
      | some (_, some r) => if r = (id, gen) then s else masterChange c s
      | none => s
    else if changed then
      s.modCand c (fun x => if x.state = .qualifying ∨ x.state = .qualified ∨ x.state = .suspect
        then { x with state := .qualifying, count := 0, qualSec := 0, fresh := true } else x)
    else s) s

/-! ### Timing blocks (R328–R332) -/

/-- CHECK of a timing block's content (R329). -/
def timingCheck (x : BitVec 56) : BitVec 8 := crc8 0x07#8 0#8 (bitsMsb (x.extractLsb' 40 16) ++ bitsMsb (x.extractLsb' 0 32))

/-- A timing block with its CHECK. -/
def timingBlock (tseq : BitVec 8) (sync depth : Nat) (tx : BitVec 32) : BitVec 56 :=
  let x : BitVec 56 := tseq ++ BitVec.ofNat 2 sync ++ BitVec.ofNat 4 depth ++ 0#2 ++ 0#8 ++ tx
  x ||| ((timingCheck x).zeroExtend 56 <<< 32)

/-- A history of at most 256 entries, newest last. -/
def keep256 {α : Type} (l : List α) (x : α) : List α := (if l.length ≥ 256 then l.tail else l) ++ [x]

/-- A lane sends blocks, scrambled (09_lanes.md R292). -/
def sendBlocks (l : Nat) (bs : List LineBlock) (s : State) : State :=
  s.modLane l (fun x => { x with scr := (scrambleBlocks x.scr bs).1, lastBlocks := (scrambleBlocks x.scr bs).2 })

/-- A sync header arrives: the last 64 are kept (09_lanes.md R294). -/
def noteHeader (hdr : BitVec 2) (x : Lane) : Lane :=
  { x with hdrs := (x.hdrs <<< 1) ||| (BitVec.ofBool (decide (hdr = hdrData ∨ hdr = hdrCtrl))).zeroExtend 64 }

/-- Whether an instant may be a block boundary of a lane's transmitter: blocks of 66 bits follow one another from the last timing block on,
each 2,640 fu long (R330). -/
def onBlocks (w : WagLane) (t : Int) : Bool := match w.txAt with | some u => decide ((t - u) % 2640 = 0) | none => decide (t % 40 = 0)

/-- A lane sends a timing block at the first block boundary at or after a multiple of 2^20 fu; `off` is its distance (R328, R330). -/
def timingSend (l off : Nat) (s : State) : State :=
  let x := s.lane l
  let mark := 2 ^ 20 * ((s.now + 999).fdiv (2 ^ 20))
  let t := mark + (off : Int)
  let w := s.wag l
  if !s.chip.started ∨ s.chip.extest ∨ !x.powered ∨ x.idleOut ∨ !laneTiming s l ∨ laneRole s l = 0 ∨ !x.txAwake ∨ x.state = .prbs then s
  else if w.txMark = some mark ∨ off ≥ 2640 ∨ t < s.now ∨ t ≥ s.now + 1000 ∨ !onBlocks w t then s
  else
    let (_, _, depth) := ownRoot s
    let stamp := shortOf (t + (fld (wagCfg s Reg.WAG_TX_DLY l) 15 0 : Int))
    let blk := timingBlock w.tseq s.tb.qual.sync depth stamp
    let s := s.modWag l (fun w => { w with txMark := some mark, txAt := some t, tseq := w.tseq + 1, txHist := keep256 w.txHist (w.tseq, stamp) })
    sendBlocks l [timingLine blk] (s.modLane l (fun x => { x with lastTiming := some blk }))

/-- A hive stamps a timing block with its own link interpolator, at the rising edge that ends the present tick's word (R331, R348); a
random edge yields to it. -/
def stampBlock (l : Nat) (x : BitVec 56) (valid : Bool) (count pos : Nat) (h : HiveId) (s : State) : State :=
  let rx := rawTime (linkTable s h l) (min count 399) (s.now + 1000) + 40 * (pos : Int) - (fld (wagCfg s Reg.WAG_RX_DLY l) 15 0 : Int)
  (linkYield h l s).modWagOf h l (fun w => { w with
    lastRx := some rx
    rxHist := keep256 w.rxHist (shortOf rx, x.extractLsb' 0 32, valid)
    toReport := w.toReport ++ [(x.extractLsb' 48 8, shortOf rx)] })

/-- The content of a received timing block: `countA` and `countB` are the counts of the hives' link interpolators at the edge that starts the word, `pos`
the place of the sync header in it (R331, R332). The active hive's one-way samples go to both servos (R338, R348). -/
def takeTiming (l : Nat) (x : BitVec 56) (countA countB pos : Nat) (s : State) : State :=
  if timingCheck x ≠ x.extractLsb' 32 8 then s.count (wagPage s) Reg.WAG_LANE_BAD_CNT 1 l
  else
    let sync := (x.extractLsb' 46 2).toNat
    let depth := (x.extractLsb' 42 4).toNat
    let depthOk := decide (depth < fld (wagCfg s Reg.WAG_CTL) 7 4)
    let valid := decide (sync = 2) && depthOk
    let s := stampBlock l x valid countB pos .b (stampBlock l x valid countA pos .a s)
    let fwd : Int := match (s.wag l).rxHist.getLast? with | some e => shortDiff e.1 e.2.1 | none => 0
    let one := valid && decide ((s.wag l).oneN < 1024)
    let s := s.modWag l (fun w => { w with
      pSync := sync, pDepth := depth
      lastValid := if valid then some s.tick else w.lastValid
      oneSum := if one then w.oneSum + fwd else w.oneSum, oneN := if one then w.oneN + 1 else w.oneN })
    if depthOk then s else wagEvent 8 s

/-- A block arrives that is to be a timing block: it is descrambled with the stream it is taken from, and a block of another kind is not this
command's (R328, R332, 09_lanes.md R293). -/
def timingReceive (l : Nat) (b : LineBlock) (countA countB pos : Nat) (s : State) : State :=
  let y := s.lane l
  if !s.chip.started ∨ !y.powered ∨ !y.rxAwake ∨ !y.lock ∨ !laneTiming s l ∨ laneRole s l = 0 ∨ y.state = .prbs then s
  else
    let (d, w) := descramble y.dscr b.word
    if b.hdr ≠ hdrCtrl ∨ w.extractLsb' 0 8 ≠ 0x4B#8 then s
    else takeTiming l (w.extractLsb' 8 56) countA countB pos (s.modLane l (fun x => noteHeader b.hdr { x with dscr := d }))

/-! ### REPORTs (R333, R336, R337) -/

/-- The words of a REPORT. -/
def reportWords (s : State) (l : Nat) : List W64 :=
  let (id, gen, depth) := ownRoot s
  let rs := (s.wag l).toReport.take 16
  BitVec.ofNat 64 (2 ^ 52 * gen.toNat + 2 ^ 36 * id.toNat + 2 ^ 32 * depth) ::
    ((rs.map (fun r => BitVec.ofNat 64 (2 ^ 56 * r.1.toNat + 2 ^ 32 + r.2.toNat))) ++ List.replicate (16 - rs.length) 0)

/-- A REPORT is sent after each multiple of 2^24 fu. -/
def reportSend (l : Nat) (s : State) : State :=
  let mark := s.now.fdiv (2 ^ 24)
  if (s.lane l).state ≠ .up ∨ !laneTiming s l ∨ (s.wag l).repMark = some mark then s
  else
    let p : TxPacket := { ptype := 4, load := .waggle none, rcv := 0, payload := reportWords s l }
    let s := s.modLane l (fun x => { x with waiting := x.waiting ++ [p] })
    s.modWag l (fun w => { w with toReport := [], repMark := some mark })

/-- The first accepted WAGGLE packet of a kind. -/
def takeWag (l kind : Nat) (s : State) : State × Option RxPacket :=
  match (s.lane l).rx.find? (fun p => p.ptype = 4 && fieldN (p.payload.getD 0 0).toNat 63 60 = kind) with
  | none => (s, none)
  | some p => (s.modLane l (fun x => { x with rx := x.rx.erase p }), some p)

/-- The valid received block with the latest stamp at most 2,097,152 fu before `t3` (R336). -/
def pairBlock (w : WagLane) (t3 : BitVec 32) : Option (BitVec 32 × BitVec 32) :=
  (w.rxHist.filter (fun e => e.2.2 && decide (0 ≤ shortDiff t3 e.1 ∧ shortDiff t3 e.1 ≤ 2097152))).foldl (fun m e =>
    match m with
    | none => some (e.1, e.2.1)
    | some (a, b) => if shortDiff e.1 a > 0 then some (e.1, e.2.1) else some (a, b)) none

/-- The longest round trip of two one-way delays of 100 µs, less WAG_ASYM (R327). -/
abbrev maxTrip : Int := 2 * 102400000

/-- A two-way sample of the selected lane enters the servo's total (R339, R348). -/
def servoSample (l : Nat) (th2 : Int) (s : State) : State :=
  match s.tb.sel with
  | some c => if c ≠ 2 ∧ candLane s c = l then s.modCore (fun k => { k with sum := k.sum + coreSum th2, num := k.num + 1 }) else s
  | none => s

/-- One valid report of block `j` with receive stamp `t4` (R336, R337). A report whose stamps give a delay beyond R327's bound names a
block older than the history (DESIGN CHOICE, log entry 97: a TSEQ is known modulo 256 only). -/
def reportSample (l : Nat) (j : BitVec 8) (t4 : BitVec 32) (s : State) : State :=
  let w := s.wag l
  match w.txHist.reverse.find? (fun e => e.1 = j) with
  | none => wagEvent 32 s
  | some (_, t3) =>
    match pairBlock w t3 with
    | none => s
    | some (t2, t1) =>
      let fwd := shortDiff t2 t1
      let rev := shortDiff t4 t3
      let rt := (BitVec.ofInt 32 (fwd + rev)).toInt
      let a := (wagCfg s Reg.WAG_ASYM l).toInt
      let out := match w.rtRef with | some r => decide ((rt - r).natAbs > fld (wagCfg s Reg.WAG_RT_TOL) 19 0) | none => false
      if rt - a < 0 ∨ rt - a > maxTrip then wagEvent 32 s
      else if out then
        (s.modWag l (fun w => { w with seen := w.seen + 1 })).count (wagPage s) Reg.WAG_LANE_OUTLIER_CNT 1 l
      else if w.n ≥ 1024 then s
      else servoSample l (fwd - rev + a) <| s.modWag l (fun w => { w with
        seen := w.seen + 1, n := w.n + 1, sumRt := w.sumRt + rt, sumD := w.sumD + (rt - a).tdiv 2, sumTh2 := w.sumTh2 + (fwd - rev + a) })

/-- A received REPORT. -/
def reportReceive (l : Nat) (s : State) : State :=
  match takeWag l 0 s with
  | (s, none) => s
  | (s, some p) =>
    let w0 := p.payload.getD 0 0
    let s := partnerRoot l (w0.extractLsb' 36 16) (w0.extractLsb' 52 8) s
    forL ((p.payload.drop 1).take 16) (fun w s => if w.getLsbD 32 then reportSample l (w.extractLsb' 56 8) (w.extractLsb' 0 32) s else s) s

/-! ### CAND_2 samples (R342) -/

/-- A stamp of every 16th CLK10M rising edge. -/
def clk10m (delta : Nat) (s : State) : State :=
  let t := s.now + 999 - delta
  match s.servo.extPps with
  | none => s
  | some p =>
    let g := nearSecond p
    if (p - g).natAbs > 51200 ∨ s.servo.ppsUsed ∨ s.servo.extN ≥ 1024 then s
    else
      let th2 := 2 * ((t - g) - 102400 * divNearAway (t - g) 102400)
      let s := s.bothServo (fun v => { v with extSum := v.extSum + th2, extN := v.extN + 1 })
      if s.tb.sel = some 2 then s.modCore (fun k => { k with sum := k.sum + coreSum th2, num := k.num + 1 }) else s

/-! ### The servo (R337–R343) -/

/-- KP and KI (R340). -/
def servoKp (s : State) : Nat := 2829695 * (fld (wagCfg s Reg.WAG_CTL) 25 16)
def servoKi (s : State) : Nat := servoKp s * servoKp s / 2 ^ 34

/-- A lane's round-trip reference and delay at the end of a period (R337, R338): whether the reference is given up. -/
def lanePeriod (w : WagLane) : WagLane × Bool :=
  if w.n > 0 then
    ({ w with rtRef := some (divNearAway w.sumRt w.n), dHeld := some (divNearAway w.sumD w.n), outRun := 0 }, false)
  else if w.seen > 0 then
    if w.outRun + 1 ≥ 16 then ({ w with rtRef := none, outRun := 0 }, true) else ({ w with outRun := w.outRun + 1 }, false)
  else ({ w with outRun := 0 }, false)

/-- Sum of th2 and count of a lane's samples for the period, and whether they are one-way samples (R338). -/
def laneInput (oneWay : Bool) (w : WagLane) : Int × Nat × Bool :=
  if w.n > 0 then (w.sumTh2, w.n, false)
  else match w.rtRef, w.dHeld with
    | some _, some d => if oneWay && decide (w.oneN > 0) then (2 * w.oneSum - 2 * d * w.oneN, w.oneN, true) else (0, 0, false)
    | _, _ => (0, 0, false)

/-- The end of a period on one lane. -/
def laneEnd (l : Nat) (s : State) : State :=
  let (w, jump) := lanePeriod (s.wag l)
  let (sum, n, one) := laneInput (bit (wagCfg s Reg.WAG_CTL) 1) w
  let s := s.modWag l (fun _ => { w with
    twoWay := decide (w.n > 0), oneWay := one, samples := n, offset := if n = 0 then w.offset else divNearAway sum (2 * n)
    sumTh2 := 0, sumRt := 0, sumD := 0, n := 0, seen := 0, oneSum := 0, oneN := 0 })
  if jump then wagEvent 4 s else s

/-- A servo update that is not refused (R43, R340, R341). -/
def servoUpdate (e : Int) (s : State) : State :=
  let lim : Int := 200000000000
  let u := 931323 * e
  let i := clampI (-lim) lim (s.tb.core.integ.toInt - ((servoKi s : Int) * u).fdiv (2 ^ 32))
  let y := clampI (-lim) lim (i - ((servoKp s : Int) * u).fdiv (2 ^ 32))
  let s := s.modCore (fun c => { c with integ := BitVec.ofInt 64 i, freq := BitVec.ofInt 40 y })
  let lock := s.cfg 0x10 Reg.TIM_LOCK
  let win := fld lock 15 0
  let run := if e.natAbs ≤ win then min 65535 (s.tb.core.lockRun.toNat + 1) else 0
  let s := s.modCore (fun c => { c with lockRun := BitVec.ofNat 16 run })
  let s := s.modQual (fun q => { q with coarse := false, locked := q.locked || decide (run ≥ max 1 (fld lock 31 16)) })
  if e.natAbs > 2 * win then unlock s else s

/-- WAG_LAST_E and WAG_LAST_N of a hive. -/
def lastUpdate (e : Int) (n : Nat) (h : HiveId) (s : State) : State :=
  (s.setReg (hivePage h 0x1A) Reg.WAG_LAST_E (w32i (sat32 e))).setReg (hivePage h 0x1A) Reg.WAG_LAST_N (w32 (n % 2048))

/-- The update at the end of a period with samples of sum `sum` and count `n` (R340, R343). -/
def servoInput (sum : Int) (n : Nat) (one : Bool) (s : State) : State :=
  if n = 0 then s.count (wagPage s) Reg.WAG_EMPTY_CNT
  else
    let e := divNearAway sum (2 * n)
    let s := lastUpdate e n .b (lastUpdate e n .a s)
    if e.natAbs > fld (wagCfg s Reg.WAG_STEP_THR) 30 0 then
      let s := s.bothServo (fun v => { v with refusing := true })
      unlock ((wagEvent 1 s).count (wagPage s) Reg.WAG_REFUSED_CNT)
    else servoUpdate e (s.bothServo (fun v => { v with oneWayUsed := one }))

/-- Sum, count and kind of the period's samples of the selected candidate: the voted total, or the lane's one-way samples where it has
none (R338, R339, R342). -/
def periodInput (c : Nat) (s : State) : Int × Nat × Bool :=
  let k := s.tb.core
  if c = 2 ∨ k.num ≠ 0 then (k.sum.toInt, k.num.toNat, false)
  else laneInput (bit (wagCfg s Reg.WAG_CTL) 1) (lanePeriod (s.wag (candLane s c))).1

/-- Each enabled lane candidate's stamp for its judging slot: the period's end plus its mean θ (R339). -/
def judgeStamps (idx : Int) (s : State) : State :=
  if !anyCand s then s
  else forL [0, 1, 3] (fun c s =>
    let (sum, n, _) := laneInput (bit (wagCfg s Reg.WAG_CTL) 1) (lanePeriod (s.wag (candLane s c))).1
    if (s.cand c).state = .disabled ∨ n = 0 then s
    else modJudge c (judgeStamp (BitVec.ofInt 32 idx) (2 ^ 30 * idx + divNearAway sum (2 * n))) s) s

/-- The end of a servo period (R339–R343): at every multiple of 2^30 fu. -/
def servoPeriodEnd (s : State) : State :=
  let idx := (s.now + 999).fdiv (2 ^ 30)
  if idx ≤ s.servo.period then s
  else
    let skip := decide (s.tb.core.skip ≠ 0)
    let s := s.bothServo (fun v => { v with refusing := false })
    let s := if skip then s else judgeStamps idx s
    let s := match s.tb.sel with
      | none => s
      | some c =>
        if skip ∨ !bit (wagCfg s Reg.WAG_CTL) 0 then s
        else let (sum, n, one) := periodInput c s; servoInput sum n one s
    let s := if skip then s.bothServo (fun v => { v with lanes := v.lanes.map (fun (l, w) =>
        (l, { w with sumTh2 := 0, sumRt := 0, sumD := 0, n := 0, seen := 0, oneSum := 0, oneN := 0 })) })
      else forN 20 laneEnd s
    let s := s.modCore (fun k => { k with sum := 0, num := 0, skip := 0 })
    s.bothServo (fun v => { v with extSum := 0, extN := 0, ppsUsed := false, period := idx })

/-- A write of WAG_CTL (R341, R354). -/
def wagCtl (v : W32) (s : State) : State :=
  let old := wagCfg s Reg.WAG_CTL
  let depth := if fld v 7 4 = 0 then fld old 7 4 else fld v 7 4
  let bw := fld v 25 16
  let bw := if 1 ≤ bw ∧ bw ≤ 1000 then bw else fld old 25 16
  let s := s.setReg (cfgPage 0x1A) Reg.WAG_CTL (w32 (fld v 1 0 + depth * 2 ^ 4 + 2 ^ 16 * bw))
  if bit v 0 ∧ !bit old 0 then s.modCore (fun c => { c with integ := c.freq.signExtend 64 }) else s

/-! ### Transmit timestamps (R349–R351) -/

/-- An entry of a lane's return queue. -/
def pushStamp (l : Nat) (fu : Int) (id : BitVec 8) (rx retx : Bool) (s : State) : State :=
  let h := higherClaim s
  let tw := timeWordOf fu s.tb.qual
  let e1 := BitVec.ofNat 64 (2 ^ 32 * ((tw.extractLsb' 0 32).toNat) + 2 ^ 24 * id.toNat + bitAt rx 23 + bitAt retx 22)
  let (s, ok) := qPutFixed s h (2 + l) [tw.extractLsb' 32 64, e1]
  if ok then s else wagEvent 16 (s.count (wagPage s) Reg.WAG_TS_OVF_CNT 1 l)

/-- A write of WAG_TS_SEND (R349). -/
def tsSend (v : W32) (s : State) : State :=
  let l := fld v 4 0
  if !bit v 16 then s
  else if l ≥ 20 ∨ (s.lane l).state ≠ .up ∨ !laneTiming s l then wagEvent 64 s
  else
    let id := v.extractLsb' 8 8
    let p : TxPacket := { ptype := 4, load := .waggle (some id), rcv := 0, payload := [BitVec.ofNat 64 (2 ^ 60 + 2 ^ 52 * id.toNat)] }
    s.modLane l (fun x => { x with waiting := x.waiting ++ [p] })

/-- The block boundary of a lane's transmitter at or after the present instant: it follows from the last timing block sent; before the
first one it is a free value within the tick (R330). -/
def nextBlock (w : WagLane) (s : State) : Int × State :=
  match w.txAt with
  | some u => (u - 2640 * (u - s.now).fdiv 2640, s)
  | none =>
    let (v, s) := s.free
    (s.now + 40 * (v.toNat % 25 : Nat), s)

/-- The stamp of a MARK's start block, which goes out at the next block boundary (R330, R349). -/
def markSent (l : Nat) (id : BitVec 8) (retx : Bool) (s : State) : State :=
  let (t, s) := nextBlock (s.wag l) s
  pushStamp l (t + (fld (wagCfg s Reg.WAG_TX_DLY l) 15 0 : Int)) id false retx s

/-- A MARK accepted in order, `blocks` blocks after the nearest timing block, the latest one received, or before it (R331, R349). Where no
timing block has been received the stamp is a free value of the last 2^20 fu. -/
def markReceive (l : Nat) (blocks : Int) (s : State) : State :=
  match takeWag l 1 s with
  | (s, none) => s
  | (s, some p) =>
    let id := (p.payload.getD 0 0).extractLsb' 52 8
    match (s.wag l).lastRx with
    | some t => pushStamp l (t + 2640 * blocks) id true false s
    | none =>
      let (v, s) := s.free
      pushStamp l (s.now - (v.toNat % 2 ^ 20 : Nat)) id true false s

/-! ### Status registers (R353, R354) -/

def wagStatus (s : State) (h : HiveId) : W32 :=
  let t := (s.hive h).tb
  let v := (s.hive h).servo
  w32 (bitAt (bit (wagCfg s Reg.WAG_CTL) 0 && t.sel.isSome) 0 + bitAt v.refusing 1 + bitAt v.oneWayUsed 2 + bitAt (decide (t.sel = some 2)) 3)

def wagRootNow (s : State) : W32 := let (id, gen, d) := ownRoot s; w32 (id.toNat + 2 ^ 16 * gen.toNat + 2 ^ 24 * d)

def wagLaneStatus (s : State) (h : HiveId) (l : Nat) : W32 :=
  let w := tget {} (s.hive h).servo.lanes l
  let ok := match w.lastValid with | some t => decide (1000 * (s.tick - t) < lossFu) | none => false
  w32 (bitAt ok 0 + bitAt w.twoWay 1 + bitAt w.oneWay 2 + w.pSync * 2 ^ 3 + w.pDepth * 2 ^ 5)

/-! ### The commands of this chapter that name no access path -/

def execTimingBlockSend (lane : Fin 20) (offset : Nat) (s : State) : Host.Outcome State Fault Refusal := done s (timingSend lane.val offset s)
def execTimingBlockReceive (lane : Fin 20) (block : LineBlock) (counts : LinkCounts) (pos : Fin 25) (s : State) : Host.Outcome State Fault Refusal :=
  done s (timingReceive lane.val block counts.hiveA counts.hiveB pos.val s)
def execReportSend (lane : Fin 20) (s : State) : Host.Outcome State Fault Refusal := done s (reportSend lane.val s)
def execReportReceive (lane : Fin 20) (s : State) : Host.Outcome State Fault Refusal := done s (reportReceive lane.val s)
def execServoPeriodEnd (s : State) : Host.Outcome State Fault Refusal := done s (servoPeriodEnd s)
def execClk10mStamp (delta : Fin 1000) (s : State) : Host.Outcome State Fault Refusal := done s (clk10m delta.val s)
def execMarkReceive (lane : Fin 20) (blocks : Int) (s : State) : Host.Outcome State Fault Refusal := done s (markReceive lane.val blocks s)

end Sys2Proof.Machine
end

