-- ==== Sys2Proof/Machine/Lanes.lean ====
section
/-! DEFINITION. The link layer of the lanes: packets, go-back-N, link states, sleep, PRBS, credits (09_lanes.md R291–R325). -/

namespace Sys2Proof.Machine

abbrev laneReg (s : State) (l off : Nat) : W32 := s.reg (lanePage l) off
def laneEvent (l n : Nat) (s : State) : State := raise s (lanePage l) Reg.LNK_EVENTS n
/-- LNK_RETRY_TMO in ticks. -/
def retryTicks (s : State) (l : Nat) : Nat := 1024 * (fld (laneReg s l Reg.LNK_RETRY_TMO) 10 0)

/-! ### Packets (R298–R300) -/

/-- The 56-bit packet header. -/
def packetHeader (ptype : Nat) (src : BitVec 12) (seq : BitVec 8) (lstate : Nat) (first last : Bool) (len : Nat) (rcv : BitVec 16) : BitVec 56 :=
  BitVec.ofNat 4 ptype ++ src ++ seq ++ BitVec.ofNat 2 lstate ++ BitVec.ofNat 1 (bitAt first 0) ++ BitVec.ofNat 1 (bitAt last 0) ++ BitVec.ofNat 7 len ++ 0#5 ++ rcv

abbrev hdrType (h : BitVec 56) : Nat := (h.extractLsb' 52 4).toNat
abbrev hdrSrc (h : BitVec 56) : BitVec 12 := h.extractLsb' 40 12
abbrev hdrSeq (h : BitVec 56) : BitVec 8 := h.extractLsb' 32 8
abbrev hdrLstate (h : BitVec 56) : Nat := (h.extractLsb' 30 2).toNat
abbrev hdrLength (h : BitVec 56) : Nat := (h.extractLsb' 21 7).toNat

/-- CRC of a packet (R300). -/
def packetCrc (header : BitVec 56) (payload : List W64) (low : BitVec 32) : BitVec 32 :=
  crcIeee (bytesLsb (header ++ 0x78#8) ++ payload.flatMap bytesLsb ++ (List.range 4).map (fun i => low.extractLsb' (8 * i) 8))

/-- The trailer word (R299). -/
def packetTrailer (header : BitVec 56) (payload : List W64) (ack : Option (BitVec 8)) (nak : Bool) : W64 :=
  let low : BitVec 32 := BitVec.ofNat 32 (2 ^ 24 * ((ack.getD 0).toNat) + bitAt ack.isSome 23 + bitAt nak 22)
  packetCrc header payload low ++ low

/-- Whether a packet as received passes its CRC and has the length its header names. -/
def packetGood (p : RawPacket) : Bool :=
  decide (p.payload.length = hdrLength p.header) && decide (p.trailer.extractLsb' 32 32 = packetCrc p.header p.payload (p.trailer.extractLsb' 0 32))

/-! ### Link states (R306, R307) -/

/-- The transmitter's block stream ends: the next one begins at a place of its own (10_time_transfer.md R330). -/
def dropStream (l : Nat) (s : State) : State := s.modWag l (fun w => { w with txAt := none })

/-- LSTATE a lane sends. -/
def lstateOf (x : Lane) : Nat :=
  match x.state with
  | .up => 2
  | .training => if x.lock && x.rxGood then 1 else 0
  | _ => 0

/-- Whether a lane may train: not OFF, both directions awake. -/
def canTrain (s : State) (l : Nat) : Bool :=
  let x := s.lane l
  x.powered && x.txAwake && x.rxAwake && decide (laneRole s l ≠ 0) && decide (x.state ≠ .prbs)

/-- Sequence state as at the entry to UP, and nothing waiting. -/
def freshLink (x : Lane) : Lane :=
  { x with goodIdle := 0, rxGood := false, rxPart := none, nextSeq := 0, expect := 0, ack := none, nakOwed := false, nakSent := none, waiting := [], retry := [], resend := 0, rounds := 0, roundStart := none }

/-- A link leaves UP: its packets meet their outcomes (R307). -/
def leaveUp (l : Nat) (s : State) : State :=
  let x := s.lane l
  if x.state ≠ .up then s
  else
    let h := higherClaim s
    let ps := x.retry ++ x.waiting
    let s := takeBack h ps s
    let swarm := (ps.filter (fun p => p.ptype = 5)).length
    let s := if swarm = 0 then s else raise (s.count (swmPage h) Reg.SWM_TX_DROP_CNT swarm) (swmPage h) Reg.SWM_EVENTS 8
    let s := s.modLane l (fun x => { freshLink x with state := .down })
    laneEvent l 2 (s.count (lanePage l) Reg.LNK_DOWN_CNT)

/-- Training starts afresh. -/
def startTraining (l : Nat) (s : State) : State := s.modLane l (fun x => { freshLink x with state := .training })

/-- A lane goes DOWN; with AUTO_TRAIN set, training starts at once. -/
def goDown (l : Nat) (s : State) : State :=
  let s := leaveUp l s
  let s := s.modLane l (fun x => if x.state = .asleep ∨ x.state = .prbs then x else { freshLink x with state := .down })
  if (s.lane l).state = .down ∧ laneAuto s l ∧ canTrain s l then startTraining l s else s

/-- The state a lane comes to as its PHY or its role lets it run: PRBS where that is enabled, ASLEEP where a direction sleeps, else DOWN, from
which it trains (R306, R322). -/
def laneReady (l : Nat) (s : State) : State :=
  let x := s.lane l
  if laneRole s l = 0 ∨ !x.powered then s.modLane l (fun x => { freshLink x with state := .down })
  else if fld (laneReg s l Reg.LNK_PRBS_CFG) 1 0 ≠ 0 then s.modLane l (fun x => { freshLink x with state := .prbs, lock := false, hdrs := 0 })
  else if x.txAwake && x.rxAwake then goDown l (s.modLane l (fun x => { freshLink x with state := .down }))
  else s.modLane l (fun x => { freshLink x with state := .asleep })

/-- LNK_CTL.RETRAIN. -/
def retrain (l : Nat) (s : State) : State :=
  match (s.lane l).state with
  | .asleep => s
  | .prbs => s
  | _ => if canTrain s l then startTraining l (leaveUp l s) else s

/-- A write of LNK_CTL. -/
def lnkCtl (l : Nat) (v : W32) (s : State) : State :=
  let s := if bit v 2 then s.modLane l (fun x => { x with errCnt := 0 }) else s
  let s := if bit v 1 ∧ (s.lane l).state ≠ .asleep ∧ (s.lane l).state ≠ .prbs then goDown l s else s
  if bit v 0 then retrain l s else s

/-- The link reaches UP; a lane that has just come up has RT_REF clear (10_time_transfer.md R337). -/
def linkUp (l : Nat) (s : State) : State :=
  let s := s.modLane l (fun x => { freshLink x with state := .up })
  laneEvent l 1 (s.modWag l (fun w => { w with rtRef := none, outRun := 0 }))

/-! ### Transmitting (R302, R304, R308) -/

/-- The swarm message at the head of a peer queue of the lane. -/
def takeSwarm (l : Nat) (s : State) : State × Option TxPacket :=
  let h := higherClaim s
  if laneRole s l ≠ 2 then (s, none)
  else match (List.range 4).find? (fun n => let c := swmCfg s (peerReg n); bit c 8 && decide (fld c 4 0 = l) && decide ((qPeek s h (96 + n)).count > 0)) with
    | none => (s, none)
    | some n =>
      match qPop s h (96 + n) with
      | (s, none) => (s, none)
      | (s, some (w, _)) =>
        let (s, ws) := (List.range (fieldN w.toNat 63 40)).foldl (fun (s, ws) _ =>
          match qPop s h (96 + n) with
          | (s, some (x, _)) => (s, ws ++ [x])
          | (s, none) => (s, ws)) (s, [])
        (s, some { ptype := 5, load := .swarm, rcv := 0, payload := ws })

/-- FIRST and LAST of a packet. -/
def loadEnds : Load → Bool × Bool
  | .unit _ a b => (a, b)
  | .dump _ a b => (a, b)
  | .taken a b => (a, b)
  | _ => (false, false)

/-- A packet goes out: the trailer carries the present ACK, and a NAK that is owed (R298, R299, R304). -/
def emit (l : Nat) (header : BitVec 56) (payload : List W64) (s : State) : State :=
  let x := s.lane l
  let p : RawPacket := ⟨header, payload, packetTrailer header payload x.ack x.nakOwed⟩
  (sendBlocks l (packetBlocks p) s).modLane l (fun x => { x with
    lastTx := some p
    nakSent := if x.nakOwed then some s.tick else x.nakSent, nakOwed := false })

/-- The identifier a packet carries as SRC. -/
abbrev srcNow (s : State) : BitVec 12 := deviceAt s s.now

/-- A sequenced packet goes out; a MARK is stamped. -/
def emitPacket (l : Nat) (p : TxPacket) (again : Bool) (s : State) : State :=
  let (a, b) := loadEnds p.load
  let s := emit l (packetHeader p.ptype p.src p.seq 2 a b p.payload.length p.rcv) p.payload s
  match p.load with
  | .waggle (some id) => markSent l id again s
  | _ => s

def emitIdle (l : Nat) (s : State) : State := emit l (packetHeader 0 (srcNow s) 0 (lstateOf (s.lane l)) false false 0 0) [] s

/-- A new packet takes the next SEQ and enters the retry buffer. -/
def sendNew (l : Nat) (p : TxPacket) (s : State) : State :=
  let p := { p with seq := (s.lane l).nextSeq, src := srcNow s, sentTick := s.tick }
  let s := s.modLane l (fun x => { x with nextSeq := x.nextSeq + 1, retry := x.retry ++ [p] })
  emitPacket l p false s

/-- Whether a packet starts a frame unit or a dump packet. -/
def startsUnit (p : TxPacket) : Bool := match p.load with | .unit _ a _ => a | .dump _ a _ => a | _ => false

/-- The place among the waiting packets of the one that goes next: the first; while a transmit direction is asked to sleep, no frame unit or
dump packet is begun any more (R322). -/
def nextWaiting (x : Lane) : Option Nat :=
  if x.waiting.isEmpty then none
  else if x.sleepTick.isNone then some 0
  else match x.waiting.findIdx? startsUnit with
    | none => some 0
    | some 0 => x.waiting.findIdx? (fun p => decide (p.ptype ≠ 1))
    | some _ => some 0

/-- The PRBS generator sends 66 bits in place of a block (R319, R320). -/
def prbsSend (l : Nat) (s : State) : State :=
  let c := laneReg s l Reg.LNK_PRBS_CFG
  if !bit c 0 then s
  else s.modLane l (fun x =>
    let r := prbsBits (fld c 4 2) (bit c 5) 66 x.gen x.inj
    { x with gen := r.1, inj := r.2.1, lastBlocks := [bitsBlock r.2.2] })

/-- A lane sends its next packet: a resend round first, then swarm messages, then what waits, else IDLE; in PRBS state the generator's next
bits. While a boundary-scan test drives the pins nothing goes out (15_control.md R492). -/
def packetTransmit (l : Nat) (s : State) : State :=
  let x := s.lane l
  if !s.chip.started ∨ s.chip.extest ∨ !x.powered ∨ x.idleOut ∨ !x.txAwake ∨ laneRole s l = 0 then s
  else if x.state = .prbs then prbsSend l s
  else if x.state ≠ .up then emitIdle l s
  else if x.resend > 0 then
    let i := x.retry.length - x.resend
    match x.retry[i]? with
    | none => emitIdle l s
    | some p =>
      let s := s.modLane l (fun x => { x with resend := x.resend - 1, retry := lmod x.retry i (fun p => { p with sentTick := s.tick }) })
      emitPacket l p true (s.count (lanePage l) Reg.LNK_RETX_CNT)
  else if x.retry.length ≥ 64 then emitIdle l s
  else match takeSwarm l s with
    | (s, some p) => sendNew l p s
    | (s, none) =>
      let x := s.lane l
      match nextWaiting x with
      | some i =>
        (match x.waiting[i]? with
        | some p => sendNew l p (s.modLane l (fun x => { x with waiting := x.waiting.eraseIdx i }))
        | none => emitIdle l s)
      | none => emitIdle l s

/-! ### Acknowledgements and resend rounds (R304, R305) -/

/-- Whether a packet is the last of the dump's END section (14_redundancy_faults.md R464). -/
def isEnd (p : TxPacket) : Bool :=
  match p.load with
  | .dump ws _ true => let w := (ws.getD 0 0).toNat; decide (fieldN w 63 60 = 0xD) && decide (fieldN w 47 40 = 6)
  | _ => false

/-- Packets up to and including ACK are freed. -/
def takeAck (l : Nat) (ack : BitVec 8) (s : State) : State :=
  let x := s.lane l
  match x.retry.findIdx? (fun p => p.seq = ack) with
  | none => s
  | some i =>
    let ended := (x.retry.take (i + 1)).any isEnd
    let s := s.modLane l (fun x =>
      let rest := x.retry.drop (i + 1)
      { x with retry := rest, resend := min x.resend rest.length, rounds := 0, roundStart := none })
    if ended then s.modHive (higherClaim s) (fun y => { y with guard := { y.guard with dumpDone := true } }) else s

/-- A resend round falls due. -/
def resendRound (l : Nat) (s : State) : State :=
  let x := s.lane l
  match x.retry with
  | [] => s
  | p :: _ =>
    let stuck : Bool := match x.roundStart with | some q => x.retry.any (fun r => r.seq = q) | none => false
    let n := if stuck then x.rounds + 1 else x.rounds
    if stuck ∧ n ≥ fld (laneReg s l Reg.LNK_RETRY_MAX) 7 0 then goDown l (laneEvent l 4 s)
    else s.modLane l (fun x => { x with rounds := n, roundStart := some p.seq, resend := x.retry.length })

/-- The oldest unacknowledged packet has waited LNK_RETRY_TMO since it was last sent (R304); in a resend round that has yet to send it
nothing more falls due. -/
def retryTimeout (l : Nat) (s : State) : State :=
  let x := s.lane l
  match x.retry with
  | [] => s
  | p :: _ =>
    if x.state ≠ .up ∨ x.resend ≥ x.retry.length ∨ s.tick < p.sentTick + retryTicks s l then s else resendRound l s

/-- A receiver repeats its NAK (R304). -/
def nakRepeat (l : Nat) (s : State) : State :=
  let x := s.lane l
  match x.nakSent with
  | some t => if x.state ≠ .up ∨ x.nakOwed ∨ s.tick < t + retryTicks s l then s else s.modLane l (fun x => { x with nakOwed := true })
  | none => s

/-! ### Receiving (R301, R303, R306) -/

/-- One NAK is owed per gap. -/
def oweNak (x : Lane) : Lane := if x.nakOwed ∨ x.nakSent.isSome then x else { x with nakOwed := true }

/-- Whether a type is accepted on a lane (R301). -/
def acceptsType (s : State) (l ptype : Nat) : Bool :=
  match ptype with
  | 2 => true
  | 4 => laneTiming s l
  | 5 => decide (laneRole s l = 2)
  | 6 => true
  | _ => false

/-- A good sequenced packet in UP (R303). -/
def takeSequenced (l : Nat) (p : RawPacket) (s : State) : State :=
  let x := s.lane l
  let d := (hdrSeq p.header - x.expect).toNat
  if d = 0 then
    let s := s.modLane l (fun x => { x with expect := x.expect + 1, ack := some (hdrSeq p.header), nakOwed := false, nakSent := none })
    if acceptsType s l (hdrType p.header) then
      s.modLane l (fun x => { x with rx := x.rx ++ [⟨hdrType p.header, hdrSrc p.header, hdrSeq p.header, p.payload⟩] })
    else s.count (lanePage l) Reg.LNK_DISC_CNT
  else if d ≤ 127 then (s.modLane l oweNak).count (lanePage l) Reg.LNK_GAP_CNT
  else s.count (lanePage l) Reg.LNK_DUP_CNT

/-- ACK and NAK of a good packet are used (R303, R304). -/
def takeTrailer (l : Nat) (t : W64) (s : State) : State :=
  let s := if t.getLsbD 23 then takeAck l (t.extractLsb' 24 8) s else s
  if t.getLsbD 22 then resendRound l s else s

/-- A good packet. -/
def goodPacket (l : Nat) (p : RawPacket) (s : State) : State :=
  let ptype := hdrType p.header
  let src := hdrSrc p.header
  let before := (s.lane l).pLstate
  let ls := hdrLstate p.header
  let s := if (ptype = 4 ∨ ptype = 5) ∧ src = srcNow s then idClash s else s
  let s := partnerSrc l src s
  let s := s.modLane l (fun x => { x with pSrc := src, pLstate := ls, rxGood := true })
  match (s.lane l).state with
  | .training =>
    if ptype ≠ 0 then s.count (lanePage l) Reg.LNK_DISC_CNT
    else
      let s := s.modLane l (fun x => { x with goodIdle := x.goodIdle + 1 })
      if (s.lane l).goodIdle ≥ 8 ∧ ls ≥ 1 then linkUp l s else s
  | .up =>
    if before = 2 ∧ ls < 2 then goDown l s
    else
      let s := takeTrailer l p.trailer s
      if (s.lane l).state ≠ .up ∨ ptype = 0 then s else takeSequenced l p s
  | .asleep => if ptype = 0 then s else s.count (lanePage l) Reg.LNK_DISC_CNT
  | _ => s

/-- A whole packet has arrived (R303). -/
def packetArrive (l : Nat) (p : RawPacket) (s : State) : State :=
  if packetGood p then goodPacket l p s
  else
    let s := s.count (lanePage l) Reg.LNK_CRC_CNT
    s.modLane l (fun x => if x.state = .up then oweNak x else if x.state = .training then { x with goodIdle := 0 } else x)

/-- An error of the line is counted, and the packet in progress is discarded (R293, R321). -/
def lineError (l : Nat) (s : State) : State := s.modLane l (fun x => { x with errCnt := satAdd 48 x.errCnt 1, rxPart := none })

/-- A descrambled word of a data block: the next of the packet in progress, whose header says how many come before the trailer. A word
outside a packet is dropped (DESIGN CHOICE, log entry 98: R298 names no case for it). -/
def dataWord (l : Nat) (w : W64) (s : State) : State :=
  match (s.lane l).rxPart with
  | none => s
  | some (h, ws) =>
    if ws.length < hdrLength h then s.modLane l (fun x => { x with rxPart := some (h, ws ++ [w]) })
    else packetArrive l ⟨h, ws, w⟩ (s.modLane l (fun x => { x with rxPart := none }))

/-- A block of the line arrives (R292, R293). The start of a packet ends one in progress, which is discarded (log entry 98); a timing block
is no part of a packet, and its stamp is TIMING_BLOCK_RECEIVE's. -/
def blockReceive (l : Nat) (b : LineBlock) (s : State) : State :=
  let (d, w) := descramble (s.lane l).dscr b.word
  let s := s.modLane l (fun x => noteHeader b.hdr { x with dscr := d })
  if !(s.lane l).lock then s
  else if b.hdr = hdrData then dataWord l w s
  else if b.hdr ≠ hdrCtrl then lineError l s
  else if w.extractLsb' 0 8 = 0x78#8 then s.modLane l (fun x => { x with rxPart := some (w.extractLsb' 8 56, []) })
  else if w.extractLsb' 0 8 = 0x4B#8 then s
  else lineError l s

/-- The PRBS checker takes 66 bits (R319). -/
def prbsTake (l : Nat) (b : LineBlock) (s : State) : State :=
  let c := laneReg s l Reg.LNK_PRBS_CFG
  if !bit c 1 then s
  else s.modLane l (fun x =>
    let (k, n) := x.chk.bits (fld c 4 2) (bit c 5) (blockBits b)
    { x with chk := k, errCnt := satAdd 48 x.errCnt n })

/-- Blocks arrive one after the other, those of packets and the packets they complete, or the bits of a PRBS sequence (R303, R319). -/
def packetReceive (l : Nat) (bs : List LineBlock) (s : State) : State :=
  forL bs (fun b s =>
    let x := s.lane l
    if !s.chip.started ∨ !x.powered ∨ !x.rxAwake ∨ laneRole s l = 0 then s
    else if x.state = .prbs then prbsTake l b s
    else blockReceive l b s) s

/-! ### Block lock (R294) -/

/-- Whether a receiver can hold block lock. -/
def canLock (s : State) (l : Nat) : Bool :=
  let x := s.lane l
  x.powered && x.rxAwake && decide (laneRole s l ≠ 0) && decide (x.state ≠ .prbs)

/-- 64 consecutive blocks had a valid sync header. -/
def lockGain (l : Nat) (s : State) : State :=
  if !canLock s l ∨ (s.lane l).hdrs ≠ BitVec.allOnes 64 then s else s.modLane l (fun x => { x with lock := true, signal := true })

/-- Invalid sync headers among the last 64 blocks. -/
def badHeaders (x : Lane) : Nat := ((List.range 64).filter (fun i => !x.hdrs.getLsbD i)).length

/-- 16 of the last 64 blocks had an invalid sync header; each was counted as it came (R321). The signal is taken to be gone until it is detected
again (DESIGN CHOICE, log entry 100: R325 gives no end to SIGNAL). -/
def lockLoss (l : Nat) (s : State) : State :=
  if !(s.lane l).lock ∨ badHeaders (s.lane l) < 16 then s
  else
    let s := s.modLane l (fun x => { x with lock := false, signal := false, hdrs := 0, rxPart := none })
    goDown l (laneEvent l 8 s)

/-! ### Credits (R309) -/

/-- One word of a CREDIT packet. -/
def creditWord (l : Nat) (w : W64) (s : State) : State :=
  let h := higherClaim s
  let total := w.extractLsb' 0 32
  match (List.range 64).find? (fun r => rcvEn s r && decide (rcvId s r = w.extractLsb' 48 16)) with
  | none => s.count (lanePage l) Reg.LNK_CREDIT_IGN_CNT
  | some r =>
    match tfind (s.hive h).place.restart r with
    | none => s.count (lanePage l) Reg.LNK_CREDIT_IGN_CNT
    | some (f, last) =>
      let d := shortDiff total last
      if f.extractLsb' 0 16 ≠ w.extractLsb' 32 16 ∨ d ≤ 0 then s.count (lanePage l) Reg.LNK_CREDIT_IGN_CNT
      else setCredit h r (creditOf s h r + d.toNat) (s.modPlace h (fun p => { p with restart := tput p.restart r (f, total) }))

/-- A received CREDIT packet. -/
def creditReceive (l : Nat) (s : State) : State :=
  match takeRx l 6 s with
  | (s, none) => s
  | (s, some p) => forL p.payload (creditWord l) s

/-! ### Sleep (R322, R323) -/

/-- A direction sleeps: the lane is ASLEEP, unless it is powered down or runs PRBS. -/
def fallAsleep (l : Nat) (s : State) : State := laneReady l (leaveUp l s)

/-- Both directions awake: the lane enters TRAINING. -/
def wakeCheck (l : Nat) (s : State) : State :=
  let x := s.lane l
  if x.state = .asleep ∧ x.txAwake ∧ x.rxAwake then
    (if laneRole s l = 0 ∨ !x.powered then s.modLane l (fun x => { x with state := .down }) else startTraining l s)
  else s

/-- Whether the transmit direction of a lane is asked to sleep: by LNK_PWR, or by the budget arbiter (R322, 16_power_reset.md R514). -/
def txAsked (s : State) (l : Nat) : Bool := bit (laneReg s l Reg.LNK_PWR) 0 || (s.chip.removed.contains l && !laneTiming s l)

/-- A write of LNK_PWR asks directions to sleep or to wake; a transmit direction wakes once nothing asks it to sleep. -/
def lnkPwr (l : Nat) (v : W32) (s : State) : State :=
  let old := laneReg s l Reg.LNK_PWR
  let was := txAsked s l
  let s := s.setReg (lanePage l) Reg.LNK_PWR (v &&& 7)
  let s :=
    if txAsked s l ∧ !was then s.modLane l (fun x => { x with sleepTick := some s.tick, txWaking := false })
    else if !txAsked s l ∧ was then s.modLane l (fun x => { x with sleepTick := none, txWaking := !x.txAwake })
    else s
  if bit v 1 ∧ !bit old 1 then fallAsleep l (s.modLane l (fun x => { x with rxAwake := false, rxWaking := false, lock := false, hdrs := 0 }))
  else if !bit v 1 ∧ bit old 1 then s.modLane l (fun x => { x with rxWaking := !x.rxAwake })
  else s

/-- Whether a frame unit whose transmission has begun is not yet acknowledged. -/
def unitBegun (x : Lane) : Bool :=
  x.retry.any TxPacket.isUnit || (match x.waiting.find? TxPacket.isUnit with | some p => (match p.load with | .unit _ first _ => !first | _ => false) | none => false)

/-- A transmit direction asked to sleep falls to electrical idle. -/
def laneTxIdle (l : Nat) (s : State) : State :=
  let x := s.lane l
  match x.sleepTick with
  | none => s
  | some t =>
    if !x.txAwake ∨ (x.state = .up ∧ unitBegun x ∧ s.tick < t + retryTicks s l) then s
    else fallAsleep l (dropStream l (s.modLane l (fun x => { x with txAwake := false, sleepTick := none })))

/-- Receive detect sees a signal (R323). -/
def signalDetect (l : Nat) (s : State) : State :=
  let x := s.lane l
  if !x.powered then s
  else s.modLane l (fun x => { x with signal := true, rxWaking := x.rxWaking || (!x.rxAwake && bit (laneReg s l Reg.LNK_PWR) 2) })

/-- A woken direction is ready (R323). -/
def laneWakeDone (l : Nat) (tx : Bool) (s : State) : State :=
  let x := s.lane l
  if tx then (if x.txWaking then wakeCheck l (s.modLane l (fun x => { x with txWaking := false, txAwake := true })) else s)
  else (if x.rxWaking then wakeCheck l (s.modLane l (fun x => { x with rxWaking := false, rxAwake := true })) else s)

/-! ### PRBS (R319, R320) -/

/-- A generator and a checker as they begin: the generator's register all ones (DESIGN CHOICE, log entry 99), the checker without lock. -/
def prbsStart (gen chk : Bool) (x : Lane) : Lane :=
  let x := if gen then { x with gen := 0x7FFFFFFF } else x
  if chk then { x with chk := {}, chkLock := false } else x

/-- A write of LNK_PRBS_CFG; a POLY of 5 to 7 is ignored. A lane whose role is OFF stays DOWN. -/
def prbsCfg (l : Nat) (v : W32) (s : State) : State :=
  let old := laneReg s l Reg.LNK_PRBS_CFG
  let v := v &&& 0x3F
  let v := if fld v 4 2 ≥ 5 then (v &&& ~~~0x1C#32) ||| (old &&& 0x1C#32) else v
  let s := s.setReg (lanePage l) Reg.LNK_PRBS_CFG v
  let other := decide (fld v 5 2 ≠ fld old 5 2)
  let s := s.modLane l (prbsStart (bit v 0 && (!bit old 0 || other)) (!bit v 1 || !bit old 1 || other))
  if fld v 1 0 ≠ 0 then
    if (s.lane l).state = .prbs ∨ laneRole s l = 0 ∨ !(s.lane l).powered then s
    else (dropStream l (leaveUp l s)).modLane l (fun x => { freshLink x with state := .prbs, lock := false, hdrs := 0 })
  else if (s.lane l).state = .prbs then laneReady l (s.modLane l (fun x => { x with inj := none }))
  else s

/-- A write of LNK_PRBS_INJ: an injection is armed and acts on the bits the generator sends; RATE lasts until STOP. -/
def prbsInj (l : Nat) (v : W32) (s : State) : State :=
  let mode := fld v 1 0
  let exp := fld v 12 8
  let s := if bit v 14 then s.modLane l (fun x => { x with inj := match x.inj with | some (2, _) => none | i => i }) else s
  if !bit v 13 ∨ mode = 3 ∨ (mode = 2 ∧ exp < 4) then s
  else s.modLane l (fun x => { x with inj := some (mode, if mode = 2 then exp else fld v 7 2, 0) })

/-- The checker's lock shows. -/
def chkLock (l : Nat) (s : State) : State :=
  if (s.lane l).state ≠ .prbs ∨ !bit (laneReg s l Reg.LNK_PRBS_CFG) 1 ∨ !(s.lane l).chk.sync ∨ (s.lane l).chkLock then s
  else laneEvent l 16 (s.modLane l (fun x => { x with chkLock := true }))

/-- The checker's loss of lock shows. -/
def chkUnlock (l : Nat) (s : State) : State :=
  if !(s.lane l).chkLock ∨ (s.lane l).chk.sync then s else s.modLane l (fun x => { x with chkLock := false })

/-! ### Role changes at a commit (R295) -/

/-- LNK_CFG of a lane has changed: a lane that is OFF is powered down, one that comes into use takes the state of its directions, and one
that leaves the UPLINK role leaves placement. -/
def laneCommit (l : Nat) (old : W32) (s : State) : State :=
  let r0 := fld old 1 0
  let r := laneRole s l
  if r = 0 ∧ r0 ≠ 0 then (dropStream l (leaveUp l s)).modLane l (fun x => { freshLink x with state := .down, lock := false, signal := false, hdrs := 0, chkLock := false, chk := {} })
  else if r ≠ 0 ∧ r0 = 0 then laneReady l s
  else if r ≠ 0 ∧ (s.lane l).state = .down then goDown l s
  else if r0 = 1 ∧ r ≠ 1 then leavePlacement l s
  else s

/-! ### Status registers (R324, R325) -/

def laneCode : LaneState → Nat
  | .down => 0 | .training => 1 | .up => 2 | .asleep => 3 | .prbs => 4

def lnkStatus (s : State) (l : Nat) : W32 :=
  let x := s.lane l
  let on := x.powered && decide (laneRole s l ≠ 0)
  w32 (laneCode x.state + bitAt x.lock 3 + bitAt x.signal 4 + bitAt (x.txAwake && on) 5 + bitAt (x.rxAwake && on) 6 + bitAt (decide (higherClaim s = .b)) 7)

def lnkUnack (s : State) (l : Nat) : W32 :=
  let ps := (s.lane l).retry
  w32 (ps.length + 2 ^ 16 * ((ps.map (fun p => p.payload.length + 2)).sum))

/-! ### The commands of this chapter that name no access path -/

def execBlockLockGain (lane : Fin 20) (s : State) : Host.Outcome State Fault Refusal := done s (lockGain lane.val s)
def execBlockLockLoss (lane : Fin 20) (s : State) : Host.Outcome State Fault Refusal := done s (lockLoss lane.val s)
def execPacketTransmit (lane : Fin 20) (s : State) : Host.Outcome State Fault Refusal := done s (packetTransmit lane.val s)
def execPacketReceive (lane : Fin 20) (blocks : List LineBlock) (s : State) : Host.Outcome State Fault Refusal :=
  done s (packetReceive lane.val blocks s)
def execRetryTimeout (lane : Fin 20) (s : State) : Host.Outcome State Fault Refusal := done s (retryTimeout lane.val s)
def execNakRepeat (lane : Fin 20) (s : State) : Host.Outcome State Fault Refusal := done s (nakRepeat lane.val s)
def execCreditReceive (lane : Fin 20) (s : State) : Host.Outcome State Fault Refusal := done s (creditReceive lane.val s)
def execLaneTxIdle (lane : Fin 20) (s : State) : Host.Outcome State Fault Refusal := done s (laneTxIdle lane.val s)
def execSignalDetect (lane : Fin 20) (s : State) : Host.Outcome State Fault Refusal := done s (signalDetect lane.val s)
def execLaneWakeDone (lane : Fin 20) (tx : Bool) (s : State) : Host.Outcome State Fault Refusal := done s (laneWakeDone lane.val tx s)
def execPrbsCheckerLock (lane : Fin 20) (s : State) : Host.Outcome State Fault Refusal := done s (chkLock lane.val s)
def execPrbsLockLoss (lane : Fin 20) (s : State) : Host.Outcome State Fault Refusal := done s (chkUnlock lane.val s)

end Sys2Proof.Machine
end

