-- ==== Sys2Proof/Machine/Systems.lean ====
section
/-! DEFINITION. The configuration fingerprint (11_systems.md R360–R364). -/

namespace Sys2Proof.Machine

/-- The fingerprint's CRC with one bit position shifted out. -/
def crc16Shift : Nat → BitVec 16 → BitVec 16
  | 0, c => c
  | n + 1, c => crc16Shift n (if c.getLsbD 15 then (c <<< 1) ^^^ 0x1021#16 else c <<< 1)

/-- The CRC over one input word, most significant byte first (R360). -/
def crc16Word (c : BitVec 16) (w : W32) : BitVec 16 :=
  [24, 16, 8, 0].foldl (fun c i => crc16Shift 8 (c ^^^ ((w.extractLsb' i 8).zeroExtend 16 <<< 8))) c

/-- The fingerprint of a list of words. -/
def fingerprint (ws : List W32) : BitVec 16 := ws.foldl crc16Word 0xFFFF#16

/-- PLC_STATUS: bank and table epoch in force (08_queues_placement.md R289). -/
def plcTable (s : State) : W32 := w32 (bitAt s.chip.plcBank 0 + 2 ^ 16 * s.chip.plcEpoch.toNat)

/-- The inputs of R361; `get` reads the inputs of orders 1–3 and 8. -/
def fpInputs (s : State) (get : Nat → Nat → W32) : List W32 :=
  [get (cfgPage 0x10) Reg.TIM_FRAME_K, get (cfgPage 0x10) Reg.TIM_EPOCH_SEC_LO, get (cfgPage 0x10) Reg.TIM_EPOCH_SEC_HI,
   get (cfgPage 0x10) Reg.TIM_EPOCH_NSEC, get (cfgPage 0x15) Reg.FRM_CTL, plcTable s]
  ++ (List.range 512).map (fun i => s.cfg 0x18 Reg.PLC_TBL i)
  ++ (List.range 64).map (fun i => s.cfg 0x18 Reg.PLC_RCV_ID i)
  ++ [get chipPage Reg.CHIP_FP_TAG]

/-- The fingerprint of the values in force. -/
def fpForce (s : State) : BitVec 16 := fingerprint (fpInputs s (fun p o => s.reg p o))

/-- The fingerprint the next commit would produce (R364). -/
def fpNext (s : State) : BitVec 16 := fingerprint (fpInputs s (fun p o => s.stagedReg p o))

/-- The fingerprint of a boundary at which a commit or a table switch applies comes into force; a change raises FP_CHANGED (R362). -/
def fpCompute (s : State) : State :=
  let old := s.chip.fpNow
  let v := fpForce s
  let s := s.modChip (fun c => { c with fpNow := v })
  if v = old then s else raise s chipPage Reg.CHIP_SYS_EVENTS 2

/-- The registers whose writes make CHIP_FP_STAGED stale (R361, R364): page and offset. -/
def fpInput (pg off : Nat) : Bool :=
  (decide (pg = cfgPage 0x10) && [Reg.TIM_FRAME_K, Reg.TIM_EPOCH_SEC_LO, Reg.TIM_EPOCH_SEC_HI, Reg.TIM_EPOCH_NSEC].contains off)
  || (decide (pg = cfgPage 0x15) && decide (off = Reg.FRM_CTL))
  || (decide (pg = cfgPage 0x18) && [Reg.PLC_TBL, Reg.PLC_RCV_ID].contains off)
  || (decide (pg = chipPage) && decide (off = Reg.CHIP_FP_TAG))

/-- CHIP_FP_STAGED becomes valid again (R364). -/
def fpStagedUpdate (s : State) : State := s.modChip (fun c => { c with fpStaged := fpNext s, fpValid := true })

def execFpStagedUpdate (s : State) : Host.Outcome State Fault Refusal := done s (fpStagedUpdate s)

end Sys2Proof.Machine
end

