-- ==== Sys2Proof/Machine/Leases.lean ====
section
/-! DEFINITION. Leases (12_workers.md R395–R398, R407, R408). An owner is a global worker index, or 255 for the host. -/

namespace Sys2Proof.Machine

/-- The region of a worker: combs 0–5, hives 6 and 7 (R379). -/
abbrev wkRegion (w : Nat) : Nat := w / 24

abbrev hostOwner : Nat := 255

/-- Results of an acquire or release (R395). -/
abbrev lGranted : Nat := 0
abbrev lHeld : Nat := 1
abbrev lNotOwner : Nat := 2
abbrev lRevoked : Nat := 3
abbrev lRange : Nat := 4

/-- The WRK_ page's events of a worker. -/
abbrev wkRaise (w bits : Nat) (s : State) : State := raise s (wrkPage w) Reg.WRK_EVENTS bits
abbrev lseRaise (g bits : Nat) (s : State) : State := raise s (lsePage g) Reg.LSE_EVENTS bits

def State.lease (s : State) (g l : Nat) : Lease := tget {} (s.region g).leases l
def State.modLease (s : State) (g l : Nat) (f : Lease → Lease) : State :=
  s.modRegion g (fun r => { r with leases := tset {} r.leases l (f (tget {} r.leases l)) })

/-- A duration exponent limited to 6–30 (R379). -/
abbrev leaseN (n : Nat) : Nat := max 6 (min 30 n)

/-- A lease granted (R395, R396): the arbiter's pointer moves past a worker that wins. -/
def leaseGive (g l o n : Nat) (s : State) : State :=
  let s := s.modLease g l (fun x => { x with owner := some o, n := leaseN n, since := s.tick, frozenAt := none, noticed := false })
  if o < 192 then s.modRegion g (fun r => { r with ptr := (o % 24 + 1) % 24 }) else s

/-- A lease renewed by its owner: its duration starts again. No arbitration takes place (R395, R396). -/
def leaseRenew (g l n : Nat) (s : State) : State := s.modLease g l (fun x => { x with n := leaseN n, since := s.tick, frozenAt := none, noticed := false })

/-- A lease becomes FREE. -/
def leaseFree (g l : Nat) (s : State) : State :=
  s.modLease g l (fun x => { x with owner := none, n := 0, since := 0, frozenAt := none, noticed := false, freeSince := s.tick })

/-- The owner of a lease is owed REVOKED, and a worker's LEASE_REVOKED is set (R397, R398). -/
def leaseOwed (g l : Nat) (s : State) : State :=
  match (s.lease g l).owner with
  | none => s
  | some o =>
    let s := s.modLease g l (fun x => { x with revoked := if x.revoked.contains o then x.revoked else x.revoked ++ [o] })
    if o < 192 then s.modWorker o (fun w => { w with leaseRevoked := true }) else s

/-- A lease revoked: its duration ended, or its owner was reset (R397). -/
def leaseRevoke (g l : Nat) (s : State) : State :=
  if (s.lease g l).owner.isNone then s
  else lseRaise g 1 ((leaseFree g l (leaseOwed g l s)).count (lsePage g) Reg.LSE_REVOKE_CNT)

/-- The place of a worker in rotating priority from a pointer. -/
def rank24 (ptr w : Nat) : Nat := (w % 24 + 24 - ptr) % 24

/-- Whether a waiter is served before another: the earlier request, then rotating priority (R396). -/
def waiterBefore (ptr : Nat) (a b : Nat × Nat × Nat) : Bool :=
  decide (a.2.1 < b.2.1) || (decide (a.2.1 = b.2.1) && decide (rank24 ptr a.1 < rank24 ptr b.1))

/-- The waiter an arbiter serves next. -/
def nextWaiter (ptr : Nat) : List (Nat × Nat × Nat) → Option (Nat × Nat × Nat)
  | [] => none
  | x :: xs => some (xs.foldl (fun m y => if waiterBefore ptr y m then y else m) x)

/-- A request that met a frozen lease (R398). -/
def leaseMet (g l : Nat) (s : State) : State :=
  let x := s.lease g l
  if x.frozenAt.isNone ∨ x.noticed then s else lseRaise g 2 (s.modLease g l (fun x => { x with noticed := true }))

/-- The REVOKED a former owner is owed is given once. -/
def leaseTakeOwed (g l o : Nat) (s : State) : State := s.modLease g l (fun x => { x with revoked := x.revoked.erase o })

/-- An acquire that does not wait (R395): the state and the result. A free lease for which others wait is not given out of order. -/
def leaseTry (g l o n : Nat) (s : State) : State × Nat :=
  let x := s.lease g l
  if x.revoked.contains o then (leaseTakeOwed g l o s, lRevoked)
  else match x.owner with
    | some p => if p = o then (leaseRenew g l n s, lGranted) else (leaseMet g l s, lHeld)
    | none => if x.waiters.isEmpty then (leaseGive g l o n s, lGranted) else (s, lHeld)

/-- A release (R395). -/
def leaseRelease (g l o : Nat) (s : State) : State × Nat :=
  let x := s.lease g l
  if x.revoked.contains o then (leaseTakeOwed g l o s, lRevoked)
  else if x.owner = some o then (leaseFree g l s, lGranted) else (s, lNotOwner)

/-- The leases of region `g` an owner holds. -/
def leasesOf (s : State) (g o : Nat) : List Nat := ((s.region g).leases.filter (fun e => e.2.owner = some o)).map (·.1)

/-- A halted worker's leases stand still (R398). -/
def leasesFreeze (w : Nat) (s : State) : State :=
  let g := wkRegion w
  forL (leasesOf s g w) (fun l s =>
    let s := s.modLease g l (fun x => { x with frozenAt := some s.tick, noticed := false })
    if (s.lease g l).waiters.isEmpty then s else leaseMet g l s) s

/-- The leases of a worker that leaves its halt run on. -/
def leasesThaw (w : Nat) (s : State) : State :=
  let g := wkRegion w
  forL (leasesOf s g w) (fun l s => s.modLease g l (fun x =>
    match x.frozenAt with
    | some t => { x with since := x.since + (s.tick - t), frozenAt := none, noticed := false }
    | none => x)) s

/-- A worker's requests that wait are withdrawn. -/
def leaseWithdraw (w : Nat) (s : State) : State :=
  let g := wkRegion w
  forL (((s.region g).leases.filter (fun e => e.2.waiters.any (fun x => x.1 = w))).map (·.1))
    (fun l s => s.modLease g l (fun x => { x with waiters := x.waiters.filter (fun y => y.1 ≠ w) })) s

/-- Every lease of a worker is revoked (R397). -/
def leasesRevoke (w : Nat) (s : State) : State := forL (leasesOf s (wkRegion w) w) (leaseRevoke (wkRegion w)) s

/-- The tick at which a held lease's duration ends; none while it is frozen. -/
def leaseEnd (x : Lease) : Option Nat := if x.owner.isNone || x.frozenAt.isSome then none else some (x.since + 2 ^ x.n)

/-- A lease whose duration has ended is revoked; in the very tick of its end a release or a renewal still counts (R397). -/
def leaseExpiry (g l : Nat) (s : State) : State :=
  match leaseEnd (s.lease g l) with
  | some e => if e < s.tick then leaseRevoke g l s else s
  | none => s

/-- The general register `i` of a worker. -/
abbrev wkReg (s : State) (w i : Nat) : W32 := tget 0 (s.worker w).regs i
def setWkReg (w i : Nat) (v : W32) (s : State) : State := s.modWorker w (fun x => { x with regs := tset 0 x.regs i v })

/-- A waiting worker's instruction completes. -/
def wkResumeWait (w : Nat) (s : State) : State :=
  s.modWorker w (fun x => { x with wait := none, access := none, state := .running, pc := (x.pc + 4) % 2 ^ 32 })

/-- A free lease goes to its next waiter, whose LACQ completes (R396). -/
def leaseGrant (g l : Nat) (s : State) : State :=
  let x := s.lease g l
  if x.owner.isSome then s
  else match nextWaiter (s.region g).ptr x.waiters with
    | none => s
    | some q =>
      let s := s.modLease g l (fun x => { x with waiters := x.waiters.erase q })
      let s := leaseGive g l q.1 q.2.2 s
      match (s.worker q.1).wait with
      | some (.lease d _ _) => wkResumeWait q.1 (setWkReg q.1 d (w32 lGranted) s)
      | _ => s

/-- LSE_CTL.ACQUIRE for the host on a path, which never waits (R407). -/
def lseAcquire (p : Path) (g : Nat) (v : W32) (s : State) : State :=
  let l := fld (s.sel p (lsePage g) Reg.LSE_SEL) 5 0
  let (s, r) := leaseTry g l hostOwner (fld v 12 8) s
  s.setSel p (lsePage g) Reg.LSE_HOST_RESULT (w32 r)

/-- LSE_CTL.RELEASE for the host on a path. -/
def lseRelease (p : Path) (g : Nat) (s : State) : State :=
  let l := fld (s.sel p (lsePage g) Reg.LSE_SEL) 5 0
  let (s, r) := leaseRelease g l hostOwner s
  s.setSel p (lsePage g) Reg.LSE_HOST_RESULT (w32 r)

/-- A write of LSE_CTL. -/
def lseCtl (p : Path) (g : Nat) (v : W32) (s : State) : State :=
  let s := if bit v 0 then lseAcquire p g v s else s
  if bit v 1 then lseRelease p g s else s

/-- A write of LSE_FORCE: through the debug port GO frees a held lease, which goes to its next waiter (R398, R407). -/
def lseForce (p : Path) (g : Nat) (v : W32) (s : State) : State :=
  let l := fld v 5 0
  if p ≠ .jtag ∨ !bit v 8 ∨ (s.lease g l).owner.isNone then s
  else leaseGrant g l (lseRaise g 4 ((leaseFree g l (leaseOwed g l s)).count (lsePage g) Reg.LSE_FORCE_CNT))

/-- LSE_STATE of a lease (R408). -/
def lseState (s : State) (g l : Nat) : W32 :=
  let x := s.lease g l
  let st := if x.owner.isNone then 0 else if x.frozenAt.isSome then 2 else 1
  w32 (st + x.owner.getD 0 * 4 + x.n * 2 ^ 10 + 2 ^ 16 * x.waiters.length)

/-- LSE_REMAIN of a lease. -/
def lseRemain (s : State) (g l : Nat) : W32 :=
  let x := s.lease g l
  if x.owner.isNone then 0 else w32 (x.since + 2 ^ x.n - x.frozenAt.getD s.tick)

/-! ### The commands of this part that name no access path -/

def execLeaseGrant (g : Fin 8) (lease : Fin 64) (s : State) : Host.Outcome State Fault Refusal :=
  done s (leaseGrant g.val lease.val s)
def execLeaseExpiry (g : Fin 8) (lease : Fin 64) (s : State) : Host.Outcome State Fault Refusal :=
  done s (leaseExpiry g.val lease.val s)

end Sys2Proof.Machine
end

