-- ==== Sys2Proof/Machine/Caches.lean ====
section
/-! DEFINITION. The data caches of the hive workers (12_workers.md R379, R399–R401): 4 ways by 64 sets of 64-byte lines, kept
coherent by the hive's directory. -/

namespace Sys2Proof.Machine

/-- The lines a worker's cache holds. -/
abbrev cacheOf (s : State) (h : HiveId) (w : Nat) : List CLine := tget [] (s.hive h).caches w
def setCache (h : HiveId) (w : Nat) (ls : List CLine) (s : State) : State :=
  s.modHive h (fun x => { x with caches := tset [] x.caches w ls })

/-- A line leaves a cache; one held M is written back first. -/
def evictLine (h : HiveId) (w : Nat) (c : CLine) (s : State) : State :=
  let s := if c.state = .m then let r := backLine s h c; settle r.1 r.2 else s
  setCache h w ((cacheOf s h w).filter (fun x => x.line ≠ c.line)) s

/-- A way is made free in a line's set. Which line goes is not stated: a free value names it (log entry 1). -/
def makeRoom (h : HiveId) (w line : Nat) (s : State) : State :=
  let set := (cacheOf s h w).filter (fun c => c.line % 64 = line % 64)
  if set.length < 4 then s
  else
    let (v, s) := s.free
    match set[v.toNat % set.length]? with
    | some c => evictLine h w c s
    | none => s

/-- The eight words of a line read from the store. -/
def fillWords (h : HiveId) (line : Nat) (s : State) : State × List (W64 × Bool) :=
  (List.range 8).foldl (fun (s, ws) i =>
    let r := storeRead s h agCache (line * 8 + i)
    (settle r.1 r.2.1, ws ++ [(r.2.2.1, r.2.2.2)])) (s, [])

/-- The copies of a line in the other caches. -/
def otherHolders (s : State) (h : HiveId) (w line : Nat) : Bool := (holders s h line).any (fun x => decide (x.1 ≠ w))

/-- The directory's rotating pointer moves past the worker of a hive it has served (R396, R400). -/
def dirGrant (h : HiveId) (w : Nat) (s : State) : State := s.modHive h (fun x => { x with dirPtr := (w % 24 + 1) % 24 })

/-- A line brought into a cache for reading: E where no other cache holds it, else S. -/
def cacheFetch (h : HiveId) (w line : Nat) (s : State) : State :=
  if (cacheOf s h w).any (fun c => c.line = line) then s
  else
    let s := makeRoom h w line (dirGrant h w s)
    let r := recallRead s h line
    let s := settle r.1 r.2
    let st := if otherHolders s h w line then Mesi.s else Mesi.e
    let (s, ws) := fillWords h line s
    setCache h w (cacheOf s h w ++ [⟨line, ws, st⟩]) s

/-- A line brought into a cache for a store: every other copy goes (R400). -/
def cacheOwn (h : HiveId) (w line : Nat) (s : State) : State :=
  match (cacheOf s h w).find? (fun c => c.line = line) with
  | some c =>
    if c.state = .s then
      (dirGrant h w s).modHive h (fun x => { x with caches := (x.caches.map (fun (v, ls) =>
        (v, if v = w then ls else ls.filter (fun c => c.line ≠ line)))).filter (fun e => !e.2.isEmpty) })
    else s
  | none =>
    let s := makeRoom h w line (dirGrant h w s)
    let r := recallInv s h line
    let s := settle r.1 r.2
    let (s, ws) := fillWords h line s
    setCache h w (cacheOf s h w ++ [⟨line, ws, .e⟩]) s

/-- A word as a worker reads it through its cache. -/
def cacheRead (h : HiveId) (w a : Nat) (s : State) : State × W64 × Bool :=
  let s := cacheFetch h w (a / 8) s
  match (cacheOf s h w).find? (fun c => c.line = a / 8) with
  | some c => let x := c.words.getD (a % 8) (0, false); (s, x.1, x.2)
  | none => (s, 0, true)

/-- A store through a cache: false where a narrow store meets a poisoned word (R387, 13_memory.md R418). -/
def cacheWrite (h : HiveId) (w a : Nat) (x : W64) (mask : BitVec 8) (s : State) : State × Bool :=
  let s := cacheOwn h w (a / 8) s
  match (cacheOf s h w).find? (fun c => c.line = a / 8) with
  | none => (s, false)
  | some c =>
    let old := c.words.getD (a % 8) (0, false)
    let y := s.honey h
    if y.retiredAt a then let r := storeWrite s h agCache a x false; (settle r.1 r.2.1, false)
    else if old.2 && mask ≠ 0xFF#8 then
      if y.stateOf a = .poison then let r := storeNarrow s h agCache a x mask; (settle r.1 r.2.1, false) else (s, false)
    else
      let c' : CLine := { c with words := lset c.words (a % 8) (mergeBytes old.1 x mask, false), state := .m }
      (setCache h w ((cacheOf s h w).map (fun d => if d.line = c.line then c' else d)) s, true)

/-- Every line of a cache written back and invalidated (R401). -/
def cacheFlush (h : HiveId) (w : Nat) (s : State) : State := forL (cacheOf s h w) (evictLine h w) s

end Sys2Proof.Machine
end

