-- ==== Sys2Proof/Machine/Workers.lean ====
section
/-! DEFINITION. Workers: states, faults, halts, resets, local memories, the address map, loads and stores, streams, the
mailbox, waiting (12_workers.md R379–R404). An instruction command names the word the worker fetches at its PC; it acts only while the
worker runs (log entry 13). -/

namespace Sys2Proof.Machine

/-- Whether a worker belongs to a comb. -/
abbrev isComb (w : Nat) : Bool := decide (w < 144)
/-- The hive a hive worker belongs to. -/
def ownHive (w : Nat) : HiveId := if w < 168 then .a else .b
/-- The hive whose queues and store a worker reaches (R382, R390). -/
def wkHive (s : State) (w : Nat) : HiveId := if isComb w then higherClaim s else ownHive w
/-- A worker as a producer (R381). -/
abbrev wkProducer (w : Nat) : Producer := .path (64 + w)
/-- The guard source of a worker's faults (14_redundancy_faults.md R453, R454). -/
abbrev wkGuardSrc (w : Nat) : Nat := if isComb w then 14 else 3

/-- An access to a domain sets its ACCESS vote (16_power_reset.md R501). -/
def touch (d : Nat) (s : State) : State := s.modDomain d (fun x => { x with access := true, lastAccess := s.tick })

/-- Whether a worker's clock runs: its domain is in Run and enters no lower state (16_power_reset.md R498, R506). -/
def wkClocked (s : State) (w : Nat) : Bool :=
  let d := s.domain (wkRegion w)
  !d.inReset && decide (d.state = .run) && d.entry.isNone

/-! ### Leaving a state (R386, R387, R391, R402) -/

/-- The worker's open packet is aborted as bad: its producer is owed ABORTED (08_queues_placement.md R266). -/
def dropPacket (w : Nat) (s : State) : State :=
  match (s.worker w).openQ with
  | none => s
  | some q =>
    let kill (h : HiveId) (s : State) : State :=
      if (s.queue h q).opened = some (wkProducer w) then qKill s h q else s
    (kill .b (kill .a s)).modWorker w (fun x => { x with openQ := none })

/-- One packet popped from a queue: its words behind the packet word, with poison. -/
def popPacket (h : HiveId) (q : Nat) (s : State) : State × Option (List (W64 × Bool)) :=
  match qPop s h q with
  | (s, none) => (s, none)
  | (s, some (pw, _)) =>
    let n := fieldN pw.toNat 63 40
    let (s, ws) := (List.range (min n (qPeek s h q).count)).foldl (fun (s, ws) _ =>
      match qPop s h q with
      | (s, some x) => (s, ws ++ [x])
      | (s, none) => (s, ws)) (s, [])
    (s, some ws)

/-- The two words of a job packet. -/
def jobOf (ws : List (W64 × Bool)) : W64 × W64 := ((ws.getD 0 (0, false)).1, (ws.getD 1 (0, false)).1)

/-- The jobs in a mailbox, taken out, at most `fuel` of them. -/
def takeJobs (h : HiveId) (q : Nat) : Nat → State → State × List (W64 × W64)
  | 0, s => (s, [])
  | n + 1, s =>
    match popPacket h q s with
    | (s, none) => (s, [])
    | (s, some ws) => let r := takeJobs h q n s; (r.1, jobOf ws :: r.2)

/-- Unpopped jobs go back ahead of the head of their intake (08_queues_placement.md R286). -/
def giveBack (w : Nat) (s : State) : State :=
  let h := wkHive s w
  let q := 256 + w
  let (s, js) := takeJobs h q (qPeek s h q).count s
  let i := min (wkRegion w) 6
  s.modPlace h (fun p => { p with jobsBack := tset [] p.jobsBack i (js ++ tget [] p.jobsBack i) })

/-- An active job is discarded and counted (R387). -/
def dropJob (w : Nat) (s : State) : State :=
  if !(s.worker w).jobActive then s
  else
    let s := s.modWorker w (fun x => { x with jobActive := false, lostTag := x.jobTag, jobTag := 0 })
    wkRaise w 4 (s.count (wrkPage w) Reg.WRK_JOB_LOST_CNT)

/-- A worker faults (R387); its leases stay. -/
def wkFault (w cause addr : Nat) (s : State) : State :=
  let s := leaseWithdraw w s
  let s := s.modWorker w (fun x => { x with
    state := .fault, cause := cause, faultAddr := w32 addr, wait := none, access := none, stepping := false, haltReq := false })
  let s := dropJob w (giveBack w (dropPacket w s))
  guardEvent (wkRaise w 1 s) (wkRegion w) (wkGuardSrc w)

abbrev fIllegal : Nat := 1
abbrev fAddress : Nat := 2
abbrev fPoison : Nat := 3
abbrev fUnreachable : Nat := 4
abbrev fBreak : Nat := 5
abbrev fRefused : Nat := 6

/-- ILLEGAL names the instruction's own address. -/
def wkIllegal (w : Nat) (s : State) : State := wkFault w fIllegal (s.worker w).pc s

/-- A debug halt takes effect (R402). -/
def wkHalt (w : Nat) (s : State) : State :=
  let s := leaseWithdraw w s
  let s := s.modWorker w (fun x => { x with state := .halted, wait := none, haltReq := false, stepping := false, haltTick := s.tick })
  wkRaise w 2 (giveBack w (leasesFreeze w s))

/-- A halted worker runs again; the timer of its open packet stood still (08_queues_placement.md R267). -/
def wkUnhalt (w : Nat) (step : Bool) (s : State) : State :=
  if (s.worker w).state ≠ .halted then s
  else
    let still := s.tick - (s.worker w).haltTick
    let thawQ (h : HiveId) (s : State) : State :=
      match (s.worker w).openQ with
      | some q => if (s.queue h q).opened = some (wkProducer w) then s.modQueue h q (fun x => { x with frozen := x.frozen + still }) else s
      | none => s
    let s := leasesThaw w (thawQ .b (thawQ .a s))
    s.modWorker w (fun x => { x with state := .running, stepping := step })

/-- A worker's reset (R397, R401, R404, R406): RESET copies the resident code in again, STOP keeps the memories. The memories above the
limits stay in either case. -/
def wkReset (w : Nat) (reload : Bool) (s : State) : State :=
  let s := leasesRevoke w (leaseWithdraw w s)
  let s := dropJob w (giveBack w (dropPacket w s))
  let s := if isComb w then s else cacheFlush (ownHive w) w s
  let s := { s with stalls := terase s.stalls (64 + w) }
  s.modWorker w (fun x => {
    lostTag := x.lostTag, imem := x.imem, dmem := x.dmem, ktab := if reload then [] else x.ktab
    lerr := if reload then x.lerr.filter (fun e => decide (Config.fwLimit w ≤ 4 * e.1)) else x.lerr })

/-! ### Local memories (R382, R383) -/

/-- Where an address lies for a worker. -/
inductive Place4 where
  | imem (a : Nat)
  | dmem (a : Nat)
  | honey (a : Nat) (cached : Bool)
  | nowhere
deriving DecidableEq, Repr

def placeOf (w a : Nat) : Place4 :=
  if isComb w then
    if a < 0x8000 then .imem a
    else if 0x10000 ≤ a ∧ a < 0x20000 then .dmem (a - 0x10000)
    else if 0x40000000 ≤ a ∧ a < 0x43000000 then .honey (a - 0x40000000) false
    else .nowhere
  else if a < 0x10000 then .imem a
  else if 0x20000 ≤ a ∧ a < 0x40000 then .dmem (a - 0x20000)
  else if 0x40000000 ≤ a ∧ a < 0x43000000 then .honey (a - 0x40000000) true
  else if 0x50000000 ≤ a ∧ a < 0x53000000 then .honey (a - 0x50000000) false
  else .nowhere

/-- A byte of a worker's local memory; instruction memory holds the resident code below its limit (R404). -/
def localByte (w : Nat) (x : Worker) (data : Bool) (a : Nat) : BitVec 8 :=
  if data then x.dmem.get a else if a < Config.fwLimit w then Config.firmwareByte w a else x.imem.get a

/-- The number in `n` bytes of a worker's local memory, the lowest address least significant. -/
def localBytes (w : Nat) (x : Worker) (data : Bool) (a : Nat) : Nat → Nat
  | 0 => 0
  | n + 1 => (localByte w x data a).toNat + 256 * localBytes w x data (a + 1) n

/-- The key of a local word's bad bits: instruction memory first, then data memory. -/
abbrev lerrKey (data : Bool) (a : Nat) : Nat := a / 4 + if data then 2 ^ 20 else 0

/-- One 32-bit local word read with its error correction: false where it is uncorrectable. -/
def localWord (w : Nat) (data : Bool) (a : Nat) (s : State) : State × W32 × Bool :=
  let x := s.worker w
  let v := w32 (localBytes w x data (a / 4 * 4) 4)
  match tget [] x.lerr (lerrKey data a) with
  | [] => (s, v, true)
  | [_] =>
    let s := s.modWorker w (fun x => { x with lerr := tset [] x.lerr (lerrKey data a) [] })
    (s.count (wrkPage w) Reg.WRK_ECC_CNT, v, true)
  | bits =>
    if bits.length = 2 || Config.multiErrorDetected (lerrKey data a) then (s, v, false)
    else let (f, s) := s.free; (s, f.extractLsb' 0 32, true)

/-- A local word as a read without side effect shows it, and whether it is found to be uncorrectable. -/
def localPeek (s : State) (w : Nat) (data : Bool) (a : Nat) : W32 × Bool :=
  let r := localWord w data a s
  (r.2.1, !r.2.2)

/-- A local read of 1, 4 or 8 bytes. -/
def localRead (w : Nat) (data : Bool) (a size : Nat) (s : State) : State × W64 × Bool :=
  let (s, lo, g1) := localWord w data a s
  if size = 1 then (s, BitVec.ofNat 64 (lo.toNat / 2 ^ (8 * (a % 4)) % 256), g1)
  else if size = 4 then (s, lo.zeroExtend 64, g1)
  else
    let (s, hi, g2) := localWord w data (a + 4) s
    (s, hi ++ lo, g1 && g2)

/-- A store to data memory. A narrow store to a word that cannot be corrected faults POISON. -/
def localWrite (w a size : Nat) (x : W64) (s : State) : State × Bool :=
  let put (s : State) : State := s.modWorker w (fun y => { y with
    dmem := y.dmem.setN a size x.toNat
    lerr := if size = 1 then y.lerr else tset [] (tset [] y.lerr (lerrKey true a) []) (lerrKey true (a + size - 4)) [] })
  if size = 1 then
    let (s, _, good) := localWord w true a s
    if good then (put s, true) else (s, false)
  else (put s, true)

/-! ### Results in registers -/

/-- A register written and the PC advanced. -/
def wkNext (w : Nat) (s : State) : State := s.modWorker w (fun x => { x with pc := (x.pc + 4) % 2 ^ 32 })

/-- The pair `d`, `d + 1` written. -/
def setPair (w d : Nat) (x : W64) (s : State) : State :=
  setWkReg w (d + 1) (x.extractLsb' 32 32) (setWkReg w d (x.extractLsb' 0 32) s)
def pairOf (s : State) (w d : Nat) : W64 := wkReg s w (d + 1) ++ wkReg s w d

/-- The destination of a load written: a word, or a pair for 8 bytes. -/
def setLoad (w d size : Nat) (x : W64) (s : State) : State :=
  if size = 8 then setPair w d x s else setWkReg w d (x.extractLsb' 0 32) s

/-! ### The honey store (R383) -/

/-- Whether a hive answers accesses of comb workers. -/
def hiveUp (s : State) (h : HiveId) : Bool := let d := s.domain (hiveDom h); !d.inReset && decide (d.state = .run)

/-- The bytes of a word that an access of `size` bytes at byte address `a` covers. -/
def byteMask (a size : Nat) : BitVec 8 := BitVec.ofNat 8 ((2 ^ size - 1) * 2 ^ (a % 8))

/-- A load from the store completed: register, PC, or a fault POISON. -/
def honeyLoad (w : Nat) (h : HiveId) (cached : Bool) (d a size addr : Nat) (s : State) : State :=
  let (s, x, bad) :=
    if cached then cacheRead h w (a / 8) s
    else hRead s h (if isComb w then agComb else agUncached) (a / 8)
  if bad then wkFault w fPoison addr s
  else
    let v : W64 := if size = 8 then x else BitVec.ofNat 64 (x.toNat / 2 ^ (8 * (a % 8)) % 2 ^ (8 * size))
    wkNext w (setLoad w d size v s)

/-- A store to the store completed: PC, or a fault WRITE_REFUSED. -/
def honeyStore (w : Nat) (h : HiveId) (cached : Bool) (a size addr : Nat) (x : W64) (s : State) : State :=
  let y : W64 := x <<< (8 * (a % 8))
  let mask := byteMask a size
  let (s, ok) :=
    if cached then cacheWrite h w (a / 8) y mask s
    else
      let ag := if isComb w then agComb else agUncached
      let r := if size = 8 then hWrite s h ag (a / 8) x else hNarrow s h ag (a / 8) y mask
      (r.1, !r.2)
  if ok then wkNext w s else wkFault w fRefused addr s

/-- An access that must wait for its hive is outstanding; the worker stays RUNNING (R383, 16_power_reset.md R503). -/
def outstanding (w : Nat) (h : HiveId) (f : WaitFor) (s : State) : State :=
  (touch (hiveDom h) s).modWorker w (fun x => { x with wait := some f, access := some (h, s.tick) })

/-- A load. -/
def wkLoad (w d size addr : Nat) (s : State) : State :=
  if size = 8 ∧ d % 2 = 1 then wkIllegal w s
  else if addr % size ≠ 0 then wkFault w fAddress addr s
  else match placeOf w addr with
    | .nowhere => wkFault w fAddress addr s
    | .imem a =>
      let (s, x, good) := localRead w false a size s
      if good then wkNext w (setLoad w d size x s) else wkFault w fPoison addr s
    | .dmem a =>
      let (s, x, good) := localRead w true a size s
      if good then wkNext w (setLoad w d size x s) else wkFault w fPoison addr s
    | .honey a cached =>
      let h := wkHive s w
      if isComb w && !hiveUp s h then outstanding w h (.load d a size) s
      else honeyLoad w h cached d a size addr (if isComb w then touch (hiveDom h) s else s)

/-- A store. -/
def wkStore (w d size addr : Nat) (s : State) : State :=
  if size = 8 ∧ d % 2 = 1 then wkIllegal w s
  else if addr % size ≠ 0 then wkFault w fAddress addr s
  else
    let x : W64 := if size = 8 then pairOf s w d
      else BitVec.ofNat 64 ((wkReg s w d).toNat % 2 ^ (8 * size))
    match placeOf w addr with
    | .nowhere => wkFault w fAddress addr s
    | .imem _ => wkFault w fAddress addr s
    | .dmem a =>
      let (s, good) := localWrite w a size x s
      if good then wkNext w s else wkFault w fPoison addr s
    | .honey a cached =>
      let h := wkHive s w
      if isComb w && !hiveUp s h then outstanding w h (.store a size x) s
      else honeyStore w h cached a size addr x (if isComb w then touch (hiveDom h) s else s)

/-- An outstanding honey-store access completes against the hive it was issued to, once that hive answers. -/
def finishAccess (w : Nat) (s : State) : State :=
  let x := s.worker w
  match x.access, x.wait with
  | some (h, _), some (.load d a size) =>
    if !hiveUp s h then s
    else honeyLoad w h false d a size (0x40000000 + a) (s.modWorker w (fun x => { x with wait := none, access := none }))
  | some (h, _), some (.store a size v) =>
    if !hiveUp s h then s
    else honeyStore w h false a size (0x40000000 + a) v (s.modWorker w (fun x => { x with wait := none, access := none }))
  | _, _ => s

/-! ### Record streams (R388, R389) -/

/-- The input port reads ahead, up to 16 records, while its hive answers. -/
def portFill (w : Nat) : Nat → State → State
  | 0, s => s
  | n + 1, s =>
    let p := (s.worker w).inPort
    let h := wkHive s w
    if !p.opened ∨ p.left = 0 ∨ p.buf.length ≥ 16 ∨ p.waddr ≥ honeyWords ∨ !hiveUp s h then s
    else
      let (s, x) := hRead s h agStream p.waddr
      portFill w n (s.modWorker w (fun y => { y with
        inPort := { y.inPort with waddr := y.inPort.waddr + 1, left := y.inPort.left - 1, buf := y.inPort.buf ++ [x] } }))

/-- Records put are written in address order while their hive answers; false where one was refused. -/
def portDrain (w : Nat) : Nat → State → State × Bool
  | 0, s => (s, true)
  | n + 1, s =>
    let p := (s.worker w).outPort
    let h := wkHive s w
    match p.buf with
    | [] => (s, true)
    | (x, _) :: rest =>
      if !hiveUp s h then (s, true)
      else
        let (s, refused) := hWrite s h agStream p.waddr x
        let s := s.modWorker w (fun y => { y with outPort := { y.outPort with waddr := y.outPort.waddr + 1, buf := rest } })
        if refused then (s, false) else portDrain w n s

/-- The address a worker sees a honey-store word at. -/
abbrev seenAt (a : Nat) : Nat := 0x40000000 + 8 * a

/-- The records put reach the store; a refused one is a fault WRITE_REFUSED. -/
def portSettle (w : Nat) (s : State) : State × Bool :=
  let a := (s.worker w).outPort.waddr
  let (s, ok) := portDrain w 17 s
  if ok then (s, true) else (wkFault w fRefused (seenAt a) s, false)

/-- The word address a stream opens on: out of the store or not 8-byte aligned is a fault ADDRESS (R382, R388). -/
def streamAddr (x : W32) : Option Nat :=
  let a := x.toNat
  if a < honeyWords then some a else none

def wkSin (w a b : Nat) (s : State) : State :=
  match streamAddr (wkReg s w a) with
  | none => wkFault w fAddress (wkReg s w a).toNat s
  | some x =>
    let s := s.modWorker w (fun y => { y with inPort := ⟨x, (wkReg s w b).toNat, [], true⟩ })
    wkNext w (portFill w 16 s)

/-- The output port opened on its new stream, once the records put before have reached the store. -/
def openOut (w x n : Nat) (s : State) : Option State :=
  let (s, ok) := portSettle w s
  if !ok then some s
  else if !(s.worker w).outPort.buf.isEmpty then none
  else some (wkResumeWait w (s.modWorker w (fun y => { y with outPort := ⟨x, n, [], true⟩ })))

def wkSout (w a b : Nat) (s : State) : State :=
  match streamAddr (wkReg s w a) with
  | none => wkFault w fAddress (wkReg s w a).toNat s
  | some x =>
    let n := (wkReg s w b).toNat
    (openOut w x n s).getD (s.modWorker w (fun y => { y with
      state := .waiting, wait := some (.sout x n), access := some (wkHive s w, s.tick) }))

/-- A GET: its state once a record is there, or the count is exhausted, as it is for a port that was never opened. -/
def takeRecord (w d a : Nat) (s : State) : Option State :=
  let s := portFill w 16 s
  let p := (s.worker w).inPort
  match p.buf with
  | (x, bad) :: rest =>
    let s := s.modWorker w (fun y => { y with inPort := { y.inPort with buf := rest } })
    some (wkResumeWait w (setWkReg w a (if bad then 2 else 0) (setPair w d x (portFill w 16 s))))
  | [] =>
    if p.left = 0 then some (wkResumeWait w (setWkReg w a 1 (setPair w d 0 s)))
    else if p.waddr ≥ honeyWords then some (wkFault w fAddress (seenAt p.waddr) s)
    else none

def wkGet (w d a : Nat) (s : State) : State :=
  if d % 2 = 1 then wkIllegal w s
  else match takeRecord w d a s with
    | some s => s
    | none => s.modWorker w (fun y => { y with state := .waiting, wait := some (.get d a), access := some (wkHive s w, s.tick) })

/-- A record taken by the output port, whose `left` counts the records still to be put. -/
def putRecord (w : Nat) (x : W64) (s : State) : State :=
  s.modWorker w (fun y => { y with outPort := { y.outPort with left := y.outPort.left - 1, buf := y.outPort.buf ++ [(x, false)] } })

/-- A PUT: its state, or none while 16 records are unwritten. -/
def tryPut (w d a : Nat) (s : State) : Option State :=
  let p := (s.worker w).outPort
  if p.left = 0 then some (wkResumeWait w (setWkReg w a 1 s))
  else if p.buf.length ≥ 16 then none
  else if p.waddr + p.buf.length ≥ honeyWords then some (wkFault w fAddress (seenAt (p.waddr + p.buf.length)) s)
  else
    let (s, ok) := portSettle w (putRecord w (pairOf s w d) s)
    some (if ok then wkResumeWait w (setWkReg w a 0 s) else s)

def wkPut (w d a : Nat) (s : State) : State :=
  if d % 2 = 1 then wkIllegal w s
  else
    let (s, ok) := portSettle w s
    if !ok then s
    else match tryPut w d a s with
      | some s => s
      | none => s.modWorker w (fun y => { y with state := .waiting, wait := some (.put d a), access := some (wkHive s w, s.tick) })

/-! ### Queues (R390) -/

/-- The access path of a worker. -/
def wkPath (w : Nat) : Path := .worker (Fin.ofNat 192 w)

/-- The result of a producer access, as Q_PSTATUS keeps it for the path (08_queues_placement.md R288). -/
def setQResult (p : Path) (h : HiveId) (r : Nat) (s : State) : State := s.setSel p (qPage h) Reg.Q_PSTATUS (w32 r)

/-- EMPTY, OVER and OWNER as the path's last pop and last release left them, at their places in Q_STATUS (R288). A pop sets
EMPTY and OWNER, a release OVER and OWNER. -/
def setQFlags (p : Path) (h : HiveId) (keep bits : Nat) (s : State) : State :=
  s.setSel p (qPage h) Reg.Q_STATUS ((s.sel p (qPage h) Reg.Q_STATUS &&& w32 keep) ||| w32 bits)
abbrev flEmpty : Nat := 0x100
abbrev flOver : Nat := 0x200
abbrev flOwner : Nat := 0x400

/-- The result of a worker's producer access, in a register and in Q_PSTATUS. -/
def wkResult (w : Nat) (h : HiveId) (d r : Nat) (s : State) : State :=
  wkNext w (setWkReg w d (w32 r) (setQResult (wkPath w) h r s))

/-- QRES. A number above 65,535 is no queue. -/
def wkQres (w d a b : Nat) (s : State) : State :=
  let q := (wkReg s w a).toNat
  let n := (wkReg s w b).toNat
  let h := wkHive s w
  let busy := match (s.worker w).openQ with | some q' => decide (q' ≠ q) | none => false
  if busy then wkResult w h d qBusy s
  else
    let (s, r) := qReserve s h q (wkProducer w) n
    let s := if r = qOk then s.modWorker w (fun x => { x with openQ := some q }) else s
    wkResult w h d r s

/-- Queues to which a worker that holds no open packet may owe its one-time result. -/
def owedQueue (s : State) (h : HiveId) (w : Nat) : Option Nat :=
  ((s.hive h).queues.find? (fun e => (tfind e.2.owed (64 + w)).isSome)).map (·.1)

/-- The queue a push, commit or abort of a worker goes to: that of its open packet, else the one that owes it a result. -/
def packetQueue (s : State) (w : Nat) : HiveId × Option Nat :=
  let h := wkHive s w
  match (s.worker w).openQ with
  | some q => (if (s.queue h q).opened = some (wkProducer w) then h else if (s.queue (otherHive h) q).opened = some (wkProducer w)
      then otherHive h else h, some q)
  | none => (h, owedQueue s h w)

/-- After an access the worker holds its packet only while the queue says so. -/
def syncPacket (h : HiveId) (w q : Nat) (s : State) : State :=
  if (s.queue h q).opened = some (wkProducer w) then s else s.modWorker w (fun x => { x with openQ := none })

def wkQpush (w d a : Nat) (s : State) : State :=
  if d % 2 = 1 then wkIllegal w s
  else match packetQueue s w with
    | (h, none) => wkResult w h a qAborted s
    | (h, some q) =>
      let (s, r) := qWrite s h q (wkProducer w) (pairOf s w d)
      wkResult w h a r (syncPacket h w q s)

def wkQcommit (w d : Nat) (s : State) : State :=
  match packetQueue s w with
  | (h, none) => wkResult w h d qAborted s
  | (h, some q) =>
    let (s, r, _) := qCommit s h q (wkProducer w)
    wkResult w h d r (syncPacket h w q s)

def wkQabort (w d : Nat) (s : State) : State :=
  match packetQueue s w with
  | (h, none) => wkResult w h d qAborted s
  | (h, some q) =>
    let (s, r) := qAbort s h q (wkProducer w)
    wkResult w h d r (syncPacket h w q s)

/-- A QPOP, which only the own mailbox and user queues answer. The code of a refusal with OWNER is not stated: a free value
(log entry 1). -/
def wkQpop (w d a b : Nat) (s : State) : State :=
  if d % 2 = 1 then wkIllegal w s
  else
    let q := (wkReg s w a).toNat
    let h := wkHive s w
    if !(decide (q = 256 + w) || decide (1024 ≤ q ∧ q < 65536)) then
      let (v, s) := s.free
      wkNext w (setWkReg w b (v.extractLsb' 0 32) (setPair w d 0 (setQFlags (wkPath w) h flOver flOwner s)))
    else match qPop s h q with
      | (s, none) => wkNext w (setWkReg w b 7 (setPair w d 0 (setQFlags (wkPath w) h flOver flEmpty s)))
      | (s, some (x, _)) => wkNext w (setWkReg w b (w32 qOk) (setPair w d x (setQFlags (wkPath w) h flOver 0 s)))

/-! ### Jobs (R391, R392) -/

/-- The next job of the mailbox whose kernel the worker holds, at most `fuel` jobs looked at. -/
def jobTake (w : Nat) : Nat → State → Option State
  | 0, _ => none
  | n + 1, s =>
    let h := wkHive s w
    match popPacket h (256 + w) s with
    | (_, none) => none
    | (s, some ws) =>
      let (j0, j1) := jobOf ws
      match kernelEntry s w (fieldN j0.toNat 63 48) with
      | none =>
        let s := wkRaise w 8 (s.count (wrkPage w) Reg.WRK_KERNEL_MISS_CNT)
        match jobTake w n s with
        | some t => some t
        | none => some s
      | some e =>
        let tag := j0.extractLsb' 0 32
        let s := setWkReg w 4 (w32 (fieldN j0.toNat 47 40)) (setWkReg w 3 (j1.extractLsb' 32 32)
          (setWkReg w 2 (j1.extractLsb' 0 32) (setWkReg w 1 tag s)))
        let s := setWkReg w 15 (w32 ((s.worker w).pc + 4)) s
        some (s.modWorker w (fun x => { x with
          jobActive := true, jobTag := tag, pc := fld (ktabOf s w e) 31 18 * 4, state := .running, wait := none, access := none }))

/-- JPOP, or a waiting one taken up again. -/
def wkJpop (w : Nat) (s : State) : State :=
  let s' := s.modWorker w (fun x => { x with state := .waiting, wait := some .job })
  match jobTake w ((qPeek s (wkHive s w) (256 + w)).count + 1) s' with
  | some t => t
  | none => s'

def wkJend (w : Nat) (s : State) : State :=
  if !(s.worker w).jobActive then wkIllegal w s
  else
    let s := s.count (wrkPage w) Reg.WRK_JOB_CNT
    s.modWorker w (fun x => { x with jobActive := false, jobTag := 0, pc := (tget 0 x.regs 15).toNat })

/-! ### Leases (R395, R398) -/

def wkAcquire (w d a n : Nat) (wait : Bool) (s : State) : State :=
  let v := (wkReg s w a).toNat
  let g := wkRegion w
  if v ≥ 64 then wkNext w (setWkReg w d (w32 lRange) s)
  else
    let (s, r) := leaseTry g v w n s
    if r = lHeld && wait then
      let s := s.modLease g v (fun x => { x with waiters := x.waiters ++ [(w, s.tick, n)] })
      s.modWorker w (fun x => { x with state := .waiting, wait := some (.lease d v n) })
    else wkNext w (setWkReg w d (w32 r) s)

def wkLrel (w d a : Nat) (s : State) : State :=
  let v := (wkReg s w a).toNat
  if v ≥ 64 then wkNext w (setWkReg w d (w32 lRange) s)
  else
    let (s, r) := leaseRelease (wkRegion w) v w s
    wkNext w (setWkReg w d (w32 r) s)

/-! ### Events (R394) -/

/-- The events that hold. -/
def wkEvents (s : State) (w : Nat) : Nat :=
  let x := s.worker w
  let h := wkHive s w
  let inp := x.inPort.opened && (!x.inPort.buf.isEmpty || decide (x.inPort.left = 0))
  let out := x.outPort.opened && decide (x.outPort.buf.length < 16)
  bitAt (decide ((qPeek s h (256 + w)).count > 0)) 0 + bitAt (inp || out) 1 + bitAt (decide (x.timer = 0)) 2
    + bitAt x.doorbell 3 + bitAt x.frameEv 4

/-- A WAIT: its state once an event of the mask holds. -/
def tryWait (w d : Nat) (mask : BitVec 5) (s : State) : Option State :=
  let ev := BitVec.ofNat 5 (wkEvents s w) &&& mask
  if ev = 0 then none
  else
    let s := s.modWorker w (fun x => { x with doorbell := x.doorbell && !ev.getLsbD 3, frameEv := x.frameEv && !ev.getLsbD 4 })
    some (wkResumeWait w (setWkReg w d (ev.zeroExtend 32) s))

def wkWait (w d : Nat) (mask : BitVec 5) (s : State) : State :=
  if mask = 0 then wkIllegal w s
  else
    let s := portFill w 16 s
    match tryWait w d mask s with
    | some s => s
    | none => s.modWorker w (fun x => { x with state := .waiting, wait := some (.events d mask) })

/-! ### Waits that end -/

/-- What follows an instruction that has completed: a step halts again, and a requested halt takes effect at the boundary. -/
def wkAfter (w : Nat) (s : State) : State :=
  let x := s.worker w
  if x.wait.isNone && decide (x.state = .running) && (x.stepping || x.haltReq) then wkHalt w s
  else if x.haltReq && decide (x.state = .waiting) then wkHalt w s
  else s

/-- A worker whose condition holds completes its instruction (R380). -/
def waitMet (w : Nat) (s : State) : State :=
  let x := s.worker w
  if !wkClocked s w ∨ x.flushing then s
  else match x.wait with
    | some (.events d mask) =>
      let s := portFill w 16 s
      match tryWait w d mask s with
      | some s => wkAfter w s
      | none => s
    | some .job => wkAfter w (wkJpop w s)
    | some (.get d a) =>
      match takeRecord w d a s with
      | some s => wkAfter w s
      | none => s
    | some (.put d a) =>
      let (s, ok) := portSettle w s
      if !ok then s
      else match tryPut w d a s with
        | some s => wkAfter w s
        | none => s
    | some (.sout x n) =>
      match openOut w x n s with
      | some s => wkAfter w s
      | none => s
    | some (.load _ _ _) => wkAfter w (finishAccess w s)
    | some (.store _ _ _) => wkAfter w (finishAccess w s)
    | _ => s

/-- An outstanding access of a comb worker has seen no answer for 4,096 ticks (R383). -/
def accessTimeout (w : Nat) (s : State) : State :=
  let x := s.worker w
  match x.access with
  | some (h, t) =>
    let a := match x.wait with
      | some (.load _ a _) => 0x40000000 + a
      | some (.store a _ _) => 0x40000000 + a
      | some (.get _ _) => seenAt x.inPort.waddr
      | some (.put _ _) => seenAt x.outPort.waddr
      | some (.sout _ _) => seenAt x.outPort.waddr
      | _ => 0
    if !isComb w ∨ s.tick < t + 4096 ∨ hiveUp s h then s else wkFault w fUnreachable a s
  | none => s

/-! ### One instruction -/

/-- Whether a breakpoint stands at the worker's PC (R402, R405). -/
def breakHere (s : State) (w : Nat) : Bool :=
  (List.range 4).any (fun i =>
    let b := s.reg (wrkPage w) (Reg.WRK_BP_0 + 4 * i)
    bit b 0 && decide (fld b 15 2 = (s.worker w).pc / 4))

/-- The bytes of a worker's instruction memory (R379). -/
abbrev imemBytes (w : Nat) : Nat := if isComb w then 0x8000 else 0x10000

/-- A running worker executes one instruction: a breakpoint halts it before, unless it steps; a PC outside its instruction memory is a
fault ADDRESS. -/
def wkDo (w : Nat) (f : State → State) (s : State) : State :=
  let x := s.worker w
  if x.state ≠ .running ∨ x.wait.isSome ∨ x.flushing ∨ !wkClocked s w then s
  else if breakHere s w && !x.stepping then wkHalt w s
  else if x.pc ≥ imemBytes w then wkAfter w (wkFault w fAddress x.pc s)
  else wkAfter w (f s)

end Sys2Proof.Machine
end

