-- ==== Sys2Proof/Machine/WorkerIsa.lean ====
section
/-! DEFINITION. The worker instruction set (12_workers.md R384, R385), one meaning for each instruction, and the register writes and
events that act on one worker. RGR, RGW and RGD stand in `Access.lean`. -/

namespace Sys2Proof.Machine

/-- An instruction that writes one register from two. -/
def aluOp (wk d a b : Nat) (f : W32 → W32 → W32) (s : State) : State :=
  wkDo wk (fun s => wkNext wk (setWkReg wk d (f (wkReg s wk a) (wkReg s wk b)) s)) s

/-- An instruction that writes one register from another. -/
def immOp (wk d a : Nat) (f : W32 → W32) (s : State) : State :=
  wkDo wk (fun s => wkNext wk (setWkReg wk d (f (wkReg s wk a)) s)) s

/-- A multiply into a pair: an odd `d` is ILLEGAL. -/
def mulOp (wk d a b : Nat) (f : W32 → W32 → W64) (s : State) : State :=
  wkDo wk (fun s => if d % 2 = 1 then wkIllegal wk s
    else wkNext wk (setPair wk d (f (wkReg s wk a) (wkReg s wk b)) s)) s

/-- An immediate, sign-extended (R385). -/
abbrev simm (imm : BitVec 18) : W32 := imm.signExtend 32

/-- The address of a load or store. -/
def effAddr (s : State) (wk a : Nat) (imm : BitVec 18) : Nat := (wkReg s wk a + simm imm).toNat

/-- The PC moved by an offset in instructions. -/
def wkJump (wk : Nat) (off : W32) (s : State) : State :=
  s.modWorker wk (fun x => { x with pc := (w32 x.pc + off * 4).toNat })

/-- A branch. -/
def branchOp (wk a b : Nat) (off : BitVec 18) (c : W32 → W32 → Bool) (s : State) : State :=
  wkDo wk (fun s => if c (wkReg s wk a) (wkReg s wk b) then wkJump wk (off.signExtend 32) s else wkNext wk s) s

/-! ### ALU -/

def execAdd (wk : Fin 192) (d : Fin 16) (a : Fin 16) (b : Fin 16) (s : State) : Host.Outcome State Fault Refusal :=
  done s (aluOp wk.val d.val a.val b.val (fun x y => x + y) s)
def execSub (wk : Fin 192) (d : Fin 16) (a : Fin 16) (b : Fin 16) (s : State) : Host.Outcome State Fault Refusal :=
  done s (aluOp wk.val d.val a.val b.val (fun x y => x - y) s)
def execAnd (wk : Fin 192) (d : Fin 16) (a : Fin 16) (b : Fin 16) (s : State) : Host.Outcome State Fault Refusal :=
  done s (aluOp wk.val d.val a.val b.val (fun x y => x &&& y) s)
def execOr (wk : Fin 192) (d : Fin 16) (a : Fin 16) (b : Fin 16) (s : State) : Host.Outcome State Fault Refusal :=
  done s (aluOp wk.val d.val a.val b.val (fun x y => x ||| y) s)
def execXor (wk : Fin 192) (d : Fin 16) (a : Fin 16) (b : Fin 16) (s : State) : Host.Outcome State Fault Refusal :=
  done s (aluOp wk.val d.val a.val b.val (fun x y => x ^^^ y) s)
def execShl (wk : Fin 192) (d : Fin 16) (a : Fin 16) (b : Fin 16) (s : State) : Host.Outcome State Fault Refusal :=
  done s (aluOp wk.val d.val a.val b.val (fun x y => x <<< (y.toNat % 32)) s)
def execShr (wk : Fin 192) (d : Fin 16) (a : Fin 16) (b : Fin 16) (s : State) : Host.Outcome State Fault Refusal :=
  done s (aluOp wk.val d.val a.val b.val (fun x y => x >>> (y.toNat % 32)) s)
def execSra (wk : Fin 192) (d : Fin 16) (a : Fin 16) (b : Fin 16) (s : State) : Host.Outcome State Fault Refusal :=
  done s (aluOp wk.val d.val a.val b.val (fun x y => x.sshiftRight (y.toNat % 32)) s)
def execSlt (wk : Fin 192) (d : Fin 16) (a : Fin 16) (b : Fin 16) (s : State) : Host.Outcome State Fault Refusal :=
  done s (aluOp wk.val d.val a.val b.val (fun x y => if x.toInt < y.toInt then 1 else 0) s)
def execSltu (wk : Fin 192) (d : Fin 16) (a : Fin 16) (b : Fin 16) (s : State) : Host.Outcome State Fault Refusal :=
  done s (aluOp wk.val d.val a.val b.val (fun x y => if x.toNat < y.toNat then 1 else 0) s)
def execMul (wk : Fin 192) (d : Fin 16) (a : Fin 16) (b : Fin 16) (s : State) : Host.Outcome State Fault Refusal :=
  done s (mulOp wk.val d.val a.val b.val (fun x y => BitVec.ofInt 64 (x.toInt * y.toInt)) s)
def execMulu (wk : Fin 192) (d : Fin 16) (a : Fin 16) (b : Fin 16) (s : State) : Host.Outcome State Fault Refusal :=
  done s (mulOp wk.val d.val a.val b.val (fun x y => BitVec.ofNat 64 (x.toNat * y.toNat)) s)
def execAddi (wk : Fin 192) (d : Fin 16) (a : Fin 16) (imm : BitVec 18) (s : State) : Host.Outcome State Fault Refusal :=
  done s (immOp wk.val d.val a.val (fun x => x + simm imm) s)
def execAndi (wk : Fin 192) (d : Fin 16) (a : Fin 16) (imm : BitVec 18) (s : State) : Host.Outcome State Fault Refusal :=
  done s (immOp wk.val d.val a.val (fun x => x &&& simm imm) s)
def execOri (wk : Fin 192) (d : Fin 16) (a : Fin 16) (imm : BitVec 18) (s : State) : Host.Outcome State Fault Refusal :=
  done s (immOp wk.val d.val a.val (fun x => x ||| simm imm) s)
def execXori (wk : Fin 192) (d : Fin 16) (a : Fin 16) (imm : BitVec 18) (s : State) : Host.Outcome State Fault Refusal :=
  done s (immOp wk.val d.val a.val (fun x => x ^^^ simm imm) s)
def execSlti (wk : Fin 192) (d : Fin 16) (a : Fin 16) (imm : BitVec 18) (s : State) : Host.Outcome State Fault Refusal :=
  done s (immOp wk.val d.val a.val (fun x => if x.toInt < (simm imm).toInt then 1 else 0) s)
def execLui (wk : Fin 192) (d : Fin 16) (imm : BitVec 18) (s : State) : Host.Outcome State Fault Refusal :=
  done s (immOp wk.val d.val 0 (fun _ => imm ++ 0#14) s)
def execShli (wk : Fin 192) (d : Fin 16) (a : Fin 16) (sh : Fin 32) (s : State) : Host.Outcome State Fault Refusal :=
  done s (immOp wk.val d.val a.val (fun x => x <<< sh.val) s)
def execShri (wk : Fin 192) (d : Fin 16) (a : Fin 16) (sh : Fin 32) (s : State) : Host.Outcome State Fault Refusal :=
  done s (immOp wk.val d.val a.val (fun x => x >>> sh.val) s)
def execSrai (wk : Fin 192) (d : Fin 16) (a : Fin 16) (sh : Fin 32) (s : State) : Host.Outcome State Fault Refusal :=
  done s (immOp wk.val d.val a.val (fun x => x.sshiftRight sh.val) s)

/-! ### Loads and stores -/

def execLdb (wk : Fin 192) (d : Fin 16) (a : Fin 16) (imm : BitVec 18) (s : State) : Host.Outcome State Fault Refusal :=
  done s (wkDo wk.val (fun s => wkLoad wk.val d.val 1 (effAddr s wk.val a.val imm) s) s)
def execLdw (wk : Fin 192) (d : Fin 16) (a : Fin 16) (imm : BitVec 18) (s : State) : Host.Outcome State Fault Refusal :=
  done s (wkDo wk.val (fun s => wkLoad wk.val d.val 4 (effAddr s wk.val a.val imm) s) s)
def execLdd (wk : Fin 192) (d : Fin 16) (a : Fin 16) (imm : BitVec 18) (s : State) : Host.Outcome State Fault Refusal :=
  done s (wkDo wk.val (fun s => wkLoad wk.val d.val 8 (effAddr s wk.val a.val imm) s) s)
def execStb (wk : Fin 192) (d : Fin 16) (a : Fin 16) (imm : BitVec 18) (s : State) : Host.Outcome State Fault Refusal :=
  done s (wkDo wk.val (fun s => wkStore wk.val d.val 1 (effAddr s wk.val a.val imm) s) s)
def execStw (wk : Fin 192) (d : Fin 16) (a : Fin 16) (imm : BitVec 18) (s : State) : Host.Outcome State Fault Refusal :=
  done s (wkDo wk.val (fun s => wkStore wk.val d.val 4 (effAddr s wk.val a.val imm) s) s)
def execStd (wk : Fin 192) (d : Fin 16) (a : Fin 16) (imm : BitVec 18) (s : State) : Host.Outcome State Fault Refusal :=
  done s (wkDo wk.val (fun s => wkStore wk.val d.val 8 (effAddr s wk.val a.val imm) s) s)

/-! ### Branches -/

def execBeq (wk : Fin 192) (a : Fin 16) (b : Fin 16) (off : BitVec 18) (s : State) : Host.Outcome State Fault Refusal :=
  done s (branchOp wk.val a.val b.val off (fun x y => decide (x = y)) s)
def execBne (wk : Fin 192) (a : Fin 16) (b : Fin 16) (off : BitVec 18) (s : State) : Host.Outcome State Fault Refusal :=
  done s (branchOp wk.val a.val b.val off (fun x y => decide (x ≠ y)) s)
def execBlt (wk : Fin 192) (a : Fin 16) (b : Fin 16) (off : BitVec 18) (s : State) : Host.Outcome State Fault Refusal :=
  done s (branchOp wk.val a.val b.val off (fun x y => decide (x.toInt < y.toInt)) s)
def execBge (wk : Fin 192) (a : Fin 16) (b : Fin 16) (off : BitVec 18) (s : State) : Host.Outcome State Fault Refusal :=
  done s (branchOp wk.val a.val b.val off (fun x y => decide (x.toInt ≥ y.toInt)) s)
def execBltu (wk : Fin 192) (a : Fin 16) (b : Fin 16) (off : BitVec 18) (s : State) : Host.Outcome State Fault Refusal :=
  done s (branchOp wk.val a.val b.val off (fun x y => decide (x.toNat < y.toNat)) s)
def execBgeu (wk : Fin 192) (a : Fin 16) (b : Fin 16) (off : BitVec 18) (s : State) : Host.Outcome State Fault Refusal :=
  done s (branchOp wk.val a.val b.val off (fun x y => decide (x.toNat ≥ y.toNat)) s)
def execJmp (wk : Fin 192) (imm : BitVec 26) (s : State) : Host.Outcome State Fault Refusal :=
  done s (wkDo wk.val (wkJump wk.val (imm.signExtend 32)) s)
def execJal (wk : Fin 192) (imm : BitVec 26) (s : State) : Host.Outcome State Fault Refusal :=
  done s (wkDo wk.val (fun s => wkJump wk.val (imm.signExtend 32) (setWkReg wk.val 15 (w32 ((s.worker wk.val).pc + 4)) s)) s)
def execJr (wk : Fin 192) (a : Fin 16) (s : State) : Host.Outcome State Fault Refusal :=
  done s (wkDo wk.val (fun s => s.modWorker wk.val (fun x => { x with pc := (tget 0 x.regs a.val).toNat })) s)

/-! ### Streams, queues, jobs, leases, waiting -/

def execSin (wk : Fin 192) (a : Fin 16) (b : Fin 16) (s : State) : Host.Outcome State Fault Refusal :=
  done s (wkDo wk.val (wkSin wk.val a.val b.val) s)
def execSout (wk : Fin 192) (a : Fin 16) (b : Fin 16) (s : State) : Host.Outcome State Fault Refusal :=
  done s (wkDo wk.val (wkSout wk.val a.val b.val) s)
def execGet (wk : Fin 192) (d : Fin 16) (a : Fin 16) (s : State) : Host.Outcome State Fault Refusal :=
  done s (wkDo wk.val (wkGet wk.val d.val a.val) s)
def execPut (wk : Fin 192) (d : Fin 16) (a : Fin 16) (s : State) : Host.Outcome State Fault Refusal :=
  done s (wkDo wk.val (wkPut wk.val d.val a.val) s)
def execQres (wk : Fin 192) (d : Fin 16) (a : Fin 16) (b : Fin 16) (s : State) : Host.Outcome State Fault Refusal :=
  done s (wkDo wk.val (wkQres wk.val d.val a.val b.val) s)
def execQpush (wk : Fin 192) (d : Fin 16) (a : Fin 16) (s : State) : Host.Outcome State Fault Refusal :=
  done s (wkDo wk.val (wkQpush wk.val d.val a.val) s)
def execQcommit (wk : Fin 192) (d : Fin 16) (s : State) : Host.Outcome State Fault Refusal :=
  done s (wkDo wk.val (wkQcommit wk.val d.val) s)
def execQabort (wk : Fin 192) (d : Fin 16) (s : State) : Host.Outcome State Fault Refusal :=
  done s (wkDo wk.val (wkQabort wk.val d.val) s)
def execQpop (wk : Fin 192) (d : Fin 16) (a : Fin 16) (b : Fin 16) (s : State) : Host.Outcome State Fault Refusal :=
  done s (wkDo wk.val (wkQpop wk.val d.val a.val b.val) s)
def execJpop (wk : Fin 192) (s : State) : Host.Outcome State Fault Refusal :=
  done s (wkDo wk.val (wkJpop wk.val) s)
def execJend (wk : Fin 192) (s : State) : Host.Outcome State Fault Refusal :=
  done s (wkDo wk.val (wkJend wk.val) s)
def execLacq (wk : Fin 192) (d : Fin 16) (a : Fin 16) (n : Fin 32) (s : State) : Host.Outcome State Fault Refusal :=
  done s (wkDo wk.val (wkAcquire wk.val d.val a.val n.val true) s)
def execLtry (wk : Fin 192) (d : Fin 16) (a : Fin 16) (n : Fin 32) (s : State) : Host.Outcome State Fault Refusal :=
  done s (wkDo wk.val (wkAcquire wk.val d.val a.val n.val false) s)
def execLrel (wk : Fin 192) (d : Fin 16) (a : Fin 16) (s : State) : Host.Outcome State Fault Refusal :=
  done s (wkDo wk.val (wkLrel wk.val d.val a.val) s)
def execWait (wk : Fin 192) (d : Fin 16) (mask : BitVec 5) (s : State) : Host.Outcome State Fault Refusal :=
  done s (wkDo wk.val (wkWait wk.val d.val mask) s)

/-! ### Break, halt, ill-formed words -/

/-- BRK: a debug halt where DBG_EN is set, the PC behind the BRK; else fault BREAK. -/
def wkBrk (w : Nat) (s : State) : State :=
  if (s.worker w).dbgEn then wkHalt w (wkNext w s) else wkFault w fBreak (s.worker w).pc s

/-- HALT: the worker enters STOPPED, keeping what it holds. -/
def wkHaltInstr (w : Nat) (s : State) : State := s.modWorker w (fun x => { x with state := .stopped, pc := (x.pc + 4) % 2 ^ 32, stepping := false, haltReq := false })

/-- Whether a word is an instruction (R385): a listed OP, for OP 0x00 a listed FN, for OP 0x0A a listed shift, an even pair register. -/
def wordListed (x : W32) : Bool :=
  let op := fld x 31 26
  let odd := bit x 22
  if op = 0 then decide (fld x 13 0 ≤ 9)
  else if [0x01, 0x02, 0x12, 0x16, 0x2E, 0x2F, 0x31, 0x34].contains op then !odd
  else if op = 0x0A then decide (fld x 6 5 ≤ 2)
  else [0x04, 0x05, 0x06, 0x07, 0x08, 0x09, 0x10, 0x11, 0x14, 0x15, 0x18, 0x19, 0x1A, 0x20, 0x21, 0x22, 0x23, 0x24, 0x25, 0x26, 0x27,
    0x28, 0x2C, 0x2D, 0x30, 0x32, 0x33, 0x35, 0x36, 0x38, 0x39, 0x3A, 0x3C, 0x3E, 0x3F].contains op

/-- A word with no instruction faults ILLEGAL; a word that is an instruction is not this command. -/
def wkIllegalWord (w : Nat) (word : W32) (s : State) : State := if wordListed word then s else wkDo w (wkIllegal w) s

def execBrk (wk : Fin 192) (s : State) : Host.Outcome State Fault Refusal :=
  done s (wkDo wk.val (wkBrk wk.val) s)
def execHalt (wk : Fin 192) (s : State) : Host.Outcome State Fault Refusal :=
  done s (wkDo wk.val (wkHaltInstr wk.val) s)
def execIllegal (wk : Fin 192) (word : W32) (s : State) : Host.Outcome State Fault Refusal :=
  done s (wkIllegalWord wk.val word s)

/-! ### Control of a worker (R380, R401, R402, R404, R406) -/

/-- RUN starts a STOPPED worker at address 0. -/
def wkRun (w : Nat) (s : State) : State :=
  if (s.worker w).state ≠ .stopped then s else s.modWorker w (fun x => { x with state := .running, pc := 0, wait := none })

/-- A halt is requested of a running or waiting worker. -/
def wkHaltReq (w : Nat) (s : State) : State :=
  if (s.worker w).state = .running ∨ (s.worker w).state = .waiting then s.modWorker w (fun x => { x with haltReq := true }) else s

/-- The halt takes effect once no access of the worker is outstanding. -/
def haltTakes (w : Nat) (s : State) : State :=
  let x := s.worker w
  if !x.haltReq ∨ x.flushing then s
  else if x.state = .waiting ∨ (x.state = .running ∧ x.wait = none) then wkHalt w s else s

/-- STEP: a halted worker runs one instruction. -/
def wkStep (w : Nat) (s : State) : State := wkUnhalt w true s
def wkResume (w : Nat) (s : State) : State := wkUnhalt w false s

/-- DBG_EN is kept until the worker's reset. -/
def wkDebugEn (w : Nat) (s : State) : State := s.modWorker w (fun x => { x with dbgEn := true })

/-- A write of WRK_CTL, its bits in the order RESET, STOP, RUN, DBG_EN, HALT, RESUME, STEP (log entry 15). -/
def wrkCtl (w : Nat) (v : W32) (s : State) : State :=
  let act (b : Bool) (f : State → State) (s : State) : State := if b then f s else s
  act (bit v 5) (wkStep w) (act (bit v 4) (wkResume w) (act (bit v 3) (wkHaltReq w) (act (bit v 6) (wkDebugEn w)
    (act (bit v 0) (wkRun w) (act (bit v 1) (wkReset w false) (act (bit v 2) (wkReset w true) s))))))

/-- A write of WRK_DOORBELL makes DOORBELL hold. -/
def wkDoorbell (w : Nat) (s : State) : State := s.modWorker w (fun x => { x with doorbell := true })

/-- WRK_CACHE_CTL.FLUSH: the worker stalls until the flush completes; a comb worker ignores it. -/
def wkFlush (w : Nat) (s : State) : State :=
  if isComb w then s else s.modWorker w (fun x => { x with flushing := true, flushed := false })

/-- The flush completes. -/
def flushDone (w : Nat) (s : State) : State :=
  if !(s.worker w).flushing then s
  else (cacheFlush (ownHive w) w s).modWorker w (fun x => { x with flushing := false, flushed := true })

/-- The worker timer has reached 0: a worker that waits for TIMER goes on. -/
def timerExpiry (w : Nat) (s : State) : State :=
  match (s.worker w).wait with
  | some (.events _ mask) => if (s.worker w).timer = 0 ∧ mask.getLsbD 2 = true then waitMet w s else s
  | _ => s

/-- Whether a word index of a worker's memory lies in the resident part, and whether it exists (R379, R404). -/
def memLocked (w : Nat) (data : Bool) (i : Nat) : Bool :=
  if data then decide (i * 4 < Config.fwDLimit w) else decide (i * 4 < Config.fwLimit w)
def memWords (w : Nat) (data : Bool) : Nat := if isComb w then (if data then 0x4000 else 0x2000) else if data then 0x8000 else 0x4000

/-- A write of WRK_MEM_DATA at the word the path has selected (R404). -/
def wkMemWrite (p : Path) (w : Nat) (v : W32) (s : State) : State :=
  let sel := s.sel p (wrkPage w) Reg.WRK_MEM_SEL
  let data := bit sel 0
  let i := fld sel 17 2
  if i ≥ memWords w data then s
  else if memLocked w data i then wkRaise w 16 s
  else if !data ∧ (s.worker w).state ≠ .stopped ∧ (s.worker w).state ≠ .halted then s
  else s.modWorker w (fun x =>
    if data then { x with dmem := x.dmem.setN (4 * i) 4 v.toNat, lerr := tset [] x.lerr (lerrKey true (4 * i)) [] }
    else { x with imem := x.imem.setN (4 * i) 4 v.toNat, lerr := tset [] x.lerr (lerrKey false (4 * i)) [] })

/-- The word WRK_MEM_DATA shows, and whether it is found to be uncorrectable. -/
def wkMemPeek (p : Path) (w : Nat) (s : State) : W32 × Bool :=
  let sel := s.sel p (wrkPage w) Reg.WRK_MEM_SEL
  if fld sel 17 2 ≥ memWords w (bit sel 0) then (0, false)
  else localPeek s w (bit sel 0) (fld sel 17 2 * 4)

/-- A read of WRK_MEM_DATA: a word with one bad bit is corrected and counted (R383, R405). -/
def wkMemRead (p : Path) (w : Nat) (s : State) : State × W32 × Bool :=
  let sel := s.sel p (wrkPage w) Reg.WRK_MEM_SEL
  if fld sel 17 2 ≥ memWords w (bit sel 0) then (s, 0, false)
  else
    let r := localWord w (bit sel 0) (fld sel 17 2 * 4) s
    (r.1, r.2.1, !r.2.2)

/-- A write of WRK_KTAB at the entry the path has selected: resident entries ignore it (R404). -/
def wkKtabWrite (p : Path) (w : Nat) (v : W32) (s : State) : State :=
  let e := fld (s.sel p (wrkPage w) Reg.WRK_KT_SEL) 4 0
  if e < 16 then s else s.modWorker w (fun x => { x with ktab := tset 0 x.ktab e (v &&& 0xFFFDFFFF) })

/-- WRK_STATUS (R406). -/
def wkStatus (s : State) (w : Nat) : W32 :=
  let x := s.worker w
  let st := match x.state with | .stopped => 0 | .running => 1 | .waiting => 2 | .halted => 3 | .fault => 4
  w32 (st + bitAt x.jobActive 3 + x.cause % 16 * 16 + bitAt x.accErr 8 + bitAt x.leaseRevoked 9 + bitAt x.flushed 10 + bitAt x.dbgEn 11)

/-! ### The events of a worker -/

def execWaitConditionMet (wk : Fin 192) (s : State) : Host.Outcome State Fault Refusal :=
  done s (waitMet wk.val s)
def execWrkTimerExpiry (wk : Fin 192) (s : State) : Host.Outcome State Fault Refusal :=
  done s (timerExpiry wk.val s)
def execHaltTakesEffect (wk : Fin 192) (s : State) : Host.Outcome State Fault Refusal :=
  done s (haltTakes wk.val s)
def execFlushDone (wk : Fin 192) (s : State) : Host.Outcome State Fault Refusal :=
  done s (flushDone wk.val s)
def execHoneyAccessTimeout (wk : Fin 192) (s : State) : Host.Outcome State Fault Refusal :=
  done s (accessTimeout wk.val s)

end Sys2Proof.Machine
end

