-- ==== Sys2Proof/Machine/Records.lean ====
section
/-! DEFINITION. What a start-up takes from the non-volatile store: the boot scan and the records of identity, factory values,
calibration, retirement and claim (13_memory.md R425, R426, R431; 04_interpolators.md R126). -/

namespace Sys2Proof.Machine

/-- Value `i` of 16 bits of a payload (R425). -/
def val16 (ws : List W64) (i : Nat) : Nat := fieldN (ws.getD (i / 4) 0).toNat (16 * (i % 4) + 15) (16 * (i % 4))

/-- Byte `i` of a payload. -/
def byteAt (ws : List W64) (i : Nat) : Nat := (ws.getD (i / 8) 0).toNat / 2 ^ (8 * (i % 8)) % 256

/-! ### The boot scan (R431) -/

/-- Whether a unit that is no valid record holds an uncommitted one: every condition but COMMIT (log entry 16). -/
def discardedAt (m : Memory) (u : Nat) : Bool :=
  let m0 := (mramWord m (8 * u)).toNat
  let seq := (mramWord m (8 * u + 2)).toNat % 2 ^ 48
  decide (m0 / 2 ^ 48 ≠ 0xC0AA) && decide (seq ≠ 0) && (recordAt (mramPut m (8 * u) (BitVec.ofNat 64 (2 ^ 48 * 0xC0AA + seq))) u).isSome

/-- Discarded records, counted by the walk of the scan. -/
def discardCount (m : Memory) : Nat → Nat → Nat
  | 0, _ => 0
  | n + 1, u =>
    if u ≥ mramUnits then 0 else
    match recordAt m u with
    | some r => discardCount m n (u + recUnits r.len)
    | none => (if discardedAt m u then 1 else 0) + discardCount m n (u + 1)

/-- The scan of one hive: SUPERSEDED is written into every losing record. -/
def bootScan (h : HiveId) (s : State) : State :=
  let m := (s.hive h).mram
  let rs := records m
  let losers := rs.filter (fun r => !r.old && decide ((winnerOf rs r.kind r.inst).map (·.unit) ≠ some r.unit))
  let n := discardCount m mramUnits 0
  let s := s.modHive h (fun x => { x with
    mram := losers.foldl (fun m r => mramPut m (8 * r.unit + 1) (BitVec.ofNat 64 (2 ^ 48 * 0x5DED))) m })
  let s := s.setReg (nvsPage h) Reg.NVS_DISCARD_CNT (w32 n)
  if n = 0 then s else raise s (nvsPage h) Reg.NVS_EVENTS 4

/-! ### The records -/

/-- IDENTITY of a hive (R425). -/
def loadIdentity (h : HiveId) (s : State) : State :=
  s.modHive h (fun x => { x with ident := (recordPayload x.mram 1 0).getD [] })

/-- The claim a hive starts with (14_redundancy_faults.md R438). -/
def claimRecord (s : State) (h : HiveId) : BitVec 16 :=
  match recordPayload (s.hive h).mram 7 0 with
  | some (w :: _) => w.extractLsb' 0 16
  | _ => match h with | .a => 2 | .b => 1

def loadClaim (h : HiveId) (s : State) : State :=
  let v := claimRecord s h
  s.modHive h (fun x => { x with dup := { x.dup with claim0 := v, claim1 := v, claim2 := v, former := v } })

/-- The retirement map of a hive (R425, R422). -/
def loadRetire (h : HiveId) (s : State) : State :=
  match recordPayload (s.hive h).mram 6 0 with
  | none => s
  | some ws => s.modHoney h (fun y => { y with
      retired := (List.range 12288).filter (fun p => decide (2048 ≤ p) && (ws.getD (p / 64) 0).getLsbD (p % 64)) })

/-- A table expanded from its 17 knots (R426). -/
def expandKnots (k : List Int) : BinTable :=
  let c : List Int := (List.range 399).map (fun i =>
    let j : Nat := min (i / 25) 15
    let a : Int := 25 * (j : Int)
    let b : Int := if j < 15 then a + 25 else 399
    k.getD j 0 + ((k.getD (j + 1) 0 - k.getD j 0) * ((i : Int) - a)).tdiv (b - a)) ++ [k.getD 16 0]
  (List.range 400).map (fun i =>
    let lo := if i = 0 then 0 else i - 1
    let hi := if i = 399 then 399 else i + 1
    ((c.getD i 0).toNat, ((c.getD hi 0 - c.getD lo 0).tdiv ((hi : Int) - lo)).toNat))

/-- The bin-edge tables of a comb from the active hive's CAL_TDC record; nominal where there is none (04_interpolators.md R126). -/
def loadTdc (h : HiveId) (c : Nat) (s : State) : State :=
  let ws := recordPayload (s.hive h).mram 3 c
  forN 768 (fun i s =>
    let t := match ws with
      | none => none
      | some ws => if val16 ws (17 * i) = 0xFFFF then none
        else some (expandKnots ((List.range 17).map (fun j => (val16 ws (17 * i + j) : Int))))
    let now := (s.cal (768 * c + i)).table
    if t = now then s else s.modCal (768 * c + i) (fun k => { k with table := t })) s

/-- Factory values of the calibration in force: spine constants and trims (R425). -/
def loadTrims (h : HiveId) (s : State) : State :=
  match recordPayload (s.hive h).mram 2 0 with
  | none => s
  | some ws =>
    let s := s.modChip (fun c => { c with spineConst := (List.range 7).map (val16 ws) })
    forN 4608 (fun i s =>
      let v := BitVec.ofNat 6 (byteAt ws (8 * 290 + i))
      if (s.cal i).trim = v then s else s.modCal i (fun k => { k with trim := v })) s

/-- The trims of one comb (16_power_reset.md R521). -/
def loadCombTrims (h : HiveId) (c : Nat) (s : State) : State :=
  match recordPayload (s.hive h).mram 2 0 with
  | none => s
  | some ws => forN 768 (fun i s => s.modCal (768 * c + i) (fun k => { k with trim := BitVec.ofNat 6 (byteAt ws (8 * 290 + 768 * c + i)) })) s

/-- CAL_INJ_DLY of the cells of a comb (R425, 04_interpolators.md R146). -/
def loadInjDelays (h : HiveId) (comb : Nat) (s : State) : State :=
  match recordPayload (s.hive h).mram 2 0 with
  | none => s
  | some ws => forN 192 (fun i s =>
      let c := 192 * comb + i
      let v := val16 ws (8 + c)
      if v = 0 then s else s.setReg (blkPage (c / 16)) Reg.CAL_INJ_DLY (w32 v) (c % 16)) s

/-- Factory values that registers show: CAL_INJ_DLY and the waggle delays (R425). -/
def loadDelays (h : HiveId) (s : State) : State :=
  match recordPayload (s.hive h).mram 2 0 with
  | none => s
  | some ws =>
    let s := forN 6 (loadInjDelays h) s
    forN 20 (fun l s =>
      (s.setReg (cfgPage 0x1A) Reg.WAG_TX_DLY (w32 (val16 ws (866 * 4 + 2 * l))) l).setReg (cfgPage 0x1A) Reg.WAG_RX_DLY
        (w32 (val16 ws (866 * 4 + 2 * l + 1))) l) s

/-- CAL_SKEW: SKEW and SKEW_VALID of every cell, or of the cells of one comb (R427). -/
def loadSkew (h : HiveId) (cells : Nat → Bool) (s : State) : State :=
  match recordPayload (s.hive h).mram 4 0 with
  | none => s
  | some ws => forN 1152 (fun c s =>
      if !cells c then s
      else
        let v := fieldN (ws.getD (c / 2) 0).toNat (32 * (c % 2) + 31) (32 * (c % 2))
        let cfg := s.cellCfg c
        let cfg := if v.testBit 16 then cfg ||| 0x800#32 else cfg &&& ~~~0x800#32
        (s.setReg (blkPage (c / 16)) Reg.CELL_SKEW ((s.cellReg c Reg.CELL_SKEW &&& 0xFFFF0000#32) ||| w32 (v % 65536)) (c % 16)).setReg (blkPage (c / 16)) Reg.CELL_CFG cfg (c % 16)) s

end Sys2Proof.Machine
end

