-- ==== Sys2Proof/Machine/Power.lean ====
section
/-! DEFINITION. Power domains: votes, entry, abort and wake, the chip-wide states, the budget arbiter, and the rails that reset
nothing but the PHY island (16_power_reset.md R495–R515). -/

namespace Sys2Proof.Machine

/-! ### Votes (R500, R501) -/

abbrev pwrRaise (n : Nat) (s : State) : State := raise s pwrPage Reg.PWR_EVENTS n

/-- FLOOR of a domain. -/
def domFloor (s : State) (d : Nat) : PState :=
  match fld (s.reg pwrPage (Reg.PWR_DOM_0_CFG + 16 * d)) 1 0 with
  | 0 => .run
  | 1 => .idle
  | _ => .sleep

/-- Whether a worker's job or wait holds its domain at RUN. -/
def workerHolds (s : State) (w : Nat) : Bool :=
  let x := s.worker w
  let waits : Bool := match x.wait with
    | some (.events _ m) => decide (x.state = .waiting) && (m.getLsbD 2 || m.getLsbD 4)
    | _ => false
  x.jobActive || waits || decide ((qPeek s (wkHive s w) (256 + w)).count ≠ 0)

/-- The RUN votes of a domain, as PWR_DOM_d_VOTE_RUN shows them (R524). -/
def voteRun (s : State) (d : Nat) : Nat :=
  let x := s.domain d
  let h := higherClaim s
  let guard : Bool := s.fatal || (match (s.hive h).guard.record with
    | some r => decide (r.region = regionCode d) || decide (d = hiveDom h)
    | none => false)
  bitAt x.hostRun 0 + bitAt (x.fwRun || (List.range 24).any (fun i => workerHolds s (24 * d + i))) 1 + bitAt guard 2 + bitAt x.access 24

/-- Whether a domain state keeps captures or frames running. -/
abbrev PState.awake (p : PState) : Bool := decide (p = .run) || decide (p = .idle)

/-- TRIGGER of a domain. -/
def voteTrigger (s : State) (d : Nat) : Bool :=
  if d < 6 then (List.range 192).any (fun i => cEn (s.cellCfg (192 * d + i)))
  else decide (d = hiveDom (higherClaim s)) && (List.range 6).any (fun c => (s.domain c).state.awake)

/-- The IDLE votes of a domain. -/
def voteIdle (s : State) (d : Nat) : Nat :=
  let x := s.domain d
  let lanes := if d = hiveDom (higherClaim s) then
      ((List.range 20).map (fun l =>
        let st := (s.lane l).state
        bitAt (decide (st = .training ∨ st = .up ∨ st = .prbs)) (4 + l))).sum
    else 0
  bitAt x.hostIdle 0 + bitAt x.fwIdle 1 + bitAt (voteTrigger s d) 3 + lanes

/-- The state the votes of a domain give it. -/
def wanted (s : State) (d : Nat) : PState :=
  if voteRun s d ≠ 0 then .run else if voteIdle s d ≠ 0 then .idle else domFloor s d

/-- Order of the states by power. -/
def PState.rank : PState → Nat
  | .run => 4 | .idle => 3 | .sleep => 2 | .deep => 1 | .off => 0

/-- A write of PWR_VOTE: FIRMWARE votes from a worker path, HOST votes from any other (R501). -/
def pwrVote (p : Path) (v : W32) (s : State) : State :=
  let fw : Bool := match p with | .worker _ => true | _ => false
  s.modDomain (fld v 2 0) (fun x =>
    if fw then { x with fwRun := bit v 8, fwIdle := bit v 9 } else { x with hostRun := bit v 8, hostIdle := bit v 9 })

/-- The ACCESS vote is withdrawn PWR_LINGER after the last access, unless one still waits. -/
def accessLinger (d : Nat) (s : State) : State :=
  let x := s.domain d
  let waits := s.stalls.any (fun e => e.2.domain = d)
  if x.access ∧ !waits ∧ s.tick ≥ x.lastAccess + 1024 * (fld (s.reg pwrPage Reg.PWR_LINGER) 19 0) then
    s.modDomain d (fun x => { x with access := false })
  else s

/-! ### A comb's slots (R508, R520) -/

/-- Slots of a comb and its blocks for a frame. -/
def openRegion (c : Nat) (f : BitVec 40) (a e : Int) (s : State) : State :=
  let s := forN 12 (fun i s => openSlot s (12 * c + i) f a e) s
  s.modComb c (fun x =>
    if x.slots.any (fun k => k.frame = f) then x
    else { x with
      floorSent := if x.slots.isEmpty then a else x.floorSent
      slots := x.slots ++ [{ frame := f, start := a, stop := e, floors := List.replicate 12 a }] })

/-- A comb takes up the present frame, if one is being built. -/
def openComb (c : Nat) (s : State) : State :=
  if !s.framing then s
  else
    let f := s.frameNow
    let a := s.frameStart f
    openRegion c f a (a + s.frameFu) s

/-- What a parked region had open goes. -/
def clearRegion (c : Nat) (s : State) : State :=
  let s := forN 12 (fun i s => s.modBlock (12 * c + i) (fun x => { x with slots := [], store := [] })) s
  s.modComb c (fun x => { x with slots := [], out := [], windows := [], inputs := [[], [], [], [], [], [], [], [], [], [], [], []] })

/-- A parked comb wakes: every frame it slept through, and the frame in which it parked, are closed for it (R507, R508). -/
def unpark (c : Nat) (s : State) : State :=
  let h := higherClaim s
  let now := s.frameNow
  let kept := decide ((s.domain c).parkedFrame = some now)
  let s := forL ((s.fr h).frames.filter (fun o => o.frame ≠ now || kept)) (fun o s => fillClose h o.frame c s) s
  let s := s.modDomain c (fun x => { x with parked := false })
  if kept then s else openComb c s

/-! ### Entry, abort and wake (R502, R506, R507) -/

/-- The time word is loaded from the coarse counter (R505). -/
def loadCoarse (ms : Nat) (s : State) : State :=
  let s := unlock s
  let before := s.now
  let t : Int := (1024000000 * ms : Nat)
  let s := s.modCore (fun c => c.atFu t)
  let f := (t - s.epochFu).fdiv s.frameFu
  let s := s.modCore (fun c => { c with frame := BitVec.ofInt 40 f })
  let s := s.modQual (fun q => { q with coarse := true })
  let s := s.modChip (fun c => { c with
    framing := false, gap := some (t, t), resumeAt := none, stepGen := c.stepGen + 1
    gapFrom := if c.framing then some (c.stepGen, before) else c.gapFrom })
  horizonRestart .b (horizonRestart .a (servoStep 0 s.now (s.bothServo (fun v => { v with lanes := v.lanes.map (fun (l, x) => (l, { x with txAt := none })) }))))

/-- A domain is in the state its votes give, as though no entry had begun. -/
def settleDomain (d : Nat) (s : State) : State :=
  let w := wanted s d
  let s := if d < 6 ∧ (s.domain d).parked ∧ w.awake then unpark d s else s
  s.modDomain d (fun x => { x with state := w, entry := none, lowPower := decide (w = .sleep) })

/-- An aborted entry is counted and raised. -/
def countAbort (s : State) : State := pwrRaise 2 (s.count pwrPage Reg.PWR_ABORT_CNT)

/-- A chip-wide entry is aborted; after step 2 of Deep sleep the time word comes back from the coarse counter (R507). -/
def abortChip (elapsedMs : Nat) (s : State) : State :=
  match s.chip.entering with
  | none => s
  | some (p, k) =>
    let s := s.modChip (fun c => { c with entering := none, lastCmd := 3 })
    countAbort (if p = .deep ∧ k ≥ 2 then loadCoarse (s.chip.keepMs + elapsedMs) s else s)

/-- The next step of a chip-wide entry (R506). -/
def chipEntryStep (s : State) : State :=
  let all (p : PState) (s : State) : State :=
    forN 8 (fun d s => s.modDomain d (fun x => { x with state := p }))
      (s.modChip (fun c => { c with state := p, entering := none, lastCmd := 1 }))
  match s.chip.entering with
  | some (.deep, 0) => s.modChip (fun c => { c with entering := some (.deep, 1) })
  | some (.deep, 1) => s.modChip (fun c => { c with entering := some (.deep, 2), keepMs := s.now.toNat / 1024000000 })
  | some (.deep, 2) => s.modChip (fun c => { c with entering := some (.deep, 3) })
  | some (.deep, _) => all .deep s
  | some (.off, 0) =>
    if s.hiveA.nvs.isSome ∨ s.hiveB.nvs.isSome ∨ s.hiveA.dup.nvPending ∨ s.hiveB.dup.nvPending then s
    else s.modChip (fun c => { c with entering := some (.off, 1) })
  | some (.off, _) => all .off s
  | _ => s

/-- A domain's entry into the next lower state takes its next step. Step 2 of a Sleep entry is taken at a frame boundary. -/
def domainEntry (d : Nat) (s : State) : State :=
  if !s.chip.started ∨ (s.domain d).inReset then s
  else if s.chip.entering.isSome then chipEntryStep s
  else
    let x := s.domain d
    let w := wanted s d
    match x.state, x.entry with
    | .run, none => if w.rank < PState.run.rank then s.modDomain d (fun x => { x with state := .idle }) else s
    | .idle, none => if w = .sleep then s.modDomain d (fun x => { x with entry := some (.sleep, 1) }) else s
    | .idle, some (.sleep, 2) =>
      if w ≠ .sleep then s
      else
        let s := s.modDomain d (fun x => { x with entry := some (.sleep, 3) })
        if d < 6 then s.modHk d (fun k => { k with running := false }) else s
    | .idle, some (.sleep, 3) =>
      if w ≠ .sleep then s
      else s.modDomain d (fun x => { x with state := .sleep, entry := none, lowPower := true })
    | _, _ => s

/-- Step 2 of a Sleep entry, at a frame boundary: a comb parks (R506, R508). -/
def parkAtBoundary (d : Nat) (s : State) : State :=
  let x := s.domain d
  if x.entry ≠ some (.sleep, 1) ∨ wanted s d ≠ .sleep ∨ x.inReset then s
  else if d < 6 then
    clearRegion d (s.modDomain d (fun x => { x with entry := some (.sleep, 2), parked := true, parkedFrame := some s.frameNow }))
  else s.modDomain d (fun x => { x with entry := some (.sleep, 2) })

/-- A wake met during an entry is served at the next abort point (R507). How far the coarse counter has come is its own
oscillator's matter: a free value (log entry 1). -/
def entryAbort (d : Nat) (s : State) : State :=
  if s.chip.entering.isSome then
    if (List.range 8).any (fun i => decide ((wanted s i).rank > PState.sleep.rank)) then
      let (v, s) := s.free
      forN 8 settleDomain (abortChip v.toNat s)
    else s
  else if (s.domain d).entry.isSome ∧ (wanted s d).rank > PState.sleep.rank then settleDomain d (countAbort s)
  else s

/-- A set vote wakes a domain (R502). -/
def domainWake (d : Nat) (s : State) : State :=
  let x := s.domain d
  if !s.chip.started ∨ x.inReset ∨ x.entry.isSome ∨ s.chip.entering.isSome ∨ s.chip.state ≠ .run then s
  else if (wanted s d).rank > x.state.rank then settleDomain d s
  else s

/-! ### Chip-wide states (R499, R504, R510) -/

/-- PWR_CTL asks for Deep sleep or Off. -/
def chipEnter (p : PState) (s : State) : State :=
  let ready := s.chip.entering.isNone && decide (s.chip.state = .run) &&
    (List.range 8).all (fun d => decide ((s.domain d).state = .sleep) && (s.domain d).entry.isNone && !(s.domain d).inReset)
  if ready then s.modChip (fun c => { c with entering := some (p, 0) }) else s.modChip (fun c => { c with lastCmd := 2 })

/-- A write of PWR_CTL. -/
def pwrCtl (v : W32) (s : State) : State :=
  let s := if bit v 0 then chipEnter .deep s else s
  if bit v 1 then chipEnter .off s else s

/-- Whether a source may end Deep sleep. -/
def wakeAllowed (s : State) : WakeSrc → Bool
  | .wakePin => true
  | .lane n => bit (s.reg pwrPage Reg.PWR_WAKE_CFG) n.val
  | .mgt => bit (s.reg pwrPage Reg.PWR_WAKE_CFG) 20

/-- PWR_WAKE_SRC for a source. -/
def wakeCode : WakeSrc → W32
  | .wakePin => 1
  | .lane n => w32 (2 + n.val * 256)
  | .mgt => 3

/-- An emergency stop takes effect: the bias targets are written 0 and the injectors stop (15_control.md R488). -/
def estopAct (s : State) : State :=
  let s := forN 72 (fun b s => biasTo b 0 (stopInjector b s)) (s.modChip (fun c => { c with estopDue := false }))
  raise s chipPage Reg.CHIP_EVENTS 64

/-- An emergency stop arrives; one that meets a chip without power takes effect as it wakes (15_control.md R488). -/
def emergencyStop (byI2c : Bool) (s : State) : State :=
  let s := s.modChip (fun c => { c with estop := true, estopI2c := byI2c, estopDue := true })
  if s.chip.started ∧ s.chip.state = .run then estopAct s else s

/-- A wake event of the chip: it aborts an entry, or ends Deep sleep with COARSE time (R504, R505, R507). -/
def deepWake (src : WakeSrc) (elapsedMs : Nat) (s : State) : State :=
  if !wakeAllowed s src then s
  else if s.chip.entering.isSome then forN 8 settleDomain (abortChip elapsedMs s)
  else if s.chip.state ≠ .deep then s
  else
    let s := s.modChip (fun c => { c with state := .run })
    let s := loadCoarse (s.chip.keepMs + elapsedMs) s
    let s := s.setReg pwrPage Reg.PWR_WAKE_SRC (wakeCode src)
    let s := forN 20 goDown s
    let s := forN 8 (fun d s => s.modDomain d (fun x => { x with state := .sleep })) s
    let s := pwrRaise 1 (forN 8 settleDomain s)
    if s.chip.estopDue then estopAct s else s

/-! ### Budget arbiter (R513–R515) -/

/-- Lane transmitters awake. -/
def awakeTx (s : State) : Nat := ((List.range 20).filter (fun l => (s.lane l).txAwake && (s.lane l).powered && decide (laneRole s l ≠ 0))).length

/-- The estimate in 0.01 W, from the grants of the domains on VCORE and VANA. -/
def powerEst (grants : List (Nat × Nat)) (s : State) : Nat :=
  4 * (grants.map (·.1)).sum + 6 * (grants.map (·.2)).sum + 35 * awakeTx s + 10 * fld (s.reg pwrPage Reg.PWR_FIXED) 7 0

/-- THROTTLE is raised once per episode. -/
def throttleNote (s : State) : State :=
  if s.chip.throttleEp then s else pwrRaise 16 (s.modChip (fun c => { c with throttleEp := true }))

/-- The UPLINK lane step 3 removes next. -/
def nextRemoved (s : State) : Option Nat :=
  let inside := (List.range 20).filter (inPlacement s)
  let cfg := s.reg pwrPage Reg.PWR_THROTTLE_CFG
  if bit cfg 0 ∧ inside.length > fld cfg 8 4 then inside.getLast? else none

/-- A lane leaves placement; its transmit direction sleeps unless TIMING is set (R514, R515). -/
def removeLane (l : Nat) (s : State) : State :=
  let s := leavePlacement l s
  let was := txAsked s l
  let s := s.modChip (fun c => { c with removed := c.removed ++ [l], throttle := 3 })
  if was ∨ !txAsked s l then s else s.modLane l (fun x => { x with sleepTick := some s.tick, txWaking := false })

/-- A lane returns to placement. -/
def returnLane (l : Nat) (s : State) : State :=
  let s := s.modChip (fun c => { c with removed := c.removed.erase l, throttle := if c.removed.length ≤ 1 then 2 else 3 })
  if txAsked s l then s else s.modLane l (fun x => { x with sleepTick := none, txWaking := !x.txAwake })

/-- Compression is deferred from step 2 on; DEFER is raised as a deferral begins (07_frames_compression.md R243, R514). -/
def deferCoding (s : State) : State :=
  raise (s.modChip (fun c => { c with throttle := 2 })) (cmpPage (higherClaim s)) Reg.CMP_EVENTS 4

/-- The next throttle step, or OVER_BUDGET once per episode. -/
def throttleUp (s : State) : State :=
  match s.chip.throttle with
  | 0 => throttleNote (s.modChip (fun c => { c with throttle := 1 }))
  | 1 => throttleNote (deferCoding s)
  | _ =>
    match nextRemoved s with
    | some l => throttleNote (removeLane l s)
    | none => if s.chip.overBudget then s else pwrRaise 32 (s.modChip (fun c => { c with overBudget := true }))

/-- The highest step in force is released, or one lane of step 3. -/
def throttleDown (s : State) : State :=
  match s.chip.throttle with
  | 0 => s
  | 1 => s.modChip (fun c => { c with throttle := 0, throttleEp := false })
  | 2 => s.modChip (fun c => { c with throttle := 1 })
  | _ =>
    match s.chip.removed.min? with
    | some l => returnLane l s
    | none => s.modChip (fun c => { c with throttle := 2 })

/-- An arbiter interval ends. -/
def budgetInterval (grants : List (Nat × Nat)) (s : State) : State :=
  if !s.chip.started ∨ s.chip.state ≠ .run then s
  else
    let p := powerEst grants s
    let est := if p % 10 ≠ 0 ∧ Config.estRoundsUp p then p / 10 + 1 else p / 10
    let s := s.setReg pwrPage Reg.PWR_EST (w32 (est % 1024))
    let s := s.setReg pwrPage Reg.PWR_GRANT (w32 ((grants.map (·.1)).sum % 4096 + (grants.map (·.2)).sum % 4096 * 2 ^ 16))
    let budget := 10 * fld (s.reg pwrPage Reg.PWR_BUDGET) 8 0
    if p > budget then throttleUp s
    else
      let s := s.modChip (fun c => { c with overBudget := false })
      if p + 10 * fld (s.reg pwrPage Reg.PWR_HYST) 5 0 < budget then throttleDown s else s

/-! ### Rails of the PHY island and the bias outputs, and the warning (R495, R496) -/

/-- VLANE falls below its threshold: the PHY island is reset. -/
def vlaneLow (s : State) : State :=
  if s.chip.vlaneLow then s
  else
    let s := s.modChip (fun c => { c with vlaneLow := true })
    let s := forN 20 (fun l s => (dropStream l (leaveUp l s)).modLane l (fun x => { freshLink x with state := .down, lock := false, signal := false, hdrs := 0, chk := {}, chkLock := false, powered := false, inj := none })) s
    guardEvent s (hiveDom (higherClaim s)) 6

/-- VLANE is back. -/
def vlaneRestored (s : State) : State :=
  if !s.chip.vlaneLow then s
  else
    let s := s.modChip (fun c => { c with vlaneLow := false })
    forN 20 (fun l s => laneReady l (s.modLane l (fun x => { x with powered := true }))) s

def vbiasLow (s : State) : State :=
  if s.chip.vbiasLow then s else pwrRaise 64 (s.modChip (fun c => { c with vbiasLow := true }))

def vbiasRestored (s : State) : State := s.modChip (fun c => { c with vbiasLow := false })

/-! ### Status registers (R523, R524) -/

def pstateCode : PState → Nat
  | .run => 0 | .idle => 1 | .sleep => 2 | .deep => 3 | .off => 3

def pwrStatus (s : State) : W32 :=
  let st := (List.range 8).foldl (fun m d => min m (pstateCode (s.domain d).state)) 3
  w32 (st + bitAt s.chip.entering.isSome 3 + s.chip.lastCmd * 2 ^ 4 + s.chip.throttle * 2 ^ 6 + s.chip.removed.length * 2 ^ 8)

def domState (s : State) (d : Nat) : W32 :=
  let x := s.domain d
  w32 (pstateCode x.state + bitAt (x.entry.isSome || s.chip.entering.isSome) 3 + bitAt x.lowPower 4 + bitAt x.parked 5 + bitAt x.inReset 6)

/-! ### The commands of this part that name no access path -/

def execDomainEntry (d : Fin 8) (s : State) : Host.Outcome State Fault Refusal := done s (domainEntry d.val s)
def execEntryAbort (d : Fin 8) (s : State) : Host.Outcome State Fault Refusal := done s (entryAbort d.val s)
def execDomainWake (d : Fin 8) (s : State) : Host.Outcome State Fault Refusal := done s (domainWake d.val s)
def execAccessLingerExpiry (d : Fin 8) (s : State) : Host.Outcome State Fault Refusal := done s (accessLinger d.val s)
def execDeepSleepWake (src : WakeSrc) (elapsedMs : Nat) (s : State) : Host.Outcome State Fault Refusal := done s (deepWake src elapsedMs s)
def execBudgetInterval (grants : List (Nat × Nat)) (s : State) : Host.Outcome State Fault Refusal := done s (budgetInterval grants s)
def execVlaneLow (s : State) : Host.Outcome State Fault Refusal := done s (vlaneLow s)
def execVlaneRestored (s : State) : Host.Outcome State Fault Refusal := done s (vlaneRestored s)
def execVbiasLow (s : State) : Host.Outcome State Fault Refusal := done s (vbiasLow s)
def execVbiasRestored (s : State) : Host.Outcome State Fault Refusal := done s (vbiasRestored s)
def execRailWarning (rail : Rail) (s : State) : Host.Outcome State Fault Refusal :=
  match rail with | .vio | .vcore | .vana => done s (brownoutWarn s)

end Sys2Proof.Machine
end

