-- ==== Sys2Proof/Machine/Reset.lean ====
section
/-! DEFINITION. Resets of a region and of the chip, and what survives them (16_power_reset.md R511, R512, R516–R521). -/

namespace Sys2Proof.Machine

abbrev rstRaise (n : Nat) (s : State) : State := raise s rstPage Reg.RST_EVENTS n

/-! ### Region resets (R519–R521) -/

/-- Whether a register is configuration: of access code RW or ST. -/
def isConfig (k : Nat) : Bool :=
  match descOf (k / 2 ^ 20 % 2 ^ 8) (k % 2 ^ 12) with
  | some d => decide (d.acc = .rw) || decide (d.acc = .st)
  | none => false

/-- The registers of an address region that a test does not keep return to their reset values. -/
def clearRegs (code : Nat) (keep : Nat → Bool) (s : State) : State :=
  { s with regs := s.regs.filter (fun e => decide (e.1 / 2 ^ 28 % 16 ≠ code) || keep e.1) }

/-- Leases, workers and guard sources of a region are as after start-up; former lease owners are still owed REVOKED (12_workers.md
R397), and the perturbation register is locked (14_redundancy_faults.md R466). -/
def resetCommon (g : Nat) (s : State) : State :=
  let s := forN 24 (fun i s => wkReset (24 * g + i) true s) s
  let s := forL ((s.region g).leases.map (·.1)) (leaseRevoke g) s
  let s := forN 24 (fun i s => s.setWorker (24 * g + i) {}) s
  let s := s.setRegion g { leases := ((s.region g).leases.map (fun e => (e.1, ({ revoked := e.2.revoked } : Lease)))).filter (fun e => !e.2.revoked.isEmpty) }
  { s with sels := s.sels.filter (fun e => decide (e.1 % 2 ^ 48 ≠ grdPage g + Reg.GRD_PERTURB_KEY)) }

/-- Parts of a table whose keys a region does not own. -/
def outside {α : Type} (t : Tab α) (size c : Nat) : Tab α := t.filter (fun e => decide (e.1 / size ≠ c))

/-- Housekeeping of a comb in a region reset: it holds its latest samples and values; switches, estimates and counts are cleared
(17_housekeeping.md R542). -/
def hkReset (c : Nat) (s : State) : State :=
  let kept := ((s.hk c).inputs.map (fun e => (e.1, ({ raw := e.2.raw, value := e.2.value } : HkIn)))).filter (fun e => decide (e.2 ≠ {}))
  s.modHk c (fun k => { inputs := kept, biasVals := k.biasVals })

/-- A comb is reset; its configuration and its calibration in force come back from the copy the active hive keeps. -/
def resetComb (c : Nat) (s : State) : State :=
  let s := resetCommon c s
  let s := clearRegs c isConfig s
  let s := s.setReg (grdPage c) Reg.GRD_PERTURB_CTL 0
  let cals := (s.cals.map (fun e => (e.1, if e.1 / 768 = c then ({ table := e.2.table, trim := e.2.trim } : ItpCal) else e.2))).filter (fun e => decide (e.2 ≠ {}))
  let s := { s with
    cells := outside s.cells 192 c, blocks := outside s.blocks 12 c, cals := cals
    upsets := s.upsets.filter (fun u => decide (u.2.1 / 2 ^ 28 % 16 ≠ c)) }
  let s := hkReset c s
  let s := s.setComb c { bundleA := { state := 0 }, bundleB := { state := 0 }, inReset := true }
  s.both (fun x => { x with fr := { x.fr with sorts := lset x.fr.sorts c {} } })

/-- The configuration of the queues as the other hive's store holds it, in a store that holds nothing else (08_queues_placement.md
R261, R262). -/
def Honey.configOnly (y : Honey) : Honey :=
  { bytes := y.bytes.filter (fun c => decide (c.1 < 2 ^ 21) && decide (c.1 % 32 < 8) && decide (y.stateOf (c.1 / 8) = .valid))
    st := y.st.filter (fun e => decide (e.1 < 2 ^ 18) && decide (e.1 % 4 = 0) && decide (e.2 = .valid)) }

/-- A hive is reset; its time stays, and device-wide configuration is the active hive's (R520). -/
def resetHive (h : HiveId) (s : State) : State :=
  let s := nvsBrownout h s
  let s := resetCommon (hiveDom h) s
  let x := s.hive h
  let a := s.hive (otherHive h)
  let v := claimRecord s h
  let s := clearRegs (hiveRegion h) (fun k => decide (h = .a) && deviceWide (k / 2 ^ 20 % 2 ^ 8) && isConfig k) s
  let s := s.setHive h {
    tb := a.tb, servo := a.servo, mram := x.mram, ident := x.ident, honey := a.honey.configOnly
    fr := { resumeFlag := a.fr.resumeFlag }
    dup := { claim0 := v, claim1 := v, claim2 := v, former := v, takes := x.dup.takes, anew := true, takenSince := x.dup.takenSince, disarmed := x.dup.disarmed } }
  let s := loadRetire h s
  forN 6 (fun c s => s.modBundle c h (fun _ => { state := 0 })) s

/-- A region reset begins (R520). -/
def resetRegion (d : Nat) (s : State) : State :=
  if (s.domain d).inReset then s
  else
    let s := if d < 6 then resetComb d s else resetHive (if d = 6 then .a else .b) s
    s.modDomain d (fun x => { x with inReset := true, entry := none, parked := false, parkedFrame := none, rejoin := false, lowPower := false })

/-- The reset of a region ends: its bundles train, its outputs follow its configuration (R520, R521). -/
def endReset (d : Nat) (s : State) : State :=
  let x := s.domain d
  if !x.inReset then s
  else
    let s := s.modDomain d (fun x => { x with inReset := false, brown := false, state := .run })
    let s := if d < 6 then
        let s := s.modComb d (fun k => { k with bundleA := { state := 1 }, bundleB := { state := 1 } })
        let h := higherClaim s
        let s := loadInjDelays h d s
        let s := if x.brown then loadSkew h (fun c => decide (c / 192 = d)) (loadCombTrims h d (loadTdc h d s)) else s
        forN 12 (fun i s =>
          let b := 12 * d + i
          let s := biasTo b (fld (s.reg (blkPage b) Reg.BIAS_TARGET) 11 0) s
          let v := s.reg (blkPage b) Reg.INJ_CTL
          if bit v 0 then injCtl b v (s.setReg (blkPage b) Reg.INJ_CTL (v &&& ~~~1)) else s) s
      else
        let h : HiveId := if d = 6 then .a else .b
        forN 6 (fun c s => s.modBundle c h (fun _ => { state := if (s.domain c).inReset then 0 else 1 })) s
    rstRaise 1 s

/-- At a frame boundary a reset comb whose two bundles are UP may rejoin (R520). -/
def rejoinAtBoundary (c : Nat) (s : State) : State :=
  let x := s.comb c
  if x.inReset ∧ !(s.domain c).inReset ∧ x.bundleA.state = 2 ∧ x.bundleB.state = 2 then s.modDomain c (fun y => { y with rejoin := true }) else s

/-- A reset comb rejoins. -/
def regionRejoin (c : Nat) (s : State) : State :=
  if !(s.domain c).rejoin then s
  else
    let s := s.modDomain c (fun y => { y with rejoin := false })
    let s := s.modComb c (fun x => { x with inReset := false, rejoined := some s.frameNow })
    openComb c s

/-- A domain brown-out (R512). -/
def brownout (d : Nat) (s : State) : State :=
  if !s.chip.started ∨ (s.domain d).inReset then s
  else
    let s := resetRegion d s
    let s := s.modDomain d (fun x => { x with brown := true })
    guardEvent (pwrRaise 4 s) d (if d < 6 then 18 else 8)

/-- A load above the low-power limit (R511). -/
def lpOverload (d : Nat) (s : State) : State :=
  if !(s.domain d).lowPower then s else brownout d (pwrRaise 8 (s.count pwrPage Reg.PWR_LP_OVL_CNT))

/-- A write of RST_REGION (R519). -/
def rstRegion (v : W32) (s : State) : State :=
  let c := fld v 3 0
  if !bit v 16 then s
  else if c < 6 then resetRegion c s
  else if c = hiveRegion (otherHive (higherClaim s)) then resetRegion (c - 2) s
  else pageErr s rstPage errValue

/-! ### Chip resets (R516, R521) -/

/-- What a hive keeps through a chip reset: records always; time, claims, the retirement map and the fault logs through a soft or remote
one. -/
def hiveKept (soft power : Bool) (tick : Nat) (h : HiveId) (x : Hive) : Hive :=
  let r := State.reset.hive h
  let r := { r with mram := x.mram, tb := { r.tb with refclkBad := x.tb.refclkBad }, dup := { r.dup with takes := if power then 0 else x.dup.takes } }
  if !soft then r
  else
    let k := x.tb.core
    let tb : TimeBase := { holdTick := tick, holdHist := x.tb.holdHist, refclkBad := x.tb.refclkBad, qual := { x.tb.qual with locked := false, holdover := true, suspectRef := false } }
    { r with
      tb := tb.setCore { k with freq := k.holdAvg, lockRun := 0, sum := 0, num := 0, skip := 1 }
      servo := { ownGen := x.servo.ownGen, period := x.servo.period }
      dup := { r.dup with claim0 := x.dup.claim0, claim1 := x.dup.claim1, claim2 := x.dup.claim2, former := x.dup.former }
      honey := { retired := x.honey.retired, log := x.honey.log }
      guard := { log := x.guard.log, trace := x.guard.trace, seq := x.guard.seq } }

/-- The skews in force, which are calibration (R521): SKEW and SKEW_VALID of each cell. -/
def keepSkews (old s : State) : State :=
  forN 1152 (fun c s =>
    let v := old.cellReg c Reg.CELL_SKEW &&& 0xFFFF#32
    let s := if v = 0 then s else s.setReg (blkPage (c / 16)) Reg.CELL_SKEW ((s.cellReg c Reg.CELL_SKEW &&& 0xFFFF0000#32) ||| v) (c % 16)
    let on := old.cellCfg c &&& 0x800#32
    s.setReg (blkPage (c / 16)) Reg.CELL_CFG ((s.cellCfg c &&& ~~~0x800#32) ||| on) (c % 16)) s

/-- What the chip keeps: the VSTBY domain and the pins, all but the latter gone after a power-on reset; the spine through a soft or remote
reset. -/
def chipKept (kind lane : Nat) (soft power : Bool) (tick : Nat) (c : Chip) : Chip :=
  let r : Chip := { cause := kind, causeLane := lane, startTick := tick, vlaneLow := c.vlaneLow, vbiasLow := c.vbiasLow, railsLow := c.railsLow, faultExt := c.faultExt, jtagIr := c.jtagIr, jtagDr := c.jtagDr, boundary := c.boundary, extest := c.extest }
  let r := if power then r
    else { r with chipResets := (c.chipResets + 1) % 2 ^ 32, keepMs := c.keepMs, estop := c.estop, estopI2c := c.estopI2c, estopDue := c.estopDue, i2cPtr := c.i2cPtr, i2cOut := c.i2cOut, i2cCopy := c.i2cCopy, i2cStuckSeen := c.i2cStuckSeen, i2cHeld := c.i2cHeld, hkCopy := c.hkCopy }
  if soft then { r with spineNow := c.spineNow, spineNext := c.spineNext, spinePrev := c.spinePrev, spineAt := c.spineAt, spineConst := c.spineConst, phaseStep := c.phaseStep, stepGen := c.stepGen } else r

/-- A chip-level reset of a kind, with the lane of a remote one. -/
def chipReset (kind lane : Nat) (s : State) : State :=
  let s := brownoutWarn s
  let soft := decide (kind = 3) || decide (kind = 4)
  let power := decide (kind = 0) || decide (kind = 5)
  let cals : Tab ItpCal := if soft then (s.cals.map (fun e => (e.1, ({ table := e.2.table, trim := e.2.trim } : ItpCal)))).filter (fun e => decide (e.2 ≠ {})) else []
  let lanes : Tab Lane := (s.lanes.map (fun e => (e.1, ({ signal := e.2.signal, powered := e.2.powered } : Lane)))).filter (fun e => decide (e.2 ≠ {}))
  let t : State := {
    tick := s.tick, freeCtr := s.freeCtr, cals := cals, lanes := lanes
    hiveA := hiveKept soft power s.tick .a s.hiveA, hiveB := hiveKept soft power s.tick .b s.hiveB
    chip := chipKept kind lane soft power s.tick s.chip }
  if soft then keepSkews s t else t

/-- VSTBY rises through its threshold. -/
def powerOn (s : State) : State := (chipReset 0 0 s).modChip (fun c => { c with held := false })

/-- VSTBY falls below its threshold: the device is held in power-on reset. -/
def vstbyLow (s : State) : State := (chipReset 0 0 s).modChip (fun c => { c with held := true })

/-- A rail falls below its threshold. -/
def chipBrownout (r : Rail) (s : State) : State :=
  if s.chip.held ∨ s.chip.state = .off then s
  else (chipReset 1 0 s).modChip (fun c => { c with railsLow := if c.railsLow.contains r then c.railsLow else c.railsLow ++ [r] })

/-- RESET_N has been low for 1 µs. -/
def resetPin (s : State) : State := if s.chip.held ∨ s.chip.state = .off then s else chipReset 2 0 s

/-- A rising edge on WAKE while the chip is Off (R504). -/
def wakeFromOff (s : State) : State :=
  if s.chip.state ≠ .off then s else (chipReset 5 0 s).setReg pwrPage Reg.PWR_WAKE_SRC 1

/-- Ticks from the decoding of a soft or remote reset to the reset: 10 µs (R517, R518). -/
abbrev softDelay : Nat := 10240

/-- A write of RST_CTL (R517). -/
def rstCtl (v : W32) (s : State) : State :=
  if fld v 15 0 ≠ 0x9C3A then pageErr s rstPage errValue
  else if bit v 16 then s.modChip (fun c => { c with softAt := some (s.tick + softDelay, 3, 0) })
  else s

/-- A write of RST_REMOTE (R518). -/
def rstRemote (p : Path) (v : W32) (s : State) : State :=
  match p with
  | .lane n =>
    if v = 0x3C96#32 ∧ bit (s.reg rstPage Reg.RST_REMOTE_LANES) n.val then
      s.modChip (fun c => { c with softAt := some (s.tick + softDelay, 4, n.val) })
    else s
  | _ => s

/-- A soft or remote reset acts. -/
def softAct (s : State) : State :=
  match s.chip.softAt with
  | some (t, kind, lane) => if s.tick ≥ t then chipReset kind lane s else s
  | none => s

/-! ### Status registers (R525) -/

def rstCause (s : State) : W32 := w32 (s.chip.cause + s.chip.causeLane * 2 ^ 8)
def rstRegionStatus (s : State) : W32 := w32 ((List.range 8).map (fun d => bitAt (s.domain d).inReset d)).sum
def rstStartup (s : State) : W32 := w32 (bitAt s.chip.started 0 + min s.chip.startUs (2 ^ 20 - 1) * 2)

/-! ### The commands of this part that name no access path -/

def execRegionReset (d : Fin 8) (s : State) : Host.Outcome State Fault Refusal := done s (endReset d.val s)
def execRegionRejoin (comb : Fin 6) (s : State) : Host.Outcome State Fault Refusal := done s (regionRejoin comb.val s)
def execDomainBrownout (d : Fin 8) (s : State) : Host.Outcome State Fault Refusal := done s (brownout d.val s)
def execLpOverload (d : Fin 8) (s : State) : Host.Outcome State Fault Refusal := done s (lpOverload d.val s)
def execPowerOnReset (s : State) : Host.Outcome State Fault Refusal := done s (powerOn s)
def execVstbyLow (s : State) : Host.Outcome State Fault Refusal := done s (vstbyLow s)
def execChipBrownout (rail : Rail) (s : State) : Host.Outcome State Fault Refusal := done s (chipBrownout rail s)
def execResetN (s : State) : Host.Outcome State Fault Refusal := done s (resetPin s)
def execWakeFromOff (s : State) : Host.Outcome State Fault Refusal := done s (wakeFromOff s)
def execSoftResetAct (s : State) : Host.Outcome State Fault Refusal := done s (softAct s)

end Sys2Proof.Machine
end

