-- ==== Sys2Proof/Machine/Guard.lean ====
section
/-! DEFINITION. Hive duplex and the chip guard: the hum, claims, takeovers, handling records, the ladder, the fatal state and
perturbation (14_redundancy_faults.md R438–R467). -/

namespace Sys2Proof.Machine

abbrev humPage (h : HiveId) : Nat := hivePage h 0x1D
abbrev clmPage (h : HiveId) : Nat := hivePage h 0x1E
abbrev clmRaise (h : HiveId) (n : Nat) (s : State) : State := raise s (clmPage h) Reg.CLM_EVENTS n

def State.modDup (s : State) (h : HiveId) (f : Duplex → Duplex) : State := s.modHive h (fun x => { x with dup := f x.dup })
def State.modGuard (s : State) (h : HiveId) (f : Guard → Guard) : State := s.modHive h (fun x => { x with guard := f x.guard })
abbrev State.dup (s : State) (h : HiveId) : Duplex := (s.hive h).dup

/-! ### READY and ARMED (R445) -/

/-- The claim a hive holds toward its peer: the former one while a takeover is pending. -/
def heldClaim (s : State) (h : HiveId) : Nat := if (s.dup h).pendingTake then (s.dup h).former.toNat else (s.dup h).claim.toNat

/-- Whether a hive's claim makes it the standby; equal claims are decided for HIVE_A (R439, R440). -/
def isStandby (s : State) (h : HiveId) : Bool :=
  match h with
  | .a => decide (heldClaim s .a < heldClaim s .b)
  | .b => decide (heldClaim s .b ≤ heldClaim s .a)

/-- Whether a hive runs: not in reset, in Run or Idle. -/
def hiveRuns (s : State) (h : HiveId) : Bool := let d := s.domain (hiveDom h); !d.inReset && d.state.awake

def ready (s : State) (h : HiveId) : Bool :=
  let d := s.dup h
  isStandby s h && hiveRuns s h && decide ((s.hive h).tb.core = (s.hive (otherHive h)).tb.core)
    && decide (d.claim0 = d.claim1) && decide (d.claim1 = d.claim2)
    && (List.range 6).all (fun c => decide (((s.comb c).bundle h).state = 2))

def armed (s : State) (h : HiveId) : Bool :=
  let d := s.dup h
  let run := decide (d.runD ≥ 64) || decide (d.runR ≥ 64)
  ready s h && (d.hostArm || (if d.disarmed then d.anew && run else run || !d.takenSince))

/-! ### Records (R457–R462, R465) -/

/-- A record enters the log of its hive, which keeps 64 (R459). -/
def logRecord (h : HiveId) (r : Record) (close : Nat) (s : State) : State :=
  s.modGuard h (fun g => { g with log := (if g.log.length ≥ 64 then g.log.tail else g.log) ++ [{ r with close := close }] })

/-- The open record closes; one that reached step 2 is summarised (R465). -/
def closeRecord (h : HiveId) (close : Nat) (s : State) : State :=
  match (s.hive h).guard.record with
  | none => s
  | some r =>
    let s := logRecord h r close s
    s.modGuard h (fun g => { g with
      record := none, summaryDue := g.summaryDue || decide (r.step ≥ 2)
      lastFault := if r.step ≥ 2 then some ({ r with close := close }, g.openSec.toNat) else g.lastFault })

/-- GRD_REC_0 and GRD_REC_1 of a record (R471). -/
def recWord0 (r : Record) : Nat := r.region + r.src * 2 ^ 4 + r.step * 2 ^ 9 + 2 ^ 12 * r.ceil + 2 ^ 16 * r.seq.toNat
def recWord1 (r : Record) : Nat := r.classOr.toNat + 2 ^ 16 * r.count + 2 ^ 22 * r.close + 2 ^ 24 * r.regionOr.toNat

/-- The payload of FAULT_SUMMARY (R465). -/
def summaryWords (x : Hive) : List W64 :=
  let n (i : Nat) : Nat := min 65535 (x.guard.stepCounts.getD i 0) * 2 ^ (16 * i)
  let (last, sec) := match x.guard.lastFault with | some (r, sec) => (2 ^ 32 * (recWord1 r) + recWord0 r, sec) | none => (0, 0)
  [BitVec.ofNat 64 (n 0 + n 1 + n 2 + n 3), BitVec.ofNat 64 (x.dup.takes % 2 ^ 32 + 2 ^ 32 * (min (2 ^ 32 - 1) x.guard.pathLost)),
   BitVec.ofNat 64 last, BitVec.ofNat 64 (sec % 2 ^ 48), 0, 0, 0, 0]

/-- FAULT_SUMMARY is rewritten once due, at most once per second, when the journal is free. -/
def summaryTry (h : HiveId) (s : State) : State :=
  let x := s.hive h
  let early : Bool := match x.guard.lastSummary with | some t => decide (s.tick < t + secTicks) | none => false
  if !x.guard.summaryDue ∨ x.nvs.isSome ∨ early then s
  else match recordWrites x.mram 8 0 (summaryWords x) with
    | none => s.modGuard h (fun g => { g with summaryDue := false, lastSummary := some s.tick })
    | some ws => s.modHive h (fun x => { x with
        guard := { x.guard with summaryDue := false, lastSummary := some s.tick }
        nvs := some { op := 1, kind := 8, inst := 0, addr := 0, len := 64, writes := ws, result := 0, src := 2 } })

/-! ### The fatal state (R463) -/

/-- The hive's workers are reset, and its worker 0 starts on the resident dump kernel. -/
def startDump (h : HiveId) (s : State) : State :=
  let w := 24 * hiveDom h
  let s := forN 24 (fun i s => wkReset (w + i) true s) s
  s.modWorker w (fun x => { x with state := .running, pc := 4 * Config.dumpEntry })

/-- The active hive is declared fatal. -/
def declareFatal (s : State) : State :=
  let h := higherClaim s
  if (s.dup h).fatal then s
  else
    let s := s.modDup h (fun d => { d with fatal := true })
    let s := s.modGuard h (fun g => { g with
      fatalTick := some s.tick, dumpDone := false, summaryDue := true
      dump := { sect := 1, time := timeWord (s.hive h).tb.core (s.hive h).tb.qual }
      fatalRecord := g.record
      lastFault := match g.record with | some r => some (r, g.openSec.toNat) | none => g.lastFault })
    let s := s.modChip (fun c => { c with framing := false })
    summaryTry h (startDump h (raise s (grdPage (hiveDom h)) Reg.GRD_EVENTS 8))

/-- Every lane transmitter falls to electrical idle. -/
def lanesStop (s : State) : State := forN 20 (fun l s => s.modLane l (fun x => { x with idleOut := true })) s

/-- The END section of the dump has been acknowledged. -/
def dumpEnded (s : State) : State :=
  let g := (s.hive (higherClaim s)).guard
  if s.fatal ∧ g.dumpDone then lanesStop s else s

/-- The dump is abandoned 1 s after the declaration. -/
def dumpTimeout (s : State) : State :=
  match (s.hive (higherClaim s)).guard.fatalTick with
  | some t => if s.fatal ∧ s.tick ≥ t + secTicks then lanesStop s else s
  | none => s

/-! ### Takeover decisions (R446, R447) -/

/-- A standby decides to take over: its claim rises above the last one heard. -/
def decideTake (h : HiveId) (s : State) : State :=
  let d := s.dup h
  let v := d.peerClaim + 1
  let s := s.modDup h (fun d => { d with
    former := d.claim, claim0 := v, claim1 := v, claim2 := v, pendingTake := true, nvPending := true, keptDone := d.peerDone })
  claimDue h s

/-- A hive that acts on YIELD or TAKE, or refuses. -/
def askTake (h : HiveId) (s : State) : State :=
  let d := s.dup h
  if d.pendingTake then s
  else if armed s h ∧ d.peerClaim ≠ 0xFFFF#16 ∧ !d.peerFatal then decideTake h s
  else clmRaise h 4 s

/-- Both paths from the active hive are silent. -/
def bothSilent (h : HiveId) (s : State) : State :=
  let d := s.dup h
  if !isStandby s h then raise s (humPage h) Reg.HUM_EVENTS 4
  else if d.pendingTake then s
  else
    let s' := raise s (humPage h) Reg.HUM_EVENTS 2
    if !armed s h ∨ d.peerFatal then s'
    else if d.peerClaim = 0xFFFF#16 then clmRaise h 4 s'
    else decideTake h s'

/-! ### The hum (R442–R444) -/

/-- The slot of the present instant in a hive. -/
def humSlot (s : State) (h : HiveId) : Nat := ((s.fuOf h).fdiv (2 ^ 20)).toNat

/-- Whether every unit of a frame has left the hive and been acknowledged. -/
def frameOut (s : State) (h : HiveId) (f : BitVec 40) : Bool :=
  let x := s.hive h
  let isUnit (p : TxPacket) : Bool := match p.load with | .unit u _ _ => decide (u.frame = f) | _ => false
  !(x.fr.frames.any (fun o => o.frame = f)) && !(x.place.waiting.any (fun u => u.frame = f))
    && s.lanes.all (fun e => !(e.2.retry.any isUnit) && !(e.2.waiting.any isUnit))

/-- Frames a hive has not yet delivered. -/
def undeliveredNow (s : State) (h : HiveId) : List (BitVec 40 × Nat × Option (BitVec 40)) :=
  (s.fr h).undelivered.filter (fun u => match u.2.2 with | some f => !frameOut s h f | none => true)

/-- DONE of a hive (R443). -/
def doneOf (s : State) (h : HiveId) : BitVec 40 :=
  let now := (s.hive h).tb.core.frame
  (undeliveredNow s h).foldl (fun m u => if frameDiff (u.1 - 1) m < 0 then u.1 - 1 else m) (now - 1)

/-- The payload of a hive's beat. -/
def beatWord (s : State) (h : HiveId) : W64 :=
  let d := s.dup h
  BitVec.ofNat 64 (2 ^ 48 * (heldClaim s h) + bitAt (decide (higherClaim s = h)) 47 + bitAt d.yieldReq 46 + bitAt d.fatal 45
    + bitAt (ready s h) 44 + humSlot s h % 16 * 2 ^ 40 + (doneOf s h).toNat)

/-- The CRC of a beat. -/
def beatCrc (x : W64) : BitVec 8 := crc8 7#8 0#8 (bitsMsb x)

/-- Whether a hive takes part in the hum. -/
def humOn (s : State) (h : HiveId) : Bool :=
  let d := s.domain (hiveDom h)
  s.chip.started && !d.inReset && !(d.state = .deep || d.state = .off)

/-- A hive sends its beat of the present slot. -/
def beatSend (h : HiveId) (s : State) : State :=
  if !humOn s h ∨ (s.dup h).sentSlot = some (humSlot s h) then s
  else
    let s := s.modFr h (fun x => { x with undelivered := undeliveredNow s h })
    s.modDup h (fun d => { d with sent := some (beatWord s h), sentSlot := some (humSlot s h) })

/-- The FATAL of a valid beat (R446, R463). -/
def hearFatal (h : HiveId) (s : State) : State :=
  let d := s.dup h
  if higherClaim s = h then declareFatal s
  else
    let s := if d.pendingTake then
        let s := s.modDup h (fun d => { d with pendingTake := false, claim0 := d.former, claim1 := d.former, claim2 := d.former, nvPending := true })
        clmRaise h 4 (claimDue h s)
      else s
    s.modDup h (fun d => { d with fatal := true })

/-- A valid beat. -/
def beatGood (h : HiveId) (via : HumPath) (x : W64) (s : State) : State :=
  let n := humSlot s h
  let s := s.modDup h (fun d =>
    let d := { d with
      heard := true, peerClaim := x.extractLsb' 48 16, peerActive := x.getLsbD 47, peerYield := x.getLsbD 46, peerFatal := x.getLsbD 45, peerReady := x.getLsbD 44, peerDone := x.extractLsb' 0 40 }
    match via with
    | .direct => { d with runD := if d.slotD = some n then d.runD else d.runD + 1, slotD := some n, missD := 0, silentD := false }
    | _ => { d with runR := if d.slotR = some n then d.runR else d.runR + 1, slotR := some n, missR := 0, silentR := false })
  let s := s.modDup h (fun d => match via with | .relay0 => { d with relay0 := true } | .relay3 => { d with relay3 := true } | .direct => d)
  let s := s.setReg64 (humPage h) Reg.HUM_DONE_LO (x.extractLsb' 0 40).toNat
  let s := s.setReg (humPage h) Reg.HUM_PEER_CLAIM ((x.extractLsb' 48 16).zeroExtend 32)
  if x.getLsbD 45 then hearFatal h s
  else if x.getLsbD 46 ∧ x.getLsbD 47 ∧ isStandby s h then askTake h s
  else s

/-- A beat arrives at a hive. -/
def beatReceive (h : HiveId) (via : HumPath) (x : W64) (crc : BitVec 8) (s : State) : State :=
  if !humOn s h then s
  else if beatCrc x = crc ∧ (x.extractLsb' 40 4).toNat = humSlot s h % 16 then beatGood h via x s
  else
    let s := s.modDup h (fun d => match via with | .relay0 => { d with relay0 := false } | .relay3 => { d with relay3 := false } | .direct => d)
    s.count (humPage h) Reg.HUM_BAD_CNT

/-- Whether a beat of a path is overdue: 64 ticks after its due instant none of its slot has come. -/
def overdueBeat (s : State) (h : HiveId) (served : Option Nat) : Bool :=
  decide (served ≠ some (humSlot s h)) && decide (s.fuOf h ≥ 2 ^ 20 * (humSlot s h : Int) + 64000)

/-- A beat is missed on a path. -/
def beatMissed (h : HiveId) (direct : Bool) (s : State) : State :=
  let d := s.dup h
  if !humOn s h ∨ !overdueBeat s h (if direct then d.slotD else d.slotR) then s
  else
    let n := humSlot s h
    let miss := min 15 ((if direct then d.missD else d.missR) + 1)
    let s := s.count (humPage h) (if direct then Reg.HUM_MISS_D_CNT else Reg.HUM_MISS_R_CNT)
    let s := s.modDup h (fun d => if direct then { d with missD := miss, slotD := some n, runD := 0, silentD := decide (miss ≥ 8) }
      else { d with missR := miss, slotR := some n, runR := 0, silentR := decide (miss ≥ 8) })
    if miss ≠ 8 then s
    else
      let other := if direct then d.silentR || (decide (d.missR ≥ 7) && overdueBeat s h d.slotR) else d.silentD || (decide (d.missD ≥ 7) && overdueBeat s h d.slotD)
      if other then bothSilent h s
      else
        let s := s.modGuard h (fun g => { g with pathLost := g.pathLost + 1 })
        guardEvent (raise s (humPage h) Reg.HUM_EVENTS 1) (hiveDom h) 5

/-! ### Takeover (R440, R448, R449) -/

/-- Every link starts afresh in TRAINING, its block lock kept (09_lanes.md R297). -/
def restartLinks (s : State) : State :=
  forN 20 (fun l s =>
    match (s.lane l).state with
    | .up => laneEvent l 2 ((s.modLane l (fun x => { freshLink x with state := .training, rx := [] })).count (lanePage l) Reg.LNK_DOWN_CNT)
    | .training => s.modLane l (fun x => { freshLink x with state := .training, rx := [] })
    | _ => s) s

/-- The frames that the former active hive will not deliver, up to the first that the new one builds (R449). -/
def lostAt (d : Duplex) (first : BitVec 40) (decided : Bool) : Option (BitVec 40 × Nat) :=
  let a := (if decided then d.keptDone else d.peerDone) + 1
  let n := frameDiff first a
  if d.heard ∧ 0 < n then some (a, n.toNat) else none

/-- The open packets of the device's own producers in the frame-output queues are aborted (08_queues_placement.md R266). -/
def abortOutput (h : HiveId) (s : State) : State :=
  forN 56 (fun i s => if (s.queue h (32 + i)).opened = some .device then qKill s h (32 + i) else s) s

/-- Units and messages that a hive left in its queues when it was last active are discarded as it becomes active again: their frames
are lost and their receivers' accounting has restarted (DESIGN CHOICE, log entry 91). -/
def discardStale (h : HiveId) (s : State) : State :=
  forL ((List.range 56).map (32 + ·) ++ (List.range 4).map (96 + ·)) (fun q s =>
    let (s, d) := qDesc s h q
    if d.count = 0 then s.modQueue h q (fun x => { x with freed := [] })
    else (qRelease (s.modQueue h q (fun x => { x with freed := [] })) h q d.count).1) s

/-- A hive that was active becomes the standby (R440, R445). -/
def becomeStandby (h : HiveId) (s : State) : State :=
  (abortOutput h s).modHive h (fun x => { x with
    fr := { recTotal := x.fr.recTotal, wordTotal := x.fr.wordTotal, anyBuilt := x.fr.anyBuilt, resumeFlag := x.fr.resumeFlag }
    place := {}, windows := [], outstanding := []
    guard := { x.guard with record := none }
    dup := { x.dup with hostArm := false, disarmed := true, anew := true, runD := 0, runR := 0, yieldReq := false, takenSince := true } })

/-- At a takeover a comb discards the credits of the former active hive and, where its bundle to the new one is UP, takes those that
hive advertises, of empty receive buffers (05_blocks_regions.md R173, R176). -/
def switchCredits (h : HiveId) (c : Nat) (s : State) : State :=
  let s := s.modBundle c (otherHive h) (fun b => { b with dataCr := 0, ctlCr := 0 })
  if ((s.comb c).bundle h).state ≠ 2 then s
  else raise (s.modBundle c h (fun b => { b with dataCr := 4096, ctlCr := 64, retData := 0, retCtl := 0 })) (combPage c 0x02) Reg.REG_EVENTS 16

/-- The management port's report restarts; an access still pending belongs to the former hive (15_control.md R485). -/
def restartPort (s : State) : State :=
  let s := s.modChip (fun c => { c with mgt := { takeover := true, report := c.mgt.report } })
  match tfind s.stalls 32 with
  | some a => { s with stalls := tput (terase s.stalls 32) 36 a }
  | none => s

/-- The output stages obey a hive from now on; it builds frames from `first`. -/
def becomeActive (h : HiveId) (first : BitVec 40) (decided : Bool) (s : State) : State :=
  let o := otherHive h
  let old := s.hive o
  let readable := humOn s o
  let lost := lostAt (s.dup h) first decided
  let s := s.modChip (fun c => { c with obeyedB := decide (h = .b) })
  let s := s.modHive h (fun x => { x with
    fr := { recTotal := x.fr.recTotal, wordTotal := x.fr.wordTotal, anyBuilt := x.fr.anyBuilt, resumeFlag := old.fr.resumeFlag
            takeoverFlag := true, lostRanges := lost.toList
            undelivered := (lost.map (fun r => (r.1, r.2, none))).toList }
    place := {}, windows := [], outstanding := []
    trig := { x.trig with
      jumpAt := none, before := none, relabel := [], entries := [], decided := [], unsent := [], seq := 0, cands := [], held := [], autoExp := 0, autoHist := [], peak := 0 }
    dup := { x.dup with takes := (x.dup.takes + 1) % 2 ^ 32, takenSince := true, yieldReq := false } })
  let s := creditStart h (forN 6 (switchCredits h) (discardStale h (horizonRestart h (lagUpdate h (clmRaise h 1 s)))))
  let s := s.setReg64 (clmPage h) Reg.CLM_TAKE_FRAME_LO first.toNat
  let s := match old.guard.record with
    | some r => if readable then logRecord h r 3 s else s
    | none => s
  let s := becomeStandby o s
  restartPort (restartLinks (if readable then clmRaise o 2 s else s))

/-- A decided takeover takes effect at a frame boundary, `first` being the frame that starts there. -/
def takeAtBoundary (first : BitVec 40) (s : State) : State :=
  let was := higherClaim s
  let one (h : HiveId) (s : State) : State := s.modDup h (fun d => { d with pendingTake := false })
  let s' := one .b (one .a s)
  if !s.hiveA.dup.pendingTake ∧ !s.hiveB.dup.pendingTake then s
  else if higherClaim s' = was then s'
  else becomeActive (higherClaim s') first true s'

/-- The stages compare the claims each tick (R439). -/
def obeyClaims (s : State) : State :=
  let h := higherClaim s
  if s.chip.obeyedB = decide (h = .b) then s else becomeActive h (s.frameNow + 1) false s

/-- TAKEOVER: the boundary of the present frame falls within the next tick (R448). -/
def boundaryDue (s : State) : Bool := decide (s.frameStart (s.frameNow + 1) < s.now + 1000)
def takeover (s : State) : State := if boundaryDue s then takeAtBoundary (s.frameNow + 1) s else s

/-! ### CLM_ registers (R441, R445, R447) -/

/-- A write of CLM_CLAIM. -/
def clmClaim (h : HiveId) (v : W32) (s : State) : State :=
  if s.hiveA.dup.pendingTake ∨ s.hiveB.dup.pendingTake then pageErr s (clmPage h) errValue
  else
    let x := v.extractLsb' 0 16
    let top := higherClaim s
    let ok := if h = top then decide (x.toNat > (s.dup (otherHive h)).claim.toNat) else decide (x.toNat < (s.dup top).claim.toNat)
    if !ok then pageErr (clmRaise h 8 s) (clmPage h) errValue
    else claimDue h (s.modDup h (fun d => { d with claim0 := x, claim1 := x, claim2 := x, former := x }))

/-- CLM_CTL.YIELD asks the other hive to take over. -/
def askYield (h : HiveId) (s : State) : State :=
  if higherClaim s ≠ h then s
  else if armed s (otherHive h) ∧ (s.dup h).claim ≠ 0xFFFF#16 ∧ !(s.dup h).fatal then s.modDup h (fun d => { d with yieldReq := true })
  else clmRaise h 4 s

def clmTake (h : HiveId) (s : State) : State := if isStandby s h then askTake h s else s
def clmDisarm (h : HiveId) (s : State) : State := s.modDup h (fun d => { d with disarmed := true, hostArm := false, anew := false, runD := 0, runR := 0 })
def clmArm (h : HiveId) (s : State) : State := if isStandby s h then s.modDup h (fun d => { d with hostArm := true }) else s

/-- A write of CLM_CTL. -/
def clmCtl (h : HiveId) (v : W32) (s : State) : State :=
  let s := if bit v 0 then askYield h s else s
  let s := if bit v 1 then clmTake h s else s
  let s := if bit v 2 then clmDisarm h s else s
  if bit v 3 then clmArm h s else s

/-! ### The ladder (R457–R459) -/

/-- The guard number of a region's address code. -/
abbrev regionNo (code : Nat) : Nat := if code < 6 then code else code - 2

/-- The step a record has climbed to acts on its first source. -/
def ladderAct (r : Record) (s : State) : State :=
  let g := regionNo r.region
  let h := higherClaim s
  match r.step with
  | 1 => if (s.domain g).inReset then s else isolateBlock (12 * g + r.src) s
  | 2 => resetRegion g s
  | 3 => if g = hiveDom (otherHive h) then resetRegion g s else askYield h s
  | _ => s

/-- The open record climbs one step, which acts; a step 4 closes it with FATAL. -/
def climb (r : Record) (s : State) : State :=
  let h := higherClaim s
  let r := { r with step := r.step + 1, deadline := s.tick + graceTicks s h }
  let s := s.modGuard h (fun g => { g with record := some r, stepCounts := lmod g.stepCounts (r.step - 1) (fun n => min 65535 (n + 1)) })
  let s := raise s (grdPage (hiveDom h)) Reg.GRD_EVENTS 2
  if r.step = 4 then closeRecord h 2 (declareFatal s) else ladderAct r s

/-- The open record is closed at its ceiling. -/
def atCeiling (h : HiveId) (s : State) : State := closeRecord h 1 (raise s (grdPage (hiveDom h)) Reg.GRD_EVENTS 4)

/-- The grace timer expires. -/
def graceExpiry (s : State) : State :=
  let h := higherClaim s
  match (s.hive h).guard.record with
  | none => s
  | some r =>
    if s.fatal ∨ s.tick < r.deadline then s
    else if !bit (s.reg (grdPage (hiveDom h)) Reg.GRD_CTL) 0 then
      s.modGuard h (fun g => { g with record := some { r with deadline := s.tick + graceTicks s h } })
    else if r.step + 1 > r.ceil then atCeiling h s
    else
      let s := climb r s
      if r.step + 1 ≥ r.ceil ∧ r.step ≠ 3 then atCeiling h s else s

/-- Whether a guard page is the active hive's, on which alone handling, log and FAULT_N registers act. -/
def chipGuardPage (s : State) (g : Nat) : Bool := decide (g = hiveDom (higherClaim s))

/-- A write of GRD_ACK (R459); once the device is fatal the record stays as it stands (R463). In the tick of an expiry the step acts
first. -/
def grdAck (g : Nat) (v : W32) (s : State) : State :=
  let h := higherClaim s
  match (s.hive h).guard.record with
  | some r =>
    if chipGuardPage s g ∧ !s.fatal ∧ r.seq = v.extractLsb' 0 16 then
      let due := decide (s.tick ≥ r.deadline) && bit (s.reg (grdPage g) Reg.GRD_CTL) 0 && decide (r.step + 1 ≤ r.ceil)
      closeRecord h 0 (if due then climb r s else s)
    else s
  | none => s

/-- GRD_CTL.FATAL. -/
def grdFatal (g : Nat) (s : State) : State := if chipGuardPage s g then declareFatal s else s

/-- A write of GRD_CTL: FAULTN_STEP 0 is ignored. -/
def grdCtl (g : Nat) (v : W32) (s : State) : State :=
  if !chipGuardPage s g then s
  else
    let old := s.reg (grdPage g) Reg.GRD_CTL
    let k := if fld v 6 4 = 0 then fld old 6 4 else fld v 6 4
    let s := s.setReg (grdPage g) Reg.GRD_CTL (w32 (bitAt (bit v 0) 0 + k * 16))
    if bit v 1 then declareFatal s else s

/-- A read of GRD_LOG_POP. What it returns from an empty log is not stated: free values (log entry 1). -/
def grdLogPop (p : Path) (g : Nat) (s : State) : State × W32 :=
  if !chipGuardPage s g then (s, 0)
  else
    let h := higherClaim s
    let snap (x y : W32) (s : State) : State := (s.setSel p (grdPage g) Reg.GRD_LOG_REC1 x).setSel p (grdPage g) Reg.GRD_LOG_TIME y
    match (s.hive h).guard.log with
    | r :: rest => (snap (w32 (recWord1 r)) r.time (s.modGuard h (fun x => { x with log := rest })), w32 (recWord0 r))
    | [] =>
      let (v, s) := s.free
      let (w, s) := s.free
      (snap (v.extractLsb' 32 32) (w.extractLsb' 0 32) s, v.extractLsb' 0 32)

/-- FAULT_N is driven low (R462). -/
def faultDriven (s : State) : Bool :=
  let h := higherClaim s
  let k := fld (s.reg (grdPage (hiveDom h)) Reg.GRD_CTL) 6 4
  s.fatal || (match (s.hive h).guard.record with | some r => decide (k ≤ 4) && decide (r.step ≥ k) | none => false)

/-! ### Perturbation (R466) -/

/-- The perturbation register locks again. -/
def perturbLock (g : Nat) (s : State) : State :=
  (s.modRegion g (fun r => { r with unlocked := false })).setReg (grdPage g) Reg.GRD_PERTURB_CTL 0

/-- A write of GRD_PERTURB_KEY. The path's place in the sequence is 1 after the first key. -/
def perturbKey (p : Path) (g : Nat) (v : W32) (s : State) : State :=
  let pg := grdPage g
  let place := s.sel p pg Reg.GRD_PERTURB_KEY
  let s := s.setSel p pg Reg.GRD_PERTURB_KEY 0
  if v = 0x5A5A#32 then s.setSel p pg Reg.GRD_PERTURB_KEY 1
  else if v = 0xA5A5#32 then
    if place = 1 then raise (s.modRegion g (fun r => { r with unlocked := true })) pg Reg.GRD_EVENTS 64 else s
  else perturbLock g s

/-- Another write by the path to the page breaks the sequence. -/
def perturbBreak (p : Path) (g : Nat) (s : State) : State := s.setSel p (grdPage g) Reg.GRD_PERTURB_KEY 0

/-- A write of GRD_PERTURB_CTL. -/
def perturbCtl (g : Nat) (v : W32) (s : State) : State :=
  if (s.region g).unlocked then s.setReg (grdPage g) Reg.GRD_PERTURB_CTL (v &&& 0x7FFFF#32) else s

/-! ### Status registers (R468–R471) -/

def humStatus (s : State) (h : HiveId) : W32 :=
  let d := s.dup h
  w32 (bitAt (!d.silentD) 0 + bitAt (!d.silentR) 1 + bitAt d.relay0 2 + bitAt d.relay3 3 + d.missD * 2 ^ 4 + d.missR * 2 ^ 8
    + bitAt d.peerActive 12 + bitAt d.peerYield 13 + bitAt d.peerFatal 14 + bitAt d.peerReady 15)

def clmStatus (s : State) (h : HiveId) : W32 :=
  let d := s.dup h
  w32 (bitAt (decide (higherClaim s = h)) 0 + bitAt (ready s h) 1 + bitAt (armed s h) 2 + bitAt d.pendingTake 3 + bitAt d.nvPending 4
    + bitAt d.fatal 5 + 2 ^ 16 * (presented s (higherClaim s)))

def grdStatus (s : State) (g : Nat) : W32 :=
  let x := (s.hive (higherClaim s)).guard
  let shown := if chipGuardPage s g then
      (match x.record with | some r => 1 + r.step * 2 | none => 0) + bitAt s.fatal 4
    else 0
  w32 (shown + bitAt (s.region g).unlocked 5)

/-- GRD_REC_0, GRD_REC_1 and GRD_REC_TIME. -/
def grdRec (s : State) (g : Nat) (f : Record → Nat) : W32 :=
  if !chipGuardPage s g then 0
  else match (s.hive (higherClaim s)).guard.record with
    | some r => w32 (f r)
    | none => 0

def grdSrcStatus (s : State) (g src : Nat) : W32 :=
  let x := s.source g src
  let live := match x.windowEnd with | some e => decide (s.tick < e) | none => false
  w32 (bitAt (decide (x.pair = 2)) 0 + bitAt x.broken 1 + bitAt x.severe 2 + (if live then x.count else 0) * 2 ^ 8)

/-! ### The commands of this chapter that name no access path -/

def execHumBeatSend (h : HiveId) (s : State) : Host.Outcome State Fault Refusal := done s (beatSend h s)
def execHumBeatReceive (h : HiveId) (via : HumPath) (payload : W64) (crc : BitVec 8) (s : State) : Host.Outcome State Fault Refusal :=
  done s (beatReceive h via payload crc s)
def execBeatMissed (h : HiveId) (direct : Bool) (s : State) : Host.Outcome State Fault Refusal := done s (beatMissed h direct s)
def execTakeover (s : State) : Host.Outcome State Fault Refusal := done s (takeover s)
def execGraceExpiry (s : State) : Host.Outcome State Fault Refusal := done s (graceExpiry s)
def execDumpEndAcked (s : State) : Host.Outcome State Fault Refusal := done s (dumpEnded s)
def execDumpTimeout (s : State) : Host.Outcome State Fault Refusal := done s (dumpTimeout s)

end Sys2Proof.Machine
end

