-- ==== Sys2Proof/Machine/Housekeeping.lean ====
section
/-! DEFINITION. Housekeeping sensors of a comb (17_housekeeping.md R526–R544). -/

namespace Sys2Proof.Machine

abbrev hkPage (c : Nat) : Nat := combPage c 0x06
abbrev hkReg (s : State) (c off : Nat) (i : Nat := 0) : W32 := s.reg (hkPage c) off i
def State.hkIn (s : State) (c i : Nat) : HkIn := tget {} (s.hk c).inputs i
def State.modHkIn (s : State) (c i : Nat) (f : HkIn → HkIn) : State :=
  s.modHk c (fun k => { k with inputs := tset {} k.inputs i (f (tget {} k.inputs i)) })

/-! ### Fields of HK_CFG (R544) -/

abbrev hkExc (v : W32) : Nat := fld v 5 0
abbrev hkPreset (v : W32) : Nat := fld v 7 6
abbrev hkSingle (v : W32) : Bool := bit v 8
abbrev hkAuto (v : W32) : Bool := bit v 9
abbrev hkDcb (v : W32) : Bool := bit v 10
abbrev hkFreeze (v : W32) : Bool := bit v 11
abbrev hkShift (v : W32) : Nat := fld v 15 12
abbrev hkHiEn (v : W32) : Bool := bit v 16
abbrev hkLoEn (v : W32) : Bool := bit v 17

/-! ### Switches and restarts (R532, R535, R542) -/

/-- A switch of an input: it settles from the next sample on. -/
def hkSwitch (c i : Nat) (s : State) : State :=
  if hkAuto (hkReg s c Reg.HK_CFG i) then s.modHkIn c i (fun x => { x with switchAt := some x.n, settling := true }) else s

/-- Whether housekeeping may convert: RUN is set, and the comb is in Run or Idle and in no reset. -/
def hkRuns (s : State) (c : Nat) : Bool :=
  let d := s.domain c
  s.chip.started && bit (hkReg s c Reg.HK_CTL) 0 && d.state.awake && !d.inReset

/-- Housekeeping restarts with empty filters. -/
def hkRestart (c : Nat) (s : State) : State :=
  if !hkRuns s c ∨ (s.hk c).running then s
  else
    let s := s.modHk c (fun k => { k with running := true })
    forN 16 (fun i s => hkSwitch c i (s.modHkIn c i (fun x => { x with hist := [], n := 0, switchAt := none, settling := false }))) s

/-! ### Filters (R533–R538) -/

/-- D of a preset. -/
def hkD : Nat → Nat
  | 0 => 4 | 1 => 64 | _ => 1024
/-- log2 of the weight sum of a preset. -/
def hkW : Nat → Nat
  | 0 => 4 | 1 => 12 | _ => 20

/-- The weighted sum of the last 2D − 1 samples, newest first; a filter that starts empty holds zeros (log entry 40). -/
def hkSum (D : Nat) (hist : List (Int × Bool × Bool)) : Int :=
  ((List.range (2 * D - 1)).zip hist).foldl (fun a (i, x) => a + (min (i + 1) (2 * D - 1 - i) : Nat) * x.1) 0

/-- The plain sum of the last samples. -/
def plainSum (n : Nat) (hist : List (Int × Bool × Bool)) : Int := (hist.take n).foldl (fun a x => a + x.1) 0

/-- A signed value limited to 32 bits. -/
def satQ (x : Int) : Int := clampI (-(2 ^ 31)) (2 ^ 31 - 1) x

/-- A mean corrected by OFFSET and GAIN (R536). -/
def hkCorrect (s : State) (c i : Nat) (m : Int) : Int :=
  satQ (((m - (hkReg s c Reg.HK_OFFSET i).toInt) * (hkReg s c Reg.HK_GAIN i).toInt).fdiv (2 ^ 24))

/-- An output due after sample `j`: sum, log2 of its weight sum, samples covered, and whether the preset filter made it. While an input
settles, the single-cycle sum serves until the preset filter covers only samples that follow the switch. -/
def hkOutput (cfg : W32) (x : HkIn) (j : Nat) : Option (Int × Nat × Nat × Bool) :=
  let D := hkD (hkPreset cfg)
  let from_ := x.switchAt.getD 0
  let presetOk := (j + 1) % D = 0 && (x.switchAt.isNone || decide (j + 2 ≥ from_ + 2 * D))
  let plainOk := (j + 1) % (2 * D) = 0 && (x.switchAt.isNone || decide (j + 1 ≥ from_ + 2 * D))
  let plain := (plainSum (2 * D) x.hist, (2 * D).log2, 2 * D, false)
  if hkSingle cfg then (if plainOk then some plain else none)
  else if presetOk then some (hkSum D x.hist, hkW (hkPreset cfg), 2 * D - 1, true)
  else if x.switchAt.isSome ∧ plainOk then some plain
  else none

/-- The DC blocker (R536): the output and the estimate. -/
def hkBlock (cfg : W32) (x : HkIn) (v : Int) : Int × HkIn :=
  if !hkDcb cfg then (v, x)
  else
    let m := if x.mSet then x.m else v
    let m' := if hkFreeze cfg then m else m + (v - m).fdiv (2 ^ hkShift cfg)
    (satQ (v - m), { x with m := m', mSet := true })

/-! ### Threshold switches and alarms (R539, R540) -/

/-- The HI switch after a new value. -/
def hiSwitch (s : State) (c i : Nat) (old : Bool) (v : Int) : Bool :=
  let t := (hkReg s c Reg.HK_THR_HI i).toInt
  if !hkHiEn (hkReg s c Reg.HK_CFG i) then false
  else if v > t then true else if v < t - ((hkReg s c Reg.HK_HYST i).toNat : Int) then false else old

/-- The LO switch after a new value. -/
def loSwitch (s : State) (c i : Nat) (old : Bool) (v : Int) : Bool :=
  let t := (hkReg s c Reg.HK_THR_LO i).toInt
  if !hkLoEn (hkReg s c Reg.HK_CFG i) then false
  else if v < t then true else if v > t + ((hkReg s c Reg.HK_HYST i).toNat : Int) then false else old

/-- Alarm bits that set: their events, and one event of the comb's SENSOR source. -/
def hkAlarm (c bits : Nat) (s : State) : State :=
  if bits = 0 then s else guardEvent (raise s (hkPage c) Reg.HK_EVENTS bits) c 17

/-- An output of an input: its switches follow; the result tells the HK_EVENTS bits that are due. -/
def hkEmit (c i : Nat) (s : State) : State × Nat :=
  let cfg := hkReg s c Reg.HK_CFG i
  let x := s.hkIn c i
  match hkOutput cfg x (x.n - 1) with
  | none => (s, 0)
  | some (sum, w, len, preset) =>
    let used := x.hist.take len
    let (v, x) := hkBlock cfg x (hkCorrect s c i ((2 ^ 16 * sum).fdiv (2 ^ w)))
    let hi := hiSwitch s c i x.hi v
    let lo := loSwitch s c i x.lo v
    let due := if (hi && !x.hi) || (lo && !x.lo) then 2 ^ i else 0
    (s.modHkIn c i (fun _ => { x with
      value := v, hi := hi, lo := lo, seq := x.seq + 1, settling := false, switchAt := if preset || hkSingle cfg then none else x.switchAt
      brkOut := used.any (·.2.1), testOut := used.any (·.2.2) }), due)

/-- A result of input 14: the blocks' bias outputs in turn (R538). -/
def hkBias (c : Nat) (s : State) : State × Nat :=
  let x := s.hkIn c 14
  let b := (x.n - 1) % 12
  let v := hkCorrect s c 14 (2 ^ 16 * x.raw)
  let k := s.hk c
  let hi := tset false k.biasHi b (hiSwitch s c 14 (tget false k.biasHi b) v)
  let lo := tset false k.biasLo b (loSwitch s c 14 (tget false k.biasLo b) v)
  let s := s.modHk c (fun k => { k with biasVals := tset 0 k.biasVals b v, biasHi := hi, biasLo := lo })
  let anyHi := !hi.isEmpty
  let anyLo := !lo.isEmpty
  (s.modHkIn c 14 (fun x => { x with hi := anyHi, lo := anyLo, seq := x.seq + 1, settling := false, switchAt := none }),
   if (anyHi && !x.hi) || (anyLo && !x.lo) then 2 ^ 14 else 0)

/-! ### Conversions (R529–R531) -/

/-- Whether the test DAC replaces the signal of an input. -/
def tdacOn (v : W32) (i : Nat) : Bool := bit v 20 && decide (i < 8) && decide (fld v 18 16 = i)

/-- The raw code of a sample: the test DAC's where it serves, else the converter's, within its range. -/
def hkRaw (s : State) (c i : Nat) (raw : Int) : Int :=
  let t := hkReg s c Reg.HK_TDAC
  if i = 15 ∨ tdacOn t i then ((fld t 9 0 : Int) - 512) * 4
  else if i < 8 then clampI (-2048) 2047 raw
  else clampI 0 4095 raw

/-- A conversion: `raw` is the code the pins or the source give, `cm` the common-mode voltage of an external input in mV. -/
def hkConversion (c : Nat) (raw : Int) (cm : Nat) (s : State) : State :=
  let k := s.now.fdiv 1024000
  if !hkRuns s c ∨ (s.hk c).lastConv = some k then s
  else
    let s := hkRestart c s
    let i := (k % 16).toNat
    let win := hkReg s c Reg.HK_CM_WIN
    let brk := decide (i < 8) && (decide (cm < 8 * fld win 7 0) || decide (cm > 8 * fld win 15 8))
    let test := tdacOn (hkReg s c Reg.HK_TDAC) i
    let r := hkRaw s c i raw
    let was := (s.hkIn c i).brk
    let s := s.modHk c (fun y => { y with lastConv := some k, convs := y.convs + 1 })
    let s := s.modHkIn c i (fun x => { x with raw := r, brk := brk, test := test, n := x.n + 1, hist := ((r, brk, test) :: x.hist).take 2048 })
    let (s, due) := if i = 14 then hkBias c s else hkEmit c i s
    hkAlarm c (due + (if brk && !was then 2 ^ (16 + i) else 0)) s

/-! ### Writes (R531, R532, R539, R544) -/

/-- A write of HK_CTL: clearing RUN stops housekeeping. -/
def hkCtl (c : Nat) (v : W32) (s : State) : State :=
  let s := s.setReg (hkPage c) Reg.HK_CTL (v &&& 3)
  if bit v 0 then s else s.modHk c (fun k => { k with running := false })

/-- A write of HK_CFG for an input. -/
def hkCfg (c i : Nat) (v : W32) (s : State) : State :=
  let old := hkReg s c Reg.HK_CFG i
  let pick (ok : Bool) (mask : W32) (v : W32) : W32 := if ok then v else (v &&& ~~~mask) ||| (old &&& mask)
  let v := v &&& 0x3FFFF#32
  let v := pick (decide (hkExc v ≤ 50)) 0x3F#32 v
  let v := pick (decide (hkPreset v ≠ 3)) 0xC0#32 v
  let v := pick (decide (hkShift v ≥ 4)) 0xF000#32 v
  let s := s.setReg (hkPage c) Reg.HK_CFG v i
  let s := s.modHkIn c i (fun x => { x with
    mSet := x.mSet && hkDcb old && hkDcb v, hi := x.hi && hkHiEn v, lo := x.lo && hkLoEn v })
  let s := if i ≠ 14 then s
    else s.modHk c (fun k => { k with biasHi := if hkHiEn v then k.biasHi else [], biasLo := if hkLoEn v then k.biasLo else [] })
  if i < 8 ∧ hkExc v ≠ hkExc old then hkSwitch c i s else s

/-- A write of HK_TDAC. -/
def hkTdac (c : Nat) (v : W32) (s : State) : State :=
  let old := hkReg s c Reg.HK_TDAC
  let s := s.setReg (hkPage c) Reg.HK_TDAC (v &&& 0x1703FF#32)
  forN 8 (fun i s => if tdacOn old i = tdacOn v i then s else hkSwitch c i s) s

/-! ### Reads (R538, R541, R543, R544) -/

/-- The input a path has selected. -/
abbrev hkSel (s : State) (p : Path) (c : Nat) : Nat := fld (s.sel p (hkPage c) Reg.HK_SEL) 3 0

def hkInStatus (s : State) (c i : Nat) : W32 :=
  let x := s.hkIn c i
  let cfg := hkReg s c Reg.HK_CFG i
  w32 (bitAt x.brk 0 + bitAt x.test 1 + bitAt x.settling 2 + bitAt (hkSingle cfg || x.switchAt.isSome) 3 + bitAt x.hi 4 + bitAt x.lo 5
    + bitAt x.brkOut 6 + bitAt x.testOut 7 + x.seq.toNat * 2 ^ 8)

/-- HK_RAW of an input. -/
def hkRawWord (s : State) (c i : Nat) : W32 :=
  let r := w32i (s.hkIn c i).raw
  if bit (hkReg s c Reg.HK_CTL) 1 then r <<< 20 else r

/-- A read of HK_RAW: the flags are kept for the path. -/
def hkRawRead (p : Path) (c : Nat) (s : State) : State × W32 :=
  let i := hkSel s p c
  (s.setSel p (hkPage c) Reg.HK_IN_STATUS (hkInStatus s c i), hkRawWord s c i)

/-- HK_VALUE of the selected input. -/
def hkValue (s : State) (p : Path) (c : Nat) : W32 :=
  let i := hkSel s p c
  if i = 14 then
    let b := fld (s.sel p (hkPage c) Reg.HK_BIAS_SEL) 3 0
    if b < 12 then w32i (tget 0 (s.hk c).biasVals b) else 0
  else w32i (s.hkIn c i).value

/-- The corrected value of an input as the I²C target shows it (15_control.md R487): of input 14 the highest. -/
def hkWord (s : State) (c i : Nat) : W32 :=
  if i = 14 then w32i ((List.range 12).foldl (fun m b => max m (tget 0 (s.hk c).biasVals b)) (tget 0 (s.hk c).biasVals 0))
  else w32i (s.hkIn c i).value

def hkAlarmWord (s : State) (c : Nat) : W32 :=
  w32 ((List.range 16).map (fun i => bitAt (s.hkIn c i).hi i + bitAt (s.hkIn c i).lo (16 + i))).sum
def hkBreakWord (s : State) (c : Nat) : W32 := w32 ((List.range 8).map (fun i => bitAt (s.hkIn c i).brk i)).sum

/-! ### The commands of this chapter that name no access path -/

def execHkConversion (comb : Fin 6) (raw : Int) (cm : Nat) (s : State) : Host.Outcome State Fault Refusal :=
  done s (hkConversion comb.val raw cm s)
def execHkRestart (comb : Fin 6) (s : State) : Host.Outcome State Fault Refusal := done s (hkRestart comb.val s)

end Sys2Proof.Machine
end

