-- ==== Sys2Proof/Machine/Boundary.lean ====
section
/-! DEFINITION. The spine tick, the frame boundary and the commit that applies at it (02_timebase.md R46–R56, R69–R71,
11_systems.md R369–R372, 15_control.md R478–R481). -/

namespace Sys2Proof.Machine

/-! ### The tick -/

/-- Copies of a time core that differ are put right; each is one correction, and VOTE is raised (02_timebase.md R54, R77, 14_redundancy_faults.md R450). -/
def voteCore (h : HiveId) (s : State) : State :=
  let t := (s.hive h).tb
  let v := t.core
  let n := ([t.core0, t.core1, t.core2].filter (fun c => decide (c ≠ v))).length
  if n = 0 then s
  else raise (forN n (fun _ s => guardEvent (s.count (hivePage h 0x10) Reg.TIM_VOTE_ERR) (hiveDom h) 4)
    (s.modHive h (fun x => { x with tb := x.tb.setCore v }))) (hivePage h 0x10) Reg.TIM_EVENTS 256

/-- The claim copies of a hive are voted. -/
def voteClaim (h : HiveId) (s : State) : State :=
  let d := s.dup h
  let v := d.claim
  let n := ([d.claim0, d.claim1, d.claim2].filter (fun c => decide (c ≠ v))).length
  if n = 0 then s
  else forN n (fun _ s => guardEvent (s.count (clmPage h) Reg.CLM_VOTE_CNT) (hiveDom h) 4)
    (s.modDup h (fun d => { d with claim0 := v, claim1 := v, claim2 := v }))

/-- The copies of the combs' configuration are voted. An entry names the copy and the bits by which it differs; a register with one
differing copy keeps its value. -/
def voteCombs (s : State) : State :=
  forL s.upsets (fun u s =>
    let c := u.2.1 / 2 ^ 28 % 16
    guardEvent (s.count (grdPage c) Reg.GRD_VOTE_CNT) c 15) { s with upsets := [] }

/-- The time word advances by one tick, and the outputs with it; the standby's core follows the active one's (R46, R55, R72,
01_device_overview.md R30). -/
def advanceTime (s : State) : State :=
  let h := higherClaim s
  let c := (s.hive h).tb.core
  let c := c.atFu (c.fu + 1000)
  ppsTick (s.bothTb (fun t => t.setCore c))

/-- Worker timers count down while their worker is not halted (12_workers.md R387). -/
def countTimers (s : State) : State :=
  { s with workers := s.workers.map (fun e =>
      (e.1, if e.2.timer > 0 ∧ e.2.state ≠ .halted then { e.2 with timer := e.2.timer - 1 } else e.2)) }

/-- Whether a comb has a record ready and no data credit for it (05_blocks_regions.md R173). -/
def regionStalled (s : State) (c : Nat) : Bool := recordReady s c && decide (((s.comb c).bundle (higherClaim s)).dataCr = 0)

/-- The counters that count ticks of waiting. -/
def countStalls (s : State) : State :=
  let h := higherClaim s
  let s := forN 6 (fun c s => if regionStalled s c then s.count (combPage c 0x02) Reg.REG_STALL_CNT else s) s
  let s := if mergeStalled s h then s.count (frmPage h) Reg.FRM_STALL_CNT else s
  if creditWaits s then s.count (plcPage h) Reg.PLC_WAIT_CNT else s

/-- The stepping code: that of the IDENTITY record, else the part's (13_memory.md R425; log entry 8). -/
def stepping (s : State) : BitVec 4 :=
  match (s.hive (higherClaim s)).ident with
  | [] => Config.idcodeStepping
  | ws => (ws.getD 1 0).extractLsb' 0 4

/-- The serial number (15_control.md R493). -/
def serial (s : State) : W64 := (s.hive (higherClaim s)).ident.getD 0 0

/-- CHIP_DEVICE_ID_NOW (11_systems.md R377). -/
def deviceIdNow (s : State) : W32 := w32 (fld (s.reg chipPage Reg.CHIP_DEVICE_ID) 11 0 + bitAt s.chip.idDefault 31)

/-- Whether the FAULT_N pin reads low (15_control.md R490). -/
def faultLow (s : State) : Bool := faultDriven s || s.chip.faultExt

/-- Words 0 to 5 of the I²C target (15_control.md R487). -/
def i2cWords (s : State) : List W32 :=
  let h := higherClaim s
  [0x00521152#32, (stepping s).zeroExtend 32, (serial s).extractLsb' 0 32, (serial s).extractLsb' 32 32, deviceIdNow s,
   w32 ((s.hive h).tb.qual.sync + bitAt (decide (h = .b)) 2 + bitAt s.fatal 3 + bitAt s.chip.estop 4 + bitAt (faultLow s) 5)]

/-- Words 0 to 5 of the I²C target are copied into the VSTBY domain, and the last tick is noted at which FAULT_N was driven
(15_control.md R487, R490). -/
def copyWords (s : State) : State :=
  s.modChip (fun c => { c with i2cCopy := i2cWords s, faultReleased := if faultDriven s then s.tick else c.faultReleased })

/-- The housekeeping words of the I²C target are copied once per 1.024 ms (15_control.md R487). -/
def copyHousekeeping (s : State) : State :=
  if s.tick % 2 ^ 20 ≠ 0 then s
  else s.modChip (fun k => { k with hkCopy := (List.range 96).foldl (fun t n =>
    let c := n / 16
    tset 0 t n (if (s.domain c).state.awake && !(s.domain c).inReset then hkWord s c (n % 16) else 0x80000000#32)) k.hkCopy })

/-- What happens at every tick of a device that has started. -/
def tickWork (s : State) : State :=
  let s := voteCombs (voteClaim .b (voteClaim .a (voteCore .b (voteCore .a s))))
  let s := obeyClaims (countTimers s)
  let s := countStalls s
  startDrains (summaryTry .b (summaryTry .a (copyHousekeeping (copyWords s))))

/-- A spine tick. The spine stands in Deep sleep and Off, and while VSTBY or a rail is low. -/
def tickStep (s : State) : State :=
  if s.chip.state = .deep ∨ s.chip.state = .off ∨ s.chip.held ∨ s.chip.railsLow ≠ [] then s
  else
    let s := if s.chip.started then tickWork s else s
    advanceTime { s with tick := s.tick + 1 }

/-! ### The commit (R480, 02_timebase.md R53, 11_systems.md R371, R372) -/

/-- Page, offset and index of a register's key. -/
abbrev keyPage (k : Nat) : Nat := k % 2 ^ 32 / 2 ^ 12 * 2 ^ 12
abbrev keyOff (k : Nat) : Nat := k % 2 ^ 12
abbrev keyIdx (k : Nat) : Nat := k / 2 ^ 32
abbrev keyGroup (k : Nat) : Nat := k / 2 ^ 20 % 2 ^ 8
abbrev keyInst (k : Nat) : Nat := k / 2 ^ 12 % 2 ^ 8
abbrev keyRegion (k : Nat) : Nat := k / 2 ^ 28 % 16

/-- The blocks and the cells among the staged keys of block pages. -/
def stagedCells (ks : List Nat) : List Nat :=
  ((ks.filter (fun k => decide (keyGroup k = 1) && [Reg.CELL_CFG, Reg.CELL_TH01, Reg.CELL_TH23, Reg.CELL_SKEW].contains (keyOff k))).map
    (fun k => (12 * keyRegion k + keyInst k) * 16 + keyIdx k)).dedup
def stagedBlocks (ks : List Nat) : List Nat :=
  ((ks.filter (fun k => decide (keyGroup k = 1) && [Reg.TRG_BLK_CFG, Reg.TRG_BLK_STREAM].contains (keyOff k))).map
    (fun k => 12 * keyRegion k + keyInst k)).dedup
def stagedLanes (ks : List Nat) : List Nat :=
  (ks.filter (fun k => decide (keyGroup k = 0x30) && decide (keyOff k = Reg.LNK_CFG))).map keyInst

/-- Every pending value comes into force. -/
def putStaged (s : State) : State :=
  { s.staged.foldl (fun t e => { t with regs := tset (regReset e.1) t.regs e.1 e.2 }) s with
    staged := [], upsets := s.upsets.filter (fun u => (tfind s.staged u.2.1).isNone) }

/-- Cells, blocks, lines, lanes and the identity take up new values at the boundary `b`; `old` is the state before. -/
def takeUp (old : State) (b : Int) (s : State) : State :=
  let ks := old.staged.map (·.1)
  let m := ((1000 * s.tick : Nat) + (b - s.now)).toNat
  let s := forL (stagedCells ks) (fun c s =>
    if (s.comb (c / 192)).inReset then s
    else cellCommit c (old.cellCfg c) (old.cellReg c Reg.CELL_TH01) (old.cellReg c Reg.CELL_TH23) (old.cellReg c Reg.CELL_SKEW) b m s) s
  let s := forL (stagedBlocks ks) (fun k s =>
    if blkMode old k = blkMode s k ∧ blkStream old k = blkStream s k then s
    else s.modBlock k (fun x => { x with modes := x.modes ++ [(b, blkMode old k, blkStream old k)] })) s
  let s := if ks.any (fun k => decide (keyGroup k = 0x13) || decide (keyGroup k = 0x14)) then
      let lines := (List.range 8).map (fun i => let r := lineNow old i; (r.cfg, r.thr, r.ps, r.win))
      let moved (i : Nat) : Bool := decide (lines[i]? ≠ some (let r := lineNow s i; (r.cfg, r.thr, r.ps, r.win)))
      lagUpdate .b (lagUpdate .a (s.both (fun x => { x with trig := { x.trig with
        before := some (b, lines)
        lines := (List.zip (List.range 8) x.trig.lines).map (fun e => if moved e.1 then { e.2 with ps := 0 } else e.2) } })))
    else s
  let s := if s.reg chipPage Reg.CHIP_DEVICE_ID = old.reg chipPage Reg.CHIP_DEVICE_ID then s
    else s.modChip (fun c => { c with idPrev := match c.idPrev with
        | some (none, d) => some (none, d)
        | _ => some (none, (old.reg chipPage Reg.CHIP_DEVICE_ID).extractLsb' 0 12) })
  let s := forL (stagedLanes ks) (fun l s => laneCommit l (old.reg (lanePage l) Reg.LNK_CFG) s) s
  let s := if behaviour s = behaviour old then s else updateLevel .b (updateLevel .a s)
  let cbOff (t : State) : Bool := bit (t.cfg 0x15 Reg.FRM_CTL) 0 && decide (t.frameK ≠ 16)
  if cbOff s && !cbOff old then raise s (frmPage (higherClaim s)) Reg.FRM_EVENTS 8 else s

/-- An ARMED FRAME gate that names a frame later than `f` is refused; one that names `f` opens at the boundary `b`, `m` being
the new scheme's frame. -/
def renumberGates (f m : BitVec 40) (b : Int) (s : State) : State :=
  forN 16 (fun n s =>
    let k := s.rg (higherClaim s) n
    if k.state ≠ 1 ∨ rgMode s n ≠ 1 then s
    else if frameDiff (rgFrame s n) f > 0 then
      let off (h : HiveId) (s : State) : State := s.modRg h n (fun k => { k with state := 0, expired := true })
      schedExpired (off .b (off .a s))
    else
      let opened (h : HiveId) (s : State) : State := s.modRg h n (fun k => { k with state := 2, gate := some { opened := b, frame := m } })
      opened .b (opened .a s)) s

/-- A step named for a frame later than `f` is refused. -/
def renumberStep (f : BitVec 40) (s : State) : State :=
  match s.chip.step with
  | some a =>
    if a.mode = 0 ∧ frameDiff a.frame f > 0 then schedExpired (timEvent 2 (s.modChip (fun c => { c with step := none, stepState := 3 }))) else s
  | none => s

/-- A new frame scheme numbers the frames anew from the first of its starts at or after the boundary `b` of frame `f`; any other
pending action that names a later frame is refused. -/
def renumber (old : State) (f : BitVec 40) (b : Int) (s : State) : State :=
  if s.frameK = old.frameK ∧ s.epochFu = old.epochFu then s
  else
    let m := frameFrom s b
    let s := s.modChip (fun c => { c with schemePrev := some (b, old.frameK, old.epochFu), deferredTo := none })
    let s := match s.chip.plcArmed with
      | some g => if frameDiff g f > 0 then plcExpire s else plcSwitch s
      | none => s
    let s := renumberStep f (renumberGates f (BitVec.ofInt 40 m) b s)
    if s.epochFu + m * s.frameFu = b then s.modCore (fun c => { c with frame := BitVec.ofInt 40 m })
    else openGap b m false (if s.framing then some (s.chip.stepGen, b) else none) s

/-- An armed commit applies at the boundary `b` that starts frame `f`. -/
def applyCommit (f : BitVec 40) (b : Int) (s : State) : State :=
  let old := s
  let s := renumber old f b (takeUp old b (putStaged s))
  let first := if s.framing ∨ s.chip.gap.isNone then s.frameNow else s.chip.resumeAt.getD s.frameNow
  let s := s.modChip (fun c => { c with commitArmed := none, commitState := 2 })
  raise (s.setReg64 chipPage Reg.CHIP_COMMIT_LAST_LO first.toNat) chipPage Reg.CHIP_EVENTS 1

/-! ### The frame boundary -/

/-- The spine delays measured in the frame before come into force, and those measured since wait; `trips` are the round trips measured
(R56). -/
def spineDelays (b : Int) (trips : List Nat) (s : State) : State :=
  let old := s.chip.spineNow
  let new := s.chip.spineNext
  let measured := (List.range 7).map (fun i => match trips[i]? with | some d => spineDelay s i d | none => lget 0 new i)
  let s := s.modChip (fun c => { c with spinePrev := old, spineNow := new, spineAt := b, spineNext := measured })
  forN 7 (fun i s =>
    if (lget 0 new i - lget 0 old i).natAbs ≤ 8 then s
    else
      let s := timEvent 64 s
      if i < 6 then guardEvent s i 19 else s) s

/-- Whether frames may be built from the boundary `b` on (R45, R50, 16_power_reset.md R506, 14_redundancy_faults.md R463). -/
def mayBuild (s : State) (b : Int) : Bool :=
  let q := s.tb.qual
  let h := higherClaim s
  let resumed : Bool := match s.chip.resumeAt with | some m => decide (frameDiff m s.frameNow ≤ 0) | none => true
  let stopping : Bool := match (s.domain (hiveDom h)).entry with | some (_, k) => decide (k ≥ 2) | none => false
  !q.unsync && !q.coarse && decide (s.epochFu ≤ b) && !s.fatal && hiveRuns s h && !stopping && resumed

/-- The cells' mute decisions at the end of frame `f`, and their old counts forgotten (03_cells.md R103, R104); `commit`: a commit
applies at the boundary. -/
def muteAll (commit : Bool) (f : BitVec 40) (s : State) : State :=
  forL (s.cells.map (·.1)) (fun c s =>
    (muteDecision commit f c s).modCell c (fun x => { x with
      recs := x.recs.filter (fun e => decide ((frameDiff f (BitVec.ofNat 40 e.1)).natAbs ≤ 8)) })) s

/-- The cells of a block that are muted. -/
def mutedCells (s : State) (b : Nat) : List Nat := (List.range 16).filter (fun i => (s.cell (16 * b + i)).muted)

/-- The first frame built after a step begins: its time words carry STEPPED (R71). -/
def beginStepped (s : State) : State :=
  if s.chip.stepFirst then (s.modQual (fun q => { q with stepped := true })).modChip (fun c => { c with stepFirst := false }) else s

/-- Frames are built from the boundary `b` on: what came before it without frames is a gap, and an identifier that has changed shows from
here (11_systems.md R356). -/
def beginFraming (b : Int) (s : State) : State :=
  s.modChip (fun c => { c with
    framing := true, resumeAt := none
    gap := if c.framing then c.gap else match c.gap with | some (a, _) => some (a, b) | none => some (0, b)
    idPrev := match c.idPrev with | some (none, d) => some (some b, d) | p => p })

/-- Frames are not built from the boundary `b` on (R45, R50). -/
def stopFraming (b : Int) (s : State) : State :=
  if !s.chip.framing then s
  else s.modChip (fun c => { c with framing := false, gap := some (b, b), gapFrom := some (c.stepGen, b) })

/-- The present frame starts in the active hive, in the combs and in the blocks (05_blocks_regions.md R157, R167). -/
def startFrames (b : Int) (s : State) : State :=
  let h := higherClaim s
  let f := s.frameNow
  let stop := b + s.frameFu
  let s := startFrame h f b stop (beginFraming b (beginStepped s))
  let s := forN 6 (fun c s => if quiet s c ∨ (s.comb c).inReset then s else openRegion c f b stop s) s
  forN 72 (fun k s => s.modSlot k f (fun q => { q with mutes := mutedCells s k })) s

/-- STEPPED belongs to the first frame built after a step (R71). -/
def endStepped (s : State) : State :=
  if !s.tb.qual.stepped then s else s.modQual (fun q => { q with stepped := false })

/-- What waits for a boundary in blocks and combs: rejoins, retrains, tables, parking, injectors, events. -/
def boundaryWork (b : Int) (s : State) : State :=
  let s := forN 72 (fun k s => if (s.block k).rejoinReq then s.modBlock k (fun x => { x with isolated := false, rejoinReq := false }) else s) s
  let s := forN 6 (fun c s => rejoinAtBoundary c (bundleWork .b c (retrainStart c .b) (bundleWork .a c (retrainStart c .a) s))) s
  let s := forN 74 (blockSwaps b) s
  forN 8 parkAtBoundary s

/-- Fu after which no time of before a boundary is still to come: far more than any pulse or path lasts. -/
abbrev pastFu : Int := 2 ^ 36

/-- Settings kept for times before a boundary go once no such time is still to come. -/
def forgetOld (s : State) : State :=
  let old (b : Int) : Bool := decide (b + pastFu < s.now)
  let s := s.modChip (fun c => { c with
    schemePrev := c.schemePrev.filter (fun p => !old p.1)
    idPrev := match c.idPrev with | some (some b, d) => if old b then none else some (some b, d) | p => p })
  { s with cells := s.cells.map (fun e => (e.1, { e.2 with skewPrev := e.2.skewPrev.filter (fun p => !old p.1) })) }

/-- Injectors that wait start, workers see FRAME, and settings no time needs any more go (03_cells.md R110, 12_workers.md R385). With
START_MODE set a segment starts at the start of the tick that holds the boundary (DESIGN CHOICE, log entry 96: R110 names no tick). -/
def afterBoundary (s : State) : State :=
  let s := forgetOld s
  let s := forN 72 (fun k s => if (s.block k).inj.state = 1 then startSegment k (s.block k).inj.seg s.tick s else s) s
  let s := { s with workers := s.workers.map (fun e => (e.1, if e.2.state = .stopped then e.2 else { e.2 with frameEv := true })) }
  let keep (k : Nat) (m : Int × Nat × BitVec 16) : Bool := decide (s.now < m.1 + 2 ^ 30) || !modePassed s (k / 12) m.2.1 m.1
  startDrains { s with blocks := s.blocks.map (fun e => (e.1, { e.2 with modes := e.2.modes.filter (keep e.1) })) }

/-- Why no frame is built from a boundary `b` on that makes the next one built a restart (07_frames_compression.md R232). -/
def restartDue (s : State) (b : Int) : Bool :=
  let q := s.tb.qual
  q.unsync || q.coarse || decide (b < s.epochFu)

/-- COMMIT and RESUME of the frame to come (07_frames_compression.md R232): COMMIT of an earlier boundary is gone, unless the frame that
follows that commit is still awaited. -/
def flagFrames (b : Int) (committed : Bool) (s : State) : State :=
  let keep := s.chip.resumeAt.isSome
  let again := restartDue s b
  s.both (fun x => { x with fr := { x.fr with
    commitFlag := committed || (keep && x.fr.commitFlag), resumeFlag := x.fr.resumeFlag || again } })

/-- The mute decisions at a boundary where frame `f` ends or, with no frame ending, only a commit frees the cells (03_cells.md R103,
R104). -/
def muteBoundary (running committed : Bool) (f : BitVec 40) (s : State) : State :=
  if running ∨ committed then muteAll committed f s else s

/-- The boundary that starts frame `s.frameNow + 1`; `running` tells whether frames were built up to it. -/
def startBoundary (delays : List Nat) (running : Bool) (s : State) : State :=
  let f := s.frameNow + 1
  let b := s.frameStart f
  let s := s.modCore (fun c => { c with frame := f })
  let committed : Bool := match s.chip.commitArmed with | some g => decide (frameDiff g f ≤ 0) | none => false
  let s := if committed then applyCommit f b s else s
  let switched : Bool := match s.chip.plcArmed with | some g => decide (frameDiff g f ≤ 0) | none => false
  let s := if switched then plcSwitch s else s
  let s := s.modChip (fun c => { c with fpPrev := c.fpNow })
  let s := spineDelays b delays (if committed ∨ switched then fpCompute s else s)
  let s := muteBoundary running committed (f - 1) s
  let s := endStepped (autoPrescale (higherClaim s) s.frameNow s)
  let s := flagFrames b committed (boundaryWork b s)
  afterBoundary (if mayBuild s b then startFrames b s else stopFraming b s)

/-- The step armed for frame `f`, if it is due. -/
def stepDue (s : State) (f : BitVec 40) : Option StepArm :=
  s.chip.step.filter (fun a => decide (a.mode = 0) && decide (frameDiff a.frame f ≤ 0))

/-- A frame boundary that falls in the present tick: takeover, step, then the boundary itself, which after a step is that of the first
frame still built (R70, 11_systems.md R371, R372, 15_control.md R481). -/
def frameBoundary (delays : List Nat) (s : State) : State :=
  if !s.chip.started ∨ s.chip.state = .deep ∨ s.chip.state = .off ∨ !boundaryDue s then s
  else
    let was := higherClaim s
    let f := s.frameNow + 1
    let s := takeAtBoundary f s
    match stepDue s f with
    | none => startBoundary delays s.chip.framing s
    | some a =>
      let running := s.chip.framing
      let s := stepNow a (s.frameStart f) (muteBoundary running false (f - 1) s)
      let m := s.frameNow + 1
      let s := s.modChip (fun c => { c with deferredTo := if running then some m else none, deferredFrom := f })
      let s := if higherClaim s = was then s else s.setReg64 (clmPage (higherClaim s)) Reg.CLM_TAKE_FRAME_LO m.toNat
      if boundaryDue s then startBoundary delays false s else s

/-! ### The commands -/

def execTick (s : State) : Host.Outcome State Fault Refusal := done s (tickStep s)
def execFrameBoundary (trips : List Nat) (s : State) : Host.Outcome State Fault Refusal := done s (frameBoundary trips s)
def execBundleTrained (comb : Fin 6) (h : HiveId) (s : State) : Host.Outcome State Fault Refusal := done s (bundleWork h comb.val (bundleTrained comb.val h) s)

end Sys2Proof.Machine
end

