-- ==== Sys2Proof/Machine/RegRead.lean ====
section
/-! DEFINITION. What a register reads: the pages and their windows (15_control.md R472–R474, R566), the value each register shows
and what a read of it does (R10–R12, R477, 12_workers.md R403). -/

namespace Sys2Proof.Machine

/-! ### Pages and windows -/

/-- Whether a region holds a page (R473). -/
def pageKnown (region group inst : Nat) : Bool :=
  if region < 6 then
    (decide (group = 1) && decide (inst < 12)) || (decide (group = 3) && decide (inst / 24 = region))
      || ([2, 4, 5, 6].contains group && decide (inst = 0))
  else if region = 8 ∨ region = 9 then
    (decide (group = 3) && decide (inst < 24))
      || ((group = 4 || group = 5 || (decide (0x10 ≤ group) && decide (group ≤ 0x1E))) && decide (inst = 0))
  else if region = 0xF then
    ([0, 0x20, 0x21].contains group && decide (inst = 0)) || (decide (group = 0x30) && decide (inst < 20))
  else false

/-- The page an address names, as it is served (R472, R23); none where there is none. -/
def pageOf (s : State) (a : W32) : Option Nat :=
  let region := if fld a 31 28 = 0xC then hiveRegion (higherClaim s) else fld a 31 28
  if pageKnown region (fld a 27 20) (fld a 19 12) then some (page region (fld a 27 20) (fld a 19 12)) else none

/-- The hive of a hive page. -/
def pageHive (pg : Nat) : HiveId := if keyRegion pg = 9 then .b else .a

/-- The page under which configuration and selections of a page are held (R566). -/
def homePage (pg : Nat) : Nat :=
  if deviceWide (keyGroup pg) && (keyRegion pg = 8 || keyRegion pg = 9) then cfgPage (keyGroup pg) else pg

/-- A selection register of a page on a path. -/
def selOf (s : State) (p : Path) (pg off : Nat) : W32 := s.sel p (homePage pg) off

/-- The index of a window register on a path; with CELL_SEL.ALL set a read shows cell 0 (03_cells.md R116). -/
def winIdx (s : State) (p : Path) (pg : Nat) (d : RegDesc) : Nat :=
  match d.sel with
  | none => 0
  | some o =>
    let v := selOf s p pg o
    if o = Reg.CELL_SEL then (if bit v 4 then 0 else fld v 3 0) else v.toNat

/-- Whether the window selected exists: lanes 0–19 and the listed guard sources (10_time_transfer.md R353, 14_redundancy_faults.md
R453, R454). -/
def winExists (s : State) (p : Path) (pg : Nat) (d : RegDesc) : Bool :=
  match d.sel with
  | none => true
  | some o =>
    let i := winIdx s p pg d
    if o = Reg.WAG_SEL ∧ keyGroup pg = 0x1A then decide (i < 20)
    else if o = Reg.GRD_SRC_SEL ∧ keyGroup pg = 5 then decide (i < if keyRegion pg < 6 then 21 else 10)
    else true

/-- The selection registers of a page group, held per path (R566, 03_cells.md R116, 12_workers.md R381). -/
def isSel (group off : Nat) : Bool :=
  match group with
  | 0x01 => [Reg.CELL_SEL, Reg.INJ_SEG_SEL, Reg.TDC_SEL].contains off
  | 0x03 => [Reg.WRK_MEM_SEL, Reg.WRK_KT_SEL, Reg.WRK_DBG_SEL].contains off
  | 0x04 => decide (off = Reg.LSE_SEL)
  | 0x05 => decide (off = Reg.GRD_SRC_SEL)
  | 0x06 => [Reg.HK_SEL, Reg.HK_BIAS_SEL].contains off
  | 0x12 => [Reg.CAL_RG_SEL, Reg.CAL_RG_SUM_SEL].contains off
  | 0x13 => decide (off = Reg.TRG_LINE_SEL)
  | 0x14 => decide (off = Reg.SWM_ORG_SEL)
  | 0x16 => decide (off = Reg.CMP_JOB_SEL)
  | 0x17 => decide (off = Reg.Q_SEL)
  | 0x18 => [Reg.PLC_TBL_SEL, Reg.PLC_RCV_SEL].contains off
  | 0x1A => decide (off = Reg.WAG_SEL)
  | 0x1B => [Reg.HSM_RETIRE_SEL, Reg.HSM_WIN_ADDR].contains off
  | 0x1C => decide (off = Reg.NVS_RAW_ADDR)
  | _ => false

/-- The LO registers of the 64-bit values that follow R477, by page group. -/
def isLo (group off : Nat) : Bool :=
  match group with
  | 0x01 => decide (off = Reg.BLK_LAST_FRAME_LO)
  | 0x10 => [Reg.TIM_FRAME_NOW_LO, Reg.TIM_EPOCH_SEC_LO, Reg.TIM_EPOCH_SEC_LO_NOW, Reg.TIM_FREQ_WORD_LO, Reg.TIM_UTC_NEXT_SEC_LO,
      Reg.TIM_STEP_FRAME_LO, Reg.TIM_STEP_SEC_LO].contains off
  | 0x12 => [Reg.CAL_RG_NOM_LO, Reg.CAL_RG_FRAME_LO].contains off
  | 0x15 => decide (off = Reg.FRM_LAST_LO)
  | 0x16 => [Reg.CMP_REC_TOTAL_LO, Reg.CMP_WORD_TOTAL_LO, Reg.CMP_JOB_FRAME_LO].contains off
  | 0x17 => decide (off = Reg.Q_WDATA_LO)
  | 0x18 => decide (off = Reg.PLC_SWITCH_FRAME_LO)
  | 0x1A => decide (off = Reg.WAG_INTEG_LO)
  | 0x1C => decide (off = Reg.NVS_SEQ_LO)
  | 0x1D => decide (off = Reg.HUM_DONE_LO)
  | 0x1E => decide (off = Reg.CLM_TAKE_FRAME_LO)
  | 0x30 => decide (off = Reg.LNK_ERR_CNT_LO)
  | 0x00 => [Reg.CHIP_SERIAL_LO, Reg.CHIP_COMMIT_FRAME_LO, Reg.CHIP_COMMIT_LAST_LO].contains off
  | _ => false

/-- Pending staged registers of a page (R474, R478). -/
def stagedOn (s : State) (pg : Nat) : Nat := (s.staged.filter (fun e => decide (keyPage e.1 = homePage pg))).length

/-! ### Registers that show the hardware's state, by page group -/

/-- The value of an offset in a list. -/
def pick (off : Nat) (l : List (Nat × (Unit → W32))) : Option W32 := (l.find? (fun e => e.1 = off)).map (fun e => e.2 ())

/-- A part of a wider value. -/
abbrev part {w : Nat} (x : BitVec w) (n : Nat) : W32 := x.extractLsb' (32 * n) 32

/-- The page header (R474). -/
def readHeader (s : State) (pg off : Nat) : Option W32 :=
  let blk := decide (keyRegion pg < 6) && decide (keyGroup pg = 1)
  pick off [
    (Reg.PAGE_ID, fun _ => w32 pg),
    (Reg.PAGE_VER, fun _ => 1),
    (Reg.STATUS, fun _ => w32 (bitAt (decide (stagedOn s pg ≠ 0)) 0 + bitAt (decide (keyRegion pg < 6)) 1
      + bitAt (blk && (s.block (keyRegion pg * 12 + keyInst pg)).isolated) 2)),
    (Reg.STAGE_STATUS, fun _ => w32 (stagedOn s pg))]

/-- A block page (03_cells.md R117–R119, 04_interpolators.md R146, R147, 05_blocks_regions.md R182). -/
def readBlock (s : State) (p : Path) (pg off : Nat) : Option W32 :=
  let b := keyRegion pg * 12 + keyInst pg
  let x := s.block b
  let i := x.inj
  let sel := selOf s p pg Reg.TDC_SEL
  let bin := fld sel 16 8
  pick off [
    (Reg.CELL_MUTE_NOW, fun _ => w32 ((mutedCells s b).map (fun c => 2 ^ c)).sum),
    (Reg.INJ_STATUS, fun _ => w32 (i.state + i.seg * 2 ^ 8 + 2 ^ 16 * (i.sample - 1) + bitAt i.pend.isSome 24 + bitAt i.bound.isSome 25
      + 2 ^ 26 * (match i.pend with | some q => q.1 | none => 0))),
    (Reg.BIAS_NOW, fun _ => w32 x.biasNow),
    (Reg.BIAS_STATUS, fun _ => w32 (bitAt x.slewing 0 + bitAt x.overload 1 + bitAt (s.chip.estop && !s.chip.estopDue) 2)),
    (Reg.CAL_STATUS, fun _ => calStatus s b),
    (Reg.TDC_ENTRY, fun _ => tdcEntryRead s sel b),
    (Reg.TDC_HIST, fun _ => if bin < 400 then w32 (tget 0 (s.cal (selItp sel b)).hist bin) else 0),
    (Reg.TDC_TRIM, fun _ => let k := s.cal (selItp sel b); (k.trimNew.getD k.trim).zeroExtend 32),
    (Reg.TDC_FILL, fun _ => w32 (s.cal (selItp sel b)).fill),
    (Reg.BLK_STATUS, fun _ => blkStatus s b)]

/-- A region page (05_blocks_regions.md R184, R185). -/
def readRegion (s : State) (pg off : Nat) : Option W32 :=
  let c := keyRegion pg
  let credit (b : Bundle) : W32 := w32 (b.dataCr + 2 ^ 16 * b.ctlCr)
  pick off [
    (Reg.REG_STATUS, fun _ => regStatus s c),
    (Reg.REG_CREDIT_A, fun _ => credit (s.comb c).bundleA),
    (Reg.REG_CREDIT_B, fun _ => credit (s.comb c).bundleB),
    (Reg.MRG_STATUS, fun _ => mrgStatus s c)]

/-- Worker clocks in MHz by kind and throttle (12_workers.md R379, 16_power_reset.md R514). -/
def wkClock (s : State) (w : Nat) : Nat :=
  if isComb w then (if s.chip.throttle = 0 then 500 else 256) else if s.chip.throttle = 0 then 800 else 400

/-- The worker of a worker page. -/
def pageWorker (pg : Nat) : Nat := if keyRegion pg < 6 then keyInst pg else 144 + 24 * (keyRegion pg - 8) + keyInst pg

/-- A worker page (12_workers.md R405, R406). -/
def readWorker (s : State) (p : Path) (pg off : Nat) : Option W32 :=
  let w := pageWorker pg
  let x := s.worker w
  let halted := x.state = .halted
  pick off [
    (Reg.WRK_STATUS, fun _ => wkStatus s w),
    (Reg.WRK_PC, fun _ => if halted then w32 x.pc else 0),
    (Reg.WRK_FAULT_ADDR, fun _ => x.faultAddr),
    (Reg.WRK_JOB_TAG, fun _ => x.jobTag),
    (Reg.WRK_LOST_TAG, fun _ => x.lostTag),
    (Reg.WRK_TIMER, fun _ => w32 x.timer),
    (Reg.WRK_CLK, fun _ => w32 (wkClock s w)),
    (Reg.WRK_FW_LIMIT, fun _ => w32 (Config.fwLimit w)),
    (Reg.WRK_FW_DLIMIT, fun _ => w32 (Config.fwDLimit w)),
    (Reg.WRK_MEM_DATA, fun _ => (wkMemPeek p w s).1),
    (Reg.WRK_KTAB, fun _ => ktabOf s w (fld (selOf s p pg Reg.WRK_KT_SEL) 4 0)),
    (Reg.WRK_DBG_DATA, fun _ => if halted then wkReg s w (fld (selOf s p pg Reg.WRK_DBG_SEL) 3 0) else 0)]

/-- The guard, lease and domain number of a region's pages. -/
def pageRegion (pg : Nat) : Nat := regionNo (keyRegion pg)

/-- A lease page (12_workers.md R407, R408). -/
def readLease (s : State) (p : Path) (pg off : Nat) : Option W32 :=
  let g := pageRegion pg
  let l := fld (selOf s p pg Reg.LSE_SEL) 5 0
  pick off [
    (Reg.LSE_STATE, fun _ => lseState s g l),
    (Reg.LSE_REMAIN, fun _ => lseRemain s g l),
    (Reg.LSE_HOST_RESULT, fun _ => selOf s p pg Reg.LSE_HOST_RESULT)]

/-- A guard page (14_redundancy_faults.md R470, R471). With `dbg` the log's registers show the oldest entry, else what the path's
last pop gave; of an empty log they are free values, as in an ordinary read (log entry 1). -/
def readGuard (s : State) (p : Path) (dbg : Bool) (pg off : Nat) : Option W32 :=
  let g := pageRegion pg
  let log := if chipGuardPage s g then (s.hive (higherClaim s)).guard.log else []
  let free (i lo : Nat) : W32 := if chipGuardPage s g then (Config.freeValue (s.freeCtr + i)).extractLsb' lo 32 else 0
  let head (f : Record → W32) (v : W32) : W32 := match log with | r :: _ => f r | [] => v
  pick off [
    (Reg.GRD_CTL, fun _ => if chipGuardPage s g then s.reg pg Reg.GRD_CTL else 0),
    (Reg.GRD_GRACE, fun _ => if chipGuardPage s g then s.reg pg Reg.GRD_GRACE else 0),
    (Reg.GRD_EVENTS, fun _ => if chipGuardPage s g then s.reg pg Reg.GRD_EVENTS else s.reg pg Reg.GRD_EVENTS &&& ~~~0x2F),
    (Reg.GRD_STATUS, fun _ => grdStatus s g),
    (Reg.GRD_REC_0, fun _ => grdRec s g recWord0),
    (Reg.GRD_REC_1, fun _ => grdRec s g recWord1),
    (Reg.GRD_REC_TIME, fun _ => grdRec s g (fun r => r.time.toNat)),
    (Reg.GRD_SRC_STATUS, fun _ => grdSrcStatus s g (fld (selOf s p pg Reg.GRD_SRC_SEL) 4 0)),
    (Reg.GRD_LOG_COUNT, fun _ => w32 log.length),
    (Reg.GRD_LOG_POP, fun _ => head (fun r => w32 (recWord0 r)) (free 0 0)),
    (Reg.GRD_LOG_REC1, fun _ => if dbg then head (fun r => w32 (recWord1 r)) (free 0 32) else selOf s p pg Reg.GRD_LOG_REC1),
    (Reg.GRD_LOG_TIME, fun _ => if dbg then head (fun r => r.time) (free 1 0) else selOf s p pg Reg.GRD_LOG_TIME)]

/-- A housekeeping page (17_housekeeping.md R541, R543, R544). -/
def readHk (s : State) (p : Path) (dbg : Bool) (pg off : Nat) : Option W32 :=
  let c := keyRegion pg
  pick off [
    (Reg.HK_ALARM, fun _ => hkAlarmWord s c),
    (Reg.HK_BREAK, fun _ => hkBreakWord s c),
    (Reg.HK_CONV_CNT, fun _ => (s.hk c).convs),
    (Reg.HK_VALUE, fun _ => hkValue s p c),
    (Reg.HK_RAW, fun _ => hkRawWord s c (hkSel s p c)),
    (Reg.HK_IN_STATUS, fun _ => if dbg then hkInStatus s c (hkSel s p c) else selOf s p pg Reg.HK_IN_STATUS)]

/-- The TIM_ page (02_timebase.md R47, R75–R79). -/
def readTim (s : State) (p : Path) (dbg : Bool) (pg off : Nat) : Option W32 :=
  let h := pageHive pg
  let t := (s.hive h).tb
  let now := timeWord t.core t.qual
  let spine (i : Nat) : W32 := BitVec.ofInt 32 (lget 0 s.chip.spineNow i)
  pick off [
    (Reg.TIM_NOW_0, fun _ => part now 0),
    (Reg.TIM_NOW_1, fun _ => if dbg then part now 1 else selOf s p pg Reg.TIM_NOW_1),
    (Reg.TIM_NOW_2, fun _ => if dbg then part now 2 else selOf s p pg Reg.TIM_NOW_2),
    (Reg.TIM_STATUS, fun _ => timStatus s h),
    (Reg.TIM_FRAME_NOW_LO, fun _ => part t.core.frame 0),
    (Reg.TIM_FRAME_NOW_HI, fun _ => part t.core.frame 1),
    (Reg.TIM_FREQ_WORD_LO, fun _ => part t.core.freq 0),
    (Reg.TIM_FREQ_WORD_HI, fun _ => part t.core.freq 1),
    (Reg.TIM_DPLL_STATUS, fun _ => dpllStatus s h),
    (Reg.TIM_STEP_STATUS, fun _ => w32 s.chip.stepState),
    (Reg.TIM_SPINE_DLY_0, fun _ => spine 0), (Reg.TIM_SPINE_DLY_1, fun _ => spine 1), (Reg.TIM_SPINE_DLY_2, fun _ => spine 2),
    (Reg.TIM_SPINE_DLY_3, fun _ => spine 3), (Reg.TIM_SPINE_DLY_4, fun _ => spine 4), (Reg.TIM_SPINE_DLY_5, fun _ => spine 5),
    (Reg.TIM_SPINE_DLY_PEER, fun _ => spine 6)]

/-- The REF_ page (02_timebase.md R80, R81). -/
def readRef (s : State) (pg off : Nat) : Option W32 :=
  let h := pageHive pg
  let t := (s.hive h).tb
  let c (i : Nat) : Cand := lget {} t.cands i
  pick off ((Reg.REF_SEL, fun _ => w32 (selBits t)) ::
    (List.range 4).flatMap (fun i => [
      (Reg.REF_CAND_0_STATE + 16 * i, fun _ => candStatus s h i),
      (Reg.REF_CAND_0_FREQ + 16 * i, fun _ => w32i (c i).freq),
      (Reg.REF_CAND_0_PHASE + 16 * i, fun _ => w32i (c i).phase)]))

/-- The selected sum of a result set (04_interpolators.md R148). -/
def rgSum (r : RgResult) (sel : Nat) : BitVec 128 :=
  match sel with
  | 0 => BitVec.ofInt 128 r.sums.k | 1 => BitVec.ofInt 128 r.sums.n | 2 => BitVec.ofInt 128 r.sums.r
  | 3 => BitVec.ofInt 128 r.sums.nr | 4 => BitVec.ofInt 128 r.sums.nn | 5 => BitVec.ofInt 128 r.sums.rr | _ => 0

/-- The regression page (04_interpolators.md R145, R148, R149). -/
def readRg (s : State) (p : Path) (dbg : Bool) (pg off : Nat) : Option W32 :=
  let h := pageHive pg
  let n := fld (selOf s p pg Reg.CAL_RG_SEL) 3 0
  let r := match (s.path p).rgSnap with
    | some q => if dbg then (s.rg h n).res else q.2.1
    | none => (s.rg h n).res
  let sum := rgSum r (fld (selOf s p pg Reg.CAL_RG_SUM_SEL) 2 0)
  let freq := BitVec.ofInt 64 r.freq
  let phase := BitVec.ofInt 64 r.phase
  pick off [
    (Reg.CAL_RG_STATUS, fun _ => rgStatus s h n),
    (Reg.CAL_RG_K, fun _ => w32 r.k),
    (Reg.CAL_RG_FREQ_LO, fun _ => part freq 0), (Reg.CAL_RG_FREQ_HI, fun _ => part freq 1),
    (Reg.CAL_RG_PHASE_LO, fun _ => part phase 0), (Reg.CAL_RG_PHASE_HI, fun _ => part phase 1),
    (Reg.CAL_RG_RMS, fun _ => w32 (min r.rms (2 ^ 32 - 1))),
    (Reg.CAL_RG_CENTRE_0, fun _ => part r.centre 0), (Reg.CAL_RG_CENTRE_1, fun _ => part r.centre 1),
    (Reg.CAL_RG_CENTRE_2, fun _ => part r.centre 2),
    (Reg.CAL_RG_SUM_0, fun _ => part sum 0), (Reg.CAL_RG_SUM_1, fun _ => part sum 1),
    (Reg.CAL_RG_SUM_2, fun _ => part sum 2), (Reg.CAL_RG_SUM_3, fun _ => part sum 3)]

/-- The TRG_ page (06_trigger.md R219, R220). -/
def readTrg (s : State) (pg off : Nat) : Option W32 :=
  pick off [
    (Reg.TRG_STATUS, fun _ => trgStatus s (pageHive pg)),
    (Reg.TRG_HOST_STATUS, fun _ => w32 (s.hive (pageHive pg)).trig.hostStatus)]

/-- The SWM_ page (06_trigger.md R222, R223). -/
def readSwm (s : State) (p : Path) (pg off : Nat) : Option W32 :=
  let x := s.hive (pageHive pg)
  let n := fld (selOf s p pg Reg.SWM_ORG_SEL) 5 0
  pick off [
    (Reg.SWM_STATUS, fun _ => w32 (x.trig.txBl + bitAt (decide (x.tb.qual.sync = 2)) 4)),
    (Reg.SWM_ORG_STATE, fun _ => originState s (pageHive pg) n),
    (Reg.SWM_ORG_LAST, fun _ => (tget {} x.trig.origins n).last)]

/-- The FRM_ and CMP_ pages (07_frames_compression.md R255–R258). -/
def readFrm (s : State) (pg off : Nat) : Option W32 := pick off [(Reg.FRM_STATUS, fun _ => frmStatus s (pageHive pg))]

def readCmp (s : State) (p : Path) (pg off : Nat) : Option W32 :=
  let h := pageHive pg
  let f := s.fr h
  let j := fld (selOf s p pg Reg.CMP_JOB_SEL) 5 0
  let b := s.job h j
  let live (n : Nat) : W32 := if j ≥ 48 ∨ b.state = 0 then 0 else w32 n
  pick off [
    (Reg.CMP_STATUS, fun _ => cmpStatus s h),
    (Reg.CMP_REC_TOTAL_LO, fun _ => part f.recTotal 0), (Reg.CMP_REC_TOTAL_HI, fun _ => part f.recTotal 1),
    (Reg.CMP_WORD_TOTAL_LO, fun _ => part f.wordTotal 0), (Reg.CMP_WORD_TOTAL_HI, fun _ => part f.wordTotal 1),
    (Reg.CMP_JOB_STATE, fun _ => jobState s h j),
    (Reg.CMP_JOB_FRAME_LO, fun _ => live (b.frame.toNat % 2 ^ 32)), (Reg.CMP_JOB_FRAME_HI, fun _ => live (b.frame.toNat / 2 ^ 32)),
    (Reg.CMP_JOB_IN, fun _ => live b.inWords), (Reg.CMP_JOB_OUT, fun _ => live b.outWords),
    (Reg.CMP_JOB_TOTAL, fun _ => live b.recs.length)]

/-- The word at a queue's HEAD, without popping it; 0 where the queue is empty (08_queues_placement.md R272). -/
def qHeadWord (s : State) (h : HiveId) (q : Nat) : W64 × Bool :=
  let d := qPeek s h q
  if d.count = 0 then (0, false)
  else hPeek s h (ringAddr d.d0 d.head)

/-- The Q_ page (08_queues_placement.md R287, R288). -/
def readQ (s : State) (p : Path) (dbg : Bool) (pg off : Nat) : Option W32 :=
  let h := pageHive pg
  let q := fld (selOf s p pg Reg.Q_SEL) 15 0
  let d := qPeek s h q
  let x := s.queue h q
  let written := if x.opened = some (.path (pathNo p)) then x.written else 0
  pick off [
    (Reg.Q_CFG, fun _ => w32 (d0Base d.d0 + 2 ^ 20 * (d0Size d.d0) + bitAt (qEnabled s h q d.d0) 25 + bitAt (d0Tmo d.d0) 26)),
    (Reg.Q_STATUS, fun _ => w32 ((qClass q).getD 0 + bitAt (qEnabled s h q d.d0) 4 + bitAt x.opened.isSome 5 + bitAt x.cfgErr 6
      + bitAt (qFixed q) 7) ||| s.sel p (qPage h) Reg.Q_STATUS),
    (Reg.Q_COUNT, fun _ => w32 d.count),
    (Reg.Q_HEAD, fun _ => d.head),
    (Reg.Q_TAIL, fun _ => d.tail),
    (Reg.Q_POP_LO, fun _ => part (qHeadWord s h q).1 0),
    (Reg.Q_POP_HI, fun _ => if dbg then part (qHeadWord s h q).1 1 else selOf s p pg Reg.Q_POP_HI),
    (Reg.Q_PSTATUS, fun _ => s.sel p (qPage h) Reg.Q_PSTATUS ||| w32 (written * 2 ^ 8))]

/-- The PLC_ page (08_queues_placement.md R289). -/
def readPlc (s : State) (p : Path) (pg off : Nat) : Option W32 :=
  let h := pageHive pg
  let r := fld (selOf s p pg Reg.PLC_RCV_SEL) 5 0
  pick off [
    (Reg.PLC_STATUS, fun _ => plcStatus s),
    (Reg.PLC_SWITCH_STATUS, fun _ => w32 s.chip.plcState),
    (Reg.PLC_RCV_CREDIT, fun _ => w32 (creditOf s h r)),
    (Reg.PLC_RCV_WAIT, fun _ => w32 (waitingWords s h r)),
    (Reg.PLC_LANES_IN, fun _ => plcLanesIn s),
    (Reg.PLC_JOB_WAIT, fun _ => plcJobWait s h)]

/-- The page of control requests (09_lanes.md R326). -/
def readReq (s : State) (pg off : Nat) : Option W32 :=
  let x := s.hive (pageHive pg)
  pick off [(Reg.LNK_REQ_STATUS, fun _ => w32 (x.windows.length + 2 ^ 16 * x.outstanding.length))]

/-- The WAG_ page (10_time_transfer.md R353, R354). -/
def readWag (s : State) (p : Path) (pg off : Nat) : Option W32 :=
  let h := pageHive pg
  let integ := (s.hive h).tb.core.integ
  let l := fld (selOf s p pg Reg.WAG_SEL) 4 0
  let w := tget {} (s.hive h).servo.lanes l
  let of (v : W32) : W32 := if l < 20 then v else 0
  pick off [
    (Reg.WAG_STATUS, fun _ => wagStatus s h),
    (Reg.WAG_KP, fun _ => w32 (servoKp s)),
    (Reg.WAG_KI, fun _ => w32 (servoKi s)),
    (Reg.WAG_INTEG_LO, fun _ => part integ 0), (Reg.WAG_INTEG_HI, fun _ => part integ 1),
    (Reg.WAG_ROOT_NOW, fun _ => wagRootNow s),
    (Reg.WAG_LANE_STATUS, fun _ => of (wagLaneStatus s h l)),
    (Reg.WAG_LANE_ROOT, fun _ => of (w32 (w.rootId.toNat + 2 ^ 16 * w.rootGen.toNat))),
    (Reg.WAG_LANE_RT, fun _ => of (w32i (w.rtRef.getD 0))),
    (Reg.WAG_LANE_OFFSET, fun _ => of (w32i w.offset)),
    (Reg.WAG_LANE_SAMPLES, fun _ => of (w32 (w.samples % 2048))),
    (Reg.WAG_TX_DLY, fun _ => of (wagCfg s Reg.WAG_TX_DLY l)),
    (Reg.WAG_RX_DLY, fun _ => of (wagCfg s Reg.WAG_RX_DLY l))]

/-- The HSM_ page (13_memory.md R420, R433, R434). -/
def readHsm (s : State) (p : Path) (dbg : Bool) (pg off : Nat) : Option W32 :=
  let h := pageHive pg
  let y := s.honey h
  let e := y.log.headD logEmpty
  let grp := fld (selOf s p pg Reg.HSM_RETIRE_SEL) 8 0
  let a := winAddr s p h
  let win : W64 := if a < honeyWords then (hPeek s h a).1 else 0
  pick off [
    (Reg.HSM_STATUS, fun _ => w32 (bitAt (bit (s.reg pg Reg.HSM_CTL) 0) 0 + bitAt (decide (y.log.length ≥ 32)) 1 + 2 ^ 16 * y.retired.length)),
    (Reg.HSM_FORAGE_POS, fun _ => w32 y.pos),
    (Reg.HSM_LOG_COUNT, fun _ => w32 y.log.length),
    (Reg.HSM_LOG_POP_LO, fun _ => part (logWord e) 0),
    (Reg.HSM_LOG_POP_HI, fun _ => if dbg then part (logWord e) 1 else selOf s p pg Reg.HSM_LOG_POP_HI),
    (Reg.HSM_LOG_TIME, fun _ => if dbg then e.short else selOf s p pg Reg.HSM_LOG_TIME),
    (Reg.HSM_RETIRE_STATUS, fun _ => selOf s p pg Reg.HSM_RETIRE_STATUS),
    (Reg.HSM_RETIRE_MAP, fun _ => w32 ((List.range 32).map (fun i => bitAt (y.retired.contains (32 * grp + i)) i)).sum),
    (Reg.HSM_WIN_RDATA_LO, fun _ => part win 0),
    (Reg.HSM_WIN_RDATA_HI, fun _ => if dbg then part win 1 else selOf s p pg Reg.HSM_WIN_RDATA_HI),
    (Reg.HSM_WIN_STATUS, fun _ => selOf s p pg Reg.HSM_WIN_STATUS)]

/-- The NVS_ page (13_memory.md R435, R436). -/
def readNvs (s : State) (p : Path) (dbg : Bool) (pg off : Nat) : Option W32 :=
  let x := s.hive (pageHive pg)
  let free : List (Nat × Nat) := freeRuns (usedRuns (records x.mram))
  let seq := nextSeq (records x.mram)
  let raw := mramWord x.mram (fld (selOf s p pg Reg.NVS_RAW_ADDR) 14 0)
  pick off [
    (Reg.NVS_STATUS, fun _ => w32 (x.nvsState + x.nvsResult * 2 ^ 4)),
    (Reg.NVS_FREE, fun _ => w32 ((free.map (·.2)).sum + 2 ^ 16 * ((free.map (·.2)).foldl max 0))),
    (Reg.NVS_SEQ_LO, fun _ => w32 seq), (Reg.NVS_SEQ_HI, fun _ => w32 (seq / 2 ^ 32 % 2 ^ 16)),
    (Reg.NVS_RAW_LO, fun _ => part raw 0),
    (Reg.NVS_RAW_HI, fun _ => if dbg then part raw 1 else selOf s p pg Reg.NVS_RAW_HI)]

/-- The HUM_ and CLM_ pages (14_redundancy_faults.md R468, R469). -/
def readHum (s : State) (pg off : Nat) : Option W32 := pick off [(Reg.HUM_STATUS, fun _ => humStatus s (pageHive pg))]

def readClm (s : State) (pg off : Nat) : Option W32 :=
  let d := s.dup (pageHive pg)
  pick off [
    (Reg.CLM_CLAIM, fun _ => d.claim.zeroExtend 32),
    (Reg.CLM_STATUS, fun _ => clmStatus s (pageHive pg)),
    (Reg.CLM_TAKE_CNT, fun _ => w32 d.takes)]

/-- The PWR_ page (16_power_reset.md R523, R524). -/
def readPwr (s : State) (off : Nat) : Option W32 :=
  pick off ((Reg.PWR_STATUS, fun _ => pwrStatus s) ::
    (List.range 8).flatMap (fun d => [
      (Reg.PWR_DOM_0_VOTE_RUN + 16 * d, fun _ => w32 (voteRun s d)),
      (Reg.PWR_DOM_0_VOTE_IDLE + 16 * d, fun _ => w32 (voteIdle s d)),
      (Reg.PWR_DOM_0_STATE + 16 * d, fun _ => domState s d)]))

/-- The RST_ page (16_power_reset.md R525). -/
def readRst (s : State) (off : Nat) : Option W32 :=
  pick off [
    (Reg.RST_CAUSE, fun _ => rstCause s),
    (Reg.RST_REGION_STATUS, fun _ => rstRegionStatus s),
    (Reg.RST_STARTUP, fun _ => rstStartup s),
    (Reg.RST_CHIP_CNT, fun _ => w32 s.chip.chipResets)]

/-- A lane page (09_lanes.md R324, R325). -/
def readLane (s : State) (pg off : Nat) : Option W32 :=
  let l := keyInst pg
  let x := s.lane l
  pick off [
    (Reg.LNK_STATUS, fun _ => lnkStatus s l),
    (Reg.LNK_PARTNER, fun _ => w32 (x.pSrc.toNat + 2 ^ 12 * x.pLstate)),
    (Reg.LNK_TX_UNACK, fun _ => lnkUnack s l),
    (Reg.LNK_PRBS_STATUS, fun _ => w32 (bitAt x.chkLock 0 + bitAt x.inj.isSome 1)),
    (Reg.LNK_ERR_CNT_LO, fun _ => w32 x.errCnt), (Reg.LNK_ERR_CNT_HI, fun _ => w32 (x.errCnt / 2 ^ 32))]

/-- The chip page (R493, 11_systems.md R377, R378). -/
def readChip (s : State) (off : Nat) : Option W32 :=
  let c := s.chip
  pick off [
    (Reg.CHIP_PART, fun _ => 0x00521152),
    (Reg.CHIP_STEPPING, fun _ => (stepping s).zeroExtend 32),
    (Reg.CHIP_SERIAL_LO, fun _ => part (serial s) 0), (Reg.CHIP_SERIAL_HI, fun _ => part (serial s) 1),
    (Reg.CHIP_TEST_DATE, fun _ => part ((s.hive (higherClaim s)).ident.getD 2 0) 0),
    (Reg.CHIP_JTAG_IDCODE, fun _ => stepping s ++ 0x11525E7#28),
    (Reg.CHIP_STRAPS, fun _ => c.straps.zeroExtend 32),
    (Reg.CHIP_COMMIT_STATUS, fun _ => w32 (c.commitState + 2 ^ 16 * s.staged.length)),
    (Reg.CHIP_FAULTN, fun _ => w32 (bitAt (faultDriven s) 0 + bitAt (faultLow s) 1 + bitAt c.faultExternal 2)),
    (Reg.CHIP_ESTOP_STATUS, fun _ => w32 (bitAt c.estop 0 + bitAt c.estopI2c 1)),
    (Reg.CHIP_DEVICE_ID_NOW, fun _ => deviceIdNow s),
    (Reg.CHIP_FP_NOW, fun _ => w32 (c.fpNow.toNat + 2 ^ 16 * c.fpPrev.toNat)),
    (Reg.CHIP_FP_STAGED, fun _ => w32 (c.fpStaged.toNat + bitAt c.fpValid 16))]

/-- A register that shows the hardware's state; `dbg` is the side-effect-free attribute. -/
def liveReg (s : State) (p : Path) (dbg : Bool) (pg off : Nat) : Option W32 :=
  if off < 0x40 then readHeader s pg off
  else match keyGroup pg with
    | 0x01 => readBlock s p pg off
    | 0x02 => readRegion s pg off
    | 0x03 => readWorker s p pg off
    | 0x04 => readLease s p pg off
    | 0x05 => readGuard s p dbg pg off
    | 0x06 => readHk s p dbg pg off
    | 0x10 => readTim s p dbg pg off
    | 0x11 => readRef s pg off
    | 0x12 => readRg s p dbg pg off
    | 0x13 => readTrg s pg off
    | 0x14 => readSwm s p pg off
    | 0x15 => readFrm s pg off
    | 0x16 => readCmp s p pg off
    | 0x17 => readQ s p dbg pg off
    | 0x18 => readPlc s p pg off
    | 0x19 => readReq s pg off
    | 0x1A => readWag s p pg off
    | 0x1B => readHsm s p dbg pg off
    | 0x1C => readNvs s p dbg pg off
    | 0x1D => readHum s pg off
    | 0x1E => readClm s pg off
    | 0x20 => readPwr s off
    | 0x21 => readRst s off
    | 0x30 => readLane s pg off
    | 0x00 => readChip s off
    | _ => none

/-! ### Reading -/

/-- The value a register holds: selections per path, configuration under its home page, a NOW register its base register's value in
force, an ST register its staged value (R10, R12, R566). -/
def heldReg (s : State) (p : Path) (pg : Nat) (d : RegDesc) : W32 :=
  if isSel (keyGroup pg) d.off ∧ 0x40 ≤ d.off then selOf s p pg d.off
  else if !winExists s p pg d then 0
  else match d.now with
    | some o =>
      match descOf (keyGroup pg) o with
      | some b => if winExists s p pg b then s.reg (homePage pg) o (winIdx s p pg b) else 0
      | none => 0
    | none =>
      let i := winIdx s p pg d
      match d.acc with
      | .wo => 0
      | .st => s.stagedReg (homePage pg) d.off i
      | .rw => s.reg (if d.off < 0x40 then pg else homePage pg) d.off i
      | _ => s.reg pg d.off i

/-- The value a register shows. -/
def peekReg (s : State) (p : Path) (dbg : Bool) (pg : Nat) (d : RegDesc) : W32 :=
  match liveReg s p dbg pg d.off with
  | some v => v
  | none => heldReg s p pg d

/-- Whether a debug read finds a poisoned word: the windows onto memories (15_control.md R311). -/
def peekPoison (s : State) (p : Path) (pg off : Nat) : Bool :=
  let h := pageHive pg
  if keyGroup pg = 0x1B ∧ (off = Reg.HSM_WIN_RDATA_LO ∨ off = Reg.HSM_WIN_RDATA_HI) then
    decide (winAddr s p h < honeyWords) && (hPeek s h (winAddr s p h)).2
  else if keyGroup pg = 0x03 ∧ off = Reg.WRK_MEM_DATA then (wkMemPeek p (pageWorker pg) s).2
  else if keyGroup pg = 0x17 ∧ (off = Reg.Q_POP_LO ∨ off = Reg.Q_POP_HI) then (qHeadWord s h (fld (selOf s p pg Reg.Q_SEL) 15 0)).2
  else false

/-- Whether the host may pop and release a queue (08_queues_placement.md R272): its consumer is the host or a user. -/
def hostQueue (q : Nat) : Bool := decide (q = 0) || (decide (2 ≤ q) && decide (q ≤ 21)) || decide (1024 ≤ q)

/-- Whether a path may pop and release a queue: a worker its own mailbox as well. -/
def mayPop (p : Path) (q : Nat) : Bool :=
  match p with
  | .worker n => decide (q = 256 + n.val) || decide (1024 ≤ q)
  | _ => hostQueue q

/-- A read of Q_POP_LO (08_queues_placement.md R271, R272). -/
def qPopLo (p : Path) (pg : Nat) (s : State) : State × W32 × Bool :=
  let h := pageHive pg
  let q := fld (selOf s p pg Reg.Q_SEL) 15 0
  let snap (x : W32) (s : State) : State := s.setSel p (homePage pg) Reg.Q_POP_HI x
  if !mayPop p q then (snap 0 (setQFlags p h flOver flOwner s), 0, false)
  else match qPop s h q with
    | (s, none) => (snap 0 (setQFlags p h flOver flEmpty s), 0, false)
    | (s, some (x, bad)) => (snap (part x 1) (setQFlags p h flOver 0 s), part x 0, bad)

/-- A read of TIM_NOW_0 (02_timebase.md R47). -/
def timNow (p : Path) (pg : Nat) (s : State) : State × W32 :=
  let t := (s.hive (pageHive pg)).tb
  let now := timeWord t.core t.qual
  ((s.setSel p (homePage pg) Reg.TIM_NOW_1 (part now 1)).setSel p (homePage pg) Reg.TIM_NOW_2 (part now 2), part now 0)

/-- A read of CAL_RG_STATUS (04_interpolators.md R145). -/
def rgSnapshot (p : Path) (pg : Nat) (s : State) : State × W32 :=
  let h := pageHive pg
  let n := fld (selOf s p pg Reg.CAL_RG_SEL) 3 0
  let v := rgStatus s h n
  (s.modPath p (fun x => { x with rgSnap := some (n, (s.rg h n).res, v.toNat) }), v)

/-- The tag of a 64-bit value: its LO register's address, one for a register held once per device (R477, R566). -/
def pairTag (pg : Nat) (d : RegDesc) : Nat := (if d.acc = .rw ∨ d.acc = .st then homePage pg else pg) + d.off

/-- A read of a LO half takes a snapshot of the whole value; one of a HI half returns it where the tag matches (R477). -/
def readPair (p : Path) (pg : Nat) (d : RegDesc) (s : State) : State × W32 :=
  let v := peekReg s p false pg d
  if isLo (keyGroup pg) d.off then
    match descOf (keyGroup pg) (d.off + 4) with
    | some hi => (s.modPath p (fun x => { x with rTag := some (pairTag pg d), rHold := peekReg s p false pg hi ++ v }), v)
    | none => (s, v)
  else if 0x44 ≤ d.off ∧ isLo (keyGroup pg) (d.off - 4) ∧ (s.path p).rTag = some (pairTag pg d - 4) then (s, part (s.path p).rHold 1)
  else (s, v)

/-- The registers of the Q_ page that show the descriptor of the selected queue. -/
def showsDesc (off : Nat) : Bool :=
  decide (off = Reg.Q_CFG) || decide (off = Reg.Q_STATUS) || decide (off = Reg.Q_COUNT) || decide (off = Reg.Q_HEAD) || decide (off = Reg.Q_TAIL)

/-- An ordinary read that shows the descriptor of a queue is an access to the queue (08_queues_placement.md R269). -/
def touchDesc (p : Path) (pg : Nat) (s : State) : State :=
  let q := fld (selOf s p pg Reg.Q_SEL) 15 0
  if (qClass q).isNone then s else (qDesc s (pageHive pg) q).1

/-- What a read-clear register holds once it has been read: a highest value since the last read starts from the present one
(06_trigger.md R201, R219). -/
def afterClear (s : State) (pg off : Nat) : W32 :=
  if keyGroup pg = 0x13 ∧ off = Reg.TRG_PEND_MAX then w32 (pendingEntries (s.hive (pageHive pg)).trig) else 0

/-- An ordinary read of a register, with all it does: the value and whether it was poisoned. -/
def readReg (p : Path) (pg : Nat) (d : RegDesc) (s : State) : State × W32 × Bool :=
  let g := keyGroup pg
  let h := pageHive pg
  let clean (r : State × W32) : State × W32 × Bool := (r.1, r.2, false)
  if d.off < 0x40 ∧ d.acc ≠ .rc then (s, peekReg s p false pg d, false)
  else if d.acc = .rc then
    let i := winIdx s p pg d
    let v := heldReg s p pg d
    (if winExists s p pg d then s.setReg pg d.off (afterClear s pg d.off) i else s, v, false)
  else if g = 0x10 ∧ d.off = Reg.TIM_NOW_0 then clean (timNow p pg s)
  else if g = 0x03 ∧ d.off = Reg.WRK_MEM_DATA then wkMemRead p (pageWorker pg) s
  else if g = 0x12 ∧ d.off = Reg.CAL_RG_STATUS then clean (rgSnapshot p pg s)
  else if g = 0x17 ∧ d.off = Reg.Q_POP_LO then qPopLo p pg s
  else if g = 0x17 ∧ showsDesc d.off then clean (readPair p pg d (touchDesc p pg s))
  else if g = 0x1B ∧ d.off = Reg.HSM_LOG_POP_LO then clean (hsmLogPop p h s)
  else if g = 0x1B ∧ d.off = Reg.HSM_WIN_RDATA_LO then hsmWinRead p h s
  else if g = 0x1B ∧ d.off = Reg.HSM_WIN_RDATA_HI then (winAdvance p h s, selOf s p pg Reg.HSM_WIN_RDATA_HI, false)
  else if g = 0x1C ∧ d.off = Reg.NVS_RAW_LO then clean (nvsRawRead p h s)
  else if g = 0x05 ∧ d.off = Reg.GRD_LOG_POP then clean (grdLogPop p (pageRegion pg) s)
  else if g = 0x06 ∧ d.off = Reg.HK_RAW then clean (hkRawRead p (keyRegion pg) s)
  else clean (readPair p pg d s)

/-- A side-effect-free read (12_workers.md R403). -/
def debugReg (s : State) (p : Path) (pg : Nat) (d : RegDesc) : W32 × Bool := (peekReg s p true pg d, peekPoison s p pg d.off)

end Sys2Proof.Machine
end

