-- ==== Sys2Proof/Machine/RegWrite.lean ====
section
/-! DEFINITION. What a write of a register does (15_control.md R10, R475, R477–R479): the values a description accepts, staging,
the commit and the emergency stop, and the operations behind the registers of each page group. -/

namespace Sys2Proof.Machine

/-! ### Values outside the range of a description -/

/-- The word with a field put back where its value is not accepted. -/
def keepField (ok : Bool) (mask old v : W32) : W32 := if ok then v else (v &&& ~~~mask) ||| (old &&& mask)

/-- The word, or the old one where it is not accepted. -/
def keepWord (ok : Bool) (old v : W32) : W32 := if ok then v else old

/-- What a write of `v` leaves in a register that holds `old`: a value outside the range its description names is ignored, whole or in
its field (R475; the ranges are those of the register tables). -/
def fitValue (group off : Nat) (old v : W32) : W32 :=
  let n := v.toNat
  match group with
  | 0x01 =>
    if off = Reg.BIAS_SLEW then keepWord (decide (1 ≤ n ∧ n ≤ 1000)) old v
    else if off = Reg.CAL_CTL then keepField (decide (20 ≤ histExp v ∧ histExp v ≤ 26)) 0x1F00#32 old v
    else if off = Reg.TRG_BLK_CFG then keepField (decide (fld v 1 0 ≠ 3)) 3#32 old v
    else v
  | 0x05 =>
    if off = Reg.GRD_CTL then keepField (decide (fld v 6 4 ≠ 0)) 0x70#32 old v
    else if off = Reg.GRD_GRACE then keepWord (decide (10 ≤ n ∧ n ≤ 1000000)) old v
    else if off = Reg.GRD_SRC_CFG then keepWord (decide (10 ≤ fld v 13 8 ∧ fld v 13 8 ≤ 40)) old v
    else v
  | 0x06 =>
    if off = Reg.HK_CFG then
      keepField (decide (hkShift v ≥ 4)) 0xF000#32 old (keepField (decide (hkPreset v ≠ 3)) 0xC0#32 old
        (keepField (decide (hkExc v ≤ 50)) 0x3F#32 old v))
    else v
  | 0x10 =>
    if off = Reg.TIM_FRAME_K then keepWord (decide (12 ≤ n ∧ n ≤ 20)) old v
    else if off = Reg.TIM_EPOCH_NSEC ∨ off = Reg.TIM_STEP_NSEC then keepWord (decide (n ≤ 999999999)) old v
    else if off = Reg.TIM_HOLD_AVG then keepWord (decide (1 ≤ n ∧ n ≤ 4096)) old v
    else if off = Reg.TIM_OUT_CTL then keepField (decide (1 ≤ fld v 22 4 ∧ fld v 22 4 ≤ 500000)) 0x7FFFF0#32 old v
    else v
  | 0x11 => if off = Reg.REF_QUAL_TIME then keepWord (decide (n ≠ 0)) old v else v
  | 0x13 => if off = Reg.TRG_LINE_WIN then keepWord (decide (fld v 15 0 + fld v 31 16 ≤ 32768)) old v else v
  | 0x14 => if off = Reg.SWM_DEADLINE then keepWord (decide (1024 ≤ n ∧ n ≤ 20480)) old v else v
  | 0x17 => if off = Reg.Q_OPEN_TMO then keepWord (decide (10 ≤ n ∧ n ≤ 32)) old v else v
  | 0x1A =>
    if off = Reg.WAG_CTL then
      keepField (decide (1 ≤ fld v 25 16 ∧ fld v 25 16 ≤ 1000)) 0x3FF0000#32 old (keepField (decide (fld v 7 4 ≠ 0)) 0xF0#32 old v)
    else if off = Reg.WAG_STEP_THR then keepWord (decide (1024 ≤ n)) old v
    else if off = Reg.WAG_RT_TOL then keepWord (decide (n ≠ 0)) old v
    else v
  | 0x1B =>
    if off = Reg.HSM_FORAGE_PASS then keepWord (decide (1 ≤ n ∧ n ≤ 3600)) old v
    else if off = Reg.HSM_LEAK then keepWord (decide (10 ≤ n ∧ n ≤ 40)) old v
    else if off = Reg.HSM_BUCKET_MAX then keepWord (decide (n ≠ 0)) old v
    else v
  | 0x20 =>
    if off = Reg.PWR_BUDGET then keepWord (decide (80 ≤ n ∧ n ≤ 360)) old v
    else if off = Reg.PWR_HYST then keepWord (decide (1 ≤ n ∧ n ≤ 50)) old v
    else if off = Reg.PWR_THROTTLE_CFG then keepField (decide (1 ≤ fld v 8 4 ∧ fld v 8 4 ≤ 16)) 0x1F0#32 old v
    else if off = Reg.PWR_LINGER then keepWord (decide (1 ≤ n ∧ n ≤ 1000000)) old v
    else if Reg.PWR_DOM_0_CFG ≤ off ∧ off % 16 = 0 then keepWord (decide (n ≠ 3)) old v
    else v
  | 0x30 =>
    if off = Reg.LNK_CFG then keepField (decide (fld v 1 0 ≠ 3)) 3#32 old v
    else if off = Reg.LNK_RETRY_TMO then keepWord (decide (1 ≤ n ∧ n ≤ 1024)) old v
    else if off = Reg.LNK_RETRY_MAX then keepWord (decide (n ≠ 0)) old v
    else if off = Reg.LNK_PRBS_CFG then keepField (decide (fld v 4 2 ≤ 4)) 0x1C#32 old v
    else v
  | 0x00 => if off = Reg.BEHAVIOUR_LEVEL then keepWord (decide (n = 1)) old v else v
  | _ => v

/-- VALUE is raised where a condition fails. -/
def valueIf (bad : Bool) (pg : Nat) (s : State) : State := if bad then pageErr s pg errValue else s

/-! ### Staging (R478) -/

/-- A write of an input of the fingerprint makes CHIP_FP_STAGED stale (11_systems.md R364). -/
def touchFp (pg off : Nat) (s : State) : State :=
  if fpInput pg off then s.modChip (fun c => { c with fpValid := false }) else s

/-- The registers a staged write reaches: with CELL_SEL.ALL those of all 16 cells (03_cells.md R116). -/
def stageKeys (s : State) (p : Path) (pg : Nat) (d : RegDesc) : List Nat :=
  let home := homePage pg
  if d.sel = some Reg.CELL_SEL ∧ bit (selOf s p pg Reg.CELL_SEL) 4 then (List.range 16).map (fun i => rkey home d.off i)
  else [rkey home d.off (winIdx s p pg d)]

/-- Registers put into the staged set; refused whole where the set would exceed 4,096 (R478), a limit that start-up does not have
(13_memory.md R427). -/
def stage (p : Path) (pg : Nat) (ks : List (Nat × W32)) (s : State) : State :=
  let fresh := ks.filter (fun e => (tfind s.staged e.1).isNone)
  if p ≠ .startup ∧ s.staged.length + fresh.length > 4096 then
    raise (pageErr s pg errStage) chipPage Reg.CHIP_EVENTS 4
  else
    let s := { s with staged := ks.foldl (fun t e => tput t e.1 e.2) s.staged }
    match ks with
    | e :: _ => touchFp (keyPage e.1) (keyOff e.1) s
    | [] => s

/-- A write of an ST register. -/
def stageWrite (p : Path) (pg : Nat) (d : RegDesc) (v : W32) (s : State) : State :=
  if !winExists s p pg d then s
  else
    let g := keyGroup pg
    let ks := (stageKeys s p pg d).map (fun k => (k, fitValue g d.off (s.stagedReg (keyPage k) d.off (keyIdx k)) v))
    let bad := ks.any (fun e => decide (e.2 ≠ v))
    let ks := ks.filter (fun e => decide (e.2 = v ∨ e.2 ≠ s.stagedReg (keyPage e.1) d.off (keyIdx e.1)))
    valueIf bad pg (stage p pg ks s)

/-- Pending values discarded (R478): ignored, with VALUE, while a commit is ARMED. -/
def discard (pg : Nat) (keep : Nat → Bool) (s : State) : State :=
  if s.chip.commitArmed.isSome then pageErr s pg errValue
  else
    let gone := s.staged.filter (fun e => !keep e.1)
    let s := if gone.any (fun e => fpInput (keyPage e.1) (keyOff e.1)) then s.modChip (fun c => { c with fpValid := false }) else s
    { s with staged := s.staged.filter (fun e => keep e.1) }

/-- CTL.DISCARD of a page. -/
def discardPage (pg : Nat) (s : State) : State := discard pg (fun k => decide (keyPage k ≠ homePage pg)) s

/-! ### Commit and emergency stop (R479, R488) -/

/-- ARM of a commit: refused EXPIRED for a frame already begun. -/
def commitArm (s : State) : State :=
  let f := BitVec.ofNat 40 (s.reg64 chipPage Reg.CHIP_COMMIT_FRAME_LO)
  if frameDiff f s.frameNow ≤ 0 then
    let s := if s.chip.commitArmed.isSome then s else s.modChip (fun c => { c with commitState := 3 })
    schedExpired (raise s chipPage Reg.CHIP_EVENTS 2)
  else s.modChip (fun c => { c with commitArmed := some f, commitState := 1 })

/-- DISARM of a commit. -/
def commitDisarm (s : State) : State :=
  if s.chip.commitArmed.isSome then s.modChip (fun c => { c with commitArmed := none, commitState := 0 }) else s

/-- A write of CHIP_COMMIT_CTL. -/
def commitCtl (v : W32) (s : State) : State :=
  match fld v 2 0 with
  | 0 => s
  | 1 => commitArm s
  | 2 => commitDisarm s
  | 4 => discard chipPage (fun _ => false) s
  | _ => pageErr s chipPage errValue

/-- A write of CHIP_ESTOP_CTL; where both bits are set the stop stands. -/
def estopCtl (v : W32) (s : State) : State :=
  let s := if bit v 1 then s.modChip (fun c => { c with estop := false, estopDue := false }) else s
  if bit v 0 then emergencyStop false s else s

/-! ### Queues through registers (08_queues_placement.md R264–R272) -/

/-- The queue a path has selected. -/
def qSelected (s : State) (p : Path) (pg : Nat) : Nat := fld (selOf s p pg Reg.Q_SEL) 15 0

/-- Whether a worker's path holds its open packet in another queue (12_workers.md R389). -/
def heldElsewhere (s : State) (p : Path) (q : Nat) : Bool :=
  match p with
  | .worker n => (match (s.worker n.val).openQ with | some q' => decide (q' ≠ q) | none => false)
  | _ => false

/-- A worker's note of its open packet follows the queue. -/
def syncOpen (p : Path) (h : HiveId) (q : Nat) (s : State) : State :=
  match p with
  | .worker n =>
    if (s.queue h q).opened = some (.path (pathNo p)) then s.modWorker n.val (fun x => { x with openQ := some q })
    else if (s.worker n.val).openQ = some q then s.modWorker n.val (fun x => { x with openQ := none })
    else s
  | _ => s

/-- Q_RESV. -/
def qRegResv (p : Path) (pg n : Nat) (s : State) : State :=
  let h := pageHive pg
  let q := qSelected s p pg
  if heldElsewhere s p q then setQResult p h qBusy s
  else
    let (s, r) := qReserve s h q (.path (pathNo p)) n
    setQResult p h r (syncOpen p h q s)

/-- Q_WDATA_HI: the whole word goes to the open packet. -/
def qRegWrite (p : Path) (pg : Nat) (w : W64) (s : State) : State :=
  let h := pageHive pg
  let q := qSelected s p pg
  let (s, r) := qWrite s h q (.path (pathNo p)) w
  setQResult p h r (syncOpen p h q s)

/-- Q_COMMIT: bit 0 commits, bit 1 aborts. -/
def qRegCommit (p : Path) (pg : Nat) (v : W32) (s : State) : State :=
  let h := pageHive pg
  let q := qSelected s p pg
  let s :=
    if bit v 0 then
      let (s, r, _) := qCommit s h q (.path (pathNo p))
      setQResult p h r s
    else s
  let s :=
    if bit v 1 then
      let (s, r) := qAbort s h q (.path (pathNo p))
      setQResult p h r s
    else s
  syncOpen p h q s

/-- Q_RELEASE. -/
def qRegRelease (p : Path) (pg n : Nat) (s : State) : State :=
  let h := pageHive pg
  let q := qSelected s p pg
  if !mayPop p q then setQFlags p h flEmpty flOwner s
  else
    let (s, ok) := qRelease s h q n
    setQFlags p h flEmpty (if ok then 0 else flOver) s

/-- Q_CFG, held once per device: judged for both hives together and applied to both; a write ignored whole raises VALUE (R260, R261,
R270). -/
def qRegConfig (p : Path) (pg : Nat) (v : W32) (s : State) : State :=
  let q := qSelected s p pg
  match qClass q with
  | none => pageErr s pg errValue
  | some cls =>
    if qFixed q then pageErr s pg errValue
    else
      let (s, a) := qDesc s .a q
      let (s, b) := qDesc s .b q
      if qCfgLocked v a.d0 || qCfgLocked v b.d0 then pageErr s pg errValue
      else
        let bad := qCfgRefused s .a q v a.d0 || qCfgRefused s .b q v b.d0
        let one (k : HiveId) (d0 : W64) (s : State) : State := let (s, e) := qConfigE s k q cls v d0 bad; settle s e
        one .b b.d0 (one .a a.d0 s)

/-! ### Registers that act, by page group -/

/-- A plain RW register stored in its window. -/
def storeReg (p : Path) (pg : Nat) (d : RegDesc) (v : W32) (s : State) : State :=
  if winExists s p pg d then touchFp (homePage pg) d.off (s.setReg (homePage pg) d.off v (winIdx s p pg d)) else s

def writeBlock (p : Path) (pg : Nat) (d : RegDesc) (v : W32) (s : State) : State :=
  let b := keyRegion pg * 12 + keyInst pg
  let sel := selOf s p pg Reg.TDC_SEL
  let o := d.off
  if o = Reg.INJ_CTL then injCtl b v s
  else if o = Reg.INJ_JUMP then injJump b v s
  else if o = Reg.BIAS_TARGET then biasTarget b v s
  else if o = Reg.CAL_CTL then calCtl b v s
  else if o = Reg.TDC_ENTRY then
    valueIf (!(bit sel 20) || decide (fld sel 16 8 ≥ 400) || (s.block b).loadPend.isSome) pg (tdcEntry sel b v s)
  else if o = Reg.TDC_LOAD then valueIf (bit v 8 && (s.block b).loadPend.isSome) pg (tdcLoad b v s)
  else if o = Reg.TDC_TRIM then tdcTrim sel b v s
  else if o = Reg.BLK_CTL then valueIf (bit v 1 && !bit v 0 && !(s.block b).isolated) pg (blkCtl b v s)
  else storeReg p pg d v s

/-- Whether a write of WRK_MEM_DATA is ignored (12_workers.md R404). -/
def memRefused (s : State) (p : Path) (w pg : Nat) : Bool :=
  let sel := selOf s p pg Reg.WRK_MEM_SEL
  let data := bit sel 0
  let i := fld sel 17 2
  decide (i ≥ memWords w data) || memLocked w data i
    || (!data && decide ((s.worker w).state ≠ .stopped) && decide ((s.worker w).state ≠ .halted))

def writeWorker (p : Path) (pg : Nat) (d : RegDesc) (v : W32) (s : State) : State :=
  let w := pageWorker pg
  let halted := decide ((s.worker w).state = .halted)
  let o := d.off
  if o = Reg.WRK_CTL then wrkCtl w v s
  else if o = Reg.WRK_PC then
    if halted then s.modWorker w (fun x => { x with pc := v.toNat }) else pageErr s pg errValue
  else if o = Reg.WRK_TIMER then s.modWorker w (fun x => { x with timer := v.toNat })
  else if o = Reg.WRK_DOORBELL then wkDoorbell w s
  else if o = Reg.WRK_MEM_DATA then valueIf (memRefused s p w pg) pg (wkMemWrite p w v s)
  else if o = Reg.WRK_KTAB then valueIf (decide (fld (selOf s p pg Reg.WRK_KT_SEL) 4 0 < 16)) pg (wkKtabWrite p w v s)
  else if o = Reg.WRK_DBG_DATA then
    if halted then setWkReg w (fld (selOf s p pg Reg.WRK_DBG_SEL) 3 0) v s else pageErr s pg errValue
  else if o = Reg.WRK_CACHE_CTL then (if bit v 0 then wkFlush w s else s)
  else storeReg p pg d v s

def writeLease (p : Path) (pg : Nat) (d : RegDesc) (v : W32) (s : State) : State :=
  let g := pageRegion pg
  if d.off = Reg.LSE_CTL then lseCtl p g v s
  else if d.off = Reg.LSE_FORCE then lseForce p g v s
  else storeReg p pg d v s

/-- A write of a guard page (14_redundancy_faults.md R466, R470). -/
def writeGuard (p : Path) (pg : Nat) (d : RegDesc) (v : W32) (s : State) : State :=
  let g := pageRegion pg
  let o := d.off
  if o = Reg.GRD_CTL then grdCtl g v s
  else if o = Reg.GRD_GRACE then (if chipGuardPage s g then storeReg p pg d v s else s)
  else if o = Reg.GRD_ACK then grdAck g v s
  else if o = Reg.GRD_PERTURB_KEY then perturbKey p g v s
  else if o = Reg.GRD_PERTURB_CTL then valueIf (!(s.region g).unlocked) pg (perturbCtl g v s)
  else storeReg p pg d v s

def writeHk (p : Path) (pg : Nat) (d : RegDesc) (v : W32) (s : State) : State :=
  let c := keyRegion pg
  if d.off = Reg.HK_CTL then hkCtl c v s
  else if d.off = Reg.HK_CFG then hkCfg c (hkSel s p c) v s
  else if d.off = Reg.HK_TDAC then hkTdac c v s
  else storeReg p pg d v s

/-- The frequency word written, whole or its upper part (02_timebase.md R57). -/
def writeFreq (pg : Nat) (lo : Option W32) (v : W32) (s : State) : State :=
  let low := lo.getD (part (s.hive (pageHive pg)).tb.core.freq 0)
  valueIf (bit (s.cfg 0x1A Reg.WAG_CTL) 0) pg (freqWrite (2 ^ 32 * (v.toNat % 2 ^ 8) + low.toNat) s)

def writeTim (p : Path) (pg : Nat) (d : RegDesc) (v : W32) (s : State) : State :=
  if d.off = Reg.TIM_STEP_CTL then stepCtl v s
  else if d.off = Reg.TIM_FREQ_WORD_HI then writeFreq pg none v s
  else storeReg p pg d v s

/-- A write of a slot's configuration is ignored while the slot is ARMED, OPEN or serves reference judging (04_interpolators.md R142). -/
def writeRg (p : Path) (pg : Nat) (d : RegDesc) (v : W32) (s : State) : State :=
  let n := fld (selOf s p pg Reg.CAL_RG_SEL) 3 0
  if d.off = Reg.CAL_RG_CTL then valueIf (bit v 0 && rgLocked s n) pg (rgCtl n v s)
  else if rgLocked s n then pageErr s pg errValue
  else storeReg p pg d v s

def writeQ (p : Path) (pg : Nat) (d : RegDesc) (v : W32) (s : State) : State :=
  let o := d.off
  if o = Reg.Q_CFG then qRegConfig p pg v s
  else if o = Reg.Q_RELEASE then qRegRelease p pg v.toNat s
  else if o = Reg.Q_CTL then (if bit v 0 then qReset s (pageHive pg) (qSelected s p pg) true else s)
  else if o = Reg.Q_RESV then qRegResv p pg v.toNat s
  else if o = Reg.Q_WDATA_HI then qRegWrite p pg (v ++ selOf s p pg Reg.Q_WDATA_LO) s
  else if o = Reg.Q_COMMIT then qRegCommit p pg v s
  else storeReg p pg d v s

/-- Whether a write of PLC_TBL is ignored: the bank in force, or any while a switch is armed (08_queues_placement.md R277). -/
def plcRefused (s : State) (p : Path) (pg : Nat) : Bool :=
  (bit (selOf s p pg Reg.PLC_TBL_SEL) 8 == s.chip.plcBank) || s.chip.plcArmed.isSome

def writePlc (p : Path) (pg : Nat) (d : RegDesc) (v : W32) (s : State) : State :=
  if d.off = Reg.PLC_SWITCH_CTL then
    let s := if bit v 0 then plcArm s else s
    if bit v 1 then plcDisarm s else s
  else if d.off = Reg.PLC_TBL ∧ plcRefused s p pg = true ∧ p ≠ .startup then pageErr s pg errValue
  else storeReg p pg d v s

def writeWag (p : Path) (pg : Nat) (d : RegDesc) (v : W32) (s : State) : State :=
  if d.off = Reg.WAG_CTL then wagCtl v s
  else if d.off = Reg.WAG_TS_SEND then tsSend v s
  else storeReg p pg d v s

def writeHsm (p : Path) (pg : Nat) (d : RegDesc) (v : W32) (s : State) : State :=
  let h := pageHive pg
  if d.off = Reg.HSM_CTL then forageEnable h v s
  else if d.off = Reg.HSM_RETIRE then hsmRetire p h v s
  else if d.off = Reg.HSM_WIN_WDATA_LO then s.setSel p pg Reg.HSM_WIN_WDATA_LO v
  else if d.off = Reg.HSM_WIN_WDATA_HI then hsmWinWrite p h v s
  else storeReg p pg d v s

def writePwr (p : Path) (pg : Nat) (d : RegDesc) (v : W32) (s : State) : State :=
  if d.off = Reg.PWR_CTL then pwrCtl v s
  else if d.off = Reg.PWR_VOTE then pwrVote p v s
  else storeReg p pg d v s

def writeRst (p : Path) (pg : Nat) (d : RegDesc) (v : W32) (s : State) : State :=
  if d.off = Reg.RST_CTL then rstCtl v s
  else if d.off = Reg.RST_REGION then rstRegion v s
  else if d.off = Reg.RST_REMOTE then rstRemote p v s
  else storeReg p pg d v s

def writeLane (p : Path) (pg : Nat) (d : RegDesc) (v : W32) (s : State) : State :=
  let l := keyInst pg
  if d.off = Reg.LNK_CTL then lnkCtl l v s
  else if d.off = Reg.LNK_PWR then lnkPwr l v s
  else if d.off = Reg.LNK_PRBS_CFG then prbsCfg l v s
  else if d.off = Reg.LNK_PRBS_INJ then
    valueIf (bit v 13 && (decide (fld v 1 0 = 3) || (decide (fld v 1 0 = 2) && decide (fld v 12 8 < 4)))) pg (prbsInj l v s)
  else storeReg p pg d v s

def writeChip (p : Path) (pg : Nat) (d : RegDesc) (v : W32) (s : State) : State :=
  if d.off = Reg.CHIP_COMMIT_CTL then commitCtl v s
  else if d.off = Reg.CHIP_ESTOP_CTL then estopCtl v s
  else storeReg p pg d v s

/-- A write of an RW or WO register behind the header, its value already within its range. -/
def actReg (p : Path) (pg : Nat) (d : RegDesc) (v : W32) (s : State) : State :=
  match keyGroup pg with
  | 0x01 => writeBlock p pg d v s
  | 0x02 => if d.off = Reg.REG_CTL then regCtl (keyRegion pg) v s else storeReg p pg d v s
  | 0x03 => writeWorker p pg d v s
  | 0x04 => writeLease p pg d v s
  | 0x05 => writeGuard p pg d v s
  | 0x06 => writeHk p pg d v s
  | 0x10 => writeTim p pg d v s
  | 0x11 => refWrite d.off v s
  | 0x12 => writeRg p pg d v s
  | 0x13 => if d.off = Reg.TRG_HOST_CTL then hostTrigger v s else storeReg p pg d v s
  | 0x17 => writeQ p pg d v s
  | 0x18 => writePlc p pg d v s
  | 0x1A => writeWag p pg d v s
  | 0x1B => writeHsm p pg d v s
  | 0x1C => if d.off = Reg.NVS_CTL then nvsCommand (pageHive pg) v s else storeReg p pg d v s
  | 0x1E =>
    if d.off = Reg.CLM_CLAIM then clmClaim (pageHive pg) v s
    else if d.off = Reg.CLM_CTL then clmCtl (pageHive pg) v s
    else storeReg p pg d v s
  | 0x20 => writePwr p pg d v s
  | 0x21 => writeRst p pg d v s
  | 0x30 => writeLane p pg d v s
  | 0x00 => writeChip p pg d v s
  | _ => storeReg p pg d v s

/-- A write of an RW or WO register: a value outside its range is ignored, whole or in a field, with VALUE. -/
def rangeWrite (p : Path) (pg : Nat) (d : RegDesc) (v : W32) (s : State) : State :=
  let old := if d.acc = .rw then heldReg s p pg d else 0
  let v' := fitValue (keyGroup pg) d.off old v
  if v' = v then actReg p pg d v s
  else
    let s := pageErr s pg errValue
    if v' = old then s else actReg p pg d v' s

/-- A write of a selection register (R566); of CAL_RG_SEL it ends the path's snapshot (04_interpolators.md R145). -/
def selWrite (p : Path) (pg off : Nat) (v : W32) (s : State) : State :=
  let s := s.setSel p (homePage pg) off v
  if keyGroup pg = 0x12 ∧ off = Reg.CAL_RG_SEL then s.modPath p (fun x => { x with rgSnap := none }) else s

/-! ### 64-bit values (R477) -/

/-- Both halves of a 64-bit value written in one step. -/
def pairWrite (p : Path) (pg : Nat) (lo hi : RegDesc) (low v : W32) (s : State) : State :=
  let g := keyGroup pg
  if g = 0x10 ∧ lo.off = Reg.TIM_FREQ_WORD_LO then writeFreq pg (some low) v s
  else if g = 0x17 ∧ lo.off = Reg.Q_WDATA_LO then qRegWrite p pg (v ++ low) (s.setSel p (homePage pg) Reg.Q_WDATA_LO low)
  else match hi.acc with
    | .st =>
      let i := winIdx s p pg hi
      stage p pg [(rkey (homePage pg) lo.off i, low), (rkey (homePage pg) hi.off i, v)] s
    | _ =>
      if g = 0x12 ∧ rgLocked s (fld (selOf s p pg Reg.CAL_RG_SEL) 3 0) then pageErr s pg errValue
      else storeReg p pg hi v (storeReg p pg lo low s)

/-- A write of a register behind the header that is not RO, RC or W1C, its reserved bits cleared. -/
def openWrite (p : Path) (pg : Nat) (d : RegDesc) (v : W32) (s : State) : State :=
  let g := keyGroup pg
  if isSel g d.off then selWrite p pg d.off v s
  else if isLo g d.off then s.modPath p (fun x => { x with wTag := some (pairTag pg d), wHold := v })
  else
    let single (s : State) : State := if d.acc = .st then stageWrite p pg d v s else rangeWrite p pg d v s
    if 0x44 ≤ d.off ∧ isLo g (d.off - 4) then
      match descOf g (d.off - 4) with
      | some lo =>
        if (s.path p).wTag = some (pairTag pg lo) then
          pairWrite p pg lo d (s.path p).wHold v (s.modPath p (fun x => { x with wTag := none }))
        else single s
      | none => single s
    else single s

/-! ### One write -/

/-- A write of the header (R474). ERR_MASK of a device-wide page is applied to both hives. -/
def headerWrite (pg : Nat) (d : RegDesc) (v : W32) (s : State) : State :=
  if d.off = Reg.CTL then (if bit v 0 then discardPage pg s else s)
  else if d.off = Reg.ERR_MASK then
    if homePage pg = pg ∧ !deviceWide (keyGroup pg) then s.setReg pg Reg.ERR_MASK v
    else (s.setReg (hivePage .a (keyGroup pg)) Reg.ERR_MASK v).setReg (hivePage .b (keyGroup pg)) Reg.ERR_MASK v
  else s

/-- A write of a register (R10, R475). Another write to a guard page breaks the unlock sequence of the path (14_redundancy_faults.md
R466). -/
def writeReg (p : Path) (pg : Nat) (d : RegDesc) (v : W32) (s : State) : State :=
  let s := if keyGroup pg = 0x05 ∧ d.off ≠ Reg.GRD_PERTURB_KEY then perturbBreak p (pageRegion pg) s else s
  match d.acc with
  | .ro => pageErr s pg errRo
  | .rc => pageErr s pg errRo
  | acc =>
    let mask := w32 d.bits
    let s := if v &&& ~~~mask = 0 then s else pageErr s pg errRsvd
    let v := v &&& mask
    if acc = .w1c then s.setReg pg d.off (s.reg pg d.off &&& ~~~v)
    else if d.off < 0x40 then headerWrite pg d v s
    else openWrite p pg d v s

end Sys2Proof.Machine
end

