-- ==== Sys2Proof/Machine/Bus.lean ====
section
/-! DEFINITION. The access paths: what an access answers, where it stalls, and the ports that carry it: the management port, the I²C
target, FAULT_N and JTAG (15_control.md R472–R492, 16_power_reset.md R503). -/

namespace Sys2Proof.Machine

/-! ### One access -/

/-- The three kinds of access, by the codes of the management port (R482). -/
abbrev opRead : Nat := 0
abbrev opWrite : Nat := 1
abbrev opDebug : Nat := 2

/-- An access to a page that is served: its outcome by the codes of R311, and the value read. An offset that names no register is
UNMAPPED and counts as a page error (R472). -/
def perform (p : Path) (op pg off : Nat) (v : W32) (s : State) : State × Nat × W32 :=
  match (if off % 4 = 0 then descOf (keyGroup pg) off else none) with
  | none => (if op = opDebug then s else pageErr s pg errUnmapped, 1, 0)
  | some d =>
    if op = opWrite then (writeReg p pg d v s, 0, 0)
    else
      let r := if op = opDebug then (s, debugReg s p pg d) else readReg p pg d s
      (r.1, if r.2.2 then 2 else 0, r.2.1)

/-- The domain of a page: 0–5 the combs, 6 and 7 the hives, 8 for the chip's own pages, which lie in none (16_power_reset.md
R498). -/
def pageDomain (pg : Nat) : Nat :=
  let r := keyRegion pg
  if r < 6 then r else if r = 8 then 6 else if r = 9 then 7 else 8

/-- What an access meets. -/
inductive Gate where
  | serve | stall | unreachable
deriving DecidableEq, Repr

/-- Whether a domain serves an access: one in reset answers UNREACHABLE, one that is not in Run, or a chip that has not started or
sleeps, makes it stall (16_power_reset.md R503, R522). -/
def gate (s : State) (d : Nat) : Gate :=
  if !s.chip.started ∨ s.chip.state ≠ .run then .stall
  else if d = 8 then .serve
  else if (s.domain d).inReset then .unreachable
  else if (s.domain d).state ≠ .run then .stall
  else .serve

/-- An access counts for the ACCESS vote of its domain (16_power_reset.md R501). -/
def touchDomain (d : Nat) (s : State) : State := if d < 8 then touch d s else s

/-- An access: its outcome and the value read, or none while it stalls. The start-up path never stalls. -/
def access (p : Path) (op : Nat) (a v : W32) (dest : Nat) (s : State) : State × Option (Nat × W32) :=
  match pageOf s a with
  | none => (s, some (1, 0))
  | some pg =>
    let off := keyOff a.toNat
    let d := pageDomain pg
    match (if p = .startup then Gate.serve else gate s d) with
    | .unreachable => (s, some (3, 0))
    | .serve =>
      let r := perform p op pg off v (touchDomain d s)
      (r.1, some r.2)
    | .stall =>
      let e : Stalled := { op := op, addr := w32 (off + pg), data := v, domain := d, hive := pageHive pg, dest := dest }
      (touchDomain d { s with stalls := tput s.stalls (pathNo p) e }, none)

/-- Whether a path can carry an access: the device has power and no access of the path is stalled. -/
def pathFree (s : State) (p : Path) : Bool :=
  !s.chip.held && s.chip.railsLow.isEmpty && decide (s.chip.state ≠ .off) && (tfind s.stalls (pathNo p)).isNone

/-- What a path keeps of its last access. -/
def noteResult (p : Path) (st : Nat) (x : W32) (s : State) : State := s.modPath p (fun y => { y with astat := st, rdata := x })

/-! ### The management port (R482–R485) -/

def State.modMgt (s : State) (f : Mgt → Mgt) : State := s.modChip (fun c => { c with mgt := f c.mgt })

/-- The report as MISO shifts it out. -/
def mgtWord (m : Mgt) : BitVec 96 :=
  BitVec.ofNat 96 (2 ^ 92 * m.state + 2 ^ 88 * m.astat + bitAt m.refused 87 + bitAt m.takeover 86 + 2 ^ 72 * m.seq.toNat
    + 2 ^ 32 * m.addr.toNat + m.data.toNat)

/-- The falling edge of the select: the frame takes the report; REFUSED and TAKEOVER then describe this frame. -/
def mgtOpen (s : State) : State := s.modMgt (fun m => { m with report := mgtWord m, refused := false, takeover := false })

/-- The port's access has its result. -/
def mgtResult (st : Nat) (x : W32) (s : State) : State :=
  noteResult .mgmt st x (s.modMgt (fun m => { m with state := 1, astat := st, data := x }))

/-- A command of the port executed, or refused while an access is pending. -/
def mgtExecute (op : Nat) (a v : W32) (s : State) : State :=
  if (tfind s.stalls 32).isSome then (s.modMgt (fun m => { m with refused := true })).count chipPage Reg.CHIP_SPI_BUSY_CNT
  else
    let s := s.modMgt (fun m => { m with state := 2, astat := 0, seq := m.seq + 1, addr := a, data := 0 })
    match access .mgmt op a v 0 s with
    | (s, some (st, x)) => mgtResult st x s
    | (s, none) => s

/-- Whether the port has power. -/
def mgtPowered (s : State) : Bool := !s.chip.held && s.chip.railsLow.isEmpty && decide (s.chip.state ≠ .off)

/-- A frame that carries an access. -/
def mgtFrame (op : Nat) (a v : W32) (s : State) : State := if mgtPowered s then mgtExecute op a v (mgtOpen s) else s

/-- A frame that carries NOP. -/
def mgtNopFrame (s : State) : State := if mgtPowered s then mgtOpen s else s

/-- SPI_ERR of CHIP_EVENTS. -/
def spiErrEvent (s : State) : State := raise s chipPage Reg.CHIP_EVENTS 8

/-- A frame that R483 discards: nothing executes and the report is not consumed. A frame without fault is not this command. -/
def spiErr (edges : Nat) (mosi : BitVec 96) (s : State) : State :=
  if !mgtPowered s ∨ edges = 0 then s
  else if edges < 96 then
    spiErrEvent ((s.count chipPage Reg.CHIP_SPI_ABORT_CNT).count chipPage Reg.CHIP_SPI_FRAME_ERR_CNT)
  else if 96 < edges then spiErrEvent (s.count chipPage Reg.CHIP_SPI_FRAME_ERR_CNT)
  else if fieldN mosi.toNat 95 92 ≥ 4 ∨ fieldN mosi.toNat 91 64 ≠ 0 then spiErrEvent (s.count chipPage Reg.CHIP_SPI_CMD_ERR_CNT)
  else s

/-! ### JTAG (R491, R492) -/

abbrev irBypass : BitVec 8 := 0xFF
abbrev irIdcode : BitVec 8 := 0x01
abbrev irSample : BitVec 8 := 0x02
abbrev irExtest : BitVec 8 := 0x03
abbrev irPulse : BitVec 8 := 0x04
abbrev irTrain : BitVec 8 := 0x05
abbrev irAccess : BitVec 8 := 0x20
abbrev irDebug : BitVec 8 := 0x21

/-- An instruction selected; on leaving the EXTEST instructions the lanes train afresh (R492). -/
def jtagSelect (ir : BitVec 8) (s : State) : State :=
  let was := s.chip.extest
  let now := decide (ir = irExtest) || decide (ir = irPulse) || decide (ir = irTrain)
  let s := s.modChip (fun c => { c with jtagIr := ir, extest := now })
  if was && !now then forN 20 goDown s else s

/-- The data register as Capture-DR loads it. -/
def jtagCapture (x : BitVec 66) (s : State) : State := s.modChip (fun c => { c with jtagDr := x })

/-- The data register of REG_ACCESS: status 0 done or 3 pending, and the value read. What [63:32] shows is not stated: a free value
(log entry 1). -/
def accessDr (st : Nat) (x : W32) (s : State) : State :=
  let (v, s) := s.free
  jtagCapture (BitVec.ofNat 2 st ++ v.extractLsb' 0 32 ++ x) s

def jtagResult (st : Nat) (x : W32) (s : State) : State := accessDr 0 x (noteResult .jtag st x s)

/-- REG_ACCESS; reads through JTAG carry the side-effect-free attribute (12_workers.md R403). -/
def regAccess (op : Nat) (a v : W32) (s : State) : State :=
  if !pathFree s .jtag then s
  else
    let s := jtagSelect irAccess s
    match access .jtag (if op = opWrite then opWrite else opDebug) a v 0 s with
    | (s, some (st, x)) => jtagResult st x s
    | (s, none) => accessDr 3 0 s

/-- SAMPLE/PRELOAD: the levels of the pins. -/
def jtagSample (pins : List Bool) (s : State) : State := (jtagSelect irSample s).modChip (fun c => { c with boundary := pins })

/-- An EXTEST instruction drives the outputs from the boundary register. -/
def jtagDrive (ir : BitVec 8) (drive : List Bool) (s : State) : State := (jtagSelect ir s).modChip (fun c => { c with boundary := drive })

/-- WRK_DEBUG acts on one worker. -/
def jtagDebug (f : State → State) (s : State) : State := f (jtagSelect irDebug s)

/-- Test-logic reset selects IDCODE and ends any EXTEST instruction. -/
def testLogicReset (s : State) : State := jtagSelect irIdcode s

/-! ### The other paths -/

/-- An access on a path. On the management port it is a frame, on JTAG a REG_ACCESS; a path whose former access is still stalled
carries none. -/
def pathAccess (p : Path) (op : Nat) (a v : W32) (s : State) : State :=
  match p with
  | .mgmt => mgtFrame op a v s
  | .jtag => regAccess op a v s
  | p =>
    if !pathFree s p then s
    else match access p op a v 0 s with
      | (s, some (st, x)) => noteResult p st x s
      | (s, none) => s

/-! ### The I²C target (R486–R489) -/

/-- The word a pointer names. -/
def i2cWord (s : State) (ptr : Nat) : W32 :=
  let live := s.chip.started && decide (s.chip.state = .run) && !s.chip.held && s.chip.railsLow.isEmpty
  if ptr < 6 then lget 0 (if live then i2cWords s else s.chip.i2cCopy) ptr
  else if 0x40 ≤ ptr ∧ ptr < 0xA0 then (if live then tget 0 s.chip.hkCopy (ptr - 0x40) else 0x80000000#32)
  else if ptr = 0xF0 then 0
  else if ptr = 0xF1 then w32 (bitAt s.chip.i2cStuckSeen 0)
  else 0xFFFFFFFF#32

/-- A read transfer of `n` bytes, each word sampled at its first byte. -/
def i2cBytes (s : State) : Nat → Nat → List (BitVec 8)
  | 0, _ => []
  | n + 1, k =>
    let w := i2cWord s ((s.chip.i2cPtr + k / 4) % 256)
    w.extractLsb' (24 - 8 * (k % 4)) 8 :: i2cBytes s n (k + 1)

def i2cRead (n : Nat) (s : State) : State :=
  if s.chip.held then s
  else s.modChip (fun c => { c with i2cOut := i2cBytes s n 0, i2cPtr := (c.i2cPtr + n / 4) % 256, i2cHeld := false })

def i2cPointer (ptr : Nat) (s : State) : State := if s.chip.held then s else s.modChip (fun c => { c with i2cPtr := ptr, i2cHeld := false })

/-- The key written to pointer 0xF0 stops; any other value does nothing. -/
def i2cEstop (key : W32) (s : State) : State :=
  if s.chip.held then s
  else
    let s := s.modChip (fun c => { c with i2cPtr := 0xF0, i2cHeld := false })
    if key = 0x0000E55E#32 then emergencyStop true s else s

/-- A line held for 35 ms resets the target; one that stays low is counted once. -/
def i2cStuck (s : State) : State :=
  if s.chip.held ∨ s.chip.i2cHeld then s
  else
    let s := s.modChip (fun c => { c with i2cStuckSeen := true, i2cHeld := true })
    raise (s.count chipPage Reg.CHIP_I2C_STUCK_CNT) chipPage Reg.CHIP_EVENTS 16

/-! ### FAULT_N (R490) -/

/-- Another driver has held FAULT_N low for 16 ticks that the device sampled: it does so while it does not drive the pin and from 1 µs
after its release. -/
def faultExternal (s : State) : State :=
  let c := s.chip
  if c.faultExt ∨ faultDriven s ∨ (c.faultReleased ≠ 0 ∧ s.tick < c.faultReleased + 1024) then s
  else
    let s := s.modChip (fun c => { c with faultExt := true, faultExternal := true })
    raise (s.count chipPage Reg.CHIP_FAULTN_EXT_CNT) chipPage Reg.CHIP_EVENTS 32

/-- The pin has been high for 16 ticks. -/
def faultHigh (s : State) : State :=
  if faultDriven s then s else s.modChip (fun c => { c with faultExt := false, faultExternal := false })

/-! ### Addresses -/

/-- The region code an access names a hive page by (01_device_overview.md R23). -/
def refCode : HiveRef → Nat
  | .hiveA => 8
  | .hiveB => 9
  | .active => 0xC

/-- The address of a register of a hive page. -/
def hiveAddr (r : HiveRef) (group off : Nat) : W32 := w32 (off + page (refCode r) group 0)

/-- The address of a register of a page. -/
def addrOf (pg off : Nat) : W32 := w32 (off + pg)

end Sys2Proof.Machine
end

