-- ==== Sys2Proof/Machine/Requests.lean ====
section
/-! DEFINITION. Control requests: the checks, the replay windows, execution, responses (09_lanes.md R310–R318); the accesses of workers
(12_workers.md R386); and the completion of an access that was stalled (16_power_reset.md R503). -/

namespace Sys2Proof.Machine

/-! ### The request word and its response (R310, R311) -/

abbrev reqId (w : W64) : BitVec 16 := w.extractLsb' 48 16
abbrev reqSeq (w : W64) : BitVec 16 := w.extractLsb' 32 16
abbrev reqTag (w : W64) : BitVec 8 := w.extractLsb' 24 8
abbrev reqOp (w : W64) : Nat := fieldN w.toNat 23 22
abbrev reqCount (w : W64) : Nat := fieldN w.toNat 20 16 + 1

abbrev stOk : Nat := 0
abbrev stBusy : Nat := 1
abbrev stStale : Nat := 2
abbrev stBadTag : Nat := 3
abbrev stMalformed : Nat := 4

/-- A response word: REQ_ID, RSEQ, TAG, OP and CNT repeated, and STATUS. -/
def responseWord (w : W64) (status : Nat) : W64 := (w &&& 0xFFFFFFFFFFDF0000#64) ||| BitVec.ofNat 64 (2 ^ 12 * status)

/-- A result word. -/
def resultWord (st : Nat) (x : W32) : W64 := BitVec.ofNat 64 (2 ^ 60 * st + x.toNat)

/-- Whether a request breaks its form: step 1 of R312. -/
def malformed (ws : List W64) : Bool :=
  let w := ws.headD 0
  decide (reqOp w = 3) || decide (ws.length ≠ reqCount w + 1) || w.getLsbD 21 || decide (fieldN w.toNat 15 0 ≠ 0)

/-- A response goes to the lane's transmitter, if the link is UP (R315). -/
def sendResponse (l : Nat) (ws : List W64) (s : State) : State :=
  if (s.lane l).state = .up then s.modLane l (fun x => { x with waiting := x.waiting ++ [{ ptype := 3, load := .response, rcv := 0, payload := ws }] })
  else s

/-- The page of the request counters. -/
abbrev reqPage (s : State) : Nat := hivePage (higherClaim s) 0x19

/-- An answer of the lane's link layer, counted (R312). -/
def linkAnswer (l : Nat) (w : W64) (status cnt ev : Nat) (s : State) : State :=
  let s := sendResponse l [responseWord w status] (s.count (reqPage s) cnt)
  if ev = 0 then s else raise s (reqPage s) Reg.LNK_REQ_EVENTS ev

/-! ### Replay windows (R317) -/

/-- Whether a requester has a tag outstanding. -/
def tagsOf (x : Hive) (id : BitVec 16) : List ReqOut := x.outstanding.filter (fun o => o.id = id)

/-- The window without an outstanding tag that has gone longest without a request. -/
def oldestIdle (x : Hive) : Option ReqWindow :=
  (x.windows.filter (fun w => (tagsOf x w.id).isEmpty)).foldl (fun b w =>
    match b with
    | none => some w
    | some c => if w.lastUse < c.lastUse then some w else b) none

/-- Whether a requester has a window or can be given one. -/
def windowFree (x : Hive) (id : BitVec 16) : Bool :=
  x.windows.any (fun w => w.id = id) || decide (x.windows.length < 128) || (oldestIdle x).isSome

/-- An RSEQ recorded in a window: a higher one moves it up. -/
def record (w : ReqWindow) (r : BitVec 16) (tick : Nat) : ReqWindow :=
  let high := if (r - w.high).toInt > 0 then r else w.high
  { w with high := high, lastUse := tick, seqs := (w.seqs.filter (fun e => decide ((high - e.1).toInt ≤ 63))) ++ [(r, none)] }

/-- The windows with an accepted RSEQ recorded; true where a window was recycled for it. -/
def recordIn (x : Hive) (id : BitVec 16) (r : BitVec 16) (tick : Nat) : List ReqWindow × Bool :=
  if x.windows.any (fun w => w.id = id) then (x.windows.map (fun w => if w.id = id then record w r tick else w), false)
  else
    let fresh : ReqWindow := { id := id, high := r, seqs := [(r, none)], lastUse := tick }
    if x.windows.length < 128 then (x.windows ++ [fresh], false)
    else match oldestIdle x with
      | some o => (x.windows.filter (fun w => w.id ≠ o.id) ++ [fresh], true)
      | none => (x.windows, false)

/-! ### Execution (R313–R315) -/

/-- The request of a lane that is being executed. -/
def running (s : State) (l : Nat) : Option ReqOut :=
  (s.hive (higherClaim s)).outstanding.find? (fun o => decide (o.lane = l) && !o.queued)

/-- A list with its first entry that meets a condition changed. -/
def modFirst {α : Type} (p : α → Bool) (f : α → α) : List α → List α
  | [] => []
  | x :: xs => if p x then f x :: xs else x :: modFirst p f xs

/-- A change to the request of a lane that is being executed, the first accepted whose response is not ready. -/
def State.modRunning (s : State) (l : Nat) (f : ReqOut → ReqOut) : State :=
  s.modHive (higherClaim s) (fun x => { x with outstanding := modFirst (fun o => decide (o.lane = l) && !o.queued) f x.outstanding })

/-- The path of a lane. -/
def lanePath (l : Nat) : Path := .lane (Fin.ofNat 20 l)

/-- An access of the running request has its result. -/
def reqResult (l st : Nat) (x : W32) (s : State) : State :=
  (noteResult (lanePath l) st x s).modRunning l (fun o => { o with accesses := o.accesses.tail, results := o.results ++ [resultWord st x] })

/-- The running request goes on until an access stalls; with all accesses done its response is committed to the control-response queue
of the hive that executed it, and the next request accepted on the lane runs (R314). -/
def runRequest (l : Nat) : Nat → State → State
  | 0, s => s
  | n + 1, s =>
    match running s l with
    | none => s
    | some o =>
      match o.accesses with
      | [] =>
        let s := (qPutFixed s o.hive (128 + l) (responseWord o.reqWord stOk :: o.results)).1
        runRequest l n (s.modRunning l (fun o => { o with queued := true }))
      | a :: _ =>
        match access (lanePath l) (reqOp o.reqWord) (a.extractLsb' 32 32) (a.extractLsb' 0 32) 0 s with
        | (s, some (st, x)) => runRequest l n (reqResult l st x s)
        | (s, none) => s

/-- Steps that the requests a lane has still to run can take. -/
def runSteps (s : State) (l : Nat) : Nat :=
  (((s.hive (higherClaim s)).outstanding.filter (fun o => decide (o.lane = l) && !o.queued)).map (fun o => o.accesses.length + 1)).sum + 1

/-- The hive that executes a request: the standby where the first access names its own code (R315). -/
def serving (s : State) (accesses : List W64) : HiveId :=
  let h := higherClaim s
  if fieldN (accesses.headD 0).toNat 63 60 = hiveRegion (otherHive h) then otherHive h else h

/-- Step 8: the request is recorded, and executed once those accepted on the lane before it have run (R314). -/
def acceptRequest (l : Nat) (w : W64) (accesses : List W64) (s : State) : State :=
  let h := higherClaim s
  let r := recordIn (s.hive h) (reqId w) (reqSeq w) s.tick
  let o : ReqOut := { id := reqId w, rseq := reqSeq w, tag := reqTag w, lane := l, hive := serving s accesses, reqWord := w, accesses := accesses, results := [] }
  let idle := (running s l).isNone
  let s := s.modHive h (fun x => { x with windows := r.1, outstanding := x.outstanding ++ [o] })
  let s := if r.2 then raise (s.count (reqPage s) Reg.LNK_REQ_RECYCLE_CNT) (reqPage s) Reg.LNK_REQ_EVENTS 4 else s
  if idle then runRequest l (runSteps s l) s else s

/-- A request of a requester whose window is known: steps 3 to 5, or none where they do not answer. -/
def windowAnswer (l : Nat) (w : W64) (x : ReqWindow) (s : State) : Option State :=
  if (x.high - reqSeq w).toInt > 63 then some (linkAnswer l w stStale Reg.LNK_REQ_STALE_CNT 2 s)
  else match x.seqs.find? (fun e => e.1 = reqSeq w) with
    | some (_, some ws) => some (sendResponse l ws (s.count (reqPage s) Reg.LNK_REQ_REPLAY_CNT))
    | some (_, none) => some (s.count (reqPage s) Reg.LNK_REQ_DUP_CNT)
    | none => none

/-- A requester's window notes the request (R317). -/
def useWindow (id : BitVec 16) (s : State) : State :=
  s.modHive (higherClaim s) (fun x => { x with windows := x.windows.map (fun w => if w.id = id then { w with lastUse := s.tick } else w) })

/-- The checks of R312, in their order. -/
def checkRequest (l : Nat) (ws : List W64) (s : State) : State :=
  let w := ws.headD 0
  let h := higherClaim s
  if malformed ws then linkAnswer l w stMalformed Reg.LNK_REQ_MALFORMED_CNT 8 s
  else if !windowFree (s.hive h) (reqId w) then linkAnswer l w stBusy Reg.LNK_REQ_BUSY_CNT 1 s
  else
    let s := useWindow (reqId w) s
    let early := match (s.hive h).windows.find? (fun x => x.id = reqId w) with
      | some x => windowAnswer l w x s
      | none => none
    match early with
    | some t => t
    | none =>
      let mine := tagsOf (s.hive h) (reqId w)
      if mine.any (fun o => o.tag = reqTag w) then linkAnswer l w stBadTag Reg.LNK_REQ_BADTAG_CNT 0 s
      else if mine.length ≥ 32 ∨ (s.hive h).outstanding.length ≥ 256 then linkAnswer l w stBusy Reg.LNK_REQ_BUSY_CNT 1 s
      else acceptRequest l w ws.tail s

/-- A request that arrives while the device is fatal: only a remote link reset is executed, and nothing is answered (16_power_reset.md
R518). -/
def fatalRequest (l : Nat) (ws : List W64) (s : State) : State :=
  let a := ws.getD 1 0
  if !malformed ws ∧ reqOp (ws.headD 0) = opWrite ∧ ws.length = 2 ∧ a.extractLsb' 32 32 = addrOf rstPage Reg.RST_REMOTE then
    rstRemote (lanePath l) (a.extractLsb' 0 32) s
  else s

/-- Whether the device has power to carry an access. -/
def powered (s : State) : Bool := !s.chip.held && s.chip.railsLow.isEmpty && decide (s.chip.state ≠ .off)

/-- The oldest request a lane has received is checked, if its OP is the one named. -/
def ctrlRequest (l op : Nat) (s : State) : State :=
  match (s.lane l).rx.find? (fun p => p.ptype = 2) with
  | none => s
  | some p =>
    if reqOp (p.payload.headD 0) ≠ op ∨ !powered s then s
    else
      let s := (takeRx l 2 s).1
      if s.fatal then fatalRequest l p.payload s else checkRequest l p.payload s

/-- Whether a lane's transmitter can take a new packet into its retry buffer now (R302, R306). -/
def txReady (s : State) (l : Nat) : Bool :=
  let x := s.lane l
  decide (x.state = .up) && x.powered && x.txAwake && !x.idleOut && decide (x.resend = 0) && decide (x.retry.length < 64)

/-- A response taken from its queue goes out at once; one whose lane has left UP is dropped (R315). -/
def sendTaken (l : Nat) (ws : List W64) (s : State) : State :=
  if txReady s l then sendNew l { ptype := 3, load := .response, rcv := 0, payload := ws } s else s

/-- The lane's transmitter takes the next response into its retry buffer: the tag is free, and the replay window keeps the response. A
transmitter in UP that cannot take it now leaves it in its queue (R313, R315). -/
def responseTake (l : Nat) (h : HiveId) (s : State) : State :=
  let k := higherClaim s
  if (s.lane l).state = .up ∧ !txReady s l then s
  else match (s.hive k).outstanding.find? (fun o => decide (o.lane = l) && o.queued) with
  | some o =>
    if o.hive ≠ h then s
    else match popPacket h (128 + l) s with
      | (s, none) => s
      | (s, some ws) =>
        let words := ws.map (·.1)
        let s := s.modHive k (fun x => { x with
          outstanding := x.outstanding.erase o
          windows := x.windows.map (fun w =>
            if w.id = o.id then { w with seqs := w.seqs.map (fun e => if e.1 = o.rseq ∧ e.2 = none then (e.1, some words) else e) } else w) })
        sendTaken l words s
  | none =>
    match popPacket h (128 + l) s with
    | (s, none) => s
    | (s, some ws) => sendTaken l (ws.map (·.1)) s

/-! ### Accesses of workers (12_workers.md R386) -/

/-- A read has its result: 0 and ACC_ERR where it failed. -/
def wkAccRead (w d st : Nat) (x : W32) (s : State) : State :=
  let s := noteResult (wkPath w) st x s
  if st = 0 then setWkReg w d x s else setWkReg w d 0 (s.modWorker w (fun y => { y with accErr := true }))

/-- A write has its outcome. -/
def wkAccWrite (w st : Nat) (s : State) : State :=
  let s := noteResult (wkPath w) st 0 s
  if st = 0 then s else s.modWorker w (fun y => { y with accErr := true })

/-- RGR, or RGD with the side-effect-free attribute. -/
def wkRegRead (w op d a : Nat) (s : State) : State :=
  match access (wkPath w) op (wkReg s w a) 0 d s with
  | (s, some (st, x)) => wkNext w (wkAccRead w d st x s)
  | (s, none) => s.modWorker w (fun y => { y with wait := some .access })

/-- RGW. The PC has advanced when the write acts, for it may reset the worker itself. -/
def wkRegWrite (w a b : Nat) (s : State) : State :=
  let adr := wkReg s w a
  let v := wkReg s w b
  match access (wkPath w) opWrite adr v 0 (wkNext w s) with
  | (s, some (st, _)) => wkAccWrite w st s
  | (_, none) =>
    let s := (access (wkPath w) opWrite adr v 0 s).1
    s.modWorker w (fun y => { y with wait := some .access })

/-- The stalled access of a worker's instruction has its outcome. -/
def wkAccDone (w : Nat) (e : Stalled) (s : State) (r : State → State × Nat × W32) : State :=
  if (s.worker w).wait ≠ some .access then
    let (s, st, x) := r s
    noteResult (wkPath w) st x s
  else
    let s := wkNext w (s.modWorker w (fun y => { y with wait := none }))
    let (s, st, x) := r s
    wkAfter w (if e.op = opWrite then wkAccWrite w st s else wkAccRead w e.dest st x s)

/-! ### Completion of a stalled access (16_power_reset.md R503) -/

/-- Whether a stalled access can complete: it completes where its domain runs, and is answered where it is in reset. -/
def stallDue (s : State) (e : Stalled) : Bool := decide (gate s e.domain ≠ .stall)

/-- What a stalled access answers. -/
def stallAnswer (p : Path) (e : Stalled) (s : State) : State × Nat × W32 :=
  if gate s e.domain = .unreachable then (s, 3, 0)
  else perform p e.op (e.addr.toNat - keyOff e.addr.toNat) (keyOff e.addr.toNat) e.data (touchDomain e.domain s)

/-- The stalled access of a key completes, if it can: `f` takes it from there. -/
def completeStall (k : Nat) (s : State) (f : Stalled → State → State) : State :=
  match tfind s.stalls k with
  | none => s
  | some e => if stallDue s e then f e { s with stalls := terase s.stalls k } else s

/-- A stalled access of a path completes. The access that was pending at a takeover has lost its report (15_control.md R485). -/
def accessComplete (p : Path) (s : State) : State :=
  match p with
  | .mgmt =>
    let s := completeStall 36 s (fun e s => (stallAnswer .mgmt e s).1)
    completeStall 32 s (fun e s => let (s, st, x) := stallAnswer .mgmt e s; mgtResult st x s)
  | .jtag => completeStall 33 s (fun e s => let (s, st, x) := stallAnswer .jtag e s; jtagResult st x s)
  | .lane n => completeStall n.val s (fun e s =>
      let (s, st, x) := stallAnswer (.lane n) e s
      if (running s n.val).isSome then runRequest n.val (runSteps s n.val) (reqResult n.val st x s) else noteResult (.lane n) st x s)
  | .worker n => completeStall (64 + n.val) s (fun e s => wkAccDone n.val e s (stallAnswer (.worker n) e))
  | .startup => completeStall 34 s (fun e s => let (s, st, x) := stallAnswer .startup e s; noteResult .startup st x s)

end Sys2Proof.Machine
end

