-- ==== Sys2Proof/Machine/Startup.lean ====
section
/-! DEFINITION. Start-up after a chip-level reset (16_power_reset.md R516, R522, R521, 13_memory.md R427). -/

namespace Sys2Proof.Machine

/-- A boot pair: a write through the start-up path; one that names BEHAVIOUR_LEVEL is skipped (13_memory.md R427). -/
def bootPair (w : W64) (s : State) : State :=
  let a : W32 := w.extractLsb' 32 32
  if a = addrOf chipPage Reg.BEHAVIOUR_LEVEL then s else (access .startup opWrite a (w.extractLsb' 0 32) 0 s).1

/-- The boot configuration of the active hive, or none. -/
def bootPairs (s : State) : List W64 := (recordPayload (s.hive (higherClaim s)).mram 5 0).getD []

/-- Whether the boot configuration holds an identifier (11_systems.md R377). -/
def bootNamesId (ws : List W64) : Bool := ws.any (fun w => decide (w.extractLsb' 32 32 = addrOf chipPage Reg.CHIP_DEVICE_ID))

/-- Whether the reset was soft or remote: steps 2 and 4 are skipped, and what they would load is kept (R521, R522). -/
abbrev warmStart (s : State) : Bool := decide (s.chip.cause = 3) || decide (s.chip.cause = 4)

/-- Steps 1 to 3: the straps, whose levels are the board's, a free value; the boot scans and the records of each hive. -/
def startScan (s : State) : State :=
  let (v, s) := s.free
  let s := s.modChip (fun c => { c with straps := v.extractLsb' 0 3 })
  let s := loadIdentity .b (loadIdentity .a (bootScan .b (bootScan .a s)))
  let s := if warmStart s then s else loadRetire .b (loadRetire .a (loadClaim .b (loadClaim .a s)))
  s.modChip (fun c => { c with obeyedB := decide (higherClaim s = .b) })

/-- Step 4: calibration from the active hive's records, and the spine delays measured (02_timebase.md R56). -/
def startCalibration (trips : List Nat) (s : State) : State :=
  let h := higherClaim s
  if warmStart s then s
  else
    let s := forN 6 (loadTdc h) (loadTrims h s)
    s.modChip (fun c =>
      let ds := (List.range 7).map (fun i => spineDelay s i (lget 0 trips i))
      { c with spineNow := ds, spinePrev := ds, spineNext := ds })

/-- The frame counter follows the frame scheme in force (02_timebase.md R49). -/
def startFrameNo (s : State) : State :=
  s.modCore (fun c => { c with frame := BitVec.ofInt 40 ((c.fu - s.epochFu).fdiv s.frameFu) })

/-- The selection horizon starts 132 trigger ticks back, whatever the lag the lines then ask for (06_trigger.md R191, R220). -/
def startHorizon (h : HiveId) (s : State) : State :=
  lagUpdate h (s.modHive h (fun x => { x with trig := { x.trig with h := x.tb.core.fu / 8000 - 132, jumpAt := none } }))

/-- The boot configuration: all staged values come into force together, then CAL_SKEW; the fingerprint is computed (R522 step 6). -/
def startBoot (s : State) : State :=
  let h := higherClaim s
  let ws := bootPairs s
  let s := forL ws bootPair (loadDelays h s)
  let s := loadSkew h (fun _ => true) (putStaged s)
  let s := startFrameNo (s.modChip (fun c => { c with idDefault := !bootNamesId ws }))
  let s := startHorizon .b (startHorizon .a s)
  let s := if bit (s.cfg 0x15 Reg.FRM_CTL) 0 ∧ s.frameK ≠ 16 then raise s (frmPage h) Reg.FRM_EVENTS 8 else s
  let v := fpForce s
  creditStart h (s.modChip (fun c => { c with fpNow := v, fpPrev := v, fpStaged := v, fpValid := true }))

/-- What begins once start-up is done: bundles are UP, links train, the time since the reset is noted. -/
def startRun (s : State) : State :=
  let s := forN 6 (fun c s => s.modComb c (fun x => { x with bundleA := { state := 2, dataCr := 4096, ctlCr := 64 }, bundleB := { state := 2, dataCr := 4096, ctlCr := 64 } })) s
  let s := s.modChip (fun c => { c with started := true, startUs := (s.tick - c.startTick) / 1024 })
  rstRaise 2 (forN 20 goDown s)

/-- Start-up. It needs power, every rail above its threshold, a REFCLK within the capture range, and a reset before it (02_timebase.md
R60). -/
def startup (trips : List Nat) (s : State) : State :=
  if s.chip.started ∨ (s.hive (higherClaim s)).tb.refclkBad ∨ s.chip.held ∨ s.chip.vlaneLow ∨ s.chip.state = .off then s
  else
    let s := s.modChip (fun c => { c with railsLow := [] })
    let s := startRun (startBoot (startCalibration trips (startScan s)))
    if s.chip.estopDue then estopAct s else s

end Sys2Proof.Machine
end

