-- ==== Sys2Proof/Machine/Access.lean ====
section
/-! DEFINITION. The commands that arrive on an access path or at a port: one meaning for each. A command that is the access to one
register names its path; the bits of the register that make it this command are set or cleared in the word written. -/

namespace Sys2Proof.Machine

/-- The word with bits set. -/
abbrev withBits (v : W32) (n : Nat) : W32 := v ||| w32 n
/-- The word with bits cleared. -/
abbrev noBits (v : W32) (n : Nat) : W32 := v &&& ~~~w32 n

/-- A write on a path. -/
def writeAt (p : Path) (a v : W32) (s : State) : State := pathAccess p opWrite a v s
/-- A read on a path. -/
def readAt (p : Path) (a : W32) (s : State) : State := pathAccess p opRead a 0 s

/-- The configuration of a candidate with EN clear. -/
def candOff (c : Nat) (s : State) : W32 := noBits (s.cfg 0x11 (candCfgReg c)) 1

/-- GRD_CTL as it is, with FATAL set. -/
def fatalWord (g : Nat) (s : State) : W32 := withBits (s.reg (grdPage g) Reg.GRD_CTL) 2

/-- The CTL register of the page an address lies in. -/
def ctlOf (a : W32) : W32 := addrOf (a.toNat - keyOff a.toNat) Reg.CTL


/-! ### Time (02_timebase.md) -/

def execTimNowSnapshot (p : Path) (r : HiveRef) (s : State) : Host.Outcome State Fault Refusal := done s (readAt p (hiveAddr r 0x10 Reg.TIM_NOW_0) s)
def execCandidateDisable (p : Path) (c : Fin 4) (s : State) : Host.Outcome State Fault Refusal :=
  done s (writeAt p (hiveAddr .active 0x11 (candCfgReg c.val)) (candOff c.val s) s)
def execTimStepGo (p : Path) (r : HiveRef) (v : W32) (s : State) : Host.Outcome State Fault Refusal :=
  done s (writeAt p (hiveAddr r 0x10 Reg.TIM_STEP_CTL) (withBits v 0x100) s)

/-! ### Blocks and regions (03_cells.md, 04_interpolators.md, 05_blocks_regions.md) -/

def execInjRun (p : Path) (blk : Fin 72) (v : W32) (s : State) : Host.Outcome State Fault Refusal :=
  done s (writeAt p (addrOf (blkPage blk.val) Reg.INJ_CTL) (withBits v 1) s)
def execInjStop (p : Path) (blk : Fin 72) (v : W32) (s : State) : Host.Outcome State Fault Refusal :=
  done s (writeAt p (addrOf (blkPage blk.val) Reg.INJ_CTL) (noBits v 1) s)
def execInjJump (p : Path) (blk : Fin 72) (v : W32) (s : State) : Host.Outcome State Fault Refusal :=
  done s (writeAt p (addrOf (blkPage blk.val) Reg.INJ_JUMP) v s)
def execBiasTargetWrite (p : Path) (blk : Fin 72) (v : W32) (s : State) : Host.Outcome State Fault Refusal :=
  done s (writeAt p (addrOf (blkPage blk.val) Reg.BIAS_TARGET) v s)
def execTdcLoadGo (p : Path) (blk : Fin 72) (v : W32) (s : State) : Host.Outcome State Fault Refusal :=
  done s (writeAt p (addrOf (blkPage blk.val) Reg.TDC_LOAD) (withBits v 0x100) s)
def execHistExpChange (p : Path) (blk : Fin 72) (v : W32) (s : State) : Host.Outcome State Fault Refusal :=
  done s (writeAt p (addrOf (blkPage blk.val) Reg.CAL_CTL) v s)
def execCalEnChange (p : Path) (blk : Fin 72) (v : W32) (s : State) : Host.Outcome State Fault Refusal :=
  done s (writeAt p (addrOf (blkPage blk.val) Reg.CAL_CTL) v s)
def execCalRgArm (p : Path) (r : HiveRef) (s : State) : Host.Outcome State Fault Refusal := done s (writeAt p (hiveAddr r 0x12 Reg.CAL_RG_CTL) 1 s)
def execCalRgStop (p : Path) (r : HiveRef) (s : State) : Host.Outcome State Fault Refusal := done s (writeAt p (hiveAddr r 0x12 Reg.CAL_RG_CTL) 2 s)
def execCalRgStatusSnapshot (p : Path) (r : HiveRef) (s : State) : Host.Outcome State Fault Refusal :=
  done s (readAt p (hiveAddr r 0x12 Reg.CAL_RG_STATUS) s)
def execBundleRetrain (p : Path) (comb : Fin 6) (v : W32) (s : State) : Host.Outcome State Fault Refusal :=
  done s (writeAt p (addrOf (combPage comb.val 0x02) Reg.REG_CTL) v s)
def execBlkIsolate (p : Path) (blk : Fin 72) (s : State) : Host.Outcome State Fault Refusal :=
  done s (writeAt p (addrOf (blkPage blk.val) Reg.BLK_CTL) 1 s)
def execBlkRejoin (p : Path) (blk : Fin 72) (s : State) : Host.Outcome State Fault Refusal :=
  done s (writeAt p (addrOf (blkPage blk.val) Reg.BLK_CTL) 2 s)

/-! ### Trigger, queues, placement (06_trigger.md, 08_queues_placement.md) -/

def execTrgHostGo (p : Path) (r : HiveRef) (v : W32) (s : State) : Host.Outcome State Fault Refusal :=
  done s (writeAt p (hiveAddr r 0x13 Reg.TRG_HOST_CTL) (withBits v 0x100) s)
def execQResv (p : Path) (r : HiveRef) (v : W32) (s : State) : Host.Outcome State Fault Refusal := done s (writeAt p (hiveAddr r 0x17 Reg.Q_RESV) v s)
def execQWdataHi (p : Path) (r : HiveRef) (v : W32) (s : State) : Host.Outcome State Fault Refusal :=
  done s (writeAt p (hiveAddr r 0x17 Reg.Q_WDATA_HI) v s)
def execQCommit (p : Path) (r : HiveRef) (s : State) : Host.Outcome State Fault Refusal := done s (writeAt p (hiveAddr r 0x17 Reg.Q_COMMIT) 1 s)
def execQAbort (p : Path) (r : HiveRef) (s : State) : Host.Outcome State Fault Refusal := done s (writeAt p (hiveAddr r 0x17 Reg.Q_COMMIT) 2 s)
def execQPopLo (p : Path) (r : HiveRef) (s : State) : Host.Outcome State Fault Refusal := done s (readAt p (hiveAddr r 0x17 Reg.Q_POP_LO) s)
def execQRelease (p : Path) (r : HiveRef) (v : W32) (s : State) : Host.Outcome State Fault Refusal :=
  done s (writeAt p (hiveAddr r 0x17 Reg.Q_RELEASE) v s)
def execQCtlReset (p : Path) (r : HiveRef) (s : State) : Host.Outcome State Fault Refusal := done s (writeAt p (hiveAddr r 0x17 Reg.Q_CTL) 1 s)
def execQCfgWrite (p : Path) (r : HiveRef) (v : W32) (s : State) : Host.Outcome State Fault Refusal :=
  done s (writeAt p (hiveAddr r 0x17 Reg.Q_CFG) v s)
def execPlcSwitchArm (p : Path) (r : HiveRef) (s : State) : Host.Outcome State Fault Refusal :=
  done s (writeAt p (hiveAddr r 0x18 Reg.PLC_SWITCH_CTL) 1 s)
def execPlcSwitchDisarm (p : Path) (r : HiveRef) (s : State) : Host.Outcome State Fault Refusal :=
  done s (writeAt p (hiveAddr r 0x18 Reg.PLC_SWITCH_CTL) 2 s)

/-! ### Lanes and waggle (09_lanes.md, 10_time_transfer.md) -/

def execLnkRetrain (p : Path) (lane : Fin 20) (s : State) : Host.Outcome State Fault Refusal :=
  done s (writeAt p (addrOf (lanePage lane.val) Reg.LNK_CTL) 1 s)
def execLnkDown (p : Path) (lane : Fin 20) (s : State) : Host.Outcome State Fault Refusal :=
  done s (writeAt p (addrOf (lanePage lane.val) Reg.LNK_CTL) 2 s)
def execLnkErrClr (p : Path) (lane : Fin 20) (s : State) : Host.Outcome State Fault Refusal :=
  done s (writeAt p (addrOf (lanePage lane.val) Reg.LNK_CTL) 4 s)
def execCtrlRead (lane : Fin 20) (s : State) : Host.Outcome State Fault Refusal := done s (ctrlRequest lane.val 0 s)
def execCtrlWrite (lane : Fin 20) (s : State) : Host.Outcome State Fault Refusal := done s (ctrlRequest lane.val 1 s)
def execCtrlDbgRead (lane : Fin 20) (s : State) : Host.Outcome State Fault Refusal := done s (ctrlRequest lane.val 2 s)
def execCtrlMalformed (lane : Fin 20) (s : State) : Host.Outcome State Fault Refusal := done s (ctrlRequest lane.val 3 s)
def execResponseTake (lane : Fin 20) (h : HiveId) (s : State) : Host.Outcome State Fault Refusal := done s (responseTake lane.val h s)
def execLaneSleepRequest (p : Path) (lane : Fin 20) (v : W32) (s : State) : Host.Outcome State Fault Refusal :=
  done s (writeAt p (addrOf (lanePage lane.val) Reg.LNK_PWR) v s)
def execLnkPrbsCfgWrite (p : Path) (lane : Fin 20) (v : W32) (s : State) : Host.Outcome State Fault Refusal :=
  done s (writeAt p (addrOf (lanePage lane.val) Reg.LNK_PRBS_CFG) v s)
def execPrbsInjGo (p : Path) (lane : Fin 20) (v : W32) (s : State) : Host.Outcome State Fault Refusal :=
  done s (writeAt p (addrOf (lanePage lane.val) Reg.LNK_PRBS_INJ) (withBits v 0x2000) s)
def execPrbsInjStop (p : Path) (lane : Fin 20) (s : State) : Host.Outcome State Fault Refusal :=
  done s (writeAt p (addrOf (lanePage lane.val) Reg.LNK_PRBS_INJ) 0x4000 s)
def execServoEnWrite (p : Path) (r : HiveRef) (v : W32) (s : State) : Host.Outcome State Fault Refusal :=
  done s (writeAt p (hiveAddr r 0x1A Reg.WAG_CTL) v s)
def execWagTsSend (p : Path) (r : HiveRef) (v : W32) (s : State) : Host.Outcome State Fault Refusal :=
  done s (writeAt p (hiveAddr r 0x1A Reg.WAG_TS_SEND) (withBits v 0x10000) s)

/-! ### Workers and leases (12_workers.md) -/

def execRgr (wk : Fin 192) (d : Fin 16) (a : Fin 16) (s : State) : Host.Outcome State Fault Refusal :=
  done s (wkDo wk.val (wkRegRead wk.val opRead d.val a.val) s)
def execRgw (wk : Fin 192) (a : Fin 16) (b : Fin 16) (s : State) : Host.Outcome State Fault Refusal :=
  done s (wkDo wk.val (wkRegWrite wk.val a.val b.val) s)
def execRgd (wk : Fin 192) (d : Fin 16) (a : Fin 16) (s : State) : Host.Outcome State Fault Refusal :=
  done s (wkDo wk.val (wkRegRead wk.val opDebug d.val a.val) s)
def execWrkDoorbell (p : Path) (wk : Fin 192) (s : State) : Host.Outcome State Fault Refusal :=
  done s (writeAt p (addrOf (wrkPage wk.val) Reg.WRK_DOORBELL) 1 s)
def execWrkRun (p : Path) (wk : Fin 192) (s : State) : Host.Outcome State Fault Refusal :=
  done s (writeAt p (addrOf (wrkPage wk.val) Reg.WRK_CTL) 1 s)
def execWrkStop (p : Path) (wk : Fin 192) (s : State) : Host.Outcome State Fault Refusal :=
  done s (writeAt p (addrOf (wrkPage wk.val) Reg.WRK_CTL) 2 s)
def execWrkReset (p : Path) (wk : Fin 192) (s : State) : Host.Outcome State Fault Refusal :=
  done s (writeAt p (addrOf (wrkPage wk.val) Reg.WRK_CTL) 4 s)
def execWrkCtlHalt (p : Path) (wk : Fin 192) (s : State) : Host.Outcome State Fault Refusal :=
  done s (writeAt p (addrOf (wrkPage wk.val) Reg.WRK_CTL) 8 s)
def execWrkResume (p : Path) (wk : Fin 192) (s : State) : Host.Outcome State Fault Refusal :=
  done s (writeAt p (addrOf (wrkPage wk.val) Reg.WRK_CTL) 16 s)
def execWrkCtlStep (p : Path) (wk : Fin 192) (s : State) : Host.Outcome State Fault Refusal :=
  done s (writeAt p (addrOf (wrkPage wk.val) Reg.WRK_CTL) 32 s)
def execWrkDbgEn (p : Path) (wk : Fin 192) (s : State) : Host.Outcome State Fault Refusal :=
  done s (writeAt p (addrOf (wrkPage wk.val) Reg.WRK_CTL) 64 s)
def execWrkFlush (p : Path) (wk : Fin 192) (s : State) : Host.Outcome State Fault Refusal :=
  done s (writeAt p (addrOf (wrkPage wk.val) Reg.WRK_CACHE_CTL) 1 s)
def execWrkMemDataWrite (p : Path) (wk : Fin 192) (v : W32) (s : State) : Host.Outcome State Fault Refusal :=
  done s (writeAt p (addrOf (wrkPage wk.val) Reg.WRK_MEM_DATA) v s)
def execWrkKtabWrite (p : Path) (wk : Fin 192) (v : W32) (s : State) : Host.Outcome State Fault Refusal :=
  done s (writeAt p (addrOf (wrkPage wk.val) Reg.WRK_KTAB) v s)
def execLseAcquire (p : Path) (g : Fin 8) (v : W32) (s : State) : Host.Outcome State Fault Refusal :=
  done s (writeAt p (addrOf (lsePage g.val) Reg.LSE_CTL) (noBits (withBits v 1) 2) s)
def execLseRelease (p : Path) (g : Fin 8) (s : State) : Host.Outcome State Fault Refusal :=
  done s (writeAt p (addrOf (lsePage g.val) Reg.LSE_CTL) 2 s)
def execLseForce (p : Path) (g : Fin 8) (v : W32) (s : State) : Host.Outcome State Fault Refusal :=
  done s (writeAt p (addrOf (lsePage g.val) Reg.LSE_FORCE) (withBits v 0x100) s)

/-! ### Memory (13_memory.md) -/

def execHsmRetireGo (p : Path) (r : HiveRef) (v : W32) (s : State) : Host.Outcome State Fault Refusal :=
  done s (writeAt p (hiveAddr r 0x1B Reg.HSM_RETIRE) (noBits (withBits v 0x10000) 0x20000) s)
def execHsmRetireClear (p : Path) (r : HiveRef) (v : W32) (s : State) : Host.Outcome State Fault Refusal :=
  done s (writeAt p (hiveAddr r 0x1B Reg.HSM_RETIRE) (noBits (withBits v 0x20000) 0x10000) s)
def execHsmLogPopLo (p : Path) (r : HiveRef) (s : State) : Host.Outcome State Fault Refusal :=
  done s (readAt p (hiveAddr r 0x1B Reg.HSM_LOG_POP_LO) s)
def execHsmWinRdataLo (p : Path) (r : HiveRef) (s : State) : Host.Outcome State Fault Refusal :=
  done s (readAt p (hiveAddr r 0x1B Reg.HSM_WIN_RDATA_LO) s)
def execHsmWinWdataHi (p : Path) (r : HiveRef) (v : W32) (s : State) : Host.Outcome State Fault Refusal :=
  done s (writeAt p (hiveAddr r 0x1B Reg.HSM_WIN_WDATA_HI) v s)
def execForageEnWrite (p : Path) (r : HiveRef) (v : W32) (s : State) : Host.Outcome State Fault Refusal :=
  done s (writeAt p (hiveAddr r 0x1B Reg.HSM_CTL) v s)
def execNvsWrite (p : Path) (r : HiveRef) (v : W32) (s : State) : Host.Outcome State Fault Refusal :=
  done s (writeAt p (hiveAddr r 0x1C Reg.NVS_CTL) (withBits (noBits v 3) 0x80000001) s)
def execNvsRead (p : Path) (r : HiveRef) (v : W32) (s : State) : Host.Outcome State Fault Refusal :=
  done s (writeAt p (hiveAddr r 0x1C Reg.NVS_CTL) (withBits (noBits v 3) 0x80000002) s)
def execNvsDelete (p : Path) (r : HiveRef) (v : W32) (s : State) : Host.Outcome State Fault Refusal :=
  done s (writeAt p (hiveAddr r 0x1C Reg.NVS_CTL) (withBits (noBits v 3) 0x80000003) s)
def execNvsRawLo (p : Path) (r : HiveRef) (s : State) : Host.Outcome State Fault Refusal := done s (readAt p (hiveAddr r 0x1C Reg.NVS_RAW_LO) s)

/-! ### Duplex and guard (14_redundancy_faults.md) -/

def execClmClaimWrite (p : Path) (r : HiveRef) (v : W32) (s : State) : Host.Outcome State Fault Refusal :=
  done s (writeAt p (hiveAddr r 0x1E Reg.CLM_CLAIM) v s)
def execClmYield (p : Path) (r : HiveRef) (s : State) : Host.Outcome State Fault Refusal := done s (writeAt p (hiveAddr r 0x1E Reg.CLM_CTL) 1 s)
def execClmTake (p : Path) (r : HiveRef) (s : State) : Host.Outcome State Fault Refusal := done s (writeAt p (hiveAddr r 0x1E Reg.CLM_CTL) 2 s)
def execClmDisarm (p : Path) (r : HiveRef) (s : State) : Host.Outcome State Fault Refusal := done s (writeAt p (hiveAddr r 0x1E Reg.CLM_CTL) 4 s)
def execClmArm (p : Path) (r : HiveRef) (s : State) : Host.Outcome State Fault Refusal := done s (writeAt p (hiveAddr r 0x1E Reg.CLM_CTL) 8 s)
def execGrdAck (p : Path) (g : Fin 8) (v : W32) (s : State) : Host.Outcome State Fault Refusal :=
  done s (writeAt p (addrOf (grdPage g.val) Reg.GRD_ACK) v s)
def execGrdFatal (p : Path) (g : Fin 8) (s : State) : Host.Outcome State Fault Refusal :=
  done s (writeAt p (addrOf (grdPage g.val) Reg.GRD_CTL) (fatalWord g.val s) s)
def execGrdLogPop (p : Path) (g : Fin 8) (s : State) : Host.Outcome State Fault Refusal :=
  done s (readAt p (addrOf (grdPage g.val) Reg.GRD_LOG_POP) s)
def execGrdPerturbKey (p : Path) (g : Fin 8) (v : W32) (s : State) : Host.Outcome State Fault Refusal :=
  done s (writeAt p (addrOf (grdPage g.val) Reg.GRD_PERTURB_KEY) v s)

/-! ### Registers at large, commit, ports (15_control.md) -/

def execRegisterWrite (p : Path) (addr : W32) (v : W32) (s : State) : Host.Outcome State Fault Refusal := done s (writeAt p addr v s)
def execRcRead (p : Path) (addr : W32) (s : State) : Host.Outcome State Fault Refusal := done s (readAt p addr s)
def execLoReadSnapshot (p : Path) (addr : W32) (s : State) : Host.Outcome State Fault Refusal := done s (readAt p addr s)
def execHiWrite (p : Path) (addr : W32) (v : W32) (s : State) : Host.Outcome State Fault Refusal := done s (writeAt p addr v s)
def execPageDiscard (p : Path) (addr : W32) (s : State) : Host.Outcome State Fault Refusal := done s (writeAt p (ctlOf addr) 1 s)
def execChipCommitArm (p : Path) (s : State) : Host.Outcome State Fault Refusal := done s (writeAt p (addrOf (chipPage) Reg.CHIP_COMMIT_CTL) 1 s)
def execChipCommitDisarm (p : Path) (s : State) : Host.Outcome State Fault Refusal := done s (writeAt p (addrOf (chipPage) Reg.CHIP_COMMIT_CTL) 2 s)
def execChipCommitDiscard (p : Path) (s : State) : Host.Outcome State Fault Refusal := done s (writeAt p (addrOf (chipPage) Reg.CHIP_COMMIT_CTL) 4 s)
def execMgtNop  (s : State) : Host.Outcome State Fault Refusal := done s (mgtNopFrame s)
def execMgtRead (addr : W32) (s : State) : Host.Outcome State Fault Refusal := done s (mgtFrame opRead addr 0 s)
def execMgtWrite (addr : W32) (v : W32) (s : State) : Host.Outcome State Fault Refusal := done s (mgtFrame opWrite addr v s)
def execMgtDbgRead (addr : W32) (s : State) : Host.Outcome State Fault Refusal := done s (mgtFrame opDebug addr 0 s)
def execSpiErr (edges : Nat) (mosi : BitVec 96) (s : State) : Host.Outcome State Fault Refusal := done s (spiErr edges mosi s)
def execAccessComplete (p : Path) (s : State) : Host.Outcome State Fault Refusal := done s (accessComplete p s)
def execI2cPointerWrite (ptr : BitVec 8) (s : State) : Host.Outcome State Fault Refusal := done s (i2cPointer ptr.toNat s)
def execI2cEstopWrite (key : W32) (s : State) : Host.Outcome State Fault Refusal := done s (i2cEstop key s)
def execI2cRead (bytes : Nat) (s : State) : Host.Outcome State Fault Refusal := done s (i2cRead bytes s)
def execI2cStuck  (s : State) : Host.Outcome State Fault Refusal := done s (i2cStuck s)
def execEstop (p : Path) (s : State) : Host.Outcome State Fault Refusal := done s (writeAt p (addrOf (chipPage) Reg.CHIP_ESTOP_CTL) 1 s)
def execEstopClear (p : Path) (s : State) : Host.Outcome State Fault Refusal := done s (writeAt p (addrOf (chipPage) Reg.CHIP_ESTOP_CTL) 2 s)
def execFaultLineExternal  (s : State) : Host.Outcome State Fault Refusal := done s (faultExternal s)
def execFaultLineReleased  (s : State) : Host.Outcome State Fault Refusal := done s (faultHigh s)
def execJtagBypass  (s : State) : Host.Outcome State Fault Refusal := done s (jtagCapture 0 (jtagSelect irBypass s))
def execJtagIdcode  (s : State) : Host.Outcome State Fault Refusal :=
  done s (jtagCapture ((stepping s ++ 0x11525E7#28).zeroExtend 66) (jtagSelect irIdcode s))
def execJtagSamplePreload (pins : List Bool) (s : State) : Host.Outcome State Fault Refusal := done s (jtagSample pins s)
def execJtagExtest (drive : List Bool) (s : State) : Host.Outcome State Fault Refusal := done s (jtagDrive irExtest drive s)
def execJtagExtestPulse (drive : List Bool) (s : State) : Host.Outcome State Fault Refusal := done s (jtagDrive irPulse drive s)
def execJtagExtestTrain (drive : List Bool) (s : State) : Host.Outcome State Fault Refusal := done s (jtagDrive irTrain drive s)
def execRegAccessRead (addr : W32) (s : State) : Host.Outcome State Fault Refusal := done s (regAccess opRead addr 0 s)
def execRegAccessWrite (addr : W32) (v : W32) (s : State) : Host.Outcome State Fault Refusal := done s (regAccess opWrite addr v s)
def execRegAccessDbgRead (addr : W32) (s : State) : Host.Outcome State Fault Refusal := done s (regAccess opDebug addr 0 s)
def execWrkDebugHalt (wk : Fin 192) (s : State) : Host.Outcome State Fault Refusal := done s (jtagDebug (wkHaltReq wk.val) s)
def execWrkDebugResume (wk : Fin 192) (s : State) : Host.Outcome State Fault Refusal := done s (jtagDebug (wkResume wk.val) s)
def execWrkDebugStep (wk : Fin 192) (s : State) : Host.Outcome State Fault Refusal := done s (jtagDebug (wkStep wk.val) s)
def execTestLogicReset  (s : State) : Host.Outcome State Fault Refusal := done s (testLogicReset s)

/-! ### Power and reset (16_power_reset.md), housekeeping (17_housekeeping.md) -/

def execStartup (trips : List Nat) (s : State) : Host.Outcome State Fault Refusal := done s (startup trips s)
def execRstSoft (p : Path) (v : W32) (s : State) : Host.Outcome State Fault Refusal :=
  done s (writeAt p (addrOf (rstPage) Reg.RST_CTL) (withBits v 0x10000) s)
def execRstRemote (lane : Fin 20) (v : W32) (s : State) : Host.Outcome State Fault Refusal :=
  done s (writeAt (.lane lane) (addrOf rstPage Reg.RST_REMOTE) v s)
def execRstRegionGo (p : Path) (v : W32) (s : State) : Host.Outcome State Fault Refusal :=
  done s (writeAt p (addrOf (rstPage) Reg.RST_REGION) (withBits v 0x10000) s)
def execPwrVote (p : Path) (v : W32) (s : State) : Host.Outcome State Fault Refusal := done s (writeAt p (addrOf (pwrPage) Reg.PWR_VOTE) v s)
def execEnterDeep (p : Path) (s : State) : Host.Outcome State Fault Refusal := done s (writeAt p (addrOf (pwrPage) Reg.PWR_CTL) 1 s)
def execEnterOff (p : Path) (s : State) : Host.Outcome State Fault Refusal := done s (writeAt p (addrOf (pwrPage) Reg.PWR_CTL) 2 s)
def execHkRawRead (p : Path) (comb : Fin 6) (s : State) : Host.Outcome State Fault Refusal :=
  done s (readAt p (addrOf (hkPage comb.val) Reg.HK_RAW) s)

end Sys2Proof.Machine
end

