-- ==== Sys2Proof/Machine/Dump.lean ====
section
/-! DEFINITION. What the resident dump kernel writes into queue 1 (14_redundancy_faults.md R463, R464), and the command that places
the dump. The kernel's code is not in the spec; its effect is: the packets of the six sections, in order, as the queue takes them
(log entry 101). -/

namespace Sys2Proof.Machine

/-- Words a packet holds after its section word. -/
abbrev dumpCut : Nat := 4095

/-- The section word. -/
def sectionWord (device sect part words : Nat) : W64 :=
  BitVec.ofNat 64 (2 ^ 60 * 0xD + 2 ^ 48 * device + 2 ^ 40 * sect + 2 ^ 24 * (part % 2 ^ 16) + words)

/-- The worker that runs the dump kernel, as a path of accesses and as a producer. -/
def dumpWorker (h : HiveId) : Fin 192 := match h with | .a => 144 | .b => 168

/-- HEAD: the time word of the declaration, the record open at it (0 where the host declared it with none open), CHIP_FP_NOW. -/
def dumpHead (s : State) (h : HiveId) : List W64 :=
  let g := (s.hive h).guard
  [g.dump.time.extractLsb' 0 64, (g.dump.time.extractLsb' 64 32).zeroExtend 64,
   (match g.fatalRecord with | some r => w32 (recWord1 r) ++ w32 (recWord0 r) | none => 0),
   BitVec.ofNat 64 (s.chip.fpNow.toNat + 2 ^ 16 * s.chip.fpPrev.toNat)]

/-- The pages an access reaches now. -/
def dumpPages (s : State) : List Nat :=
  ([0, 1, 2, 3, 4, 5, 8, 9, 15].flatMap (fun r => (List.range 0x31).flatMap (fun g =>
    ((List.range 192).filter (pageKnown r g)).map (page r g)))).filter (fun pg => gate s (pageDomain pg) = .serve)

/-- PAGES: address and value of every register of every such page, read under the side-effect-free attribute. -/
def dumpRegs (s : State) (h : HiveId) : List W64 :=
  (dumpPages s).flatMap (fun pg => (regs_header ++ regsOf (keyGroup pg)).map (fun d =>
    w32 (pg + d.off) ++ (debugReg s (.worker (dumpWorker h)) pg d).1))

/-- QUEUES: number and descriptor of every enabled queue. -/
def dumpQueues (s : State) (h : HiveId) : List W64 :=
  ((List.range 65536).filter (fun q => (qClass q).isSome && qEnabled s h q (qPeek s h q).d0)).flatMap (fun q =>
    BitVec.ofNat 64 q :: (List.range 4).map (fun i => (hPeek s h (4 * q + i)).1))

/-- GUARD: the guard log, oldest first. -/
def dumpLog (s : State) (h : HiveId) : List W64 :=
  (s.hive h).guard.log.flatMap (fun r => [w32 (recWord1 r) ++ w32 (recWord0 r), r.time ++ 0#32])

/-- TRACE: the trace entries kept, oldest first. -/
def dumpTrace (s : State) (h : HiveId) : List W64 := (s.hive h).guard.trace.flatMap (fun w => [w.1, w.2])

/-- END: the words written before it and their CRC-32C. -/
def dumpTail (s : State) (h : HiveId) : List W64 :=
  let d := (s.hive h).guard.dump
  [w32 d.words ++ ~~~d.crc]

/-- The content of a section. -/
def dumpSection (s : State) (h : HiveId) : Nat → List W64
  | 1 => dumpHead s h
  | 2 => dumpRegs s h
  | 3 => dumpQueues s h
  | 4 => dumpLog s h
  | 5 => dumpTrace s h
  | _ => dumpTail s h

/-- The next packet of the dump, and whether it is the last of its section. -/
def dumpNext (s : State) (h : HiveId) : List W64 × Bool :=
  let d := (s.hive h).guard.dump
  let rest := (dumpSection s h d.sect).drop (dumpCut * d.part)
  let ws := rest.take dumpCut
  (sectionWord (deviceAt s s.now).toNat d.sect d.part ws.length :: ws, (rest.drop dumpCut).isEmpty)

/-- The progress of the dump once a packet is in the queue. -/
def Dump.after (d : Dump) (ws : List W64) (last : Bool) : Dump :=
  { d with
    sect := if last then d.sect + 1 else d.sect, part := if last then 0 else d.part + 1, words := d.words + ws.length
    crc := (ws.flatMap bytesMsb).foldl (fun c b => crcShift 0x82F63B78#32 8 (c ^^^ b.zeroExtend 32)) d.crc }

/-- Whether the dump kernel runs and has not finished. -/
def dumping (s : State) (h : HiveId) : Bool :=
  let d := (s.hive h).guard.dump
  s.fatal && decide (1 ≤ d.sect ∧ d.sect ≤ 6) && decide ((s.worker (dumpWorker h).val).state = .running)

/-- The kernel puts its next packet into queue 1, if the queue takes it. -/
def dumpFeed (s : State) : State :=
  let h := higherClaim s
  if !dumping s h then s
  else
    let n := dumpNext s h
    match qPut s h 1 (.path (64 + (dumpWorker h).val)) n.1 with
    | (s, r, _) => if r = qOk then s.modGuard h (fun g => { g with dump := g.dump.after n.1 n.2 }) else s

/-- The kernel has written what it can, and placement sends the packet at the head of queue 1 (R283). -/
def execDumpPlace (s : State) : Host.Outcome State Fault Refusal := done s (dumpPlace (dumpFeed s))

end Sys2Proof.Machine
end

