-- ==== Sys2Proof/Machine/GuardSrc.lean ====
section
/-! DEFINITION. The dual-rail sources of a region guard (14_redundancy_faults.md R451, R455). A pair reads 1 for (0,1),
2 for (1,0), 0 for an invalid reading. -/

namespace Sys2Proof.Machine

/-- The source a region's broken wires report to (R453, R454). -/
def wireSrc (g : Nat) : Nat := if g < 6 then 20 else 9

/-- A pair passes to (1,0): one event, unless the pair is broken (R451). -/
def errorEvent (g src : Nat) (s : State) : State := guardEvent s g src

/-- A pair has read (0,0) or (1,1) for 4 ticks (R451). -/
def brokenWire (g src : Nat) (s : State) : State :=
  if (s.source g src).broken then s else
  let s := s.modSource g src (fun x => { x with broken := true, pair := 0 })
  guardEvent (raise s (grdPage g) Reg.GRD_EVENTS 16) g (wireSrc g)

/-- A broken pair has read a valid value for 4 ticks (R451); which of the two is not stated. -/
def brokenClear (g src : Nat) (s : State) : State :=
  if (s.source g src).broken then
    let (v, s) := s.free
    s.modSource g src (fun x => { x with broken := false, pair := if v.getLsbD 0 then 1 else 2 })
  else s

/-- A source's window closes without N events (R455). -/
def windowExpiry (g src : Nat) (s : State) : State :=
  match (s.source g src).windowEnd with
  | none => s
  | some e => if s.tick < e then s
    else s.modSource g src (fun x => { x with windowEnd := none, count := 0, severe := false })

def execErrorEvent (g : Fin 8) (src : Fin 32) (s : State) : Host.Outcome State Fault Refusal :=
  done s (errorEvent g.val src.val s)
def execBrokenWire (g : Fin 8) (src : Fin 32) (s : State) : Host.Outcome State Fault Refusal :=
  done s (brokenWire g.val src.val s)
def execBrokenClear (g : Fin 8) (src : Fin 32) (s : State) : Host.Outcome State Fault Refusal :=
  done s (brokenClear g.val src.val s)
def execSeverityWindowExpiry (g : Fin 8) (src : Fin 32) (s : State) : Host.Outcome State Fault Refusal :=
  done s (windowExpiry g.val src.val s)

end Sys2Proof.Machine
end

