-- ==== Sys2Proof/Machine/Dispatch.lean ====
section
/-! DEFINITION. One arm for each command: its meaning over everything but the queue. -/

namespace Sys2Proof.Machine

/-- The effect of a command on everything but the queue of waiting commands. -/
def exec (i : Instr) (s : State) : Host.Outcome State Fault Refusal :=
  match i with
  | .tick => Sys2Proof.Machine.execTick s
  | .frameBoundary delays => Sys2Proof.Machine.execFrameBoundary delays s
  | .secondBoundary => Sys2Proof.Machine.execSecondBoundary s
  | .ppsOutFall => Sys2Proof.Machine.execPpsOutFall s
  | .timNowSnapshot p r => Sys2Proof.Machine.execTimNowSnapshot p r s
  | .referenceLoss loss => Sys2Proof.Machine.execReferenceLoss loss s
  | .signalPresent c => Sys2Proof.Machine.execSignalPresent c s
  | .candidateDisable p c => Sys2Proof.Machine.execCandidateDisable p c s
  | .gateEnd result => Sys2Proof.Machine.execGateEnd result s
  | .timStepGo p r v => Sys2Proof.Machine.execTimStepGo p r v s
  | .ppsInEdge delta => Sys2Proof.Machine.execPpsInEdge delta s
  | .stepPpsTimeout => Sys2Proof.Machine.execStepPpsTimeout s
  | .discriminatorEdge cell edges => Sys2Proof.Machine.execDiscriminatorEdge cell edges s
  | .randomEdgeOffer site => Sys2Proof.Machine.execRandomEdgeOffer site s
  | .conversionComplete site itp count => Sys2Proof.Machine.execConversionComplete site itp count s
  | .pulseTimeout cell th => Sys2Proof.Machine.execPulseTimeout cell th s
  | .blankingEnd cell => Sys2Proof.Machine.execBlankingEnd cell s
  | .eofMarker cell => Sys2Proof.Machine.execEofMarker cell s
  | .injRun p blk v => Sys2Proof.Machine.execInjRun p blk v s
  | .injStop p blk v => Sys2Proof.Machine.execInjStop p blk v s
  | .injSample blk => Sys2Proof.Machine.execInjSample blk s
  | .segmentEnd blk => Sys2Proof.Machine.execSegmentEnd blk s
  | .injJump p blk v => Sys2Proof.Machine.execInjJump p blk v s
  | .biasTargetWrite p blk v => Sys2Proof.Machine.execBiasTargetWrite p blk v s
  | .biasStep blk => Sys2Proof.Machine.execBiasStep blk s
  | .biasOverload blk => Sys2Proof.Machine.execBiasOverload blk s
  | .tableBuildStart site => Sys2Proof.Machine.execTableBuildStart site s
  | .tableBuildDone site => Sys2Proof.Machine.execTableBuildDone site s
  | .tdcLoadGo p blk v => Sys2Proof.Machine.execTdcLoadGo p blk v s
  | .histExpChange p blk v => Sys2Proof.Machine.execHistExpChange p blk v s
  | .calEnChange p blk v => Sys2Proof.Machine.execCalEnChange p blk v s
  | .calRgArm p r => Sys2Proof.Machine.execCalRgArm p r s
  | .calRgStop p r => Sys2Proof.Machine.execCalRgStop p r s
  | .gateOpen slot => Sys2Proof.Machine.execGateOpen slot s
  | .gateClose slot => Sys2Proof.Machine.execGateClose slot s
  | .gateNEdge n rising delta => Sys2Proof.Machine.execGateNEdge n rising delta s
  | .regressionStamp slot => Sys2Proof.Machine.execRegressionStamp slot s
  | .regressionResult slot => Sys2Proof.Machine.execRegressionResult slot s
  | .calRgStatusSnapshot p r => Sys2Proof.Machine.execCalRgStatusSnapshot p r s
  | .blockWrite cell upset => Sys2Proof.Machine.execBlockWrite cell upset s
  | .floorEmit blk => Sys2Proof.Machine.execFloorEmit blk s
  | .mergerRelease reads => Sys2Proof.Machine.execMergerRelease reads s
  | .blockClose blk => Sys2Proof.Machine.execBlockClose blk s
  | .regionClose comb => Sys2Proof.Machine.execRegionClose comb s
  | .drainDeadline => Sys2Proof.Machine.execDrainDeadline s
  | .fifoPointerMismatch f => Sys2Proof.Machine.execFifoPointerMismatch f s
  | .bridgeFlitSend comb => Sys2Proof.Machine.execBridgeFlitSend comb s
  | .bridgeFlitReceive comb h upset => Sys2Proof.Machine.execBridgeFlitReceive comb h upset s
  | .bridgeReplay reads h => Sys2Proof.Machine.execBridgeReplay reads h s
  | .creditBatchReturn comb h ctl => Sys2Proof.Machine.execCreditBatchReturn comb h ctl s
  | .bundleRetrain p comb v => Sys2Proof.Machine.execBundleRetrain p comb v s
  | .bundleTrained comb h => Sys2Proof.Machine.execBundleTrained comb h s
  | .blkIsolate p blk => Sys2Proof.Machine.execBlkIsolate p blk s
  | .blkRejoin p blk => Sys2Proof.Machine.execBlkRejoin p blk s
  | .triggerTick => Sys2Proof.Machine.execTriggerTick s
  | .primitiveWord comb parityOk => Sys2Proof.Machine.execPrimitiveWord comb parityOk s
  | .extTrigEdge n rising delta => Sys2Proof.Machine.execExtTrigEdge n rising delta s
  | .trgHostGo p r v => Sys2Proof.Machine.execTrgHostGo p r v s
  | .swarmReceive lane => Sys2Proof.Machine.execSwarmReceive lane s
  | .swarmHoldExpiry => Sys2Proof.Machine.execSwarmHoldExpiry s
  | .sortRelease => Sys2Proof.Machine.execSortRelease s
  | .hiveClose => Sys2Proof.Machine.execHiveClose s
  | .headCommit => Sys2Proof.Machine.execHeadCommit s
  | .jobStart => Sys2Proof.Machine.execJobStart s
  | .jobResumable j => Sys2Proof.Machine.execJobResumable j s
  | .jobComplete j => Sys2Proof.Machine.execJobComplete j s
  | .trailerCommit => Sys2Proof.Machine.execTrailerCommit s
  | .qResv p r v => Sys2Proof.Machine.execQResv p r v s
  | .qWdataHi p r v => Sys2Proof.Machine.execQWdataHi p r v s
  | .qCommit p r => Sys2Proof.Machine.execQCommit p r s
  | .qAbort p r => Sys2Proof.Machine.execQAbort p r s
  | .qPopLo p r => Sys2Proof.Machine.execQPopLo p r s
  | .qRelease p r v => Sys2Proof.Machine.execQRelease p r v s
  | .qCtlReset p r => Sys2Proof.Machine.execQCtlReset p r s
  | .qCfgWrite p r v => Sys2Proof.Machine.execQCfgWrite p r v s
  | .openPacketTimeout h q => Sys2Proof.Machine.execOpenPacketTimeout h q s
  | .unitPlace rcv => Sys2Proof.Machine.execUnitPlace rcv s
  | .unitReplace rcv => Sys2Proof.Machine.execUnitReplace rcv s
  | .dumpPlace => Sys2Proof.Machine.execDumpPlace s
  | .plcSwitchArm p r => Sys2Proof.Machine.execPlcSwitchArm p r s
  | .plcSwitchDisarm p r => Sys2Proof.Machine.execPlcSwitchDisarm p r s
  | .jobPlace intake => Sys2Proof.Machine.execJobPlace intake s
  | .blockLockGain lane => Sys2Proof.Machine.execBlockLockGain lane s
  | .blockLockLoss lane => Sys2Proof.Machine.execBlockLockLoss lane s
  | .packetTransmit lane => Sys2Proof.Machine.execPacketTransmit lane s
  | .packetReceive lane blocks => Sys2Proof.Machine.execPacketReceive lane blocks s
  | .retryTimeout lane => Sys2Proof.Machine.execRetryTimeout lane s
  | .nakRepeat lane => Sys2Proof.Machine.execNakRepeat lane s
  | .lnkRetrain p lane => Sys2Proof.Machine.execLnkRetrain p lane s
  | .lnkDown p lane => Sys2Proof.Machine.execLnkDown p lane s
  | .lnkErrClr p lane => Sys2Proof.Machine.execLnkErrClr p lane s
  | .ctrlRead lane => Sys2Proof.Machine.execCtrlRead lane s
  | .ctrlWrite lane => Sys2Proof.Machine.execCtrlWrite lane s
  | .ctrlDbgRead lane => Sys2Proof.Machine.execCtrlDbgRead lane s
  | .responseTake lane h => Sys2Proof.Machine.execResponseTake lane h s
  | .creditReceive lane => Sys2Proof.Machine.execCreditReceive lane s
  | .laneSleepRequest p lane v => Sys2Proof.Machine.execLaneSleepRequest p lane v s
  | .laneTxIdle lane => Sys2Proof.Machine.execLaneTxIdle lane s
  | .signalDetect lane => Sys2Proof.Machine.execSignalDetect lane s
  | .laneWakeDone lane tx => Sys2Proof.Machine.execLaneWakeDone lane tx s
  | .lnkPrbsCfgWrite p lane v => Sys2Proof.Machine.execLnkPrbsCfgWrite p lane v s
  | .prbsInjGo p lane v => Sys2Proof.Machine.execPrbsInjGo p lane v s
  | .prbsInjStop p lane => Sys2Proof.Machine.execPrbsInjStop p lane s
  | .prbsCheckerLock lane => Sys2Proof.Machine.execPrbsCheckerLock lane s
  | .timingBlockSend lane offset => Sys2Proof.Machine.execTimingBlockSend lane offset s
  | .timingBlockReceive lane block counts pos => Sys2Proof.Machine.execTimingBlockReceive lane block counts pos s
  | .reportSend lane => Sys2Proof.Machine.execReportSend lane s
  | .reportReceive lane => Sys2Proof.Machine.execReportReceive lane s
  | .servoPeriodEnd => Sys2Proof.Machine.execServoPeriodEnd s
  | .clk10mStamp delta => Sys2Proof.Machine.execClk10mStamp delta s
  | .servoEnWrite p r v => Sys2Proof.Machine.execServoEnWrite p r v s
  | .wagTsSend p r v => Sys2Proof.Machine.execWagTsSend p r v s
  | .markReceive lane blocks => Sys2Proof.Machine.execMarkReceive lane blocks s
  | .fpStagedUpdate => Sys2Proof.Machine.execFpStagedUpdate s
  | .add wk d a b => Sys2Proof.Machine.execAdd wk d a b s
  | .sub wk d a b => Sys2Proof.Machine.execSub wk d a b s
  | .and wk d a b => Sys2Proof.Machine.execAnd wk d a b s
  | .or wk d a b => Sys2Proof.Machine.execOr wk d a b s
  | .xor wk d a b => Sys2Proof.Machine.execXor wk d a b s
  | .shl wk d a b => Sys2Proof.Machine.execShl wk d a b s
  | .shr wk d a b => Sys2Proof.Machine.execShr wk d a b s
  | .sra wk d a b => Sys2Proof.Machine.execSra wk d a b s
  | .slt wk d a b => Sys2Proof.Machine.execSlt wk d a b s
  | .sltu wk d a b => Sys2Proof.Machine.execSltu wk d a b s
  | .mul wk d a b => Sys2Proof.Machine.execMul wk d a b s
  | .mulu wk d a b => Sys2Proof.Machine.execMulu wk d a b s
  | .addi wk d a imm => Sys2Proof.Machine.execAddi wk d a imm s
  | .andi wk d a imm => Sys2Proof.Machine.execAndi wk d a imm s
  | .ori wk d a imm => Sys2Proof.Machine.execOri wk d a imm s
  | .xori wk d a imm => Sys2Proof.Machine.execXori wk d a imm s
  | .slti wk d a imm => Sys2Proof.Machine.execSlti wk d a imm s
  | .lui wk d imm => Sys2Proof.Machine.execLui wk d imm s
  | .shli wk d a sh => Sys2Proof.Machine.execShli wk d a sh s
  | .shri wk d a sh => Sys2Proof.Machine.execShri wk d a sh s
  | .srai wk d a sh => Sys2Proof.Machine.execSrai wk d a sh s
  | .ldb wk d a imm => Sys2Proof.Machine.execLdb wk d a imm s
  | .ldw wk d a imm => Sys2Proof.Machine.execLdw wk d a imm s
  | .ldd wk d a imm => Sys2Proof.Machine.execLdd wk d a imm s
  | .stb wk d a imm => Sys2Proof.Machine.execStb wk d a imm s
  | .stw wk d a imm => Sys2Proof.Machine.execStw wk d a imm s
  | .std wk d a imm => Sys2Proof.Machine.execStd wk d a imm s
  | .rgr wk d a => Sys2Proof.Machine.execRgr wk d a s
  | .rgw wk a b => Sys2Proof.Machine.execRgw wk a b s
  | .rgd wk d a => Sys2Proof.Machine.execRgd wk d a s
  | .beq wk a b off => Sys2Proof.Machine.execBeq wk a b off s
  | .bne wk a b off => Sys2Proof.Machine.execBne wk a b off s
  | .blt wk a b off => Sys2Proof.Machine.execBlt wk a b off s
  | .bge wk a b off => Sys2Proof.Machine.execBge wk a b off s
  | .bltu wk a b off => Sys2Proof.Machine.execBltu wk a b off s
  | .bgeu wk a b off => Sys2Proof.Machine.execBgeu wk a b off s
  | .jmp wk imm => Sys2Proof.Machine.execJmp wk imm s
  | .jal wk imm => Sys2Proof.Machine.execJal wk imm s
  | .jr wk a => Sys2Proof.Machine.execJr wk a s
  | .sin wk a b => Sys2Proof.Machine.execSin wk a b s
  | .sout wk a b => Sys2Proof.Machine.execSout wk a b s
  | .get wk d a => Sys2Proof.Machine.execGet wk d a s
  | .put wk d a => Sys2Proof.Machine.execPut wk d a s
  | .qres wk d a b => Sys2Proof.Machine.execQres wk d a b s
  | .qpush wk d a => Sys2Proof.Machine.execQpush wk d a s
  | .qcommit wk d => Sys2Proof.Machine.execQcommit wk d s
  | .qabort wk d => Sys2Proof.Machine.execQabort wk d s
  | .qpop wk d a b => Sys2Proof.Machine.execQpop wk d a b s
  | .jpop wk => Sys2Proof.Machine.execJpop wk s
  | .jend wk => Sys2Proof.Machine.execJend wk s
  | .lacq wk d a n => Sys2Proof.Machine.execLacq wk d a n s
  | .ltry wk d a n => Sys2Proof.Machine.execLtry wk d a n s
  | .lrel wk d a => Sys2Proof.Machine.execLrel wk d a s
  | .wait wk d mask => Sys2Proof.Machine.execWait wk d mask s
  | .brk wk => Sys2Proof.Machine.execBrk wk s
  | .halt wk => Sys2Proof.Machine.execHalt wk s
  | .waitConditionMet wk => Sys2Proof.Machine.execWaitConditionMet wk s
  | .wrkTimerExpiry wk => Sys2Proof.Machine.execWrkTimerExpiry wk s
  | .wrkDoorbell p wk => Sys2Proof.Machine.execWrkDoorbell p wk s
  | .wrkRun p wk => Sys2Proof.Machine.execWrkRun p wk s
  | .wrkStop p wk => Sys2Proof.Machine.execWrkStop p wk s
  | .wrkReset p wk => Sys2Proof.Machine.execWrkReset p wk s
  | .wrkCtlHalt p wk => Sys2Proof.Machine.execWrkCtlHalt p wk s
  | .haltTakesEffect wk => Sys2Proof.Machine.execHaltTakesEffect wk s
  | .wrkResume p wk => Sys2Proof.Machine.execWrkResume p wk s
  | .wrkCtlStep p wk => Sys2Proof.Machine.execWrkCtlStep p wk s
  | .wrkDbgEn p wk => Sys2Proof.Machine.execWrkDbgEn p wk s
  | .wrkFlush p wk => Sys2Proof.Machine.execWrkFlush p wk s
  | .flushDone wk => Sys2Proof.Machine.execFlushDone wk s
  | .wrkMemDataWrite p wk v => Sys2Proof.Machine.execWrkMemDataWrite p wk v s
  | .wrkKtabWrite p wk v => Sys2Proof.Machine.execWrkKtabWrite p wk v s
  | .honeyAccessTimeout wk => Sys2Proof.Machine.execHoneyAccessTimeout wk s
  | .leaseGrant g lease => Sys2Proof.Machine.execLeaseGrant g lease s
  | .leaseExpiry g lease => Sys2Proof.Machine.execLeaseExpiry g lease s
  | .lseAcquire p g v => Sys2Proof.Machine.execLseAcquire p g v s
  | .lseRelease p g => Sys2Proof.Machine.execLseRelease p g s
  | .lseForce p g v => Sys2Proof.Machine.execLseForce p g v s
  | .correctedWriteback h => Sys2Proof.Machine.execCorrectedWriteback h s
  | .foragerRead h => Sys2Proof.Machine.execForagerRead h s
  | .forageLate h => Sys2Proof.Machine.execForageLate h s
  | .bucketLeak h => Sys2Proof.Machine.execBucketLeak h s
  | .mergeBufferFlush h => Sys2Proof.Machine.execMergeBufferFlush h s
  | .hsmRetireGo p r v => Sys2Proof.Machine.execHsmRetireGo p r v s
  | .hsmRetireClear p r v => Sys2Proof.Machine.execHsmRetireClear p r v s
  | .hsmLogPopLo p r => Sys2Proof.Machine.execHsmLogPopLo p r s
  | .hsmWinRdataLo p r => Sys2Proof.Machine.execHsmWinRdataLo p r s
  | .hsmWinWdataHi p r v => Sys2Proof.Machine.execHsmWinWdataHi p r v s
  | .forageEnWrite p r v => Sys2Proof.Machine.execForageEnWrite p r v s
  | .nvsWrite p r v => Sys2Proof.Machine.execNvsWrite p r v s
  | .nvsRead p r v => Sys2Proof.Machine.execNvsRead p r v s
  | .nvsDelete p r v => Sys2Proof.Machine.execNvsDelete p r v s
  | .nvsCommandDone h => Sys2Proof.Machine.execNvsCommandDone h s
  | .nvsRawLo p r => Sys2Proof.Machine.execNvsRawLo p r s
  | .brownoutWarning => Sys2Proof.Machine.execBrownoutWarning s
  | .humBeatSend h => Sys2Proof.Machine.execHumBeatSend h s
  | .humBeatReceive h via payload crc => Sys2Proof.Machine.execHumBeatReceive h via payload crc s
  | .beatMissed h direct => Sys2Proof.Machine.execBeatMissed h direct s
  | .takeover => Sys2Proof.Machine.execTakeover s
  | .claimRecordCommit h => Sys2Proof.Machine.execClaimRecordCommit h s
  | .clmClaimWrite p r v => Sys2Proof.Machine.execClmClaimWrite p r v s
  | .clmYield p r => Sys2Proof.Machine.execClmYield p r s
  | .clmTake p r => Sys2Proof.Machine.execClmTake p r s
  | .clmDisarm p r => Sys2Proof.Machine.execClmDisarm p r s
  | .clmArm p r => Sys2Proof.Machine.execClmArm p r s
  | .errorEvent g src => Sys2Proof.Machine.execErrorEvent g src s
  | .brokenWire g src => Sys2Proof.Machine.execBrokenWire g src s
  | .severityWindowExpiry g src => Sys2Proof.Machine.execSeverityWindowExpiry g src s
  | .graceExpiry => Sys2Proof.Machine.execGraceExpiry s
  | .grdAck p g v => Sys2Proof.Machine.execGrdAck p g v s
  | .grdFatal p g => Sys2Proof.Machine.execGrdFatal p g s
  | .grdLogPop p g => Sys2Proof.Machine.execGrdLogPop p g s
  | .dumpEndAcked => Sys2Proof.Machine.execDumpEndAcked s
  | .dumpTimeout => Sys2Proof.Machine.execDumpTimeout s
  | .grdPerturbKey p g v => Sys2Proof.Machine.execGrdPerturbKey p g v s
  | .registerWrite p addr v => Sys2Proof.Machine.execRegisterWrite p addr v s
  | .rcRead p addr => Sys2Proof.Machine.execRcRead p addr s
  | .loReadSnapshot p addr => Sys2Proof.Machine.execLoReadSnapshot p addr s
  | .hiWrite p addr v => Sys2Proof.Machine.execHiWrite p addr v s
  | .pageDiscard p addr => Sys2Proof.Machine.execPageDiscard p addr s
  | .chipCommitArm p => Sys2Proof.Machine.execChipCommitArm p s
  | .chipCommitDisarm p => Sys2Proof.Machine.execChipCommitDisarm p s
  | .chipCommitDiscard p => Sys2Proof.Machine.execChipCommitDiscard p s
  | .mgtNop => Sys2Proof.Machine.execMgtNop s
  | .mgtRead addr => Sys2Proof.Machine.execMgtRead addr s
  | .mgtWrite addr v => Sys2Proof.Machine.execMgtWrite addr v s
  | .mgtDbgRead addr => Sys2Proof.Machine.execMgtDbgRead addr s
  | .accessComplete p => Sys2Proof.Machine.execAccessComplete p s
  | .i2cPointerWrite ptr => Sys2Proof.Machine.execI2cPointerWrite ptr s
  | .i2cEstopWrite key => Sys2Proof.Machine.execI2cEstopWrite key s
  | .i2cRead bytes => Sys2Proof.Machine.execI2cRead bytes s
  | .i2cStuck => Sys2Proof.Machine.execI2cStuck s
  | .estop p => Sys2Proof.Machine.execEstop p s
  | .estopClear p => Sys2Proof.Machine.execEstopClear p s
  | .faultLineExternal => Sys2Proof.Machine.execFaultLineExternal s
  | .faultLineReleased => Sys2Proof.Machine.execFaultLineReleased s
  | .jtagBypass => Sys2Proof.Machine.execJtagBypass s
  | .jtagIdcode => Sys2Proof.Machine.execJtagIdcode s
  | .jtagSamplePreload pins => Sys2Proof.Machine.execJtagSamplePreload pins s
  | .jtagExtest drive => Sys2Proof.Machine.execJtagExtest drive s
  | .jtagExtestPulse drive => Sys2Proof.Machine.execJtagExtestPulse drive s
  | .jtagExtestTrain drive => Sys2Proof.Machine.execJtagExtestTrain drive s
  | .regAccessRead addr => Sys2Proof.Machine.execRegAccessRead addr s
  | .regAccessWrite addr v => Sys2Proof.Machine.execRegAccessWrite addr v s
  | .regAccessDbgRead addr => Sys2Proof.Machine.execRegAccessDbgRead addr s
  | .wrkDebugHalt wk => Sys2Proof.Machine.execWrkDebugHalt wk s
  | .wrkDebugResume wk => Sys2Proof.Machine.execWrkDebugResume wk s
  | .wrkDebugStep wk => Sys2Proof.Machine.execWrkDebugStep wk s
  | .powerOnReset => Sys2Proof.Machine.execPowerOnReset s
  | .chipBrownout rail => Sys2Proof.Machine.execChipBrownout rail s
  | .railWarning rail => Sys2Proof.Machine.execRailWarning rail s
  | .vlaneLow => Sys2Proof.Machine.execVlaneLow s
  | .vbiasLow => Sys2Proof.Machine.execVbiasLow s
  | .resetN => Sys2Proof.Machine.execResetN s
  | .startup delays => Sys2Proof.Machine.execStartup delays s
  | .rstSoft p v => Sys2Proof.Machine.execRstSoft p v s
  | .softResetAct => Sys2Proof.Machine.execSoftResetAct s
  | .rstRemote lane v => Sys2Proof.Machine.execRstRemote lane v s
  | .rstRegionGo p v => Sys2Proof.Machine.execRstRegionGo p v s
  | .regionReset d => Sys2Proof.Machine.execRegionReset d s
  | .regionRejoin comb => Sys2Proof.Machine.execRegionRejoin comb s
  | .domainBrownout d => Sys2Proof.Machine.execDomainBrownout d s
  | .lpOverload d => Sys2Proof.Machine.execLpOverload d s
  | .pwrVote p v => Sys2Proof.Machine.execPwrVote p v s
  | .domainEntry d => Sys2Proof.Machine.execDomainEntry d s
  | .entryAbort d => Sys2Proof.Machine.execEntryAbort d s
  | .domainWake d => Sys2Proof.Machine.execDomainWake d s
  | .accessLingerExpiry d => Sys2Proof.Machine.execAccessLingerExpiry d s
  | .enterDeep p => Sys2Proof.Machine.execEnterDeep p s
  | .enterOff p => Sys2Proof.Machine.execEnterOff p s
  | .deepSleepWake src elapsedMs => Sys2Proof.Machine.execDeepSleepWake src elapsedMs s
  | .budgetInterval grants => Sys2Proof.Machine.execBudgetInterval grants s
  | .hkConversion comb raw cm => Sys2Proof.Machine.execHkConversion comb raw cm s
  | .hkRawRead p comb => Sys2Proof.Machine.execHkRawRead p comb s
  | .hkRestart comb => Sys2Proof.Machine.execHkRestart comb s
  | .illegal wk word => Sys2Proof.Machine.execIllegal wk word s
  | .ctrlMalformed lane => Sys2Proof.Machine.execCtrlMalformed lane s
  | .spiErr edges mosi => Sys2Proof.Machine.execSpiErr edges mosi s
  | .prbsLockLoss lane => Sys2Proof.Machine.execPrbsLockLoss lane s
  | .brokenClear g src => Sys2Proof.Machine.execBrokenClear g src s
  | .refclkBad h => Sys2Proof.Machine.execRefclkBad h s
  | .refclkRecovered h => Sys2Proof.Machine.execRefclkRecovered h s
  | .vlaneRestored => Sys2Proof.Machine.execVlaneRestored s
  | .vbiasRestored => Sys2Proof.Machine.execVbiasRestored s
  | .vstbyLow => Sys2Proof.Machine.execVstbyLow s
  | .wakeFromOff => Sys2Proof.Machine.execWakeFromOff s
  | .testLogicReset => Sys2Proof.Machine.execTestLogicReset s

end Sys2Proof.Machine
end

