-- ==== Sys2Proof/Machine/Effects.lean ====
section
/-! DEFINITION. Two frames: what the delivery of events, the honey store and the queue engine leave alone, and what carrying an access
leaves alone. -/

namespace Sys2Proof.Machine

/-- Registers that the delivery of an event, the store and the queue engine count and mark. -/
def noted (k : Nat) : Bool :=
  let g := k / 2 ^ 20 % 2 ^ 8
  let o := k % 2 ^ 12
  decide (o = Reg.EVT_COUNT)
    || (decide (g = 0x05) && (decide (o = Reg.GRD_EVENTS) || decide (o = Reg.GRD_SRC_CNT)))
    || (decide (g = 0x17) && (decide (o = Reg.Q_EVENTS) || decide (o = Reg.Q_RESET_CNT) || decide (o = Reg.Q_NOTICE_LOST)))
    || (decide (g = 0x1B) && (decide (o = Reg.HSM_EVENTS) || decide (o = Reg.HSM_CE_CNT) || decide (o = Reg.HSM_UE_CNT)
        || decide (o = Reg.HSM_REFUSED_CNT) || decide (o = Reg.HSM_RETIRED_ACC_CNT) || decide (o = Reg.HSM_BUCKET_OVF)
        || decide (o = Reg.HSM_BUCKET_OVF_HI) || decide (o = Reg.HSM_LOG_LOST_CNT)))

/-- A honey store that keeps its forager's place, its retired pages and the canonical form of its memory. -/
def HoneyKeeps (x y : Honey) : Prop :=
  y.retired = x.retired ∧ y.pos = x.pos ∧ y.passStart = x.passStart ∧ y.passSec = x.passSec ∧ y.passLate = x.passLate ∧ y.leakTick = x.leakTick ∧
  (Memory.wf x.bytes = true → Memory.wf y.bytes = true)

/-- A hive that keeps its time, trigger, duplex and access parts. -/
def HiveKeeps (x y : Hive) : Prop :=
  y.tb = x.tb ∧ y.trig = x.trig ∧ y.windows = x.windows ∧ y.outstanding = x.outstanding ∧ y.servo = x.servo ∧ y.slots = x.slots ∧
  y.dirPtr = x.dirPtr ∧ y.mram = x.mram ∧ y.nvs = x.nvs ∧ y.nvsState = x.nvsState ∧ y.nvsResult = x.nvsResult ∧ y.ident = x.ident ∧
  y.dup = x.dup ∧ y.accepted = x.accepted ∧ HoneyKeeps x.honey y.honey

/-- The parts of the state that delivery of events leaves alone; `K` names the registers it was asked to mark. -/
structure Quiet (K : Nat → Prop) (s t : State) : Prop where
  pending : t.pending = s.pending
  tick : t.tick = s.tick
  staged : t.staged = s.staged
  upsets : t.upsets = s.upsets
  sels : t.sels = s.sels
  paths : t.paths = s.paths
  stalls : t.stalls = s.stalls
  cells : t.cells = s.cells
  cals : t.cals = s.cals
  blocks : t.blocks = s.blocks
  combs : t.combs = s.combs
  lanes : t.lanes = s.lanes
  domains : t.domains = s.domains
  hks : t.hks = s.hks
  chip : t.chip = s.chip
  hive : ∀ h, HiveKeeps (s.hive h) (t.hive h)
  worker : ∀ w, { t.worker w with openQ := none } = { s.worker w with openQ := none }
  regs : ∀ k, noted k = false → ¬ K k → tfind t.regs k = tfind s.regs k

/-- States that agree but for what carries an access. -/
structure Near (s t : State) : Prop where
  pending : t.pending = s.pending
  tick : t.tick = s.tick
  regs : t.regs = s.regs
  staged : t.staged = s.staged
  upsets : t.upsets = s.upsets
  sels : t.sels = s.sels
  stalls : t.stalls = s.stalls
  hiveA : t.hiveA = s.hiveA
  hiveB : t.hiveB = s.hiveB
  cells : t.cells = s.cells
  cals : t.cals = s.cals
  blocks : t.blocks = s.blocks
  combs : t.combs = s.combs
  lanes : t.lanes = s.lanes
  workers : t.workers = s.workers
  regions : t.regions = s.regions
  hks : t.hks = s.hks
  domain : ∀ d, t.domain d = { s.domain d with access := (t.domain d).access, lastAccess := (t.domain d).lastAccess }
  path : ∀ p, t.path p = { s.path p with astat := (t.path p).astat, rdata := (t.path p).rdata }
  chip : t.chip = { s.chip with mgt := t.chip.mgt, jtagIr := t.chip.jtagIr, jtagDr := t.chip.jtagDr, extest := t.chip.extest }

end Sys2Proof.Machine
end

