-- ==== Sys2Proof/Certificates/Slice0/Obligations.lean ====
section
/-! DEFINITION. The statements for the provers, from the numbered rules of the spec. An access command is stated for every
path that can carry it at once; an event, for every state in which its condition holds. -/

namespace Sys2Proof.Claims

open Sys2Proof.Machine

/-- The command answers a next state, of which `P` holds. -/
def Runs (c : Instr) (s : State) (P : State → Prop) : Prop := ∃ t, exec c s = .next t ∧ P t

/-- The path carries an access to a page of domain `d` at once: the device has power, no access of the path is stalled, and the
domain serves (15_control.md R472, 16_power_reset.md R503). JTAG is not within its boundary tests, which it would leave. -/
def Ready (p : Path) (d : Nat) (s : State) : Prop :=
  pathFree s p = true ∧ (p = .startup ∨ gate s d = .serve) ∧ (p = .jtag → s.chip.extest = false)

/-- The same for an access that a path makes with its side effects: reads through JTAG have none (12_workers.md R403). -/
def ReadyRead (p : Path) (d : Nat) (s : State) : Prop := Ready p d s ∧ p ≠ .jtag

/-- Nothing but what carries an access, what `s` lists as changed, and what the delivery of events marks; `K` names the registers the
access itself wrote or marked. -/
def Served (K : Nat → Prop) (s t : State) : Prop := ∃ u v, Near s u ∧ Quiet K u v ∧ Near v t

/-- The registers of one page. -/
def onPage (pg : Nat) (k : Nat) : Prop := keyPage k = pg

/-- Both hives have a property. -/
def BothHives (s : State) (P : Hive → Prop) : Prop := P s.hiveA ∧ P s.hiveB

/-- Of the hives only the time bases may differ, beside `K` and what the delivery of events marks. -/
def TimeOnly (K : Nat → Prop) (s t : State) : Prop :=
  Quiet K { s with hiveA := { s.hiveA with tb := t.hiveA.tb }, hiveB := { s.hiveB with tb := t.hiveB.tb } } t

/-- The registers of the hives' pages of one group. -/
def onHives (group : Nat) (k : Nat) : Prop := keyPage k = hivePage .a group ∨ keyPage k = hivePage .b group

/-- Holdover as R59 enters it: the frequency word is the held average, nothing is selected and LOCKED is clear. -/
def Held (t : State) : Prop :=
  BothHives t fun x => x.tb.qual.holdover = true ∧ x.tb.qual.locked = false ∧ x.tb.sel = none ∧ x.tb.src = .refclk ∧ (x.tb.core.freq = x.tb.core.holdAvg)

/-- Only the cells differ, and of them only one. -/
def OnlyCell (c : Nat) (s t : State) : Prop := t = { s with cells := t.cells } ∧ ∀ k, k ≠ c → t.cell k = s.cell k

/-- Of the registers only one differs. -/
def OnlyReg (k : Nat) (s t : State) : Prop := ∀ j, j ≠ k → tfind t.regs j = tfind s.regs j

/-- Of the registers only those of `K` differ. -/
def OnlyRegs (K : Nat → Prop) (s t : State) : Prop := ∀ j, ¬ K j → tfind t.regs j = tfind s.regs j

/-- A guard source counts an error event unless its wire is marked broken (14_redundancy_faults.md R451). -/
def SourceCounts (g src : Nat) (s t : State) : Prop :=
  (s.source g src).broken = false → t.reg (grdPage g) Reg.GRD_SRC_CNT src = satInc (s.reg (grdPage g) Reg.GRD_SRC_CNT src) 1

/-- A bit of a register is set. -/
def Marked (t : State) (pg off n : Nat) : Prop := bit (t.reg pg off) n = true

end Sys2Proof.Claims

open Sys2Proof Sys2Proof.Machine Sys2Proof.Claims

/-! ### 02_timebase.md -/

/-- At each tick the tick count rises by one and the time word by 1,000 fu, in both hives and in all three copies (R46, R54, R30); the
spine stands while the chip sleeps or is off and while power is low. A second boundary starts the PPS_OUT pulse where PPS_EN is set, the sync state allows it and TIM_OUT_DLY holds no whole tick, in the hive of the
higher claim alone; it shows the whole seconds in holdover and takes up the announced UTC offset (R30, R59, R72–R74); the pulse falls after its
width; a read of TIM_NOW_0 snapshots the whole time word (R47). The model's own choice in it: log entry 92. -/
def Obligations.TicksSecondsAndNow : Prop :=
  (∀ s : State, s.chip.state ≠ .deep → s.chip.state ≠ .off → s.chip.held = false → s.chip.railsLow = [] →
    s.now + 1000 < 2 ^ 48 * 1024000000000 →
    Runs .tick s fun t => t.tick = s.tick + 1 ∧ ∀ h, t.fuOf h = s.now + 1000 ∧
      (t.hive h).tb.core0 = (t.hive h).tb.core ∧ (t.hive h).tb.core1 = (t.hive h).tb.core ∧ (t.hive h).tb.core2 = (t.hive h).tb.core) ∧
  (∀ s : State, s.chip.state = .deep ∨ s.chip.state = .off ∨ s.chip.held = true ∨ s.chip.railsLow ≠ [] → exec .tick s = .next s) ∧
  (∀ s : State, s.tb.core.nsec = 0 → s.tb.core.frac = 0 → s.tb.secondTick ≠ some s.tick →
    Runs .secondBoundary s fun t =>
      ((bit (s.cfg 0x10 Reg.TIM_OUT_CTL) 0 = true ∧ (s.tb.qual.sync ≠ 0 ∨ bit (s.cfg 0x10 Reg.TIM_OUT_CTL) 2 = true)) →
        0 ≤ (s.cfg 0x10 Reg.TIM_OUT_DLY).toInt → (s.cfg 0x10 Reg.TIM_OUT_DLY).toInt < 1000 →
        BothHives t (fun x => x.tb.ppsHigh = true ∧ x.tb.ppsFall = s.tick + 1024 * fld (s.cfg 0x10 Reg.TIM_OUT_CTL) 22 4) ∧
        ∀ h, ppsOut t h = decide (h = higherClaim s)) ∧
      (s.tb.qual.holdover = true → ∀ h,
        t.reg (hivePage h 0x10) Reg.TIM_HOLD_SEC = w32 (min (2 ^ 32 - 1) ((s.tick - s.tb.holdTick) / 1024000000))) ∧
      t.cfg 0x10 Reg.TIM_UTC_OFFSET =
        (if s.reg64 (cfgPage 0x10) Reg.TIM_UTC_NEXT_SEC_LO % 2 ^ 48 = s.tb.core.sec.toNat then s.cfg 0x10 Reg.TIM_UTC_NEXT_OFFSET
         else s.cfg 0x10 Reg.TIM_UTC_OFFSET) ∧
      TimeOnly (onHives 0x10) s t) ∧
  (∀ s : State, s.tb.ppsHigh = true → s.tb.ppsFall ≤ s.tick →
    Runs .ppsOutFall s fun t => BothHives t (fun x => x.tb.ppsHigh = false) ∧
      t = { s with hiveA := { s.hiveA with tb := t.hiveA.tb }, hiveB := { s.hiveB with tb := t.hiveB.tb } }) ∧
  (∀ (p : Path) (r : HiveRef) (s : State), ReadyRead p (hiveDom (hiveOf s r)) s →
    Runs (.timNowSnapshot p r) s fun t =>
      let now := timeWord (s.hive (hiveOf s r)).tb.core (s.hive (hiveOf s r)).tb.qual
      (t.path p).rdata = part now 0 ∧ (t.path p).astat = 0 ∧ t.sel p (cfgPage 0x10) Reg.TIM_NOW_1 = part now 1 ∧
      t.sel p (cfgPage 0x10) Reg.TIM_NOW_2 = part now 2 ∧ Near { s with sels := t.sels } t)

/-- A candidate whose loss is detected becomes ABSENT, one whose signal appears starts to qualify, one whose EN is cleared is DISABLED at
once; where it was the selected one, holdover is entered, and for a lane's partner MASTER_CHANGE is raised (R40, R59, R64, R66, R68,
10_time_transfer.md R346); a candidate that is still there is left alone; a bad REFCLK is noted and guarded (R78). What a gate end makes of an enabled candidate that is where it should be and whose gate gave a result, no setting being new and no step
having applied in the gate (R63, R64): inside tolerance it gains qualification, outside it loses it. The result is that of its judging slot:
for the external reference what was measured, for a lane the regression of its stamps. A gate in which a step applied changes no state. The
model's own choice in it: log entry 93. -/
def Obligations.ReferencesAndGates : Prop :=
  (∀ (c : Fin 4) (clk10m : Bool) (s : State),
    let lost : Prop := if c.val = 2 then clk10m = true ∨ ppsLost s = true else candLaneOk s c.val = false ∨ laneLost s (candLane s c.val) = true
    (¬ lost → exec (.referenceLoss ⟨c, clk10m⟩) s = .next s) ∧
    (lost → (s.cand c.val).state ≠ .disabled → (s.cand c.val).state ≠ .absent →
     Runs (.referenceLoss ⟨c, clk10m⟩) s fun t => (t.cand c.val).state = .absent ∧ (t.cand c.val).count = 0 ∧
      (s.tb.sel = some c.val → Held t) ∧
      (c.val ≠ 2 → s.tb.sel = some c.val → Marked t (hivePage (higherClaim s) 0x1A) Reg.WAG_EVENTS 1) ∧
      TimeOnly (fun k => onHives 0x10 k ∨ onHives 0x1A k) s t)) ∧
  (∀ (c : Fin 4) (s : State), candLaneOk s c.val = true → (c.val = 2 → ppsLost s = false) → (s.cand c.val).state = .absent →
    Runs (.signalPresent c) s fun t => (t.cand c.val).state = .qualifying ∧ (t.cand c.val).present = true ∧ (t.cand c.val).count = 0 ∧
      t = { s with hiveA := { s.hiveA with tb := t.hiveA.tb }, hiveB := { s.hiveB with tb := t.hiveB.tb } }) ∧
  (∀ (p : Path) (c : Fin 4) (s : State), Ready p (hiveDom (higherClaim s)) s →
    Runs (.candidateDisable p c) s fun t => (t.cand c.val).state = .disabled ∧ bit (t.cfg 0x11 (candCfgReg c.val)) 0 = false ∧
      (s.tb.sel = some c.val → (s.cand c.val).state ≠ .disabled → Held t)) ∧
  (∀ (h : HiveId) (s : State), (s.hive h).tb.refclkBad = false →
    Runs (.refclkBad h) s fun t => (t.hive h).tb.refclkBad = true ∧
      ((s.source (hiveDom h) 7).broken = false →
        t.reg (grdPage (hiveDom h)) Reg.GRD_SRC_CNT 7 = satInc (s.reg (grdPage (hiveDom h)) Reg.GRD_SRC_CNT 7) 1) ∧
      TimeOnly (fun _ => False) s t) ∧
  (∀ (h : HiveId) (s : State), Runs (.refclkRecovered h) s fun t => (t.hive h).tb.refclkBad = false ∧
      t = { s with hiveA := { s.hiveA with tb := t.hiveA.tb }, hiveB := { s.hiveB with tb := t.hiveB.tb } }) ∧
  (∀ (drift : Int) (ext : Option (Int × Int)) (c : Fin 4) (f p : Int) (s : State),
    s.tb.core.nsec = 0 → s.tb.core.frac = 0 → s.tb.gateTick ≠ some s.tick → s.tb.gateStep = false → s.chip.refWrites = [] →
    (judgeResult c.val drift ext s).2 = some (f, p) → bit (s.cfg 0x11 (candCfgReg c.val)) 0 = true → candLaneOk s c.val = true →
    Runs (.gateEnd ⟨drift, ext⟩) s fun t =>
      let x := s.cand c.val
      let y := t.cand c.val
      let inside := f.natAbs ≤ (s.cfg 0x11 Reg.REF_FTOL).toNat ∧ p.natAbs ≤ (s.cfg 0x11 Reg.REF_PTOL).toNat
      let enough := fld (s.cfg 0x11 Reg.REF_QUAL_TIME) 9 0 ≤ x.count + 1
      (c.val = 2 → ext = some (f, p)) ∧
      (x.state ≠ .disabled → y.freq = sat32 f ∧ y.phase = sat32 p) ∧
      (x.state = .qualifying → x.fresh = false → inside → enough → y.state = .qualified) ∧
      (x.state = .qualifying → x.fresh = false → inside → ¬ enough → y.state = .qualifying ∧ y.count = x.count + 1) ∧
      (x.state = .qualifying → x.fresh = false → ¬ inside → y.state = .qualifying ∧ y.count = 0) ∧
      (x.state = .qualified → inside → y.state = .qualified) ∧
      (x.state = .qualified → ¬ inside → y.state = .suspect ∧ y.count = 1) ∧
      (x.state = .suspect → inside → y.state = .qualified) ∧
      (x.state = .suspect → ¬ inside → enough → y.state = .qualifying) ∧
      (x.state = .suspect → ¬ inside → ¬ enough → y.state = .suspect ∧ y.count = x.count + 1) ∧
      t.tick = s.tick ∧ t.cells = s.cells ∧ t.blocks = s.blocks ∧ t.lanes = s.lanes ∧ t.chip = s.chip) ∧
  (∀ (drift : Int) (ext : Option (Int × Int)) (c : Fin 4) (s : State),
    s.tb.core.nsec = 0 → s.tb.core.frac = 0 → s.tb.gateTick ≠ some s.tick → s.tb.gateStep = true →
    Runs (.gateEnd ⟨drift, ext⟩) s fun t => (t.cand c.val) = { s.cand c.val with fresh := (t.cand c.val).fresh } ∧ t.tb.gateStep = false ∧
      t.tick = s.tick ∧ t.cells = s.cells ∧ t.blocks = s.blocks ∧ t.lanes = s.lanes)

/-- A GO latches a step for a frame not yet begun or for PPS_IN, refuses EXPIRED one for a frame begun, and BUSY an immediate one while
frames are built (R69); an immediate step moves time by its whole ticks; the edge of PPS_IN applies a step that waits for it, and its
absence refuses it. An edge of PPS_IN more than 1 µs early is no edge of the second (R40). -/
def Obligations.StepsAreArmedAndApplied : Prop :=
  (∀ (p : Path) (r : HiveRef) (v : W32) (s : State), Ready p (hiveDom (hiveOf s r)) s →
    let f := BitVec.ofNat 40 (s.reg64 (cfgPage 0x10) Reg.TIM_STEP_FRAME_LO)
    Runs (.timStepGo p r v) s fun t =>
      (fld v 1 0 = 0 ∧ 0 < frameDiff f s.frameNow ∨ fld v 1 0 = 1 →
        t.chip.stepState = 1 ∧ ∃ a, t.chip.step = some a ∧ a.mode = fld v 1 0 ∧ a.abs = bit v 2 ∧ a.neg = bit v 3 ∧ a.frame = f ∧ a.goTick = s.tick) ∧
      (s.chip.step = none → fld v 1 0 = 0 → frameDiff f s.frameNow ≤ 0 → t.chip.stepState = 3 ∧ t.chip.step = none) ∧
      (s.chip.step = none → (fld v 1 0 = 2 ∧ s.chip.framing = true) ∨ fld v 1 0 = 3 → t.chip.stepState = 4 ∧ t.chip.step = none) ∧
      (fld v 1 0 = 2 → s.chip.framing = false →
        let x : Int := (1024 * (1000000000 * (s.reg64 (cfgPage 0x10) Reg.TIM_STEP_SEC_LO % 2 ^ 48) + fld (s.cfg 0x10 Reg.TIM_STEP_NSEC) 29 0)
          + fld (s.cfg 0x10 Reg.TIM_STEP_FRAC) 9 0 : Nat)
        let d : Int := if bit v 2 then x - s.now else if bit v 3 then -x else x
        0 ≤ s.now + 1000 * d.fdiv 1000 → s.now + 1000 * d.fdiv 1000 < 2 ^ 48 * 1024000000000 →
        t.chip.stepState = 2 ∧ t.now = s.now + 1000 * d.fdiv 1000)) ∧
  (∀ (delta : Fin 1000) (s : State), Runs (.ppsInEdge delta) s fun t =>
    (BothHives t fun x => x.tb.lastPps = (if ∃ p, s.tb.lastPps = some p ∧ monoOf s delta.val + 1024000 < p + 1024000000000 then s.tb.lastPps
      else some (monoOf s delta.val))) ∧
    ((∀ a, s.chip.step = some a → a.mode ≠ 1) →
      t.chip = s.chip ∧ (∀ h, t.fuOf h = s.fuOf h) ∧ BothHives t (fun x => x.servo.extPps = some (s.now + 999 - (delta.val : Int)))) ∧
    (∀ a, s.chip.step = some a → a.mode = 1 → t.chip.step = none ∧ t.chip.stepState = 2)) ∧
  (∀ (a : StepArm) (s : State), s.chip.step = some a → a.mode = 1 → a.goTick + 1536000000 ≤ s.tick →
    Runs .stepPpsTimeout s fun t => t.chip = { s.chip with step := none, stepState := 3 } ∧
      Quiet (onHives 0x10) { s with chip := t.chip } t)

/-- The boundary of a frame at which nothing waits to apply: the frame counter of both hives rises by one, the spine delays measured in the
frame before come into force (R56), every worker that is not STOPPED sees FRAME (12_workers.md R385), and no frame is built while the time
is UNSYNC or COARSE (R45). The model's own choices in it: log entry 33. -/
def Obligations.FrameBoundaryCounts : Prop :=
  ∀ (trips : List Nat) (s : State), s.chip.started = true → s.chip.state ≠ .deep → s.chip.state ≠ .off → boundaryDue s = true →
    s.hiveA.dup.pendingTake = false → s.hiveB.dup.pendingTake = false → s.chip.step = none → s.chip.commitArmed = none → s.chip.plcArmed = none →
    Runs (.frameBoundary trips) s fun t =>
      (∀ h, (t.hive h).tb.core.frame = s.frameNow + 1) ∧ t.chip.spineNow = s.chip.spineNext ∧ t.chip.spinePrev = s.chip.spineNow ∧
      (∀ w, (s.worker w).state ≠ .stopped → (t.worker w).frameEv = true) ∧ t.tick = s.tick ∧ t.now = s.now ∧
      (s.tb.qual.unsync = true ∨ s.tb.qual.coarse = true → t.chip.framing = false)

/-! ### 03_cells.md -/

/-- A leading edge of an enabled threshold of a cell that captures, is not muted, blanked or in clock-monitor mode, and has no pulse of that
threshold open: it opens a pulse, and takes the lowest free interpolator; with none free or calibrating it is stamped coarse and counted (R89,
R91, R92). -/
def Obligations.LeadingEdgeOpensPulse : Prop :=
  ∀ (c : Fin 1152) (th : Fin 4) (delta : Fin 1000) (s : State),
    cEn (s.cellCfg c.val) = true → capturing s (c.val / 192) = true → cCm (s.cellCfg c.val) = false → thOn s c.val th.val = true →
    (s.cell c.val).muted = false → (s.cell c.val).blankEnd = none → openPulse (s.cell c.val) th.val = none →
    (lget {} (s.cell c.val).discs th.val).ignoreTrail = false →
    Runs (.discriminatorEdge c [⟨th, true, delta, false⟩]) s fun t =>
      (∃ p, (t.cell c.val).pulses = (s.cell c.val).pulses ++ [p] ∧ p.th = th.val ∧ p.leadM = 1000 * s.tick + 999 - delta.val ∧
        p.leadLabel = s.now + 999 - (delta.val : Int) ∧ p.trail = none ∧ p.ovf = false ∧ p.muted = false ∧
        (∀ i, (s.cell c.val).itps.findIdx? (fun x => x = .free) = some i →
          p.lead = .waiting i ∧ (t.cell c.val).itps = lset (s.cell c.val).itps i (.edge th.val true (s.now + 1000) false) ∧ OnlyCell c.val s t) ∧
        (pickItp (s.cell c.val) = none →
          p.lead = .known (s.now + 500) true ∧ (t.cell c.val).itps = (s.cell c.val).itps ∧
          t.reg (blkPage (c.val / 16)) Reg.CELL_COARSE_CNT = satInc (s.reg (blkPage (c.val / 16)) Reg.CELL_COARSE_CNT) 1)) ∧
      (t.cell c.val).fifo = (s.cell c.val).fifo ∧ (∀ k, k ≠ c.val → t.cell k = s.cell k) ∧
      t = { s with cells := t.cells, regs := t.regs } ∧ OnlyRegs (onPage (blkPage (c.val / 16))) s t

/-- A conversion with an index of the table completes: the interpolator frees; a leading edge takes its raw time from the table in force, a
trailing one completes the record of its pulse, with TOT in units of 16 fu (R93, R96, R122, R127); a calibration edge fills the bin of its
interpolator's histogram (R129, R130), and nothing once the cell's EN is clear (R128); a clock-monitor edge is a stamp of its corrected time for the
slots that name the cell (R105). A link interpolator fills its own histogram (10_time_transfer.md R331). -/
def Obligations.ConversionGivesTime : Prop :=
  (∀ (c : Fin 1152) (i : Fin 4) (count : Nat) (s : State), count ≤ 399 →
    let x := s.cell c.val
    let k := s.cal (4 * c.val + i.val)
    (∀ (th : Nat) (tickFu : Int) (p : Pulse), lget .free x.itps i.val = .edge th true tickFu false → x.pulses = [p] → p.th = th →
      p.lead = .waiting i.val → p.trail = none → p.ovf = false →
      Runs (.conversionComplete (.cell c) i count) s fun t =>
        (t.cell c.val).itps = lset x.itps i.val .free ∧
        (t.cell c.val).pulses = [{ p with lead := .known (tickFu - (((entryOf k.table count).1 + 32) / 64 : Nat)) false }] ∧
        (t.cell c.val).fifo = x.fifo ∧ OnlyCell c.val s t) ∧
    (∀ (th : Nat) (tickFu u : Int) (cl : Bool) (p : Pulse), lget .free x.itps i.val = .edge th false tickFu false → x.pulses = [p] → p.th = th →
      p.lead = .known u cl → p.trail = some (.waiting i.val) → p.ovf = false → x.fifo.length < 16 →
      Runs (.conversionComplete (.cell c) i count) s fun t =>
        (t.cell c.val).itps = lset x.itps i.val .free ∧ (t.cell c.val).pulses = [] ∧ (t.cell c.val).wrPos = x.wrPos + 1 ∧
        (∃ r, (t.cell c.val).fifo = x.fifo ++ [r] ∧ r.th = th ∧ r.fu = u ∧ r.flags = recFlags cl false false p.pileup p.cal ∧
          (let d := tickFu - (((entryOf k.table count).1 + 32) / 64 : Nat) - u
           r.tot = if d < 0 then 0 else min 16383 ((d + 8) / 16).toNat)) ∧ OnlyCell c.val s t) ∧
    (lget .free x.itps i.val = .calib → cEn (s.cellCfg c.val) = true → k.waiting = false →
      Runs (.conversionComplete (.cell c) i count) s fun t =>
        (t.cell c.val).itps = lset x.itps i.val .free ∧
        tget 0 (t.cal (4 * c.val + i.val)).hist count = tget 0 k.hist count + 1 ∧
        (∀ n, n ≠ count → tget 0 (t.cal (4 * c.val + i.val)).hist n = tget 0 k.hist n) ∧
        (t.cal (4 * c.val + i.val)).fill = k.fill + 1 ∧
        (t.cal (4 * c.val + i.val)).waiting = decide (2 ^ histExp (s.reg (blkPage (c.val / 16)) Reg.CAL_CTL) ≤ k.fill + 1) ∧
        (∀ n, n ≠ 4 * c.val + i.val → t.cal n = s.cal n) ∧ (t.cell c.val).pulses = x.pulses ∧ t.regs = s.regs) ∧
    (lget .free x.itps i.val = .calib → cEn (s.cellCfg c.val) = false →
      Runs (.conversionComplete (.cell c) i count) s fun t => (t.cell c.val).itps = lset x.itps i.val .free ∧ OnlyCell c.val s t) ∧
    (∀ (tickFu : Int) (index : BitVec 32), lget .free x.itps i.val = .stampCm tickFu index false →
      Runs (.conversionComplete (.cell c) i count) s fun t =>
        (t.cell c.val).itps = lset x.itps i.val .free ∧ (∀ j, j ≠ c.val → t.cell j = s.cell j) ∧
        (∀ h n, (s.rg h n).state = 1 ∨ (s.rg h n).gate.isSome = true → rgReserved s n = false →
          fld (rgReg s n Reg.CAL_RG_CFG) 1 0 = 1 → fld (rgReg s n Reg.CAL_RG_CFG) 14 4 = c.val →
          (t.rg h n).stamps = (s.rg h n).stamps ++
            [(some index, shortOf (corrected s c.val (tickFu - (((entryOf k.table count).1 + 32) / 64 : Nat))))]) ∧
        t.regs = s.regs ∧ t.blocks = s.blocks ∧ t.lanes = s.lanes)) ∧
  (∀ (h : HiveId) (l : Fin 20) (i : Fin 4) (count : Nat) (s : State), l.val ∈ (s.hive h).servo.linkCal → count ≤ 399 →
    let m := 64 * linkSite h + l.val
    (s.cal m).waiting = false →
    Runs (.conversionComplete (.link h l) i count) s fun t =>
      tget 0 (t.cal m).hist count = tget 0 (s.cal m).hist count + 1 ∧ (t.cal m).fill = (s.cal m).fill + 1 ∧
      l.val ∉ (t.hive h).servo.linkCal ∧ (∀ n, n ≠ m → t.cal n = s.cal n) ∧ t.regs = s.regs ∧ t.cells = s.cells)

/-- A pulse still open 256 ns after its leading edge is counted, its trailing edge will be ignored, and its record carries TOT_OVF and 16,383
(R97); blanking ends at its instant (R87); a random edge is taken up by the interpolator the pointer names, with all four free (R129), or by a lane's
link interpolator (10_time_transfer.md R331); a cell's marker stands behind its last record of the frame, once no pulse of the frame can come any
more (R102, 05_blocks_regions.md R157). -/
def Obligations.CellEvents : Prop :=
  (∀ (c : Fin 1152) (th : Fin 4) (p : Pulse) (u : Int) (cl : Bool) (s : State), (s.cell c.val).pulses = [p] →
    p.th = th.val → p.lead = .known u cl → p.trail = none → p.ovf = false → p.muted = false → p.leadM + 262144 < 1000 * s.tick + 1000 →
    (s.cell c.val).fifo.length < 16 →
    Runs (.pulseTimeout c th) s fun t =>
      t.reg (blkPage (c.val / 16)) Reg.CELL_LONG_CNT = satInc (s.reg (blkPage (c.val / 16)) Reg.CELL_LONG_CNT) 1 ∧
      (t.cell c.val).pulses = [] ∧
      (∃ r, (t.cell c.val).fifo = (s.cell c.val).fifo ++ [r] ∧ r.th = th.val ∧ r.fu = u ∧ r.tot = 16383 ∧ r.flags.getLsbD 2 = true) ∧
      (th.val < (s.cell c.val).discs.length → (lget {} (t.cell c.val).discs th.val).ignoreTrail = true) ∧
      t = { s with cells := t.cells, regs := t.regs } ∧ (∀ k, k ≠ c.val → t.cell k = s.cell k) ∧
      OnlyReg (rkey (blkPage (c.val / 16)) Reg.CELL_LONG_CNT 0) s t) ∧
  (∀ (c : Fin 1152) (e : Nat) (s : State), (s.cell c.val).blankEnd = some e → e < 1000 * s.tick + 1000 →
    Runs (.blankingEnd c) s fun t => t.cell c.val = { s.cell c.val with blankEnd := none } ∧ OnlyCell c.val s t) ∧
  (∀ (c : Fin 1152) (s : State), bit (s.reg (blkPage (c.val / 16)) Reg.CAL_CTL) 0 = true → cEn (s.cellCfg c.val) = true →
    capturing s (c.val / 192) = true → (s.cell c.val).itps = [.free, .free, .free, .free] →
    passedOver s c.val (nextCal s c.val (s.cell c.val).calPtr) = false →
    Runs (.randomEdgeOffer (.cell c)) s fun t =>
      (t.cell c.val).itps = lset [.free, .free, .free, .free] (nextCal s c.val (s.cell c.val).calPtr) .calib ∧
      (t.cell c.val).pulses = (s.cell c.val).pulses ∧ OnlyCell c.val s t) ∧
  (∀ (h : HiveId) (l : Fin 20) (s : State), s.chip.started = true → (s.domain (hiveDom h)).inReset = false →
    (s.domain (hiveDom h)).state = .run ∨ (s.domain (hiveDom h)).state = .idle → (s.cal (64 * linkSite h + l.val)).waiting = false →
    Runs (.randomEdgeOffer (.link h l)) s fun t => l.val ∈ (t.hive h).servo.linkCal ∧ t.regs = s.regs ∧ t.cells = s.cells ∧ t.cals = s.cals) ∧
  (∀ (c : Fin 1152) (k : Slot) (s : State), (s.block (c.val / 16)).slots = [k] → k.markers.getLsbD (c.val % 16) = false →
    (s.cell c.val).markers = [] → k.drainTick.isSome = true ∨ outPassed s (c.val / 16) k.stop = true → framePending s c.val k.frame = false →
    slotOver s c.val k = true →
    (let own (r : RawRec) : Prop := frameDiff (frameOf s (corrected s c.val r.fu)) k.frame ≤ 0
     ∀ before after, (s.cell c.val).fifo = before ++ after → (∀ r ∈ after, ¬ own r) → (before = [] ∨ ∃ r, before.getLast? = some r ∧ own r) →
     Runs (.eofMarker c) s fun t =>
      (before ≠ [] → (t.cell c.val).markers = [(k.frame, (s.cell c.val).rdPos + before.length)]) ∧
      (before = [] → (t.cell c.val).markers = [] ∧
        ∃ q, (t.block (c.val / 16)).slots = [q] ∧ q.markers.getLsbD (c.val % 16) = true) ∧
      (t.cell c.val).fifo = (s.cell c.val).fifo ∧ t = { s with cells := t.cells, blocks := t.blocks } ∧ ∀ j, j ≠ c.val → t.cell j = s.cell j))

/-- The injector through its registers: RUN starts the sequencer at START_SEG, at once or at the next boundary, is ignored with VALUE while the
emergency stop is latched (15_control.md R488), and clearing it stops the sequencer and discards requests (R110); a jump request is pending, or is
marked ignored while the sequencer is IDLE (R109). Each sample injects charge into the masked cells at its due instant, and at a last sample a request that came before is bound (R108,
R109); a segment that has ended is followed by the bound target, by its NEXT segment, or by the end with DONE (R109, R110). -/
def Obligations.InjectorRuns : Prop :=
  (∀ (p : Path) (blk : Fin 72) (v : W32) (s : State), Ready p (blk.val / 12) s →
    bit (s.reg (blkPage blk.val) Reg.INJ_CTL) 0 = false →
    Runs (.injRun p blk v) s fun t =>
      (s.chip.estop = false → bit v 1 = false → (t.block blk.val).inj.state = 2 ∧ (t.block blk.val).inj.seg = fld v 13 8 ∧
        (t.block blk.val).inj.sample = 0 ∧ (t.block blk.val).inj.segStart = s.tick ∧
        (t.block blk.val).inj.count = fld (s.reg (blkPage blk.val) Reg.INJ_SEG_B (fld v 13 8)) 31 24 + 1 ∧
        (t.block blk.val).inj.interval = max 64 (fld (s.reg (blkPage blk.val) Reg.INJ_SEG_B (fld v 13 8)) 23 0) ∧
        (t.block blk.val).inj.mask = (s.reg (blkPage blk.val) Reg.INJ_SEG_A (fld v 13 8)).extractLsb' 12 16) ∧
      (s.chip.estop = false → bit v 1 = true → (t.block blk.val).inj.state = 1 ∧ (t.block blk.val).inj.seg = fld v 13 8) ∧
      (s.chip.estop = false → bit (t.reg (blkPage blk.val) Reg.INJ_CTL) 0 = true) ∧
      (s.chip.estop = true → (t.block blk.val).inj = (s.block blk.val).inj ∧ bit (t.reg (blkPage blk.val) Reg.INJ_CTL) 0 = false ∧
        Marked t (blkPage blk.val) Reg.ERR_STATUS 3) ∧
      (∀ k, k ≠ blk.val → t.block k = s.block k) ∧ Served (onPage (blkPage blk.val)) { s with blocks := t.blocks } t) ∧
  (∀ (p : Path) (blk : Fin 72) (v : W32) (s : State), Ready p (blk.val / 12) s →
    bit (s.reg (blkPage blk.val) Reg.INJ_CTL) 0 = true →
    Runs (.injStop p blk v) s fun t =>
      (t.block blk.val).inj.state = 0 ∧ (t.block blk.val).inj.pend = none ∧ (t.block blk.val).inj.bound = none ∧
      bit (t.reg (blkPage blk.val) Reg.INJ_CTL) 0 = false ∧
      (∀ k, k ≠ blk.val → t.block k = s.block k) ∧ Served (onPage (blkPage blk.val)) { s with blocks := t.blocks } t) ∧
  (∀ (p : Path) (blk : Fin 72) (v : W32) (s : State), Ready p (blk.val / 12) s → bit v 8 = true →
    Runs (.injJump p blk v) s fun t =>
      ((s.block blk.val).inj.state ≠ 0 → (t.block blk.val).inj = { (s.block blk.val).inj with pend := some (fld v 5 0, s.tick) }) ∧
      ((s.block blk.val).inj.state = 0 → t.block blk.val = s.block blk.val ∧ Marked t (blkPage blk.val) Reg.INJ_EVENTS 2) ∧
      (∀ k, k ≠ blk.val → t.block k = s.block k) ∧ Served (onPage (blkPage blk.val)) { s with blocks := t.blocks } t) ∧
  (∀ (blk : Fin 72) (s : State),
    let i := (s.block blk.val).inj
    let due := i.segStart + i.sample * i.interval
    i.state = 2 → i.sample < i.count → due ≤ s.tick →
    Runs (.injSample blk) s fun t =>
      (∀ k, k < 16 → t.cell (16 * blk.val + k) =
        if i.mask.getLsbD k then { s.cell (16 * blk.val + k) with injected := some (1000 * due) } else s.cell (16 * blk.val + k)) ∧
      (t.block blk.val).inj.sample = i.sample + 1 ∧
      (∀ seg w, i.pend = some (seg, w) → i.sample + 1 = i.count → w < due →
        (t.block blk.val).inj.bound = some seg ∧ (t.block blk.val).inj.pend = none) ∧
      (∀ seg w, i.pend = some (seg, w) → i.sample + 1 < i.count ∨ due ≤ w →
        (t.block blk.val).inj.bound = i.bound ∧ (t.block blk.val).inj.pend = i.pend) ∧
      t = { s with cells := t.cells, blocks := t.blocks }) ∧
  (∀ (blk : Fin 72) (s : State),
    let i := (s.block blk.val).inj
    let stop := i.segStart + i.count * i.interval
    i.state = 2 → i.count ≤ i.sample → stop ≤ s.tick →
    Runs (.segmentEnd blk) s fun t =>
      (∀ seg, i.bound = some seg → (t.block blk.val).inj.state = 2 ∧ (t.block blk.val).inj.seg = seg ∧ (t.block blk.val).inj.segStart = stop ∧
        (t.block blk.val).inj.sample = 0 ∧ (t.block blk.val).inj.bound = none ∧ Marked t (blkPage blk.val) Reg.INJ_EVENTS 1) ∧
      (i.bound = none → i.stop = true → (t.block blk.val).inj.state = 0 ∧ bit (t.reg (blkPage blk.val) Reg.INJ_CTL) 0 = false ∧
        Marked t (blkPage blk.val) Reg.INJ_EVENTS 0) ∧
      (i.bound = none → i.stop = false → (t.block blk.val).inj.state = 2 ∧ (t.block blk.val).inj.seg = i.next ∧
        (t.block blk.val).inj.segStart = stop ∧ (t.block blk.val).inj.sample = 0) ∧
      Quiet (onPage (blkPage blk.val)) { s with blocks := t.blocks } t)

/-- The bias output: a target is taken and the output slews toward it, unless it is there already; the emergency stop makes the write one of VALUE
(R113, R114, 15_control.md R488); each step moves one code toward the target, and DONE tells that it is reached (R112); an overload is marked and
guarded (R115). -/
def Obligations.BiasMovesToTarget : Prop :=
  (∀ (p : Path) (blk : Fin 72) (v : W32) (s : State), Ready p (blk.val / 12) s →
    Runs (.biasTargetWrite p blk v) s fun t =>
      (s.chip.estop = false → t.reg (blkPage blk.val) Reg.BIAS_TARGET = w32 (fld v 11 0)) ∧
      (s.chip.estop = false → (s.block blk.val).biasNow = fld v 11 0 →
        (t.block blk.val).slewing = false ∧ Marked t (blkPage blk.val) Reg.BIAS_EVENTS 0) ∧
      (s.chip.estop = false → (s.block blk.val).biasNow ≠ fld v 11 0 → (t.block blk.val).slewing = true ∧
        t.reg (blkPage blk.val) Reg.BIAS_EVENTS = s.reg (blkPage blk.val) Reg.BIAS_EVENTS ∧
        ((s.block blk.val).slewing = true → (t.block blk.val).biasNext = (s.block blk.val).biasNext)) ∧
      (s.chip.estop = true → t.reg (blkPage blk.val) Reg.BIAS_TARGET = s.reg (blkPage blk.val) Reg.BIAS_TARGET ∧
        t.block blk.val = s.block blk.val ∧ Marked t (blkPage blk.val) Reg.ERR_STATUS 3) ∧
      (t.block blk.val).biasNow = (s.block blk.val).biasNow ∧ (∀ k, k ≠ blk.val → t.block k = s.block k) ∧
      Served (onPage (blkPage blk.val)) { s with blocks := t.blocks } t) ∧
  (∀ (blk : Fin 72) (s : State),
    let x := s.block blk.val
    let target := fld (s.reg (blkPage blk.val) Reg.BIAS_TARGET) 11 0
    x.slewing = true → x.biasNext ≤ s.tick → x.biasNow ≠ target →
    Runs (.biasStep blk) s fun t =>
      let n := if x.biasNow < target then x.biasNow + 1 else x.biasNow - 1
      t.block blk.val = { x with biasNow := n, biasNext := x.biasNext + biasPeriod s blk.val, slewing := decide (n ≠ target) } ∧
      (n = target → Marked t (blkPage blk.val) Reg.BIAS_EVENTS 0) ∧
      (n ≠ target → t.reg (blkPage blk.val) Reg.BIAS_EVENTS = s.reg (blkPage blk.val) Reg.BIAS_EVENTS) ∧ (∀ k, k ≠ blk.val → t.block k = s.block k) ∧
      Quiet (onPage (blkPage blk.val)) { s with blocks := t.blocks } t) ∧
  (∀ (blk : Fin 72) (s : State),
    Runs (.biasOverload blk) s fun t => (t.block blk.val) = { s.block blk.val with overload := true } ∧
      Marked t (blkPage blk.val) Reg.BIAS_EVENTS 1 ∧ SourceCounts (blk.val / 12) 16 s t ∧ (∀ k, k ≠ blk.val → t.block k = s.block k) ∧
      Quiet (onPage (blkPage blk.val)) { s with blocks := t.blocks } t)

/-! ### 04_interpolators.md -/

/-- The table that the builder makes of a histogram (R131): bin `n` reaches from 64,000 times the count below it to 64,000 times the count up to its
end, divided by the whole; the builder takes the oldest histogram once its result buffer is empty (R132). It holds of the builder of each block and
of that of each hive's link interpolators (10_time_transfer.md R331). The calibration registers of a block: a GO latches the load buffer for the named interpolator, or is one of VALUE while a load waits (R134); a
new exponent clears the histograms that fill (R130); EN is taken as written (R135). The model's own choices in it: log entry 38. -/
def Obligations.CalibrationTables : Prop :=
  (∀ (site : Builder) (i : Nat) (rest : List Nat) (s : State),
    let b := builderSite site
    (s.block b).buildQueue = i :: rest → (s.block b).built = none → (s.block b).building = none →
    Runs (.tableBuildStart site) s fun t => t.block b = { s.block b with buildQueue := rest, building := some i } ∧
      t = { s with blocks := t.blocks } ∧ ∀ k, k ≠ b → t.block k = s.block k) ∧
  (∀ (site : Builder) (i : Nat) (s : State),
    let b := builderSite site
    (s.block b).building = some i →
    Runs (.tableBuildDone site) s fun t =>
      (t.block b).building = none ∧
      (∃ n, (t.block b).built = some n ∧ n.itp = i ∧ n.tick = s.tick ∧ n.table.length = 400 ∧
        ∀ j, j < 400 →
          let k := s.cal (64 * b + i)
          let lo := 64000 * ((List.range j).map (fun m => tget 0 k.hist m)).sum / k.fill
          let hi := 64000 * ((List.range (j + 1)).map (fun m => tget 0 k.hist m)).sum / k.fill
          lget (0, 0) n.table j = ((lo + hi) / 2, hi - lo)) ∧
      t = { s with blocks := t.blocks } ∧ ∀ k, k ≠ b → t.block k = s.block k) ∧
  (∀ (p : Path) (blk : Fin 72) (v : W32) (s : State), Ready p (blk.val / 12) s →
    Runs (.tdcLoadGo p blk v) s fun t =>
      ((s.block blk.val).loadPend = none → ∃ n, (t.block blk.val).loadPend = some n ∧ n.itp = 4 * fld v 3 0 + fld v 5 4 ∧ n.tick = s.tick ∧
        ∀ j, j < 400 → lget (0, 0) n.table j = (fld (tget 0 (s.block blk.val).loadBuf j) 15 0, fld (tget 0 (s.block blk.val).loadBuf j) 31 16)) ∧
      ((s.block blk.val).loadPend ≠ none → t.block blk.val = s.block blk.val ∧ Marked t (blkPage blk.val) Reg.ERR_STATUS 3) ∧
      (∀ k, k ≠ blk.val → t.block k = s.block k) ∧ Served (onPage (blkPage blk.val)) { s with blocks := t.blocks } t) ∧
  (∀ (p : Path) (blk : Fin 72) (v : W32) (s : State), Ready p (blk.val / 12) s → 20 ≤ histExp v → histExp v ≤ 26 →
    Runs (.histExpChange p blk v) s fun t =>
      histExp (t.reg (blkPage blk.val) Reg.CAL_CTL) = histExp v ∧
      (histExp v ≠ histExp (s.reg (blkPage blk.val) Reg.CAL_CTL) → ∀ i, i < 64 →
        t.cal (64 * blk.val + i) = (let k := s.cal (64 * blk.val + i); if k.waiting then k else { k with hist := [], fill := 0 })) ∧
      (histExp v = histExp (s.reg (blkPage blk.val) Reg.CAL_CTL) → t.cals = s.cals) ∧
      Served (onPage (blkPage blk.val)) { s with cals := t.cals } t) ∧
  (∀ (p : Path) (blk : Fin 72) (v : W32) (s : State), Ready p (blk.val / 12) s → 20 ≤ histExp v → histExp v ≤ 26 →
    Runs (.calEnChange p blk v) s fun t =>
      bit (t.reg (blkPage blk.val) Reg.CAL_CTL) 0 = bit v 0 ∧
      (histExp v = histExp (s.reg (blkPage blk.val) Reg.CAL_CTL) → t.cals = s.cals) ∧ Served (onPage (blkPage blk.val)) { s with cals := t.cals } t)

namespace Sys2Proof.Claims
open Sys2Proof.Machine

/-- The regression slot a path has selected. -/
def rgSelected (s : State) (p : Path) : Nat := fld (s.sel p (cfgPage 0x12) Reg.CAL_RG_SEL) 3 0

/-- Of the hives only the regression slots differ. -/
def SlotsOnly (s t : State) : State :=
  { s with hiveA := { s.hiveA with slots := t.hiveA.slots }, hiveB := { s.hiveB with slots := t.hiveB.slots } }

end Sys2Proof.Claims

/-- ARM opens a TIME gate at once and makes the others wait, refusing EXPIRED a frame already begun; STOP closes an open gate; a read of the status
takes the path's snapshot (R139, R141, R142, R145). A slot that serves reference judging is not the host's (R142). The model's own choices in it: log entries 20, 39. -/
def Obligations.RegressionCommands : Prop :=
  (∀ (p : Path) (r : HiveRef) (s : State), Ready p (hiveDom (hiveOf s r)) s →
    let n := rgSelected s p
    rgReserved s n = false → (∀ h, (s.rg h n).state ≠ 1 ∧ (s.rg h n).state ≠ 2) →
    Runs (.calRgArm p r) s fun t =>
      (rgMode s n = 0 → ∀ h, (t.rg h n).state = 2 ∧ (t.rg h n).gate = some { opened := s.fuOf h }) ∧
      (rgMode s n = 1 → 0 < frameDiff (rgFrame s n) s.frameNow → ∀ h, (t.rg h n).state = 1 ∧ (t.rg h n).gate = (s.rg h n).gate) ∧
      (rgMode s n = 1 → frameDiff (rgFrame s n) s.frameNow ≤ 0 → (∀ h, (t.rg h n).state = (s.rg h n).state ∧ (t.rg h n).expired = true) ∧
        t.reg chipPage Reg.CHIP_SCHED_EXP_CNT = satInc (s.reg chipPage Reg.CHIP_SCHED_EXP_CNT) 1 ∧ Marked t chipPage Reg.CHIP_SYS_EVENTS 2) ∧
      (rgMode s n = 2 → ∀ h, (t.rg h n).state = 1) ∧
      Served (fun k => onHives 0x12 k ∨ onPage chipPage k) (SlotsOnly s t) t) ∧
  (∀ (p : Path) (r : HiveRef) (s : State), Ready p (hiveDom (hiveOf s r)) s →
    let n := rgSelected s p
    Runs (.calRgStop p r) s fun t =>
      (rgReserved s n = true → ∀ h, t.rg h n = s.rg h n) ∧
      (∀ h g, rgReserved s n = false → (s.rg h n).gate = some g → (t.rg h n).gate = none ∧ (t.rg h n).closed = (s.rg h n).closed ++ [{ g with closed := s.fuOf h }]) ∧
      (∀ h, rgReserved s n = false → (s.rg h n).gate = none → (s.rg h n).state = 1 → (t.rg h n).state = 0) ∧ Near (SlotsOnly s t) t) ∧
  (∀ (p : Path) (r : HiveRef) (s : State), ReadyRead p (hiveDom (hiveOf s r)) s →
    let n := rgSelected s p
    Runs (.calRgStatusSnapshot p r) s fun t =>
      (t.path p).rdata = rgStatus s (hiveOf s r) n ∧
      (t.path p).rgSnap = some (n, (s.rg (hiveOf s r) n).res, (rgStatus s (hiveOf s r) n).toNat) ∧ t.regs = s.regs ∧ t.hiveA = s.hiveA ∧ t.hiveB = s.hiveB)

/-- Gates of a slot: a FRAME gate opens at the start of its frame; an open gate closes at its instant, and with REPEAT clear the slot holds no other; an
edge of GATE_n is stamped for the slots that name it (R141). A stamp within an open gate enters the sums with its index and its residual against the nominal interval (R140, R143); a closed gate gives its
results, with FEW where there are less than three stamps, and else the frequency the fitted period gives (R144, R145). The model's own choices in it: log entry 1. -/
def Obligations.RegressionGatesAndResults : Prop :=
  (∀ (n : Fin 16) (s : State), rgReserved s n.val = false → rgMode s n.val = 1 → s.chip.deferredTo = none → frameDiff (rgFrame s n.val) s.frameNow ≤ 0 →
    (∀ h, (s.rg h n.val).state = 1) →
    Runs (.gateOpen n) s fun t => (∀ h, (t.rg h n.val).state = 2 ∧
      (t.rg h n.val).gate = some { opened := s.frameStart (rgFrame s n.val), frame := rgFrame s n.val }) ∧ t = SlotsOnly s t) ∧
  (∀ (n : Fin 16) (t0 : Int) (s : State), rgReserved s n.val = false → rgRepeat s n.val = false →
    (∀ h, ∃ g, (s.rg h n.val).gate = some g ∧ gateCloses s n.val (s.rg h n.val) g = some t0 ∧ t0 ≤ s.fuOf h) →
    Runs (.gateClose n) s fun t => (∀ h, (t.rg h n.val).gate = none ∧ (t.rg h n.val).state = 2 ∧
      ∃ g, (s.rg h n.val).gate = some g ∧ (t.rg h n.val).closed = (s.rg h n.val).closed ++ [{ g with closed := t0 }]) ∧ t = SlotsOnly s t) ∧
  (∀ (m : Fin 4) (rising : Bool) (delta : Fin 1000) (s : State),
    Runs (.gateNEdge m rising delta) s fun t =>
      (∀ h n, (rgReserved s n = false ∧ rgMode s n = 2 ∧ fld (rgReg s n Reg.CAL_RG_GATE) 3 2 = m.val ∧ ((s.rg h n).state = 1 ∨ (s.rg h n).state = 2)) →
        (t.rg h n).edges = (s.rg h n).edges ++ [(s.fuOf h + 999 - (delta.val : Int), rising)]) ∧
      (∀ h n, ¬ (rgReserved s n = false ∧ rgMode s n = 2 ∧ fld (rgReg s n Reg.CAL_RG_GATE) 3 2 = m.val ∧ ((s.rg h n).state = 1 ∨ (s.rg h n).state = 2)) →
        t.rg h n = s.rg h n) ∧ t = SlotsOnly s t) ∧
  (∀ (n : Fin 16) (i : BitVec 32) (sh : BitVec 32) (rest : List (Option (BitVec 32) × BitVec 32)) (e0 t0 : Int) (g : RgGate) (h : HiveId) (s : State),
    let k := s.rg h n.val
    let x := s.fuOf h - shortDiff (shortOf (s.fuOf h)) sh
    let d : Int := ((i.toNat : Int) - e0) % 2 ^ 32
    let r := (x - t0) * 256 - d * rgNom s n.val
    rgReserved s n.val = false → k.stamps = (some i, sh) :: rest → k.closed = [] → k.gate = some g → g.origin = some (e0, t0) → gateCloses s n.val k g = none → g.opened ≤ x →
    r.natAbs ≤ 2 ^ 46 → g.sums.k < 2 ^ 30 →
    Runs (.regressionStamp n) s fun t =>
      (t.rg h n.val).stamps = rest ∧
      (∃ q, (t.rg h n.val).gate = some q ∧ q.sums = ⟨g.sums.k + 1, g.sums.n + d, g.sums.r + r, g.sums.nr + d * r, g.sums.nn + d * d, g.sums.rr + r * r⟩ ∧ q.opened = g.opened ∧ q.origin = g.origin) ∧ t = SlotsOnly s t) ∧
  (∀ (n : Fin 16) (g : RgGate) (h : HiveId) (s : State), rgReserved s n.val = false → (s.rg h n.val).closed = [g] → (s.rg h n.val).gate = none → (s.rg h n.val).state = 2 →
    Runs (.regressionResult n) s fun t =>
      let c := g.sums
      let p := rgNom s n.val
      let det := c.k * c.nn - c.n * c.n
      let beta : ℚ := (c.k * c.nr - c.n * c.r : Int) / (det : ℚ)
      (t.rg h n.val).closed = [] ∧ (t.rg h n.val).state = 3 ∧ (t.rg h n.val).res.seq = (s.rg h n.val).res.seq + 1 ∧
      Marked t (hivePage h 0x12) Reg.CAL_RG_EVENTS n.val ∧ (t.rg h n.val).res.sums = g.sums ∧
      (c.k < 3 → (t.rg h n.val).res.few = true) ∧
      (3 ≤ c.k → det ≠ 0 → p + beta ≠ 0 → (t.rg h n.val).res.few = false ∧
        (t.rg h n.val).res.freq = clampI (-2 ^ 63) (2 ^ 63 - 1) (roundAway (-1000000000000000 * beta / (p + beta)))))

/-! ### 05_blocks_regions.md -/

/-- A STREAMING block that is not full, not isolated and holds the record's frame open reads the oldest record of a cell FIFO and stores it with its
corrected time and its fields (R153, R155, R157, 03_cells.md R94, R101); a word written under parity of which an odd number of bits have flipped is
poisoned and counted (R166). A block that passes no record for 128 ticks gives the merger a floor (R167); the merger releases the earliest of its twelve heads, a record as a data
flit with its poison, the lowest block on a tie, while a data credit is held (R168, R169, R172, R173), and drops with DISORDER one more than
1,024,000 fu behind; without a credit nothing leaves. The model's own choices in it: log entry 43. -/
def Obligations.RecordsThroughTheRegion : Prop :=
  (∀ (c : Fin 1152) (r : RawRec) (rest : List RawRec) (k : Slot) (s : State),
    let b := c.val / 16
    let tc := corrected s c.val r.fu
    (s.cell c.val).fifo = r :: rest → r.th < 4 → (s.block b).store.length < 4096 → (s.block b).isolated = false → inGap s r.gen tc = false →
    blkMode s b = 0 → (s.block b).modes = [] → findSlot s b (frameOf s tc) = some k →
    Runs (.blockWrite c 0) s fun t =>
      (t.cell c.val).fifo = rest ∧ (t.cell c.val).rdPos = (s.cell c.val).rdPos + 1 ∧
      (∃ x, (t.block b).store = (s.block b).store ++ [x] ∧ x.frame = frameOf s tc ∧ x.selected = true ∧ x.poison = false ∧
        recCell x.word = c.val ∧ recTh x.word = r.th ∧ recTime x.word = frameRel s tc % 2 ^ 30 ∧ fieldN x.word.toNat 20 7 = r.tot % 2 ^ 14 ∧
        (x.word.getLsbD 5 = ((skewAt s c.val r.fu).2 || r.flags.getLsbD 5))) ∧
      (∀ j, j ≠ c.val → t.cell j = s.cell j) ∧ (∀ j, j ≠ b → t.block j = s.block j) ∧
      Quiet (onPage (blkPage b)) { s with cells := t.cells, blocks := t.blocks } t) ∧
  (∀ (c : Fin 1152) (upset : W64) (r : RawRec) (rest : List RawRec) (k : Slot) (s : State),
    let b := c.val / 16
    let tc := corrected s c.val r.fu
    (s.cell c.val).fifo = r :: rest → (s.block b).store.length < 4096 → (s.block b).isolated = false → inGap s r.gen tc = false →
    blkMode s b = 0 → (s.block b).modes = [] → findSlot s b (frameOf s tc) = some k → r.parity = true → parityOf upset = true →
    Runs (.blockWrite c upset) s fun t =>
      (∃ x, (t.block b).store = (s.block b).store ++ [x] ∧ x.frame = frameOf s tc ∧ x.poison = true) ∧
      (∀ q ∈ (t.block b).slots, q.frame = frameOf s tc → q.poison = true) ∧ Marked t (blkPage b) Reg.BLK_EVENTS 2 ∧
      t.reg (blkPage b) Reg.BLK_POISON_CNT = satInc (s.reg (blkPage b) Reg.BLK_POISON_CNT) 1 ∧ SourceCounts (c.val / 192) (b % 12) s t ∧
      (∀ j, j ≠ c.val → t.cell j = s.cell j) ∧ (∀ j, j ≠ b → t.block j = s.block j)) ∧
  (∀ (blk : Fin 72) (k : RegSlot) (s : State), mergerSlot s (blk.val / 12) = some k → (s.block blk.val).floorTick + 128 ≤ s.tick →
    inputClosed s blk.val k = false →
    Runs (.floorEmit blk) s fun t =>
      (t.block blk.val).floorTick = s.tick ∧
      (blk.val % 12 < (s.comb (blk.val / 12)).inputs.length → t.input blk.val = s.input blk.val ++ [.floor k.frame (floorOf s blk.val k)]) ∧
      floorOf s blk.val k ≤ k.stop ∧ (k.start ≤ k.stop → k.start ≤ floorOf s blk.val k) ∧ t = { s with blocks := t.blocks, combs := t.combs }) ∧
  (∀ (c : Fin 6) (k : RegSlot) (i : Fin 12) (r : StoreRec) (fl : Int) (rest : List MItem) (s : State), (s.comb c.val).out = [] → (s.comb c.val).inReset = false →
    ((s.comb c.val).bundle (higherClaim s)).state = 2 → 0 < ((s.comb c.val).bundle (higherClaim s)).dataCr →
    mergerSlot s c.val = some k → (∀ j, j < 12 → s.input (12 * c.val + j) ≠ []) → s.input (12 * c.val + i.val) = .record r fl :: rest → r.frame = k.frame →
    (∀ j, j < 12 → ∀ x more, s.input (12 * c.val + j) = x :: more → (j < i.val → r.fu < x.fu) ∧ (i.val < j → r.fu ≤ x.fu)) →
    Runs (.mergerRelease ⟨c, []⟩) s fun t =>
      t.input (12 * c.val + i.val) = rest ∧
      ((∀ l, k.latest = some l → l - 1024000 ≤ r.fu) →
        (t.comb c.val).out.head? = some ⟨1, k.frame.getLsbD 0, r.poison, r.word, false⟩) ∧
      (∀ l, k.latest = some l → r.fu < l - 1024000 → (t.comb c.val).disorder = true ∧ (∀ f ∈ (t.comb c.val).out, f.kind ≠ 1) ∧
        t.reg (combPage c.val 0x02) Reg.MRG_DISORDER_CNT = satInc (s.reg (combPage c.val 0x02) Reg.MRG_DISORDER_CNT) 1 ∧
        Marked t (combPage c.val 0x02) Reg.MRG_EVENTS 0 ∧ SourceCounts c.val 12 s t) ∧
      Quiet (onPage (combPage c.val 0x02)) { s with combs := t.combs } t) ∧
  (∀ (c : Fin 6) (upsets : List W64) (k : RegSlot) (i : Nat) (s : State), (∀ j, j < 12 → s.input (12 * c.val + j) ≠ []) →
    mergerSlot s c.val = some k → nextInput s c.val k = some i → headIsRec (s.input (12 * c.val + i)) = true → dataCredit s c.val = false →
    exec (.mergerRelease ⟨c, upsets⟩) s = .next s)

/-- A block closes its oldest slot when all cells' markers are in, its output time has passed and no record of the frame waits, with its close group at the
merger (R158–R160); a region that holds all twelve close groups ends with its close word (R171); at the drain deadline what is still open is cut
(R179). -/
def Obligations.FramesCloseUpward : Prop :=
  (∀ (blk : Fin 72) (k : Slot) (rest : List Slot) (s : State), (s.block blk.val).slots = k :: rest → k.markers = 0xFFFF#16 →
    k.drainTick.isSome = true ∨ outPassed s blk.val k.stop = true →
    (∀ r ∈ (s.block blk.val).store, r.frame ≠ k.frame) → k.taken < 2 ^ 24 → k.mutes.length ≤ 16 →
    Runs (.blockClose blk) s fun t =>
      (∀ q ∈ (t.block blk.val).slots, q.frame ≠ k.frame) ∧ (∀ q ∈ (s.block blk.val).slots, q.frame ≠ k.frame → q ∈ (t.block blk.val).slots) ∧
      (t.block blk.val).store = (s.block blk.val).store ∧
      t.reg (blkPage blk.val) Reg.BLK_LAST_COUNT = w32 k.taken ∧ t.reg64 (blkPage blk.val) Reg.BLK_LAST_FRAME_LO = k.frame.toNat ∧
      (∀ q ∈ (t.comb (blk.val / 12)).slots, q.frame = k.frame → ∃ w ws, tfind q.groups (blk.val % 12) = some (w :: ws) ∧
        fieldN w.toNat 63 57 = blk.val ∧ fieldN w.toNat 56 53 = k.frame.toNat % 16 ∧ fieldN w.toNat 52 29 = k.taken ∧
        fieldN w.toNat 28 13 = min (tget 0 (s.block blk.val).drops k.frame.toNat) 65535 ∧ fieldN w.toNat 12 8 = k.mutes.length ∧
        w.getLsbD 0 = k.overrun.isSome ∧ w.getLsbD 1 = k.lost ∧ w.getLsbD 2 = k.cut.isSome ∧ w.getLsbD 3 = k.poison ∧ w.getLsbD 4 = k.isolated) ∧
      t = { s with blocks := t.blocks, combs := t.combs, cells := t.cells, regs := t.regs } ∧ OnlyRegs (onPage (blkPage blk.val)) s t) ∧
  (∀ (c : Fin 6) (k : RegSlot) (s : State), mergerSlot s c.val = some k → (∀ i, i < 12 → (tfind k.groups i).isSome = true) →
    (∀ i r fl, i < 12 → MItem.record r fl ∈ s.input (12 * c.val + i) → r.frame ≠ k.frame) →
    Runs (.regionClose c) s fun t =>
      (∀ q ∈ (t.comb c.val).slots, q.frame ≠ k.frame) ∧ (t.comb c.val).lastClosed = some k.frame ∧ (t.comb c.val).disorder = false ∧
      (∃ f, (t.comb c.val).out.getLast? = some f ∧ f.kind = 5 ∧ f.slot = k.frame.getLsbD 0 ∧ f.poison = false ∧
        fieldN f.payload.toNat 63 61 = c.val ∧ fieldN f.payload.toNat 60 21 = k.frame.toNat ∧ f.payload.getLsbD 13 = false ∧
        f.payload.getLsbD 14 = (s.comb c.val).disorder ∧ f.payload.getLsbD 16 = k.reset) ∧
      Quiet (onPage (combPage c.val 0x02)) { s with combs := t.combs } t) ∧
  (∀ (blk : Fin 72) (k : Slot) (rest : List Slot) (s : State), (s.block blk.val).slots = k :: rest → overdue s k.drainTick = true →
    Runs .drainDeadline s fun t =>
      (∀ q ∈ (t.block blk.val).slots, q.frame ≠ k.frame) ∧ (∀ r ∈ (t.block blk.val).store, r.frame ≠ k.frame) ∧
      (∀ i r, i < 16 → r ∈ (t.cell (16 * blk.val + i)).fifo → r ∈ (s.cell (16 * blk.val + i)).fifo ∧
        frameOf s (corrected s (16 * blk.val + i) r.fu) ≠ k.frame) ∧
      Marked t (blkPage blk.val) Reg.BLK_EVENTS 3 ∧ t.tick = s.tick ∧ t.hiveA.dup = s.hiveA.dup ∧ t.hiveB.dup = s.hiveB.dup ∧ t.lanes = s.lanes) ∧
  (∀ (c : Fin 6) (k : RegSlot) (s : State), mergerSlot s c.val = some k → overdue s k.drainTick = true →
    Runs .drainDeadline s fun t =>
      (∀ q ∈ (t.comb c.val).slots, q.frame ≠ k.frame) ∧ (t.comb c.val).lastClosed = some k.frame ∧
      (∃ f, (t.comb c.val).out.getLast? = some f ∧ f.kind = 5 ∧ fieldN f.payload.toNat 60 21 = k.frame.toNat ∧ f.payload.getLsbD 13 = true) ∧
      (∀ i x, i < 12 → x ∈ t.input (12 * c.val + i) → MItem.isRecOf k.frame x = false) ∧ Marked t (combPage c.val 0x02) Reg.REG_EVENTS 2)

/-- The die bridge: a flit leaves on both bundles that are UP against one credit of its class from each, kept for replay (R173, R174); a good one is taken and, at
the standby, its credit returned at once; one whose check fails waits for a replay, which sends again what is owed; credits come back in batches of 16; a bundle that has trained takes the hive's credits, and its region counts as closed for the frames open until then (07_frames_compression.md R228). The model's own choices in it: log entries 43, 44. -/
def Obligations.BridgeCarriesFlits : Prop :=
  (∀ (c : Fin 6) (f : Flit) (rest : List Flit) (s : State),
    let g := (s.comb c.val).bundle (higherClaim s)
    (s.comb c.val).out = f :: rest → g.state = 2 → (if 3 ≤ f.kind then g.ctlCr else g.dataCr) ≠ 0 → g.sent - g.acked < 128 → (s.comb c.val).inReset = false →
    Runs (.bridgeFlitSend c) s fun t =>
      (t.comb c.val).out = rest ∧
      (∀ h, ((s.comb c.val).bundle h).state = 2 →
        ((t.comb c.val).bundle h).inFlight = ((s.comb c.val).bundle h).inFlight ++ [f] ∧ ((t.comb c.val).bundle h).sent = ((s.comb c.val).bundle h).sent + 1 ∧
        ((t.comb c.val).bundle h).replay.getLast? = some { f with parity := s.cb128 } ∧
        ((t.comb c.val).bundle h).dataCr = ((s.comb c.val).bundle h).dataCr - (if 3 ≤ f.kind then 0 else 1) ∧
        ((t.comb c.val).bundle h).ctlCr = ((s.comb c.val).bundle h).ctlCr - (if 3 ≤ f.kind then 1 else 0)) ∧
      (∀ h, ((s.comb c.val).bundle h).state ≠ 2 → (t.comb c.val).bundle h = (s.comb c.val).bundle h) ∧
      t = { s with combs := t.combs } ∧ ∀ j, j ≠ c.val → t.comb j = s.comb j) ∧
  (∀ (c : Fin 6) (f : Flit) (rest : List Flit) (s : State),
    let h := otherHive (higherClaim s)
    ((s.comb c.val).bundle h).inFlight = f :: rest → ((s.comb c.val).bundle h).failed = false → f.kind < 8 →
    Runs (.bridgeFlitReceive c h 0) s fun t =>
      ((t.comb c.val).bundle h).inFlight = rest ∧ ((t.comb c.val).bundle h).acked = ((s.comb c.val).bundle h).acked + 1 ∧
      ((t.comb c.val).bundle h).retData = ((s.comb c.val).bundle h).retData + (if 3 ≤ f.kind then 0 else 1) ∧
      ((t.comb c.val).bundle h).retCtl = ((s.comb c.val).bundle h).retCtl + (if 3 ≤ f.kind then 1 else 0) ∧
      (t.hive h).accepted = (s.hive h).accepted + (if f.kind = 1 then 1 else 0) ∧
      (∀ g, t.hive g = { s.hive g with accepted := (t.hive g).accepted }) ∧ t = { s with hiveA := t.hiveA, hiveB := t.hiveB, combs := t.combs }) ∧
  (∀ (c : Fin 6) (h : HiveId) (e : BitVec 8) (f : Flit) (rest : List Flit) (s : State), ((s.comb c.val).bundle h).inFlight = f :: rest →
    ((s.comb c.val).bundle h).failed = false → ((s.comb c.val).bundle h).fails < 16 → e ≠ 0 →
    Runs (.bridgeFlitReceive c h (e.zeroExtend 80)) s fun t =>
      ((t.comb c.val).bundle h).failed = true ∧ ((t.comb c.val).bundle h).inFlight = rest ∧
      ((t.comb c.val).bundle h).acked = ((s.comb c.val).bundle h).acked ∧ t = { s with combs := t.combs }) ∧
  (∀ (c : Fin 6) (h : HiveId) (s : State),
    let x := (s.comb c.val).bundle h
    x.failed = true → x.replay.length ≤ 128 →
    Runs (.bridgeReplay ⟨c, []⟩ h) s fun t =>
      ((t.comb c.val).bundle h).failed = false ∧ ((t.comb c.val).bundle h).fails = x.fails + 1 ∧
      ((t.comb c.val).bundle h).inFlight = x.replay.drop (x.replay.length - (x.sent - x.acked)) ∧
      (let cnt := match h with | .a => Reg.REG_RETRY_A | .b => Reg.REG_RETRY_B
       t.reg (combPage c.val 0x02) cnt = satInc (s.reg (combPage c.val 0x02) cnt) 1 ∧ OnlyReg (rkey (combPage c.val 0x02) cnt 0) s t) ∧
      t = { s with combs := t.combs, regs := t.regs }) ∧
  (∀ (c : Fin 6) (h : HiveId) (ctl : Bool) (s : State),
    let x := (s.comb c.val).bundle h
    16 ≤ (if ctl then x.retCtl else x.retData) →
    Runs (.creditBatchReturn c h ctl) s fun t =>
      (t.comb c.val).bundle h = (if ctl then { x with retCtl := x.retCtl - 16, ctlCr := x.ctlCr + 16 }
        else { x with retData := x.retData - 16, dataCr := x.dataCr + 16 }) ∧ t = { s with combs := t.combs }) ∧
  (∀ (p : Path) (c : Fin 6) (v : W32) (s : State), Ready p c.val s →
    Runs (.bundleRetrain p c v) s fun t =>
      (t.comb c.val).bundleA = (if bit v 0 then { (s.comb c.val).bundleA with retrain := true } else (s.comb c.val).bundleA) ∧
      (t.comb c.val).bundleB = (if bit v 1 then { (s.comb c.val).bundleB with retrain := true } else (s.comb c.val).bundleB) ∧
      Served (onPage (combPage c.val 0x02)) { s with combs := t.combs } t) ∧
  (∀ (c : Fin 6) (h : HiveId) (s : State), ((s.comb c.val).bundle h).state = 1 → (s.domain c.val).inReset = false →
    Runs (.bundleTrained c h) s fun t => (t.comb c.val).bundle h = { state := 2, dataCr := 4096, ctlCr := 64 } ∧
      (t.comb c.val).bundle (otherHive h) = (s.comb c.val).bundle (otherHive h) ∧ (∀ k, k ≠ c.val → t.comb k = s.comb k) ∧
      (∀ o ∈ (t.fr h).frames, (tfind o.closes c.val).isSome = true) ∧
      (∀ g, t.hive g = { s.hive g with fr := (t.hive g).fr }) ∧ t.hive (otherHive h) = s.hive (otherHive h) ∧
      t = { s with combs := t.combs, hiveA := t.hiveA, hiveB := t.hiveB })

/-- A pointer mismatch empties its FIFO, marks the open slots of the block or of the whole region BLOCK_LOST and sends one event (R163, R164); without
duplicated pointers, in CB-128 mode, there is none (R166). The model's own choices in it: log entry 42. ISOLATE takes a block out at once with the records it holds, and REJOIN asks for its return at the next boundary; the latter is one of VALUE where the block is
not isolated (R181, R183). -/
def Obligations.FifoResetAndIsolation : Prop :=
  (∀ (c : Fin 1152) (s : State), s.cb128 = false →
    Runs (.fifoPointerMismatch (.cell c)) s fun t => (t.cell c.val).fifo = [] ∧ (t.cell c.val).rdPos = (s.cell c.val).wrPos ∧
      (∀ q ∈ (t.block (c.val / 16)).slots, q.lost = true) ∧ Marked t (blkPage (c.val / 16)) Reg.BLK_EVENTS 1 ∧
      t.reg (blkPage (c.val / 16)) Reg.BLK_RESET_CNT = satInc (s.reg (blkPage (c.val / 16)) Reg.BLK_RESET_CNT) 1 ∧
      SourceCounts (c.val / 192) (c.val / 16 % 12) s t ∧ ∀ j, j ≠ c.val → t.cell j = s.cell j) ∧
  (∀ (b : Fin 72) (f : FifoId) (s : State), s.cb128 = false → f = .store b ∨ f = .mergerIn b ∨ f = .handshake b →
    Runs (.fifoPointerMismatch f) s fun t => (f = .store b → (t.block b.val).store = []) ∧ (f = .mergerIn b → t.input b.val = []) ∧
      (∀ q ∈ (t.block b.val).slots, q.lost = true) ∧ Marked t (blkPage b.val) Reg.BLK_EVENTS 1 ∧
      t.reg (blkPage b.val) Reg.BLK_RESET_CNT = satInc (s.reg (blkPage b.val) Reg.BLK_RESET_CNT) 1 ∧ SourceCounts (b.val / 12) (b.val % 12) s t ∧
      t.cells = s.cells ∧ ∀ j, j ≠ b.val → t.block j = s.block j) ∧
  (∀ (c : Fin 6) (f : FifoId) (s : State), s.cb128 = false → f = .regionHandshake c ∨ (∃ h, f = .replay c h) →
    Runs (.fifoPointerMismatch f) s fun t => (∀ h, f = .replay c h → ((t.comb c.val).bundle h).replay = []) ∧
      (∀ i, i < 12 → ∀ q ∈ (t.block (12 * c.val + i)).slots, q.lost = true) ∧ Marked t (combPage c.val 0x02) Reg.REG_EVENTS 3 ∧
      SourceCounts c.val 12 s t ∧ t.cells = s.cells) ∧
  (∀ (f : FifoId) (s : State), s.cb128 = true → exec (.fifoPointerMismatch f) s = .next s) ∧
  (∀ (p : Path) (blk : Fin 72) (s : State), Ready p (blk.val / 12) s →
    Runs (.blkIsolate p blk) s fun t => (t.block blk.val).isolated = true ∧ (t.block blk.val).store = [] ∧ (t.block blk.val).rejoinReq = false ∧
      (∀ q ∈ (t.block blk.val).slots, q.isolated = true) ∧ Marked t (blkPage blk.val) Reg.BLK_EVENTS 4 ∧
      (∀ j, j ≠ blk.val → t.block j = s.block j) ∧ Served (onPage (blkPage blk.val)) { s with blocks := t.blocks } t) ∧
  (∀ (p : Path) (blk : Fin 72) (s : State), Ready p (blk.val / 12) s →
    Runs (.blkRejoin p blk) s fun t =>
      ((s.block blk.val).isolated = true → t.block blk.val = { s.block blk.val with rejoinReq := true }) ∧
      ((s.block blk.val).isolated = false → t.block blk.val = s.block blk.val ∧ Marked t (blkPage blk.val) Reg.ERR_STATUS 3) ∧
      (∀ j, j ≠ blk.val → t.block j = s.block j) ∧ Served (onPage (blkPage blk.val)) { s with blocks := t.blocks } t)

/-! ### 06_trigger.md -/

namespace Sys2Proof.Claims
open Sys2Proof.Machine

/-- Of the hives only their trigger parts differ. -/
def TrigOnly (s t : State) : State :=
  { s with hiveA := { s.hiveA with trig := t.hiveA.trig }, hiveB := { s.hiveB with trig := t.hiveB.trig } }

/-- The trigger part of the active hive. -/
def trigOf (s : State) : Trig := (s.hive (higherClaim s)).trig

end Sys2Proof.Claims

/-- A trigger tick of the active hive: H advances by one trigger tick while the lag is L, stands while it is smaller and gains one more while it is larger, once what was formed before
the last commit is decided (R189–R191); over a forward step it passes at once, when everything before it is final (R191); entries whose window H has passed go (R201); the blocks of a comb
whose bundle is UP hold the new H, and records within the windows decided are selected there (R191, R200). Each comb that captures sends both hives its sum of multiplicities and the number of blocks at or above BLK_MIN (R192, R193); an external edge that is wanted
and comes after the dead time is kept for its trigger tick, one within it is counted (R203). -/
def Obligations.TriggerPrimitives : Prop :=
  (∀ s : State, s.chip.started = true → s.now % 8000 = 0 → (trigOf s).doneTick ≠ some s.tick →
    Runs .triggerTick s fun t =>
      let lag := s.now / 8000 - (trigOf s).h
      let target := ((trigOf s).target : Int)
      ((trigOf s).jumpAt = none →
        (lag ≤ target → (trigOf t).h = (trigOf s).h) ∧ (lag = target + 1 → (trigOf t).h = (trigOf s).h + 1) ∧
        (target + 1 < lag → (trigOf t).h = (trigOf s).h + 1 ∨ (trigOf t).h = (trigOf s).h + 2) ∧
        (target + 1 < lag → (trigOf s).before = none → (trigOf t).h = (trigOf s).h + 2)) ∧
      (∀ a e, (trigOf s).jumpAt = some (a, e) →
        (8000 * (trigOf s).h < a → (trigOf t).h = (trigOf s).h + 1 ∧ (trigOf t).jumpAt = some (a, e)) ∧
        (a ≤ 8000 * (trigOf s).h → (trigOf t).h = max (trigOf s).h (s.now / 8000 - target) ∧ (trigOf t).jumpAt = none)) ∧
      (∀ d ∈ (trigOf t).decided, d ∈ (trigOf s).decided ∨ ∀ c, c < 6 → d.mask.getLsbD c = true → ((s.comb c).bundle (higherClaim s)).state = 2 →
        (d.lo, d.hi) ∈ (t.comb c).windows) ∧
      (trigOf t).doneTick = some s.tick ∧ (∀ d ∈ (trigOf t).entries, 8000 * (trigOf t).h ≤ d.hi) ∧
      (∀ c, c < 6 → ((s.comb c).bundle (higherClaim s)).state = 2 → (t.comb c).h = max (s.comb c).h (trigOf t).h) ∧
      t.tick = s.tick ∧ t.cells = s.cells ∧ t.lanes = s.lanes ∧ t.chip = s.chip ∧ t.staged = s.staged) ∧
  (∀ (c : Fin 6) (ok : Bool) (s : State), capturing s c.val = true →
    Runs (.primitiveWord c ok) s fun t =>
      (∀ h, ∃ p, (t.hive h).trig.prims.getLast? = some p ∧ p.comb = c.val ∧ p.tt = s.now / 8000 - 1 ∧ p.good = ok ∧
        p.sum = ((List.range 12).map (fun i => multiplicity s (12 * c.val + i) (s.now / 8000 - 1))).sum ∧
        p.act = ((List.range 12).filter (fun i => decide (blkMin s ≤ multiplicity s (12 * c.val + i) (s.now / 8000 - 1)))).length) ∧
      t = TrigOnly s t) ∧
  (∀ (n : Fin 2) (rising : Bool) (delta : Fin 1000) (i : Fin 8) (s : State), (lineNow s i.val).en = true → (lineNow s i.val).cond = 2 →
    ((lineNow s i.val).extSrc = n.val ∨ (lineNow s i.val).extSrc = 2) → (lineNow s i.val).extEdge = !rising →
    Runs (.extTrigEdge n rising delta) s fun t =>
      let x := s.now + 999 - (delta.val : Int)
      let m : Int := s.mono + 999 - (delta.val : Int)
      ((∀ l, lget none (trigOf s).extLast n.val = some l → l + 43008 ≤ m) →
        (trigOf t).extEdges = (trigOf s).extEdges ++ [(n.val, rising, x, x.fdiv 8000)] ∧ t = TrigOnly s t) ∧
      (∀ l, lget none (trigOf s).extLast n.val = some l → m < l + 43008 →
        t.reg (hivePage (higherClaim s) 0x13) Reg.TRG_EXT_LOST_CNT = satInc (s.reg (hivePage (higherClaim s) 0x13) Reg.TRG_EXT_LOST_CNT) 1 ∧
        t = { s with regs := t.regs }))

/-- A host trigger (R204): OFF where its line is disabled, EXPIRED where its window starts below H, AHEAD where it lies more than 1.048576 ms ahead, FULL where 64 entries
are occupied, and else TAKEN with the next SEQ and the line's window (R199, R214). -/
def Obligations.HostTriggerResults : Prop :=
  ∀ (p : Path) (r : HiveRef) (v : W32) (s : State), Ready p (hiveDom (hiveOf s r)) s →
    Runs (.trgHostGo p r v) s fun t =>
      let h := higherClaim s
      let i := fld v 2 0
      let line := lineNow s i
      let x := s.now + shortDiff (s.cfg 0x13 Reg.TRG_HOST_TIME) (shortOf s.now)
      let early := x - 1024 * line.pre < 8000 * (trigOf s).h
      let late := 1073741824 < x - s.now
      (line.en = false → (trigOf t).hostStatus = 5) ∧
      (line.en = true → early → (trigOf t).hostStatus = 2) ∧
      (line.en = true → ¬ early → late → (trigOf t).hostStatus = 4) ∧
      (line.en = true → ¬ early → ¬ late → 64 ≤ pendingEntries (trigOf s) → (trigOf t).hostStatus = 3 ∧
        t.reg (hivePage h 0x13) Reg.TRG_REFUSED_CNT = satInc (s.reg (hivePage h 0x13) Reg.TRG_REFUSED_CNT) 1) ∧
      (line.en = true → ¬ early → ¬ late → pendingEntries (trigOf s) < 64 →
        (trigOf t).hostStatus = 1 ∧ (trigOf t).seq = (trigOf s).seq + 1 ∧
        t.reg (hivePage h 0x13) Reg.TRG_LINE_TAKE_CNT i = satInc (s.reg (hivePage h 0x13) Reg.TRG_LINE_TAKE_CNT i) 1 ∧
        (8000 * (trigOf s).h ≤ x + 1024 * line.post → ∃ d, (trigOf t).decided = (trigOf s).decided ++ [d] ∧ d.line = i ∧ d.host = true ∧ d.trunc = false ∧
          d.t = x ∧ d.pre = line.pre ∧ d.post = line.post ∧ d.lo = x - 1024 * line.pre ∧ d.hi = x + 1024 * line.post ∧ d.mask = line.readMask ∧
          d.seq = (trigOf s).seq ∧ (trigOf t).unsent = (trigOf s).unsent ++ [d] ∧ (trigOf t).entries = (trigOf s).entries ++ [d])) ∧
      Served (onHives 0x13) (TrigOnly s t) t

/-- A swarm message from a lane: it leaves the lane and is counted; one whose identity is known is counted as a duplicate and goes no further (R208); one of an origin no entry
names is counted as unknown; one of another fingerprint makes its origin DISCORDANT, one that is not LOCKED or names another frame EXCLUDED; any other makes it ACTIVE, and is held for
matching if it comes in time, else counted as late (R209, R210, R211). Messages whose time has passed go. -/
def Obligations.SwarmMessages : Prop :=
  (∀ (l : Fin 20) (x : RxPacket) (s : State), (s.lane l.val).rx.find? (fun q => q.ptype = 5) = some x →
    Runs (.swarmReceive l) s fun t =>
      let h := higherClaim s
      let pg := hivePage h 0x14
      let w0 := x.payload.getD 0 0
      let w1 := x.payload.getD 1 0
      let origin := w0.extractLsb' 52 12
      let short := w0.extractLsb' 0 32
      let known := (trigOf s).dup.contains (origin, short) = true ∨ origin = deviceAt s s.now
      (t.lane l.val).rx = (s.lane l.val).rx.erase x ∧ t.reg pg Reg.SWM_RX_CNT = satInc (s.reg pg Reg.SWM_RX_CNT) 1 ∧
      (known → t.reg pg Reg.SWM_DUP_CNT = satInc (s.reg pg Reg.SWM_DUP_CNT) 1 ∧ (trigOf t).held = (trigOf s).held) ∧
      (¬ known → (trigOf t).dup.getLast? = some (origin, short)) ∧
      (¬ known → swEn s = true → originEntry s (deviceAt s s.now) origin = none →
        t.reg pg Reg.SWM_UNKNOWN_CNT = satInc (s.reg pg Reg.SWM_UNKNOWN_CNT) 1 ∧ Marked t pg Reg.SWM_EVENTS 2) ∧
      (∀ n, ¬ known → swEn s = true → originEntry s (deviceAt s s.now) origin = some n →
        let tc := short + swmCfg s Reg.SWM_ORG_OFFSET n
        let full := s.now + shortDiff tc (shortOf s.now)
        let agrees := w1.extractLsb' 48 16 = fpFor s full
        let here := (w0.extractLsb' 48 2).toNat = 2 ∧ (frameDiff (w1.extractLsb' 0 40) (frameOf s full)).natAbs ≤ 1
        let late := 0 < shortDiff (shortOf s.now) (tc + BitVec.ofInt 32 (swDeadline s - swWin s))
        (¬ agrees → (trigOf t).held = (trigOf s).held ∧ (tget {} (trigOf t).origins n).state = 3 ∧ t.reg pg Reg.SWM_DISC_CNT = satInc (s.reg pg Reg.SWM_DISC_CNT) 1) ∧
        (agrees → ¬ here → (trigOf t).held = (trigOf s).held ∧ (tget {} (trigOf t).origins n).state = 2 ∧
          t.reg pg Reg.SWM_EXCL_CNT = satInc (s.reg pg Reg.SWM_EXCL_CNT) 1) ∧
        (agrees → here → late → (trigOf t).held = (trigOf s).held ∧ (tget {} (trigOf t).origins n).state = 1 ∧
          t.reg pg Reg.SWM_LATE_CNT = satInc (s.reg pg Reg.SWM_LATE_CNT) 1 ∧ Marked t pg Reg.SWM_EVENTS 1) ∧
        (agrees → here → ¬ late → (trigOf t).held = (trigOf s).held ++ [⟨n, tc, (w0.extractLsb' 32 11).toNat⟩] ∧ (tget {} (trigOf t).origins n).state = 1 ∧
          (tget {} (trigOf t).origins n).last = tc))) ∧
  (∀ s : State, Runs .swarmHoldExpiry s fun t =>
    (∀ m, m ∈ (trigOf t).held ↔ m ∈ (trigOf s).held ∧ shortDiff (shortOf s.now) (m.tc + BitVec.ofInt 32 (swWin s + swDeadline s)) ≤ 0) ∧ t = TrigOnly s t)

/-! ### 07_frames_compression.md and 08_queues_placement.md -/

namespace Sys2Proof.Claims
open Sys2Proof.Machine

/-- A word of a honey store that no cache holds and that lies on no retired page, while no correction waits: an access by the hive reaches it and nothing else. -/
def WordOpen (s : State) (h : HiveId) (w : Nat) : Prop :=
  holders s h (w / 8) = [] ∧ (s.honey h).retiredAt w = false ∧ (s.honey h).writeback = none

/-- The word reads as `x`, undamaged: as the merge buffer holds it, as it was written, or, never written, as 0 or as the device sets it (13_memory.md R411,
R419, 08_queues_placement.md R260). -/
def WordReads (s : State) (h : HiveId) (w : Nat) (x : W64) : Prop :=
  WordOpen s h w ∧ (∀ m, (s.honey h).merge.find? (fun m => m.waddr = w) = some m → m.data = x) ∧
  ((s.honey h).merge.find? (fun m => m.waddr = w) = none →
    ((s.honey h).stateOf w = .valid ∧ tget [] (s.honey h).err w = [] ∧ (s.honey h).data w = x) ∨
    ((s.honey h).stateOf w = .invalid ∧ x = unwritten s w))

/-- A queue whose descriptor stands undamaged in the honey store (08_queues_placement.md R262): D0, HEAD, TAIL and RESV. -/
def QueueAt (s : State) (h : HiveId) (q : Nat) (d0 : W64) (hd tl rs : BitVec 32) : Prop :=
  WordReads s h (4 * q) d0 ∧ WordReads s h (4 * q + 1) (ptrWord hd) ∧ WordReads s h (4 * q + 2) (ptrWord tl) ∧ WordReads s h (4 * q + 3) (ptrWord rs)

/-- The ring of a descriptor lies above the descriptors (R260). -/
def RingAbove (d0 : W64) : Prop := 2 ^ 18 ≤ d0Base d0 * 8

/-- A listed queue that is enabled and owes the producer nothing (R260, R266). -/
def QueueOpenTo (s : State) (h : HiveId) (q : Nat) (p : Producer) (d0 : W64) : Prop :=
  (qClass q).isSome = true ∧ qEnabled s h q d0 = true ∧ RingAbove d0 ∧ (∀ n, p = .path n → tfind (s.queue h q).owed n = none)

/-- A ring position. -/
def ringPos (p : BitVec 32) (i : Nat) : BitVec 32 := p + BitVec.ofNat 32 i

/-- Words of a ring that a reservation can still take. -/
def roomOf (d0 : W64) (hd rs : BitVec 32) : Nat := 2 ^ d0Size d0 - (rs - hd).toNat

/-- A queue with no open packet that can take a packet of `n` words at once. -/
def CanPut (s : State) (h : HiveId) (q : Nat) (d0 : W64) (hd tl : BitVec 32) (n : Nat) : Prop :=
  QueueAt s h q d0 hd tl tl ∧ QueueOpenTo s h q .device d0 ∧ (s.queue h q).opened = none ∧ n ≠ 0 ∧ n + 1 ≤ 2 ^ d0Size d0 - 1 ∧ n < 2 ^ 24 ∧
  n + 1 ≤ roomOf d0 hd tl ∧ ∀ i, i ≤ n → WordOpen s h (ringAddr d0 (ringPos tl i))

/-- The queue of the notices stands undamaged in the active hive, so that a notice touches no other queue (R273). -/
def NoticesOpen (s : State) : Prop := ∃ d0 hd tl rs, QueueAt s (higherClaim s) 0 d0 hd tl rs ∧ RingAbove d0

/-- Bytes of a honey store outside the named words are as before. -/
def BytesOutside (s t : State) (h : HiveId) (W : Nat → Prop) : Prop :=
  ∀ a, ¬ W (a / 8) → (t.honey h).bytes.get a = (s.honey h).bytes.get a

/-- The framer of the active hive. -/
def framerOf (s : State) : Framer := s.fr (higherClaim s)

/-- A frame of the output stage with a property, the oldest with it; no other has its number. -/
def OldestFrame (s : State) (P : OpenFrame → Bool) (o : OpenFrame) : Prop :=
  (framerOf s).frames.find? P = some o ∧ (framerOf s).frames.Pairwise (fun a b => a.frame ≠ b.frame)

/-- The other frames of the output stage are as before. -/
def OtherFrames (s t : State) (f : BitVec 40) : Prop := ∀ q, q.frame ≠ f → (q ∈ (framerOf t).frames ↔ q ∈ (framerOf s).frames)

/-- The unit that a frame adds to those waiting for placement (08_queues_placement.md R280). -/
def UnitWaits (s t : State) (o : OpenFrame) (rank queue pos len : Nat) : Prop :=
  ∃ u, (t.hive (higherClaim s)).place.waiting = (s.hive (higherClaim s)).place.waiting ++ [u] ∧ u.frame = o.frame ∧ u.rcv = o.dest ∧ u.rank = rank ∧
    u.queue = queue ∧ u.pos = pos ∧ u.len = len ∧ u.words = []

/-- The records of a job as an engine has them once it has read the present input buffer (07_frames_compression.md R240, R252). -/
def inputRead (s : State) (h : HiveId) (j : Nat) (b : Job) : List StoreRec :=
  (List.zip (List.range b.recs.length) b.recs).map (fun e =>
    if e.1 < max b.read (b.recs.length - b.present) then e.2
    else { e.2 with word := (hPeek s h (inputAddr j b.buf (e.1 - (b.recs.length - b.present)))).1, poison := b.cb && e.2.poison })

/-- The parts of the device that work of the output stage leaves alone. -/
def OutputOnly (s t : State) : Prop :=
  t.tick = s.tick ∧ t.cells = s.cells ∧ t.cals = s.cals ∧ t.blocks = s.blocks ∧ t.lanes = s.lanes ∧ t.chip = s.chip ∧ t.domains = s.domains ∧ t.staged = s.staged ∧
  t.hive (otherHive (higherClaim s)) = s.hive (otherHive (higherClaim s))

end Sys2Proof.Claims

/-- The merge releases records in strict order: the released one is the lowest of those that any region can release (R226); it joins its frame's run, or the buffer of its source in CB-128
mode, and its receive buffer place frees; a run of 4,096 records becomes a job (R228). A frame that has been abandoned loses the record. Where no job or slot is free, FRM_EVENTS notes the
stall (R224). The hive closes its oldest frame once it drains, no record of it waits and every region has closed it or counts as closed (R178, R228): the close words that came are kept, the hive
writes those of a region that sent none, the frame's drain time is kept in units of 8 ticks, and what is left of its run becomes a job. A frame that has been abandoned leaves. The
model's own choices in it: log entry 47. -/
def Obligations.FramesMergeAndClose : Prop :=
  (∀ (o : OpenFrame) (c : Nat) (r : StoreRec) (s : State), s.fatal = false → nextRelease s (higherClaim s) = some (o, c, r) →
    (framerOf s).frames.Pairwise (fun a b => a.frame ≠ b.frame) →
    (∀ d q, d < 6 → releasable s (higherClaim s) o d = some q → orderKey r.word ≤ orderKey q.word) ∧
    (canTake s (higherClaim s) o r = false →
      Runs .sortRelease s fun t => Marked t (hivePage (higherClaim s) 0x15) Reg.FRM_EVENTS 4 ∧ Quiet (onPage (hivePage (higherClaim s) 0x15)) s t) ∧
    (canTake s (higherClaim s) o r = true →
      Runs .sortRelease s fun t =>
        ((t.comb c).bundle (higherClaim s)).retData = ((s.comb c).bundle (higherClaim s)).retData + 1 ∧ OtherFrames s t o.frame ∧
        (o.abandoned = true → (framerOf t).frames = (framerOf s).frames ∧ t.regs = s.regs) ∧
        (o.abandoned = false → ∃ q ∈ (framerOf t).frames, q.frame = o.frame ∧ q.records = o.records + 1 ∧ q.lastKey = some (orderKey r.word) ∧ q.slot.isSome = true ∧
          (o.cb128 = false → o.run.length < 4095 → q.run = o.run ++ [r] ∧ t.regs = s.regs) ∧
          (o.cb128 = false → o.run.length = 4095 → ∀ j, freeJob s (higherClaim s) = some j → q.run = [] ∧ q.runs = o.runs + 1 ∧
            (t.job (higherClaim s) j).state = 1 ∧ (t.job (higherClaim s) j).recs = o.run ++ [r] ∧ (t.job (higherClaim s) j).index = o.runs) ∧
          (o.cb128 = false → 4096 ≤ o.run.length → q.run = [r] ∧ q.runs = o.runs + 1)) ∧
        t.cells = s.cells ∧ t.blocks = s.blocks ∧ t.lanes = s.lanes ∧ t.chip = s.chip)) ∧
  (∀ (o : OpenFrame) (d : Nat) (s : State), s.fatal = false → OldestFrame s (fun o => !o.closed) o → o.drainTick = some d →
    (∀ c, c < 6 → closedFor s (higherClaim s) o c = true) → (∀ b ∈ (framerOf s).sorts, ∀ r ∈ b.recs, r.frame ≠ o.frame) →
    (o.abandoned = true → Runs .hiveClose s fun t => (∀ q, q ∈ (framerOf t).frames ↔ q ∈ (framerOf s).frames ∧ q.frame ≠ o.frame) ∧ t.regs = s.regs ∧ OutputOnly s t) ∧
    (o.abandoned = false → o.slot.isSome = true ∨ (freeSlot s (higherClaim s)).isSome = true →
      (o.cb128 = false → o.run = [] ∨ (freeJob s (higherClaim s)).isSome = true) →
      (o.cb128 = true → ((List.range 9).filter (fun i => (cbJob s (higherClaim s) o.frame i).isNone)).length ≤
        ((List.range 48).filter (fun j => (s.job (higherClaim s) j).state = 0)).length) →
      Runs .hiveClose s fun t =>
        (∃ q ∈ (framerOf t).frames, q.frame = o.frame ∧ q.closed = true ∧ q.drain = min 65535 ((s.tick - d) / 8) ∧ q.slot.isSome = true ∧
          (∀ c x, c < 6 → tfind o.closes c = some x → tfind q.closes c = some x) ∧
          (∀ c, c < 6 → tfind o.closes c = none → ∃ lost reset, tfind q.closes c = some (ownClose c o.frame lost reset)) ∧
          (o.cb128 = false → o.run = [] → q.run = [] ∧ q.runs = o.runs ∧ t.regs = s.regs) ∧
          (o.cb128 = false → o.run ≠ [] → ∀ j, freeJob s (higherClaim s) = some j → q.run = [] ∧ q.runs = o.runs + 1 ∧
            (t.job (higherClaim s) j).state = 1 ∧ (t.job (higherClaim s) j).recs = o.run ∧ (t.job (higherClaim s) j).index = o.runs)) ∧
        OtherFrames s t o.frame ∧ t.cells = s.cells ∧ t.blocks = s.blocks ∧ t.combs = s.combs ∧ t.lanes = s.lanes ∧ t.chip = s.chip))

/-- HEAD and TRAIL units are put whole into the queue of the frame's slot and wait for placement: the HEAD, once H has passed the frame's end, with the triggers the frame lists, of which
those beyond 16,383 are counted (R229–R234); the TRAIL last, with the notes of up to 15 ranges of lost frames, and with it the frame leaves the output stage (R229, R245–R248). The model's
own choices in it: log entry 48. -/
def Obligations.HeadAndTrailUnits : Prop :=
  (∀ (o : OpenFrame) (n : Nat) (d0 : W64) (hd tl : BitVec 32) (s : State), s.fatal = false → OldestFrame s (fun o => !o.headDone && !o.cb128 && !o.abandoned) o →
    (if o.slot.isSome then o.slot else freeSlot s (higherClaim s)) = some n → n < 8 → o.stop ≤ 8000 * (trigOf s).h →
    (let all := listedIn (trigOf s) o
     let ws := headWords o ((all.take 16383).map (triggerEntry s o))
     CanPut s (higherClaim s) (80 + n) d0 hd tl ws.length →
     Runs .headCommit s fun t =>
      (∃ q ∈ (framerOf t).frames, q = { o with headDone := true, slot := some n, unlisted := all.length - 16383 }) ∧ OtherFrames s t o.frame ∧
      UnitWaits s t o 0 (80 + n) tl.toNat ws.length ∧
      (all.length ≤ 16383 → QueueAt t (higherClaim s) (80 + n) d0 hd (ringPos tl (ws.length + 1)) (ringPos tl (ws.length + 1)) ∧ t.regs = s.regs) ∧
      (16383 < all.length → Marked t (hivePage (higherClaim s) 0x15) Reg.FRM_EVENTS 0 ∧
        t.reg (hivePage (higherClaim s) 0x15) Reg.FRM_UNLISTED_CNT = satInc (s.reg (hivePage (higherClaim s) 0x15) Reg.FRM_UNLISTED_CNT) (all.length - 16383)) ∧
      OutputOnly s t)) ∧
  (∀ (o : OpenFrame) (n : Nat) (d0 : W64) (hd tl : BitVec 32) (s : State), s.fatal = false →
    OldestFrame s (fun o => o.closed && o.headDone && !o.cb128 && !o.abandoned && decide (o.run = []) &&
      !(List.range 48).any (fun j => (s.job (higherClaim s) j).state ≠ 0 && (s.job (higherClaim s) j).frame = o.frame)) o → o.slot = some n → n < 8 →
    (let notes := (framerOf s).lostRanges.take 15
     let ws := trailWords o (tget 0 (trigOf s).refused o.frame.toNat) (tget 0 (trigOf s).late o.frame.toNat) notes
     CanPut s (higherClaim s) (80 + n) d0 hd tl ws.length →
     Runs .trailerCommit s fun t =>
      (∀ q, q ∈ (framerOf t).frames ↔ q ∈ (framerOf s).frames ∧ q.frame ≠ o.frame) ∧ UnitWaits s t o 10 (80 + n) tl.toNat ws.length ∧
      (framerOf t).lostRanges = (framerOf s).lostRanges.drop 15 ∧
      t.reg64 (hivePage (higherClaim s) 0x15) Reg.FRM_LAST_LO = o.frame.toNat ∧
      t.reg (hivePage (higherClaim s) 0x15) Reg.FRM_LAST_RECORDS = w32 (o.records % 2 ^ 24) ∧
      (notes ≠ [] → Marked t (hivePage (higherClaim s) 0x15) Reg.FRM_EVENTS 2 ∧
        t.reg (hivePage (higherClaim s) 0x15) Reg.FRM_LOST_CNT = satInc (s.reg (hivePage (higherClaim s) 0x15) Reg.FRM_LOST_CNT) (notes.map (·.2)).sum) ∧
      OutputOnly s t))

/-- An engine takes the job of the lowest frame and INDEX, whether it is fresh or was paused, reads its input buffer and codes it into its queue, 64 words reserved at a time (R240–R242); a
job that is paused becomes resumable once its queue has room again (R242); a job whose words are all written commits its unit, and its totals are added (R229, R258). The model's own
choices in it: log entry 47. -/
def Obligations.CompressionJobs : Prop :=
  (∀ (j : Fin 48) (b : Job) (d0 : W64) (hd tl rs : BitVec 32) (s : State), s.fatal = false → s.chip.throttle < 2 → runningJobs s (higherClaim s) < 6 →
    nextJob s (higherClaim s) = some j.val → s.job (higherClaim s) j.val = b →
    (∀ i, max b.read (b.recs.length - b.present) ≤ i → i < b.recs.length → ∃ x, WordReads s (higherClaim s) (inputAddr j.val b.buf (i - (b.recs.length - b.present))) x) →
    (let q := 32 + j.val
     let ws := (jobWords s (higherClaim s) { b with recs := inputRead s (higherClaim s) j.val b }).1
     let need := 64 * ((ws.length - b.reserved + 63) / 64)
     b.outWords = b.reserved → b.outWords < ws.length → QueueAt s (higherClaim s) q d0 hd tl rs → QueueOpenTo s (higherClaim s) q .device d0 →
     (b.reserved = 0 ∧ (s.queue (higherClaim s) q).opened = none ∧ rs = tl ∨
      b.reserved ≠ 0 ∧ (s.queue (higherClaim s) q).opened = some .device ∧ (s.queue (higherClaim s) q).written = b.outWords ∧ rs = ringPos tl (b.reserved + 1)) →
     b.reserved + need + 1 ≤ 2 ^ d0Size d0 - 1 → b.reserved + need < 2 ^ 24 → (tl - hd).toNat + b.reserved + need + 1 ≤ 2 ^ d0Size d0 →
     (∀ i, i ≤ b.reserved + need → WordOpen s (higherClaim s) (ringAddr d0 (ringPos tl i))) →
     Runs .jobStart s fun t =>
       (t.job (higherClaim s) j.val).state = (if b.cb = true ∧ b.ended = false then 1 else 2) ∧ (t.job (higherClaim s) j.val).outWords = ws.length ∧
       (t.job (higherClaim s) j.val).reserved = b.reserved + need ∧ (t.queue (higherClaim s) q).opened = some .device ∧
       (t.queue (higherClaim s) q).written = ws.length ∧
       (b.cb = false → QueueAt t (higherClaim s) q d0 hd tl (ringPos tl (b.reserved + need + 1)) ∧ t.regs = s.regs) ∧ OutputOnly s t)) ∧
  (∀ (j : Fin 48) (d0 : W64) (hd tl rs : BitVec 32) (s : State), (s.job (higherClaim s) j.val).state = 3 → (s.job (higherClaim s) j.val).resumable = false →
    QueueAt s (higherClaim s) (32 + j.val) d0 hd tl rs → d0En d0 = true →
    (if (s.queue (higherClaim s) (32 + j.val)).opened.isSome then 64 else 65) ≤ roomOf d0 hd rs →
    Runs (.jobResumable j) s fun t => t.job (higherClaim s) j.val = { s.job (higherClaim s) j.val with resumable := true } ∧
      t.regs = s.regs ∧ t.combs = s.combs ∧ OutputOnly s t) ∧
  (∀ (j : Fin 48) (o : OpenFrame) (b : Job) (d0 : W64) (hd tl rs : BitVec 32) (s : State), s.fatal = false →
    (framerOf s).frames.find? (fun o => o.frame = b.frame) = some o →
    s.job (higherClaim s) j.val = b → b.state = 2 → b.ended = true → (b.cb = true → o.cbSent = b.index) →
    (let ws := (jobWords s (higherClaim s) b).1
     ws ≠ [] → b.outWords = ws.length → ws.length < 2 ^ 24 → QueueAt s (higherClaim s) (32 + j.val) d0 hd tl rs → QueueOpenTo s (higherClaim s) (32 + j.val) .device d0 →
     (s.queue (higherClaim s) (32 + j.val)).opened = some .device → (s.queue (higherClaim s) (32 + j.val)).written = ws.length →
     WordOpen s (higherClaim s) (ringAddr d0 tl) →
     Runs (.jobComplete j) s fun t =>
       (t.job (higherClaim s) j.val).state = 0 ∧ UnitWaits s t o (if b.cb then 1 + b.index else 1) (32 + j.val) tl.toNat ws.length ∧
       (framerOf t).recTotal = (framerOf s).recTotal + BitVec.ofNat 64 b.recs.length ∧
       t.reg (hivePage (higherClaim s) 0x16) Reg.CMP_JOB_CNT = satInc (s.reg (hivePage (higherClaim s) 0x16) Reg.CMP_JOB_CNT) 1 ∧
       (b.poisoned = true → Marked t (hivePage (higherClaim s) 0x16) Reg.CMP_EVENTS 1 ∧
         t.reg (hivePage (higherClaim s) 0x16) Reg.CMP_POISON_CNT = satInc (s.reg (hivePage (higherClaim s) 0x16) Reg.CMP_POISON_CNT) 1) ∧
       t.lanes = s.lanes ∧ t.cells = s.cells ∧ t.blocks = s.blocks ∧ t.chip = s.chip))

namespace Sys2Proof.Claims
open Sys2Proof.Machine

/-- The queue a path has selected by Q_SEL, and the path as a producer. -/
def qSel (s : State) (p : Path) : Nat := fld (s.sel p (cfgPage 0x17) Reg.Q_SEL) 15 0

/-- A worker's path holds no packet open in another queue (12_workers.md R389). -/
def NoOtherOpen (s : State) (p : Path) (q : Nat) : Prop := ∀ n, p = .worker n → (s.worker n.val).openQ = none ∨ (s.worker n.val).openQ = some q

/-- The result of the last producer access of a path (R288). -/
def qResult (s : State) (p : Path) (h : HiveId) : W32 := s.sel p (hivePage h 0x17) Reg.Q_PSTATUS

end Sys2Proof.Claims

/-- The producer's side of a queue through its registers, on an undamaged queue (R264–R266): a reservation takes the words and, where it opens the packet, one for the packet word; a write
puts its word at its place; a commit writes the packet word with LENGTH, CLASS and SEQ and moves TAIL; an abort gives the reservation back. No other byte of the store changes. The model's
own choices in it: log entries 50, 51. -/
def Obligations.QueueProducer : Prop :=
  (∀ (p : Path) (r : HiveRef) (v : W32) (d0 : W64) (hd tl rs : BitVec 32) (s : State), Ready p (hiveDom (hiveOf s r)) s →
    let h := hiveOf s r
    let q := qSel s p
    let n := fld v 23 0
    let more := if (s.queue h q).opened.isSome then n else n + 1
    QueueAt s h q d0 hd tl rs → QueueOpenTo s h q (.path (pathNo p)) d0 → NoOtherOpen s p q →
    ((s.queue h q).opened = none ∧ rs = tl ∨ (s.queue h q).opened = some (.path (pathNo p)) ∧ rs ≠ tl) →
    (rs - tl).toNat + more ≤ 2 ^ d0Size d0 - 1 → (rs - tl).toNat + more ≤ 2 ^ 24 → more ≤ roomOf d0 hd rs → v.toNat < 2 ^ 24 →
    Runs (.qResv p r v) s fun t => (t.queue h q).opened = some (.path (pathNo p)) ∧
      ((s.queue h q).opened = none → (t.queue h q).written = 0) ∧ ((s.queue h q).opened ≠ none → (t.queue h q).written = (s.queue h q).written) ∧
      QueueAt t h q d0 hd tl (ringPos rs more) ∧ qResult t p h = w32 qOk ∧ BytesOutside s t h (fun w => w = 4 * q + 3) ∧
      t.regs = s.regs ∧ t.lanes = s.lanes ∧ t.blocks = s.blocks) ∧
  (∀ (p : Path) (r : HiveRef) (v : W32) (d0 : W64) (hd tl rs : BitVec 32) (s : State), Ready p (hiveDom (hiveOf s r)) s →
    let h := hiveOf s r
    let q := qSel s p
    let n := (s.queue h q).written + 1
    (s.path p).wTag = some (cfgPage 0x17 + Reg.Q_WDATA_LO) → QueueAt s h q d0 hd tl rs → QueueOpenTo s h q (.path (pathNo p)) d0 →
    (s.queue h q).opened = some (.path (pathNo p)) → n < (rs - tl).toNat → WordOpen s h (ringAddr d0 (ringPos tl n)) →
    Runs (.qWdataHi p r v) s fun t => (t.queue h q).written = n ∧ (t.queue h q).opened = some (.path (pathNo p)) ∧ QueueAt t h q d0 hd tl rs ∧
      WordReads t h (ringAddr d0 (ringPos tl n)) (v ++ (s.path p).wHold) ∧
      qResult t p h = w32 qOk ∧ BytesOutside s t h (fun w => w = ringAddr d0 (ringPos tl n)) ∧ t.regs = s.regs ∧ t.lanes = s.lanes) ∧
  (∀ (p : Path) (r : HiveRef) (d0 : W64) (hd tl rs : BitVec 32) (s : State), Ready p (hiveDom (hiveOf s r)) s →
    let h := hiveOf s r
    let q := qSel s p
    let n := (s.queue h q).written
    QueueAt s h q d0 hd tl rs → QueueOpenTo s h q (.path (pathNo p)) d0 → (s.queue h q).opened = some (.path (pathNo p)) → n < 2 ^ 24 →
    WordOpen s h (ringAddr d0 tl) →
    Runs (.qCommit p r) s fun t => (t.queue h q).opened = none ∧ qResult t p h = w32 qOk ∧
      (n ≠ 0 → (t.queue h q).seq = (s.queue h q).seq + 1 ∧ QueueAt t h q d0 hd (ringPos tl (n + 1)) (ringPos tl (n + 1)) ∧
        (∃ w, WordReads t h (ringAddr d0 tl) w ∧ fieldN w.toNat 63 40 = n ∧ some (fieldN w.toNat 39 36) = qClass q ∧ w.extractLsb' 0 32 = (s.queue h q).seq) ∧
        BytesOutside s t h (fun w => w = 4 * q + 2 ∨ w = 4 * q + 3 ∨ w = ringAddr d0 tl)) ∧
      (n = 0 → (t.queue h q).seq = (s.queue h q).seq ∧ QueueAt t h q d0 hd tl tl ∧ BytesOutside s t h (fun w => w = 4 * q + 3)) ∧ t.regs = s.regs) ∧
  (∀ (p : Path) (r : HiveRef) (d0 : W64) (hd tl rs : BitVec 32) (s : State), Ready p (hiveDom (hiveOf s r)) s →
    let h := hiveOf s r
    let q := qSel s p
    QueueAt s h q d0 hd tl rs → QueueOpenTo s h q (.path (pathNo p)) d0 → (s.queue h q).opened = some (.path (pathNo p)) →
    Runs (.qAbort p r) s fun t => (t.queue h q).opened = none ∧ QueueAt t h q d0 hd tl tl ∧ qResult t p h = w32 qOk ∧
      (t.queue h q).seq = (s.queue h q).seq ∧ BytesOutside s t h (fun w => w = 4 * q + 3) ∧ t.regs = s.regs)

/-- The consumer's side and the control of a queue (R260, R267, R269–R272): a pop gives the word at HEAD and moves past it; a release moves HEAD; a reset clears the pointers and SEQ, drops
the units that waited in it and is counted; a configuration is held by both hives, and clearing EN ends the open packet; an open packet left alone for its time is aborted, and its producer
owed the result. The model's own choices in it: log entry 51. -/
def Obligations.QueueConsumerAndControl : Prop :=
  (∀ (p : Path) (r : HiveRef) (d0 x : W64) (hd tl rs : BitVec 32) (s : State), ReadyRead p (hiveDom (hiveOf s r)) s →
    let h := hiveOf s r
    let q := qSel s p
    mayPop p q = true → QueueAt s h q d0 hd tl rs → hd ≠ tl → RingAbove d0 → WordReads s h (ringAddr d0 hd) x →
    Runs (.qPopLo p r) s fun t =>
      (t.path p).rdata = part x 0 ∧ t.sel p (cfgPage 0x17) Reg.Q_POP_HI = part x 1 ∧
      QueueAt t h q d0 (hd + 1) tl rs ∧ BytesOutside s t h (fun w => w = 4 * q + 1) ∧ t.regs = s.regs ∧ t.lanes = s.lanes) ∧
  (∀ (p : Path) (r : HiveRef) (v : W32) (d0 : W64) (hd tl rs : BitVec 32) (s : State), Ready p (hiveDom (hiveOf s r)) s →
    let h := hiveOf s r
    let q := qSel s p
    mayPop p q = true → QueueAt s h q d0 hd tl rs → v.toNat ≤ (tl - hd).toNat → v.toNat < 2 ^ 24 →
    Runs (.qRelease p r v) s fun t => QueueAt t h q d0 (hd + v) tl rs ∧ BytesOutside s t h (fun w => w = 4 * q + 1) ∧ t.regs = s.regs ∧ t.lanes = s.lanes) ∧
  (∀ (p : Path) (r : HiveRef) (d0 : W64) (hd tl rs : BitVec 32) (s : State), Ready p (hiveDom (hiveOf s r)) s →
    let h := hiveOf s r
    let q := qSel s p
    (qClass q).isSome = true → QueueAt s h q d0 hd tl rs →
    Runs (.qCtlReset p r) s fun t => Marked t (hivePage h 0x17) Reg.Q_EVENTS 0 ∧
      (q ≠ 0 → (t.queue h q).opened = none ∧ (t.queue h q).seq = 0 ∧ (t.queue h q).freed = [] ∧
        (∀ u ∈ (t.hive h).place.waiting, u.queue = q → 32 ≤ q → q ≤ 87 → u.words ≠ []) ∧
        (NoticesOpen s → t.reg (hivePage h 0x17) Reg.Q_RESET_CNT = satInc (s.reg (hivePage h 0x17) Reg.Q_RESET_CNT) 1)) ∧
      t.lanes = s.lanes ∧ t.blocks = s.blocks ∧ t.cells = s.cells) ∧
  (∀ (p : Path) (r : HiveRef) (v : W32) (s : State), Ready p (hiveDom (hiveOf s r)) s →
    let q := qSel s p
    qFixed q = false → v.toNat < 2 ^ 27 →
    (∀ h, ∃ d0 hd tl rs, QueueAt s h q d0 hd tl rs ∧ qCfgLocked v d0 = false ∧ qCfgRefused s h q v d0 = false) →
    ∀ cls, qClass q = some cls →
    Runs (.qCfgWrite p r v) s fun t => (∀ h,
        (∃ w, WordReads t h (4 * q) w ∧ d0Base w = fld v 19 0 ∧ d0Size w = fld v 24 20 ∧ d0En w = bit v 25 ∧ d0Tmo w = bit v 26 ∧ fieldN w.toNat 38 35 = cls) ∧
        (∀ d0 hd tl rs, QueueAt s h q d0 hd tl rs → d0En d0 = true → bit v 25 = false → (t.queue h q).opened = none) ∧
        BytesOutside s t h (fun a => a = 4 * q ∨ a = 4 * q + 3)) ∧ t.regs = s.regs ∧ t.lanes = s.lanes) ∧
  (∀ (h : HiveId) (q : Fin 65536) (n : Nat) (d0 : W64) (hd tl rs : BitVec 32) (s : State), (s.queue h q.val).opened = some (.path n) →
    (64 ≤ n → (s.worker (n - 64)).state ≠ .halted) →
    QueueAt s h q.val d0 hd tl rs → d0Tmo d0 = true → 2 ^ fld (s.cfg 0x17 Reg.Q_OPEN_TMO) 5 0 ≤ s.tick - (s.queue h q.val).lastUse - (s.queue h q.val).frozen →
    Runs (.openPacketTimeout h q) s fun t =>
      t.reg (hivePage h 0x17) Reg.Q_TMO_CNT = satInc (s.reg (hivePage h 0x17) Reg.Q_TMO_CNT) 1 ∧ Marked t (hivePage h 0x17) Reg.Q_EVENTS 1 ∧
      (q.val ≠ 0 → (t.queue h q.val).opened = none ∧ tfind (t.queue h q.val).owed n = some qAborted) ∧ t.lanes = s.lanes ∧ t.blocks = s.blocks)

/-- Placement: the next unit of a receiver goes to its least-loaded lane against its credit, in packets of at most 126 words, and its queue's space frees in order (R280, R281, 09_lanes.md
R308); units taken back go out again in their order without a charge, and are counted (R282); a dump packet goes to the dump's lane, one taken back first (R283). The model's own choices in
it: log entry 52. -/
def Obligations.UnitsArePlaced : Prop :=
  (∀ (r : Fin 64) (u : Machine.PUnit) (l : Nat) (d0 : W64) (hd tl rs : BitVec 32) (x : Nat → W64) (s : State),
    let h := higherClaim s
    placing s = true → takenBack s h r.val = [] → nextUnit s h r.val = some u → rcvEn s r.val = true → leastLoaded s (eligibleLanes s r.val) = some l →
    u.len ≤ creditOf s h r.val → QueueAt s h u.queue d0 hd tl rs → RingAbove d0 →
    (∀ i, i < u.len → WordReads s h (ringAddr d0 (BitVec.ofNat 32 (u.pos + 1 + i))) (x i)) →
    Runs (.unitPlace r) s fun t =>
      let ws := (List.range u.len).map x
      (t.lane l).waiting = (s.lane l).waiting ++ dataPackets (fun a b => .unit { u with words := ws, charged := true } a b) (rcvId s u.rcv) ws ∧
      ((dataPackets (fun a b => .unit { u with words := ws, charged := true } a b) (rcvId s u.rcv) ws).map (·.payload)).flatten = ws ∧
      (∀ k ∈ dataPackets (fun a b => .unit { u with words := ws, charged := true } a b) (rcvId s u.rcv) ws, k.payload.length ≤ 126) ∧
      creditOf t h r.val = min creditMax (creditOf s h r.val - u.len) ∧ (t.hive h).place.waiting = (s.hive h).place.waiting.erase u ∧
      ((∀ f ∈ (s.queue h u.queue).freed, f.1 ≠ hd.toNat) → hd.toNat ≠ u.pos →
        QueueAt t h u.queue d0 hd tl rs ∧ (t.queue h u.queue).freed = (s.queue h u.queue).freed ++ [(u.pos, u.len + 1)]) ∧
      ((s.queue h u.queue).freed = [] → hd.toNat = u.pos → u.len + 1 ≤ (tl - hd).toNat →
        QueueAt t h u.queue d0 (ringPos hd (u.len + 1)) tl rs ∧ (t.queue h u.queue).freed = []) ∧
      (∀ k, k ≠ l → t.lane k = s.lane k) ∧ t.regs = s.regs) ∧
  (∀ (r : Fin 64) (s : State),
    let h := higherClaim s
    placing s = true → rcvEn s r.val = true → eligibleLanes s r.val ≠ [] → takenBack s h r.val ≠ [] →
    Runs (.unitReplace r) s fun t =>
      takenBack t h r.val = [] ∧
      (∀ u ∈ takenBack s h r.val, ∃ l ∈ eligibleLanes s r.val, dataPackets (fun a b => .unit u a b) (rcvId s u.rcv) u.words <:+: (t.lane l).waiting) ∧
      (∀ u l, takenBack s h r.val = [u] → leastLoaded s (eligibleLanes s r.val) = some l →
        (t.lane l).waiting = (s.lane l).waiting ++ dataPackets (fun a b => .unit u a b) (rcvId s u.rcv) u.words ∧ ∀ k, k ≠ l → t.lane k = s.lane k) ∧
      (∀ l, (s.lane l).waiting <+: (t.lane l).waiting) ∧ (∀ l, l ∉ eligibleLanes s r.val → t.lane l = s.lane l) ∧
      (t.hive h).place.credit = (s.hive h).place.credit ∧
      t.reg (hivePage h 0x18) Reg.PLC_REPLACE_CNT = satInc (s.reg (hivePage h 0x18) Reg.PLC_REPLACE_CNT) (takenBack s h r.val).length ∧
      Marked t (hivePage h 0x18) Reg.PLC_EVENTS 2) ∧
  (∀ (l : Nat) (ws : List W64) (rest : List (List W64)) (s : State), dumping s (higherClaim s) = false → dumpLane s = some l → (s.hive (higherClaim s)).place.dumpBack = ws :: rest →
    Runs .dumpPlace s fun t =>
      (t.lane l).waiting = (s.lane l).waiting ++ dataPackets (fun a b => .dump ws a b) (rcvId s (fld (s.cfg 0x18 Reg.PLC_DUMP_RCV) 5 0)) ws ∧
      (t.hive (higherClaim s)).place.dumpBack = rest ∧ (∀ k, k ≠ l → t.lane k = s.lane k) ∧ t.regs = s.regs) ∧
  (∀ (l n : Nat) (d0 : W64) (hd tl rs : BitVec 32) (x : Nat → W64) (s : State), dumping s (higherClaim s) = false → dumpLane s = some l → (s.hive (higherClaim s)).place.dumpBack = [] →
    QueueAt s (higherClaim s) 1 d0 hd tl rs → RingAbove d0 → (∀ i, i ≤ n → WordReads s (higherClaim s) (ringAddr d0 (ringPos hd i)) (x i)) →
    fieldN (x 0).toNat 63 40 = n → n + 1 ≤ (tl - hd).toNat →
    Runs .dumpPlace s fun t =>
      let ws := (List.range n).map (fun i => x (i + 1))
      (t.lane l).waiting = (s.lane l).waiting ++ dataPackets (fun a b => .dump ws a b) (rcvId s (fld (s.cfg 0x18 Reg.PLC_DUMP_RCV) 5 0)) ws ∧
      QueueAt t (higherClaim s) 1 d0 (ringPos hd (n + 1)) tl rs ∧ (∀ k, k ≠ l → t.lane k = s.lane k) ∧ t.regs = s.regs)

/-- A switch of the placement table is armed for a frame not yet begun, refused EXPIRED for another, and disarmed (R277, 11_systems.md R369); the head job of an intake, one given back
first, is placed in the mailbox of the worker R285 chooses, and one that does not fit its intake is refused (R284). The model's own choices in it: log entry 78. -/
def Obligations.SwitchAndJobPlacement : Prop :=
  (∀ (p : Path) (r : HiveRef) (s : State), Ready p (hiveDom (hiveOf s r)) s →
    let f := BitVec.ofNat 40 (s.reg64 (cfgPage 0x18) Reg.PLC_SWITCH_FRAME_LO)
    Runs (.plcSwitchArm p r) s fun t =>
      (0 < frameDiff f s.frameNow → t.chip.plcArmed = some f ∧ t.chip.plcState = 1 ∧ t.regs = s.regs) ∧
      (frameDiff f s.frameNow ≤ 0 → t.chip.plcArmed = s.chip.plcArmed ∧ (s.chip.plcArmed = none → t.chip.plcState = 3) ∧
        Marked t (hivePage (higherClaim s) 0x18) Reg.PLC_EVENTS 1 ∧ Marked t chipPage Reg.CHIP_SYS_EVENTS 2) ∧
      t.chip.plcBank = s.chip.plcBank ∧ t.chip.plcEpoch = s.chip.plcEpoch ∧ t.lanes = s.lanes ∧ t.blocks = s.blocks) ∧
  (∀ (p : Path) (r : HiveRef) (s : State), Ready p (hiveDom (hiveOf s r)) s →
    Runs (.plcSwitchDisarm p r) s fun t => t.chip.plcArmed = none ∧ (s.chip.plcArmed ≠ none → t.chip.plcState = 0) ∧
      (s.chip.plcArmed = none → t.chip.plcState = s.chip.plcState) ∧ t.chip.plcBank = s.chip.plcBank ∧ Near { s with chip := t.chip } t) ∧
  (∀ (i : Fin 7) (j : W64 × W64) (n : Option Nat) (s : State),
    let h := higherClaim s
    bit (s.cfg 0x18 Reg.PLC_CTL) 1 = true → s.fatal = false → headJob s h i.val = some (some j, n) →
    (∀ q, q = 88 + i.val ∨ (∃ w ∈ intakeWorkers h i.val, q = 256 + w) → ∃ d0 hd tl rs, QueueAt s h q d0 hd tl rs) →
    (∀ w d0 hd tl, jobFits i.val j.1 = true → chooseWorker s h i.val j.1 = some w → CanPut s h (256 + w) d0 hd tl 2 →
      (∀ k e0 ed el es, n = some k → QueueAt s h (88 + i.val) e0 ed el es → RingAbove e0 ∧ k ≤ (el - ed).toNat ∧
        ∀ m, m < k → ∃ x, WordReads s h (ringAddr e0 (ringPos ed m)) x) →
      Runs (.jobPlace i) s fun t => (n = none → tget [] (t.hive h).place.jobsBack i.val = (tget [] (s.hive h).place.jobsBack i.val).tail) ∧
        (∀ k e0 ed el es, n = some k → QueueAt s h (88 + i.val) e0 ed el es → QueueAt t h (88 + i.val) e0 (ringPos ed k) el es) ∧
        QueueAt t h (256 + w) d0 hd (ringPos tl 3) (ringPos tl 3) ∧
        WordReads t h (ringAddr d0 (ringPos tl 1)) j.1 ∧ WordReads t h (ringAddr d0 (ringPos tl 2)) j.2 ∧ t.regs = s.regs ∧ t.lanes = s.lanes) ∧
    (jobFits i.val j.1 = false →
      Runs (.jobPlace i) s fun t => Marked t (hivePage h 0x18) Reg.PLC_EVENTS 4 ∧ t.lanes = s.lanes ∧
        (n = none → tget [] (t.hive h).place.jobsBack i.val = (tget [] (s.hive h).place.jobsBack i.val).tail) ∧
        t.reg (hivePage h 0x18) Reg.PLC_JOB_REFUSED_CNT = satInc (s.reg (hivePage h 0x18) Reg.PLC_JOB_REFUSED_CNT) 1))
/-! ### 09_lanes.md -/

namespace Sys2Proof.Claims
open Sys2Proof.Machine

/-- Of the lanes only one may differ. -/
def OnlyLane (l : Nat) (s t : State) : Prop := ∀ k, k ≠ l → t.lane k = s.lane k

/-- The registers that count and mark what becomes of a link: those of the lane, and those that count its lost swarm messages (09_lanes.md R307). -/
def linkRegs (l : Nat) (k : Nat) : Prop := keyPage k = lanePage l ∨ onHives 0x14 k

/-- The state with the lanes and the servos' parts of the lanes taken from another. -/
def withLinks (s t : State) : State :=
  { s with lanes := t.lanes, hiveA := { s.hiveA with servo := t.hiveA.servo }, hiveB := { s.hiveB with servo := t.hiveB.servo } }

/-- Of the servos only what belongs to the lane may differ. -/
def WagKept (l : Nat) (s t : State) : Prop :=
  ∀ h, (t.hive h).servo = { (s.hive h).servo with lanes := (t.hive h).servo.lanes } ∧ ∀ k, k ≠ l → t.wagOf h k = s.wagOf h k

/-- Nothing changes but the lane, what takes back its packets, and the registers that tell of it. -/
def LinkOnly (l : Nat) (s t : State) : Prop := Quiet (linkRegs l) (withLinks s t) t ∧ OnlyLane l s t ∧ WagKept l s t

/-- The same behind an access. -/
def LinkServed (l : Nat) (s t : State) : Prop :=
  ∃ u v, Near s u ∧ Quiet (linkRegs l) (withLinks u v) v ∧ Near v t ∧ OnlyLane l s t ∧ WagKept l s t

/-- A lane out of UP holds no packets, and its sequence numbers start afresh (R306, R307). -/
def Emptied (x : Lane) : Prop := x.waiting = [] ∧ x.retry = [] ∧ x.nextSeq = 0 ∧ x.expect = 0 ∧ x.ack = none

/-- The counters and marks of a link that left UP. -/
def DownCounted (l : Nat) (s t : State) : Prop :=
  t.reg (lanePage l) Reg.LNK_DOWN_CNT = satInc (s.reg (lanePage l) Reg.LNK_DOWN_CNT) 1 ∧ Marked t (lanePage l) Reg.LNK_EVENTS 1

/-- A lane that is in use and sends no test sequence (R295, R319). -/
def InUse (l : Nat) (s : State) : Prop := laneRole s l ≠ 0 ∧ (s.lane l).powered = true ∧ fld (s.reg (lanePage l) Reg.LNK_PRBS_CFG) 1 0 = 0

/-- Where a lane that goes DOWN ends: in TRAINING at once with AUTO_TRAIN set and both directions awake. -/
def downState (s : State) (l : Nat) : LaneState := if laneAuto s l ∧ canTrain s l then .training else .down

end Sys2Proof.Claims

/-- Links come and go (R294, R306, R307, R321, R325): block lock gained after 64 good sync headers and lost at 16 bad ones in 64, LNK_CTL.DOWN, RETRAIN and ERR_CLR. The model's own
choices in it: log entries 53, 100. -/
def Obligations.LinksComeAndGo : Prop :=
  (∀ (l : Fin 20) (s : State), canLock s l.val = true → (s.lane l.val).hdrs = BitVec.allOnes 64 →
    Runs (.blockLockGain l) s fun t => t.lane l.val = { s.lane l.val with lock := true, signal := true } ∧ t = { s with lanes := t.lanes } ∧ OnlyLane l.val s t) ∧
  (∀ (l : Fin 20) (s : State), (s.lane l.val).lock = true → 16 ≤ badHeaders (s.lane l.val) →
    Runs (.blockLockLoss l) s fun t => (t.lane l.val).lock = false ∧ (t.lane l.val).errCnt = (s.lane l.val).errCnt ∧
      Marked t (lanePage l.val) Reg.LNK_EVENTS 3 ∧ (t.lane l.val).state ≠ .up ∧
      ((s.lane l.val).state = .up → (t.lane l.val).state = downState s l.val ∧ Emptied (t.lane l.val) ∧ DownCounted l.val s t) ∧ LinkOnly l.val s t) ∧
  (∀ (p : Path) (l : Fin 20) (s : State), Ready p 8 s → (s.lane l.val).state ≠ .asleep → (s.lane l.val).state ≠ .prbs →
    Runs (.lnkDown p l) s fun t => (t.lane l.val).state = downState s l.val ∧ Emptied (t.lane l.val) ∧
      ((s.lane l.val).state = .up → DownCounted l.val s t) ∧ LinkServed l.val s t) ∧
  (∀ (p : Path) (l : Fin 20) (s : State), Ready p 8 s → (s.lane l.val).state ≠ .asleep → canTrain s l.val = true →
    Runs (.lnkRetrain p l) s fun t => (t.lane l.val).state = .training ∧ Emptied (t.lane l.val) ∧ (t.lane l.val).goodIdle = 0 ∧
      ((s.lane l.val).state = .up → DownCounted l.val s t) ∧ LinkServed l.val s t) ∧
  (∀ (p : Path) (l : Fin 20) (s : State), Ready p 8 s →
    Runs (.lnkErrClr p l) s fun t => t.lane l.val = { s.lane l.val with errCnt := 0 } ∧ LinkServed l.val s t)

namespace Sys2Proof.Claims
open Sys2Proof.Machine

/-- A lane that sends packets. -/
def Sending (l : Nat) (s : State) : Prop :=
  s.chip.started = true ∧ s.chip.extest = false ∧ (s.lane l).powered = true ∧ (s.lane l).idleOut = false ∧ (s.lane l).txAwake = true ∧ (s.lane l).state ≠ .prbs ∧ laneRole s l ≠ 0

/-- A lane that hears packets. -/
def Hearing (l : Nat) (s : State) : Prop :=
  s.chip.started = true ∧ (s.lane l).powered = true ∧ (s.lane l).rxAwake = true ∧ (s.lane l).lock = true ∧ (s.lane l).state ≠ .prbs ∧ laneRole s l ≠ 0

/-- The packet as it goes out, with the ACK and the NAK the lane owes (R298, R299, R304). -/
def sentAs (x : Lane) (h : BitVec 56) (ws : List W64) : Option RawPacket := some ⟨h, ws, packetTrailer h ws x.ack x.nakOwed⟩

/-- Blocks that carry a packet whole, as they come from a scrambler in step with the lane's descrambler (R292, R293). -/
def Carries (l : Nat) (s : State) (p : RawPacket) (bs : List LineBlock) : Prop :=
  bs = (scrambleBlocks (s.lane l).dscr (packetBlocks p)).2 ∧ p.payload.length = hdrLength p.header

/-- A lane but for its receiver's place in the stream of blocks. -/
def inStream (x y : Lane) : Lane := { x with dscr := y.dscr, hdrs := y.hdrs, rxPart := none }

/-- A receiver that takes blocks: powered, awake, in use. -/
def Receiving (l : Nat) (s : State) : Prop :=
  s.chip.started = true ∧ (s.lane l).powered = true ∧ (s.lane l).rxAwake = true ∧ laneRole s l ≠ 0

end Sys2Proof.Claims

/-- What a lane sends (R292, R302, R304–R306, R308, R319, R322): out of UP, with 64 packets unacknowledged, or with nothing to send, an IDLE packet; a swarm message first; a waiting packet
takes the next SEQ and stays in the retry buffer; a resend round sends the kept packets again in order, each counted; every packet goes out as scrambled blocks. In PRBS state the
generator's bits go out. The rounds: one falls due at the retry timeout; after LNK_RETRY_MAX rounds without progress the link goes DOWN. A NAK without effect is repeated. The model's own
choices in it: log entries 53, 99. -/
def Obligations.PacketsGoOut : Prop :=
  (∀ (l : Fin 20) (s : State), Sending l.val s →
    let x := s.lane l.val
    x.state ≠ .up ∨ (x.resend = 0 ∧ (64 ≤ x.retry.length ∨ (nextWaiting x = none ∧ takeSwarm l.val s = (s, none)))) →
    Runs (.packetTransmit l) s fun t =>
      (∀ r, (t.lane l.val).lastTx = some r → (t.lane l.val).lastBlocks = (scrambleBlocks x.scr (packetBlocks r)).2) ∧
      (t.lane l.val).lastTx = sentAs x (packetHeader 0 (srcNow s) 0 (lstateOf x) false false 0 0) [] ∧ (t.lane l.val).retry = x.retry ∧
      (t.lane l.val).nextSeq = x.nextSeq ∧ (t.lane l.val).waiting = x.waiting ∧ t = { s with lanes := t.lanes } ∧ OnlyLane l.val s t) ∧
  (∀ (l : Fin 20) (p : TxPacket) (i : Nat) (s : State), Sending l.val s →
    let x := s.lane l.val
    x.state = .up → x.resend = 0 → x.retry.length < 64 → takeSwarm l.val s = (s, none) → nextWaiting x = some i → x.waiting[i]? = some p →
    Runs (.packetTransmit l) s fun t =>
      (x.sleepTick = none → i = 0) ∧
      (t.lane l.val).retry = x.retry ++ [{ p with seq := x.nextSeq, src := srcNow s, sentTick := s.tick }] ∧ (t.lane l.val).waiting = x.waiting.eraseIdx i ∧
      (t.lane l.val).nextSeq = x.nextSeq + 1 ∧ (∀ r, (t.lane l.val).lastTx = some r → (t.lane l.val).lastBlocks = (scrambleBlocks x.scr (packetBlocks r)).2) ∧
      (t.lane l.val).lastTx =
        sentAs x (packetHeader p.ptype (srcNow s) x.nextSeq 2 (loadEnds p.load).1 (loadEnds p.load).2 p.payload.length p.rcv) p.payload ∧
      (t.lane l.val).nakOwed = false ∧ OnlyLane l.val s t) ∧
  (∀ (l : Fin 20) (q : TxPacket) (u : State) (s : State), Sending l.val s →
    let x := s.lane l.val
    x.state = .up → x.resend = 0 → x.retry.length < 64 → takeSwarm l.val s = (u, some q) →
    Runs (.packetTransmit l) s fun t => q.ptype = 5 ∧
      (∃ e, (t.lane l.val).retry = x.retry ++ [e] ∧ e.ptype = 5 ∧ e.payload = q.payload ∧ e.seq = x.nextSeq) ∧ (t.lane l.val).waiting = x.waiting ∧
      (t.lane l.val).nextSeq = x.nextSeq + 1 ∧ OnlyLane l.val s t) ∧
  (∀ (l : Fin 20) (p : TxPacket) (s : State), Sending l.val s →
    let x := s.lane l.val
    x.state = .up → 0 < x.resend → x.retry[x.retry.length - x.resend]? = some p →
    Runs (.packetTransmit l) s fun t => (t.lane l.val).resend = x.resend - 1 ∧ (t.lane l.val).nextSeq = x.nextSeq ∧ (t.lane l.val).waiting = x.waiting ∧
      (t.lane l.val).retry = lmod x.retry (x.retry.length - x.resend) (fun p => { p with sentTick := s.tick }) ∧
      (t.lane l.val).lastTx =
        sentAs x (packetHeader p.ptype p.src p.seq 2 (loadEnds p.load).1 (loadEnds p.load).2 p.payload.length p.rcv) p.payload ∧
      t.reg (lanePage l.val) Reg.LNK_RETX_CNT = satInc (s.reg (lanePage l.val) Reg.LNK_RETX_CNT) 1 ∧ OnlyLane l.val s t) ∧
  (∀ (l : Fin 20) (s : State),
    s.chip.started = true → s.chip.extest = false → (s.lane l.val).powered = true → (s.lane l.val).idleOut = false → (s.lane l.val).txAwake = true → laneRole s l.val ≠ 0 →
    let x := s.lane l.val
    x.state = .prbs → bit (s.reg (lanePage l.val) Reg.LNK_PRBS_CFG) 0 = true →
    Runs (.packetTransmit l) s fun t =>
      let cfg := s.reg (lanePage l.val) Reg.LNK_PRBS_CFG
      let r := prbsBits (fld cfg 4 2) (bit cfg 5) 66 x.gen x.inj
      t.lane l.val = { x with gen := r.1, inj := r.2.1, lastBlocks := [bitsBlock r.2.2] } ∧ t = { s with lanes := t.lanes } ∧ OnlyLane l.val s t) ∧
  (∀ (l : Fin 20) (p : TxPacket) (rest : List TxPacket) (s : State),
    let x := s.lane l.val
    let stuck := ∃ q, x.roundStart = some q ∧ ∃ r ∈ x.retry, r.seq = q
    x.state = .up → x.resend < x.retry.length → x.retry = p :: rest → p.sentTick + retryTicks s l.val ≤ s.tick →
    Runs (.retryTimeout l) s fun t =>
      (¬ stuck → t.lane l.val = { x with resend := x.retry.length, roundStart := some p.seq } ∧ t = { s with lanes := t.lanes }) ∧
      (stuck → x.rounds + 1 < fld (s.reg (lanePage l.val) Reg.LNK_RETRY_MAX) 7 0 →
        t.lane l.val = { x with resend := x.retry.length, roundStart := some p.seq, rounds := x.rounds + 1 } ∧ t = { s with lanes := t.lanes }) ∧
      (stuck → fld (s.reg (lanePage l.val) Reg.LNK_RETRY_MAX) 7 0 ≤ x.rounds + 1 →
        (t.lane l.val).state = downState s l.val ∧ Emptied (t.lane l.val) ∧ Marked t (lanePage l.val) Reg.LNK_EVENTS 2 ∧ DownCounted l.val s t) ∧
      LinkOnly l.val s t) ∧
  (∀ (l : Fin 20) (n : Nat) (s : State), (s.lane l.val).nakSent = some n → (s.lane l.val).state = .up → (s.lane l.val).nakOwed = false →
    n + retryTicks s l.val ≤ s.tick →
    Runs (.nakRepeat l) s fun t => t.lane l.val = { s.lane l.val with nakOwed := true } ∧ t = { s with lanes := t.lanes } ∧ OnlyLane l.val s t)

/-- What a lane makes of what comes in (R292, R293, R301, R303, R304, R306, R319, R321): a packet that fails its CRC is counted and answered with NAK; in UP a sequenced one is accepted in
order, discarded ahead of a gap, or discarded as a duplicate, and an accepted one of a type the lane does not take is counted; a partner that falls from UP takes the link DOWN; ACK frees
packets, and NAK starts a resend round; eight good IDLE packets, the last with LSTATE 1 or more, bring a lane UP. A block with a bad sync header or of an unknown type is counted, and the
packet in progress is discarded; in PRBS state the checker takes the bits. CREDIT raises a receiver's credit (R309). -/
def Obligations.PacketsComeIn : Prop :=
  (∀ (l : Fin 20) (p : RawPacket) (bs : List LineBlock) (s : State), Hearing l.val s → Carries l.val s p bs → packetGood p = false →
    Runs (.packetReceive l bs) s fun t =>
      t.reg (lanePage l.val) Reg.LNK_CRC_CNT = satInc (s.reg (lanePage l.val) Reg.LNK_CRC_CNT) 1 ∧
      ((s.lane l.val).state = .up → t.lane l.val = inStream (oweNak (s.lane l.val)) (t.lane l.val)) ∧
      ((s.lane l.val).state = .training → t.lane l.val = inStream { s.lane l.val with goodIdle := 0 } (t.lane l.val)) ∧
      t = { s with lanes := t.lanes, regs := t.regs } ∧ OnlyLane l.val s t) ∧
  (∀ (l : Fin 20) (p : RawPacket) (bs : List LineBlock) (s : State), Hearing l.val s → Carries l.val s p bs → packetGood p = true → (s.lane l.val).state = .up →
    hdrLstate p.header = 2 → hdrType p.header ≠ 0 → p.trailer.getLsbD 22 = false →
    let x := s.lane l.val
    let d := (hdrSeq p.header - x.expect).toNat
    Runs (.packetReceive l bs) s fun t =>
      (d = 0 → (t.lane l.val).expect = x.expect + 1 ∧ (t.lane l.val).ack = some (hdrSeq p.header) ∧ (t.lane l.val).nakOwed = false ∧
        (acceptsType s l.val (hdrType p.header) = true →
          (t.lane l.val).rx = x.rx ++ [⟨hdrType p.header, hdrSrc p.header, hdrSeq p.header, p.payload⟩]) ∧
        (acceptsType s l.val (hdrType p.header) = false → (t.lane l.val).rx = x.rx ∧
          t.reg (lanePage l.val) Reg.LNK_DISC_CNT = satInc (s.reg (lanePage l.val) Reg.LNK_DISC_CNT) 1)) ∧
      (1 ≤ d → d ≤ 127 → (t.lane l.val).expect = x.expect ∧ (t.lane l.val).rx = x.rx ∧ ((t.lane l.val).nakOwed = true ∨ (t.lane l.val).nakSent.isSome = true) ∧
        t.reg (lanePage l.val) Reg.LNK_GAP_CNT = satInc (s.reg (lanePage l.val) Reg.LNK_GAP_CNT) 1) ∧
      (128 ≤ d → (t.lane l.val).expect = x.expect ∧ (t.lane l.val).rx = x.rx ∧ (t.lane l.val).nakOwed = x.nakOwed ∧
        t.reg (lanePage l.val) Reg.LNK_DUP_CNT = satInc (s.reg (lanePage l.val) Reg.LNK_DUP_CNT) 1) ∧
      (t.lane l.val).pSrc = hdrSrc p.header ∧ OnlyLane l.val s t) ∧
  (∀ (l : Fin 20) (p : RawPacket) (bs : List LineBlock) (s : State), Hearing l.val s → Carries l.val s p bs → packetGood p = true → (s.lane l.val).state = .up →
    (s.lane l.val).pLstate = 2 → hdrLstate p.header < 2 →
    Runs (.packetReceive l bs) s fun t => (t.lane l.val).state = downState s l.val ∧ Emptied (t.lane l.val) ∧ DownCounted l.val s t ∧ OnlyLane l.val s t) ∧
  (∀ (l : Fin 20) (p : RawPacket) (bs : List LineBlock) (s : State), Hearing l.val s → Carries l.val s p bs → packetGood p = true → (s.lane l.val).state = .up →
    hdrLstate p.header = 2 → hdrType p.header = 0 →
    Runs (.packetReceive l bs) s fun t =>
      (∀ i, p.trailer.getLsbD 23 = true → p.trailer.getLsbD 22 = false → (s.lane l.val).retry.findIdx? (fun q => q.seq = p.trailer.extractLsb' 24 8) = some i →
        (t.lane l.val).retry = (s.lane l.val).retry.drop (i + 1) ∧ (t.lane l.val).rounds = 0 ∧ (t.lane l.val).roundStart = none ∧
        (t.lane l.val).nextSeq = (s.lane l.val).nextSeq) ∧
      (∀ q rest, p.trailer.getLsbD 23 = false → p.trailer.getLsbD 22 = true → (s.lane l.val).retry = q :: rest →
        (∀ n, (s.lane l.val).roundStart = some n → ∀ k ∈ (s.lane l.val).retry, k.seq ≠ n) →
        (t.lane l.val).resend = (s.lane l.val).retry.length ∧ (t.lane l.val).roundStart = some q.seq ∧ (t.lane l.val).retry = (s.lane l.val).retry) ∧
      (p.trailer.getLsbD 23 = false → p.trailer.getLsbD 22 = false → (t.lane l.val).retry = (s.lane l.val).retry ∧ (t.lane l.val).expect = (s.lane l.val).expect) ∧
      OnlyLane l.val s t) ∧
  (∀ (l : Fin 20) (p : RawPacket) (bs : List LineBlock) (s : State), Hearing l.val s → Carries l.val s p bs → packetGood p = true → (s.lane l.val).state = .training →
    hdrType p.header = 0 →
    Runs (.packetReceive l bs) s fun t =>
      ((s.lane l.val).goodIdle < 7 → (t.lane l.val).state = .training ∧ (t.lane l.val).goodIdle = (s.lane l.val).goodIdle + 1) ∧
      (7 ≤ (s.lane l.val).goodIdle → hdrLstate p.header = 0 → (t.lane l.val).state = .training) ∧
      (7 ≤ (s.lane l.val).goodIdle → 1 ≤ hdrLstate p.header → (t.lane l.val).state = .up ∧ (t.lane l.val).nextSeq = 0 ∧ (t.lane l.val).expect = 0 ∧
        Marked t (lanePage l.val) Reg.LNK_EVENTS 0) ∧ OnlyLane l.val s t) ∧
  (∀ (l : Fin 20) (b : LineBlock) (s : State), Hearing l.val s →
    (b.hdr ≠ hdrData ∧ b.hdr ≠ hdrCtrl ∨
      b.hdr = hdrCtrl ∧ (descramble (s.lane l.val).dscr b.word).2.extractLsb' 0 8 ≠ 0x78#8 ∧ (descramble (s.lane l.val).dscr b.word).2.extractLsb' 0 8 ≠ 0x4B#8) →
    Runs (.packetReceive l [b]) s fun t =>
      t.lane l.val = inStream { s.lane l.val with errCnt := satAdd 48 (s.lane l.val).errCnt 1 } (t.lane l.val) ∧ t = { s with lanes := t.lanes } ∧ OnlyLane l.val s t) ∧
  (∀ (l : Fin 20) (b : LineBlock) (s : State), Receiving l.val s → (s.lane l.val).state = .prbs → bit (s.reg (lanePage l.val) Reg.LNK_PRBS_CFG) 1 = true →
    Runs (.packetReceive l [b]) s fun t =>
      let cfg := s.reg (lanePage l.val) Reg.LNK_PRBS_CFG
      let r := (s.lane l.val).chk.bits (fld cfg 4 2) (bit cfg 5) (blockBits b)
      t.lane l.val = { s.lane l.val with chk := r.1, errCnt := satAdd 48 (s.lane l.val).errCnt r.2 } ∧ t = { s with lanes := t.lanes } ∧ OnlyLane l.val s t) ∧
  (∀ (l : Fin 20) (x : RxPacket) (s : State), (s.lane l.val).rx.find? (fun p => p.ptype = 6) = some x →
    let h := higherClaim s
    let who (w : W64) := (List.range 64).find? (fun r => rcvEn s r && decide (rcvId s r = w.extractLsb' 48 16))
    Runs (.creditReceive l) s fun t => (t.lane l.val).rx = (s.lane l.val).rx.erase x ∧
      (∀ r, (∀ w ∈ x.payload, who w ≠ some r) → creditOf t h r = creditOf s h r) ∧
      (∀ w r f last, x.payload = [w] → who w = some r → tfind (s.hive h).place.restart r = some (f, last) →
        let total := w.extractLsb' 0 32
        (f.extractLsb' 0 16 = w.extractLsb' 32 16 → 0 < shortDiff total last →
          creditOf t h r = min creditMax (creditOf s h r + (shortDiff total last).toNat) ∧ tfind (t.hive h).place.restart r = some (f, total)) ∧
        (f.extractLsb' 0 16 ≠ w.extractLsb' 32 16 ∨ shortDiff total last ≤ 0 → creditOf t h r = creditOf s h r ∧
          t.reg (lanePage l.val) Reg.LNK_CREDIT_IGN_CNT = satInc (s.reg (lanePage l.val) Reg.LNK_CREDIT_IGN_CNT) 1)) ∧
      (∀ w, x.payload = [w] → who w = none → t.reg (lanePage l.val) Reg.LNK_CREDIT_IGN_CNT = satInc (s.reg (lanePage l.val) Reg.LNK_CREDIT_IGN_CNT) 1 ∧
        (t.hive h).place = (s.hive h).place) ∧ OnlyLane l.val s t)

/-- The line code gives back what was sent (R292, R293): a descrambler in step with the scrambler returns the word and stays in step, and one that starts anywhere is in step after 58 bits
of the line. -/
def Obligations.DescramblerUndoesScrambler : Prop :=
  (∀ (st : BitVec 58) (w : W64), descramble st (scramble st w).2 = ((scramble st w).1, w)) ∧
  (∀ (a b : BitVec 58) (bs : List Bool), 58 ≤ bs.length → (descrambleBits a bs).1 = (descrambleBits b bs).1) ∧
  (∀ (st : BitVec 58) (ds : List Bool), (descrambleBits st (scrambleBits st ds).2).2 = ds)

/-- Sleep, wake and test of a lane (R319, R320, R322, R323): a direction asked to sleep, the transmitter's fall to electrical idle, receive detect, a direction that wakes, the PRBS state, error
insertion, and the checker's lock. -/
def Obligations.LanesSleepWakeAndTest : Prop :=
  (∀ (p : Path) (l : Fin 20) (v : W32) (s : State), Ready p 8 s → v.toNat < 8 →
    let old := s.reg (lanePage l.val) Reg.LNK_PWR
    let removed := s.chip.removed.contains l.val && !laneTiming s l.val
    Runs (.laneSleepRequest p l v) s fun t => t.reg (lanePage l.val) Reg.LNK_PWR = v ∧
      (removed = false → bit v 0 = true → bit old 0 = false → (t.lane l.val).sleepTick = some s.tick ∧ (t.lane l.val).txWaking = false) ∧
      (removed = false → bit v 0 = false → bit old 0 = true → (t.lane l.val).sleepTick = none ∧ (t.lane l.val).txWaking = !(s.lane l.val).txAwake) ∧
      (removed = true ∨ bit v 0 = bit old 0 → (t.lane l.val).sleepTick = (s.lane l.val).sleepTick ∧ (t.lane l.val).txWaking = (s.lane l.val).txWaking) ∧
      (bit v 1 = true → bit old 1 = false → (t.lane l.val).rxAwake = false ∧ (t.lane l.val).lock = false ∧
        (InUse l.val s → (t.lane l.val).state = .asleep)) ∧
      (bit v 1 = false → bit old 1 = true → (t.lane l.val).rxWaking = !(s.lane l.val).rxAwake) ∧ LinkServed l.val s t) ∧
  (∀ (l : Fin 20) (n : Nat) (s : State),
    let x := s.lane l.val
    x.sleepTick = some n → x.txAwake = true → x.state ≠ .up ∨ unitBegun x = false ∨ n + retryTicks s l.val ≤ s.tick →
    Runs (.laneTxIdle l) s fun t => (t.lane l.val).txAwake = false ∧ (t.lane l.val).sleepTick = none ∧
      (InUse l.val s → (t.lane l.val).state = .asleep) ∧ Emptied (t.lane l.val) ∧ (x.state = .up → DownCounted l.val s t) ∧ LinkOnly l.val s t) ∧
  (∀ (l : Fin 20) (s : State), (s.lane l.val).powered = true →
    Runs (.signalDetect l) s fun t => (t.lane l.val).signal = true ∧
      ((s.lane l.val).rxAwake = false → bit (s.reg (lanePage l.val) Reg.LNK_PWR) 2 = true → (t.lane l.val).rxWaking = true) ∧
      t = { s with lanes := t.lanes } ∧ OnlyLane l.val s t) ∧
  (∀ (l : Fin 20) (tx : Bool) (s : State),
    let x := s.lane l.val
    (if tx then x.txWaking else x.rxWaking) = true →
    Runs (.laneWakeDone l tx) s fun t =>
      (tx = true → (t.lane l.val).txAwake = true ∧ (t.lane l.val).txWaking = false) ∧
      (tx = false → (t.lane l.val).rxAwake = true ∧ (t.lane l.val).rxWaking = false) ∧
      (x.state = .asleep → (if tx then x.rxAwake else x.txAwake) = true → x.powered = true → laneRole s l.val ≠ 0 → (t.lane l.val).state = .training) ∧
      t = { s with lanes := t.lanes } ∧ OnlyLane l.val s t) ∧
  (∀ (p : Path) (l : Fin 20) (v : W32) (s : State), Ready p 8 s → v.toNat < 64 →
    Runs (.lnkPrbsCfgWrite p l v) s fun t =>
      (fld v 4 2 ≤ 4 → t.reg (lanePage l.val) Reg.LNK_PRBS_CFG = v) ∧
      (5 ≤ fld v 4 2 → fld (t.reg (lanePage l.val) Reg.LNK_PRBS_CFG) 4 2 = fld (s.reg (lanePage l.val) Reg.LNK_PRBS_CFG) 4 2 ∧
        fld (t.reg (lanePage l.val) Reg.LNK_PRBS_CFG) 1 0 = fld v 1 0 ∧ bit (t.reg (lanePage l.val) Reg.LNK_PRBS_CFG) 5 = bit v 5) ∧
      (fld v 1 0 ≠ 0 → laneRole s l.val ≠ 0 → (s.lane l.val).powered = true →
        (t.lane l.val).state = .prbs ∧ ((s.lane l.val).state ≠ .prbs → Emptied (t.lane l.val) ∧ (t.lane l.val).lock = false)) ∧
      (fld v 1 0 = 0 → (s.lane l.val).state = .prbs → (t.lane l.val).state ≠ .prbs ∧ (t.lane l.val).chkLock = false ∧ (t.lane l.val).inj = none) ∧
      (fld v 1 0 = 0 → (s.lane l.val).state ≠ .prbs → (t.lane l.val).state = (s.lane l.val).state) ∧ LinkServed l.val s t) ∧
  (∀ (p : Path) (l : Fin 20) (v : W32) (s : State), Ready p 8 s → v.toNat < 2 ^ 13 →
    Runs (.prbsInjGo p l v) s fun t =>
      (fld v 1 0 = 2 → 4 ≤ fld v 12 8 → (t.lane l.val).inj = some (2, fld v 12 8, 0)) ∧
      (fld v 1 0 < 2 → (t.lane l.val).inj = some (fld v 1 0, fld v 7 2, 0)) ∧
      (fld v 1 0 = 3 ∨ (fld v 1 0 = 2 ∧ fld v 12 8 < 4) → t.lane l.val = s.lane l.val ∧ Marked t (lanePage l.val) Reg.ERR_STATUS 3) ∧ LinkServed l.val s t) ∧
  (∀ (p : Path) (l : Fin 20) (s : State), Ready p 8 s →
    Runs (.prbsInjStop p l) s fun t => (∀ e, (s.lane l.val).inj = some (2, e) → (t.lane l.val).inj = none) ∧
      ((∀ e, (s.lane l.val).inj ≠ some (2, e)) → (t.lane l.val).inj = (s.lane l.val).inj) ∧ LinkServed l.val s t) ∧
  (∀ (l : Fin 20) (s : State), (s.lane l.val).state = .prbs → bit (s.reg (lanePage l.val) Reg.LNK_PRBS_CFG) 1 = true → (s.lane l.val).chk.sync = true →
    (s.lane l.val).chkLock = false →
    Runs (.prbsCheckerLock l) s fun t => t.lane l.val = { s.lane l.val with chkLock := true } ∧ Marked t (lanePage l.val) Reg.LNK_EVENTS 4 ∧ LinkOnly l.val s t) ∧
  (∀ (l : Fin 20) (s : State), (s.lane l.val).chkLock = true → (s.lane l.val).chk.sync = false →
    Runs (.prbsLockLoss l) s fun t => t.lane l.val = { s.lane l.val with chkLock := false } ∧
      t = { s with lanes := t.lanes } ∧ OnlyLane l.val s t)

namespace Sys2Proof.Claims
open Sys2Proof.Machine

/-- The next control request of a lane, its packet in hand; the device is powered and not fatal. -/
def RequestAt (l : Nat) (ws : List W64) (s : State) : Prop :=
  (∃ x, (s.lane l).rx.find? (fun p => p.ptype = 2) = some x ∧ x.payload = ws) ∧ powered s = true ∧ s.fatal = false

/-- The command that takes up a request with this OP. -/
def CtrlCmd (l : Fin 20) (op : Nat) (c : Instr) : Prop :=
  (op = 0 ∧ c = .ctrlRead l) ∨ (op = 1 ∧ c = .ctrlWrite l) ∨ (op = 2 ∧ c = .ctrlDbgRead l) ∨ (op = 3 ∧ c = .ctrlMalformed l)

/-- A response as it waits on its lane. -/
def responsePacket (ws : List W64) : TxPacket := { ptype := 3, load := .response, rcv := 0, payload := ws }

end Sys2Proof.Claims

/-- Control requests (R310–R313, R315, R317). One that breaks its form is answered MALFORMED by the link layer. In a requester's window a request too old is answered STALE, one already answered is
answered again from the window, one still outstanding is dropped. Another one is recorded, executed, and its response committed to the lane's queue; it is shown for one
access, a read, a side-effect-free read or a write of a lane's LNK_RETRY_TMO. The transmitter takes a response into its retry buffer, which frees the tag, and the window keeps it; one whose
lane is not UP is dropped. The model's own choices in it: log entry 26. -/
def Obligations.ControlRequests : Prop :=
  (∀ (l : Fin 20) (ws : List W64) (c : Instr) (s : State), CtrlCmd l (reqOp (ws.headD 0)) c → RequestAt l.val ws s → malformed ws = true → (s.lane l.val).state = .up →
    Runs c s fun t =>
      let pg := hivePage (higherClaim s) 0x19
      t.reg pg Reg.LNK_REQ_MALFORMED_CNT = satInc (s.reg pg Reg.LNK_REQ_MALFORMED_CNT) 1 ∧ Marked t pg Reg.LNK_REQ_EVENTS 3 ∧
      (t.lane l.val).waiting = (s.lane l.val).waiting ++ [responsePacket [responseWord (ws.headD 0) stMalformed]] ∧ OnlyLane l.val s t) ∧
  (∀ (l : Fin 20) (ws : List W64) (x : ReqWindow) (c : Instr) (s : State), CtrlCmd l (reqOp (ws.headD 0)) c → RequestAt l.val ws s → malformed ws = false → (s.lane l.val).state = .up →
    let h := higherClaim s
    let pg := hivePage h 0x19
    let w := ws.headD 0
    (s.hive h).windows.find? (fun y => y.id = reqId w) = some x →
    Runs c s fun t =>
      (63 < (x.high - reqSeq w).toInt → t.reg pg Reg.LNK_REQ_STALE_CNT = satInc (s.reg pg Reg.LNK_REQ_STALE_CNT) 1 ∧ Marked t pg Reg.LNK_REQ_EVENTS 1 ∧
        (t.lane l.val).waiting = (s.lane l.val).waiting ++ [responsePacket [responseWord w stStale]] ∧ (t.hive h).outstanding = (s.hive h).outstanding) ∧
      (∀ r, (x.high - reqSeq w).toInt ≤ 63 → x.seqs.find? (fun e => e.1 = reqSeq w) = some (reqSeq w, some r) →
        t.reg pg Reg.LNK_REQ_REPLAY_CNT = satInc (s.reg pg Reg.LNK_REQ_REPLAY_CNT) 1 ∧
        (t.lane l.val).waiting = (s.lane l.val).waiting ++ [responsePacket r] ∧ (t.hive h).outstanding = (s.hive h).outstanding) ∧
      ((x.high - reqSeq w).toInt ≤ 63 → x.seqs.find? (fun e => e.1 = reqSeq w) = some (reqSeq w, none) →
        t.reg pg Reg.LNK_REQ_DUP_CNT = satInc (s.reg pg Reg.LNK_REQ_DUP_CNT) 1 ∧ (t.lane l.val).waiting = (s.lane l.val).waiting ∧
        (t.hive h).outstanding = (s.hive h).outstanding)) ∧
  (∀ (l k : Fin 20) (w a : W64) (d0 : W64) (hd tl : BitVec 32) (c : Instr) (s : State), CtrlCmd l (reqOp w) c → RequestAt l.val [w, a] s → malformed [w, a] = false →
    pathFree s (lanePath l.val) = true → running s l.val = none → gate s 8 = .serve →
    let h := higherClaim s
    let q := 128 + l.val
    let old := s.reg (lanePage k.val) Reg.LNK_RETRY_TMO
    let mine := tagsOf (s.hive h) (reqId w)
    a.extractLsb' 32 32 = addrOf (lanePage k.val) Reg.LNK_RETRY_TMO → (reqOp w = 1 → 1 ≤ fieldN a.toNat 31 0 ∧ fieldN a.toNat 31 0 ≤ 1024) →
    (∀ x, (s.hive h).windows.find? (fun x => x.id = reqId w) = some x → (x.high - reqSeq w).toInt ≤ 63 ∧ x.seqs.find? (fun e => e.1 = reqSeq w) = none) →
    ((s.hive h).windows.any (fun x => x.id = reqId w) = false → (s.hive h).windows.length < 128) →
    mine.any (fun o => o.tag = reqTag w) = false → mine.length < 32 → (s.hive h).outstanding.length < 256 → CanPut s h q d0 hd tl 2 →
    Runs c s fun t =>
      (∃ x ∈ (t.hive h).windows, x.id = reqId w ∧ (reqSeq w, none) ∈ x.seqs ∧ x.lastUse = s.tick) ∧
      ((s.hive h).windows.any (fun x => x.id = reqId w) = false →
        (t.hive h).windows = (s.hive h).windows ++ [{ id := reqId w, high := reqSeq w, seqs := [(reqSeq w, none)], lastUse := s.tick }]) ∧
      QueueAt t h q d0 hd (ringPos tl 3) (ringPos tl 3) ∧ WordReads t h (ringAddr d0 tl) (packetWord 2 6 (s.queue h q).seq) ∧
      WordReads t h (ringAddr d0 (ringPos tl 1)) (responseWord w stOk) ∧
      WordReads t h (ringAddr d0 (ringPos tl 2)) (resultWord 0 (if reqOp w = 1 then 0 else old)) ∧
      (∃ o, (t.hive h).outstanding = (s.hive h).outstanding ++ [o] ∧ o.queued = true ∧ o.rseq = reqSeq w ∧ o.tag = reqTag w ∧ o.id = reqId w ∧ o.lane = l.val) ∧
      t.reg (lanePage k.val) Reg.LNK_RETRY_TMO = (if reqOp w = 1 then a.extractLsb' 0 32 else old)) ∧
  (∀ (l : Fin 20) (h : HiveId) (o : ReqOut) (n : Nat) (d0 : W64) (hd tl rs : BitVec 32) (x : Nat → W64) (s : State),
    let k := higherClaim s
    let q := 128 + l.val
    ((s.lane l.val).state = .up → txReady s l.val = true) → (s.hive k).outstanding.find? (fun o => decide (o.lane = l.val) && o.queued) = some o → o.hive = h →
    QueueAt s h q d0 hd tl rs → RingAbove d0 → (∀ i, i ≤ n → WordReads s h (ringAddr d0 (ringPos hd i)) (x i)) → fieldN (x 0).toNat 63 40 = n →
    n + 1 ≤ (tl - hd).toNat →
    Runs (.responseTake l h) s fun t =>
      let ws := (List.range n).map (fun i => x (i + 1))
      ((s.lane l.val).state = .up → (t.lane l.val).retry = (s.lane l.val).retry ++ [{ responsePacket ws with seq := (s.lane l.val).nextSeq, src := srcNow s, sentTick := s.tick }] ∧
        (t.lane l.val).nextSeq = (s.lane l.val).nextSeq + 1) ∧
      ((s.lane l.val).state ≠ .up → t.lanes = s.lanes) ∧
      (t.hive k).outstanding = (s.hive k).outstanding.erase o ∧ QueueAt t h q d0 (ringPos hd (n + 1)) tl rs ∧
      (∀ y ∈ (s.hive k).windows, y.id = o.id → (o.rseq, none) ∈ y.seqs → ∃ z ∈ (t.hive k).windows, z.id = o.id ∧ (o.rseq, some ws) ∈ z.seqs) ∧
      OnlyLane l.val s t)
/-! ### 10_time_transfer.md and 11_systems.md -/

namespace Sys2Proof.Claims
open Sys2Proof.Machine

/-- A lane that carries timing blocks (R328): TIMING set, role not OFF, not in PRBS. -/
def TimingLane (l : Nat) (s : State) : Prop :=
  s.chip.started = true ∧ (s.lane l).powered = true ∧ laneTiming s l = true ∧ laneRole s l ≠ 0 ∧ (s.lane l).state ≠ .prbs

/-- The same of its receiver, which has block lock. -/
def TimingHeard (l : Nat) (s : State) : Prop := TimingLane l s ∧ (s.lane l).rxAwake = true ∧ (s.lane l).lock = true

/-- The mark of the present timing block: the multiple of 2^20 fu that falls in or before this tick (R328). -/
def markOf (s : State) : Int := 2 ^ 20 * ((s.now + 999).fdiv (2 ^ 20))

/-- The packet that carries a REPORT or a MARK. -/
def wagglePacket (mark : Option (BitVec 8)) (ws : List W64) : TxPacket := { ptype := 4, load := .waggle mark, rcv := 0, payload := ws }

/-- Only the hives' servos, the lanes and the noted parts may differ. -/
def ServoOnly (K : Nat → Prop) (s t : State) : Prop := Quiet K (withLinks s t) t

/-- A hive's stamp of a block received, by its own link interpolator (R331). -/
def rxStamp (s : State) (h : HiveId) (l count pos : Nat) : Int :=
  rawTime (linkTable s h l) (min count 399) (s.now + 1000) + 40 * (pos : Int) - (fld (s.cfg 0x1A Reg.WAG_RX_DLY l) 15 0 : Int)

/-- The parts of the device that time transfer leaves alone. -/
def TimeTransferOnly (s t : State) : Prop :=
  t.cells = s.cells ∧ t.cals = s.cals ∧ t.blocks = s.blocks ∧ t.combs = s.combs ∧ t.staged = s.staged

end Sys2Proof.Claims

/-- Timing blocks and WAGGLE packets (R328–R333, R348, R349): the block sent at the first block boundary at or after the mark carries TSEQ, the sync state, the depth and the transmit
stamp, which the history keeps; a block received is stamped by each hive's own link interpolator and kept for pairing and reporting, one that fails CHECK is counted, one at too great a
depth noted, and a valid one gives a one-way sample; REPORTs and MARKs wait on their lane; a MARK received gives an entry of the return queue, or is counted where that is full. The model's
own choices in it: log entry 54. -/
def Obligations.TimingBlocksReportsAndMarks : Prop :=
  (∀ (l : Fin 20) (off : Nat) (s : State), TimingLane l.val s → s.chip.extest = false → (s.lane l.val).idleOut = false → (s.lane l.val).txAwake = true →
    (s.wag l.val).txMark ≠ some (markOf s) → off < 2640 → s.now ≤ markOf s + off → markOf s + off < s.now + 1000 → onBlocks (s.wag l.val) (markOf s + off) = true →
    Runs (.timingBlockSend l off) s fun t =>
      let x := s.lane l.val
      let stamp := shortOf (markOf s + off + (fld (s.cfg 0x1A Reg.WAG_TX_DLY l.val) 15 0 : Int))
      let blk := timingBlock (s.wag l.val).tseq s.tb.qual.sync (ownRoot s).2.2 stamp
      let out := scramble x.scr (blk ++ 0x4B#8)
      t.lane l.val = { x with lastTiming := some blk, scr := out.1, lastBlocks := [⟨0b10, out.2⟩] } ∧
      (∀ h, let w := s.wagOf h l.val
        t.wagOf h l.val = { w with txMark := some (markOf s), txAt := some (markOf s + off), tseq := w.tseq + 1, txHist := keep256 w.txHist (w.tseq, stamp) }) ∧
      t = withLinks s t ∧ WagKept l.val s t ∧ OnlyLane l.val s t) ∧
  (∀ (l : Fin 20) (b : LineBlock) (x : BitVec 56) (countA countB : Nat) (pos : Fin 25) (s : State), TimingHeard l.val s → b.hdr = 0b10 →
    (descramble (s.lane l.val).dscr b.word).2 = x ++ 0x4B#8 →
    Runs (.timingBlockReceive l b ⟨countA, countB⟩ pos) s fun t =>
      let pg := hivePage (higherClaim s) 0x1A
      let y := s.lane l.val
      let own (h : HiveId) := rxStamp s h l.val (match h with | .a => countA | .b => countB) pos.val
      let depthOk := decide ((x.extractLsb' 42 4).toNat < fld (s.cfg 0x1A Reg.WAG_CTL) 7 4)
      let valid := decide ((x.extractLsb' 46 2).toNat = 2) && depthOk
      let one := valid && decide ((s.wag l.val).oneN < 1024)
      t.lane l.val = { y with dscr := (descramble y.dscr b.word).1, hdrs := (y.hdrs <<< 1) ||| 1 } ∧ OnlyLane l.val s t ∧
      (timingCheck x ≠ x.extractLsb' 32 8 → t.reg pg Reg.WAG_LANE_BAD_CNT l.val = satInc (s.reg pg Reg.WAG_LANE_BAD_CNT l.val) 1 ∧
        t = { s with regs := t.regs, lanes := t.lanes }) ∧
      (timingCheck x = x.extractLsb' 32 8 →
        (∀ h, let w := s.wagOf h l.val
          t.wagOf h l.val = { w with
            rxHist := keep256 w.rxHist (shortOf (own h), x.extractLsb' 0 32, valid), toReport := w.toReport ++ [(x.extractLsb' 48 8, shortOf (own h))]
            lastRx := some (own h), pSync := (x.extractLsb' 46 2).toNat, pDepth := (x.extractLsb' 42 4).toNat
            lastValid := if valid then some s.tick else w.lastValid, oneN := if one then w.oneN + 1 else w.oneN
            oneSum := if one then w.oneSum + shortDiff (shortOf (own (higherClaim s))) (x.extractLsb' 0 32) else w.oneSum }) ∧
        (∀ h k, k ≠ l.val → t.wagOf h k = s.wagOf h k) ∧
        (∀ h, (t.hive h).servo.linkCal = (s.hive h).servo.linkCal.filter (· ≠ l.val)) ∧
        (depthOk = true → t = withLinks s t) ∧ (depthOk = false → Marked t pg Reg.WAG_EVENTS 3) ∧ ServoOnly (onHives 0x1A) s t)) ∧
  (∀ (l : Fin 20) (s : State), (s.lane l.val).state = .up → laneTiming s l.val = true → (s.wag l.val).repMark ≠ some (s.now.fdiv (2 ^ 24)) →
    Runs (.reportSend l) s fun t =>
      (t.lane l.val).waiting = (s.lane l.val).waiting ++ [wagglePacket none (reportWords s l.val)] ∧
      (∀ h, t.wagOf h l.val = { s.wagOf h l.val with toReport := [], repMark := some (s.now.fdiv (2 ^ 24)) }) ∧
      t = withLinks s t ∧ WagKept l.val s t ∧ OnlyLane l.val s t) ∧
  (∀ (p : Path) (r : HiveRef) (v : W32) (s : State), Ready p (hiveDom (hiveOf s r)) s →
    let l := fld v 4 0
    let id := v.extractLsb' 8 8
    Runs (.wagTsSend p r v) s fun t =>
      (l < 20 → (s.lane l).state = .up → laneTiming s l = true →
        (t.lane l).waiting = (s.lane l).waiting ++ [wagglePacket (some id) [BitVec.ofNat 64 (2 ^ 60 + 2 ^ 52 * id.toNat)]] ∧ OnlyLane l s t) ∧
      (20 ≤ l ∨ (s.lane l).state ≠ .up ∨ laneTiming s l = false → Marked t (hivePage (higherClaim s) 0x1A) Reg.WAG_EVENTS 6 ∧ t.lanes = s.lanes) ∧
      TimeTransferOnly s t) ∧
  (∀ (l : Fin 20) (blocks : Int) (x : RxPacket) (rx : Int) (d0 : W64) (hd tl : BitVec 32) (s : State),
    (s.lane l.val).rx.find? (fun p => p.ptype = 4 && fieldN (p.payload.getD 0 0).toNat 63 60 = 1) = some x → (s.wag l.val).lastRx = some rx →
    let h := higherClaim s
    let q := 2 + l.val
    let tw := timeWordOf (rx + 2640 * blocks) s.tb.qual
    (CanPut s h q d0 hd tl 2 → (tl - hd).toNat < 48 →
      Runs (.markReceive l blocks) s fun t =>
        (t.lane l.val).rx = (s.lane l.val).rx.erase x ∧ OnlyLane l.val s t ∧ QueueAt t h q d0 hd (ringPos tl 3) (ringPos tl 3) ∧
        WordReads t h (ringAddr d0 tl) (packetWord 2 2 (s.queue h q).seq) ∧ WordReads t h (ringAddr d0 (ringPos tl 1)) (tw.extractLsb' 32 64) ∧
        WordReads t h (ringAddr d0 (ringPos tl 2)) (tw.extractLsb' 0 32 ++ (x.payload.getD 0 0).extractLsb' 52 8 ++ 0x800000#24) ∧
        (t.queue h q).seq = (s.queue h q).seq + 1 ∧
        BytesOutside s t h (fun w => w = 4 * q + 2 ∨ w = 4 * q + 3 ∨ ∃ i, i < 3 ∧ w = ringAddr d0 (ringPos tl i)) ∧ t.regs = s.regs ∧ TimeTransferOnly s t) ∧
    (QueueAt s h q d0 hd tl tl → 48 ≤ (tl - hd).toNat →
      Runs (.markReceive l blocks) s fun t =>
        (t.lane l.val).rx = (s.lane l.val).rx.erase x ∧ OnlyLane l.val s t ∧ (t.queue h q).seq = (s.queue h q).seq ∧ Marked t (hivePage h 0x1A) Reg.WAG_EVENTS 4 ∧
        t.reg (hivePage h 0x1A) Reg.WAG_TS_OVF_CNT l.val = satInc (s.reg (hivePage h 0x1A) Reg.WAG_TS_OVF_CNT l.val) 1 ∧ TimeTransferOnly s t))

/-- Samples and the servo (R327, R336, R337, R339–R343, R348): a valid report of a block in the history and a receive stamp that pairs with it give one sample, a delay beyond the bound or
a block that is not in the history gives none and is noted; CAND_2's stamps are measured against the 10 MHz grid; at a period end the servo acts on the mean offset, refuses one beyond the
step threshold, counts an empty period, and shows offset and count on both hives; SERVO_EN set loads the integral. The model's own choices in it: log entries 55, 97. -/
def Obligations.SamplesAndServo : Prop :=
  (∀ (l : Fin 20) (x : RxPacket) (w0 w : W64) (rest : List W64) (s : State),
    (s.lane l.val).rx.find? (fun p => p.ptype = 4 && fieldN (p.payload.getD 0 0).toNat 63 60 = 0) = some x → x.payload = w0 :: w :: rest → w.getLsbD 32 = true →
    (∀ r ∈ rest, r.getLsbD 32 = false) →
    let pg := hivePage (higherClaim s) 0x1A
    let v := s.wag l.val
    Runs (.reportReceive l) s fun t =>
      (t.lane l.val).rx = (s.lane l.val).rx.erase x ∧ OnlyLane l.val s t ∧ TimeTransferOnly s t ∧
      (t.wag l.val).rootId = w0.extractLsb' 36 16 ∧ (t.wag l.val).rootGen = w0.extractLsb' 52 8 ∧
      (v.txHist.reverse.find? (fun e => e.1 = w.extractLsb' 56 8) = none → Marked t pg Reg.WAG_EVENTS 5 ∧ (t.wag l.val).n = v.n) ∧
      (∀ e, v.txHist.reverse.find? (fun e => e.1 = w.extractLsb' 56 8) = some e →
        (pairBlock v e.2 = none → (t.wag l.val).n = v.n) ∧
        ∀ b, pairBlock v e.2 = some b →
          let fwd := shortDiff b.1 b.2
          let rev := shortDiff (w.extractLsb' 0 32) e.2
          let rt := (BitVec.ofInt 32 (fwd + rev)).toInt
          let a := (s.cfg 0x1A Reg.WAG_ASYM l.val).toInt
          let far := decide (rt - a < 0) || decide (204800000 < rt - a)
          let outlier := v.rtRef.any fun m => decide (fld (s.cfg 0x1A Reg.WAG_RT_TOL) 19 0 < (rt - m).natAbs)
          (far = true → Marked t pg Reg.WAG_EVENTS 5 ∧ (t.wag l.val).n = v.n) ∧
          (far = false → outlier = true → t.reg pg Reg.WAG_LANE_OUTLIER_CNT l.val = satInc (s.reg pg Reg.WAG_LANE_OUTLIER_CNT l.val) 1 ∧ (t.wag l.val).n = v.n) ∧
          (far = false → outlier = false → v.n < 1024 → (t.wag l.val).n = v.n + 1 ∧ (t.wag l.val).sumRt = v.sumRt + rt ∧
            (t.wag l.val).sumD = v.sumD + (rt - a).tdiv 2 ∧ (t.wag l.val).sumTh2 = v.sumTh2 + (fwd - rev + a)) ∧
          (far = false → outlier = false → 1024 ≤ v.n → (t.wag l.val).n = v.n))) ∧
  (∀ (delta : Fin 1000) (p : Int) (s : State), s.servo.extPps = some p → (p - nearSecond p).natAbs ≤ 51200 → s.servo.ppsUsed = false → s.servo.extN < 1024 →
    Runs (.clk10mStamp delta) s fun t =>
      let y := s.now + 999 - (delta.val : Int) - nearSecond p
      let th2 := 2 * (y - 102400 * divNearAway y 102400)
      (∀ h, (t.hive h).servo = { (s.hive h).servo with extSum := (s.hive h).servo.extSum + th2, extN := (s.hive h).servo.extN + 1 }) ∧
      (s.tb.sel ≠ some 2 → ∀ h, (t.hive h).tb = (s.hive h).tb) ∧
      (s.tb.sel = some 2 → ∀ h, (t.hive h).tb.core = { (s.hive h).tb.core with
        sum := (s.hive h).tb.core.sum + BitVec.ofInt 64 th2, num := (s.hive h).tb.core.num + 1 }) ∧
      t = { s with hiveA := { s.hiveA with servo := t.hiveA.servo, tb := t.hiveA.tb }, hiveB := { s.hiveB with servo := t.hiveB.servo, tb := t.hiveB.tb } }) ∧
  (∀ (c n : Nat) (sum : Int) (one : Bool) (s : State), s.servo.period < (s.now + 999).fdiv (2 ^ 30) → s.tb.core.skip = 0 →
    bit (s.cfg 0x1A Reg.WAG_CTL) 0 = true → s.tb.sel = some c → periodInput c s = (sum, n, one) →
    let pg := hivePage (higherClaim s) 0x1A
    let e := divNearAway sum (2 * n)
    Runs .servoPeriodEnd s fun t =>
      (n = 0 → t.tb.core.freq = s.tb.core.freq ∧ t.tb.core.integ = s.tb.core.integ ∧ t.reg pg Reg.WAG_EMPTY_CNT = satInc (s.reg pg Reg.WAG_EMPTY_CNT) 1) ∧
      (n ≠ 0 → ∀ h, t.reg (hivePage h 0x1A) Reg.WAG_LAST_N = w32 (n % 2048) ∧ t.reg (hivePage h 0x1A) Reg.WAG_LAST_E = w32i (sat32 e)) ∧
      (n ≠ 0 → fld (s.cfg 0x1A Reg.WAG_STEP_THR) 30 0 < e.natAbs →
        t.tb.core.freq = s.tb.core.freq ∧ t.tb.core.integ = s.tb.core.integ ∧ t.tb.qual.locked = false ∧ Marked t pg Reg.WAG_EVENTS 0 ∧
        t.servo.refusing = true ∧ t.reg pg Reg.WAG_REFUSED_CNT = satInc (s.reg pg Reg.WAG_REFUSED_CNT) 1) ∧
      (n ≠ 0 → e.natAbs ≤ fld (s.cfg 0x1A Reg.WAG_STEP_THR) 30 0 →
        let u := 931323 * e
        let i := clampI (-200000000000) 200000000000 (s.tb.core.integ.toInt - ((servoKi s : Int) * u).fdiv (2 ^ 32))
        t.tb.core.integ = BitVec.ofInt 64 i ∧
        t.tb.core.freq = BitVec.ofInt 40 (clampI (-200000000000) 200000000000 (i - ((servoKp s : Int) * u).fdiv (2 ^ 32))) ∧
        t.tb.qual.coarse = false ∧ t.servo.refusing = false ∧ t.servo.oneWayUsed = one) ∧
      t.servo.period = (s.now + 999).fdiv (2 ^ 30) ∧ t.servo.extN = 0 ∧ t.tb.core.sum = 0 ∧ t.tb.core.num = 0 ∧ t.lanes = s.lanes ∧ TimeTransferOnly s t) ∧
  (∀ (s : State), s.servo.period < (s.now + 999).fdiv (2 ^ 30) → s.tb.sel = none ∨ s.tb.core.skip ≠ 0 ∨ bit (s.cfg 0x1A Reg.WAG_CTL) 0 = false →
    Runs .servoPeriodEnd s fun t => t.tb.core.freq = s.tb.core.freq ∧ t.tb.core.integ = s.tb.core.integ ∧ t.tb.core.skip = 0 ∧ t.servo.refusing = false ∧
      t.servo.period = (s.now + 999).fdiv (2 ^ 30) ∧ (∀ h, t.reg (hivePage h 0x1A) Reg.WAG_LAST_E = s.reg (hivePage h 0x1A) Reg.WAG_LAST_E) ∧ TimeTransferOnly s t) ∧
  (∀ (p : Path) (r : HiveRef) (v : W32) (s : State), Ready p (hiveDom (hiveOf s r)) s → v.toNat < 2 ^ 26 → fld v 7 4 ≠ 0 → 1 ≤ fld v 25 16 → fld v 25 16 ≤ 1000 →
    Runs (.servoEnWrite p r v) s fun t =>
      fld (t.cfg 0x1A Reg.WAG_CTL) 1 0 = fld v 1 0 ∧ fld (t.cfg 0x1A Reg.WAG_CTL) 7 4 = fld v 7 4 ∧ fld (t.cfg 0x1A Reg.WAG_CTL) 25 16 = fld v 25 16 ∧
      (bit v 0 = true → bit (s.cfg 0x1A Reg.WAG_CTL) 0 = false → t.tb.core.integ = s.tb.core.freq.signExtend 64) ∧
      t.tb.core.freq = s.tb.core.freq ∧ t.lanes = s.lanes ∧ TimeTransferOnly s t)
/-! ### 12_workers.md -/

namespace Sys2Proof.Claims
open Sys2Proof.Machine

/-- A worker that executes the instruction at its PC: it runs, nothing of it is outstanding, its domain is clocked, and neither a breakpoint, a step nor a halt request
stops it there (R380, R401, R402). -/
def Going (w : Nat) (s : State) : Prop :=
  (s.worker w).state = .running ∧ (s.worker w).wait = none ∧ (s.worker w).flushing = false ∧ wkClocked s w = true ∧ breakHere s w = false ∧
  (s.worker w).stepping = false ∧ (s.worker w).haltReq = false ∧ (s.worker w).pc < imemBytes w

/-- The worker's PC behind the instruction. -/
def nextPc (s : State) (w : Nat) : Nat := ((s.worker w).pc + 4) % 2 ^ 32

/-- Nothing but the worker changes. -/
def WorkerOnly (w : Nat) (s t : State) : Prop := t = { s with workers := t.workers } ∧ ∀ k, k ≠ w → t.worker k = s.worker k

/-- An instruction whose whole effect is one register and the PC. -/
def SetsReg (c : Instr) (w d : Nat) (v : W32) (s : State) : Prop :=
  Runs c s fun t => t.worker w = { s.worker w with regs := tset 0 (s.worker w).regs d v, pc := nextPc s w } ∧ WorkerOnly w s t

/-- A fault (R387): state FAULT with its cause and address, the event, and no other worker touched. -/
def FaultsAt (w cause addr : Nat) (s t : State) : Prop :=
  (t.worker w).state = .fault ∧ (t.worker w).cause = cause ∧ (t.worker w).faultAddr = w32 addr ∧ Marked t (wrkPage w) Reg.WRK_EVENTS 0 ∧ (t.worker w).regs = (s.worker w).regs

/-- An instruction that only moves the PC. -/
def SetsPc (c : Instr) (w pc : Nat) (s : State) : Prop :=
  Runs c s fun t => t.worker w = { s.worker w with pc := pc } ∧ WorkerOnly w s t

/-- The registers a multiply or a load of a pair leaves. -/
def pairRegs (x : Worker) (d : Nat) (v : W64) : Tab W32 := tset 0 (tset 0 x.regs d (v.extractLsb' 0 32)) (d + 1) (v.extractLsb' 32 32)

end Sys2Proof.Claims

/-- ALU instructions (R384, R385): wd = wa op wb or wa op IMM, modulo 2^32; shifts by wb [4:0]; SLT and SLTU give 1 or 0; LUI; MUL and MULU write a pair, and an odd d is ILLEGAL. All other registers,
all memory and every other worker are unchanged. The model's own choices in it: log entry 13. -/
def Obligations.AluInstructions : Prop :=
  ∀ (wk : Fin 192) (d a b : Fin 16) (imm : BitVec 18) (sh : Fin 32) (s : State), Going wk.val s →
    let w := wk.val
    let x := wkReg s w a.val
    let y := wkReg s w b.val
    let i : W32 := imm.signExtend 32
    SetsReg (.add wk d a b) w d.val (x + y) s ∧ SetsReg (.sub wk d a b) w d.val (x - y) s ∧ SetsReg (.and wk d a b) w d.val (x &&& y) s ∧
    SetsReg (.or wk d a b) w d.val (x ||| y) s ∧ SetsReg (.xor wk d a b) w d.val (x ^^^ y) s ∧
    SetsReg (.shl wk d a b) w d.val (x <<< (y.extractLsb' 0 5).toNat) s ∧ SetsReg (.shr wk d a b) w d.val (x >>> (y.extractLsb' 0 5).toNat) s ∧
    SetsReg (.sra wk d a b) w d.val (x.sshiftRight (y.extractLsb' 0 5).toNat) s ∧
    SetsReg (.slt wk d a b) w d.val (if x.toInt < y.toInt then 1 else 0) s ∧ SetsReg (.sltu wk d a b) w d.val (if x.toNat < y.toNat then 1 else 0) s ∧
    SetsReg (.addi wk d a imm) w d.val (x + i) s ∧ SetsReg (.andi wk d a imm) w d.val (x &&& i) s ∧ SetsReg (.ori wk d a imm) w d.val (x ||| i) s ∧
    SetsReg (.xori wk d a imm) w d.val (x ^^^ i) s ∧ SetsReg (.slti wk d a imm) w d.val (if x.toInt < i.toInt then 1 else 0) s ∧
    SetsReg (.lui wk d imm) w d.val (imm.zeroExtend 32 <<< 14) s ∧ SetsReg (.shli wk d a sh) w d.val (x <<< sh.val) s ∧
    SetsReg (.shri wk d a sh) w d.val (x >>> sh.val) s ∧ SetsReg (.srai wk d a sh) w d.val (x.sshiftRight sh.val) s ∧
    (d.val % 2 = 0 →
      (Runs (.mul wk d a b) s fun t => t.worker w = { s.worker w with regs := pairRegs (s.worker w) d.val (BitVec.ofInt 64 (x.toInt * y.toInt)), pc := nextPc s w } ∧
        WorkerOnly w s t) ∧
      (Runs (.mulu wk d a b) s fun t => t.worker w = { s.worker w with regs := pairRegs (s.worker w) d.val (BitVec.ofNat 64 (x.toNat * y.toNat)), pc := nextPc s w } ∧
        WorkerOnly w s t)) ∧
    (d.val % 2 = 1 →
      (Runs (.mul wk d a b) s fun t => FaultsAt w fIllegal (s.worker w).pc s t) ∧ (Runs (.mulu wk d a b) s fun t => FaultsAt w fIllegal (s.worker w).pc s t))

/-- Branches and jumps (R384, R385): a branch taken moves the PC by OFFSET instructions, another by one; JMP, JAL and JR; nothing else changes but w15 with JAL. The model's own choices in it: log entry 13. -/
def Obligations.BranchesAndJumps : Prop :=
  ∀ (wk : Fin 192) (a b : Fin 16) (off : BitVec 18) (imm : BitVec 26) (s : State), Going wk.val s →
    let w := wk.val
    let x := wkReg s w a.val
    let y := wkReg s w b.val
    let pc := (s.worker w).pc
    let goes (c : Bool) : Nat := if c then (w32 pc + 4 * off.signExtend 32).toNat else nextPc s w
    let far : Nat := (w32 pc + 4 * imm.signExtend 32).toNat
    SetsPc (.beq wk a b off) w (goes (decide (x = y))) s ∧ SetsPc (.bne wk a b off) w (goes (decide (x ≠ y))) s ∧
    SetsPc (.blt wk a b off) w (goes (decide (x.toInt < y.toInt))) s ∧ SetsPc (.bge wk a b off) w (goes (decide (y.toInt ≤ x.toInt))) s ∧
    SetsPc (.bltu wk a b off) w (goes (decide (x.toNat < y.toNat))) s ∧ SetsPc (.bgeu wk a b off) w (goes (decide (y.toNat ≤ x.toNat))) s ∧
    SetsPc (.jmp wk imm) w far s ∧ SetsPc (.jr wk a) w x.toNat s ∧
    (Runs (.jal wk imm) s fun t => t.worker w = { s.worker w with regs := tset 0 (s.worker w).regs 15 (w32 (pc + 4)), pc := far } ∧ WorkerOnly w s t)

namespace Sys2Proof.Claims
open Sys2Proof.Machine

/-- The words of a local memory that an access of `size` bytes at `i` reads hold no bad bits. -/
def LocalClean (w : Nat) (data : Bool) (i size : Nat) (s : State) : Prop := ∀ k, k < size → tget [] (s.worker w).lerr (lerrKey data (i + k)) = []

/-- A hive's honey store that no cache, page retirement or waiting write touches. -/
def StoreClean (h : HiveId) (s : State) : Prop :=
  (s.hive h).caches = [] ∧ (s.honey h).merge = [] ∧ (s.honey h).retired = [] ∧ (s.honey h).writeback = none

/-- An undamaged, valid word of a honey store. -/
def GoodWord (h : HiveId) (a : Nat) (s : State) : Prop := (s.honey h).stateOf a = .valid ∧ tget [] (s.honey h).err a = []

/-- The bytes of the instruction memory and the data memory seen by a load: `n` bytes from `m` at `a`, least significant first. -/
def bytesAt (m : Memory) (a n : Nat) : Nat := m.getN a n

/-- The value in a worker's destination of a load. -/
def Loaded (w d size : Nat) (v : Nat) (s t : State) : Prop :=
  (t.worker w).regs = (if size = 8 then pairRegs (s.worker w) d (BitVec.ofNat 64 v) else tset 0 (s.worker w).regs d (w32 v)) ∧ (t.worker w).pc = nextPc s w

/-- The value a store takes from the registers. -/
def storeValue (s : State) (w d size : Nat) : Nat := if size = 8 then (pairOf s w d).toNat else (wkReg s w d).toNat % 2 ^ (8 * size)

/-- The `size` bytes of a word at byte address `i`. -/
def bytesOf (x : W64) (i size : Nat) : Nat := x.toNat / 2 ^ (8 * (i % 8)) % 2 ^ (8 * size)

/-- No byte of a store but those of one word changes, and no register. -/
def StoreOnly (h : HiveId) (i : Nat) (s t : State) : Prop :=
  BytesOutside s t h (fun n => n = i / 8) ∧ t.hive (otherHive h) = s.hive (otherHive h) ∧ t.regs = s.regs ∧ t.lanes = s.lanes ∧ t.blocks = s.blocks

/-- A store of `size` bytes at byte `i` of a honey store: every agent reads the word with those bytes changed, all other words as before. -/
def Stored (w : Nat) (h : HiveId) (i size v : Nat) (s t : State) : Prop :=
  (hPeek t h (i / 8)).2 = false ∧
  (∀ k, k < 64 → (hPeek t h (i / 8)).1.getLsbD k =
    if 8 * (i % 8) ≤ k ∧ k < 8 * (i % 8) + 8 * size then v.testBit (k - 8 * (i % 8)) else (hPeek s h (i / 8)).1.getLsbD k) ∧
  (∀ a, a ≠ i / 8 → hPeek t h a = hPeek s h a) ∧ (t.worker w).pc = nextPc s w ∧ (t.worker w).regs = (s.worker w).regs

/-- The load and the store of a size. -/
def LoadStore (wk : Fin 192) (d a : Fin 16) (imm : BitVec 18) (size : Nat) (ld st : Instr) : Prop :=
  (size = 1 ∧ ld = .ldb wk d a imm ∧ st = .stb wk d a imm) ∨ (size = 4 ∧ ld = .ldw wk d a imm ∧ st = .stw wk d a imm) ∨
  (size = 8 ∧ ld = .ldd wk d a imm ∧ st = .std wk d a imm)

end Sys2Proof.Claims

/-- Loads and stores (R382, R383, R385, R387): at wa + IMM, aligned to their size, bytes zero-extended, an even d for a pair; local data memory, instruction memory for loads only, and the honey store of the worker's hive;
else the fault the rules name. A store changes no byte but those it names. The model's own choices in it: log entries 4, 12, 13. -/
def Obligations.LoadsAndStores : Prop :=
  ∀ (wk : Fin 192) (d a : Fin 16) (imm : BitVec 18) (size : Nat) (ld st : Instr) (s : State), LoadStore wk d a imm size ld st → Going wk.val s →
    let w := wk.val
    let e := (wkReg s w a.val + imm.signExtend 32).toNat
    let h := wkHive s w
    (size = 8 → d.val % 2 = 1 → (Runs ld s fun t => FaultsAt w fIllegal (s.worker w).pc s t) ∧ (Runs st s fun t => FaultsAt w fIllegal (s.worker w).pc s t)) ∧
    ((size = 8 → d.val % 2 = 0) →
      (e % size ≠ 0 ∨ placeOf w e = .nowhere → (Runs ld s fun t => FaultsAt w fAddress e s t) ∧ (Runs st s fun t => FaultsAt w fAddress e s t)) ∧
      (e % size = 0 →
        (∀ i, placeOf w e = .imem i →
          (LocalClean w false i size s → Runs ld s fun t => Loaded w d.val size (localBytes w (s.worker w) false i size) s t ∧ WorkerOnly w s t) ∧
          (Runs st s fun t => FaultsAt w fAddress e s t)) ∧
        (∀ i, placeOf w e = .dmem i → LocalClean w true i size s →
          (Runs ld s fun t => Loaded w d.val size (bytesAt (s.worker w).dmem i size) s t ∧ (t.worker w).dmem = (s.worker w).dmem ∧ WorkerOnly w s t) ∧
          (Runs st s fun t => bytesAt (t.worker w).dmem i size = storeValue s w d.val size ∧ (t.worker w).regs = (s.worker w).regs ∧
            (t.worker w).pc = nextPc s w ∧ (∀ k, k < i ∨ i + size ≤ k → (t.worker w).dmem.get k = (s.worker w).dmem.get k) ∧ WorkerOnly w s t)) ∧
        (∀ i, placeOf w e = .honey i false → isComb w = true → hiveUp s h = false →
          (Runs ld s fun t => (t.worker w).wait = some (.load d.val i size) ∧ (t.worker w).access = some (h, s.tick) ∧ (t.worker w).pc = (s.worker w).pc ∧
            (t.worker w).regs = (s.worker w).regs ∧ t.regs = s.regs) ∧
          (Runs st s fun t => (∃ v, v.toNat = storeValue s w d.val size ∧ (t.worker w).wait = some (.store i size v)) ∧ (t.worker w).pc = (s.worker w).pc ∧
            (t.worker w).regs = (s.worker w).regs ∧ t.regs = s.regs)) ∧
        (∀ i, placeOf w e = .honey i false → isComb w = false ∨ hiveUp s h = true →
          (∀ x, WordReads s h (i / 8) x → Runs ld s fun t => Loaded w d.val size (bytesOf x i size) s t ∧ (t.honey h).bytes = (s.honey h).bytes ∧ StoreOnly h i s t) ∧
          (size = 8 → WordOpen s h (i / 8) → Runs st s fun t => WordReads t h (i / 8) (pairOf s w d.val) ∧ (t.worker w).pc = nextPc s w ∧
            (t.worker w).regs = (s.worker w).regs ∧ StoreOnly h i s t) ∧
          (∀ x, size ≠ 8 → WordReads s h (i / 8) x → (s.honey h).merge.length < 8 → Runs st s fun t =>
            Stored w h i size (storeValue s w d.val size) s t ∧ StoreOnly h i s t)) ∧
        (∀ i, placeOf w e = .honey i true → StoreClean h s → (∀ k, k < 8 → GoodWord h (i / 64 * 8 + k) s) →
          (Runs ld s fun t => Loaded w d.val size (bytesAt (s.honey h).bytes i size) s t ∧ t.honey h = s.honey h ∧ t.regs = s.regs) ∧
          (Runs st s fun t => Stored w h i size (storeValue s w d.val size) s t ∧ t.honey h = s.honey h ∧ t.regs = s.regs))))

namespace Sys2Proof.Claims
open Sys2Proof.Machine

/-- An instruction that ends with a result register, the PC behind it, and the worker running on; no other register changes. -/
def Ends (w r : Nat) (v : W32) (s t : State) : Prop :=
  (t.worker w).regs = tset 0 (s.worker w).regs r v ∧ (t.worker w).pc = nextPc s w ∧ (t.worker w).state = .running

/-- The same with a pair beside the result. A result register of the pair keeps the result (log entry 103). -/
def EndsPair (w d : Nat) (x : W64) (r : Nat) (v : W32) (s t : State) : Prop :=
  (t.worker w).regs = tset 0 (pairRegs (s.worker w) d x) r v ∧ (t.worker w).pc = nextPc s w ∧ (t.worker w).state = .running

end Sys2Proof.Claims

/-- Record streams (R388, R389): SIN opens the input port and reads ahead at most 16 records, GET takes the next record with its status, SOUT opens the output port, PUT appends a record, which reaches the store; the
status 1 at the end of the count; an address out of the store is a fault; an access whose hive does not answer waits. The model's own choices in it: log entries 13, 59. -/
def Obligations.RecordStreams : Prop :=
  ∀ (wk : Fin 192) (d a b : Fin 16) (s : State), Going wk.val s →
    let w := wk.val
    let h := wkHive s w
    let x := (wkReg s w a.val).toNat
    let n := (wkReg s w b.val).toNat
    (honeyWords ≤ x → (Runs (.sin wk a b) s fun t => FaultsAt w fAddress x s t) ∧ (Runs (.sout wk a b) s fun t => FaultsAt w fAddress x s t)) ∧
    (x < honeyWords → Runs (.sin wk a b) s fun t => (t.worker w).inPort.opened = true ∧ (t.worker w).inPort.buf.length ≤ 16 ∧
      (t.worker w).inPort.waddr = x + (t.worker w).inPort.buf.length ∧ (t.worker w).inPort.left + (t.worker w).inPort.buf.length = n ∧
      (t.worker w).regs = (s.worker w).regs ∧ (t.worker w).pc = nextPc s w ∧ t.lanes = s.lanes) ∧
    (x < honeyWords → (s.worker w).outPort.buf = [] → Runs (.sout wk a b) s fun t => (t.worker w).outPort = ⟨x, n, [], true⟩ ∧
      (t.worker w).regs = (s.worker w).regs ∧ (t.worker w).pc = nextPc s w ∧ WorkerOnly w s t) ∧
    (x < honeyWords → (s.worker w).outPort.buf ≠ [] → hiveUp s h = false → Runs (.sout wk a b) s fun t =>
      (t.worker w).state = .waiting ∧ (t.worker w).wait = some (.sout x n) ∧ (t.worker w).pc = (s.worker w).pc ∧ WorkerOnly w s t) ∧
    (d.val % 2 = 1 → (Runs (.get wk d a) s fun t => FaultsAt w fIllegal (s.worker w).pc s t) ∧ (Runs (.put wk d a) s fun t => FaultsAt w fIllegal (s.worker w).pc s t)) ∧
    (d.val % 2 = 0 →
      (∀ v bad rest, (s.worker w).inPort.buf = (v, bad) :: rest → Runs (.get wk d a) s fun t => EndsPair w d.val v a.val (if bad then 2 else 0) s t ∧ t.lanes = s.lanes) ∧
      (∀ x, (s.worker w).inPort.opened = true → (s.worker w).inPort.buf = [] → (s.worker w).inPort.left ≠ 0 → (s.worker w).inPort.waddr < honeyWords → hiveUp s h = true →
        WordReads s h (s.worker w).inPort.waddr x → Runs (.get wk d a) s fun t => EndsPair w d.val x a.val 0 s t ∧ t.lanes = s.lanes) ∧
      ((s.worker w).inPort.buf = [] → (s.worker w).inPort.left = 0 → Runs (.get wk d a) s fun t => EndsPair w d.val 0 a.val 1 s t ∧ WorkerOnly w s t) ∧
      ((s.worker w).inPort.buf = [] → (s.worker w).inPort.left ≠ 0 → (s.worker w).inPort.waddr < honeyWords → hiveUp s h = false →
        Runs (.get wk d a) s fun t => (t.worker w).state = .waiting ∧ (t.worker w).wait = some (.get d.val a.val) ∧ (t.worker w).pc = (s.worker w).pc ∧ WorkerOnly w s t)) ∧
    (d.val % 2 = 0 → (s.worker w).outPort.buf = [] →
      ((s.worker w).outPort.left = 0 → Runs (.put wk d a) s fun t => Ends w a.val 1 s t ∧ (t.worker w).outPort = (s.worker w).outPort ∧ WorkerOnly w s t) ∧
      ((s.worker w).outPort.left ≠ 0 → (s.worker w).outPort.waddr < honeyWords → hiveUp s h = true →
        WordOpen s h (s.worker w).outPort.waddr →
        Runs (.put wk d a) s fun t => Ends w a.val 0 s t ∧ WordReads t h (s.worker w).outPort.waddr (pairOf s w d.val) ∧
          (t.worker w).outPort.waddr = (s.worker w).outPort.waddr + 1 ∧ (t.worker w).outPort.left = (s.worker w).outPort.left - 1 ∧
          (t.worker w).outPort.buf = [] ∧ BytesOutside s t h (fun k => k = (s.worker w).outPort.waddr) ∧ t.regs = s.regs))

/-- Queue instructions (R389, R390, 08_queues_placement.md R264–R266, R271): the producer's result in a register and in Q_PSTATUS of the worker's path; the packet the worker holds; a pop of
its own mailbox or of a user queue. The model's own choices in it: log entries 1, 13, 103. -/
def Obligations.QueueInstructions : Prop :=
  (∀ (wk : Fin 192) (d a b : Fin 16) (d0 : W64) (hd tl rs : BitVec 32) (s : State), Going wk.val s →
    let w := wk.val
    let h := wkHive s w
    let q := (wkReg s w a.val).toNat
    let n := (wkReg s w b.val).toNat
    let more := if (s.queue h q).opened.isSome then n else n + 1
    ((s.worker w).openQ = none ∨ (s.worker w).openQ = some q) → QueueAt s h q d0 hd tl rs → QueueOpenTo s h q (wkProducer w) d0 →
    ((s.queue h q).opened = none ∧ rs = tl ∨ (s.queue h q).opened = some (wkProducer w) ∧ rs ≠ tl) →
    (rs - tl).toNat + more ≤ 2 ^ d0Size d0 - 1 → (rs - tl).toNat + more ≤ 2 ^ 24 →
    (more ≤ roomOf d0 hd rs →
      Runs (.qres wk d a b) s fun t => Ends w d.val (w32 qOk) s t ∧ (t.worker w).openQ = some q ∧ (t.queue h q).opened = some (wkProducer w) ∧
        ((s.queue h q).opened = none → (t.queue h q).written = 0) ∧ ((s.queue h q).opened ≠ none → (t.queue h q).written = (s.queue h q).written) ∧
        QueueAt t h q d0 hd tl (ringPos rs more) ∧ qResult t (wkPath w) h = w32 qOk ∧ BytesOutside s t h (fun k => k = 4 * q + 3) ∧ t.regs = s.regs) ∧
    (roomOf d0 hd rs < more →
      Runs (.qres wk d a b) s fun t => Ends w d.val (w32 qFull) s t ∧ (t.worker w).openQ = (s.worker w).openQ ∧ QueueAt t h q d0 hd tl rs ∧
        qResult t (wkPath w) h = w32 qFull ∧ (t.honey h).bytes = (s.honey h).bytes ∧ t.regs = s.regs)) ∧
  (∀ (wk : Fin 192) (d a b : Fin 16) (k : Nat) (s : State), Going wk.val s → (s.worker wk.val).openQ = some k → k ≠ (wkReg s wk.val a.val).toNat →
    Runs (.qres wk d a b) s fun t => Ends wk.val d.val (w32 qBusy) s t ∧ t.hiveA = s.hiveA ∧ t.hiveB = s.hiveB ∧ t.regs = s.regs) ∧
  (∀ (wk : Fin 192) (d a : Fin 16) (q : Nat) (d0 : W64) (hd tl rs : BitVec 32) (s : State), Going wk.val s →
    let w := wk.val
    let h := wkHive s w
    let n := (s.queue h q).written
    (s.worker w).openQ = some q → QueueAt s h q d0 hd tl rs → QueueOpenTo s h q (wkProducer w) d0 → (s.queue h q).opened = some (wkProducer w) →
    (d.val % 2 = 0 → n + 1 < (rs - tl).toNat → WordOpen s h (ringAddr d0 (ringPos tl (n + 1))) →
      Runs (.qpush wk d a) s fun t => Ends w a.val (w32 qOk) s t ∧ (t.queue h q).written = n + 1 ∧ (t.queue h q).opened = some (wkProducer w) ∧
        WordReads t h (ringAddr d0 (ringPos tl (n + 1))) (pairOf s w d.val) ∧ QueueAt t h q d0 hd tl rs ∧ qResult t (wkPath w) h = w32 qOk ∧
        BytesOutside s t h (fun k => k = ringAddr d0 (ringPos tl (n + 1))) ∧ (t.worker w).openQ = some q ∧ t.regs = s.regs) ∧
    (n < 2 ^ 24 → WordOpen s h (ringAddr d0 tl) →
      Runs (.qcommit wk d) s fun t => Ends w d.val (w32 qOk) s t ∧ (t.worker w).openQ = none ∧ (t.queue h q).opened = none ∧ qResult t (wkPath w) h = w32 qOk ∧
        (n ≠ 0 → (t.queue h q).seq = (s.queue h q).seq + 1 ∧ QueueAt t h q d0 hd (ringPos tl (n + 1)) (ringPos tl (n + 1)) ∧
          (∃ x, WordReads t h (ringAddr d0 tl) x ∧ fieldN x.toNat 63 40 = n ∧ some (fieldN x.toNat 39 36) = qClass q ∧ x.extractLsb' 0 32 = (s.queue h q).seq) ∧
          BytesOutside s t h (fun k => k = 4 * q + 2 ∨ k = 4 * q + 3 ∨ k = ringAddr d0 tl)) ∧
        (n = 0 → (t.queue h q).seq = (s.queue h q).seq ∧ QueueAt t h q d0 hd tl tl ∧ BytesOutside s t h (fun k => k = 4 * q + 3)) ∧ t.regs = s.regs) ∧
    (Runs (.qabort wk d) s fun t => Ends w d.val (w32 qOk) s t ∧ (t.worker w).openQ = none ∧ (t.queue h q).opened = none ∧ QueueAt t h q d0 hd tl tl ∧
      (t.queue h q).seq = (s.queue h q).seq ∧ qResult t (wkPath w) h = w32 qOk ∧ BytesOutside s t h (fun k => k = 4 * q + 3) ∧ t.regs = s.regs)) ∧
  (∀ (wk : Fin 192) (d a : Fin 16) (s : State), Going wk.val s →
    (d.val % 2 = 1 → Runs (.qpush wk d a) s fun t => FaultsAt wk.val fIllegal (s.worker wk.val).pc s t) ∧
    ((s.worker wk.val).openQ = none → owedQueue s (wkHive s wk.val) wk.val = none →
      (d.val % 2 = 0 → Runs (.qpush wk d a) s fun t => Ends wk.val a.val (w32 qAborted) s t) ∧ (Runs (.qcommit wk d) s fun t => Ends wk.val d.val (w32 qAborted) s t) ∧
      (Runs (.qabort wk d) s fun t => Ends wk.val d.val (w32 qAborted) s t))) ∧
  (∀ (wk : Fin 192) (d a b : Fin 16) (d0 : W64) (hd tl rs : BitVec 32) (s : State), Going wk.val s →
    let w := wk.val
    let h := wkHive s w
    let q := (wkReg s w a.val).toNat
    (d.val % 2 = 1 → Runs (.qpop wk d a b) s fun t => FaultsAt w fIllegal (s.worker w).pc s t) ∧
    (d.val % 2 = 0 → q = 256 + w ∨ (1024 ≤ q ∧ q < 65536) → QueueAt s h q d0 hd tl rs → RingAbove d0 →
      (∀ x, hd ≠ tl → WordReads s h (ringAddr d0 hd) x → Runs (.qpop wk d a b) s fun t => EndsPair w d.val x b.val (w32 qOk) s t ∧
        QueueAt t h q d0 (hd + 1) tl rs ∧ BytesOutside s t h (fun k => k = 4 * q + 1) ∧ t.regs = s.regs) ∧
      (hd = tl → Runs (.qpop wk d a b) s fun t => EndsPair w d.val 0 b.val (w32 qNone) s t ∧ QueueAt t h q d0 hd tl rs ∧
        (t.honey h).bytes = (s.honey h).bytes ∧ t.regs = s.regs)) ∧
    (d.val % 2 = 0 → q ≠ 256 + w → q < 1024 ∨ 65536 ≤ q → Runs (.qpop wk d a b) s fun t => (∃ v, EndsPair w d.val 0 b.val v s t) ∧
      bit (t.sel (wkPath w) (qPage h) Reg.Q_STATUS) 10 = true ∧ t.hiveA = s.hiveA ∧ t.hiveB = s.hiveB))

namespace Sys2Proof.Claims
open Sys2Proof.Machine

/-- A lease that is free with nothing waiting and nothing owed to the worker. -/
def LeaseFree (s : State) (g l : Nat) : Prop := (s.lease g l).owner = none ∧ (s.lease g l).waiters = []

/-- Every other lease is as it was, and so are the lanes and the blocks. -/
def LeaseOnly (g l : Nat) (s t : State) : Prop :=
  (∀ k m, k ≠ g ∨ m ≠ l → t.lease k m = s.lease k m) ∧ t.lanes = s.lanes ∧ t.blocks = s.blocks

end Sys2Proof.Claims

/-- Jobs, leases, waiting and stops (R386, R391, R394–R396, R402): JPOP takes the next job of the mailbox into w1–w4 and jumps to its kernel, or waits; JEND; LACQ, LTRY and LREL with their results; WAIT; BRK, HALT and a word
that is no instruction; RGR, RGD and RGW on a register of the device, shown on LNK_RETRY_TMO of a lane, and on an address that names none. The model's own choices in it: log entries 13, 27, 57, 60. -/
def Obligations.JobsLeasesAndStops : Prop :=
  (∀ (wk : Fin 192) (d0 x j0 j1 : W64) (hd tl rs : BitVec 32) (s : State), Going wk.val s →
    let w := wk.val
    let h := wkHive s w
    QueueAt s h (256 + w) d0 hd tl rs → RingAbove d0 → 3 ≤ (tl - hd).toNat → WordReads s h (ringAddr d0 hd) x → WordReads s h (ringAddr d0 (ringPos hd 1)) j0 →
    WordReads s h (ringAddr d0 (ringPos hd 2)) j1 → fieldN x.toNat 63 40 = 2 →
    (∀ e, kernelEntry s w (fieldN j0.toNat 63 48) = some e →
      Runs (.jpop wk) s fun t => (t.worker w).jobActive = true ∧ (t.worker w).jobTag = j0.extractLsb' 0 32 ∧ wkReg t w 1 = j0.extractLsb' 0 32 ∧
        wkReg t w 2 = j1.extractLsb' 0 32 ∧ wkReg t w 3 = j1.extractLsb' 32 32 ∧ wkReg t w 4 = w32 (fieldN j0.toNat 47 40) ∧ wkReg t w 15 = w32 ((s.worker w).pc + 4) ∧
        (∀ r, 5 ≤ r → r ≠ 15 → wkReg t w r = wkReg s w r) ∧ wkReg t w 0 = wkReg s w 0 ∧
        (t.worker w).pc = 4 * fld (ktabOf s w e) 31 18 ∧ (t.worker w).state = .running ∧ QueueAt t h (256 + w) d0 (ringPos hd 3) tl rs ∧
        BytesOutside s t h (fun k => k = 4 * (256 + w) + 1) ∧ t.regs = s.regs) ∧
    (kernelEntry s w (fieldN j0.toNat 63 48) = none → tl = ringPos hd 3 →
      Runs (.jpop wk) s fun t => (t.worker w).state = .waiting ∧ (t.worker w).wait = some .job ∧ (t.worker w).pc = (s.worker w).pc ∧ (t.worker w).regs = (s.worker w).regs ∧
        t.reg (wrkPage w) Reg.WRK_KERNEL_MISS_CNT = satInc (s.reg (wrkPage w) Reg.WRK_KERNEL_MISS_CNT) 1 ∧ Marked t (wrkPage w) Reg.WRK_EVENTS 3)) ∧
  (∀ (wk : Fin 192) (d0 : W64) (hd rs : BitVec 32) (s : State), Going wk.val s → QueueAt s (wkHive s wk.val) (256 + wk.val) d0 hd hd rs →
    Runs (.jpop wk) s fun t => t.worker wk.val = { s.worker wk.val with state := .waiting, wait := some .job } ∧ WorkerOnly wk.val s t) ∧
  (∀ (wk : Fin 192) (s : State), Going wk.val s →
    ((s.worker wk.val).jobActive = true → Runs (.jend wk) s fun t =>
      t.worker wk.val = { s.worker wk.val with jobActive := false, jobTag := 0, pc := (wkReg s wk.val 15).toNat } ∧
      t.reg (wrkPage wk.val) Reg.WRK_JOB_CNT = satInc (s.reg (wrkPage wk.val) Reg.WRK_JOB_CNT) 1 ∧ t = { s with workers := t.workers, regs := t.regs }) ∧
    ((s.worker wk.val).jobActive = false → Runs (.jend wk) s fun t => FaultsAt wk.val fIllegal (s.worker wk.val).pc s t)) ∧
  (∀ (wk : Fin 192) (d a : Fin 16) (n : Fin 32) (s : State), Going wk.val s →
    let w := wk.val
    let g := wkRegion w
    let v := (wkReg s w a.val).toNat
    (64 ≤ v → SetsReg (.lacq wk d a n) w d.val (w32 lRange) s ∧ SetsReg (.ltry wk d a n) w d.val (w32 lRange) s ∧ SetsReg (.lrel wk d a) w d.val (w32 lRange) s) ∧
    (v < 64 → w ∉ (s.lease g v).revoked → LeaseFree s g v → ∀ c, c = .lacq wk d a n ∨ c = .ltry wk d a n →
      Runs c s fun t => Ends w d.val (w32 lGranted) s t ∧ (t.lease g v).owner = some w ∧ (t.lease g v).since = s.tick ∧ (t.lease g v).n = max 6 (min 30 n.val) ∧
        LeaseOnly g v s t) ∧
    (∀ o, v < 64 → w ∉ (s.lease g v).revoked → (s.lease g v).owner = some o → o ≠ w → (s.lease g v).frozenAt = none →
      SetsReg (.ltry wk d a n) w d.val (w32 lHeld) s ∧
      Runs (.lacq wk d a n) s fun t => (t.worker w).state = .waiting ∧ (t.worker w).wait = some (.lease d.val v n.val) ∧ (t.worker w).pc = (s.worker w).pc ∧
        (t.lease g v).waiters = (s.lease g v).waiters ++ [(w, s.tick, n.val)] ∧ (t.lease g v).owner = some o ∧ LeaseOnly g v s t) ∧
    (v < 64 → w ∉ (s.lease g v).revoked → (s.lease g v).owner = some w → Runs (.lrel wk d a) s fun t => Ends w d.val (w32 lGranted) s t ∧
      (t.lease g v).owner = none ∧ (t.lease g v).waiters = (s.lease g v).waiters ∧ LeaseOnly g v s t) ∧
    (v < 64 → w ∉ (s.lease g v).revoked → (s.lease g v).owner ≠ some w → SetsReg (.lrel wk d a) w d.val (w32 lNotOwner) s) ∧
    (v < 64 → w ∈ (s.lease g v).revoked → ∀ c, c = .lacq wk d a n ∨ c = .ltry wk d a n ∨ c = .lrel wk d a →
      Runs c s fun t => Ends w d.val (w32 lRevoked) s t ∧ (t.lease g v).owner = (s.lease g v).owner ∧ (t.lease g v).revoked = (s.lease g v).revoked.erase w ∧
        LeaseOnly g v s t)) ∧
  (∀ (wk : Fin 192) (d : Fin 16) (mask : BitVec 5) (s : State), Going wk.val s →
    let ev := BitVec.ofNat 5 (wkEvents (portFill wk.val 16 s) wk.val) &&& mask
    (mask = 0 → Runs (.wait wk d mask) s fun t => FaultsAt wk.val fIllegal (s.worker wk.val).pc s t) ∧
    (mask ≠ 0 → ev ≠ 0 → Runs (.wait wk d mask) s fun t => Ends wk.val d.val (ev.zeroExtend 32) s t ∧
      (ev.getLsbD 3 = true → (t.worker wk.val).doorbell = false) ∧ (ev.getLsbD 4 = true → (t.worker wk.val).frameEv = false)) ∧
    (mask ≠ 0 → ev = 0 → Runs (.wait wk d mask) s fun t => (t.worker wk.val).state = .waiting ∧ (t.worker wk.val).wait = some (.events d.val mask) ∧
      (t.worker wk.val).pc = (s.worker wk.val).pc)) ∧
  (∀ (wk : Fin 192) (s : State), Going wk.val s →
    ((s.worker wk.val).dbgEn = true → Runs (.brk wk) s fun t => (t.worker wk.val).state = .halted ∧ (t.worker wk.val).pc = nextPc s wk.val ∧
      Marked t (wrkPage wk.val) Reg.WRK_EVENTS 1 ∧ (t.worker wk.val).regs = (s.worker wk.val).regs) ∧
    ((s.worker wk.val).dbgEn = false → Runs (.brk wk) s fun t => FaultsAt wk.val fBreak (s.worker wk.val).pc s t) ∧
    (Runs (.halt wk) s fun t => (t.worker wk.val).state = .stopped ∧ (t.worker wk.val).regs = (s.worker wk.val).regs ∧
      (t.worker wk.val).jobActive = (s.worker wk.val).jobActive ∧ WorkerOnly wk.val s t) ∧
    (∀ x, wordListed x = false → Runs (.illegal wk x) s fun t => FaultsAt wk.val fIllegal (s.worker wk.val).pc s t)) ∧
  (∀ (wk : Fin 192) (d a b : Fin 16) (l : Fin 20) (s : State), Going wk.val s → gate s 8 = .serve →
    let w := wk.val
    let v := wkReg s w b.val
    (wkReg s w a.val = addrOf (lanePage l.val) Reg.LNK_RETRY_TMO →
      (∀ c, c = .rgr wk d a ∨ c = .rgd wk d a → Runs c s fun t => Ends w d.val (s.reg (lanePage l.val) Reg.LNK_RETRY_TMO) s t ∧
        (t.worker w).accErr = (s.worker w).accErr ∧ t.regs = s.regs) ∧
      (1 ≤ v.toNat → v.toNat ≤ 1024 → Runs (.rgw wk a b) s fun t => t.reg (lanePage l.val) Reg.LNK_RETRY_TMO = v ∧ (t.worker w).pc = nextPc s w ∧
        (t.worker w).regs = (s.worker w).regs ∧ (t.worker w).accErr = (s.worker w).accErr ∧ t.lanes = s.lanes)) ∧
    (pageOf s (wkReg s w a.val) = none →
      (∀ c, c = .rgr wk d a ∨ c = .rgd wk d a → Runs c s fun t => Ends w d.val 0 s t ∧ (t.worker w).accErr = true ∧ t.regs = s.regs) ∧
      (Runs (.rgw wk a b) s fun t => (t.worker w).pc = nextPc s w ∧ (t.worker w).accErr = true ∧ (t.worker w).regs = (s.worker w).regs ∧ t.regs = s.regs)))

namespace Sys2Proof.Claims
open Sys2Proof.Machine

/-- The domain of a worker's page. -/
abbrev wkDom (wk : Fin 192) : Nat := wkRegion wk.val

/-- The worker a path's selection leaves as the reset of R406 leaves it. -/
def ResetWorker (x y : Worker) (reload : Bool) : Prop :=
  y.state = .stopped ∧ y.regs = [] ∧ y.pc = 0 ∧ y.jobActive = false ∧ y.openQ = none ∧ y.wait = none ∧ y.dbgEn = false ∧ y.imem = x.imem ∧ y.dmem = x.dmem ∧
  y.ktab = (if reload then [] else x.ktab)

/-- A halt as R402 has it. -/
def Halted (w : Nat) (s t : State) : Prop :=
  (t.worker w).state = .halted ∧ (t.worker w).regs = (s.worker w).regs ∧ (t.worker w).pc = (s.worker w).pc ∧ Marked t (wrkPage w) Reg.WRK_EVENTS 1

end Sys2Proof.Claims

/-- Control of a worker (R380, R394, R401, R402, R404–R406): the bits of WRK_CTL, the doorbell, the memory and kernel-table windows, the cache flush, WRK_DEBUG of JTAG, and what follows of its own: a wait that ends,
the timer, a halt that takes effect, a flush done, an access without answer. The model's own choices in it: log entries 7, 15, 58. -/
def Obligations.WorkerControl : Prop :=
  (∀ (p : Path) (wk : Fin 192) (s : State), Ready p (wkDom wk) s →
    let w := wk.val
    let x := s.worker w
    (Runs (.wrkDoorbell p wk) s fun t => t.worker w = { x with doorbell := true } ∧ t.regs = s.regs) ∧
    (x.state = .stopped → Runs (.wrkRun p wk) s fun t => t.worker w = { x with state := .running, pc := 0, wait := none } ∧ t.regs = s.regs) ∧
    (x.state = .running ∨ x.state = .waiting → Runs (.wrkCtlHalt p wk) s fun t => t.worker w = { x with haltReq := true } ∧ t.regs = s.regs) ∧
    (x.state = .halted →
      (Runs (.wrkResume p wk) s fun t => t.worker w = { x with state := .running, stepping := false } ∧ t.regs = s.regs) ∧
      (Runs (.wrkCtlStep p wk) s fun t => t.worker w = { x with state := .running, stepping := true } ∧ t.regs = s.regs)) ∧
    (Runs (.wrkDbgEn p wk) s fun t => t.worker w = { x with dbgEn := true } ∧ t.regs = s.regs) ∧
    (Runs (.wrkStop p wk) s fun t => ResetWorker x (t.worker w) false ∧ t.lanes = s.lanes) ∧
    (Runs (.wrkReset p wk) s fun t => ResetWorker x (t.worker w) true ∧ t.lanes = s.lanes) ∧
    (Runs (.wrkFlush p wk) s fun t => t.worker w = (if isComb w then x else { x with flushing := true, flushed := false }) ∧ t.regs = s.regs)) ∧
  (∀ (p : Path) (wk : Fin 192) (v : W32) (s : State), Ready p (wkDom wk) s →
    let w := wk.val
    let x := s.worker w
    let data := bit (s.sel p (wrkPage w) Reg.WRK_MEM_SEL) 0
    let i := fld (s.sel p (wrkPage w) Reg.WRK_MEM_SEL) 17 2
    let e := fld (s.sel p (wrkPage w) Reg.WRK_KT_SEL) 4 0
    (i < memWords w data → memLocked w data i = false → data = true ∨ x.state = .stopped ∨ x.state = .halted →
      Runs (.wrkMemDataWrite p wk v) s fun t =>
        (data = true → bytesAt (t.worker w).dmem (4 * i) 4 = v.toNat ∧ (t.worker w).imem = x.imem ∧
          ∀ k, k < 4 * i ∨ 4 * i + 4 ≤ k → (t.worker w).dmem.get k = x.dmem.get k) ∧
        (data = false → bytesAt (t.worker w).imem (4 * i) 4 = v.toNat ∧ (t.worker w).dmem = x.dmem ∧
          ∀ k, k < 4 * i ∨ 4 * i + 4 ≤ k → (t.worker w).imem.get k = x.imem.get k) ∧ (t.worker w).regs = x.regs) ∧
    (i < memWords w data → memLocked w data i = true → Runs (.wrkMemDataWrite p wk v) s fun t =>
      (t.worker w).imem = x.imem ∧ (t.worker w).dmem = x.dmem ∧ Marked t (wrkPage w) Reg.WRK_EVENTS 4 ∧ Marked t (wrkPage w) Reg.ERR_STATUS 3) ∧
    (16 ≤ e → Runs (.wrkKtabWrite p wk v) s fun t => t.worker w = { x with ktab := tset 0 x.ktab e (v &&& 0xFFFDFFFF) }) ∧
    (e < 16 → Runs (.wrkKtabWrite p wk v) s fun t => t.worker w = x ∧ Marked t (wrkPage w) Reg.ERR_STATUS 3)) ∧
  (∀ (wk : Fin 192) (s : State),
    let w := wk.val
    let x := s.worker w
    (x.state = .running ∨ x.state = .waiting → Runs (.wrkDebugHalt wk) s fun t => t.worker w = { x with haltReq := true } ∧ t.chip.jtagIr = irDebug) ∧
    (x.state = .halted → (Runs (.wrkDebugResume wk) s fun t => t.worker w = { x with state := .running, stepping := false }) ∧
      (Runs (.wrkDebugStep wk) s fun t => t.worker w = { x with state := .running, stepping := true })) ∧
    (x.haltReq = true → x.flushing = false → x.state = .running → x.wait = none → Runs (.haltTakesEffect wk) s fun t => Halted w s t) ∧
    (x.haltReq = true → x.flushing = false → x.state = .waiting → Runs (.haltTakesEffect wk) s fun t => Halted w s t) ∧
    (x.flushing = true → (s.hive (ownHive w)).caches = [] → Runs (.flushDone wk) s fun t => t.worker w = { x with flushing := false, flushed := true } ∧ t.regs = s.regs) ∧
    (∀ d mask, wkClocked s w = true → x.flushing = false → x.stepping = false → x.haltReq = false → x.wait = some (.events d mask) →
      let ev := BitVec.ofNat 5 (wkEvents (portFill w 16 s) w) &&& mask
      (ev ≠ 0 → Runs (.waitConditionMet wk) s fun t => Ends w d (ev.zeroExtend 32) s t ∧ (t.worker w).wait = none) ∧
      (ev ≠ 0 → x.timer = 0 → mask.getLsbD 2 = true → Runs (.wrkTimerExpiry wk) s fun t => Ends w d (ev.zeroExtend 32) s t ∧ ev.getLsbD 2 = true ∧
        (t.worker w).wait = none)) ∧
    (∀ h n d a z, isComb w = true → x.access = some (h, n) → n + 4096 ≤ s.tick → hiveUp s h = false → x.wait = some (.load d a z) →
      Runs (.honeyAccessTimeout wk) s fun t => FaultsAt w fUnreachable (0x40000000 + a) s t))

/-- Leases of a region at large (R395–R398, R407): a free lease goes to the waiter of the earliest request, then in rotating priority, whose LACQ completes; one whose duration has ended is revoked, counted and its owner owed REVOKED; the host's
acquire, which never waits, and release; a forced release, through JTAG alone. The model's own choices in it: log entry 60. -/
def Obligations.LeasesOfARegion : Prop :=
  (∀ (g : Fin 8) (l : Fin 64) (q : Nat × Nat × Nat) (s : State), (s.lease g.val l.val).owner = none → nextWaiter (s.region g.val).ptr (s.lease g.val l.val).waiters = some q →
    (∀ y ∈ (s.lease g.val l.val).waiters, waiterBefore (s.region g.val).ptr y q = false) ∧
    Runs (.leaseGrant g l) s fun t => (t.lease g.val l.val).owner = some q.1 ∧ (t.lease g.val l.val).since = s.tick ∧
      (t.lease g.val l.val).waiters = (s.lease g.val l.val).waiters.erase q ∧
      (∀ d v n, (s.worker q.1).wait = some (.lease d v n) → Ends q.1 d (w32 lGranted) s t ∧ (t.worker q.1).wait = none) ∧ LeaseOnly g.val l.val s t ∧ t.regs = s.regs) ∧
  (∀ (g : Fin 8) (l : Fin 64) (o : Nat) (s : State),
    let x := s.lease g.val l.val
    x.owner = some o → x.frozenAt = none → x.since + 2 ^ x.n < s.tick →
    Runs (.leaseExpiry g l) s fun t => (t.lease g.val l.val).owner = none ∧ o ∈ (t.lease g.val l.val).revoked ∧ (t.lease g.val l.val).waiters = x.waiters ∧
      t.reg (lsePage g.val) Reg.LSE_REVOKE_CNT = satInc (s.reg (lsePage g.val) Reg.LSE_REVOKE_CNT) 1 ∧ Marked t (lsePage g.val) Reg.LSE_EVENTS 0 ∧
      (o < 192 → (t.worker o).leaseRevoked = true) ∧ LeaseOnly g.val l.val s t) ∧
  (∀ (p : Path) (g : Fin 8) (v : W32) (s : State), Ready p g.val s →
    let l := fld (s.sel p (lsePage g.val) Reg.LSE_SEL) 5 0
    let x := s.lease g.val l
    let result (t : State) : W32 := t.sel p (lsePage g.val) Reg.LSE_HOST_RESULT
    (hostOwner ∉ x.revoked → LeaseFree s g.val l → Runs (.lseAcquire p g v) s fun t => result t = w32 lGranted ∧ (t.lease g.val l).owner = some hostOwner ∧
      (t.lease g.val l).n = max 6 (min 30 (fld v 12 8)) ∧ LeaseOnly g.val l s t) ∧
    (hostOwner ∉ x.revoked → (∃ o, x.owner = some o ∧ o ≠ hostOwner) → x.frozenAt = none → Runs (.lseAcquire p g v) s fun t => result t = w32 lHeld ∧
      t.lease g.val l = x ∧ LeaseOnly g.val l s t) ∧
    (hostOwner ∉ x.revoked → x.owner = some hostOwner → Runs (.lseRelease p g) s fun t => result t = w32 lGranted ∧ (t.lease g.val l).owner = none ∧ LeaseOnly g.val l s t) ∧
    (hostOwner ∉ x.revoked → x.owner ≠ some hostOwner → Runs (.lseRelease p g) s fun t => result t = w32 lNotOwner ∧ t.lease g.val l = x ∧ LeaseOnly g.val l s t)) ∧
  (∀ (g : Fin 8) (v : W32) (o : Nat) (s : State), Ready .jtag g.val s →
    let l := fld v 5 0
    (s.lease g.val l).owner = some o → (s.lease g.val l).waiters = [] →
    Runs (.lseForce .jtag g v) s fun t => (t.lease g.val l).owner = none ∧ o ∈ (t.lease g.val l).revoked ∧ Marked t (lsePage g.val) Reg.LSE_EVENTS 2 ∧
      t.reg (lsePage g.val) Reg.LSE_FORCE_CNT = satInc (s.reg (lsePage g.val) Reg.LSE_FORCE_CNT) 1 ∧ LeaseOnly g.val l s t)

/-! ### 13_memory.md -/

namespace Sys2Proof.Claims
open Sys2Proof.Machine

/-- Only the honey store of a hive differs. -/
def HoneyOnly (h : HiveId) (s t : State) : Prop := t = s.modHoney h (fun _ => t.honey h)

/-- What lies outside the hives, their guards and the registers is as it was. -/
def DeviceKept (s t : State) : Prop :=
  t.tick = s.tick ∧ t.cells = s.cells ∧ t.cals = s.cals ∧ t.blocks = s.blocks ∧ t.combs = s.combs ∧ t.lanes = s.lanes ∧ t.hks = s.hks ∧ t.staged = s.staged

/-- A word of a non-volatile store. -/
def nvWord (s : State) (h : HiveId) (i : Nat) : W64 := mramWord (s.hive h).mram i

/-- A non-volatile store after word writes, in their order. -/
def written (m : Memory) (ws : List (Nat × W64)) : Memory := ws.foldl (fun m w => mramPut m w.1 w.2) m

/-- The command a hive's journal has taken up: BUSY, with nothing written yet (R428, R436). -/
def NvsTaken (h : HiveId) (s t : State) (P : NvsCmd → Prop) : Prop :=
  (∃ c, (t.hive h).nvs = some c ∧ c.src = 0 ∧ P c) ∧ (t.hive h).nvsState = 1 ∧ (t.hive h).nvsResult = 0 ∧ (t.hive h).mram = (s.hive h).mram

end Sys2Proof.Claims

/-- The upkeep of a honey store (R413–R419): a corrected word is written back; the forager passes a good word, has one bad bit corrected and counted, and poisons a word of two; a late
pass is counted once; every bucket loses 1 and stops at 0; a merge-buffer entry idle for 64 ticks is flushed as one full write. The model's own choices in it: log entry 6. -/
def Obligations.HoneyStoreUpkeep : Prop :=
  (∀ (h : HiveId) (w : Nat) (s : State), (s.honey h).writeback = some w →
    Runs (.correctedWriteback h) s fun t => (t.honey h).writeback = none ∧ tget [] (t.honey h).err w = [] ∧
      (∀ a, a ≠ w → tget [] (t.honey h).err a = tget [] (s.honey h).err a) ∧ (t.honey h).bytes = (s.honey h).bytes ∧ (t.honey h).st = (s.honey h).st ∧ HoneyOnly h s t) ∧
  (∀ (h : HiveId) (s : State),
    let y := s.honey h
    let n := y.pos
    bit (s.reg (hsmPage h) Reg.HSM_CTL) 0 = true → forageDue y ≤ s.tick → (∀ m ∈ y.merge, m.waddr ≠ n) → y.writeback = none → y.retiredAt n = false → n + 1 < honeyWords →
    (y.stateOf n ≠ .valid ∨ tget [] y.err n = [] → Runs (.foragerRead h) s fun t => t.honey h = { y with pos := n + 1 } ∧ HoneyOnly h s t) ∧
    (∀ b, y.stateOf n = .valid → tget [] y.err n = [b] →
      tget 0 y.buckets (n / 2 ^ 17) + 1 < (s.reg (hsmPage h) Reg.HSM_BUCKET_MAX).toNat → y.log.length < 32 →
      Runs (.foragerRead h) s fun t => (t.honey h).writeback = some n ∧ (t.honey h).pos = n + 1 ∧ (t.honey h).bytes = y.bytes ∧
        t.reg (hsmPage h) Reg.HSM_CE_CNT = satInc (s.reg (hsmPage h) Reg.HSM_CE_CNT) 1 ∧
        tget 0 (t.honey h).buckets (n / 2 ^ 17) = tget 0 y.buckets (n / 2 ^ 17) + 1 ∧
        (t.honey h).log = y.log ++ [⟨0, b, agForager, n, s.short⟩] ∧ OnlyReg (rkey (hsmPage h) Reg.HSM_CE_CNT 0) s t ∧ DeviceKept s t) ∧
    (∀ b c, y.stateOf n = .valid → tget [] y.err n = [b, c] →
      Runs (.foragerRead h) s fun t => Marked t (hsmPage h) Reg.HSM_EVENTS 0 ∧ (t.honey h).pos = n + 1 ∧ DeviceKept s t ∧ t.chip = s.chip)) ∧
  (∀ (h : HiveId) (s : State),
    let y := s.honey h
    (y.passLate = false → y.passStart + y.passSec * secTicks ≤ s.tick →
      Runs (.forageLate h) s fun t => (t.honey h).passLate = true ∧ (t.honey h).pos = y.pos ∧
        t.reg (hsmPage h) Reg.HSM_FORAGE_LATE_CNT = satInc (s.reg (hsmPage h) Reg.HSM_FORAGE_LATE_CNT) 1 ∧ Marked t (hsmPage h) Reg.HSM_EVENTS 4 ∧ DeviceKept s t) ∧
    (y.leakTick + 2 ^ fld (s.reg (hsmPage h) Reg.HSM_LEAK) 5 0 ≤ s.tick → (y.buckets.map (·.1)).Nodup →
      Runs (.bucketLeak h) s fun t => (∀ b, tget 0 (t.honey h).buckets b = tget 0 y.buckets b - 1) ∧ (t.honey h).leakTick = y.leakTick + 2 ^ fld (s.reg (hsmPage h) Reg.HSM_LEAK) 5 0 ∧ HoneyOnly h s t) ∧
    (∀ m, y.merge = [m] →
      (m.last + 64 ≤ s.tick → Runs (.mergeBufferFlush h) s fun t => (t.honey h).merge = [] ∧ (t.honey h).data m.waddr = m.data ∧ GoodWord h m.waddr t ∧
        BytesOutside s t h (fun a => a = m.waddr) ∧ HoneyOnly h s t) ∧
      (s.tick < m.last + 64 → exec (.mergeBufferFlush h) s = .next s)))

/-- The HSM_ page (R417, R420, R421, R433): retiring a page and returning it, with the result of the path; the error log's oldest entry, or KIND EMPTY; a word read and written through the
window; FORAGE_EN. -/
def Obligations.HoneyPageCommands : Prop :=
  (∀ (p : Path) (r : HiveRef) (v : W32) (s : State), Ready p (hiveDom (hiveOf s r)) s →
    let h := hiveOf s r
    let pg := fld v 13 0
    let legal := 2048 ≤ pg ∧ pg ≤ 12287
    let result (t : State) (n : W32) : Prop := t.sel p (hsmPage h) Reg.HSM_RETIRE_STATUS = n
    (Runs (.hsmRetireGo p r v) s fun t => DeviceKept s t ∧
      (¬ legal → result t 2 ∧ (t.honey h).retired = (s.honey h).retired) ∧
      (legal → pg ∈ (s.honey h).retired → result t 1 ∧ (t.honey h).retired = (s.honey h).retired) ∧
      (legal → pg ∉ (s.honey h).retired → result t 0 ∧ (∀ q, q ∈ (t.honey h).retired ↔ q = pg ∨ q ∈ (s.honey h).retired) ∧
        (v &&& 0xFFFCC000 = 0 → knownQueues s h = [] →
          (∀ m ∈ (t.honey h).merge, m.waddr / 512 ≠ pg) ∧ (∀ e ∈ (t.hive h).caches, ∀ c ∈ e.2, c.line / 64 ≠ pg)))) ∧
    (Runs (.hsmRetireClear p r v) s fun t => DeviceKept s t ∧
      (¬ legal → result t 2 ∧ (t.honey h).retired = (s.honey h).retired) ∧
      (legal → pg ∉ (s.honey h).retired → result t 1 ∧ (t.honey h).retired = (s.honey h).retired) ∧
      (legal → pg ∈ (s.honey h).retired → result t 0 ∧ (∀ q, q ∈ (t.honey h).retired ↔ q ≠ pg ∧ q ∈ (s.honey h).retired) ∧
        (∀ a, a / 512 = pg → (t.honey h).stateOf a = .invalid)))) ∧
  (∀ (p : Path) (r : HiveRef) (s : State), ReadyRead p (hiveDom (hiveOf s r)) s →
    let h := hiveOf s r
    Runs (.hsmLogPopLo p r) s fun t =>
      let l0 : Nat := (t.sel p (hsmPage h) Reg.HSM_LOG_POP_HI ++ (t.path p).rdata).toNat
      (∀ e rest, (s.honey h).log = e :: rest → e.kind < 8 → e.bit < 128 → e.agent < 32 → e.waddr < 2 ^ 23 →
        fieldN l0 63 61 = e.kind ∧ fieldN l0 60 54 = e.bit ∧ fieldN l0 53 49 = e.agent ∧ fieldN l0 22 0 = e.waddr ∧
        t.sel p (hsmPage h) Reg.HSM_LOG_TIME = e.short ∧ (t.honey h).log = rest) ∧
      ((s.honey h).log = [] → fieldN l0 63 61 = 7 ∧ (t.honey h).log = []) ∧
      (t.path p).astat = 0 ∧ t.regs = s.regs ∧ (t.honey h).bytes = (s.honey h).bytes ∧ DeviceKept s t) ∧
  (∀ (p : Path) (r : HiveRef) (s : State), ReadyRead p (hiveDom (hiveOf s r)) s →
    let h := hiveOf s r
    let a := fld (s.sel p (hsmPage h) Reg.HSM_WIN_ADDR) 25 3
    Runs (.hsmWinRdataLo p r) s fun t =>
      (∀ x, a < honeyWords → WordReads s h a x →
        t.sel p (hsmPage h) Reg.HSM_WIN_RDATA_HI ++ (t.path p).rdata = x ∧ t.sel p (hsmPage h) Reg.HSM_WIN_STATUS = 0 ∧ (t.path p).astat = 0 ∧ t.regs = s.regs) ∧
      (a < honeyWords → WordOpen s h a → (∀ m ∈ (s.honey h).merge, m.waddr ≠ a) → (s.honey h).stateOf a = .poison → (t.path p).astat = 2 ∧ t.sel p (hsmPage h) Reg.HSM_WIN_STATUS = 1 ∧ t.regs = s.regs) ∧
      (honeyWords ≤ a → t.sel p (hsmPage h) Reg.HSM_WIN_STATUS = 3 ∧ t.hiveA = s.hiveA ∧ t.hiveB = s.hiveB ∧ t.regs = s.regs)) ∧
  (∀ (p : Path) (r : HiveRef) (v : W32) (s : State), Ready p (hiveDom (hiveOf s r)) s →
    let h := hiveOf s r
    let w := s.sel p (hsmPage h) Reg.HSM_WIN_ADDR
    let a := fld w 25 3
    Runs (.hsmWinWdataHi p r v) s fun t =>
      (bit w 0 = true → t.sel p (hsmPage h) Reg.HSM_WIN_ADDR = (w + 8) &&& 0x3FFFFF9) ∧ (bit w 0 = false → t.sel p (hsmPage h) Reg.HSM_WIN_ADDR = w) ∧
      (a < honeyWords → WordOpen s h a → WordReads t h a (v ++ s.sel p (hsmPage h) Reg.HSM_WIN_WDATA_LO) ∧
        t.sel p (hsmPage h) Reg.HSM_WIN_STATUS = 0 ∧ BytesOutside s t h (fun x => x = a) ∧ t.regs = s.regs) ∧
      (a < honeyWords → holders s h (a / 8) = [] → (s.honey h).retiredAt a = true → t.sel p (hsmPage h) Reg.HSM_WIN_STATUS = 2 ∧ Marked t (hsmPage h) Reg.HSM_EVENTS 3) ∧
      (honeyWords ≤ a → t.sel p (hsmPage h) Reg.HSM_WIN_STATUS = 3 ∧ t.hiveA = s.hiveA ∧ t.hiveB = s.hiveB ∧ t.regs = s.regs)) ∧
  (∀ (p : Path) (r : HiveRef) (v : W32) (s : State), Ready p (hiveDom (hiveOf s r)) s →
    Runs (.forageEnWrite p r v) s fun t => t.reg (hsmPage (hiveOf s r)) Reg.HSM_CTL = v &&& 1 ∧ Served (onPage (hsmPage (hiveOf s r))) s t)

/-- The journal (R428, R429, R431, R432, R436): which command starts with which word writes and which result, BUSY while one runs; its end; what a brown-out warning leaves; a word read through the raw window. The model's own choices in it: log entries 1, 4, 12. -/
def Obligations.JournalCommands : Prop :=
  (∀ (p : Path) (r : HiveRef) (v : W32) (s : State), Ready p (hiveDom (hiveOf s r)) s →
    let h := hiveOf s r
    let m := (s.hive h).mram
    let kind := fld v 15 8
    let inst := fld v 23 16
    let known := (1 ≤ kind ∧ kind ≤ 8) ∨ (0x40 ≤ kind ∧ kind ≤ 0x7F)
    let a := fld (s.reg (nvsPage h) Reg.NVS_ADDR) 25 3
    let len := fld (s.reg (nvsPage h) Reg.NVS_LEN) 16 0
    let fits := 8 ≤ len ∧ len % 8 = 0 ∧ len ≤ (if 0x40 ≤ kind then 4096 else 65536) ∧ a + len / 8 ≤ honeyWords
    ((s.hive h).nvs ≠ none → ∀ c, c = .nvsWrite p r v ∨ c = .nvsRead p r v ∨ c = .nvsDelete p r v →
      Runs c s fun t => (t.hive h).nvs = (s.hive h).nvs ∧ (t.hive h).nvsResult = 1 ∧ (t.hive h).nvsState = (s.hive h).nvsState ∧ (t.hive h).mram = m ∧
        Marked t (nvsPage h) Reg.NVS_EVENTS 1 ∧ DeviceKept s t) ∧
    ((s.hive h).nvs = none →
      (Runs (.nvsWrite p r v) s fun t => DeviceKept s t ∧
        (¬ known → NvsTaken h s t fun c => c.op = 1 ∧ c.result = 6 ∧ c.writes = []) ∧
        (kind = 1 ∨ kind = 2 → NvsTaken h s t fun c => c.op = 1 ∧ c.result = 2 ∧ c.writes = []) ∧
        (known → kind ≠ 1 → kind ≠ 2 → ¬ fits → NvsTaken h s t fun c => c.op = 1 ∧ c.result = 6 ∧ c.writes = []) ∧
        (known → kind ≠ 1 → kind ≠ 2 → fits → v &&& 0x7F0000FC = 0 → ∀ x : Nat → W64, (∀ i, i < len / 8 → WordReads s h (a + i) (x i)) →
          let payload := (List.range (len / 8)).map x
          let run := (freeRuns (usedRuns (records m))).find? (fun f => decide (recUnits len ≤ f.2))
          (run = none → NvsTaken h s t fun c => c.op = 1 ∧ c.result = 3 ∧ c.writes = []) ∧
          (∀ u n, run = some (u, n) → winnerOf (records m) kind inst = none → NvsTaken h s t fun c => c.op = 1 ∧ c.kind = kind ∧ c.inst = inst ∧ c.result = 0 ∧
            c.writes = [(8 * u, 0), (8 * u + 1, 0)] ++ (List.range (len / 8)).map (fun i => (8 * u + 4 + i, x i)) ++
              [(8 * u + 2, BitVec.ofNat 64 (2 ^ 56 * kind + 2 ^ 48 * inst + nextSeq (records m))),
               (8 * u + 3, BitVec.ofNat 64 (2 ^ 32 * len + (crc32c (payload.flatMap bytesLsb)).toNat)),
               (8 * u, BitVec.ofNat 64 (2 ^ 48 * 0xC0AA + nextSeq (records m)))]) ∧
          (∀ u n o, run = some (u, n) → winnerOf (records m) kind inst = some o → NvsTaken h s t fun c => c.result = 0 ∧
            c.writes.getLast? = some (8 * o.unit + 1, BitVec.ofNat 64 (2 ^ 48 * 0x5DED))))) ∧
      (Runs (.nvsRead p r v) s fun t => DeviceKept s t ∧
        (¬ known → NvsTaken h s t fun c => c.op = 2 ∧ c.result = 6) ∧
        (known → recordPayload m kind inst = none → NvsTaken h s t fun c => c.op = 2 ∧ c.result = 5 ∧ c.writes = []) ∧
        (∀ ws, known → recordPayload m kind inst = some ws → NvsTaken h s t fun c => c.op = 2 ∧ c.kind = kind ∧ c.inst = inst ∧ c.addr = a ∧ c.writes = [] ∧
          c.result = (if a + ws.length > honeyWords then 6 else 0))) ∧
      (Runs (.nvsDelete p r v) s fun t => DeviceKept s t ∧
        (¬ known → NvsTaken h s t fun c => c.op = 3 ∧ c.result = 6 ∧ c.writes = []) ∧
        (kind = 1 ∨ kind = 2 → NvsTaken h s t fun c => c.op = 3 ∧ c.result = 2 ∧ c.writes = []) ∧
        (∀ u n, known → kind ≠ 1 → kind ≠ 2 → (freeRuns (usedRuns (records m))).find? (fun f => decide (1 ≤ f.2)) = some (u, n) → winnerOf (records m) kind inst = none →
          NvsTaken h s t fun c => c.op = 3 ∧ c.result = 0 ∧
            c.writes = [(8 * u, 0), (8 * u + 1, 0), (8 * u + 2, BitVec.ofNat 64 (2 ^ 56 * kind + 2 ^ 48 * inst + nextSeq (records m))),
              (8 * u + 3, BitVec.ofNat 64 (crc32c []).toNat), (8 * u, BitVec.ofNat 64 (2 ^ 48 * 0xC0AA + nextSeq (records m)))])))) ∧
  (∀ (h : HiveId) (c : NvsCmd) (s : State), (s.hive h).nvs = some c → c.src = 0 → (s.dup h).nvPending = false →
    Runs (.nvsCommandDone h) s fun t => (t.hive h).nvs = none ∧ (t.hive h).mram = written (s.hive h).mram c.writes ∧ (t.hive h).nvsState = 2 ∧
      (t.hive h).nvsResult = c.result ∧ Marked t (nvsPage h) Reg.NVS_EVENTS (if c.result = 0 then 0 else 1) ∧ DeviceKept s t ∧
      (∀ ws, c.op = 2 → c.result = 0 → c.writes = [] → recordPayload (s.hive h).mram c.kind c.inst = some ws →
        t.reg (nvsPage h) Reg.NVS_LAST_LEN = w32 (8 * ws.length) ∧
        (Marked s (nvsPage h) Reg.NVS_EVENTS 0 → (∀ i, i < ws.length → WordOpen s h (c.addr + i)) → ∀ i, i < ws.length → WordReads t h (c.addr + i) (lget 0 ws i)))) ∧
  (∀ s : State, Runs .brownoutWarning s fun t => DeviceKept s t ∧ ∀ h,
    ((s.hive h).nvs = none → (t.hive h).mram = (s.hive h).mram) ∧
    (∀ c, (s.hive h).nvs = some c → (t.hive h).nvs = none ∧ (∃ k, k ≤ c.writes.length ∧ (t.hive h).mram = written (s.hive h).mram (c.writes.take k)) ∧
      (c.src = 0 → (t.hive h).nvsState = 2 ∧ (t.hive h).nvsResult = 7 ∧ Marked t (nvsPage h) Reg.NVS_EVENTS 1))) ∧
  (∀ (p : Path) (r : HiveRef) (s : State), ReadyRead p (hiveDom (hiveOf s r)) s →
    let h := hiveOf s r
    let x := nvWord s h (fld (s.sel p (nvsPage h) Reg.NVS_RAW_ADDR) 14 0)
    Runs (.nvsRawLo p r) s fun t => (t.path p).rdata = x.extractLsb' 0 32 ∧ t.sel p (nvsPage h) Reg.NVS_RAW_HI = x.extractLsb' 32 32 ∧
      (t.path p).astat = 0 ∧ t.regs = s.regs ∧ t.hiveA = s.hiveA ∧ t.hiveB = s.hiveB)

/-! ### 14_redundancy_faults.md -/

namespace Sys2Proof.Claims
open Sys2Proof.Machine

/-- A takeover decided, with claim `v` and the former claim kept (R446). -/
def Decided (h : HiveId) (v : BitVec 16) (s t : State) : Prop :=
  (t.dup h).pendingTake = true ∧ (t.dup h).claim = v ∧ (t.dup h).former = (s.dup h).claim ∧ (t.dup h).nvPending = true ∧ (t.dup h).keptDone = (t.dup h).peerDone

/-- A hive keeps its part in the duplex. -/
def DupKept (s t : State) : Prop := ∀ h, t.dup h = s.dup h

/-- The events of the chip guard's own page that a severe event can raise are already marked, so that no notice follows (08_queues_placement.md R273). -/
def GuardTold (s : State) : Prop := Marked s (chipGrdPage s) Reg.GRD_EVENTS 0 ∧ Marked s (chipGrdPage s) Reg.GRD_EVENTS 5

/-- The record that is open at the chip guard. -/
def openRecord (s : State) : Option Record := (s.hive (higherClaim s)).guard.record

end Sys2Proof.Claims

/-- The hum (R442–R446): the beat a hive sends in a slot; a valid beat heard, with YIELD or FATAL, and one that is not valid; a beat missed on a path, a path silent, and both silent. The model's own choices in it: log entry 62. -/
def Obligations.HumBeats : Prop :=
  (∀ (h : HiveId) (s : State),
    (humOn s h = true → (s.dup h).sentSlot ≠ some (humSlot s h) → Runs (.humBeatSend h) s fun t =>
      (t.dup h).sentSlot = some (humSlot s h) ∧
      (∃ x : W64, (t.dup h).sent = some x ∧ x.toNat / 2 ^ 48 = heldClaim s h ∧ x.getLsbD 47 = decide (higherClaim s = h) ∧ x.getLsbD 46 = (s.dup h).yieldReq ∧
        x.getLsbD 45 = (s.dup h).fatal ∧ x.getLsbD 44 = ready s h ∧ fieldN x.toNat 43 40 = humSlot s h % 16 ∧ x.extractLsb' 0 40 = doneOf s h) ∧
      t.dup (otherHive h) = s.dup (otherHive h) ∧ t.regs = s.regs ∧ DeviceKept s t) ∧
    (humOn s h = false → exec (.humBeatSend h) s = .next s)) ∧
  (∀ (h : HiveId) (via : HumPath) (x : W64) (crc : BitVec 8) (s : State), humOn s h = true →
    let valid := crc8 7#8 0#8 (bitsMsb x) = crc ∧ (x.extractLsb' 40 4).toNat = humSlot s h % 16
    let heard (t : State) : Prop := (t.dup h).peerClaim = x.extractLsb' 48 16 ∧ (t.dup h).peerDone = x.extractLsb' 0 40 ∧ (t.dup h).peerFatal = x.getLsbD 45 ∧
      t.reg (humPage h) Reg.HUM_PEER_CLAIM = (x.extractLsb' 48 16).zeroExtend 32 ∧
      (via = .direct → (t.dup h).missD = 0 ∧ (t.dup h).silentD = false ∧ (t.dup h).slotD = some (humSlot s h)) ∧
      (via ≠ .direct → (t.dup h).missR = 0 ∧ (t.dup h).silentR = false ∧ (t.dup h).slotR = some (humSlot s h))
    (¬ valid → Runs (.humBeatReceive h via x crc) s fun t =>
      t.reg (humPage h) Reg.HUM_BAD_CNT = satInc (s.reg (humPage h) Reg.HUM_BAD_CNT) 1 ∧ (t.dup h).peerClaim = (s.dup h).peerClaim ∧ (t.dup h).missD = (s.dup h).missD ∧
      (t.dup h).missR = (s.dup h).missR ∧ (t.dup h).slotD = (s.dup h).slotD ∧ (t.dup h).slotR = (s.dup h).slotR ∧ OnlyReg (rkey (humPage h) Reg.HUM_BAD_CNT 0) s t ∧ DeviceKept s t) ∧
    (valid → x.getLsbD 45 = false → (x.getLsbD 46 && x.getLsbD 47 && isStandby s h) = false → Runs (.humBeatReceive h via x crc) s fun t =>
      heard t ∧ (t.dup h).claim = (s.dup h).claim ∧ (t.dup h).pendingTake = (s.dup h).pendingTake ∧ DeviceKept s t) ∧
    (valid → x.getLsbD 45 = false → x.getLsbD 46 = true → x.getLsbD 47 = true → isStandby s h = true → (s.dup h).pendingTake = false → armed s h = true →
      x.extractLsb' 48 16 ≠ 0xFFFF → Runs (.humBeatReceive h via x crc) s fun t => heard t ∧ Decided h (x.extractLsb' 48 16 + 1) s t ∧ DeviceKept s t) ∧
    (valid → x.getLsbD 45 = true → higherClaim s ≠ h → Runs (.humBeatReceive h via x crc) s fun t => heard t ∧ (t.dup h).fatal = true ∧ (t.dup h).pendingTake = false ∧
      ((s.dup h).pendingTake = true → (t.dup h).claim = (s.dup h).former ∧ Marked t (clmPage h) Reg.CLM_EVENTS 2) ∧ DeviceKept s t)) ∧
  (∀ (h : HiveId) (direct : Bool) (s : State), humOn s h = true →
    let d := s.dup h
    overdueBeat s h (if direct then d.slotD else d.slotR) = true →
    let was := if direct then d.missD else d.missR
    let missed (t : State) : Prop :=
      (if direct then (t.dup h).missD else (t.dup h).missR) = min 15 (was + 1) ∧
      (if direct then (t.dup h).silentD else (t.dup h).silentR) = decide (8 ≤ min 15 (was + 1)) ∧
      (if direct then (t.dup h).slotD else (t.dup h).slotR) = some (humSlot s h) ∧
      let o := if direct then Reg.HUM_MISS_D_CNT else Reg.HUM_MISS_R_CNT
      t.reg (humPage h) o = satInc (s.reg (humPage h) o) 1
    let otherSilent := if direct then d.silentR else d.silentD
    let otherMiss := if direct then d.missR else d.missD
    (was ≠ 7 → Runs (.beatMissed h direct) s fun t => missed t ∧ (t.dup h).pendingTake = d.pendingTake ∧ DeviceKept s t) ∧
    (was = 7 → otherSilent = false → otherMiss < 7 → Runs (.beatMissed h direct) s fun t => missed t ∧ Marked t (humPage h) Reg.HUM_EVENTS 0 ∧
      SourceCounts (hiveDom h) 5 s t ∧ (t.dup h).pendingTake = d.pendingTake ∧ DeviceKept s t) ∧
    (was = 7 → otherSilent = true → isStandby s h = false → Runs (.beatMissed h direct) s fun t => missed t ∧ Marked t (humPage h) Reg.HUM_EVENTS 2 ∧
      (t.dup h).pendingTake = d.pendingTake ∧ DeviceKept s t) ∧
    (was = 7 → otherSilent = true → isStandby s h = true → ready s h = true → d.hostArm = true → d.pendingTake = false → d.peerFatal = false → d.peerClaim ≠ 0xFFFF →
      Runs (.beatMissed h direct) s fun t => missed t ∧ Marked t (humPage h) Reg.HUM_EVENTS 1 ∧ Decided h (d.peerClaim + 1) s t ∧ DeviceKept s t))

/-- Claims (R439–R441, R445–R448): a decided takeover takes effect in the tick of the boundary, the lanes' links restart and the port's report says so; the CLAIM record committed; a claim written by the host, YIELD, TAKE, DISARM and ARM. The model's own choices in it: log entries 62, 79. -/
def Obligations.ClaimsAndTakeover : Prop :=
  (∀ (h : HiveId) (s : State),
    let o := otherHive h
    (boundaryDue s = false → exec .takeover s = .next s) ∧
    (boundaryDue s = true → higherClaim s = o → (s.dup h).pendingTake = true → (s.dup o).pendingTake = false → (s.dup o).claim.toNat < (s.dup h).claim.toNat →
      (s.domain (hiveDom h)).inReset = false → (s.domain (hiveDom h)).state ≠ .off →
      Runs .takeover s fun t => higherClaim t = h ∧ t.chip.obeyedB = decide (h = .b) ∧ (t.dup h).pendingTake = false ∧ (t.dup h).takes = ((s.dup h).takes + 1) % 2 ^ 32 ∧
        Marked t (clmPage h) Reg.CLM_EVENTS 0 ∧ t.reg64 (clmPage h) Reg.CLM_TAKE_FRAME_LO = (s.frameNow + 1).toNat ∧
        (t.dup o).hostArm = false ∧ (t.dup o).disarmed = true ∧ t.chip.mgt.takeover = true ∧
        (∀ l, l < 20 → (t.lane l).state = if (s.lane l).state = .up then .training else (s.lane l).state) ∧
        t.tick = s.tick ∧ t.cells = s.cells ∧ t.blocks = s.blocks ∧ t.hks = s.hks)) ∧
  (∀ (h : HiveId) (c : NvsCmd) (s : State), (s.hive h).nvs = some c → c.src = 1 →
    Runs (.claimRecordCommit h) s fun t => (t.hive h).nvs = none ∧ (t.hive h).mram = written (s.hive h).mram c.writes ∧ (t.dup h).nvPending = false ∧
      (t.dup h).claim = (s.dup h).claim ∧ t.hive (otherHive h) = s.hive (otherHive h) ∧ t.regs = s.regs ∧ DeviceKept s t) ∧
  (∀ (p : Path) (r : HiveRef) (v : W32) (s : State), Ready p (hiveDom (hiveOf s r)) s →
    let h := hiveOf s r
    let o := otherHive h
    let x := v.extractLsb' 0 16
    let none' := (s.dup .a).pendingTake = false ∧ (s.dup .b).pendingTake = false
    let legal := (h = higherClaim s ∧ (s.dup o).claim.toNat < x.toNat) ∨ (h ≠ higherClaim s ∧ x.toNat < (s.dup o).claim.toNat)
    Runs (.clmClaimWrite p r v) s fun t =>
      (none' → legal → (t.dup h).claim = x ∧ (t.dup h).nvPending = true) ∧
      (none' → ¬ legal → (t.dup h).claim = (s.dup h).claim ∧ Marked t (clmPage h) Reg.CLM_EVENTS 3 ∧ Marked t (clmPage h) Reg.ERR_STATUS 3) ∧
      (¬ none' → (t.dup h).claim = (s.dup h).claim ∧ Marked t (clmPage h) Reg.ERR_STATUS 3) ∧ t.dup o = s.dup o ∧ DeviceKept s t) ∧
  (∀ (p : Path) (r : HiveRef) (s : State), Ready p (hiveDom (hiveOf s r)) s →
    let h := hiveOf s r
    let d := s.dup h
    (Runs (.clmYield p r) s fun t => DeviceKept s t ∧ (h ≠ higherClaim s → DupKept s t) ∧
      (h = higherClaim s → armed s (otherHive h) = true → d.claim ≠ 0xFFFF → d.fatal = false → t.dup h = { d with yieldReq := true }) ∧
      (h = higherClaim s → armed s (otherHive h) = false ∨ d.claim = 0xFFFF → DupKept s t ∧ Marked t (clmPage h) Reg.CLM_EVENTS 2)) ∧
    (Runs (.clmTake p r) s fun t => DeviceKept s t ∧ (isStandby s h = false → DupKept s t) ∧
      (isStandby s h = true → d.pendingTake = false → armed s h = true → d.peerClaim ≠ 0xFFFF → d.peerFatal = false → Decided h (d.peerClaim + 1) s t) ∧
      (isStandby s h = true → d.pendingTake = false → armed s h = false ∨ d.peerClaim = 0xFFFF → DupKept s t ∧ Marked t (clmPage h) Reg.CLM_EVENTS 2)) ∧
    (Runs (.clmDisarm p r) s fun t => t.dup h = { d with disarmed := true, hostArm := false, anew := false, runD := 0, runR := 0 } ∧ armed t h = false ∧ t.regs = s.regs ∧ DeviceKept s t) ∧
    (Runs (.clmArm p r) s fun t => t.dup h = (if isStandby s h then { d with hostArm := true } else d) ∧ t.regs = s.regs ∧ DeviceKept s t))

/-- Guard sources and handling records (R451, R455–R460, R462): an event counts in its window, and the N-th makes the source severe, which opens a record, merges into the open one, or, with CEIL 0, does
neither; a broken wire and its end; a window's end; the steps of the ladder; the acknowledgement. The model's own choices in it: log entry 1. -/
def Obligations.SourcesAndLadder : Prop :=
  (∀ (g : Fin 8) (src : Fin 32) (s : State),
    let x := s.source g.val src.val
    let cfg := s.reg (grdPage g.val) Reg.GRD_SRC_CFG src.val
    let live := ∃ e, x.windowEnd = some e ∧ s.tick < e
    let severe := fld cfg 7 0 ≠ 0 ∧ ((live ∧ fld cfg 7 0 ≤ x.count + 1) ∨ (¬ live ∧ fld cfg 7 0 ≤ 1))
    let h := higherClaim s
    let top := if g.val = hiveDom (otherHive h) then 3 else 4
    let ceil := min (min 4 (fld cfg 18 16)) top
    (x.broken = true → exec (.errorEvent g src) s = .next s) ∧
    (x.broken = false → ¬ severe → Runs (.errorEvent g src) s fun t =>
      (live → t.source g.val src.val = { x with pair := 2, count := x.count + 1 }) ∧
      (¬ live → t.source g.val src.val = { x with pair := 2, count := 1, windowEnd := some (s.tick + 2 ^ fld cfg 13 8) }) ∧
      SourceCounts g.val src.val s t ∧ OnlyReg (rkey (grdPage g.val) Reg.GRD_SRC_CNT src.val) s t ∧ t.hiveA = s.hiveA ∧ t.hiveB = s.hiveB ∧ DeviceKept s t) ∧
    (x.broken = false → severe → GuardTold s → Runs (.errorEvent g src) s fun t =>
      t.source g.val src.val = { x with pair := 2, count := 0, windowEnd := none, severe := true } ∧ SourceCounts g.val src.val s t ∧
      (s.fatal = true ∨ fld cfg 18 16 = 0 → openRecord t = openRecord s) ∧
      (s.fatal = false → fld cfg 18 16 ≠ 0 → openRecord s = none → ∃ r, openRecord t = some r ∧ r.region = regionCode g.val ∧ r.src = src.val ∧
        r.step = (if g.val < 6 then (if src.val < 12 then 0 else 1) else 2) ∧ r.ceil = ceil ∧ r.seq = (s.hive h).guard.seq + 1 ∧ r.count = 0 ∧
        r.deadline = s.tick + 1024 * fld (s.reg (chipGrdPage s) Reg.GRD_GRACE) 19 0) ∧
      (∀ r, s.fatal = false → fld cfg 18 16 ≠ 0 → openRecord s = some r → ∃ q, openRecord t = some q ∧ q.region = r.region ∧ q.src = r.src ∧ q.step = r.step ∧ q.seq = r.seq ∧
        q.deadline = r.deadline ∧ q.count = min 63 (r.count + 1) ∧ q.regionOr = r.regionOr ||| BitVec.ofNat 8 (2 ^ g.val)) ∧ DeviceKept s t)) ∧
  (∀ (g : Fin 8) (src : Fin 32) (s : State),
    ((s.source g.val src.val).broken = false → Runs (.brokenWire g src) s fun t => (t.source g.val src.val).broken = true ∧ Marked t (grdPage g.val) Reg.GRD_EVENTS 4 ∧
      (src.val ≠ wireSrc g.val → SourceCounts g.val (wireSrc g.val) s t) ∧ DeviceKept s t) ∧
    ((s.source g.val src.val).broken = true → Runs (.brokenClear g src) s fun t => (∃ v, (v = 1 ∨ v = 2) ∧ t.source g.val src.val = { s.source g.val src.val with broken := false, pair := v }) ∧
      t.regs = s.regs ∧ t.hiveA = s.hiveA ∧ t.hiveB = s.hiveB ∧ DeviceKept s t) ∧
    (∀ e, (s.source g.val src.val).windowEnd = some e → e ≤ s.tick → Runs (.severityWindowExpiry g src) s fun t =>
      t.source g.val src.val = { s.source g.val src.val with windowEnd := none, count := 0, severe := false } ∧ t = { s with regions := t.regions })) ∧
  (∀ (r : Record) (s : State), openRecord s = some r →
    let h := higherClaim s
    let o := otherHive h
    let pg := chipGrdPage s
    let enabled := bit (s.reg pg Reg.GRD_CTL) 0
    (s.fatal = true ∨ s.tick < r.deadline → exec .graceExpiry s = .next s) ∧
    (s.fatal = false → r.deadline ≤ s.tick →
      (enabled = false → Runs .graceExpiry s fun t => openRecord t = some { r with deadline := s.tick + 1024 * fld (s.reg pg Reg.GRD_GRACE) 19 0 } ∧ t.regs = s.regs ∧ DeviceKept s t) ∧
      (enabled = true → r.ceil ≤ r.step → Runs .graceExpiry s fun t => openRecord t = none ∧ Marked t pg Reg.GRD_EVENTS 2 ∧ DeviceKept s t) ∧
      (enabled = true → r.step < r.ceil → Runs .graceExpiry s fun t => Marked t pg Reg.GRD_EVENTS 1 ∧ t.tick = s.tick ∧ t.lanes = s.lanes ∧
        (r.step = 0 → r.region < 6 → r.src < 12 → (s.domain r.region).inReset = false → (t.block (12 * r.region + r.src)).isolated = true ∧
          Marked t (blkPage (12 * r.region + r.src)) Reg.BLK_EVENTS 4) ∧
        (r.step = 1 → r.region < 6 → (t.domain r.region).inReset = true) ∧
        (r.step = 2 → r.region ≠ hiveRegion o → armed s o = true → (s.dup h).claim ≠ 0xFFFF → (t.dup h).yieldReq = true) ∧
        (r.step = 2 → r.region = hiveRegion o → (t.domain (hiveDom o)).inReset = true) ∧
        (r.step = 3 → t.fatal = true ∧ t.chip.framing = false)))) ∧
  (∀ (p : Path) (g : Fin 8) (v : W32) (r : Record) (s : State), Ready p g.val s → openRecord s = some r → s.tick < r.deadline → v.toNat < 2 ^ 16 →
    Runs (.grdAck p g v) s fun t =>
      (g.val = hiveDom (higherClaim s) → s.fatal = false → r.seq = v.extractLsb' 0 16 →
        openRecord t = none ∧ (t.hive (higherClaim s)).guard.log.getLast? = some { r with close := 0 }) ∧
      (g.val ≠ hiveDom (higherClaim s) ∨ s.fatal = true ∨ r.seq ≠ v.extractLsb' 0 16 → openRecord t = some r ∧ t.hiveA = s.hiveA ∧ t.hiveB = s.hiveB) ∧ t.regs = s.regs ∧ DeviceKept s t)

/-- The fatal state, the log and perturbation (R459, R463, R464, R466): GRD_CTL.FATAL stops frame building and starts worker 0 of the active hive on the dump; the dump's next packet,
headed by its section word, goes through queue 1 to a lane; every lane transmitter falls idle when the dump has ended or 1 s has passed; a read of the
log gives its oldest record; the two keys unlock the perturbation register, and any other value locks it and clears it. The model's own choices in it: log entries 1, 64, 65, 80, 101. -/
def Obligations.FatalLogAndKeys : Prop :=
  (∀ (p : Path) (g : Fin 8) (s : State), Ready p g.val s →
    let h := higherClaim s
    Runs (.grdFatal p g) s fun t =>
      (g.val = hiveDom h → s.fatal = false → (t.dup h).fatal = true ∧ t.chip.framing = false ∧ Marked t (grdPage g.val) Reg.GRD_EVENTS 3 ∧
        (t.worker (24 * g.val)).state = .running ∧ (t.worker (24 * g.val)).pc = 4 * Config.dumpEntry ∧
        (t.hive h).guard.dump = { sect := 1, time := timeWord s.tb.core s.tb.qual } ∧ (t.hive h).guard.fatalRecord = openRecord s) ∧
      (g.val ≠ hiveDom h → DupKept s t ∧ t.chip.framing = s.chip.framing) ∧ t.tick = s.tick ∧ t.lanes = s.lanes ∧ t.cells = s.cells ∧ t.blocks = s.blocks) ∧
  (∀ (l : Nat) (d0 : W64) (hd : BitVec 32) (s : State),
    let h := higherClaim s
    let d := (s.hive h).guard.dump
    let ws := (dumpNext s h).1
    dumping s h = true → (s.hive h).place.dumpBack = [] → dumpLane s = some l → QueueAt s h 1 d0 hd hd hd →
    QueueOpenTo s h 1 (.path (64 + (dumpWorker h).val)) d0 → (s.queue h 1).opened = none → ws.length + 1 ≤ 2 ^ d0Size d0 - 1 →
    (∀ i, i ≤ ws.length → WordOpen s h (ringAddr d0 (ringPos hd i))) →
    Runs .dumpPlace s fun t =>
      ws.head? = some (BitVec.ofNat 64 (2 ^ 60 * 0xD + 2 ^ 48 * (deviceAt s s.now).toNat + 2 ^ 40 * d.sect + 2 ^ 24 * (d.part % 2 ^ 16) + (ws.length - 1))) ∧
      ws.length ≤ 4096 ∧ (t.lane l).waiting = (s.lane l).waiting ++ dataPackets (fun a b => .dump ws a b) (rcvId s (fld (s.cfg 0x18 Reg.PLC_DUMP_RCV) 5 0)) ws ∧
      (t.hive h).guard.dump = d.after ws (dumpNext s h).2 ∧ QueueAt t h 1 d0 (ringPos hd (ws.length + 1)) (ringPos hd (ws.length + 1)) (ringPos hd (ws.length + 1)) ∧
      t.regs = s.regs ∧ ∀ k, k ≠ l → t.lane k = s.lane k) ∧
  (∀ s : State, s.fatal = true →
    ((s.hive (higherClaim s)).guard.dumpDone = true → Runs .dumpEndAcked s fun t => (∀ l, l < 20 → t.lane l = { s.lane l with idleOut := true }) ∧ t = { s with lanes := t.lanes }) ∧
    (∀ t0, (s.hive (higherClaim s)).guard.fatalTick = some t0 → t0 + 1024000000 ≤ s.tick →
      Runs .dumpTimeout s fun t => (∀ l, l < 20 → t.lane l = { s.lane l with idleOut := true }) ∧ t = { s with lanes := t.lanes })) ∧
  (∀ (p : Path) (g : Fin 8) (r : Record) (rest : List Record) (s : State), ReadyRead p g.val s →
    let pg := grdPage g.val
    Runs (.grdLogPop p g) s fun t =>
      (g.val = hiveDom (higherClaim s) → (s.hive (higherClaim s)).guard.log = r :: rest →
        (t.path p).rdata = w32 (r.region + 2 ^ 4 * r.src + 2 ^ 9 * r.step + 2 ^ 12 * r.ceil + 2 ^ 16 * r.seq.toNat) ∧
        t.sel p pg Reg.GRD_LOG_REC1 = w32 (r.classOr.toNat + 2 ^ 16 * r.count + 2 ^ 22 * r.close + 2 ^ 24 * r.regionOr.toNat) ∧
        t.sel p pg Reg.GRD_LOG_TIME = r.time ∧ (t.hive (higherClaim s)).guard.log = rest) ∧
      (t.path p).astat = 0 ∧ t.regs = s.regs ∧ DeviceKept s t) ∧
  (∀ (p : Path) (g : Fin 8) (v : W32) (s : State), Ready p g.val s →
    let pg := grdPage g.val
    let place (t : State) := t.sel p pg Reg.GRD_PERTURB_KEY
    Runs (.grdPerturbKey p g v) s fun t => DeviceKept s t ∧ t.chip.estop = s.chip.estop ∧
      (v = 0x5A5A → place t = 1 ∧ (t.region g.val).unlocked = (s.region g.val).unlocked) ∧
      (v = 0xA5A5 → place s = 1 → (t.region g.val).unlocked = true ∧ place t = 0 ∧ Marked t pg Reg.GRD_EVENTS 6) ∧
      (v = 0xA5A5 → place s ≠ 1 → (t.region g.val).unlocked = (s.region g.val).unlocked ∧ place t = 0) ∧
      (v ≠ 0x5A5A → v ≠ 0xA5A5 → (t.region g.val).unlocked = false ∧ t.reg pg Reg.GRD_PERTURB_CTL = 0 ∧ place t = 0))

/-! ### 15_control.md -/

namespace Sys2Proof.Claims
open Sys2Proof.Machine

/-- An address names a register of a page (15_control.md R472). -/
def Names (s : State) (addr : W32) (pg : Nat) (d : RegDesc) : Prop :=
  pageOf s addr = some pg ∧ keyOff addr.toNat = d.off ∧ d.off % 4 = 0 ∧ descOf (keyGroup pg) d.off = some d

/-- Bits outside those a register has. -/
def reservedOf (d : RegDesc) (v : W32) : W32 := v &&& ~~~w32 d.bits

/-- What the last access of a path answered. -/
def Answered (t : State) (p : Path) (st : Nat) (x : W32) : Prop := (t.path p).astat = st ∧ (t.path p).rdata = x

/-- A lane page's register that the statements on the ports read and write. -/
abbrev tmoAddr (l : Fin 20) : W32 := addrOf (lanePage l.val) Reg.LNK_RETRY_TMO

/-- Only the parts of an access that a path carries, and what it stages, differ. -/
def StageOnly (s t : State) : Prop := Near { s with staged := t.staged, chip := { s.chip with fpValid := t.chip.fpValid } } t

/-- An emergency stop in force (R488). -/
def Stopped (t : State) : Prop :=
  t.chip.estop = true ∧ t.chip.estopDue = false ∧ Marked t chipPage Reg.CHIP_EVENTS 6 ∧
  ∀ b, b < 72 → (t.block b).inj.state = 0 ∧ bit (t.reg (blkPage b) Reg.INJ_CTL) 0 = false ∧ t.reg (blkPage b) Reg.BIAS_TARGET = 0

/-- The report a management frame carries (R482). -/
def ReportOf (r : BitVec 96) (m : Mgt) : Prop :=
  fieldN r.toNat 95 92 = m.state ∧ fieldN r.toNat 91 88 = m.astat ∧ r.getLsbD 87 = m.refused ∧ r.getLsbD 86 = m.takeover ∧
  fieldN r.toNat 79 72 = m.seq.toNat ∧ r.extractLsb' 32 32 = m.addr ∧ r.extractLsb' 0 32 = m.data

/-- The port after a frame whose access has its result. -/
def PortDone (s t : State) (addr : W32) (st : Nat) (x : W32) : Prop :=
  t.chip.mgt.state = 1 ∧ t.chip.mgt.astat = st ∧ t.chip.mgt.data = x ∧ t.chip.mgt.addr = addr ∧ t.chip.mgt.seq = s.chip.mgt.seq + 1 ∧ t.chip.mgt.refused = false

end Sys2Proof.Claims

/-- Accesses to registers (R472, R475, R477, R478, R503, R566): what names no register, what may not be written, W1C, RC, selection and staged registers, a value out of range, the halves of a 64-bit value, and a domain that does not serve. The model's own choices in it: log entries 20, 21, 22, 23, 24. -/
def Obligations.RegisterAccesses : Prop :=
  (∀ (p : Path) (addr v : W32) (s : State), pathFree s p = true → (p = .jtag → s.chip.extest = false) → pageOf s addr = none →
    ∀ c, c = .registerWrite p addr v ∨ c = .hiWrite p addr v ∨ c = .rcRead p addr ∨ c = .loReadSnapshot p addr →
      Runs c s fun t => Answered t p 1 0 ∧ Near s t) ∧
  (∀ (p : Path) (addr v : W32) (pg : Nat) (s : State), Ready p (pageDomain pg) s → pageOf s addr = some pg →
    (keyOff addr.toNat % 4 ≠ 0 ∨ descOf (keyGroup pg) (keyOff addr.toNat) = none) →
    ∀ c, c = .registerWrite p addr v ∨ c = .hiWrite p addr v ∨ ((c = .rcRead p addr ∨ c = .loReadSnapshot p addr) ∧ p ≠ .jtag) →
      Runs c s fun t => Answered t p 1 0 ∧ Marked t pg Reg.ERR_STATUS 2 ∧ Served (onPage pg) s t) ∧
  (∀ (p : Path) (addr v : W32) (pg : Nat) (d : RegDesc) (s : State), Ready p (pageDomain pg) s → Names s addr pg d →
    (d.acc = .ro ∨ d.acc = .rc → Runs (.registerWrite p addr v) s fun t => Answered t p 0 0 ∧ Marked t pg Reg.ERR_STATUS 0 ∧ Served (onPage pg) { s with sels := t.sels } t) ∧
    (d.acc = .w1c → reservedOf d v = 0 → Runs (.registerWrite p addr v) s fun t => Answered t p 0 0 ∧ t.reg pg d.off = s.reg pg d.off &&& ~~~v ∧
      OnlyReg (rkey pg d.off 0) s t ∧ t.hiveA = s.hiveA ∧ t.hiveB = s.hiveB ∧ DeviceKept s t) ∧
    (d.acc = .rw → 0x40 ≤ d.off → isSel (keyGroup pg) d.off = true → Runs (.registerWrite p addr v) s fun t => Answered t p 0 0 ∧
      t.sel p (homePage pg) d.off = v &&& w32 d.bits ∧ (reservedOf d v ≠ 0 → Marked t pg Reg.ERR_STATUS 1) ∧ DeviceKept s t) ∧
    (d.acc = .st → 0x40 ≤ d.off → d.sel = none → isSel (keyGroup pg) d.off = false → isLo (keyGroup pg) d.off = false → isLo (keyGroup pg) (d.off - 4) = false → reservedOf d v = 0 →
      let k := rkey (homePage pg) d.off 0
      fitValue (keyGroup pg) d.off (s.stagedReg (homePage pg) d.off) v = v →
      (s.staged.length < 4096 ∨ tfind s.staged k ≠ none → s.staged.length ≤ 4096 → Runs (.registerWrite p addr v) s fun t => Answered t p 0 0 ∧ tfind t.staged k = some v ∧
        (∀ j, j ≠ k → tfind t.staged j = tfind s.staged j) ∧ t.reg (homePage pg) d.off = s.reg (homePage pg) d.off ∧ t.regs = s.regs) ∧
      (4096 ≤ s.staged.length → tfind s.staged k = none → p ≠ .startup → Runs (.registerWrite p addr v) s fun t => t.staged = s.staged ∧
        Marked t pg Reg.ERR_STATUS 4 ∧ Marked t chipPage Reg.CHIP_EVENTS 2)) ∧
    (d.acc = .rc → d.sel = none → d.now = none → isSel (keyGroup pg) d.off = false → p ≠ .jtag → Runs (.rcRead p addr) s fun t =>
      Answered t p 0 (s.reg pg d.off) ∧ t.reg pg d.off = 0 ∧ OnlyReg (rkey pg d.off 0) s t ∧ t.hiveA = s.hiveA ∧ t.hiveB = s.hiveB ∧ DeviceKept s t)) ∧
  (∀ (p : Path) (l : Fin 20) (v : W32) (s : State), Ready p 8 s → Runs (.registerWrite p (tmoAddr l) v) s fun t =>
    (1 ≤ v.toNat → v.toNat ≤ 1024 → t.reg (lanePage l.val) Reg.LNK_RETRY_TMO = v ∧ OnlyReg (rkey (lanePage l.val) Reg.LNK_RETRY_TMO 0) s t) ∧
    (v.toNat = 0 ∨ (1024 < v.toNat ∧ v.toNat < 2048) → s.reg (lanePage l.val) Reg.LNK_RETRY_TMO ≠ v → t.reg (lanePage l.val) Reg.LNK_RETRY_TMO = s.reg (lanePage l.val) Reg.LNK_RETRY_TMO ∧
      Marked t (lanePage l.val) Reg.ERR_STATUS 3) ∧ t.lanes = s.lanes) ∧
  (∀ (p : Path) (v : W32) (x : W64) (s : State), ReadyRead p 8 s →
    let lo := addrOf chipPage Reg.CHIP_COMMIT_FRAME_LO
    let hi := addrOf chipPage Reg.CHIP_COMMIT_FRAME_HI
    let tag := some (chipPage + Reg.CHIP_COMMIT_FRAME_LO)
    let rl := s.reg chipPage Reg.CHIP_COMMIT_FRAME_LO
    let rh := s.reg chipPage Reg.CHIP_COMMIT_FRAME_HI
    (Runs (.loReadSnapshot p lo) s fun t => Answered t p 0 rl ∧ (t.path p).rTag = tag ∧ (t.path p).rHold = rh ++ rl ∧ t.regs = s.regs) ∧
    ((s.path p).rTag = tag → (s.path p).rHold = x → Runs (.loReadSnapshot p hi) s fun t => Answered t p 0 (x.extractLsb' 32 32) ∧ t.regs = s.regs) ∧
    ((s.path p).rTag ≠ tag → Runs (.loReadSnapshot p hi) s fun t => Answered t p 0 rh ∧ t.regs = s.regs) ∧
    (Runs (.registerWrite p lo v) s fun t => (t.path p).wTag = tag ∧ (t.path p).wHold = v ∧ t.regs = s.regs) ∧
    (v.toNat < 256 → (s.path p).wTag = tag → Runs (.hiWrite p hi v) s fun t => t.reg chipPage Reg.CHIP_COMMIT_FRAME_LO = (s.path p).wHold ∧
      t.reg chipPage Reg.CHIP_COMMIT_FRAME_HI = v ∧ (t.path p).wTag = none ∧
      OnlyRegs (fun k => k = rkey chipPage Reg.CHIP_COMMIT_FRAME_LO 0 ∨ k = rkey chipPage Reg.CHIP_COMMIT_FRAME_HI 0) s t) ∧
    (v.toNat < 256 → (s.path p).wTag ≠ tag → Runs (.hiWrite p hi v) s fun t => t.reg chipPage Reg.CHIP_COMMIT_FRAME_HI = v ∧
      OnlyReg (rkey chipPage Reg.CHIP_COMMIT_FRAME_HI 0) s t)) ∧
  (∀ (p : Path) (addr v : W32) (pg : Nat) (s : State), pathFree s p = true → p ≠ .startup → p ≠ .mgmt → p ≠ .jtag → pageOf s addr = some pg →
    (gate s (pageDomain pg) = .unreachable → Runs (.registerWrite p addr v) s fun t => Answered t p 3 0 ∧ Near s t) ∧
    (gate s (pageDomain pg) = .stall → Runs (.registerWrite p addr v) s fun t => (∃ e, tfind t.stalls (pathNo p) = some e ∧ e.op = opWrite ∧ e.data = v ∧ e.domain = pageDomain pg) ∧
      t.path p = s.path p ∧ Near { s with stalls := t.stalls } t ∧ (pageDomain pg < 8 → (t.domain (pageDomain pg)).access = true)))

/-- The staged set and the commit (R478–R480, 11_systems.md R364, R369): a page discarded; the commit armed, refused, disarmed and discarded; at its boundary the pending values come into force together; the fingerprint of the staged
values; the emergency stop and its end (R488). The model's own choices in it: log entries 29, 30. -/
def Obligations.CommitAndEmergencyStop : Prop :=
  (∀ (p : Path) (addr : W32) (pg : Nat) (s : State), Ready p (pageDomain pg) s → pageOf s (ctlOf addr) = some pg → Runs (.pageDiscard p addr) s fun t =>
    (s.chip.commitArmed = none → (∀ k, tfind t.staged k = if keyPage k = homePage pg then none else tfind s.staged k) ∧ t.regs = s.regs) ∧
    (s.chip.commitArmed ≠ none → t.staged = s.staged ∧ Marked t pg Reg.ERR_STATUS 3)) ∧
  (∀ (p : Path) (s : State), Ready p 8 s →
    let f := BitVec.ofNat 40 (s.reg64 chipPage Reg.CHIP_COMMIT_FRAME_LO)
    (0 < frameDiff f s.frameNow → Runs (.chipCommitArm p) s fun t => t.chip.commitArmed = some f ∧ t.chip.commitState = 1 ∧ t.staged = s.staged ∧ t.regs = s.regs) ∧
    (frameDiff f s.frameNow ≤ 0 → Runs (.chipCommitArm p) s fun t => t.chip.commitArmed = s.chip.commitArmed ∧ t.staged = s.staged ∧
      (s.chip.commitArmed = none → t.chip.commitState = 3) ∧ Marked t chipPage Reg.CHIP_EVENTS 1 ∧ Marked t chipPage Reg.CHIP_SYS_EVENTS 2 ∧
      t.reg chipPage Reg.CHIP_SCHED_EXP_CNT = satInc (s.reg chipPage Reg.CHIP_SCHED_EXP_CNT) 1) ∧
    (Runs (.chipCommitDisarm p) s fun t => t.chip.commitArmed = none ∧ (s.chip.commitArmed ≠ none → t.chip.commitState = 0) ∧ t.staged = s.staged ∧ t.regs = s.regs) ∧
    (s.chip.commitArmed = none → Runs (.chipCommitDiscard p) s fun t => t.staged = [] ∧ t.regs = s.regs) ∧
    (s.chip.commitArmed ≠ none → Runs (.chipCommitDiscard p) s fun t => t.staged = s.staged ∧ t.chip.commitArmed = s.chip.commitArmed ∧ Marked t chipPage Reg.ERR_STATUS 3)) ∧
  (∀ (trips : List Nat) (s : State), s.chip.started = true → s.chip.state ≠ .deep → s.chip.state ≠ .off → boundaryDue s = true →
    s.hiveA.dup.pendingTake = false → s.hiveB.dup.pendingTake = false → s.chip.step = none → s.chip.commitArmed = some (s.frameNow + 1) → s.chip.plcArmed = none →
    (s.staged.map (·.1)).Nodup →
    Runs (.frameBoundary trips) s fun t => t.staged = [] ∧ t.chip.commitArmed = none ∧ t.chip.commitState = 2 ∧ Marked t chipPage Reg.CHIP_EVENTS 0 ∧
      t.reg chipPage Reg.CHIP_FP_TAG = s.stagedReg chipPage Reg.CHIP_FP_TAG) ∧
  (∀ s : State, Runs .fpStagedUpdate s fun t =>
    t.chip.fpStaged = fingerprint (fpInputs s (fun pg off => s.stagedReg pg off)) ∧ t.chip.fpValid = true ∧ t.chip.fpNow = s.chip.fpNow ∧ t = { s with chip := t.chip }) ∧
  (∀ (p : Path) (s : State), Ready p 8 s → p ≠ .startup →
    (Runs (.estop p) s fun t => Stopped t ∧ t.chip.estopI2c = false ∧ t.tick = s.tick ∧ t.cells = s.cells ∧ t.lanes = s.lanes ∧ t.hks = s.hks) ∧
    (Runs (.estopClear p) s fun t => t.chip.estop = false ∧ t.chip.estopDue = false ∧ t.blocks = s.blocks ∧ t.regs = s.regs)) ∧
  (∀ (key : W32) (s : State), s.chip.held = false → Runs (.i2cEstopWrite key) s fun t => t.chip.i2cPtr = 0xF0 ∧ t.cells = s.cells ∧ t.lanes = s.lanes ∧
    (key = 0x0000E55E → s.chip.started = true → s.chip.state = .run → Stopped t ∧ t.chip.estopI2c = true) ∧
    (key = 0x0000E55E → s.chip.started = false ∨ s.chip.state ≠ .run → t.chip.estop = true ∧ t.chip.estopDue = true ∧ t.blocks = s.blocks ∧ t.regs = s.regs) ∧
    (key ≠ 0x0000E55E → t = { s with chip := t.chip } ∧ t.chip.estop = s.chip.estop))

/-- The ports (R482–R487, R489–R492): a frame takes the report, carries an access or is refused or discarded; a stalled access completes; the I²C target; FAULT_N; the TAP's instructions, REG_ACCESS without side effects of reads. The model's own choices in it: log entries 1, 17, 19, 28. -/
def Obligations.PortsAndTap : Prop :=
  (∀ (addr v : W32) (s : State), mgtPowered s = true → s.chip.mgt.state < 16 → s.chip.mgt.astat < 16 →
    let m := s.chip.mgt
    (Runs .mgtNop s fun t => ReportOf t.chip.mgt.report m ∧ t.chip.mgt = { m with report := t.chip.mgt.report, refused := false, takeover := false } ∧ t = { s with chip := { s.chip with mgt := t.chip.mgt } }) ∧
    (∀ c, c = .mgtRead addr ∨ c = .mgtWrite addr v ∨ c = .mgtDbgRead addr →
      (tfind s.stalls 32 ≠ none → Runs c s fun t => ReportOf t.chip.mgt.report m ∧ t.chip.mgt = { m with report := t.chip.mgt.report, refused := true, takeover := false } ∧
        t.reg chipPage Reg.CHIP_SPI_BUSY_CNT = satInc (s.reg chipPage Reg.CHIP_SPI_BUSY_CNT) 1 ∧ OnlyReg (rkey chipPage Reg.CHIP_SPI_BUSY_CNT 0) s t ∧ t.stalls = s.stalls) ∧
      (tfind s.stalls 32 = none → pageOf s addr = none → Runs c s fun t => ReportOf t.chip.mgt.report m ∧ PortDone s t addr 1 0 ∧ t.regs = s.regs) ∧
      (∀ pg, tfind s.stalls 32 = none → pageOf s addr = some pg → gate s (pageDomain pg) = .unreachable → Runs c s fun t => PortDone s t addr 3 0 ∧ t.regs = s.regs) ∧
      (∀ pg, tfind s.stalls 32 = none → pageOf s addr = some pg → gate s (pageDomain pg) = .stall → Runs c s fun t => t.chip.mgt.state = 2 ∧ t.chip.mgt.addr = addr ∧
        t.chip.mgt.seq = m.seq + 1 ∧ tfind t.stalls 32 ≠ none ∧ t.regs = s.regs)) ∧
    (∀ l : Fin 20, addr = tmoAddr l → tfind s.stalls 32 = none → gate s 8 = .serve →
      (∀ c, c = .mgtRead addr ∨ c = .mgtDbgRead addr → Runs c s fun t => ReportOf t.chip.mgt.report m ∧ PortDone s t addr 0 (s.reg (lanePage l.val) Reg.LNK_RETRY_TMO) ∧ t.regs = s.regs) ∧
      (1 ≤ v.toNat → v.toNat ≤ 1024 → Runs (.mgtWrite addr v) s fun t => ReportOf t.chip.mgt.report m ∧ PortDone s t addr 0 0 ∧ t.reg (lanePage l.val) Reg.LNK_RETRY_TMO = v))) ∧
  (∀ (edges : Nat) (mosi : BitVec 96) (s : State), mgtPowered s = true →
    let one (o : Nat) (t : State) : Prop := t.reg chipPage o = satInc (s.reg chipPage o) 1
    let same (o : Nat) (t : State) : Prop := t.reg chipPage o = s.reg chipPage o
    (edges = 0 → exec (.spiErr edges mosi) s = .next s) ∧
    (edges ≠ 0 → edges ≠ 96 ∨ 4 ≤ fieldN mosi.toNat 95 92 ∨ fieldN mosi.toNat 91 64 ≠ 0 → Runs (.spiErr edges mosi) s fun t =>
      (edges < 96 → one Reg.CHIP_SPI_ABORT_CNT t ∧ one Reg.CHIP_SPI_FRAME_ERR_CNT t ∧ same Reg.CHIP_SPI_CMD_ERR_CNT t) ∧
      (96 < edges → same Reg.CHIP_SPI_ABORT_CNT t ∧ one Reg.CHIP_SPI_FRAME_ERR_CNT t ∧ same Reg.CHIP_SPI_CMD_ERR_CNT t) ∧
      (edges = 96 → same Reg.CHIP_SPI_ABORT_CNT t ∧ same Reg.CHIP_SPI_FRAME_ERR_CNT t ∧ one Reg.CHIP_SPI_CMD_ERR_CNT t) ∧
      Marked t chipPage Reg.CHIP_EVENTS 3 ∧ t.chip = s.chip ∧ Quiet (onPage chipPage) s t)) ∧
  (∀ (p : Path) (e : Stalled) (l : Fin 20) (s : State), (∀ n, p = .worker n → (s.worker n.val).wait ≠ some .access) → (∀ n, p = .lane n → running s n.val = none) → (p = .mgmt → tfind s.stalls 36 = none) →
    tfind s.stalls (pathNo p) = some e →
    (gate s e.domain = .stall → exec (.accessComplete p) s = .next s) ∧
    (gate s e.domain = .unreachable → Runs (.accessComplete p) s fun t => Answered t p 3 0 ∧ tfind t.stalls (pathNo p) = none ∧ t.regs = s.regs ∧
      (p = .mgmt → t.chip.mgt.state = 1 ∧ t.chip.mgt.astat = 3)) ∧
    (gate s e.domain = .serve → e.addr = tmoAddr l → e.op = opDebug ∨ (e.op = opRead ∧ p ≠ .jtag) → Runs (.accessComplete p) s fun t =>
      Answered t p 0 (s.reg (lanePage l.val) Reg.LNK_RETRY_TMO) ∧ tfind t.stalls (pathNo p) = none ∧ t.regs = s.regs ∧
      (p = .mgmt → t.chip.mgt.state = 1 ∧ t.chip.mgt.data = s.reg (lanePage l.val) Reg.LNK_RETRY_TMO))) ∧
  (∀ (wk : Fin 192) (e : Stalled) (l : Fin 20) (s : State),
    let w := wk.val
    tfind s.stalls (64 + w) = some e → (s.worker w).wait = some .access → (s.worker w).stepping = false → (s.worker w).haltReq = false →
    gate s e.domain = .serve → e.addr = tmoAddr l → e.op = opRead ∨ e.op = opDebug →
    Runs (.accessComplete (.worker wk)) s fun t => t.worker w = { s.worker w with
        regs := tset 0 (s.worker w).regs e.dest (s.reg (lanePage l.val) Reg.LNK_RETRY_TMO), pc := nextPc s w, wait := none } ∧
      tfind t.stalls (64 + w) = none ∧ t.regs = s.regs) ∧
  (∀ (ptr : BitVec 8) (n : Nat) (s : State), s.chip.held = false →
    (Runs (.i2cPointerWrite ptr) s fun t => t = { s with chip := { s.chip with i2cPtr := ptr.toNat, i2cHeld := false } }) ∧
    (Runs (.i2cRead n) s fun t => t.chip.i2cOut.length = n ∧ t.chip.i2cPtr = (s.chip.i2cPtr + n / 4) % 256 ∧ t = { s with chip := { s.chip with i2cOut := t.chip.i2cOut, i2cPtr := t.chip.i2cPtr, i2cHeld := false } }) ∧
    (Runs (.i2cRead 4) s fun t =>
      (s.chip.i2cPtr = 0 → s.chip.started = true → s.chip.state = .run → s.chip.railsLow = [] → t.chip.i2cOut = [0x00, 0x52, 0x11, 0x52]) ∧
      (s.chip.i2cPtr = 0x40 → s.chip.started = false → t.chip.i2cOut = [0x80, 0, 0, 0]) ∧
      (s.chip.i2cPtr = 0xF0 → t.chip.i2cOut = [0, 0, 0, 0]) ∧ (s.chip.i2cPtr = 0xF2 → t.chip.i2cOut = [0xFF, 0xFF, 0xFF, 0xFF])) ∧
    (s.chip.i2cHeld = false → Runs .i2cStuck s fun t => t.reg chipPage Reg.CHIP_I2C_STUCK_CNT = satInc (s.reg chipPage Reg.CHIP_I2C_STUCK_CNT) 1 ∧
      Marked t chipPage Reg.CHIP_EVENTS 4 ∧ t.chip = { s.chip with i2cStuckSeen := true, i2cHeld := true } ∧ Quiet (onPage chipPage) { s with chip := t.chip } t) ∧
    (s.chip.i2cHeld = true → exec .i2cStuck s = .next s)) ∧
  (∀ s : State,
    (faultDriven s = false → s.chip.faultExt = false → s.chip.faultReleased = 0 ∨ s.chip.faultReleased + 1024 ≤ s.tick → Runs .faultLineExternal s fun t =>
      t.chip = { s.chip with faultExt := true, faultExternal := true } ∧ t.reg chipPage Reg.CHIP_FAULTN_EXT_CNT = satInc (s.reg chipPage Reg.CHIP_FAULTN_EXT_CNT) 1 ∧
      Marked t chipPage Reg.CHIP_EVENTS 5 ∧ Quiet (onPage chipPage) { s with chip := t.chip } t) ∧
    (faultDriven s = true → exec .faultLineExternal s = .next s ∧ exec .faultLineReleased s = .next s) ∧
    (faultDriven s = false → Runs .faultLineReleased s fun t => t = { s with chip := { s.chip with faultExt := false, faultExternal := false } })) ∧
  (∀ (pins : List Bool) (addr v : W32) (s : State),
    let tap (c : Instr) (ir : BitVec 8) : Prop := Runs c s fun t => t.chip.jtagIr = ir ∧ t.chip.extest = false ∧ (s.chip.extest = false → t = { s with chip := t.chip })
    let drives (c : Instr) (ir : BitVec 8) : Prop := Runs c s fun t => t = { s with chip := { s.chip with jtagIr := ir, extest := true, boundary := pins } }
    tap .jtagBypass 0xFF ∧ (Runs .jtagBypass s fun t => t.chip.jtagDr = 0) ∧ tap .jtagIdcode 0x01 ∧
    (Runs .jtagIdcode s fun t => t.chip.jtagDr.extractLsb' 0 28 = 0x11525E7) ∧
    tap (.jtagSamplePreload pins) 0x02 ∧ (Runs (.jtagSamplePreload pins) s fun t => t.chip.boundary = pins) ∧ tap .testLogicReset 0x01 ∧
    drives (.jtagExtest pins) 0x03 ∧ drives (.jtagExtestPulse pins) 0x04 ∧ drives (.jtagExtestTrain pins) 0x05 ∧
    (pathFree s .jtag = true → s.chip.extest = false →
      (∀ c, c = .regAccessRead addr ∨ c = .regAccessDbgRead addr → Runs c s fun t => t.chip.jtagIr = 0x20 ∧ t.regs = s.regs ∧ t.hiveA = s.hiveA ∧ t.hiveB = s.hiveB ∧ DeviceKept s t ∧
        (∀ pg, pageOf s addr = some pg → gate s (pageDomain pg) = .stall → t.chip.jtagDr.extractLsb' 64 2 = 3) ∧
        (∀ l : Fin 20, addr = tmoAddr l → gate s 8 = .serve → t.chip.jtagDr.extractLsb' 64 2 = 0 ∧ t.chip.jtagDr.extractLsb' 0 32 = s.reg (lanePage l.val) Reg.LNK_RETRY_TMO)) ∧
      (∀ l : Fin 20, addr = tmoAddr l → gate s 8 = .serve → 1 ≤ v.toNat → v.toNat ≤ 1024 → Runs (.regAccessWrite addr v) s fun t =>
        t.reg (lanePage l.val) Reg.LNK_RETRY_TMO = v ∧ t.chip.jtagDr.extractLsb' 64 2 = 0 ∧ OnlyReg (rkey (lanePage l.val) Reg.LNK_RETRY_TMO 0) s t)))

/-! ### 16_power_reset.md -/

namespace Sys2Proof.Claims
open Sys2Proof.Machine

/-- Only one domain differs. -/
def DomainOnly (d : Nat) (s t : State) : Prop := t = { s with domains := t.domains } ∧ ∀ k, k ≠ d → t.domain k = s.domain k

/-- A domain that may change its state of itself: the chip has started, no chip-wide entry runs, and the domain is in no reset. -/
def Settling (d : Nat) (s : State) : Prop := s.chip.started = true ∧ (s.domain d).inReset = false ∧ s.chip.entering = none ∧ s.chip.state = .run

/-- A chip-level reset of a kind: nothing waits, no register but those named holds other than its reset value, the honey stores are empty, and the records of the non-volatile stores stay, but for the word writes of an interrupted command that never start (R516, R521,
13_memory.md R429). -/
def ChipReset (kind : Nat) (s t : State) : Prop :=
  t.chip.cause = kind ∧ t.chip.started = false ∧ t.chip.state = .run ∧ t.staged = [] ∧ t.sels = [] ∧ t.paths = [] ∧ t.stalls = [] ∧ t.cells = [] ∧ t.blocks = [] ∧ t.combs = [] ∧
  t.workers = [] ∧ t.regions = [] ∧ t.domains = [] ∧ t.hks = [] ∧ t.tick = s.tick ∧ (∀ l, (t.lane l).state = .down) ∧
  (∀ h, (t.honey h).bytes = [] ∧ (t.honey h).st = [] ∧ (t.honey h).merge = [] ∧ (t.hive h).caches = [] ∧ (t.hive h).queues = [] ∧ (t.hive h).nvs = none ∧
    ((s.hive h).nvs = none → (t.hive h).mram = (s.hive h).mram) ∧
    (∀ c, (s.hive h).nvs = some c → ∃ k, k ≤ c.writes.length ∧ (t.hive h).mram = written (s.hive h).mram (c.writes.take k)))

/-- A cold reset leaves no time, no calibration, no claim but the reset's, and no log (R521). -/
def Cold (t : State) : Prop := t.regs = [] ∧ t.cals = [] ∧ ∀ h, (t.hive h).tb = (State.reset.hive h).tb ∧ (t.honey h).retired = [] ∧ (t.honey h).log = [] ∧ (t.hive h).guard = {}

end Sys2Proof.Claims

/-- Power domains (R500–R507, R510): votes by their path, wakes, the steps of an entry and its abort, the ACCESS vote's end, the chip-wide states and the wake from Deep sleep with COARSE time. The model's own choices in it: log entries 1, 67, 68, 69. -/
def Obligations.PowerStates : Prop :=
  (∀ (p : Path) (v : W32) (s : State), Ready p 8 s → Runs (.pwrVote p v) s fun t =>
    (if ∃ n, p = .worker n then (t.domain (fld v 2 0)).fwRun = bit v 8 ∧ (t.domain (fld v 2 0)).fwIdle = bit v 9 ∧
        (t.domain (fld v 2 0)).hostRun = (s.domain (fld v 2 0)).hostRun ∧ (t.domain (fld v 2 0)).hostIdle = (s.domain (fld v 2 0)).hostIdle
      else (t.domain (fld v 2 0)).hostRun = bit v 8 ∧ (t.domain (fld v 2 0)).hostIdle = bit v 9 ∧
        (t.domain (fld v 2 0)).fwRun = (s.domain (fld v 2 0)).fwRun ∧ (t.domain (fld v 2 0)).fwIdle = (s.domain (fld v 2 0)).fwIdle) ∧
    (∀ k, (t.domain k).state = (s.domain k).state) ∧ (∀ k, k ≠ fld v 2 0 → (t.domain k).hostRun = (s.domain k).hostRun ∧ (t.domain k).fwRun = (s.domain k).fwRun) ∧ DeviceKept s t) ∧
  (∀ (d : Fin 8) (s : State), Settling d.val s →
    let x := s.domain d.val
    let w := wanted s d.val
    (x.entry = none → x.state.rank < w.rank → Runs (.domainWake d) s fun t => (t.domain d.val).state = w ∧ (t.domain d.val).entry = none ∧ (t.domain d.val).lowPower = decide (w = .sleep) ∧
      (d.val < 6 → w.awake = true → (t.domain d.val).parked = false) ∧ (x.parked = false → DomainOnly d.val s t)) ∧
    (x.entry = none → w.rank ≤ x.state.rank → exec (.domainWake d) s = .next s) ∧
    (x.state = .run → x.entry = none → w ≠ .run → Runs (.domainEntry d) s fun t => t.domain d.val = { x with state := .idle } ∧ DomainOnly d.val s t) ∧
    (x.state = .idle → x.entry = none → w = .sleep → Runs (.domainEntry d) s fun t => t.domain d.val = { x with entry := some (.sleep, 1) } ∧ DomainOnly d.val s t) ∧
    (x.state = .idle → x.entry = some (.sleep, 2) → w = .sleep → Runs (.domainEntry d) s fun t => t.domain d.val = { x with entry := some (.sleep, 3) } ∧
      (d.val < 6 → (t.hk d.val).running = false) ∧ t = { s with domains := t.domains, hks := t.hks }) ∧
    (x.state = .idle → x.entry = some (.sleep, 3) → w = .sleep → Runs (.domainEntry d) s fun t => t.domain d.val = { x with state := .sleep, entry := none, lowPower := true } ∧ DomainOnly d.val s t) ∧
    (x.entry ≠ none → PState.sleep.rank < w.rank → Runs (.entryAbort d) s fun t => (t.domain d.val).entry = none ∧ Marked t pwrPage Reg.PWR_EVENTS 1 ∧
      t.reg pwrPage Reg.PWR_ABORT_CNT = satInc (s.reg pwrPage Reg.PWR_ABORT_CNT) 1 ∧ (Marked s pwrPage Reg.PWR_EVENTS 1 → (t.domain d.val).state = w)) ∧
    (x.entry ≠ none → w.rank ≤ PState.sleep.rank → exec (.entryAbort d) s = .next s)) ∧
  (∀ (d : Fin 8) (s : State),
    let x := s.domain d.val
    let ended := s.tick ≥ x.lastAccess + 1024 * fld (s.reg pwrPage Reg.PWR_LINGER) 19 0
    (x.access = true → (∀ e ∈ s.stalls, e.2.domain ≠ d.val) → ended → Runs (.accessLingerExpiry d) s fun t => t.domain d.val = { x with access := false } ∧ DomainOnly d.val s t) ∧
    (¬ ended ∨ (∃ e ∈ s.stalls, e.2.domain = d.val) → exec (.accessLingerExpiry d) s = .next s)) ∧
  (∀ (p : Path) (s : State), Ready p 8 s → p ≠ .startup →
    let asleep := ∀ d, d < 8 → (s.domain d).state = .sleep ∧ (s.domain d).entry = none ∧ (s.domain d).inReset = false
    ∀ c q, (c = .enterDeep p ∧ q = PState.deep) ∨ (c = .enterOff p ∧ q = PState.off) →
      (s.chip.entering = none → asleep → Runs c s fun t => t.chip.entering = some (q, 0) ∧ t.chip.lastCmd = s.chip.lastCmd ∧ t.chip.state = s.chip.state ∧ t.regs = s.regs) ∧
      (s.chip.entering ≠ none ∨ ¬ asleep → Runs c s fun t => t.chip.entering = s.chip.entering ∧ t.chip.lastCmd = 2 ∧ t.regs = s.regs)) ∧
  (∀ (src : WakeSrc) (ms : Nat) (s : State),
    let allowed := match src with
      | .wakePin => True
      | .lane n => bit (s.reg pwrPage Reg.PWR_WAKE_CFG) n.val = true
      | .mgt => bit (s.reg pwrPage Reg.PWR_WAKE_CFG) 20 = true
    (¬ allowed → exec (.deepSleepWake src ms) s = .next s) ∧
    (allowed → s.chip.state = .deep → s.chip.entering = none → s.chip.keepMs + ms < 2 ^ 48 * 1000 → Runs (.deepSleepWake src ms) s fun t =>
      t.chip.state = .run ∧ (∀ h, t.fuOf h = 1024000000 * (s.chip.keepMs + ms : Nat)) ∧ BothHives t (fun x => x.tb.qual.coarse = true ∧ x.tb.qual.locked = false) ∧ t.chip.framing = false ∧
      t.reg pwrPage Reg.PWR_WAKE_SRC = (match src with | .wakePin => 1 | .lane n => w32 (2 + n.val * 256) | .mgt => 3) ∧ Marked t pwrPage Reg.PWR_EVENTS 0 ∧ t.tick = s.tick))

/-- The budget arbiter and the rails of the PHY island and the bias outputs (R495, R496, R513–R515): the estimate, the next throttle step or its release; VLANE and VBIAS low and back; the warning of a rail. The model's own choices in it: log entries 1, 66. -/
def Obligations.BudgetAndRails : Prop :=
  (∀ (grants : List (Nat × Nat)) (s : State), s.chip.started = true → s.chip.state = .run →
    let p := 4 * (grants.map (·.1)).sum + 6 * (grants.map (·.2)).sum + 35 * awakeTx s + 10 * fld (s.reg pwrPage Reg.PWR_FIXED) 7 0
    let budget := 10 * fld (s.reg pwrPage Reg.PWR_BUDGET) 8 0
    let hyst := 10 * fld (s.reg pwrPage Reg.PWR_HYST) 5 0
    Runs (.budgetInterval grants) s fun t =>
      (p % 10 = 0 → t.reg pwrPage Reg.PWR_EST = w32 (p / 10 % 1024)) ∧
      (budget < p → s.chip.throttle = 0 → t.chip.throttle = 1 ∧ (s.chip.throttleEp = false → Marked t pwrPage Reg.PWR_EVENTS 4)) ∧
      (budget < p → s.chip.throttle = 1 → t.chip.throttle = 2 ∧ (s.chip.throttleEp = false → Marked t pwrPage Reg.PWR_EVENTS 4)) ∧
      (∀ l, budget < p → 2 ≤ s.chip.throttle → nextRemoved s = some l → t.chip.throttle = 3 ∧ t.chip.removed = s.chip.removed ++ [l]) ∧
      (budget < p → 2 ≤ s.chip.throttle → nextRemoved s = none → t.chip.throttle = s.chip.throttle ∧ (s.chip.overBudget = false → Marked t pwrPage Reg.PWR_EVENTS 5)) ∧
      (p ≤ budget → budget ≤ p + hyst → t.chip = { s.chip with overBudget := false } ∧ t.lanes = s.lanes) ∧
      (p + hyst < budget → s.chip.throttle = 1 → t.chip.throttle = 0) ∧ (p + hyst < budget → s.chip.throttle = 2 → t.chip.throttle = 1) ∧
      (∀ l, p + hyst < budget → s.chip.throttle = 3 → s.chip.removed.min? = some l → t.chip.removed = s.chip.removed.erase l) ∧
      t.tick = s.tick ∧ (∀ h, t.fuOf h = s.fuOf h) ∧ t.cells = s.cells ∧ t.blocks = s.blocks ∧ t.hks = s.hks) ∧
  (∀ s : State,
    (s.chip.vlaneLow = false → Runs .vlaneLow s fun t => t.chip.vlaneLow = true ∧ (∀ l, l < 20 → (t.lane l).state = .down ∧ (t.lane l).powered = false ∧ (t.lane l).lock = false) ∧
      SourceCounts (hiveDom (higherClaim s)) 6 s t ∧ t.cells = s.cells ∧ t.tick = s.tick) ∧
    (s.chip.vlaneLow = true → exec .vlaneLow s = .next s ∧ Runs .vlaneRestored s fun t => t.chip.vlaneLow = false ∧ (∀ l, l < 20 → (t.lane l).powered = true) ∧ t.tick = s.tick) ∧
    (s.chip.vbiasLow = false → Runs .vbiasLow s fun t => t.chip = { s.chip with vbiasLow := true } ∧ Marked t pwrPage Reg.PWR_EVENTS 6 ∧ Quiet (onPage pwrPage) { s with chip := t.chip } t) ∧
    (Runs .vbiasRestored s fun t => t = { s with chip := { s.chip with vbiasLow := false } })) ∧
  (∀ (rail : Rail) (s : State), Runs (.railWarning rail) s fun t => DeviceKept s t ∧ ∀ h,
    ((s.hive h).nvs = none → (t.hive h).mram = (s.hive h).mram) ∧
    (∀ c, (s.hive h).nvs = some c → (t.hive h).nvs = none ∧ (∃ k, k ≤ c.writes.length ∧ (t.hive h).mram = written (s.hive h).mram (c.writes.take k)) ∧
      (c.src = 0 → (t.hive h).nvsState = 2 ∧ (t.hive h).nvsResult = 7 ∧ Marked t (nvsPage h) Reg.NVS_EVENTS 1)))

/-- Chip-level resets and start-up (R504, R516–R518, R521, R522): what each kind leaves, when a soft or remote one acts and what it keeps, and what start-up brings into being, for which REFCLK must lie within the capture range (02_timebase.md R60). The model's own choices in it: log entries 70, 71. -/
def Obligations.ChipResetsAndStartup : Prop :=
  (∀ (rail : Rail) (s : State),
    (Runs .powerOnReset s fun t => ChipReset 0 s t ∧ Cold t ∧ t.chip.held = false ∧ t.chip.chipResets = 0) ∧
    (Runs .vstbyLow s fun t => ChipReset 0 s t ∧ Cold t ∧ t.chip.held = true ∧ t.chip.chipResets = 0) ∧
    (s.chip.held = false → s.chip.state ≠ .off →
      (Runs (.chipBrownout rail) s fun t => ChipReset 1 s t ∧ Cold t ∧ rail ∈ t.chip.railsLow ∧ t.chip.chipResets = (s.chip.chipResets + 1) % 2 ^ 32 ∧ t.chip.estop = s.chip.estop) ∧
      (Runs .resetN s fun t => ChipReset 2 s t ∧ Cold t ∧ t.chip.chipResets = (s.chip.chipResets + 1) % 2 ^ 32 ∧ t.chip.estop = s.chip.estop)) ∧
    (s.chip.state = .off → (Runs .wakeFromOff s fun t => ChipReset 5 s t ∧ t.reg pwrPage Reg.PWR_WAKE_SRC = 1 ∧ t.cals = []) ∧ exec .resetN s = .next s ∧ exec (.chipBrownout rail) s = .next s) ∧
    (s.chip.state ≠ .off → exec .wakeFromOff s = .next s)) ∧
  (∀ (p : Path) (v : W32) (s : State), Ready p 8 s → Runs (.rstSoft p v) s fun t =>
    (fld v 15 0 = 0x9C3A → t.chip.softAt = some (s.tick + 10240, 3, 0)) ∧
    (fld v 15 0 ≠ 0x9C3A → t.chip.softAt = s.chip.softAt ∧ Marked t rstPage Reg.ERR_STATUS 3) ∧ t.tick = s.tick ∧ t.lanes = s.lanes ∧ t.cells = s.cells) ∧
  (∀ (lane : Fin 20) (v : W32) (s : State), Ready (.lane lane) 8 s → Runs (.rstRemote lane v) s fun t =>
    let on := bit (s.reg rstPage Reg.RST_REMOTE_LANES) lane.val
    (v = 0x3C96 → on = true → t.chip.softAt = some (s.tick + 10240, 4, lane.val)) ∧ (v ≠ 0x3C96 ∨ on = false → t.chip.softAt = s.chip.softAt) ∧ t.tick = s.tick ∧ t.lanes = s.lanes) ∧
  (∀ (due kind lane : Nat) (s : State), s.chip.softAt = some (due, kind, lane) →
    (s.tick < due → exec .softResetAct s = .next s) ∧
    (due ≤ s.tick → kind = 3 ∨ kind = 4 → (s.cals.map (·.1)).Nodup → Runs .softResetAct s fun t => ChipReset kind s t ∧ t.chip.causeLane = lane ∧
      (∀ h, t.fuOf h = s.fuOf h ∧ (t.hive h).tb.core.freq = (s.hive h).tb.core.holdAvg ∧ (t.hive h).tb.core.frame = (s.hive h).tb.core.frame ∧ (t.hive h).tb.qual.holdover = true ∧
        (t.hive h).tb.qual.locked = false ∧ (t.dup h).claim = (s.dup h).claim ∧ (t.honey h).retired = (s.honey h).retired ∧
        ((s.hiveA.nvs = none ∧ s.hiveB.nvs = none) → (t.hive h).guard.log = (s.hive h).guard.log ∧ (t.honey h).log = (s.honey h).log)) ∧
      (∀ i, (t.cal i).table = (s.cal i).table ∧ (t.cal i).trim = (s.cal i).trim) ∧ t.chip.spineConst = s.chip.spineConst)) ∧
  (∀ (trips : List Nat) (s : State),
    (s.chip.started = false → s.tb.refclkBad = false → s.chip.held = false → s.chip.vlaneLow = false → s.chip.state ≠ .off → Runs (.startup trips) s fun t =>
      t.chip.started = true ∧ t.chip.railsLow = [] ∧ Marked t rstPage Reg.RST_EVENTS 1 ∧
      (∀ c h, c < 6 → ((t.comb c).bundle h).state = 2 ∧ ((t.comb c).bundle h).dataCr = 4096 ∧ ((t.comb c).bundle h).ctlCr = 64) ∧
      (s.hiveA.mram = [] → s.hiveB.mram = [] → s.chip.cause ≠ 3 → s.chip.cause ≠ 4 → (t.dup .a).claim = 2 ∧ (t.dup .b).claim = 1) ∧
      (s.hiveA.mram = [] → s.hiveB.mram = [] → s.chip.cause = 3 ∨ s.chip.cause = 4 → ∀ h, (t.dup h).claim = (s.dup h).claim)) ∧
    (s.chip.started = true ∨ s.tb.refclkBad = true ∨ s.chip.held = true ∨ s.chip.vlaneLow = true ∨ s.chip.state = .off → exec (.startup trips) s = .next s))

/-- Resets of a region (R511, R512, R519, R520): by RST_REGION, which only a comb or the standby hive may meet, by a brown-out of the domain, by an overload in low-power mode; its end, and the rejoin. The model's own choices in it: log entry 72. -/
def Obligations.RegionResets : Prop :=
  (∀ (p : Path) (v : W32) (s : State), Ready p 8 s →
    let c := fld v 3 0
    let o := otherHive (higherClaim s)
    Runs (.rstRegionGo p v) s fun t => t.tick = s.tick ∧
      (c < 6 → (s.domain c).inReset = false → (t.domain c).inReset = true ∧ (∀ i, i < 12 → t.block (12 * c + i) = {}) ∧ (∀ i, i < 192 → t.cell (192 * c + i) = {}) ∧
        (∀ i, i < 24 → (t.worker (24 * c + i)).state = .stopped) ∧ (∀ l, (t.lease c l).owner = none) ∧
        (∀ b i, t.reg (blkPage (12 * c + b)) Reg.CELL_CFG i = s.reg (blkPage (12 * c + b)) Reg.CELL_CFG i) ∧
        (∀ b, b / 12 ≠ c → t.block b = s.block b)) ∧
      (c = hiveRegion o → (s.domain (hiveDom o)).inReset = false → (t.domain (hiveDom o)).inReset = true ∧ t.cells = s.cells ∧ t.blocks = s.blocks ∧ t.fuOf o = s.fuOf (higherClaim s)) ∧
      (6 ≤ c → c ≠ hiveRegion o → Marked t rstPage Reg.ERR_STATUS 3 ∧ Served (onPage rstPage) s t)) ∧
  (∀ (d : Fin 8) (s : State),
    ((s.domain d.val).inReset = true → Runs (.regionReset d) s fun t => (t.domain d.val).inReset = false ∧ (t.domain d.val).state = .run ∧ Marked t rstPage Reg.RST_EVENTS 0 ∧
      (∀ c, d.val = c → c < 6 → ∀ h, ((t.comb c).bundle h).state = 1) ∧ t.tick = s.tick) ∧
    ((s.domain d.val).inReset = false → exec (.regionReset d) s = .next s)) ∧
  (∀ (c : Fin 6) (s : State),
    ((s.domain c.val).rejoin = true → Runs (.regionRejoin c) s fun t => (t.comb c.val).inReset = false ∧ (t.domain c.val).rejoin = false ∧ (t.comb c.val).rejoined = some s.frameNow ∧
      t.regs = s.regs ∧ t.tick = s.tick) ∧
    ((s.domain c.val).rejoin = false → exec (.regionRejoin c) s = .next s)) ∧
  (∀ (d : Fin 8) (s : State), s.chip.started = true → (s.domain d.val).inReset = false →
    let src := if d.val < 6 then 18 else 8
    (Runs (.domainBrownout d) s fun t => (t.domain d.val).inReset = true ∧ (t.domain d.val).brown = true ∧ Marked t pwrPage Reg.PWR_EVENTS 2 ∧
      t.reg (grdPage d.val) Reg.GRD_SRC_CNT src = 1 ∧ t.tick = s.tick) ∧
    ((s.domain d.val).lowPower = true → Runs (.lpOverload d) s fun t => (t.domain d.val).inReset = true ∧ Marked t pwrPage Reg.PWR_EVENTS 3 ∧ Marked t pwrPage Reg.PWR_EVENTS 2 ∧
      t.reg pwrPage Reg.PWR_LP_OVL_CNT = satInc (s.reg pwrPage Reg.PWR_LP_OVL_CNT) 1) ∧
    ((s.domain d.val).lowPower = false → exec (.lpOverload d) s = .next s))

/-! ### 17_housekeeping.md -/

/-- A housekeeping conversion (R529–R531, R534–R536, R539, R540): the input whose turn it is takes the sample, limited to its range, with its break and test flags; where an output falls due of an input 0–13 that is not settling and has no DC blocker, its value is the
weighted mean, corrected; a threshold passed is marked; the other inputs stand. A restart empties the filters, and a read of HK_RAW keeps the flags for the path. The model's own choices in it: log entries 40, 73. -/
def Obligations.HousekeepingInputs : Prop :=
  (∀ (comb : Fin 6) (raw : Int) (cm : Nat) (s : State),
    let c := comb.val
    let k := s.now.fdiv 1024000
    let i := (k % 16).toNat
    let x := s.hkIn c i
    let cfg := hkReg s c Reg.HK_CFG i
    let tdac := hkReg s c Reg.HK_TDAC
    let win := hkReg s c Reg.HK_CM_WIN
    let test := bit tdac 20 = true ∧ i < 8 ∧ fld tdac 18 16 = i
    let r : Int := if i = 15 ∨ test then ((fld tdac 9 0 : Int) - 512) * 4 else if i < 8 then max (-2048) (min 2047 raw) else max 0 (min 4095 raw)
    let brk := i < 8 ∧ (cm < 8 * fld win 7 0 ∨ 8 * fld win 15 8 < cm)
    let D := hkD (fld cfg 7 6)
    let W := hkW (fld cfg 7 6)
    let sum : Int := ((List.range (2 * D - 1)).map (fun j => ((min (j + 1) (2 * D - 1 - j) : Nat) : Int) * (lget (0, false, false) ((r, decide brk, decide test) :: x.hist) j).1)).sum
    let v : Int := satQ ((((2 ^ 16 * sum).fdiv (2 ^ W) - (hkReg s c Reg.HK_OFFSET i).toInt) * (hkReg s c Reg.HK_GAIN i).toInt).fdiv (2 ^ 24))
    hkRuns s c = true → (s.hk c).running = true → (s.hk c).lastConv ≠ some k → Runs (.hkConversion comb raw cm) s fun t =>
      (t.hk c).lastConv = some k ∧ (t.hk c).convs = (s.hk c).convs + 1 ∧ (t.hkIn c i).raw = r ∧ (t.hkIn c i).brk = decide brk ∧ (t.hkIn c i).test = decide test ∧
      (t.hkIn c i).n = x.n + 1 ∧ (t.hkIn c i).hist = ((r, decide brk, decide test) :: x.hist).take 2048 ∧
      (brk → x.brk = false → Marked t (hkPage c) Reg.HK_EVENTS (16 + i)) ∧
      (i < 14 → bit cfg 8 = false → bit cfg 10 = false → x.switchAt = none → (x.n + 1) % D = 0 →
        (t.hkIn c i).value = v ∧ (t.hkIn c i).seq = x.seq + 1 ∧
        (bit cfg 16 = true → x.hi = false → (hkReg s c Reg.HK_THR_HI i).toInt < v → (t.hkIn c i).hi = true ∧ Marked t (hkPage c) Reg.HK_EVENTS i) ∧
        (bit cfg 17 = true → x.lo = false → v < (hkReg s c Reg.HK_THR_LO i).toInt → (t.hkIn c i).lo = true ∧ Marked t (hkPage c) Reg.HK_EVENTS i)) ∧
      (i < 14 → bit cfg 8 = false → x.switchAt = none → (x.n + 1) % D ≠ 0 → (t.hkIn c i).value = x.value ∧ (t.hkIn c i).seq = x.seq) ∧
      (∀ j, j ≠ i → t.hkIn c j = s.hkIn c j) ∧ (∀ d, d ≠ c → t.hk d = s.hk d) ∧ Quiet (onPage (hkPage c)) { s with hks := t.hks } t) ∧
  (∀ (comb : Fin 6) (s : State),
    (hkRuns s comb.val = true → (s.hk comb.val).running = false → Runs (.hkRestart comb) s fun t => (t.hk comb.val).running = true ∧
      (∀ i, i < 16 → (t.hkIn comb.val i).hist = [] ∧ (t.hkIn comb.val i).n = 0) ∧ (∀ d, d ≠ comb.val → t.hk d = s.hk d) ∧ t = { s with hks := t.hks }) ∧
    (hkRuns s comb.val = false → exec (.hkRestart comb) s = .next s)) ∧
  (∀ (p : Path) (comb : Fin 6) (s : State), ReadyRead p comb.val s →
    let i := fld (s.sel p (hkPage comb.val) Reg.HK_SEL) 3 0
    Runs (.hkRawRead p comb) s fun t =>
      (bit (hkReg s comb.val Reg.HK_CTL) 1 = false → Answered t p 0 (w32i (s.hkIn comb.val i).raw)) ∧
      (bit (hkReg s comb.val Reg.HK_CTL) 1 = true → Answered t p 0 (w32i (s.hkIn comb.val i).raw <<< 20)) ∧
      bit (t.sel p (hkPage comb.val) Reg.HK_IN_STATUS) 0 = (s.hkIn comb.val i).brk ∧ bit (t.sel p (hkPage comb.val) Reg.HK_IN_STATUS) 1 = (s.hkIn comb.val i).test ∧
      t.regs = s.regs ∧ t.hks = s.hks ∧ t.cells = s.cells)

/-! ### The block as a whole -/

namespace Sys2Proof.Claims
open Sys2Proof.Machine

/-- Every memory of the block is in its canonical form, and every waiting command is well formed. -/
def Kept (s : State) : Prop :=
  (∀ c ∈ s.pending, c.wf = true) ∧ (∀ h, (s.hive h).mram.wf = true ∧ (s.honey h).bytes.wf = true) ∧
  ∀ w, (s.worker w).imem.wf = true ∧ (s.worker w).dmem.wf = true

end Sys2Proof.Claims

/-- One step runs the command at the front of the queue, with the rest of the queue left to wait, and always answers a next state; with nothing waiting the block idles (the model's choice, log entry 9). No word of the table spells a command. -/
def Obligations.StepRunsFront : Prop :=
  (∀ (c : Instr) (s : State), step { s with pending := c :: s.pending } = exec c s) ∧
  (∀ (c : Instr) (s : State), Runs c s fun t => t.pending = s.pending) ∧
  (∀ s : State, s.pending = [] → step s = .next s) ∧
  (∀ (s : State) (n w : Nat), decodeTableWord n w = none ∧ s.withFetchWord n w = s)

/-- Every step keeps every memory of the block in its canonical form (the honey stores, the non-volatile stores and the local memories of the workers) and every waiting command well formed. The model's own choices in it: log entry 4. -/
def Obligations.EveryStepKeepsMemories : Prop := ∀ s t : State, Kept s → step s = .next t → Kept t

/-- The machine right after a power-on reset: what every step keeps holds; no time, no claim but the reset's (14_redundancy_faults.md R438), no link, nothing stored, and every register at its reset value. The model's own choices in it: log entry 3. -/
def Obligations.ResetLeaves : Prop :=
  let s := State.reset
  Kept s ∧ s.pending = [] ∧ s.chip.started = false ∧ (s.dup .a).claim = 2 ∧ (s.dup .b).claim = 1 ∧ higherClaim s = .a ∧ s.tick = 0 ∧
  (∀ h, s.fuOf h = 0 ∧ (s.hive h).tb.qual.unsync = true ∧ (s.hive h).tb.qual.locked = false ∧ (s.honey h).bytes = [] ∧ (s.honey h).retired = [] ∧ (s.hive h).guard.log = []) ∧
  (∀ l, (s.lane l).state = .down) ∧ (∀ w, (s.worker w).state = .stopped) ∧ (∀ d, (s.domain d).state = .run) ∧
  (∀ pg off i, s.reg pg off i = regReset (rkey pg off i))
end

