-- ==== Sys2Proof/Laws/Tables.lean ====
section
/-! SUPPORT. The sparse tables and byte memories: a read after a write, and the canonical form every write keeps. -/

namespace Sys2Proof.Machine

theorem tfind_tput {α : Type} (t : Tab α) (q k : Nat) (v : α) : tfind (tput t q v) k = if k = q then some v else tfind t k := by
  induction t with
  | nil => simp only [tput, tfind, eq_comm]
  | cons e t ih =>
    obtain ⟨a, b⟩ := e
    simp only [tput]
    split
    · simp only [tfind, eq_comm]
    · split
      · rename_i _ h; subst h; simp only [tfind, eq_comm]; split <;> simp_all
      · rename_i _ h; simp only [tfind, ih]
        split
        · rename_i h'; rw [if_neg (by omega)]
        · rfl

theorem tfind_terase {α : Type} (t : Tab α) (q k : Nat) : tfind (terase t q) k = if k = q then none else tfind t k := by
  induction t with
  | nil => simp [terase, tfind]
  | cons e t ih =>
    obtain ⟨a, b⟩ := e
    simp only [terase, List.filter_cons] at ih ⊢
    by_cases h : a = q
    · subst h; simp only [bne_self_eq_false, Bool.false_eq_true, if_false, ih, tfind]; split_ifs <;> simp_all
    · simp only [bne_iff_ne, ne_eq, h, not_false_eq_true, if_true, tfind, ih]; split_ifs <;> simp_all

/-- What a table lists after a set. -/
theorem tfind_tset {α : Type} [DecidableEq α] (d : α) (t : Tab α) (q k : Nat) (v : α) :
    tfind (tset d t q v) k = if k = q then (if v = d then none else some v) else tfind t k := by
  unfold tset; split_ifs <;> simp_all [tfind_tput, tfind_terase]

/-- A read after a write: the value written at its key, what was there elsewhere. -/
@[simp] theorem tget_tset {α : Type} [DecidableEq α] (d : α) (t : Tab α) (q k : Nat) (v : α) :
    tget d (tset d t q v) k = if k = q then v else tget d t k := by
  simp only [tget, tfind_tset]; split_ifs <;> simp_all

@[simp] theorem tget_tput {α : Type} (d : α) (t : Tab α) (q k : Nat) (v : α) : tget d (tput t q v) k = if k = q then v else tget d t k := by
  simp only [tget, tfind_tput]; split_ifs <;> simp_all

@[simp] theorem tget_terase {α : Type} (d : α) (t : Tab α) (q k : Nat) : tget d (terase t q) k = if k = q then d else tget d t k := by
  simp only [tget, tfind_terase]; split_ifs <;> simp_all

/-! ### The canonical form -/

theorem Tab.wf_iff {α : Type} [DecidableEq α] (d : α) (t : Tab α) :
    Tab.wf d t = true ↔ t.Pairwise (fun a b => a.1 < b.1) ∧ ∀ e ∈ t, e.2 ≠ d := by
  simp [Tab.wf]

/-- The keys of a table with an entry put. -/
theorem mem_tput {α : Type} (t : Tab α) (q : Nat) (v : α) (e : Nat × α) (h : e ∈ tput t q v) : e = (q, v) ∨ e ∈ t := by
  induction t with
  | nil => simp_all [tput]
  | cons x t ih =>
    obtain ⟨a, b⟩ := x
    simp only [tput] at h
    split_ifs at h <;> simp only [List.mem_cons] at h ⊢ <;> tauto

theorem pairwise_tput {α : Type} (t : Tab α) (q : Nat) (v : α) (h : t.Pairwise (fun a b => a.1 < b.1)) :
    (tput t q v).Pairwise (fun a b => a.1 < b.1) := by
  induction t with
  | nil => simp [tput]
  | cons x t ih =>
    obtain ⟨a, b⟩ := x
    rw [List.pairwise_cons] at h
    simp only [tput]
    have low : q < a → ∀ e ∈ t, q < e.1 := fun hq e he => hq.trans (h.1 e he)
    have mid : ¬ q < a → q ≠ a → ∀ e ∈ tput t q v, a < e.1 := by
      intro h1 h2 e he
      obtain rfl | he := mem_tput t q v e he
      · show a < q; omega
      · exact h.1 e he
    split_ifs with h1 h2
    · exact List.pairwise_cons.2 ⟨List.forall_mem_cons.2 ⟨h1, low h1⟩, List.pairwise_cons.2 h⟩
    · subst h2; exact List.pairwise_cons.2 h
    · exact List.pairwise_cons.2 ⟨mid h1 h2, ih h.2⟩

/-- A set keeps the canonical form. -/
theorem tset_wf {α : Type} [DecidableEq α] (d : α) (t : Tab α) (q : Nat) (v : α) (h : Tab.wf d t = true) :
    Tab.wf d (tset d t q v) = true := by
  rw [Tab.wf_iff] at h ⊢
  unfold tset
  split_ifs with hv
  · exact ⟨h.1.filter _, fun e he => h.2 e (List.mem_filter.1 he).1⟩
  · refine ⟨pairwise_tput t q v h.1, fun e he => ?_⟩
    rcases mem_tput t q v e he with rfl | he
    · exact hv
    · exact h.2 e he

/-- A kept part of a canonical table is canonical. -/
theorem filter_wf {α : Type} [DecidableEq α] (d : α) (t : Tab α) (p : Nat × α → Bool) (h : Tab.wf d t = true) :
    Tab.wf d (t.filter p) = true := by
  rw [Tab.wf_iff] at h ⊢
  exact ⟨h.1.filter _, fun e he => h.2 e (List.mem_filter.1 he).1⟩

/-! ### Byte memories -/

/-- A byte read after a byte written. -/
@[simp] theorem Memory.get_set (m : Memory) (a b : Nat) (v : BitVec 8) : (m.set a v).get b = if b = a then v else m.get b :=
  tget_tset _ _ _ _ _

/-- A byte written keeps the canonical form. -/
theorem Memory.set_wf (m : Memory) (a : Nat) (v : BitVec 8) (h : m.wf = true) : (m.set a v).wf = true := tset_wf _ _ _ _ h

/-- Bytes written keep the canonical form. -/
theorem Memory.setN_wf (m : Memory) (a n x : Nat) (h : m.wf = true) : (m.setN a n x).wf = true := by
  induction n generalizing m a x with
  | zero => exact h
  | succ n ih => exact ih _ _ _ (Memory.set_wf _ _ _ h)

/-- A write of `n` bytes leaves every byte outside them. -/
theorem Memory.get_setN_out (m : Memory) (a n x b : Nat) (h : b < a ∨ a + n ≤ b) : (m.setN a n x).get b = m.get b := by
  induction n generalizing m a x with
  | zero => rfl
  | succ n ih =>
    rw [Memory.setN, ih _ _ _ (by omega), Memory.get_set, if_neg (by omega)]

/-- The number written is the number read. -/
theorem Memory.getN_setN (m : Memory) (a n x : Nat) : (m.setN a n x).getN a n = x % 256 ^ n := by
  induction n generalizing m a x with
  | zero => simp [Memory.getN, Nat.mod_one]
  | succ n ih =>
    rw [Memory.setN, Memory.getN, ih, Memory.get_setN_out _ _ _ _ _ (by omega), Memory.get_set, if_pos rfl,
      BitVec.toNat_ofNat, pow_succ' 256 n]
    exact (Nat.mod_mul (a := 256) (b := 256 ^ n)).symm

end Sys2Proof.Machine
end

