-- ==== Sys2Proof/Laws/State.lean ====
section
/-! SUPPORT. One lemma per field and update of State: what an update leaves alone, true by unfolding, and what it sets. -/

namespace Sys2Proof.Machine

section
variable (s : State) (c : Nat) (x : Cell)

@[simp] theorem State.setCell_pending : (s.setCell c x).pending = s.pending := rfl
@[simp] theorem State.setCell_tick : (s.setCell c x).tick = s.tick := rfl
@[simp] theorem State.setCell_freeCtr : (s.setCell c x).freeCtr = s.freeCtr := rfl
@[simp] theorem State.setCell_regs : (s.setCell c x).regs = s.regs := rfl
@[simp] theorem State.setCell_staged : (s.setCell c x).staged = s.staged := rfl
@[simp] theorem State.setCell_upsets : (s.setCell c x).upsets = s.upsets := rfl
@[simp] theorem State.setCell_sels : (s.setCell c x).sels = s.sels := rfl
@[simp] theorem State.setCell_paths : (s.setCell c x).paths = s.paths := rfl
@[simp] theorem State.setCell_stalls : (s.setCell c x).stalls = s.stalls := rfl
@[simp] theorem State.setCell_hiveA : (s.setCell c x).hiveA = s.hiveA := rfl
@[simp] theorem State.setCell_hiveB : (s.setCell c x).hiveB = s.hiveB := rfl
@[simp] theorem State.setCell_cals : (s.setCell c x).cals = s.cals := rfl
@[simp] theorem State.setCell_blocks : (s.setCell c x).blocks = s.blocks := rfl
@[simp] theorem State.setCell_combs : (s.setCell c x).combs = s.combs := rfl
@[simp] theorem State.setCell_lanes : (s.setCell c x).lanes = s.lanes := rfl
@[simp] theorem State.setCell_workers : (s.setCell c x).workers = s.workers := rfl
@[simp] theorem State.setCell_regions : (s.setCell c x).regions = s.regions := rfl
@[simp] theorem State.setCell_domains : (s.setCell c x).domains = s.domains := rfl
@[simp] theorem State.setCell_hks : (s.setCell c x).hks = s.hks := rfl
@[simp] theorem State.setCell_chip : (s.setCell c x).chip = s.chip := rfl
@[simp] theorem State.setCell_cell (k : Nat) : (s.setCell c x).cell k = if k = c then x else s.cell k := tget_tset _ _ _ _ _
@[simp] theorem State.setCell_cal (k : Nat) : (s.setCell c x).cal k = s.cal k := rfl
@[simp] theorem State.setCell_block (k : Nat) : (s.setCell c x).block k = s.block k := rfl
@[simp] theorem State.setCell_comb (k : Nat) : (s.setCell c x).comb k = s.comb k := rfl
@[simp] theorem State.setCell_lane (k : Nat) : (s.setCell c x).lane k = s.lane k := rfl
@[simp] theorem State.setCell_worker (k : Nat) : (s.setCell c x).worker k = s.worker k := rfl
@[simp] theorem State.setCell_region (k : Nat) : (s.setCell c x).region k = s.region k := rfl
@[simp] theorem State.setCell_domain (k : Nat) : (s.setCell c x).domain k = s.domain k := rfl
@[simp] theorem State.setCell_hk (k : Nat) : (s.setCell c x).hk k = s.hk k := rfl
@[simp] theorem State.setCell_reg (pg' off' i' : Nat) : (s.setCell c x).reg pg' off' i' = s.reg pg' off' i' := rfl
@[simp] theorem State.setCell_hive (k : HiveId) : (s.setCell c x).hive k = s.hive k := rfl

end

section
variable (s : State) (i : Nat) (x : ItpCal)

@[simp] theorem State.setCal_pending : (s.setCal i x).pending = s.pending := rfl
@[simp] theorem State.setCal_tick : (s.setCal i x).tick = s.tick := rfl
@[simp] theorem State.setCal_freeCtr : (s.setCal i x).freeCtr = s.freeCtr := rfl
@[simp] theorem State.setCal_regs : (s.setCal i x).regs = s.regs := rfl
@[simp] theorem State.setCal_staged : (s.setCal i x).staged = s.staged := rfl
@[simp] theorem State.setCal_upsets : (s.setCal i x).upsets = s.upsets := rfl
@[simp] theorem State.setCal_sels : (s.setCal i x).sels = s.sels := rfl
@[simp] theorem State.setCal_paths : (s.setCal i x).paths = s.paths := rfl
@[simp] theorem State.setCal_stalls : (s.setCal i x).stalls = s.stalls := rfl
@[simp] theorem State.setCal_hiveA : (s.setCal i x).hiveA = s.hiveA := rfl
@[simp] theorem State.setCal_hiveB : (s.setCal i x).hiveB = s.hiveB := rfl
@[simp] theorem State.setCal_cells : (s.setCal i x).cells = s.cells := rfl
@[simp] theorem State.setCal_blocks : (s.setCal i x).blocks = s.blocks := rfl
@[simp] theorem State.setCal_combs : (s.setCal i x).combs = s.combs := rfl
@[simp] theorem State.setCal_lanes : (s.setCal i x).lanes = s.lanes := rfl
@[simp] theorem State.setCal_workers : (s.setCal i x).workers = s.workers := rfl
@[simp] theorem State.setCal_regions : (s.setCal i x).regions = s.regions := rfl
@[simp] theorem State.setCal_domains : (s.setCal i x).domains = s.domains := rfl
@[simp] theorem State.setCal_hks : (s.setCal i x).hks = s.hks := rfl
@[simp] theorem State.setCal_chip : (s.setCal i x).chip = s.chip := rfl
@[simp] theorem State.setCal_cal (k : Nat) : (s.setCal i x).cal k = if k = i then x else s.cal k := tget_tset _ _ _ _ _
@[simp] theorem State.setCal_cell (k : Nat) : (s.setCal i x).cell k = s.cell k := rfl
@[simp] theorem State.setCal_block (k : Nat) : (s.setCal i x).block k = s.block k := rfl
@[simp] theorem State.setCal_comb (k : Nat) : (s.setCal i x).comb k = s.comb k := rfl
@[simp] theorem State.setCal_lane (k : Nat) : (s.setCal i x).lane k = s.lane k := rfl
@[simp] theorem State.setCal_worker (k : Nat) : (s.setCal i x).worker k = s.worker k := rfl
@[simp] theorem State.setCal_region (k : Nat) : (s.setCal i x).region k = s.region k := rfl
@[simp] theorem State.setCal_domain (k : Nat) : (s.setCal i x).domain k = s.domain k := rfl
@[simp] theorem State.setCal_hk (k : Nat) : (s.setCal i x).hk k = s.hk k := rfl
@[simp] theorem State.setCal_reg (pg' off' i' : Nat) : (s.setCal i x).reg pg' off' i' = s.reg pg' off' i' := rfl
@[simp] theorem State.setCal_hive (k : HiveId) : (s.setCal i x).hive k = s.hive k := rfl

end

section
variable (s : State) (b : Nat) (x : Block)

@[simp] theorem State.setBlock_pending : (s.setBlock b x).pending = s.pending := rfl
@[simp] theorem State.setBlock_tick : (s.setBlock b x).tick = s.tick := rfl
@[simp] theorem State.setBlock_freeCtr : (s.setBlock b x).freeCtr = s.freeCtr := rfl
@[simp] theorem State.setBlock_regs : (s.setBlock b x).regs = s.regs := rfl
@[simp] theorem State.setBlock_staged : (s.setBlock b x).staged = s.staged := rfl
@[simp] theorem State.setBlock_upsets : (s.setBlock b x).upsets = s.upsets := rfl
@[simp] theorem State.setBlock_sels : (s.setBlock b x).sels = s.sels := rfl
@[simp] theorem State.setBlock_paths : (s.setBlock b x).paths = s.paths := rfl
@[simp] theorem State.setBlock_stalls : (s.setBlock b x).stalls = s.stalls := rfl
@[simp] theorem State.setBlock_hiveA : (s.setBlock b x).hiveA = s.hiveA := rfl
@[simp] theorem State.setBlock_hiveB : (s.setBlock b x).hiveB = s.hiveB := rfl
@[simp] theorem State.setBlock_cells : (s.setBlock b x).cells = s.cells := rfl
@[simp] theorem State.setBlock_cals : (s.setBlock b x).cals = s.cals := rfl
@[simp] theorem State.setBlock_combs : (s.setBlock b x).combs = s.combs := rfl
@[simp] theorem State.setBlock_lanes : (s.setBlock b x).lanes = s.lanes := rfl
@[simp] theorem State.setBlock_workers : (s.setBlock b x).workers = s.workers := rfl
@[simp] theorem State.setBlock_regions : (s.setBlock b x).regions = s.regions := rfl
@[simp] theorem State.setBlock_domains : (s.setBlock b x).domains = s.domains := rfl
@[simp] theorem State.setBlock_hks : (s.setBlock b x).hks = s.hks := rfl
@[simp] theorem State.setBlock_chip : (s.setBlock b x).chip = s.chip := rfl
@[simp] theorem State.setBlock_block (k : Nat) : (s.setBlock b x).block k = if k = b then x else s.block k := tget_tset _ _ _ _ _
@[simp] theorem State.setBlock_cell (k : Nat) : (s.setBlock b x).cell k = s.cell k := rfl
@[simp] theorem State.setBlock_cal (k : Nat) : (s.setBlock b x).cal k = s.cal k := rfl
@[simp] theorem State.setBlock_comb (k : Nat) : (s.setBlock b x).comb k = s.comb k := rfl
@[simp] theorem State.setBlock_lane (k : Nat) : (s.setBlock b x).lane k = s.lane k := rfl
@[simp] theorem State.setBlock_worker (k : Nat) : (s.setBlock b x).worker k = s.worker k := rfl
@[simp] theorem State.setBlock_region (k : Nat) : (s.setBlock b x).region k = s.region k := rfl
@[simp] theorem State.setBlock_domain (k : Nat) : (s.setBlock b x).domain k = s.domain k := rfl
@[simp] theorem State.setBlock_hk (k : Nat) : (s.setBlock b x).hk k = s.hk k := rfl
@[simp] theorem State.setBlock_reg (pg' off' i' : Nat) : (s.setBlock b x).reg pg' off' i' = s.reg pg' off' i' := rfl
@[simp] theorem State.setBlock_hive (k : HiveId) : (s.setBlock b x).hive k = s.hive k := rfl

end

section
variable (s : State) (c : Nat) (x : Comb)

@[simp] theorem State.setComb_pending : (s.setComb c x).pending = s.pending := rfl
@[simp] theorem State.setComb_tick : (s.setComb c x).tick = s.tick := rfl
@[simp] theorem State.setComb_freeCtr : (s.setComb c x).freeCtr = s.freeCtr := rfl
@[simp] theorem State.setComb_regs : (s.setComb c x).regs = s.regs := rfl
@[simp] theorem State.setComb_staged : (s.setComb c x).staged = s.staged := rfl
@[simp] theorem State.setComb_upsets : (s.setComb c x).upsets = s.upsets := rfl
@[simp] theorem State.setComb_sels : (s.setComb c x).sels = s.sels := rfl
@[simp] theorem State.setComb_paths : (s.setComb c x).paths = s.paths := rfl
@[simp] theorem State.setComb_stalls : (s.setComb c x).stalls = s.stalls := rfl
@[simp] theorem State.setComb_hiveA : (s.setComb c x).hiveA = s.hiveA := rfl
@[simp] theorem State.setComb_hiveB : (s.setComb c x).hiveB = s.hiveB := rfl
@[simp] theorem State.setComb_cells : (s.setComb c x).cells = s.cells := rfl
@[simp] theorem State.setComb_cals : (s.setComb c x).cals = s.cals := rfl
@[simp] theorem State.setComb_blocks : (s.setComb c x).blocks = s.blocks := rfl
@[simp] theorem State.setComb_lanes : (s.setComb c x).lanes = s.lanes := rfl
@[simp] theorem State.setComb_workers : (s.setComb c x).workers = s.workers := rfl
@[simp] theorem State.setComb_regions : (s.setComb c x).regions = s.regions := rfl
@[simp] theorem State.setComb_domains : (s.setComb c x).domains = s.domains := rfl
@[simp] theorem State.setComb_hks : (s.setComb c x).hks = s.hks := rfl
@[simp] theorem State.setComb_chip : (s.setComb c x).chip = s.chip := rfl
@[simp] theorem State.setComb_comb (k : Nat) : (s.setComb c x).comb k = if k = c then x else s.comb k := tget_tset _ _ _ _ _
@[simp] theorem State.setComb_cell (k : Nat) : (s.setComb c x).cell k = s.cell k := rfl
@[simp] theorem State.setComb_cal (k : Nat) : (s.setComb c x).cal k = s.cal k := rfl
@[simp] theorem State.setComb_block (k : Nat) : (s.setComb c x).block k = s.block k := rfl
@[simp] theorem State.setComb_lane (k : Nat) : (s.setComb c x).lane k = s.lane k := rfl
@[simp] theorem State.setComb_worker (k : Nat) : (s.setComb c x).worker k = s.worker k := rfl
@[simp] theorem State.setComb_region (k : Nat) : (s.setComb c x).region k = s.region k := rfl
@[simp] theorem State.setComb_domain (k : Nat) : (s.setComb c x).domain k = s.domain k := rfl
@[simp] theorem State.setComb_hk (k : Nat) : (s.setComb c x).hk k = s.hk k := rfl
@[simp] theorem State.setComb_reg (pg' off' i' : Nat) : (s.setComb c x).reg pg' off' i' = s.reg pg' off' i' := rfl
@[simp] theorem State.setComb_hive (k : HiveId) : (s.setComb c x).hive k = s.hive k := rfl

end

section
variable (s : State) (l : Nat) (x : Lane)

@[simp] theorem State.setLane_pending : (s.setLane l x).pending = s.pending := rfl
@[simp] theorem State.setLane_tick : (s.setLane l x).tick = s.tick := rfl
@[simp] theorem State.setLane_freeCtr : (s.setLane l x).freeCtr = s.freeCtr := rfl
@[simp] theorem State.setLane_regs : (s.setLane l x).regs = s.regs := rfl
@[simp] theorem State.setLane_staged : (s.setLane l x).staged = s.staged := rfl
@[simp] theorem State.setLane_upsets : (s.setLane l x).upsets = s.upsets := rfl
@[simp] theorem State.setLane_sels : (s.setLane l x).sels = s.sels := rfl
@[simp] theorem State.setLane_paths : (s.setLane l x).paths = s.paths := rfl
@[simp] theorem State.setLane_stalls : (s.setLane l x).stalls = s.stalls := rfl
@[simp] theorem State.setLane_hiveA : (s.setLane l x).hiveA = s.hiveA := rfl
@[simp] theorem State.setLane_hiveB : (s.setLane l x).hiveB = s.hiveB := rfl
@[simp] theorem State.setLane_cells : (s.setLane l x).cells = s.cells := rfl
@[simp] theorem State.setLane_cals : (s.setLane l x).cals = s.cals := rfl
@[simp] theorem State.setLane_blocks : (s.setLane l x).blocks = s.blocks := rfl
@[simp] theorem State.setLane_combs : (s.setLane l x).combs = s.combs := rfl
@[simp] theorem State.setLane_workers : (s.setLane l x).workers = s.workers := rfl
@[simp] theorem State.setLane_regions : (s.setLane l x).regions = s.regions := rfl
@[simp] theorem State.setLane_domains : (s.setLane l x).domains = s.domains := rfl
@[simp] theorem State.setLane_hks : (s.setLane l x).hks = s.hks := rfl
@[simp] theorem State.setLane_chip : (s.setLane l x).chip = s.chip := rfl
@[simp] theorem State.setLane_lane (k : Nat) : (s.setLane l x).lane k = if k = l then x else s.lane k := tget_tset _ _ _ _ _
@[simp] theorem State.setLane_cell (k : Nat) : (s.setLane l x).cell k = s.cell k := rfl
@[simp] theorem State.setLane_cal (k : Nat) : (s.setLane l x).cal k = s.cal k := rfl
@[simp] theorem State.setLane_block (k : Nat) : (s.setLane l x).block k = s.block k := rfl
@[simp] theorem State.setLane_comb (k : Nat) : (s.setLane l x).comb k = s.comb k := rfl
@[simp] theorem State.setLane_worker (k : Nat) : (s.setLane l x).worker k = s.worker k := rfl
@[simp] theorem State.setLane_region (k : Nat) : (s.setLane l x).region k = s.region k := rfl
@[simp] theorem State.setLane_domain (k : Nat) : (s.setLane l x).domain k = s.domain k := rfl
@[simp] theorem State.setLane_hk (k : Nat) : (s.setLane l x).hk k = s.hk k := rfl
@[simp] theorem State.setLane_reg (pg' off' i' : Nat) : (s.setLane l x).reg pg' off' i' = s.reg pg' off' i' := rfl
@[simp] theorem State.setLane_hive (k : HiveId) : (s.setLane l x).hive k = s.hive k := rfl

end

section
variable (s : State) (w : Nat) (x : Worker)

@[simp] theorem State.setWorker_pending : (s.setWorker w x).pending = s.pending := rfl
@[simp] theorem State.setWorker_tick : (s.setWorker w x).tick = s.tick := rfl
@[simp] theorem State.setWorker_freeCtr : (s.setWorker w x).freeCtr = s.freeCtr := rfl
@[simp] theorem State.setWorker_regs : (s.setWorker w x).regs = s.regs := rfl
@[simp] theorem State.setWorker_staged : (s.setWorker w x).staged = s.staged := rfl
@[simp] theorem State.setWorker_upsets : (s.setWorker w x).upsets = s.upsets := rfl
@[simp] theorem State.setWorker_sels : (s.setWorker w x).sels = s.sels := rfl
@[simp] theorem State.setWorker_paths : (s.setWorker w x).paths = s.paths := rfl
@[simp] theorem State.setWorker_stalls : (s.setWorker w x).stalls = s.stalls := rfl
@[simp] theorem State.setWorker_hiveA : (s.setWorker w x).hiveA = s.hiveA := rfl
@[simp] theorem State.setWorker_hiveB : (s.setWorker w x).hiveB = s.hiveB := rfl
@[simp] theorem State.setWorker_cells : (s.setWorker w x).cells = s.cells := rfl
@[simp] theorem State.setWorker_cals : (s.setWorker w x).cals = s.cals := rfl
@[simp] theorem State.setWorker_blocks : (s.setWorker w x).blocks = s.blocks := rfl
@[simp] theorem State.setWorker_combs : (s.setWorker w x).combs = s.combs := rfl
@[simp] theorem State.setWorker_lanes : (s.setWorker w x).lanes = s.lanes := rfl
@[simp] theorem State.setWorker_regions : (s.setWorker w x).regions = s.regions := rfl
@[simp] theorem State.setWorker_domains : (s.setWorker w x).domains = s.domains := rfl
@[simp] theorem State.setWorker_hks : (s.setWorker w x).hks = s.hks := rfl
@[simp] theorem State.setWorker_chip : (s.setWorker w x).chip = s.chip := rfl
@[simp] theorem State.setWorker_worker (k : Nat) : (s.setWorker w x).worker k = if k = w then x else s.worker k := tget_tset _ _ _ _ _
@[simp] theorem State.setWorker_cell (k : Nat) : (s.setWorker w x).cell k = s.cell k := rfl
@[simp] theorem State.setWorker_cal (k : Nat) : (s.setWorker w x).cal k = s.cal k := rfl
@[simp] theorem State.setWorker_block (k : Nat) : (s.setWorker w x).block k = s.block k := rfl
@[simp] theorem State.setWorker_comb (k : Nat) : (s.setWorker w x).comb k = s.comb k := rfl
@[simp] theorem State.setWorker_lane (k : Nat) : (s.setWorker w x).lane k = s.lane k := rfl
@[simp] theorem State.setWorker_region (k : Nat) : (s.setWorker w x).region k = s.region k := rfl
@[simp] theorem State.setWorker_domain (k : Nat) : (s.setWorker w x).domain k = s.domain k := rfl
@[simp] theorem State.setWorker_hk (k : Nat) : (s.setWorker w x).hk k = s.hk k := rfl
@[simp] theorem State.setWorker_reg (pg' off' i' : Nat) : (s.setWorker w x).reg pg' off' i' = s.reg pg' off' i' := rfl
@[simp] theorem State.setWorker_hive (k : HiveId) : (s.setWorker w x).hive k = s.hive k := rfl

end

section
variable (s : State) (g : Nat) (x : Region)

@[simp] theorem State.setRegion_pending : (s.setRegion g x).pending = s.pending := rfl
@[simp] theorem State.setRegion_tick : (s.setRegion g x).tick = s.tick := rfl
@[simp] theorem State.setRegion_freeCtr : (s.setRegion g x).freeCtr = s.freeCtr := rfl
@[simp] theorem State.setRegion_regs : (s.setRegion g x).regs = s.regs := rfl
@[simp] theorem State.setRegion_staged : (s.setRegion g x).staged = s.staged := rfl
@[simp] theorem State.setRegion_upsets : (s.setRegion g x).upsets = s.upsets := rfl
@[simp] theorem State.setRegion_sels : (s.setRegion g x).sels = s.sels := rfl
@[simp] theorem State.setRegion_paths : (s.setRegion g x).paths = s.paths := rfl
@[simp] theorem State.setRegion_stalls : (s.setRegion g x).stalls = s.stalls := rfl
@[simp] theorem State.setRegion_hiveA : (s.setRegion g x).hiveA = s.hiveA := rfl
@[simp] theorem State.setRegion_hiveB : (s.setRegion g x).hiveB = s.hiveB := rfl
@[simp] theorem State.setRegion_cells : (s.setRegion g x).cells = s.cells := rfl
@[simp] theorem State.setRegion_cals : (s.setRegion g x).cals = s.cals := rfl
@[simp] theorem State.setRegion_blocks : (s.setRegion g x).blocks = s.blocks := rfl
@[simp] theorem State.setRegion_combs : (s.setRegion g x).combs = s.combs := rfl
@[simp] theorem State.setRegion_lanes : (s.setRegion g x).lanes = s.lanes := rfl
@[simp] theorem State.setRegion_workers : (s.setRegion g x).workers = s.workers := rfl
@[simp] theorem State.setRegion_domains : (s.setRegion g x).domains = s.domains := rfl
@[simp] theorem State.setRegion_hks : (s.setRegion g x).hks = s.hks := rfl
@[simp] theorem State.setRegion_chip : (s.setRegion g x).chip = s.chip := rfl
@[simp] theorem State.setRegion_region (k : Nat) : (s.setRegion g x).region k = if k = g then x else s.region k := tget_tset _ _ _ _ _
@[simp] theorem State.setRegion_cell (k : Nat) : (s.setRegion g x).cell k = s.cell k := rfl
@[simp] theorem State.setRegion_cal (k : Nat) : (s.setRegion g x).cal k = s.cal k := rfl
@[simp] theorem State.setRegion_block (k : Nat) : (s.setRegion g x).block k = s.block k := rfl
@[simp] theorem State.setRegion_comb (k : Nat) : (s.setRegion g x).comb k = s.comb k := rfl
@[simp] theorem State.setRegion_lane (k : Nat) : (s.setRegion g x).lane k = s.lane k := rfl
@[simp] theorem State.setRegion_worker (k : Nat) : (s.setRegion g x).worker k = s.worker k := rfl
@[simp] theorem State.setRegion_domain (k : Nat) : (s.setRegion g x).domain k = s.domain k := rfl
@[simp] theorem State.setRegion_hk (k : Nat) : (s.setRegion g x).hk k = s.hk k := rfl
@[simp] theorem State.setRegion_reg (pg' off' i' : Nat) : (s.setRegion g x).reg pg' off' i' = s.reg pg' off' i' := rfl
@[simp] theorem State.setRegion_hive (k : HiveId) : (s.setRegion g x).hive k = s.hive k := rfl

end

section
variable (s : State) (d : Nat) (x : Domain)

@[simp] theorem State.setDomain_pending : (s.setDomain d x).pending = s.pending := rfl
@[simp] theorem State.setDomain_tick : (s.setDomain d x).tick = s.tick := rfl
@[simp] theorem State.setDomain_freeCtr : (s.setDomain d x).freeCtr = s.freeCtr := rfl
@[simp] theorem State.setDomain_regs : (s.setDomain d x).regs = s.regs := rfl
@[simp] theorem State.setDomain_staged : (s.setDomain d x).staged = s.staged := rfl
@[simp] theorem State.setDomain_upsets : (s.setDomain d x).upsets = s.upsets := rfl
@[simp] theorem State.setDomain_sels : (s.setDomain d x).sels = s.sels := rfl
@[simp] theorem State.setDomain_paths : (s.setDomain d x).paths = s.paths := rfl
@[simp] theorem State.setDomain_stalls : (s.setDomain d x).stalls = s.stalls := rfl
@[simp] theorem State.setDomain_hiveA : (s.setDomain d x).hiveA = s.hiveA := rfl
@[simp] theorem State.setDomain_hiveB : (s.setDomain d x).hiveB = s.hiveB := rfl
@[simp] theorem State.setDomain_cells : (s.setDomain d x).cells = s.cells := rfl
@[simp] theorem State.setDomain_cals : (s.setDomain d x).cals = s.cals := rfl
@[simp] theorem State.setDomain_blocks : (s.setDomain d x).blocks = s.blocks := rfl
@[simp] theorem State.setDomain_combs : (s.setDomain d x).combs = s.combs := rfl
@[simp] theorem State.setDomain_lanes : (s.setDomain d x).lanes = s.lanes := rfl
@[simp] theorem State.setDomain_workers : (s.setDomain d x).workers = s.workers := rfl
@[simp] theorem State.setDomain_regions : (s.setDomain d x).regions = s.regions := rfl
@[simp] theorem State.setDomain_hks : (s.setDomain d x).hks = s.hks := rfl
@[simp] theorem State.setDomain_chip : (s.setDomain d x).chip = s.chip := rfl
@[simp] theorem State.setDomain_domain (k : Nat) : (s.setDomain d x).domain k = if k = d then x else s.domain k := tget_tset _ _ _ _ _
@[simp] theorem State.setDomain_cell (k : Nat) : (s.setDomain d x).cell k = s.cell k := rfl
@[simp] theorem State.setDomain_cal (k : Nat) : (s.setDomain d x).cal k = s.cal k := rfl
@[simp] theorem State.setDomain_block (k : Nat) : (s.setDomain d x).block k = s.block k := rfl
@[simp] theorem State.setDomain_comb (k : Nat) : (s.setDomain d x).comb k = s.comb k := rfl
@[simp] theorem State.setDomain_lane (k : Nat) : (s.setDomain d x).lane k = s.lane k := rfl
@[simp] theorem State.setDomain_worker (k : Nat) : (s.setDomain d x).worker k = s.worker k := rfl
@[simp] theorem State.setDomain_region (k : Nat) : (s.setDomain d x).region k = s.region k := rfl
@[simp] theorem State.setDomain_hk (k : Nat) : (s.setDomain d x).hk k = s.hk k := rfl
@[simp] theorem State.setDomain_reg (pg' off' i' : Nat) : (s.setDomain d x).reg pg' off' i' = s.reg pg' off' i' := rfl
@[simp] theorem State.setDomain_hive (k : HiveId) : (s.setDomain d x).hive k = s.hive k := rfl

end

section
variable (s : State) (c : Nat) (x : Hk)

@[simp] theorem State.setHk_pending : (s.setHk c x).pending = s.pending := rfl
@[simp] theorem State.setHk_tick : (s.setHk c x).tick = s.tick := rfl
@[simp] theorem State.setHk_freeCtr : (s.setHk c x).freeCtr = s.freeCtr := rfl
@[simp] theorem State.setHk_regs : (s.setHk c x).regs = s.regs := rfl
@[simp] theorem State.setHk_staged : (s.setHk c x).staged = s.staged := rfl
@[simp] theorem State.setHk_upsets : (s.setHk c x).upsets = s.upsets := rfl
@[simp] theorem State.setHk_sels : (s.setHk c x).sels = s.sels := rfl
@[simp] theorem State.setHk_paths : (s.setHk c x).paths = s.paths := rfl
@[simp] theorem State.setHk_stalls : (s.setHk c x).stalls = s.stalls := rfl
@[simp] theorem State.setHk_hiveA : (s.setHk c x).hiveA = s.hiveA := rfl
@[simp] theorem State.setHk_hiveB : (s.setHk c x).hiveB = s.hiveB := rfl
@[simp] theorem State.setHk_cells : (s.setHk c x).cells = s.cells := rfl
@[simp] theorem State.setHk_cals : (s.setHk c x).cals = s.cals := rfl
@[simp] theorem State.setHk_blocks : (s.setHk c x).blocks = s.blocks := rfl
@[simp] theorem State.setHk_combs : (s.setHk c x).combs = s.combs := rfl
@[simp] theorem State.setHk_lanes : (s.setHk c x).lanes = s.lanes := rfl
@[simp] theorem State.setHk_workers : (s.setHk c x).workers = s.workers := rfl
@[simp] theorem State.setHk_regions : (s.setHk c x).regions = s.regions := rfl
@[simp] theorem State.setHk_domains : (s.setHk c x).domains = s.domains := rfl
@[simp] theorem State.setHk_chip : (s.setHk c x).chip = s.chip := rfl
@[simp] theorem State.setHk_hk (k : Nat) : (s.setHk c x).hk k = if k = c then x else s.hk k := tget_tset _ _ _ _ _
@[simp] theorem State.setHk_cell (k : Nat) : (s.setHk c x).cell k = s.cell k := rfl
@[simp] theorem State.setHk_cal (k : Nat) : (s.setHk c x).cal k = s.cal k := rfl
@[simp] theorem State.setHk_block (k : Nat) : (s.setHk c x).block k = s.block k := rfl
@[simp] theorem State.setHk_comb (k : Nat) : (s.setHk c x).comb k = s.comb k := rfl
@[simp] theorem State.setHk_lane (k : Nat) : (s.setHk c x).lane k = s.lane k := rfl
@[simp] theorem State.setHk_worker (k : Nat) : (s.setHk c x).worker k = s.worker k := rfl
@[simp] theorem State.setHk_region (k : Nat) : (s.setHk c x).region k = s.region k := rfl
@[simp] theorem State.setHk_domain (k : Nat) : (s.setHk c x).domain k = s.domain k := rfl
@[simp] theorem State.setHk_reg (pg' off' i' : Nat) : (s.setHk c x).reg pg' off' i' = s.reg pg' off' i' := rfl
@[simp] theorem State.setHk_hive (k : HiveId) : (s.setHk c x).hive k = s.hive k := rfl

end

section
variable (s : State) (f : Chip → Chip)

@[simp] theorem State.modChip_pending : (s.modChip f).pending = s.pending := rfl
@[simp] theorem State.modChip_tick : (s.modChip f).tick = s.tick := rfl
@[simp] theorem State.modChip_freeCtr : (s.modChip f).freeCtr = s.freeCtr := rfl
@[simp] theorem State.modChip_regs : (s.modChip f).regs = s.regs := rfl
@[simp] theorem State.modChip_staged : (s.modChip f).staged = s.staged := rfl
@[simp] theorem State.modChip_upsets : (s.modChip f).upsets = s.upsets := rfl
@[simp] theorem State.modChip_sels : (s.modChip f).sels = s.sels := rfl
@[simp] theorem State.modChip_paths : (s.modChip f).paths = s.paths := rfl
@[simp] theorem State.modChip_stalls : (s.modChip f).stalls = s.stalls := rfl
@[simp] theorem State.modChip_hiveA : (s.modChip f).hiveA = s.hiveA := rfl
@[simp] theorem State.modChip_hiveB : (s.modChip f).hiveB = s.hiveB := rfl
@[simp] theorem State.modChip_cells : (s.modChip f).cells = s.cells := rfl
@[simp] theorem State.modChip_cals : (s.modChip f).cals = s.cals := rfl
@[simp] theorem State.modChip_blocks : (s.modChip f).blocks = s.blocks := rfl
@[simp] theorem State.modChip_combs : (s.modChip f).combs = s.combs := rfl
@[simp] theorem State.modChip_lanes : (s.modChip f).lanes = s.lanes := rfl
@[simp] theorem State.modChip_workers : (s.modChip f).workers = s.workers := rfl
@[simp] theorem State.modChip_regions : (s.modChip f).regions = s.regions := rfl
@[simp] theorem State.modChip_domains : (s.modChip f).domains = s.domains := rfl
@[simp] theorem State.modChip_hks : (s.modChip f).hks = s.hks := rfl
@[simp] theorem State.modChip_chip : (s.modChip f).chip = f s.chip := rfl
@[simp] theorem State.modChip_cell (k : Nat) : (s.modChip f).cell k = s.cell k := rfl
@[simp] theorem State.modChip_cal (k : Nat) : (s.modChip f).cal k = s.cal k := rfl
@[simp] theorem State.modChip_block (k : Nat) : (s.modChip f).block k = s.block k := rfl
@[simp] theorem State.modChip_comb (k : Nat) : (s.modChip f).comb k = s.comb k := rfl
@[simp] theorem State.modChip_lane (k : Nat) : (s.modChip f).lane k = s.lane k := rfl
@[simp] theorem State.modChip_worker (k : Nat) : (s.modChip f).worker k = s.worker k := rfl
@[simp] theorem State.modChip_region (k : Nat) : (s.modChip f).region k = s.region k := rfl
@[simp] theorem State.modChip_domain (k : Nat) : (s.modChip f).domain k = s.domain k := rfl
@[simp] theorem State.modChip_hk (k : Nat) : (s.modChip f).hk k = s.hk k := rfl
@[simp] theorem State.modChip_reg (pg' off' i' : Nat) : (s.modChip f).reg pg' off' i' = s.reg pg' off' i' := rfl
@[simp] theorem State.modChip_hive (k : HiveId) : (s.modChip f).hive k = s.hive k := rfl

end

section
variable (s : State) (p : Path) (x : PathSt)

@[simp] theorem State.setPath_pending : (s.setPath p x).pending = s.pending := rfl
@[simp] theorem State.setPath_tick : (s.setPath p x).tick = s.tick := rfl
@[simp] theorem State.setPath_freeCtr : (s.setPath p x).freeCtr = s.freeCtr := rfl
@[simp] theorem State.setPath_regs : (s.setPath p x).regs = s.regs := rfl
@[simp] theorem State.setPath_staged : (s.setPath p x).staged = s.staged := rfl
@[simp] theorem State.setPath_upsets : (s.setPath p x).upsets = s.upsets := rfl
@[simp] theorem State.setPath_sels : (s.setPath p x).sels = s.sels := rfl
@[simp] theorem State.setPath_stalls : (s.setPath p x).stalls = s.stalls := rfl
@[simp] theorem State.setPath_hiveA : (s.setPath p x).hiveA = s.hiveA := rfl
@[simp] theorem State.setPath_hiveB : (s.setPath p x).hiveB = s.hiveB := rfl
@[simp] theorem State.setPath_cells : (s.setPath p x).cells = s.cells := rfl
@[simp] theorem State.setPath_cals : (s.setPath p x).cals = s.cals := rfl
@[simp] theorem State.setPath_blocks : (s.setPath p x).blocks = s.blocks := rfl
@[simp] theorem State.setPath_combs : (s.setPath p x).combs = s.combs := rfl
@[simp] theorem State.setPath_lanes : (s.setPath p x).lanes = s.lanes := rfl
@[simp] theorem State.setPath_workers : (s.setPath p x).workers = s.workers := rfl
@[simp] theorem State.setPath_regions : (s.setPath p x).regions = s.regions := rfl
@[simp] theorem State.setPath_domains : (s.setPath p x).domains = s.domains := rfl
@[simp] theorem State.setPath_hks : (s.setPath p x).hks = s.hks := rfl
@[simp] theorem State.setPath_chip : (s.setPath p x).chip = s.chip := rfl
@[simp] theorem State.setPath_cell (k : Nat) : (s.setPath p x).cell k = s.cell k := rfl
@[simp] theorem State.setPath_cal (k : Nat) : (s.setPath p x).cal k = s.cal k := rfl
@[simp] theorem State.setPath_block (k : Nat) : (s.setPath p x).block k = s.block k := rfl
@[simp] theorem State.setPath_comb (k : Nat) : (s.setPath p x).comb k = s.comb k := rfl
@[simp] theorem State.setPath_lane (k : Nat) : (s.setPath p x).lane k = s.lane k := rfl
@[simp] theorem State.setPath_worker (k : Nat) : (s.setPath p x).worker k = s.worker k := rfl
@[simp] theorem State.setPath_region (k : Nat) : (s.setPath p x).region k = s.region k := rfl
@[simp] theorem State.setPath_domain (k : Nat) : (s.setPath p x).domain k = s.domain k := rfl
@[simp] theorem State.setPath_hk (k : Nat) : (s.setPath p x).hk k = s.hk k := rfl
@[simp] theorem State.setPath_reg (pg' off' i' : Nat) : (s.setPath p x).reg pg' off' i' = s.reg pg' off' i' := rfl
@[simp] theorem State.setPath_hive (k : HiveId) : (s.setPath p x).hive k = s.hive k := rfl

end

section
variable (s : State) (p : Path) (pg off : Nat) (v : W32)

@[simp] theorem State.setSel_pending : (s.setSel p pg off v).pending = s.pending := rfl
@[simp] theorem State.setSel_tick : (s.setSel p pg off v).tick = s.tick := rfl
@[simp] theorem State.setSel_freeCtr : (s.setSel p pg off v).freeCtr = s.freeCtr := rfl
@[simp] theorem State.setSel_regs : (s.setSel p pg off v).regs = s.regs := rfl
@[simp] theorem State.setSel_staged : (s.setSel p pg off v).staged = s.staged := rfl
@[simp] theorem State.setSel_upsets : (s.setSel p pg off v).upsets = s.upsets := rfl
@[simp] theorem State.setSel_paths : (s.setSel p pg off v).paths = s.paths := rfl
@[simp] theorem State.setSel_stalls : (s.setSel p pg off v).stalls = s.stalls := rfl
@[simp] theorem State.setSel_hiveA : (s.setSel p pg off v).hiveA = s.hiveA := rfl
@[simp] theorem State.setSel_hiveB : (s.setSel p pg off v).hiveB = s.hiveB := rfl
@[simp] theorem State.setSel_cells : (s.setSel p pg off v).cells = s.cells := rfl
@[simp] theorem State.setSel_cals : (s.setSel p pg off v).cals = s.cals := rfl
@[simp] theorem State.setSel_blocks : (s.setSel p pg off v).blocks = s.blocks := rfl
@[simp] theorem State.setSel_combs : (s.setSel p pg off v).combs = s.combs := rfl
@[simp] theorem State.setSel_lanes : (s.setSel p pg off v).lanes = s.lanes := rfl
@[simp] theorem State.setSel_workers : (s.setSel p pg off v).workers = s.workers := rfl
@[simp] theorem State.setSel_regions : (s.setSel p pg off v).regions = s.regions := rfl
@[simp] theorem State.setSel_domains : (s.setSel p pg off v).domains = s.domains := rfl
@[simp] theorem State.setSel_hks : (s.setSel p pg off v).hks = s.hks := rfl
@[simp] theorem State.setSel_chip : (s.setSel p pg off v).chip = s.chip := rfl
@[simp] theorem State.setSel_cell (k : Nat) : (s.setSel p pg off v).cell k = s.cell k := rfl
@[simp] theorem State.setSel_cal (k : Nat) : (s.setSel p pg off v).cal k = s.cal k := rfl
@[simp] theorem State.setSel_block (k : Nat) : (s.setSel p pg off v).block k = s.block k := rfl
@[simp] theorem State.setSel_comb (k : Nat) : (s.setSel p pg off v).comb k = s.comb k := rfl
@[simp] theorem State.setSel_lane (k : Nat) : (s.setSel p pg off v).lane k = s.lane k := rfl
@[simp] theorem State.setSel_worker (k : Nat) : (s.setSel p pg off v).worker k = s.worker k := rfl
@[simp] theorem State.setSel_region (k : Nat) : (s.setSel p pg off v).region k = s.region k := rfl
@[simp] theorem State.setSel_domain (k : Nat) : (s.setSel p pg off v).domain k = s.domain k := rfl
@[simp] theorem State.setSel_hk (k : Nat) : (s.setSel p pg off v).hk k = s.hk k := rfl
@[simp] theorem State.setSel_reg (pg' off' i' : Nat) : (s.setSel p pg off v).reg pg' off' i' = s.reg pg' off' i' := rfl
@[simp] theorem State.setSel_hive (k : HiveId) : (s.setSel p pg off v).hive k = s.hive k := rfl

end

section
variable (s : State) (pg off : Nat) (v : W32) (i : Nat)

@[simp] theorem State.setReg_pending : (s.setReg pg off v i).pending = s.pending := rfl
@[simp] theorem State.setReg_tick : (s.setReg pg off v i).tick = s.tick := rfl
@[simp] theorem State.setReg_freeCtr : (s.setReg pg off v i).freeCtr = s.freeCtr := rfl
@[simp] theorem State.setReg_staged : (s.setReg pg off v i).staged = s.staged := rfl
@[simp] theorem State.setReg_upsets : (s.setReg pg off v i).upsets = s.upsets := rfl
@[simp] theorem State.setReg_sels : (s.setReg pg off v i).sels = s.sels := rfl
@[simp] theorem State.setReg_paths : (s.setReg pg off v i).paths = s.paths := rfl
@[simp] theorem State.setReg_stalls : (s.setReg pg off v i).stalls = s.stalls := rfl
@[simp] theorem State.setReg_hiveA : (s.setReg pg off v i).hiveA = s.hiveA := rfl
@[simp] theorem State.setReg_hiveB : (s.setReg pg off v i).hiveB = s.hiveB := rfl
@[simp] theorem State.setReg_cells : (s.setReg pg off v i).cells = s.cells := rfl
@[simp] theorem State.setReg_cals : (s.setReg pg off v i).cals = s.cals := rfl
@[simp] theorem State.setReg_blocks : (s.setReg pg off v i).blocks = s.blocks := rfl
@[simp] theorem State.setReg_combs : (s.setReg pg off v i).combs = s.combs := rfl
@[simp] theorem State.setReg_lanes : (s.setReg pg off v i).lanes = s.lanes := rfl
@[simp] theorem State.setReg_workers : (s.setReg pg off v i).workers = s.workers := rfl
@[simp] theorem State.setReg_regions : (s.setReg pg off v i).regions = s.regions := rfl
@[simp] theorem State.setReg_domains : (s.setReg pg off v i).domains = s.domains := rfl
@[simp] theorem State.setReg_hks : (s.setReg pg off v i).hks = s.hks := rfl
@[simp] theorem State.setReg_chip : (s.setReg pg off v i).chip = s.chip := rfl
@[simp] theorem State.setReg_cell (k : Nat) : (s.setReg pg off v i).cell k = s.cell k := rfl
@[simp] theorem State.setReg_cal (k : Nat) : (s.setReg pg off v i).cal k = s.cal k := rfl
@[simp] theorem State.setReg_block (k : Nat) : (s.setReg pg off v i).block k = s.block k := rfl
@[simp] theorem State.setReg_comb (k : Nat) : (s.setReg pg off v i).comb k = s.comb k := rfl
@[simp] theorem State.setReg_lane (k : Nat) : (s.setReg pg off v i).lane k = s.lane k := rfl
@[simp] theorem State.setReg_worker (k : Nat) : (s.setReg pg off v i).worker k = s.worker k := rfl
@[simp] theorem State.setReg_region (k : Nat) : (s.setReg pg off v i).region k = s.region k := rfl
@[simp] theorem State.setReg_domain (k : Nat) : (s.setReg pg off v i).domain k = s.domain k := rfl
@[simp] theorem State.setReg_hk (k : Nat) : (s.setReg pg off v i).hk k = s.hk k := rfl
@[simp] theorem State.setReg_hive (k : HiveId) : (s.setReg pg off v i).hive k = s.hive k := rfl

end

section
variable (s : State) (h : HiveId) (x : Hive)

@[simp] theorem State.setHive_pending : (s.setHive h x).pending = s.pending := by cases h <;> rfl
@[simp] theorem State.setHive_tick : (s.setHive h x).tick = s.tick := by cases h <;> rfl
@[simp] theorem State.setHive_freeCtr : (s.setHive h x).freeCtr = s.freeCtr := by cases h <;> rfl
@[simp] theorem State.setHive_regs : (s.setHive h x).regs = s.regs := by cases h <;> rfl
@[simp] theorem State.setHive_staged : (s.setHive h x).staged = s.staged := by cases h <;> rfl
@[simp] theorem State.setHive_upsets : (s.setHive h x).upsets = s.upsets := by cases h <;> rfl
@[simp] theorem State.setHive_sels : (s.setHive h x).sels = s.sels := by cases h <;> rfl
@[simp] theorem State.setHive_paths : (s.setHive h x).paths = s.paths := by cases h <;> rfl
@[simp] theorem State.setHive_stalls : (s.setHive h x).stalls = s.stalls := by cases h <;> rfl
@[simp] theorem State.setHive_cells : (s.setHive h x).cells = s.cells := by cases h <;> rfl
@[simp] theorem State.setHive_cals : (s.setHive h x).cals = s.cals := by cases h <;> rfl
@[simp] theorem State.setHive_blocks : (s.setHive h x).blocks = s.blocks := by cases h <;> rfl
@[simp] theorem State.setHive_combs : (s.setHive h x).combs = s.combs := by cases h <;> rfl
@[simp] theorem State.setHive_lanes : (s.setHive h x).lanes = s.lanes := by cases h <;> rfl
@[simp] theorem State.setHive_workers : (s.setHive h x).workers = s.workers := by cases h <;> rfl
@[simp] theorem State.setHive_regions : (s.setHive h x).regions = s.regions := by cases h <;> rfl
@[simp] theorem State.setHive_domains : (s.setHive h x).domains = s.domains := by cases h <;> rfl
@[simp] theorem State.setHive_hks : (s.setHive h x).hks = s.hks := by cases h <;> rfl
@[simp] theorem State.setHive_chip : (s.setHive h x).chip = s.chip := by cases h <;> rfl
@[simp] theorem State.setHive_hive (k : HiveId) : (s.setHive h x).hive k = if k = h then x else s.hive k := by cases h <;> cases k <;> rfl
@[simp] theorem State.setHive_cell (k : Nat) : (s.setHive h x).cell k = s.cell k := by cases h <;> rfl
@[simp] theorem State.setHive_cal (k : Nat) : (s.setHive h x).cal k = s.cal k := by cases h <;> rfl
@[simp] theorem State.setHive_block (k : Nat) : (s.setHive h x).block k = s.block k := by cases h <;> rfl
@[simp] theorem State.setHive_comb (k : Nat) : (s.setHive h x).comb k = s.comb k := by cases h <;> rfl
@[simp] theorem State.setHive_lane (k : Nat) : (s.setHive h x).lane k = s.lane k := by cases h <;> rfl
@[simp] theorem State.setHive_worker (k : Nat) : (s.setHive h x).worker k = s.worker k := by cases h <;> rfl
@[simp] theorem State.setHive_region (k : Nat) : (s.setHive h x).region k = s.region k := by cases h <;> rfl
@[simp] theorem State.setHive_domain (k : Nat) : (s.setHive h x).domain k = s.domain k := by cases h <;> rfl
@[simp] theorem State.setHive_hk (k : Nat) : (s.setHive h x).hk k = s.hk k := by cases h <;> rfl
@[simp] theorem State.setHive_reg (pg off i : Nat) : (s.setHive h x).reg pg off i = s.reg pg off i := by cases h <;> rfl

end

/-! ### An update in terms of a set -/

section
variable (s : State) (n : Nat)

@[simp] theorem State.modCell_eq (f : Cell → Cell) : s.modCell n f = s.setCell n (f (s.cell n)) := rfl
@[simp] theorem State.modCal_eq (f : ItpCal → ItpCal) : s.modCal n f = s.setCal n (f (s.cal n)) := rfl
@[simp] theorem State.modBlock_eq (f : Block → Block) : s.modBlock n f = s.setBlock n (f (s.block n)) := rfl
@[simp] theorem State.modComb_eq (f : Comb → Comb) : s.modComb n f = s.setComb n (f (s.comb n)) := rfl
@[simp] theorem State.modLane_eq (f : Lane → Lane) : s.modLane n f = s.setLane n (f (s.lane n)) := rfl
@[simp] theorem State.modWorker_eq (f : Worker → Worker) : s.modWorker n f = s.setWorker n (f (s.worker n)) := rfl
@[simp] theorem State.modRegion_eq (f : Region → Region) : s.modRegion n f = s.setRegion n (f (s.region n)) := rfl
@[simp] theorem State.modDomain_eq (f : Domain → Domain) : s.modDomain n f = s.setDomain n (f (s.domain n)) := rfl
@[simp] theorem State.modHk_eq (f : Hk → Hk) : s.modHk n f = s.setHk n (f (s.hk n)) := rfl
@[simp] theorem State.modHive_eq (h : HiveId) (f : Hive → Hive) : s.modHive h f = s.setHive h (f (s.hive h)) := rfl
@[simp] theorem State.modPath_eq (p : Path) (f : PathSt → PathSt) : s.modPath p f = s.setPath p (f (s.path p)) := rfl

end

/-- A register reads as it was set; every other keeps its value. -/
@[simp] theorem State.setReg_reg (s : State) (pg off : Nat) (v : W32) (i pg' off' i' : Nat) :
    (s.setReg pg off v i).reg pg' off' i' = if rkey pg' off' i' = rkey pg off i then v else s.reg pg' off' i' := by
  unfold State.reg State.setReg
  rw [tfind_tset]
  split_ifs with h1 h2 <;> simp_all

@[simp] theorem State.setSel_sel (s : State) (p : Path) (pg off : Nat) (v : W32) (q : Path) (pg' off' : Nat) :
    (s.setSel p pg off v).sel q pg' off' =
      if off' + pg' + 2 ^ 48 * pathNo q = off + pg + 2 ^ 48 * pathNo p then v else s.sel q pg' off' := tget_tset _ _ _ _ _

@[simp] theorem State.setPath_path (s : State) (p q : Path) (x : PathSt) :
    (s.setPath p x).path q = if pathNo q = pathNo p then x else s.path q := tget_tset _ _ _ _ _


/-- The answer of every meaning: the state with the queue as it was. -/
theorem done_eq (s t : State) : done s t = .next { t with pending := s.pending } := rfl

end Sys2Proof.Machine
end

