-- ==== Sys2Proof/Laws/Quiet.lean ====
section
/-! SUPPORT. What the delivery of events, the honey store and the queue engine leave alone: everything but the counters and event bits
they own, and within a hive its store, queues, guard, frames in the making and placement. -/

namespace Sys2Proof.Machine

variable {K : Nat → Prop}

theorem HiveKeeps.refl (x : Hive) : HiveKeeps x x := by simp [HiveKeeps, HoneyKeeps]

theorem HiveKeeps.trans {x y z : Hive} (h : HiveKeeps x y) (k : HiveKeeps y z) : HiveKeeps x z := by
  unfold HiveKeeps HoneyKeeps at *; simp_all

theorem Quiet.refl (s : State) : Quiet K s s := by
  constructor <;> first | rfl | (intros; rfl) | (intro h; exact HiveKeeps.refl _)

theorem Quiet.trans {s t u : State} (h : Quiet K s t) (k : Quiet K t u) : Quiet K s u := by
  constructor
  case hive => exact fun i => (h.hive i).trans (k.hive i)
  case worker => exact fun w => (k.worker w).trans (h.worker w)
  case regs => exact fun n a b => (k.regs n a b).trans (h.regs n a b)
  all_goals (cases h; cases k; simp_all only)

theorem quiet_setHive (s : State) (h : HiveId) (x : Hive) (hx : HiveKeeps (s.hive h) x) : Quiet K s (s.setHive h x) := by
  constructor
  case hive =>
    intro i; rw [State.setHive_hive]; split
    · rename_i e; subst e; exact hx
    · exact HiveKeeps.refl _
  all_goals first | (intros; simp only [State.setHive_worker]) | (intros; cases h <;> rfl)

theorem quiet_setReg (s : State) (pg off : Nat) (v : W32) (i : Nat) (hk : noted (rkey pg off i) = true ∨ K (rkey pg off i)) :
    Quiet K s (s.setReg pg off v i) := by
  constructor
  case hive => intro h; exact HiveKeeps.refl _
  case regs =>
    intro k h1 h2
    unfold State.setReg
    rw [tfind_tset, if_neg]
    rintro rfl
    rcases hk with h | h
    · rw [h] at h1; cases h1
    · exact h2 h
  all_goals (intros; rfl)

theorem quiet_count (s : State) (pg off n i : Nat) (hk : noted (rkey pg off i) = true ∨ K (rkey pg off i)) :
    Quiet K s (s.count pg off n i) := quiet_setReg _ _ _ _ _ hk

theorem quiet_free (s : State) : Quiet K s s.free.2 := by
  constructor <;> first | rfl | (intros; rfl) | (intro h; exact HiveKeeps.refl _)

theorem quiet_openQ (s : State) (w : Nat) (q : Option Nat) : Quiet K s (s.modWorker w (fun x => { x with openQ := q })) := by
  constructor
  case hive => intro h; exact HiveKeeps.refl _
  case worker =>
    intro i; rw [State.modWorker_eq, State.setWorker_worker]; split
    · rename_i e; subst e; rfl
    · rfl
  all_goals (intros; rfl)

theorem quiet_modRegion (s : State) (g : Nat) (f : Region → Region) : Quiet K s (s.modRegion g f) := by
  constructor <;> first | rfl | (intros; rfl) | (intro h; exact HiveKeeps.refl _)


theorem quiet_modHoney (s : State) (h : HiveId) (f : Honey → Honey) (hf : ∀ y, HoneyKeeps y (f y)) : Quiet K s (s.modHoney h f) :=
  quiet_setHive _ _ _ (by simp only [HiveKeeps, true_and]; exact hf _)

theorem writeBack_keeps (y : Honey) : HoneyKeeps y (writeBack y) := by
  unfold writeBack; split <;> simp [HoneyKeeps]

theorem quiet_modQueue (s : State) (h : HiveId) (q : Nat) (f : Queue → Queue) : Quiet K s (s.modQueue h q f) :=
  quiet_setHive _ _ _ (by simp [HiveKeeps, HoneyKeeps])

/-! ### The honey store -/

theorem hsm_noted (h : HiveId) (o : Nat) (ho : noted (rkey (hsmPage .a) o 0) = true ∧ noted (rkey (hsmPage .b) o 0) = true) :
    noted (rkey (hsmPage h) o 0) = true := by cases h; exacts [ho.1, ho.2]

theorem quiet_hsmCount (s : State) (h : HiveId) (o n : Nat)
    (ho : noted (rkey (hsmPage .a) o 0) = true ∧ noted (rkey (hsmPage .b) o 0) = true) : Quiet K s (s.count (hsmPage h) o n) :=
  quiet_count _ _ _ _ _ (.inl (hsm_noted h o ho))

theorem logAdd_quiet (s : State) (h : HiveId) (e : LogEnt) : Quiet K s (logAdd s h e).1 := by
  unfold logAdd
  dsimp only
  split
  · dsimp only; exact (quiet_modHoney s h _ (fun y => by simp +contextual [HoneyKeeps]))
  · split
    · exact quiet_hsmCount s h _ _ (by decide)
    · split
      · exact (quiet_modHoney s h _ (fun y => by simp +contextual [HoneyKeeps])).trans (quiet_hsmCount _ h _ _ (by decide))
      · exact quiet_hsmCount s h _ _ (by decide)

theorem bucketAdd_quiet (s : State) (h : HiveId) (bank : Nat) : Quiet K s (bucketAdd s h bank).1 := by
  unfold bucketAdd; dsimp only; split <;> (dsimp only; exact (quiet_modHoney s h _ (fun y => by simp +contextual [HoneyKeeps])))

theorem makePoison_quiet (s : State) (h : HiveId) (agent w : Nat) (x : W64) : Quiet K s (makePoison s h agent w x).1 := by
  unfold makePoison; dsimp only
  exact ((quiet_modHoney s h _ (fun y => by simp +contextual [HoneyKeeps, Honey.put, Memory.setN_wf])).trans (quiet_hsmCount _ h _ _ (by decide))).trans (logAdd_quiet _ _ _)

theorem correctable_quiet (s : State) (h : HiveId) (agent w pos : Nat) : Quiet K s (correctable s h agent w pos).1 := by
  unfold correctable; dsimp only
  exact (((quiet_modHoney s h _ (fun y => by simp +contextual [HoneyKeeps])).trans (quiet_hsmCount _ h _ _ (by decide))).trans (bucketAdd_quiet _ _ _)).trans (logAdd_quiet _ _ _)

theorem retiredAccess_quiet (s : State) (h : HiveId) (agent w : Nat) : Quiet K s (retiredAccess s h agent w).1 := by
  unfold retiredAccess; dsimp only
  exact (quiet_hsmCount _ _ _ _ (by decide)).trans (logAdd_quiet _ _ _)

theorem storeRead_quiet (s : State) (h : HiveId) (agent w : Nat) : Quiet K s (storeRead s h agent w).1 := by
  unfold storeRead; dsimp only
  have b : Quiet K s (s.modHoney h writeBack) := quiet_modHoney _ _ _ writeBack_keeps
  split
  · exact b.trans (retiredAccess_quiet _ _ _ _)
  · split
    · exact b
    · split
      · exact b
      · exact b
      · split
        · exact b
        · exact b.trans (correctable_quiet _ _ _ _ _)
        · split
          · exact b.trans (makePoison_quiet _ _ _ _ _)
          · exact b.trans (quiet_free _)

theorem storeWrite_quiet (s : State) (h : HiveId) (agent w : Nat) (x : W64) (p : Bool) : Quiet K s (storeWrite s h agent w x p).1 := by
  unfold storeWrite; dsimp only
  have b : Quiet K s (s.modHoney h writeBack) := quiet_modHoney _ _ _ writeBack_keeps
  split
  · exact b.trans (retiredAccess_quiet _ _ _ _)
  · dsimp only; exact b.trans (quiet_modHoney _ h _ (fun y => by simp +contextual [HoneyKeeps, Honey.put, Memory.setN_wf]))

/-! ### The directory -/

/-- A fold whose every step is quiet is quiet. -/
theorem quiet_foldl {α β : Type} (l : List α) (f : State × β → α → State × β) (hf : ∀ p x, Quiet K p.1 (f p x).1) (p : State × β) :
    Quiet K p.1 (l.foldl f p).1 := by
  induction l generalizing p with
  | nil => exact Quiet.refl _
  | cons x l ih => exact (hf p x).trans (ih _)

theorem backLine_quiet (s : State) (h : HiveId) (c : CLine) : Quiet K s (backLine s h c).1 := by
  unfold backLine
  refine quiet_foldl (β := List Ev) _ _ (fun p x => ?_) (s, [])
  exact storeWrite_quiet _ _ _ _ _ _

theorem backAll_quiet (s : State) (h : HiveId) (hs : List (Nat × CLine)) :
    Quiet K s (hs.foldl (fun (p : State × List Ev) (x : Nat × CLine) =>
      if x.2.state = .m then ((backLine p.1 h x.2).1, p.2 ++ (backLine p.1 h x.2).2) else (p.1, p.2)) (s, [])).1 := by
  refine quiet_foldl _ _ (fun p x => ?_) (s, [])
  split
  · exact backLine_quiet _ _ _
  · exact Quiet.refl _

theorem recallRead_quiet (s : State) (h : HiveId) (line : Nat) : Quiet K s (recallRead s h line).1 := by
  unfold recallRead
  split
  · exact Quiet.refl _
  · exact (backAll_quiet s h _).trans (quiet_setHive _ _ _ (by simp [HiveKeeps, HoneyKeeps]))

theorem recallInv_quiet (s : State) (h : HiveId) (line : Nat) : Quiet K s (recallInv s h line).1 := by
  unfold recallInv
  split
  · exact Quiet.refl _
  · exact (backAll_quiet s h _).trans (quiet_setHive _ _ _ (by simp [HiveKeeps, HoneyKeeps]))

theorem hReadE_quiet (s : State) (h : HiveId) (agent w : Nat) : Quiet K s (hReadE s h agent w).1 := by
  unfold hReadE; exact (recallRead_quiet _ _ _).trans (storeRead_quiet _ _ _ _)

theorem hWriteE_quiet (s : State) (h : HiveId) (agent w : Nat) (x : W64) : Quiet K s (hWriteE s h agent w x).1 := by
  unfold hWriteE; exact (recallInv_quiet _ _ _).trans (storeWrite_quiet _ _ _ _ _ _)

/-! ### The queue engine -/

theorem putPtr_quiet (s : State) (h : HiveId) (q i : Nat) (p : BitVec 32) : Quiet K s (putPtr s h q i p).1 := by
  unfold putPtr; exact hWriteE_quiet _ _ _ _ _

theorem dropOpen_quiet (s : State) (h : HiveId) (q r : Nat) : Quiet K s (dropOpen s h q r) := by
  unfold dropOpen; dsimp only
  split
  · split
    · exact ((quiet_modQueue _ _ _ _).trans (quiet_openQ _ _ _)).trans (quiet_modQueue _ _ _ _)
    · exact (quiet_modQueue _ _ _ _).trans (quiet_modQueue _ _ _ _)
  · exact quiet_modQueue _ _ _ _

theorem abandonFrame_quiet (s : State) (h : HiveId) (f : BitVec 40) : Quiet K s (abandonFrame s h f).1 := by
  unfold abandonFrame; dsimp only
  split
  · exact Quiet.refl _
  · refine (quiet_setHive s h _ ?_).trans (quiet_foldl _ _ (fun p x => ?_) (_, []))
    · simp [HiveKeeps, HoneyKeeps]
    · split
      · exact ((hReadE_quiet _ _ _ _).trans (putPtr_quiet _ _ _ _ _)).trans (dropOpen_quiet _ _ _ _)
      · exact Quiet.refl _

theorem frameQueueReset_quiet (s : State) (h : HiveId) (q : Nat) : Quiet K s (frameQueueReset s h q).1 := by
  unfold frameQueueReset; dsimp only
  split
  · refine (quiet_setHive s h _ ?_).trans (quiet_foldl _ _ (fun p x => ?_) (_, []))
    · simp [HiveKeeps, HoneyKeeps]
    · exact abandonFrame_quiet _ _ _
  · exact Quiet.refl _

theorem q_noted (h : HiveId) (o : Nat) (ho : noted (rkey (qPage .a) o 0) = true ∧ noted (rkey (qPage .b) o 0) = true) :
    noted (rkey (qPage h) o 0) = true := by cases h; exacts [ho.1, ho.2]

theorem qResetE_quiet (s : State) (h : HiveId) (q : Nat) (host : Bool) : Quiet K s (qResetE s h q host).1 := by
  unfold qResetE; dsimp only
  refine Quiet.trans ?_ (quiet_count _ _ _ _ _ (.inl (q_noted h _ (by decide))))
  refine Quiet.trans ?_ (frameQueueReset_quiet _ _ _)
  have b := ((((putPtr_quiet (K := K) s h q 1 0).trans (putPtr_quiet _ h q 2 0)).trans (putPtr_quiet _ h q 3 0)).trans
    (dropOpen_quiet _ h q qWasReset)).trans (quiet_modQueue _ h q (fun x => { x with seq := 0, freed := [] }))
  split
  · exact b.trans (quiet_setHive _ _ _ (by simp [HiveKeeps, HoneyKeeps]))
  · exact b

theorem qDescHead_quiet (s : State) (h : HiveId) (q : Nat) : Quiet K s (qDescHead s h q).1 := by
  unfold qDescHead
  have b := hReadE_quiet (K := K) s h agQueue (4 * q)
  generalize hReadE s h agQueue (4 * q) = r at b ⊢
  dsimp only
  split
  · dsimp only
    exact (b.trans (hWriteE_quiet _ h agQueue (4 * q) _)).trans (quiet_modQueue _ h q _)
  · exact b

theorem closeOpen_quiet (s : State) (h : HiveId) (q : Nat) (p : BitVec 32) : Quiet K s (closeOpen s h q p).1 := by
  unfold closeOpen; split
  · exact Quiet.refl _
  · exact (putPtr_quiet s h q 3 p).trans (dropOpen_quiet _ h q qAborted)

theorem qDescE_quiet (s : State) (h : HiveId) (q : Nat) : Quiet K s (qDescE s h q).1 := by
  unfold qDescE
  have b := qDescHead_quiet (K := K) s h q
  generalize qDescHead s h q = d at b ⊢
  dsimp only
  have b := b.trans (hReadE_quiet d.1 h agQueue (4 * q + 1))
  generalize hReadE d.1 h agQueue (4 * q + 1) = r at b ⊢
  have b := b.trans (hReadE_quiet r.1 h agQueue (4 * q + 2))
  generalize hReadE r.1 h agQueue (4 * q + 2) = u at b ⊢
  have b := b.trans (hReadE_quiet u.1 h agQueue (4 * q + 3))
  generalize hReadE u.1 h agQueue (4 * q + 3) = v at b ⊢
  split
  · exact b.trans (qResetE_quiet _ h q false)
  · split
    · exact b.trans (closeOpen_quiet _ h q _)
    · exact b

theorem takeOwed_quiet (s t : State) (h : HiveId) (q r : Nat) (p : Producer) (e : takeOwed s h q p = some (t, r)) : Quiet K s t := by
  unfold takeOwed at e
  split at e
  · cases e
  · split at e
    · cases e; exact quiet_modQueue _ _ _ _
    · cases e

theorem qReserveE_quiet (s : State) (h : HiveId) (q : Nat) (p : Producer) (n : Nat) : Quiet K s (qReserveE s h q p n).1 := by
  unfold qReserveE; dsimp only
  have b : Quiet K s (qDescE s h q).1 := qDescE_quiet _ _ _
  split
  · exact Quiet.refl _
  · split
    · rename_i e; exact b.trans (takeOwed_quiet _ _ _ _ _ _ e)
    · repeat' split
      all_goals first | exact b | dsimp only; exact (b.trans (putPtr_quiet _ h q 3 _)).trans (quiet_modQueue _ h q _)

theorem rewindE_quiet (s : State) (h : HiveId) (q : Nat) (d : Desc) : Quiet K s (rewindE s h q d).1 := by
  unfold rewindE; dsimp only; exact (putPtr_quiet s h q 3 d.tail).trans (quiet_modQueue _ h q _)

theorem qWriteE_quiet (s : State) (h : HiveId) (q : Nat) (p : Producer) (w : W64) : Quiet K s (qWriteE s h q p w).1 := by
  unfold qWriteE; dsimp only
  have b : Quiet K s (qDescE s h q).1 := qDescE_quiet _ _ _
  generalize qDescE s h q = r at b ⊢
  obtain ⟨t, e, d⟩ := r
  dsimp only at b ⊢
  split
  · exact Quiet.refl _
  · split
    · rename_i e; exact b.trans (takeOwed_quiet _ _ _ _ _ _ e)
    · split
      · exact b
      · split
        · exact b.trans (rewindE_quiet t h q d)
        · have c : Quiet K s (hWriteE t h agQueue (ringAddr d.d0 (d.tail + BitVec.ofNat 32 ((t.queue h q).written + 1))) w).1 :=
            b.trans (hWriteE_quiet t h agQueue _ w)
          generalize hWriteE t h agQueue (ringAddr d.d0 (d.tail + BitVec.ofNat 32 ((t.queue h q).written + 1))) w = r at c ⊢
          obtain ⟨u, e, f⟩ := r
          dsimp only at c ⊢
          split
          · exact c.trans (rewindE_quiet u h q d)
          · dsimp only; exact c.trans (quiet_modQueue u h q _)

theorem qCommitE_quiet (s : State) (h : HiveId) (q : Nat) (p : Producer) : Quiet K s (qCommitE s h q p).1 := by
  unfold qCommitE
  cases qClass q with
  | none => exact Quiet.refl _
  | some cls =>
    dsimp only
    have b : Quiet K s (qDescE s h q).1 := qDescE_quiet _ _ _
    generalize qDescE s h q = r at b ⊢
    obtain ⟨t, e, d⟩ := r
    dsimp only at b ⊢
    split
    · rename_i e; exact b.trans (takeOwed_quiet _ _ _ _ _ _ e)
    · split
      · exact b
      · split
        · exact b.trans (rewindE_quiet t h q d)
        · have c : Quiet K s (hWriteE t h agQueue (ringAddr d.d0 d.tail) (packetWord (t.queue h q).written cls (t.queue h q).seq)).1 :=
            b.trans (hWriteE_quiet t h agQueue _ _)
          generalize hWriteE t h agQueue (ringAddr d.d0 d.tail) (packetWord (t.queue h q).written cls (t.queue h q).seq) = r at c ⊢
          obtain ⟨u, e, f⟩ := r
          dsimp only at c ⊢
          split
          · exact c.trans (rewindE_quiet u h q d)
          · dsimp only
            exact ((c.trans (putPtr_quiet u h q 3 _)).trans (putPtr_quiet _ h q 2 _)).trans (quiet_modQueue _ h q _)

theorem qWriteList_quiet (h : HiveId) (q : Nat) (p : Producer) (ws : List W64) (s : State) : Quiet K s (qWriteList h q p ws s).1 := by
  induction ws generalizing s with
  | nil => exact Quiet.refl _
  | cons w ws ih =>
    unfold qWriteList; dsimp only
    split
    · exact qWriteE_quiet s h q p w
    · exact (qWriteE_quiet s h q p w).trans (ih _)

theorem qPutE_quiet (s : State) (h : HiveId) (q : Nat) (p : Producer) (ws : List W64) : Quiet K s (qPutE s h q p ws).1 := by
  unfold qPutE
  have b := (qReserveE_quiet (K := K) s h q p ws.length)
  generalize qReserveE s h q p ws.length = r at b ⊢
  obtain ⟨t, e, n⟩ := r
  dsimp only at b ⊢
  by_cases hn : n ≠ qOk
  · rw [if_pos hn]; exact b
  · rw [if_neg hn]
    have c := qWriteList_quiet (K := K) h q p ws t
    generalize qWriteList h q p ws t = r at c ⊢
    obtain ⟨u, e', n'⟩ := r
    dsimp only at c ⊢
    by_cases hn : n' ≠ qOk
    · rw [if_pos hn]; exact b.trans c
    · rw [if_neg hn]
      exact (b.trans c).trans (qCommitE_quiet u h q p)

/-! ### Delivery -/

/-- What an event may mark: a register outside `noted` only where `K` names it. -/
def EvIn (K : Nat → Prop) : Ev → Prop
  | .raise pg off _ => noted (rkey pg off 0) = true ∨ K (rkey pg off 0)
  | .guard _ _ => True

theorem HiveKeeps.guard (x : Hive) (g : Guard) : HiveKeeps x { x with guard := g } := by simp [HiveKeeps, HoneyKeeps]

theorem evt_noted (pg : Nat) (hp : pg % 2 ^ 12 = 0) : noted (rkey pg Reg.EVT_COUNT 0) = true := by
  have h : rkey pg Reg.EVT_COUNT 0 % 2 ^ 12 = Reg.EVT_COUNT := by simp only [rkey, Reg.EVT_COUNT]; omega
  unfold noted
  rw [h]
  simp

theorem traceAdd_quiet (s : State) (h : HiveId) (w : W64 × W64) : Quiet K s (traceAdd s h w) :=
  quiet_setHive _ _ _ (HiveKeeps.guard _ _)

theorem noticePut_quiet (s : State) (h : HiveId) (w : W64 × W64) : Quiet K s (noticePut s h w).1 := by
  unfold noticePut
  have c := qPutE_quiet (K := K) s h 0 .device [w.1, w.2]
  generalize qPutE s h 0 .device [w.1, w.2] = r at c ⊢
  dsimp only
  by_cases hn : r.2.2.1 = qOk
  · rw [if_pos hn]
    exact c.trans (quiet_setHive _ _ _ (by simp [HiveKeeps, HoneyKeeps]))
  · rw [if_neg hn]
    exact (c.trans (quiet_setHive _ _ _ (by simp [HiveKeeps, HoneyKeeps]))).trans
      (quiet_count _ _ _ _ _ (.inl (q_noted _ _ (by decide))))

theorem noticeE_quiet (s : State) (pg off bits : Nat) : Quiet K s (noticeE s pg off bits).1 :=
  ((qDescE_quiet s _ 0).trans (traceAdd_quiet _ _ _)).trans (noticePut_quiet _ _ _)

theorem raiseE_quiet (s : State) (pg off bits : Nat) (hp : pg % 2 ^ 12 = 0) (hk : EvIn K (.raise pg off bits)) :
    Quiet K s (raiseE s pg off bits).1 := by
  unfold raiseE
  generalize toldBits s pg off bits = w
  have b (v : W32) : Quiet K s (s.setReg pg off v 0) := quiet_setReg _ _ _ _ _ hk
  dsimp only
  by_cases hw : w = 0
  · rw [if_pos hw]; exact b _
  · rw [if_neg hw]
    exact ((b _).trans (quiet_count _ _ _ _ _ (.inl (evt_noted pg hp)))).trans (noticeE_quiet _ _ _ _)

theorem quiet_modSource (s : State) (g src : Nat) (f : Source → Source) : Quiet K s (s.modSource g src f) := quiet_modRegion _ _ _

theorem severeE_quiet (s : State) (g src : Nat) : Quiet K s (severeE s g src).1 := by
  unfold severeE; dsimp only
  by_cases h1 : (s.hive (higherClaim s)).dup.fatal = true ∨ srcCeil s g src = 0
  · rw [if_pos h1]; exact Quiet.refl _
  · rw [if_neg h1]
    cases (s.hive (higherClaim s)).guard.record with
    | none => exact quiet_setHive _ _ _ (HiveKeeps.guard _ _)
    | some r => exact quiet_setHive _ _ _ (HiveKeeps.guard _ _)

theorem grd_noted (g src : Nat) : noted (rkey (grdPage g) Reg.GRD_SRC_CNT src) = true := by
  have h1 : rkey (grdPage g) Reg.GRD_SRC_CNT src % 2 ^ 12 = Reg.GRD_SRC_CNT := by
    simp only [rkey, Reg.GRD_SRC_CNT, grdPage, page]; omega
  have h2 : rkey (grdPage g) Reg.GRD_SRC_CNT src / 2 ^ 20 % 2 ^ 8 = 5 := by
    simp only [rkey, Reg.GRD_SRC_CNT, grdPage, page, regionCode]; split_ifs <;> omega
  unfold noted
  rw [h1, h2]
  simp

theorem guardE_quiet (s : State) (g src : Nat) : Quiet K s (guardE s g src).1 := by
  unfold guardE
  by_cases hb : (s.source g src).broken = true
  · rw [if_pos hb]; exact Quiet.refl _
  · rw [if_neg hb]
    have c : Quiet K s (s.count (grdPage g) Reg.GRD_SRC_CNT 1 src) := quiet_count _ _ _ _ _ (.inl (grd_noted g src))
    generalize s.count (grdPage g) Reg.GRD_SRC_CNT 1 src = t at c ⊢
    dsimp only
    split
    · exact (c.trans (quiet_modSource _ _ _ _)).trans (severeE_quiet _ _ _)
    · dsimp only; exact c.trans (quiet_modSource t g src _)
end Sys2Proof.Machine
end

