-- ==== Sys2Proof/Laws/Events.lean ====
section
/-! SUPPORT. The delivery of events: the events an operation gives rise to mark its own registers alone, and what raising a bit
or an event of a guard source leaves alone. -/
namespace Sys2Proof.Machine
variable {K : Nat → Prop}

/-! ### The events that an operation itself gives rise to -/

/-- An event of a guard source, or one that marks a register of `noted`. -/
def Own : Ev → Prop
  | .raise pg off _ => noted (rkey pg off 0) = true ∧ pg % 2 ^ 12 = 0
  | .guard _ _ => True

/-- Events each of which is its operation's own. -/
def Owns (es : List Ev) : Prop := ∀ e ∈ es, Own e

@[simp] theorem owns_nil : Owns [] := by simp [Owns]
@[simp] theorem owns_append (a b : List Ev) : Owns (a ++ b) ↔ Owns a ∧ Owns b := by
  simp only [Owns, List.forall_mem_append]
@[simp] theorem owns_cons (e : Ev) (l : List Ev) : Owns (e :: l) ↔ Own e ∧ Owns l := by simp [Owns]
@[simp] theorem own_guard (g src : Nat) : Own (.guard g src) := trivial

theorem own_hsm (h : HiveId) (o n : Nat)
    (ho : noted (rkey (hsmPage .a) o 0) = true ∧ noted (rkey (hsmPage .b) o 0) = true) : Own (.raise (hsmPage h) o n) :=
  ⟨hsm_noted h o ho, by cases h <;> decide⟩

theorem own_q (h : HiveId) (o n : Nat)
    (ho : noted (rkey (qPage .a) o 0) = true ∧ noted (rkey (qPage .b) o 0) = true) : Own (.raise (qPage h) o n) :=
  ⟨q_noted h o ho, by cases h <;> decide⟩

theorem own_grd (s : State) (n : Nat) : Own (.raise (chipGrdPage s) Reg.GRD_EVENTS n) := by
  unfold chipGrdPage; cases higherClaim s <;> exact ⟨by decide, by decide⟩

theorem logAdd_owns (s : State) (h : HiveId) (e : LogEnt) : Owns (logAdd s h e).2 := by
  have l : Owns [Ev.raise (hsmPage h) Reg.HSM_EVENTS 4] := (owns_cons _ _).2 ⟨own_hsm h _ _ (by decide), owns_nil⟩
  unfold logAdd; dsimp only
  split
  · exact owns_nil
  · split
    · exact l
    · split <;> exact l

theorem bucketAdd_owns (s : State) (h : HiveId) (bank : Nat) : Owns (bucketAdd s h bank).2 := by
  unfold bucketAdd; dsimp only
  split
  · simp only [owns_cons, owns_nil, and_true]
    split
    · exact own_hsm h _ _ (by decide)
    · exact own_hsm h _ _ (by decide)
  · exact owns_nil

theorem makePoison_owns (s : State) (h : HiveId) (agent w : Nat) (x : W64) : Owns (makePoison s h agent w x).2 := by
  unfold makePoison; dsimp only
  simp only [owns_append, owns_cons, own_guard, owns_nil, and_true]
  exact ⟨logAdd_owns _ _ _, own_hsm h _ _ (by decide)⟩

theorem correctable_owns (s : State) (h : HiveId) (agent w pos : Nat) : Owns (correctable s h agent w pos).2 := by
  unfold correctable; dsimp only
  exact (owns_append _ _).2 ⟨bucketAdd_owns _ _ _, logAdd_owns _ _ _⟩

theorem retiredAccess_owns (s : State) (h : HiveId) (agent w : Nat) : Owns (retiredAccess s h agent w).2 := by
  unfold retiredAccess; dsimp only
  simp only [owns_append, owns_cons, owns_nil, and_true]
  exact ⟨logAdd_owns _ _ _, own_hsm h _ _ (by decide)⟩

theorem storeRead_owns (s : State) (h : HiveId) (agent w : Nat) : Owns (storeRead s h agent w).2.1 := by
  unfold storeRead; dsimp only
  split
  · exact retiredAccess_owns _ _ _ _
  · split
    · exact owns_nil
    · split
      · exact owns_nil
      · exact owns_nil
      · split
        · exact owns_nil
        · exact correctable_owns _ _ _ _ _
        · split
          · exact makePoison_owns _ _ _ _ _
          · exact owns_nil

theorem storeWrite_owns (s : State) (h : HiveId) (agent w : Nat) (x : W64) (p : Bool) : Owns (storeWrite s h agent w x p).2.1 := by
  unfold storeWrite; dsimp only
  split
  · exact retiredAccess_owns _ _ _ _
  · exact owns_nil

/-- A fold whose every step adds events of its own. -/
theorem owns_foldl {α : Type} (l : List α) (f : State × List Ev → α → State × List Ev) (hf : ∀ p x, Owns p.2 → Owns (f p x).2)
    (p : State × List Ev) (hp : Owns p.2) : Owns (l.foldl f p).2 := by
  induction l generalizing p with
  | nil => exact hp
  | cons x l ih => exact ih _ (hf p x hp)

theorem backLine_owns (s : State) (h : HiveId) (c : CLine) : Owns (backLine s h c).2 := by
  unfold backLine
  refine owns_foldl _ _ (fun p x hp => ?_) _ owns_nil
  exact (owns_append _ _).2 ⟨hp, storeWrite_owns _ _ _ _ _ _⟩

theorem backAll_owns (s : State) (h : HiveId) (hs : List (Nat × CLine)) :
    Owns (hs.foldl (fun (p : State × List Ev) (x : Nat × CLine) =>
      if x.2.state = .m then ((backLine p.1 h x.2).1, p.2 ++ (backLine p.1 h x.2).2) else (p.1, p.2)) (s, [])).2 := by
  refine owns_foldl _ _ (fun p x hp => ?_) _ owns_nil
  split
  · exact (owns_append _ _).2 ⟨hp, backLine_owns _ _ _⟩
  · exact hp

theorem recallRead_owns (s : State) (h : HiveId) (line : Nat) : Owns (recallRead s h line).2 := by
  unfold recallRead
  split
  · exact owns_nil
  · exact backAll_owns s h _

theorem recallInv_owns (s : State) (h : HiveId) (line : Nat) : Owns (recallInv s h line).2 := by
  unfold recallInv
  split
  · exact owns_nil
  · exact backAll_owns s h _

theorem hReadE_owns (s : State) (h : HiveId) (agent w : Nat) : Owns (hReadE s h agent w).2.1 := by
  unfold hReadE; exact (owns_append _ _).2 ⟨recallRead_owns _ _ _, storeRead_owns _ _ _ _⟩

theorem hWriteE_owns (s : State) (h : HiveId) (agent w : Nat) (x : W64) : Owns (hWriteE s h agent w x).2.1 := by
  unfold hWriteE; exact (owns_append _ _).2 ⟨recallInv_owns _ _ _, storeWrite_owns _ _ _ _ _ _⟩

theorem putPtr_owns (s : State) (h : HiveId) (q i : Nat) (p : BitVec 32) : Owns (putPtr s h q i p).2 := by
  unfold putPtr; exact hWriteE_owns _ _ _ _ _

theorem abandonFrame_owns (s : State) (h : HiveId) (f : BitVec 40) : Owns (abandonFrame s h f).2 := by
  unfold abandonFrame; dsimp only
  split
  · exact owns_nil
  · refine owns_foldl _ _ (fun p x hp => ?_) _ owns_nil
    split
    · exact (owns_append _ _).2 ⟨(owns_append _ _).2 ⟨hp, hReadE_owns _ _ _ _⟩, putPtr_owns _ _ _ _ _⟩
    · exact hp

theorem frameQueueReset_owns (s : State) (h : HiveId) (q : Nat) : Owns (frameQueueReset s h q).2 := by
  unfold frameQueueReset; dsimp only
  split
  · refine owns_foldl _ _ (fun p x hp => ?_) _ owns_nil
    exact (owns_append _ _).2 ⟨hp, abandonFrame_owns _ _ _⟩
  · exact owns_nil

theorem qResetE_owns (s : State) (h : HiveId) (q : Nat) (host : Bool) : Owns (qResetE s h q host).2 := by
  unfold qResetE; dsimp only
  simp only [owns_append, owns_cons, owns_nil, and_true]
  refine ⟨⟨⟨⟨⟨putPtr_owns _ _ _ _ _, putPtr_owns _ _ _ _ _⟩, putPtr_owns _ _ _ _ _⟩, frameQueueReset_owns _ _ _⟩, own_q h _ _ (by decide)⟩, ?_⟩
  split
  · exact owns_nil
  · simp

theorem qDescHead_owns (s : State) (h : HiveId) (q : Nat) : Owns (qDescHead s h q).2.1 := by
  unfold qDescHead
  have b := hReadE_owns s h agQueue (4 * q)
  generalize hReadE s h agQueue (4 * q) = r at b ⊢
  dsimp only
  split
  · exact (owns_append _ _).2 ⟨b, hWriteE_owns _ _ _ _ _⟩
  · exact b

theorem closeOpen_owns (s : State) (h : HiveId) (q : Nat) (p : BitVec 32) : Owns (closeOpen s h q p).2 := by
  unfold closeOpen; split
  · exact owns_nil
  · exact putPtr_owns _ _ _ _ _

theorem qDescE_owns (s : State) (h : HiveId) (q : Nat) : Owns (qDescE s h q).2.1 := by
  unfold qDescE
  have b0 := qDescHead_owns s h q
  generalize qDescHead s h q = d at b0 ⊢
  dsimp only
  have b1 := hReadE_owns d.1 h agQueue (4 * q + 1)
  generalize hReadE d.1 h agQueue (4 * q + 1) = r at b1 ⊢
  have b2 := hReadE_owns r.1 h agQueue (4 * q + 2)
  generalize hReadE r.1 h agQueue (4 * q + 2) = u at b2 ⊢
  have b3 := hReadE_owns u.1 h agQueue (4 * q + 3)
  generalize hReadE u.1 h agQueue (4 * q + 3) = v at b3 ⊢
  have b : Owns (d.2.1 ++ r.2.1 ++ u.2.1 ++ v.2.1) := by simp only [owns_append]; exact ⟨⟨⟨b0, b1⟩, b2⟩, b3⟩
  split
  · exact (owns_append _ _).2 ⟨b, qResetE_owns _ h q false⟩
  · split
    · exact (owns_append _ _).2 ⟨b, closeOpen_owns _ h q _⟩
    · exact b

theorem qReserveE_owns (s : State) (h : HiveId) (q : Nat) (p : Producer) (n : Nat) : Owns (qReserveE s h q p n).2.1 := by
  unfold qReserveE
  have b := qDescE_owns s h q
  generalize qDescE s h q = r at b ⊢
  obtain ⟨t, e, d⟩ := r
  have two (x : BitVec 32) : Owns (e ++ (putPtr t h q 3 x).2) := (owns_append _ _).2 ⟨b, putPtr_owns _ _ _ _ _⟩
  dsimp only at b ⊢
  repeat' split
  all_goals first | exact owns_nil | exact b | exact two _

theorem rewindE_owns (s : State) (h : HiveId) (q : Nat) (d : Desc) : Owns (rewindE s h q d).2 := by
  unfold rewindE; exact putPtr_owns _ _ _ _ _

theorem qWriteE_owns (s : State) (h : HiveId) (q : Nat) (p : Producer) (w : W64) : Owns (qWriteE s h q p w).2.1 := by
  unfold qWriteE
  have b := qDescE_owns s h q
  generalize qDescE s h q = r at b ⊢
  obtain ⟨t, e, d⟩ := r
  dsimp only at b ⊢
  split
  · exact owns_nil
  · split
    · exact b
    · split
      · exact b
      · split
        · exact (owns_append _ _).2 ⟨b, rewindE_owns t h q d⟩
        · have c := hWriteE_owns t h agQueue (ringAddr d.d0 (d.tail + BitVec.ofNat 32 ((t.queue h q).written + 1))) w
          generalize hWriteE t h agQueue (ringAddr d.d0 (d.tail + BitVec.ofNat 32 ((t.queue h q).written + 1))) w = r at c ⊢
          obtain ⟨u, e', f⟩ := r
          dsimp only at c ⊢
          split
          · simp only [owns_append]; exact ⟨⟨b, c⟩, rewindE_owns u h q d⟩
          · exact (owns_append _ _).2 ⟨b, c⟩

theorem qCommitE_owns (s : State) (h : HiveId) (q : Nat) (p : Producer) : Owns (qCommitE s h q p).2.1 := by
  unfold qCommitE
  cases qClass q with
  | none => exact owns_nil
  | some cls =>
    dsimp only
    have b := qDescE_owns s h q
    generalize qDescE s h q = r at b ⊢
    obtain ⟨t, e, d⟩ := r
    dsimp only at b ⊢
    split
    · exact b
    · split
      · exact b
      · split
        · exact (owns_append _ _).2 ⟨b, rewindE_owns t h q d⟩
        · have c := hWriteE_owns t h agQueue (ringAddr d.d0 d.tail) (packetWord (t.queue h q).written cls (t.queue h q).seq)
          generalize hWriteE t h agQueue (ringAddr d.d0 d.tail) (packetWord (t.queue h q).written cls (t.queue h q).seq) = r at c ⊢
          obtain ⟨u, e', f⟩ := r
          dsimp only at c ⊢
          split
          · simp only [owns_append]; exact ⟨⟨b, c⟩, rewindE_owns u h q d⟩
          · simp only [owns_append]; exact ⟨⟨⟨b, c⟩, putPtr_owns _ _ _ _ _⟩, putPtr_owns _ _ _ _ _⟩

theorem qWriteList_owns (h : HiveId) (q : Nat) (p : Producer) (ws : List W64) (s : State) : Owns (qWriteList h q p ws s).2.1 := by
  induction ws generalizing s with
  | nil => exact owns_nil
  | cons w ws ih =>
    unfold qWriteList; dsimp only
    split
    · exact qWriteE_owns s h q p w
    · exact (owns_append _ _).2 ⟨qWriteE_owns s h q p w, ih _⟩

theorem qPutE_owns (s : State) (h : HiveId) (q : Nat) (p : Producer) (ws : List W64) : Owns (qPutE s h q p ws).2.1 := by
  unfold qPutE
  have b := qReserveE_owns s h q p ws.length
  generalize qReserveE s h q p ws.length = r at b ⊢
  obtain ⟨t, e, n⟩ := r
  dsimp only at b ⊢
  by_cases hn : n ≠ qOk
  · rw [if_pos hn]; exact b
  · rw [if_neg hn]
    have c := qWriteList_owns h q p ws t
    generalize qWriteList h q p ws t = r at c ⊢
    obtain ⟨u, e', n'⟩ := r
    dsimp only at c ⊢
    by_cases hn : n' ≠ qOk
    · rw [if_pos hn]; exact (owns_append _ _).2 ⟨b, c⟩
    · rw [if_neg hn]; dsimp only; simp only [owns_append]; exact ⟨⟨b, c⟩, qCommitE_owns u h q p⟩

theorem noticePut_owns (s : State) (h : HiveId) (w : W64 × W64) : Owns (noticePut s h w).2 := by
  unfold noticePut
  have c := qPutE_owns s h 0 .device [w.1, w.2]
  generalize qPutE s h 0 .device [w.1, w.2] = r at c ⊢
  dsimp only
  by_cases hn : r.2.2.1 = qOk
  · rw [if_pos hn]; exact c
  · rw [if_neg hn]; simp only [owns_append, owns_cons, owns_nil, and_true]; exact ⟨c, own_q h _ _ (by decide)⟩

theorem noticeE_owns (s : State) (pg off bits : Nat) : Owns (noticeE s pg off bits).2 :=
  (owns_append _ _).2 ⟨qDescE_owns s _ 0, noticePut_owns _ _ _⟩

theorem raiseE_owns (s : State) (pg off bits : Nat) : Owns (raiseE s pg off bits).2 := by
  unfold raiseE
  generalize toldBits s pg off bits = w
  dsimp only
  by_cases hw : w = 0
  · rw [if_pos hw]; exact owns_nil
  · rw [if_neg hw]; exact noticeE_owns _ _ _ _

theorem severeE_owns (s : State) (g src : Nat) : Owns (severeE s g src).2 := by
  unfold severeE; dsimp only
  by_cases h1 : (s.hive (higherClaim s)).dup.fatal = true ∨ srcCeil s g src = 0
  · rw [if_pos h1]; exact (owns_cons _ _).2 ⟨own_grd s 1, owns_nil⟩
  · rw [if_neg h1]
    cases (s.hive (higherClaim s)).guard.record with
    | none => exact (owns_cons _ _).2 ⟨own_grd s 1, owns_nil⟩
    | some r =>
      dsimp only
      refine (owns_cons _ _).2 ⟨own_grd s 1, ?_⟩
      split
      · exact (owns_cons _ _).2 ⟨own_grd s 32, owns_nil⟩
      · exact owns_nil

theorem guardE_owns (s : State) (g src : Nat) : Owns (guardE s g src).2 := by
  unfold guardE
  by_cases hb : (s.source g src).broken = true
  · rw [if_pos hb]; exact owns_nil
  · rw [if_neg hb]
    generalize s.count (grdPage g) Reg.GRD_SRC_CNT 1 src = t
    dsimp only
    split
    · exact severeE_owns _ _ _
    · exact owns_nil

/-- Everything the delivery of events can do, where `K` names the registers they mark beside its own. -/
theorem deliver_quiet (n : Nat) (s : State) (es : List Ev)
    (h : ∀ e ∈ es, EvIn K e ∧ (∀ pg off bits, e = .raise pg off bits → pg % 2 ^ 12 = 0)) : Quiet K s (deliver n s es) := by
  have old {l : List Ev} (hl : Owns l) : ∀ e ∈ l, EvIn K e ∧ (∀ pg off bits, e = .raise pg off bits → pg % 2 ^ 12 = 0) := by
    intro e he
    have o := hl e he
    cases e with
    | raise pg off bits => exact ⟨.inl o.1, fun a b c hc => by cases hc; exact o.2⟩
    | guard g src => exact ⟨trivial, fun a b c hc => by cases hc⟩
  induction n generalizing s es with
  | zero => unfold deliver; exact Quiet.refl _
  | succ n ih =>
    cases es with
    | nil => unfold deliver; exact Quiet.refl _
    | cons e es =>
      have he := h e (List.mem_cons_self ..)
      have hr : ∀ x ∈ es, EvIn K x ∧ (∀ pg off bits, x = .raise pg off bits → pg % 2 ^ 12 = 0) :=
        fun x hx => h x (List.mem_cons_of_mem _ hx)
      cases e with
      | raise pg off bits =>
        unfold deliver
        refine (raiseE_quiet s pg off bits (he.2 _ _ _ rfl) he.1).trans (ih _ _ ?_)
        intro x hx
        rcases List.mem_append.1 hx with hx | hx
        · exact hr x hx
        · exact old (raiseE_owns s pg off bits) x hx
      | guard g src =>
        unfold deliver
        refine (guardE_quiet s g src).trans (ih _ _ ?_)
        intro x hx
        rcases List.mem_append.1 hx with hx | hx
        · exact hr x hx
        · exact old (guardE_owns s g src) x hx

/-- Everything that the delivery of an operation's own events can do. -/
theorem settleN_quiet (n : Nat) (s : State) (es : List Ev) (h : Owns es) : Quiet K s (deliver n s es) := by
  refine deliver_quiet _ _ _ ?_
  intro e he
  have o := h e he
  cases e with
  | raise pg off bits => exact ⟨.inl o.1, fun a b c hc => by cases hc; exact o.2⟩
  | guard g src => exact ⟨trivial, fun a b c hc => by cases hc⟩

/-- Everything that raising a bit can do. -/
theorem raise_quiet (s : State) (pg off bits : Nat) (hp : pg % 2 ^ 12 = 0) :
    Quiet (fun k => k = rkey pg off 0) s (raise s pg off bits) := by
  refine deliver_quiet _ _ _ ?_
  intro e he
  rw [List.mem_singleton] at he
  subst he
  exact ⟨.inr rfl, fun a b c hc => by cases hc; exact hp⟩

/-- Everything that one event of a guard source can do. -/
theorem guardEvent_quiet (s : State) (g src : Nat) : Quiet K s (guardEvent s g src) := by
  refine deliver_quiet _ _ _ ?_
  intro e he
  rw [List.mem_singleton] at he
  subst he
  exact ⟨trivial, fun a b c hc => by cases hc⟩

theorem settle_quiet (s : State) (es : List Ev) (h : Owns es) : Quiet K s (settle s es) := settleN_quiet _ _ _ h

/-! ### What reads give after a bit is raised -/

theorem Quiet.reg {s t : State} (q : Quiet K s t) (pg off i : Nat) (h : noted (rkey pg off i) = false) (k : ¬ K (rkey pg off i)) :
    t.reg pg off i = s.reg pg off i := by
  unfold State.reg; rw [q.regs _ h k]

theorem Quiet.presented {s t : State} (q : Quiet K s t) (h : HiveId) : presented t h = presented s h := by
  have hd : (t.hive h).dup = (s.hive h).dup := by have := q.hive h; unfold HiveKeeps at this; tauto
  unfold Machine.presented State.domain
  rw [hd, q.domains]

/-- Delivery of events never changes which hive is active. -/
theorem Quiet.higherClaim {s t : State} (q : Quiet K s t) : higherClaim t = higherClaim s := by
  unfold Machine.higherClaim; rw [q.presented, q.presented]

/-- The bits raised are set; the register's other bits keep their value. -/
theorem raise_reg (s : State) (pg off bits : Nat) (hp : pg % 2 ^ 12 = 0) (hn : noted (rkey pg off 0) = false) :
    (raise s pg off bits).reg pg off 0 = s.reg pg off 0 ||| w32 bits := by
  have h1 : Quiet (fun _ => False) (raiseE s pg off bits).1 (raise s pg off bits) := by
    have e : raise s pg off bits = deliver 399 (raiseE s pg off bits).1 ([] ++ (raiseE s pg off bits).2) := rfl
    rw [e]
    exact settleN_quiet 399 _ _ ((owns_append _ _).2 ⟨owns_nil, raiseE_owns s pg off bits⟩)
  rw [h1.reg pg off 0 hn (fun h => h)]
  unfold raiseE
  generalize toldBits s pg off bits = w
  dsimp only
  by_cases hw : w = 0
  · rw [if_pos hw]; simp
  · rw [if_neg hw]
    have h2 : Quiet (fun _ => False) (s.setReg pg off (s.reg pg off ||| w32 bits))
        (noticeE ((s.setReg pg off (s.reg pg off ||| w32 bits)).count pg Reg.EVT_COUNT) pg off w.toNat).1 :=
      (quiet_count _ _ _ _ _ (.inl (evt_noted pg hp))).trans (noticeE_quiet _ _ _ _)
    rw [h2.reg pg off 0 hn (fun h => h)]; simp

/-- A register that no event is kept in reads as before after a bit of another is raised. -/
theorem raise_reg_other (s : State) (pg off bits pg' off' i : Nat) (hp : pg % 2 ^ 12 = 0) (hn : noted (rkey pg' off' i) = false)
    (hk : rkey pg' off' i ≠ rkey pg off 0) : (raise s pg off bits).reg pg' off' i = s.reg pg' off' i :=
  (raise_quiet s pg off bits hp).reg _ _ _ hn hk

theorem guardEvent_reg (s : State) (g src pg off i : Nat) (hn : noted (rkey pg off i) = false) :
    (guardEvent s g src).reg pg off i = s.reg pg off i := (guardEvent_quiet (K := fun _ => False) s g src).reg _ _ _ hn (fun h => h)

@[simp] theorem raise_cell (s : State) (pg off bits k : Nat) (hp : pg % 2 ^ 12 = 0) : (raise s pg off bits).cell k = s.cell k := by
  unfold State.cell; rw [(raise_quiet s pg off bits hp).cells]
@[simp] theorem raise_cal (s : State) (pg off bits k : Nat) (hp : pg % 2 ^ 12 = 0) : (raise s pg off bits).cal k = s.cal k := by
  unfold State.cal; rw [(raise_quiet s pg off bits hp).cals]
@[simp] theorem raise_block (s : State) (pg off bits k : Nat) (hp : pg % 2 ^ 12 = 0) : (raise s pg off bits).block k = s.block k := by
  unfold State.block; rw [(raise_quiet s pg off bits hp).blocks]
@[simp] theorem raise_comb (s : State) (pg off bits k : Nat) (hp : pg % 2 ^ 12 = 0) : (raise s pg off bits).comb k = s.comb k := by
  unfold State.comb; rw [(raise_quiet s pg off bits hp).combs]
@[simp] theorem raise_lane (s : State) (pg off bits k : Nat) (hp : pg % 2 ^ 12 = 0) : (raise s pg off bits).lane k = s.lane k := by
  unfold State.lane; rw [(raise_quiet s pg off bits hp).lanes]
@[simp] theorem raise_domain (s : State) (pg off bits k : Nat) (hp : pg % 2 ^ 12 = 0) : (raise s pg off bits).domain k = s.domain k := by
  unfold State.domain; rw [(raise_quiet s pg off bits hp).domains]
@[simp] theorem raise_hk (s : State) (pg off bits k : Nat) (hp : pg % 2 ^ 12 = 0) : (raise s pg off bits).hk k = s.hk k := by
  unfold State.hk; rw [(raise_quiet s pg off bits hp).hks]
@[simp] theorem raise_pending (s : State) (pg off bits : Nat) (hp : pg % 2 ^ 12 = 0) : (raise s pg off bits).pending = s.pending :=
  (raise_quiet s pg off bits hp).pending
@[simp] theorem raise_tick (s : State) (pg off bits : Nat) (hp : pg % 2 ^ 12 = 0) : (raise s pg off bits).tick = s.tick :=
  (raise_quiet s pg off bits hp).tick
@[simp] theorem raise_staged (s : State) (pg off bits : Nat) (hp : pg % 2 ^ 12 = 0) : (raise s pg off bits).staged = s.staged :=
  (raise_quiet s pg off bits hp).staged
@[simp] theorem raise_upsets (s : State) (pg off bits : Nat) (hp : pg % 2 ^ 12 = 0) : (raise s pg off bits).upsets = s.upsets :=
  (raise_quiet s pg off bits hp).upsets
@[simp] theorem raise_sels (s : State) (pg off bits : Nat) (hp : pg % 2 ^ 12 = 0) : (raise s pg off bits).sels = s.sels :=
  (raise_quiet s pg off bits hp).sels
@[simp] theorem raise_paths (s : State) (pg off bits : Nat) (hp : pg % 2 ^ 12 = 0) : (raise s pg off bits).paths = s.paths :=
  (raise_quiet s pg off bits hp).paths
@[simp] theorem raise_stalls (s : State) (pg off bits : Nat) (hp : pg % 2 ^ 12 = 0) : (raise s pg off bits).stalls = s.stalls :=
  (raise_quiet s pg off bits hp).stalls
@[simp] theorem raise_cells (s : State) (pg off bits : Nat) (hp : pg % 2 ^ 12 = 0) : (raise s pg off bits).cells = s.cells :=
  (raise_quiet s pg off bits hp).cells
@[simp] theorem raise_cals (s : State) (pg off bits : Nat) (hp : pg % 2 ^ 12 = 0) : (raise s pg off bits).cals = s.cals :=
  (raise_quiet s pg off bits hp).cals
@[simp] theorem raise_blocks (s : State) (pg off bits : Nat) (hp : pg % 2 ^ 12 = 0) : (raise s pg off bits).blocks = s.blocks :=
  (raise_quiet s pg off bits hp).blocks
@[simp] theorem raise_combs (s : State) (pg off bits : Nat) (hp : pg % 2 ^ 12 = 0) : (raise s pg off bits).combs = s.combs :=
  (raise_quiet s pg off bits hp).combs
@[simp] theorem raise_lanes (s : State) (pg off bits : Nat) (hp : pg % 2 ^ 12 = 0) : (raise s pg off bits).lanes = s.lanes :=
  (raise_quiet s pg off bits hp).lanes
@[simp] theorem raise_domains (s : State) (pg off bits : Nat) (hp : pg % 2 ^ 12 = 0) : (raise s pg off bits).domains = s.domains :=
  (raise_quiet s pg off bits hp).domains
@[simp] theorem raise_hks (s : State) (pg off bits : Nat) (hp : pg % 2 ^ 12 = 0) : (raise s pg off bits).hks = s.hks :=
  (raise_quiet s pg off bits hp).hks
@[simp] theorem raise_chip (s : State) (pg off bits : Nat) (hp : pg % 2 ^ 12 = 0) : (raise s pg off bits).chip = s.chip :=
  (raise_quiet s pg off bits hp).chip
@[simp] theorem guardEvent_cell (s : State) (g src k : Nat) : (guardEvent s g src).cell k = s.cell k := by
  unfold State.cell; rw [(guardEvent_quiet (K := fun _ => False) s g src).cells]
@[simp] theorem guardEvent_cal (s : State) (g src k : Nat) : (guardEvent s g src).cal k = s.cal k := by
  unfold State.cal; rw [(guardEvent_quiet (K := fun _ => False) s g src).cals]
@[simp] theorem guardEvent_block (s : State) (g src k : Nat) : (guardEvent s g src).block k = s.block k := by
  unfold State.block; rw [(guardEvent_quiet (K := fun _ => False) s g src).blocks]
@[simp] theorem guardEvent_comb (s : State) (g src k : Nat) : (guardEvent s g src).comb k = s.comb k := by
  unfold State.comb; rw [(guardEvent_quiet (K := fun _ => False) s g src).combs]
@[simp] theorem guardEvent_lane (s : State) (g src k : Nat) : (guardEvent s g src).lane k = s.lane k := by
  unfold State.lane; rw [(guardEvent_quiet (K := fun _ => False) s g src).lanes]
@[simp] theorem guardEvent_domain (s : State) (g src k : Nat) : (guardEvent s g src).domain k = s.domain k := by
  unfold State.domain; rw [(guardEvent_quiet (K := fun _ => False) s g src).domains]
@[simp] theorem guardEvent_hk (s : State) (g src k : Nat) : (guardEvent s g src).hk k = s.hk k := by
  unfold State.hk; rw [(guardEvent_quiet (K := fun _ => False) s g src).hks]
@[simp] theorem guardEvent_pending (s : State) (g src : Nat) : (guardEvent s g src).pending = s.pending :=
  (guardEvent_quiet (K := fun _ => False) s g src).pending
@[simp] theorem guardEvent_tick (s : State) (g src : Nat) : (guardEvent s g src).tick = s.tick :=
  (guardEvent_quiet (K := fun _ => False) s g src).tick
@[simp] theorem guardEvent_staged (s : State) (g src : Nat) : (guardEvent s g src).staged = s.staged :=
  (guardEvent_quiet (K := fun _ => False) s g src).staged
@[simp] theorem guardEvent_upsets (s : State) (g src : Nat) : (guardEvent s g src).upsets = s.upsets :=
  (guardEvent_quiet (K := fun _ => False) s g src).upsets
@[simp] theorem guardEvent_sels (s : State) (g src : Nat) : (guardEvent s g src).sels = s.sels :=
  (guardEvent_quiet (K := fun _ => False) s g src).sels
@[simp] theorem guardEvent_paths (s : State) (g src : Nat) : (guardEvent s g src).paths = s.paths :=
  (guardEvent_quiet (K := fun _ => False) s g src).paths
@[simp] theorem guardEvent_stalls (s : State) (g src : Nat) : (guardEvent s g src).stalls = s.stalls :=
  (guardEvent_quiet (K := fun _ => False) s g src).stalls
@[simp] theorem guardEvent_cells (s : State) (g src : Nat) : (guardEvent s g src).cells = s.cells :=
  (guardEvent_quiet (K := fun _ => False) s g src).cells
@[simp] theorem guardEvent_cals (s : State) (g src : Nat) : (guardEvent s g src).cals = s.cals :=
  (guardEvent_quiet (K := fun _ => False) s g src).cals
@[simp] theorem guardEvent_blocks (s : State) (g src : Nat) : (guardEvent s g src).blocks = s.blocks :=
  (guardEvent_quiet (K := fun _ => False) s g src).blocks
@[simp] theorem guardEvent_combs (s : State) (g src : Nat) : (guardEvent s g src).combs = s.combs :=
  (guardEvent_quiet (K := fun _ => False) s g src).combs
@[simp] theorem guardEvent_lanes (s : State) (g src : Nat) : (guardEvent s g src).lanes = s.lanes :=
  (guardEvent_quiet (K := fun _ => False) s g src).lanes
@[simp] theorem guardEvent_domains (s : State) (g src : Nat) : (guardEvent s g src).domains = s.domains :=
  (guardEvent_quiet (K := fun _ => False) s g src).domains
@[simp] theorem guardEvent_hks (s : State) (g src : Nat) : (guardEvent s g src).hks = s.hks :=
  (guardEvent_quiet (K := fun _ => False) s g src).hks
@[simp] theorem guardEvent_chip (s : State) (g src : Nat) : (guardEvent s g src).chip = s.chip :=
  (guardEvent_quiet (K := fun _ => False) s g src).chip

/-! ### Pages start at multiples of 4 KiB -/

@[simp] theorem page_mod (r g i : Nat) : page r g i % 2 ^ 12 = 0 := by simp only [page]; omega

end Sys2Proof.Machine
end

