-- ==== Sys2Proof/Laws/Access.lean ====
section
/-! SUPPORT. What carrying an access adds to what the register does: the path's note of the result, the port's report, the vote
of the domain, and nothing else. -/

namespace Sys2Proof.Machine

theorem Near.refl (s : State) : Near s s := by constructor <;> intros <;> rfl

theorem Near.trans {s t u : State} (h : Near s t) (k : Near t u) : Near s u where
  pending := k.pending.trans h.pending
  tick := k.tick.trans h.tick
  regs := k.regs.trans h.regs
  staged := k.staged.trans h.staged
  upsets := k.upsets.trans h.upsets
  sels := k.sels.trans h.sels
  stalls := k.stalls.trans h.stalls
  hiveA := k.hiveA.trans h.hiveA
  hiveB := k.hiveB.trans h.hiveB
  cells := k.cells.trans h.cells
  cals := k.cals.trans h.cals
  blocks := k.blocks.trans h.blocks
  combs := k.combs.trans h.combs
  lanes := k.lanes.trans h.lanes
  workers := k.workers.trans h.workers
  regions := k.regions.trans h.regions
  hks := k.hks.trans h.hks
  domain := fun d => by rw [k.domain d, h.domain d]
  path := fun p => by rw [k.path p, h.path p]
  chip := by rw [k.chip, h.chip]

theorem near_touch (d : Nat) (s : State) : Near s (touchDomain d s) := by
  unfold touchDomain
  split
  · constructor
    case domain =>
      intro k; unfold touch; rw [State.modDomain_eq, State.setDomain_domain]; split
      · rename_i e; subst e; rfl
      · rfl
    all_goals (intros; rfl)
  · exact Near.refl s

theorem near_note (p : Path) (st : Nat) (x : W32) (s : State) : Near s (noteResult p st x s) := by
  constructor
  case path =>
    intro q; unfold noteResult; rw [State.modPath_eq, State.setPath_path]; split
    · rename_i e; unfold State.path; rw [e]
    · rfl
  all_goals (intros; rfl)

theorem near_mgt (f : Mgt → Mgt) (s : State) : Near s (s.modMgt f) := by constructor <;> intros <;> rfl

theorem near_select (ir : BitVec 8) (s : State) (h : s.chip.extest = false) : Near s (jtagSelect ir s) := by
  unfold jtagSelect
  rw [h]
  constructor <;> intros <;> rfl

theorem near_dr (st : Nat) (x : W32) (s : State) : Near s (accessDr st x s) := by constructor <;> intros <;> rfl

/-- What an access to a served page does lies between two states that differ from it in the carrying alone. -/
theorem access_near (p : Path) (op : Nat) (a v : W32) (dest pg : Nat) (s : State) (hp : pageOf s a = some pg)
    (hg : (if p = .startup then Gate.serve else gate s (pageDomain pg)) = .serve) :
    ∃ s', Near s s' ∧ access p op a v dest s = ((perform p op pg (keyOff a.toNat) v s').1, some (perform p op pg (keyOff a.toNat) v s').2) := by
  refine ⟨touchDomain (pageDomain pg) s, near_touch _ _, ?_⟩
  unfold access
  rw [hp]
  dsimp only
  rw [hg]

theorem near_pageOf {s t : State} (h : Near s t) (a : W32) : pageOf t a = pageOf s a := by
  have hh : higherClaim t = higherClaim s := by
    have : ∀ k, presented t k = presented s k := by
      intro k
      have hd : (t.hive k).dup = (s.hive k).dup := by cases k <;> simp only [State.hive, h.hiveA, h.hiveB]
      unfold presented
      rw [hd, h.domain]
    unfold higherClaim; rw [this, this]
  unfold pageOf; rw [hh]

theorem near_gate {s t : State} (h : Near s t) (d : Nat) : gate t d = gate s d := by
  unfold gate; rw [h.domain d, h.chip]

/-- A path that carries an access at once to a page it reaches: the access is served between two such states. -/
theorem pathAccess_near (p : Path) (op pg : Nat) (a v : W32) (s : State) (hf : pathFree s p = true)
    (hj : p = .jtag → s.chip.extest = false ∧ (op = opWrite ∨ op = opDebug)) (hp : pageOf s a = some pg)
    (hg : (if p = .startup then Gate.serve else gate s (pageDomain pg)) = .serve) :
    ∃ s', Near s s' ∧ Near (perform p op pg (keyOff a.toNat) v s').1 (pathAccess p op a v s) := by
  have hs : tfind s.stalls (pathNo p) = none := by
    unfold pathFree at hf; simp only [Bool.and_eq_true, Option.isNone_iff_eq_none] at hf; exact hf.2
  have plain (hm : pathAccess p op a v s = match access p op a v 0 s with
      | (s, some (st, x)) => noteResult p st x s
      | (s, none) => s) : ∃ s', Near s s' ∧ Near (perform p op pg (keyOff a.toNat) v s').1 (pathAccess p op a v s) := by
    obtain ⟨s', h1, h2⟩ := access_near p op a v 0 pg s hp hg
    refine ⟨s', h1, ?_⟩
    rw [hm, h2]
    exact near_note _ _ _ _
  cases p with
  | lane n => exact plain (by simp only [pathAccess, hf]; rfl)
  | startup => exact plain (by simp only [pathAccess, hf]; rfl)
  | worker n => exact plain (by simp only [pathAccess, hf]; rfl)
  | jtag =>
    obtain ⟨hx, ho⟩ := hj rfl
    have n1 : Near s (jtagSelect irAccess s) := near_select _ _ hx
    obtain ⟨s', h1, h2⟩ := access_near .jtag op a v 0 pg (jtagSelect irAccess s) (by rw [near_pageOf n1]; exact hp)
      (by rw [near_gate n1]; exact hg)
    have e : (if op = opWrite then opWrite else opDebug) = op := by rcases ho with h | h <;> subst h <;> rfl
    refine ⟨s', n1.trans h1, ?_⟩
    simp only [pathAccess, regAccess, hf, e, h2, Bool.not_true, Bool.false_eq_true, if_false]
    exact (near_note _ _ _ _).trans (near_dr _ _ _)
  | mgmt =>
    have hm : mgtPowered s = true := by
      unfold pathFree at hf; unfold mgtPowered
      simp only [Bool.and_eq_true] at hf ⊢; exact hf.1
    have n1 : Near s (mgtOpen s) := near_mgt _ _
    have n2 := n1.trans (near_mgt (fun m => { m with state := 2, astat := 0, seq := m.seq + 1, addr := a, data := 0 }) (mgtOpen s))
    obtain ⟨s', h1, h2⟩ := access_near .mgmt op a v 0 pg _ (by rw [near_pageOf n2]; exact hp) (by rw [near_gate n2]; exact hg)
    refine ⟨s', n2.trans h1, ?_⟩
    have hs' : tfind (mgtOpen s).stalls 32 = none := hs
    simp only [pathAccess, mgtFrame, hm, if_true, mgtExecute, hs', Option.isSome_none, Bool.false_eq_true, if_false, h2]
    exact (near_mgt _ _).trans (near_note _ _ _ _)

end Sys2Proof.Machine
end

