-- ==== Sys2Proof/Safety.lean ====
section
/-! DEFINITION. What counts as a safe run: no command stops the block. -/

namespace Sys2Proof.Safety

open Sys2Proof.Machine

/-- A step that answers a next state. -/
def stepSafe (s : State) : Prop := ∃ t, step s = .next t

/-- A run of `n` steps that stops nowhere. -/
def runSafe : Nat → State → Prop
  | 0, _ => True
  | n + 1, s => ∃ t, step s = .next t ∧ runSafe n t

end Sys2Proof.Safety
end

