-- ==== Sys2Proof/Tests/Slice0.lean ====
section
/-! SUPPORT. The model's own tests: ill-formed commands, the manual's worked examples, single steps, and for every obligation
states and operands that meet the hypotheses of each of its clauses. -/

open Sys2Proof Sys2Proof.Machine Sys2Proof.Claims
namespace Sys2Proof.Tests
set_option maxRecDepth 20000

def wordReadsB (s : State) (h : HiveId) (w : Nat) (x : W64) : Bool :=
  (holders s h (w / 8)).isEmpty && !(s.honey h).retiredAt w && (s.honey h).writeback.isNone &&
    (match (s.honey h).merge.find? (fun m => m.waddr = w) with
    | some m => decide (m.data = x)
    | none => decide ((s.honey h).stateOf w = .valid ∧ tget [] (s.honey h).err w = [] ∧ (s.honey h).data w = x) ||
        decide ((s.honey h).stateOf w = .invalid ∧ x = unwritten s w))

/-- Four facts and the rest of a conjunction. -/
theorem four {a b c d r : Prop} (h : a ∧ b ∧ c ∧ d) (hr : r) : a ∧ b ∧ c ∧ d ∧ r := ⟨h.1, h.2.1, h.2.2.1, h.2.2.2, hr⟩

theorem wordReads_of {s : State} {h : HiveId} {w : Nat} {x : W64} (hb : wordReadsB s h w x = true) : WordReads s h w x := by
  simp only [wordReadsB, Bool.and_eq_true, List.isEmpty_iff, Bool.not_eq_true', Option.isNone_iff_eq_none] at hb
  obtain ⟨⟨⟨h1, h2⟩, h3⟩, h4⟩ := hb
  refine ⟨⟨h1, h2, h3⟩, ?_, ?_⟩
  · intro m hm
    rw [hm] at h4
    exact of_decide_eq_true h4
  · intro hm
    rw [hm] at h4
    rcases Bool.or_eq_true _ _ ▸ h4 with h5 | h5
    · exact Or.inl (of_decide_eq_true h5)
    · exact Or.inr (of_decide_eq_true h5)

def queueAtB (s : State) (h : HiveId) (q : Nat) (d0 : W64) (hd tl rs : BitVec 32) : Bool :=
  wordReadsB s h (4 * q) d0 && wordReadsB s h (4 * q + 1) (ptrWord hd) && wordReadsB s h (4 * q + 2) (ptrWord tl) && wordReadsB s h (4 * q + 3) (ptrWord rs)

theorem queueAt_of {s : State} {h : HiveId} {q : Nat} {d0 : W64} {hd tl rs : BitVec 32} (hb : queueAtB s h q d0 hd tl rs = true) :
    QueueAt s h q d0 hd tl rs := by
  simp only [queueAtB, Bool.and_eq_true] at hb
  obtain ⟨⟨⟨h1, h2⟩, h3⟩, h4⟩ := hb
  exact ⟨wordReads_of h1, wordReads_of h2, wordReads_of h3, wordReads_of h4⟩

def openToB (s : State) (h : HiveId) (q : Nat) (p : Producer) (d0 : W64) : Bool :=
  (qClass q).isSome && qEnabled s h q d0 && decide (2 ^ 18 ≤ d0Base d0 * 8) &&
    (match p with | .path n => (tfind (s.queue h q).owed n).isNone | _ => true)

theorem openTo_of {s : State} {h : HiveId} {q : Nat} {p : Producer} {d0 : W64} (hb : openToB s h q p d0 = true) :
    QueueOpenTo s h q p d0 := by
  simp only [openToB, Bool.and_eq_true, decide_eq_true_eq] at hb
  obtain ⟨⟨⟨h1, h2⟩, h3⟩, h4⟩ := hb
  refine ⟨h1, h2, h3, ?_⟩
  intro n hn
  subst hn
  simpa [Option.isNone_iff_eq_none] using h4

theorem canPut_of {s : State} {h : HiveId} {q : Nat} {d0 : W64} {hd tl : BitVec 32} {n : Nat}
    (hb : queueAtB s h q d0 hd tl tl = true ∧ openToB s h q .device d0 = true ∧ (s.queue h q).opened = none ∧ n ≠ 0 ∧
      n + 1 ≤ 2 ^ d0Size d0 - 1 ∧ n < 2 ^ 24 ∧ n + 1 ≤ roomOf d0 hd tl ∧
      ∀ i, i ≤ n → holders s h (ringAddr d0 (ringPos tl i) / 8) = [] ∧ (s.honey h).retiredAt (ringAddr d0 (ringPos tl i)) = false ∧
        (s.honey h).writeback = none) : CanPut s h q d0 hd tl n :=
  ⟨queueAt_of hb.1, openTo_of hb.2.1, hb.2.2⟩

theorem hives {P : HiveId → Prop} (ha : P .a) (hb : P .b) : ∀ h, P h := by
  intro h
  cases h
  · exact ha
  · exact hb

theorem noRecord {s : State} {g : Nat} {f : BitVec 40}
    (hb : ((List.range 12).all fun i => (s.input (12 * g + i)).all fun m =>
      match m with | .record r _ => decide (r.frame ≠ f) | .floor _ _ => true) = true) :
    ∀ (i : ℕ) (r : StoreRec) (fl : ℤ), i < 12 → MItem.record r fl ∈ s.input (12 * g + i) → r.frame ≠ f := by
  intro i r fl hi hm
  have h := List.all_eq_true.mp (List.all_eq_true.mp hb i (List.mem_range.mpr hi)) _ hm
  exact of_decide_eq_true h

theorem otherHeads {s : State} {g k : Nat} {u : Int}
    (hb : ((List.range 12).all fun j => match s.input (12 * g + j) with
      | x :: _ => decide ((j < k → u < x.fu) ∧ (k < j → u ≤ x.fu)) | [] => true) = true) :
    ∀ j < 12, ∀ (x : MItem) (more : List MItem), s.input (12 * g + j) = x :: more → (j < k → u < x.fu) ∧ (k < j → u ≤ x.fu) := by
  intro j hj x more hx
  have h := List.all_eq_true.mp hb j (List.mem_range.mpr hj)
  rw [hx] at h
  exact of_decide_eq_true h

def rdW (s : State) (h : HiveId) (w : Nat) : W64 :=
  match (s.honey h).merge.find? (fun m => m.waddr = w) with
  | some m => m.data
  | none => if (s.honey h).stateOf w = .invalid then unwritten s w else (s.honey h).data w

theorem noticesOpen_of {s : State}
    (hb : (let h := higherClaim s; let d := rdW s h 0; queueAtB s h 0 d ((rdW s h 1).setWidth 32) ((rdW s h 2).setWidth 32)
      ((rdW s h 3).setWidth 32) = true ∧ 2 ^ 18 ≤ d0Base d * 8)) : NoticesOpen s :=
  ⟨_, _, _, _, queueAt_of hb.1, hb.2⟩

theorem queuesAt {s : State} {h : HiveId} {a : Nat} {l : List Nat}
    (hb : ((a :: l.map (fun w => 256 + w)).all fun q => queueAtB s h q (rdW s h (4 * q)) ((rdW s h (4 * q + 1)).setWidth 32)
      ((rdW s h (4 * q + 2)).setWidth 32) ((rdW s h (4 * q + 3)).setWidth 32)) = true) :
    ∀ (q : ℕ), (q = a ∨ ∃ w ∈ l, q = 256 + w) →
      ∃ (d0 : W64) (hd : BitVec 32) (tl : BitVec 32) (rs : BitVec 32), QueueAt s h q d0 hd tl rs := by
  intro q hq
  have hm : q ∈ a :: l.map (fun w => 256 + w) := by
    rcases hq with rfl | ⟨w, hw, rfl⟩
    · exact List.mem_cons_self
    · exact List.mem_cons_of_mem _ (List.mem_map_of_mem hw)
  exact ⟨_, _, _, _, queueAt_of (List.all_eq_true.mp hb q hm)⟩

def up : State := { State.reset with chip := { started := true } }
def upT : State := (up.setReg (hivePage .a 0x10) Reg.TIM_OUT_CTL 0x15).modQual (fun q => { q with unsync := false, locked := true })
def setq (s : State) (f : Qual → Qual) : State := s.modQual f
def onC (s : State) (f : Chip → Chip) : State := s.modChip f
def nsec (s : State) (n : Nat) : State := s.modCore (fun c => c.atFu (1024 * (n : Int)))
def candSt (s : State) (c : Nat) (x : Cand) : State := s.modCand c (fun _ => x)
def cfgw (s : State) (g off : Nat) (v : W32) : State := s.setReg (cfgPage g) off v
def blkw (s : State) (b off : Nat) (v : W32) (i : Nat := 0) : State := s.setReg (blkPage b) off v i
def cellSt (s : State) (c : Nat) (x : Cell) : State := s.modCell c (fun _ => x)
def blkSt (s : State) (b : Nat) (x : Block) : State := s.modBlock b (fun _ => x)
def calSt (s : State) (i : Nat) (x : ItpCal) : State := s.modCal i (fun _ => x)
def combSt (s : State) (c : Nat) (x : Comb) : State := s.modComb c (fun _ => x)
def bothH (s : State) (f : Hive → Hive) : State := s.both f
def bothTrig (s : State) (f : Trig → Trig) : State := s.both (fun x => { x with trig := f x.trig })
def laneSt (s : State) (l : Nat) (x : Lane) : State := s.modLane l (fun _ => x)
def hput (s : State) (h : HiveId) (w : Nat) (x : W64) : State := (hWriteE s h agQueue w x).1
def qAt (s : State) (h : HiveId) (q : Nat) (d0 : W64) (hd tl rs : BitVec 32) : State :=
  hput (hput (hput (hput s h (4*q) d0) h (4*q+1) (ptrWord hd)) h (4*q+2) (ptrWord tl)) h (4*q+3) (ptrWord rs)
def qsel (s : State) (p : Path) (n : Nat) := s.setSel p (cfgPage 0x17) Reg.Q_SEL (w32 n)
def D (cls size : Nat) : W64 := d0Of cls 0x20000 size true true
def frSt (s : State) (f : Framer → Framer) : State := s.both (fun x => { x with fr := f x.fr })
def plSt (s : State) (f : Place → Place) : State := s.both (fun x => { x with place := f x.place })
def plw (s : State) (off : Nat) (v : W32) (n : Nat := 0) := s.setReg (cfgPage 0x18) off v n
def lw (s : State) (l off : Nat) (v : W32) := s.setReg (lanePage l) off v
def untx : Machine.PUnit := { rcv := 63, frame := 0, rank := 1, order := 0, queue := 32, pos := 3, len := 4, words := [1,2,3,4], charged := true }
def mixL : List TxPacket := [⟨1, .unit untx true true, 5, [1,2,3,4], 0, 3, 0⟩, ⟨1, .dump [5,6] true true, 5, [5,6], 1, 3, 0⟩, ⟨3, .response, 0, [5], 2, 3, 0⟩, ⟨4, .waggle (some 5), 0, [5], 3, 3, 0⟩, ⟨5, .swarm, 0, [5, 6], 4, 3, 0⟩]
def upL (s : State) (l : Nat) : State := laneSt (lw s l Reg.LNK_CFG 0x9) l { state := .up, lock := true, pLstate := 2, retry := mixL, waiting := mixL.map (fun p => { p with seq := 0 }), nextSeq := 5, expect := 255, ack := some 254 }

/-! ### Ill-formed commands are refused -/

theorem test_wf_frameBoundary : Instr.wf (.frameBoundary [1, 2, 3]) = false := by decide
theorem test_wf_startup : Instr.wf (.startup [1, 2, 3, 4, 5, 6, 65536]) = false := by decide
theorem test_wf_edges_none : Instr.wf (.discriminatorEdge 0 []) = false := by decide
theorem test_wf_packet : Instr.wf (.packetReceive 0 []) = false := by decide
theorem test_wf_budget : Instr.wf (.budgetInterval [(8, 0)]) = false := by decide
theorem test_wf_hk : Instr.wf (.hkConversion 0 32768 0) = false := by decide
theorem test_wf_spi : Instr.wf (.spiErr 65537 0) = false := by decide
theorem test_wf_good : Instr.wf (.startup [1, 2, 3, 4, 5, 6, 65535]) = true := by decide

/-! ### The worked examples of the manual -/

/-- 00_scope.md R9: the difference of two short times across the wrap. -/
theorem test_shortDiff : shortDiff 0x00000100 0xFFFFFF00 = 512 := by decide +kernel

/-- 02_timebase.md R48, R49: the example's frame number, frame-relative time and short time, k = 16. -/
def stEx : State := cfgw (cfgw up 0x10 Reg.TIM_EPOCH_SEC_LO 1700000000) 0x10 Reg.TIM_FRAME_K 16
def fuEx : Int := (1700000123 * 1000000000 + 456789012) * 1024 + 300
theorem test_frame_number : frameOf stEx fuEx = 1883801 := by decide +kernel
theorem test_frame_rel : frameRel stEx fuEx = 6836524 := by decide +kernel
theorem test_short : shortOf fuEx = 0x0C68512C := by decide +kernel

/-- 03_cells.md R109: the request written after the last sample began is bound in the next segment. -/
def injSt (seg sample start count interval : Nat) (bound : Option Nat) (pend : Option (Nat × Nat)) (t : Nat) : State :=
  { blkSt up 3 { inj := { state := 2, seg := seg, sample := sample, segStart := start, count := count, interval := interval, next := 6, bound := bound, pend := pend } } with tick := t }
theorem test_jump_bound : ((injSample 3 (injSt 5 3 1000 4 1000 none (some (20, 3500)) 4000)).block 3).inj.bound = some 20 := by decide +kernel
theorem test_jump_late : ((injSample 3 (injSt 5 3 1000 4 1000 none (some (30, 4400)) 4400)).block 3).inj.bound = none := by decide +kernel
theorem test_jump_taken : ((segmentEnd 3 (injSt 5 4 1000 4 1000 (some 20) none 5000)).block 3).inj.seg = 20 := by decide +kernel

/-- 04_interpolators.md R131: bin 92 of the example's table. -/
theorem test_table_example : lget (0, 0) (buildTable [(91, 484000), (92, 5300), (93, 1607852)] 2097152) 92 = (14851, 162) := by decide +kernel
theorem test_raw_example : rawTime (some (List.replicate 92 (0, 0) ++ [(14851, 162)])) 92 40961000 = 40960768 := by decide +kernel

/-- 07_frames_compression.md: the example's run of four records. -/
def exWord (c th t tot f : Nat) : W64 := BitVec.ofNat 64 (2 ^ 53 * c + 2 ^ 51 * th + 2 ^ 21 * t + 2 ^ 7 * tot + f)
def exRun : List StoreRec :=
  [(437, 0, 40961596, 2888, 0x20), (437, 1, 40962236, 858, 0x22), (437, 2, 40962876, 296, 0x20), (438, 0, 40963100, 2790, 0x20)].map
    (fun (c, th, t, tot, f) => { word := exWord c th t tot f, fu := t, frame := 0, selected := true, poison := false })
theorem test_block_c1 : lget 0 (compressedBlock false 0 0 57 exRun).1 1 = 0x039002083B000003 := by decide +kernel
theorem test_block_payload : lget 0 (compressedBlock false 0 0 57 exRun).1 3 = 0x007ED44D21F80002 := by decide +kernel
theorem test_cb_record : (exRun[2]?.map (cbRecord 3)) = some 0x6B4E216704A0 := by decide +kernel

/-- 08_queues_placement.md R276: the example's hash. -/
theorem test_hash : plcHash 1883801 3 = 211 := by decide +kernel

/-- 10_time_transfer.md R336, R337: the example's four stamps give th2 = 2,500 and the delay 6,021,376 fu. -/
def wagEx : State := reportSample 0 7 0x12EBDEE6 ((up.setReg (cfgPage 0x1A) Reg.WAG_ASYM 512).modWag 0
  (fun w => { w with txHist := [(7, 0x129000C8)], rxHist := [(0x128BEC36, 0x12300654, true)] }))
theorem test_waggle : (wagEx.wag 0).sumTh2 = 2500 ∧ (wagEx.wag 0).sumD = 6021376 ∧ (wagEx.wag 0).sumRt = 12043264 := by decide +kernel

/-- 16_power_reset.md R513, R514: the estimate of interval I0 in 0.01 W, and the lane that step 3 removes. -/
def budEx : State := (List.range 20).foldl (fun s l => laneSt (plw (lw s l Reg.LNK_CFG (if l < 16 then 1 else 2)) Reg.PLC_RCV_LANES 0xFFFFF 63) l { state := .up, txAwake := true, rxAwake := true, powered := true })
  ((up.setReg pwrPage Reg.PWR_FIXED 15).setReg pwrPage Reg.PWR_THROTTLE_CFG 0x11)
theorem test_budget : powerEst [(300, 92)] budEx = 2602 := by decide +kernel
theorem test_removed : nextRemoved budEx = some 15 := by decide +kernel

/-- 17_housekeeping.md R534–R536: the example's mean and its value. -/
def hkEx : State := ((up.setReg (combPage 1 0x06) Reg.HK_OFFSET 16384 3).setReg (combPage 1 0x06) Reg.HK_GAIN 0x01000000 3)
theorem test_hk : hkCorrect hkEx 1 3 8073216 = 0x007AF000 := by decide +kernel

/-- 15_control.md R472: the example's addresses. -/
theorem test_addr_cell : addrOf (blkPage 27) Reg.CELL_CFG = 0x20103104 := by decide +kernel
theorem test_addr_lane : addrOf (lanePage 17) 0 = 0xF3011000 := by decide +kernel

/-- CRC-32C and CRC-32 of the digits 1 to 9 (the check values published for the two codes of R236 and R300). -/
theorem test_crc32c : crc32c [0x31, 0x32, 0x33, 0x34, 0x35, 0x36, 0x37, 0x38, 0x39] = 0xE3069283 := by decide +kernel
theorem test_crcIeee : crcIeee [0x31, 0x32, 0x33, 0x34, 0x35, 0x36, 0x37, 0x38, 0x39] = 0xCBF43926 := by decide +kernel

/-! ### One step each -/

def nextOf (c : Instr) (s : State) : State :=
  match step { s with pending := [c, .tick] } with
  | .next t => t
  | _ => s
def wkSt (l : List (Nat × W32)) : State := up.modWorker 7 (fun x => { x with state := .running, regs := l, pc := 8 })

theorem test_idle : step up = .next up := rfl
theorem test_first_in_first_out : (nextOf (.pulseTimeout 0 0) up).pending = [.tick] := by decide +kernel
theorem test_add_wraps : wkReg (nextOf (.add 7 3 1 2) (wkSt [(1, 0xFFFFFFFF), (2, 2)])) 7 3 = 1 := by decide +kernel
theorem test_w0_general : wkReg (nextOf (.add 7 0 1 2) (wkSt [(1, 5), (2, 2)])) 7 0 = 7 := by decide +kernel
theorem test_slt_signed : wkReg (nextOf (.slt 7 3 1 2) (wkSt [(1, 0xFFFFFFFF), (2, 0)])) 7 3 = 1 := by decide +kernel
theorem test_sltu : wkReg (nextOf (.sltu 7 3 1 2) (wkSt [(1, 0xFFFFFFFF), (2, 0)])) 7 3 = 0 := by decide +kernel
theorem test_addi_sign : wkReg (nextOf (.addi 7 3 1 0x3FFFF) (wkSt [(1, 5)])) 7 3 = 4 := by decide +kernel
theorem test_mul_pair : wkReg (nextOf (.mul 7 2 1 1) (wkSt [(1, 0xFFFFFFFF)])) 7 2 = 1 ∧ wkReg (nextOf (.mul 7 2 1 1) (wkSt [(1, 0xFFFFFFFF)])) 7 3 = 0 := by decide +kernel
theorem test_mulu_pair : wkReg (nextOf (.mulu 7 2 1 1) (wkSt [(1, 0xFFFFFFFF)])) 7 3 = 0xFFFFFFFE := by decide +kernel
theorem test_reset_behaviour : fld (State.reset.reg chipPage Reg.BEHAVIOUR_LEVEL) 3 0 = 1 := by decide +kernel
theorem test_table_word : decodeTableWord 32 0 = none := rfl


def e0 := cfgw (cfgw (cfgw (cfgw up 0x11 (candCfgReg 2) 1) 0x11 Reg.REF_FTOL 100) 0x11 Reg.REF_PTOL 1000) 0x11 Reg.REF_QUAL_TIME 2
def e1 : State := lw (cfgw e0 0x11 (candCfgReg 1) 0x301) 3 Reg.LNK_CFG 0xD
def pps (s : State) : State := s.bothTb (fun t => {t with lastPps := some 0})
def g2 (x : Cand) : State := modJudge 2 (fun k => { k with gate := some { opened := -5 } }) (candSt e0 2 x)
def arm1 : StepArm := { mode := 1, abs := true, neg := false, frame := 0, sec := 3, nsec := 0, frac := 0, goTick := 0 }
def st0_02 := cfgw (nsec up 5000) 0x10 Reg.TIM_STEP_FRAME_LO 3
def fb1 : State := nsec up 65536
def c1 := blkw up 71 Reg.CELL_CFG 0x3C1 15
def pl2 : Pulse := { th := 2, leadM := 1000, leadLabel := 1000, lead := .known 1500 false, trail := some (.waiting 3) }
def pl : Pulse := { th := 2, leadM := 1000, leadLabel := 1000, lead := .waiting 1 }
def rgSt_03 (s : State) (n : Nat) (x : RgSlot) : State := (s.modRg .a n (fun _ => x)).modRg .b n (fun _ => x)
def rgw_03 (s : State) (off : Nat) (v : W32) (n : Nat) := s.setReg (cfgPage 0x12) off v n
def cm4 : State := rgSt_03 (rgw_03 (blkw c1 71 Reg.CELL_CFG 0x43C1 15) Reg.CAL_RG_CFG (1 + 16 * 1151) 9) 9 { state := 1 }
def pl3 : Pulse := { th := 3, leadM := 0, leadLabel := 0, lead := .known 7 false }
def past (s : State) : State := nsec s 65600
def sl : Slot := { frame := 0, start := 0, stop := 67108864, drainTick := some 0 }
def rw_03 (n : Int) : RawRec := { th := 1, fu := n, tot := 4, flags := 0 }
def nt_03 : NewTable := { itp := 0, table := [], alarm := none, tick := 0 }
def rgw_04 (s : State) (off : Nat) (v : W32) (n : Nat) := s.setReg (cfgPage 0x12) off v n
def rgsel (s : State) (p : Path) (n : Nat) := s.setSel p (cfgPage 0x12) Reg.CAL_RG_SEL (w32 n)
def rgSt_04 (s : State) (n : Nat) (x : RgSlot) : State := (s.modRg .a n (fun _ => x)).modRg .b n (fun _ => x)
def resv : State := cfgw up 0x11 (candCfgReg 2) 1
def gt : RgGate := { opened := 0, origin := some (3, 100) }
def sm : RgSums := ⟨3, 3, 30, 77, 5, 200⟩
def rs0 : RegSlot := { frame := 0, start := 0, stop := 67108864 }
def rs2 : RegSlot := { rs0 with latest := some 1024005 }
def srec (fu : Int) : StoreRec := ⟨0x123456789ABCDEF0, fu, 0, true, true, false⟩
def ins (fu : Int) : List (List MItem) := [[.record (srec fu) 0]] ++ List.replicate 11 [.floor 0 2000000]
def cbl (cr : Nat) : Comb := { slots := [rs2], inputs := ins 5, bundleA := { state := 2, dataCr := cr } , floorSent := 67108864 }
def sl0x : Slot := { frame := 0, start := 0, stop := 67108864 }
def rr : RawRec := { th := 3, fu := 5000, tot := 77, flags := 0x21 }
def rt0 : State := cellSt (blkSt up 71 { slots := [sl0x] }) 1151 { fifo := [rr, rr], wrPos := 2 }
def sl0 : Slot := { frame := 0, start := 0, stop := 67108864 }
def rp_05 : RawRec := { rr with parity := true }
def rt0p : State := cellSt (blkSt (blkw up 71 Reg.CELL_CFG 0x1 15) 71 { slots := [sl0x] }) 1151 { fifo := [rp_05, rr], wrPos := 2, markers := [(0, 1)] }
def sl9 : Slot := { frame := 5, start := 0, stop := 67108864, markers := 0xFFFF, drainTick := some 0, taken := 16777215, mutes := (List.range 16), cut := some 5, lost := true, overrun := some (3,4) }
def rs3 : RegSlot := { frame := 5, start := 0, stop := 67108864, groups := (List.range 12).map (fun i => (i, [0#64])) , reset := true }
def insF : List (List MItem) := [[.record { srec 5 with frame := 9 } 0, .floor 5 3]] ++ List.replicate 11 [.floor 5 2000000, .floor 6 7]
def cutS : State := { (combSt (cellSt (blkSt up 71 { slots := [sl9, sl0], store := [⟨1, 5, 5, true, false, false⟩, ⟨1, 5, 6, true, false, false⟩] }) 1151 { fifo := [{ rr with fu := 5 * 67108864 + 7 }, rr], rdPos := 3, wrPos := 5 }) 5 { slots := [{ rs3 with drainTick := some 0 }], inputs := [[.record { srec 5 with frame := 5 } 0, .floor 5 3]] ++ List.replicate 11 [.floor 5 2000000, .floor 6 7] }) with tick := 8192 }
def fd (k : Nat) : Flit := ⟨k, true, false, 5, false⟩
def tt0 (lag : Int) (h : Int) : State := bothTrig (up.modCore (fun c => c.atFu (8000 * (h + lag)))) (fun t => { t with h := h, entries := [{ line := 0, t := 0, pre := 0, post := 0, lo := 0, hi := 8000 * h, mask := 0, seq := 0, trunc := false, host := false, origins := 0, prim := 0 }] })
def lnw (s : State) (off : Nat) (v : W32) (n : Nat) := s.setReg (cfgPage 0x13) off v n
def ex0 := lnw (nsec up 50000) Reg.TRG_LINE_CFG 0x16 7
def ht (s : State) (x : W32) : State := cfgw s 0x13 Reg.TRG_HOST_TIME x
def ht1 := lnw (lnw (nsec up 50000) Reg.TRG_LINE_CFG 0x3F007 7) Reg.TRG_LINE_WIN 0x00050003 7
def swOn (s : State) : State := (cfgw s 0x14 Reg.SWM_CTL 1)
def sw (w0 w1 : W64) : State := laneSt (nsec up 50000) 19 { rx := [⟨5, 3, 4, [w0, w1]⟩] }
def pk (w0 w1 : W64) : RxPacket := ⟨5, 3, 4, [w0, w1]⟩
def srt (rs : List (List StoreRec)) : List SortBuf := rs.map (fun l => { recs := l, floor := some (0, 60000000), groups := [] })
def fm (o : OpenFrame) (rs : List (List StoreRec)) : State := frSt up (fun x => { x with frames := [o], sorts := srt rs })
def of0 : OpenFrame := { frame := 0, start := 0, stop := 67108864, slot := some 7 }
def rec7 (c t : Nat) : StoreRec := ⟨BitVec.ofNat 64 (2^53 * c + 2^21 * t), t, 0, true, false, false⟩
def of2 : OpenFrame := { of0 with drainTick := some 0, closes := (List.range 6).map (fun i => (i, ([[5#64]], 3#64))) }
def ofn (f : BitVec 40) : OpenFrame := { of0 with frame := f, slot := none }
def more (o : OpenFrame) (s : State) : State := frSt s (fun x => { x with frames := [{ ofn 900 with closed := true, headDone := true, cb128 := true}, o, ofn 901] })
def fm1 := fm of0 [[rec7 0 500], [rec7 200 400], [rec7 400 401, rec7 400 900], [rec7 600 600], [rec7 800 700], [rec7 1000 800]]
def of1 : OpenFrame := { of0 with slot := none, run := [] }
def fm2 := frSt (fm of1 [[rec7 0 500], [rec7 200 400], [rec7 400 401, rec7 400 900], [rec7 600 600], [rec7 800 700], [rec7 1000 800]]) (fun x => { x with frames := [of1] ++ (List.range 8).map (fun i => { of0 with slot := some i, frame := BitVec.ofNat 40 (i+1) }) })
def of3 : OpenFrame := { of2 with headDone := true, closed := true }
def tg_07 (s : State) := bothTrig s (fun t => { t with h := 8389, decided := [{ line := 3, t := 500, pre := 1, post := 1, lo := 0, hi := 900, mask := 0, seq := 5, trunc := false, host := true, origins := 3, prim := 3 }] })
def tl0 := tg_07 (qAt (fm of3 [[],[],[],[],[],[]]) .a 87 (D 3 16) 0xFFFFFFFE 0xFFFFFFFF 0xFFFFFFFF)
def hd0 := tg_07 (qAt (fm of0 [[],[],[],[],[],[]]) .a 87 (D 3 16) 0xFFFFFFFE 0xFFFFFFFF 0xFFFFFFFF)
def js (j : Nat) (b : Job) : State := frSt up (fun x => { x with jobs := [(j, b)], frames := [of0] })
def jb_07 : Job := { state := 1, recs := [rec7 5 100, rec7 900 2000], present := 2 }
def jbA : Job := { jb_07 with recs := [rec7 5 100], present := 1, read := 1 }
def jb2 : Job := { jb_07 with state := 2, outWords := 5 }
def qm (p : Path) (h : HiveId) (q : Nat) (_n : Nat) (w : Nat) (s : State) : State := (s.modQueue h q (fun x => { x with opened := some (.path (pathNo p)), written := w }))
def mrg_07 (s : State) (h : HiveId) (w : Nat) (x : W64) : State := s.modHoney h (fun y => { y with merge := y.merge ++ [⟨w, x, 0xFF, 0⟩] })
def wq : State := ((qm .mgmt .a 1024 0 1 (qAt (qsel up .mgmt 1024) .a 1024 (D 7 4) 5 20 23)).modPath .mgmt (fun x => { x with wTag := some (cfgPage 0x17 + Reg.Q_WDATA_LO), wHold := 0x12345678 }))
def pq : State := hput (qAt (qsel up (.lane 4) 1024) .b 1024 (D 7 4) 0xFFFFFFFF 3 5) .b (ringAddr (D 7 4) 0xFFFFFFFF) 0x123456789ABCDEF0
def pun : Machine.PUnit := { rcv := 63, frame := 0, rank := 1, order := 0, queue := 84, pos := 3, len := 4, words := [] }
def rq_07 (s : State) : State := plSt ((qAt (qsel s .mgmt 84) .a 84 (D 3 7) 5 9 74).modQueue .a 84 (fun x => { x with opened := some .device, written := 5, seq := 7 })) (fun x => { x with waiting := [pun, { pun with queue := 83 }, { pun with words := [1] }] })
def ntc (s : State) : State := qAt s .a 0 (d0Of 0 0x8000 6 true false) 5 5 5
def cq : State := let s := qAt (qAt (qsel up .mgmt 256) .a 256 (d0Of 4 5 6 false false) 1 2 3) .b 256 (d0Of 4 5 6 false false) 1 2 3; s
def pbase : State := laneSt (lw (plw (plw (plw up Reg.PLC_CTL 3) Reg.PLC_RCV_ID 0x1ABCD 63) Reg.PLC_RCV_LANES 0x80000 63) 19 Reg.LNK_CFG 1) 19 { state := .up }
def un : Machine.PUnit := { rcv := 63, frame := 0, rank := 1, order := 0, queue := 32, pos := 3, len := 4 }
def at3 (_s : State) : State := (plSt (hput (hput (hput (hput (qAt pbase .a 32 (D 3 4) 3 9 9) .a (ringAddr (D 3 4) 4) 11) .a (ringAddr (D 3 4) 5) 12) .a (ringAddr (D 3 4) 6) 13) .a (ringAddr (D 3 4) 7) 14) (fun x => { x with waiting := [un], credit := [(63, 4)] }))
def un2 : Machine.PUnit := { un with words := (List.range 130).map (fun i => BitVec.ofNat 64 i), len := 130 }
def xs (n : Nat) : W64 := [11#64, 12, 13, 14].getD n 0
def up1 : State := plSt (hput (hput (hput (hput (qAt pbase .a 32 (D 3 4) 2 9 9) .a (ringAddr (D 3 4) 4) 11) .a (ringAddr (D 3 4) 5) 12) .a (ringAddr (D 3 4) 6) 13) .a (ringAddr (D 3 4) 7) 14) (fun x => { x with waiting := [un], credit := [(63, 4)] })
def dpb : State := plw pbase Reg.PLC_DUMP_RCV 63
def q1 : State := hput (hput (hput (qAt dpb .a 1 (D 2 4) 0xFFFFFFFF 4 4) .a (ringAddr (D 2 4) 0xFFFFFFFF) 0x20000000000) .a (ringAddr (D 2 4) 0) 0x55) .a (ringAddr (D 2 4) 1) 0x66
def qall (s : State) (_ : Nat) : State := s
def jw : W64 := 0x0005_47_0000000000
def jb3 : State := plSt ({ (plw (qAt pbase .a (256+143) (D 4 6) 5 8 8) (Reg.PLC_WRK_MASK_0 + 20) 0x800000) with workers := [(143, { ktab := [(0, 0x10005)] })] }) (fun x => { x with jobsBack := [(5, [(jw, 7)])] })
def mlane (f : Lane → Lane) : State := (upL up 7).modLane 7 f
def swq : State := let s := ((upL up 7).setReg (cfgPage 0x14) (peerReg 3) 0x107); let s := hput (lw s 7 Reg.LNK_CFG 2) .a (4*99) (d0Of 5 0x8000 7 true false); (qPutFixedE s .a 99 [7, 8]).1
def crd (w : W64) : State := plSt (plw (mlane (fun x => { x with rx := [⟨6, 3, 3, [w]⟩] })) Reg.PLC_RCV_ID 0x1ABCD 63) (fun x => { x with restart := [(63, (0x15555, 0xFFFFFFFF))], credit := [(63, 5)] })
def pkt (ty : Nat) (seq : BitVec 8) (ls : Nat) (pay : List W64) (ack : Option (BitVec 8)) : RawPacket :=
  let h := packetHeader ty 9 seq ls false false pay.length 0
  ⟨h, pay, packetTrailer h pay ack false⟩
def car (s : State) (p : RawPacket) : List LineBlock := (scrambleBlocks (s.lane 7).dscr (packetBlocks p)).2
def rq_09b (ws : List W64) (s : State) : State := s.modLane 7 (fun x => { x with rx := [⟨2, 3, 3, ws⟩] })
def rw_09b (op : Nat) (id seq tag : Nat) : W64 := BitVec.ofNat 64 (2^48*id + 2^32*seq + 2^24*tag + 2^22*op)
def rbase : State := (upL up 7).modLane 7 (fun x => { x with retry := [], waiting := [] })
def rwin (x : ReqWindow) (s : State) : State := s.both (fun h => { h with windows := [x] })
def wn (high : BitVec 16) (r : Option (List W64)) : ReqWindow := { id := 1, high := high, seqs := [(2, r)], lastUse := 0 }
def qD0 : W64 := d0Of 6 0x8000 14 true false
def qd (s : State) : State := hput (hput (hput (hput s .a (4*135) qD0) .a (4*135+1) (ptrWord 5)) .a (4*135+2) (ptrWord 12)) .a (4*135+3) (ptrWord 12)
def ad_09b (v : Nat) : W64 := (addrOf (lanePage 19) Reg.LNK_RETRY_TMO) ++ BitVec.ofNat 32 v
def ro : ReqOut := { id := 1, rseq := 2, tag := 3, lane := 7, reqWord := 5, accesses := [], results := [], hive := .a, queued := true }
def rt9 : State := let s := hput (hput (hput (hput rbase .a 540 qD0) .a 541 (ptrWord 0xFFFFFFFF)) .a 542 (ptrWord 2)) .a 543 (ptrWord 2)
  (hput (hput (hput s .a (ringAddr qD0 0xFFFFFFFF) (packetWord 2 6 9)) .a (ringAddr qD0 0) 11) .a (ringAddr qD0 1) 12).modHive .a (fun x => { x with outstanding := [ro], windows := [wn 2 none] })
def rx9 (n : Nat) : W64 := [packetWord 2 6 9, 11, 12].getD n 0
def lwt (s : State) (l : Nat) (v : Nat) : State := lw s l Reg.LNK_CFG (w32 v)
def tl : State := laneSt (lwt (nsec up 1024) 7 0xF) 7 { state := .up, lock := true, txAwake := true, rxAwake := true }
def wg (s : State) (l : Nat) (x : WagLane) : State := s.modWag l (fun _ => x)
def d9 : W64 := d0Of 2 0x8000 6 true false
def mk : RxPacket := ⟨4, 3, 4, [0x15A0000000000000]⟩
def mq (hd tl rs : BitVec 32) : State := let s := wg (tl0) 7 { lastRx := some 5000 }; hput (hput (hput (hput s .a (4*9) d9) .a (4*9+1) (ptrWord hd)) .a (4*9+2) (ptrWord tl)) .a (4*9+3) (ptrWord rs)
  where tl0 : State := laneSt (lwt (nsec up 1024) 7 0xF) 7 { state := .up, lock := true, txAwake := true, rxAwake := true, rx := [⟨4,3,3,[0]⟩, mk] }
def mqq (hd tl : BitVec 32) : State := mq hd tl tl
def lb (x : BitVec 56) : LineBlock := ⟨0b10, (scramble 0 (x ++ 0x4B#8)).2⟩
def tbk (sync depth : Nat) : BitVec 56 := timingBlock 77 sync depth 0x12345678
def rp_10 (ws : List W64) : RxPacket := ⟨4, 3, 4, ws⟩
def rpL (ws : List W64) (v : WagLane) : State := wg (laneSt (lwt (nsec up 1024) 7 0xF) 7 { state := .up, lock := true, txAwake := true, rxAwake := true, rx := [mk, rp_10 ws] }) 7 v
def w0r : W64 := 0x0AB1234300000000
def ent (j : Nat) (t4 : Nat) : W64 := BitVec.ofNat 64 (2^56*j + 2^32 + t4)
def ww := [w0r, ent 4 900] ++ List.replicate 15 (0 : W64)
def vv : WagLane := { txHist := [(4, 0), (4, 100), (5, 7)], rxHist := [(90, 50, true), (95, 53, true), (99, 1, false), (101, 3, true)] }
def sv (s : State) (f : Servo → Servo) : State := s.bothServo f
def cs (sum : Int) (n : Nat) (s : State) : State := s.modCore (fun c => { c with sum := BitVec.ofInt 64 sum, num := BitVec.ofNat _ n })
def se (ctl : W32) (c : Nat) (f : Servo → Servo) : State := sv ((cfgw (nsec up (1024 * 1024)) 0x1A Reg.WAG_CTL ctl).bothTb (fun t => { t with sel := some c })) f
def z15 : List W64 := List.replicate 15 0
def wkS_12 (s : State) (w : Nat) (f : Worker → Worker) : State := s.modWorker w f
def run1_12 (w : Nat) (f : Worker → Worker) (s : State := up) : State := wkS_12 s w (fun x => f { x with state := .running })
def rg_12 (l : List (Nat × W32)) (s : Worker) : Worker := { s with regs := l, pc := 8 }
def wA := run1_12 7 (rg_12 [(1, 0x80000001), (2, 0xFFFFFFE3), (3, 4)])
def mm (x : Worker) : Worker := { x with imem := [(0, 3), (7, 4), (0x7FFF, 9)], dmem := [(0, 1), (1, 2), (7, 8), (0xFFFF, 1)] }
def ln8 (h : HiveId) : State := (List.range 8).foldl (fun s i => hput s h (480 + i) (BitVec.ofNat 64 (0x1122334455667700+i))) up
def dnA (s : State) : State := s.modDomain 6 (fun d => { d with state := .sleep })
def st0_12 (s : State) : State := (List.range 20).foldl (fun s i => hput s .a (0x30000 + i) (BitVec.ofNat 64 (i+7))) s
def wkS_13 (s : State) (w : Nat) (f : Worker → Worker) : State := s.modWorker w f
def run1_13 (w : Nat) (f : Worker → Worker) (s : State := up) : State := wkS_13 s w (fun x => f { x with state := .running })
def rg_13 (l : List (Nat × W32)) (s : Worker) : Worker := { s with regs := l, pc := 8 }
def D5_13 := D 5 4
def qU_13 (hd tl rs : BitVec 32) : State := qAt up .a 1024 D5_13 hd tl rs
def opq (w n : Nat) (s : State) := s.modQueue .a 1024 (fun q => { q with opened := some (.path (64+w)), written := n })
def j0 : W64 := 0x0005_47_00_89ABCDEF
def jb_12b (s : State) : State := hput (hput (hput (qAt s .a 263 (D 4 4) 2 5 5) .a (ringAddr (D 4 4) 2) (packetWord 2 7 9)) .a (ringAddr (D 4 4) 3) j0) .a (ringAddr (D 4 4) 4) 0x1122334455667788
def wkS_12b (s : State) (w : Nat) (f : Worker → Worker) : State := s.modWorker w f
def run1_12b (w : Nat) (f : Worker → Worker) (s : State := up) : State := wkS_12b s w (fun x => f { x with state := .running })
def rg_12b (l : List (Nat × W32)) (s : Worker) : Worker := { s with regs := l, pc := 8 }
def ra := rg_12b [(1, 3)]
def lse_12b (g l : Nat) (x : Lease) (s : State) : State := s.modLease g l (fun _ => x)
def ad_12b (l : Nat) : W32 := addrOf (lanePage l) Reg.LNK_RETRY_TMO
def px : W64 := packetWord 2 7 9
def j1 : W64 := 0x1122334455667788
def lse_12c (g l : Nat) (x : Lease) (s : State) : State := s.modLease g l (fun _ => x)
def wkS_12c (s : State) (w : Nat) (f : Worker → Worker) : State := s.modWorker w f
def rg_12c (l : List (Nat × W32)) (s : Worker) : Worker := { s with regs := l, pc := 8 }
def full (st : WorkState) (x : Worker) : Worker := { rg_12c [(1,2)] x with state := st, jobActive := true, jobTag := 7, openQ := some 1024, wait := some .job, dbgEn := true, imem := [(3, 3)], dmem := [(4, 4)], ktab := [(0, 0x10010005), (17, 3)], accErr := true }
def fw (w : Nat) (st : WorkState) := lse_12c (w/24) 4 { owner := some w, n := 8 } (wkS_12c up w (full st))
def msel (p : Path) (w : Nat) (v k : W32) (s : State) : State := (s.setSel p (wrkPage w) Reg.WRK_MEM_SEL v).setSel p (wrkPage w) Reg.WRK_KT_SEL k
def run1_12c (w : Nat) (f : Worker → Worker) (s : State := up) : State := wkS_12c s w (fun x => f { x with state := .running })
def tA : State := { wkS_12c ((up.modDomain 6 (fun d => { d with state := .sleep }))) 7 (fun x => { x with state := .running, wait := some (.load 3 0x20 4), access := some (.a, 0) }) with tick := 4096 }
def lsel (p : Path) (g : Nat) (v : W32) (s : State) := s.setSel p (lsePage g) Reg.LSE_SEL v
def hy (s : State) (h : HiveId) (f : Honey → Honey) : State := s.modHoney h f
def g0 := hput up .a 77 0x1234
def fo (s : State) : State := { s.setReg (hsmPage .a) Reg.HSM_CTL 1 with tick := 100000000 }
def ret (l : List Nat) (s : State) := hy s .a (fun y => { y with retired := l })
def wkx : State := (up.modHive .a (fun x => { x with caches := [(145, [⟨12287*64+63, List.replicate 8 (3, false), .m⟩, ⟨12286*64, List.replicate 8 (3, false), .e⟩])] }))
def wa (p : Path) (v : W32) (s : State) : State := (s.setSel p (hsmPage .a) Reg.HSM_WIN_ADDR v).setSel p (hsmPage .a) Reg.HSM_WIN_WDATA_LO 0xAABBCCDD
def nv (a len : W32) (s : State) : State := (s.setReg (nvsPage .a) Reg.NVS_ADDR a).setReg (nvsPage .a) Reg.NVS_LEN len
def bz (c : NvsCmd) (s : State) : State := s.modHive .a (fun x => { x with nvs := some c })
def cm_131 : NvsCmd := { op := 2, kind := 5, inst := 1, addr := 600, len := 0, writes := [(3, 7)], result := 0 }
def cm2 : NvsCmd := { op := 2, kind := 0x7F, inst := 1, addr := 600, len := 0, writes := [], result := 0 }
def rec1 : Memory := (((execT (nv (600*8) 16 (hput (hput up .a 600 9) .a 601 10)))))
  where execT (s : State) : Memory := match exec (.nvsWrite .mgmt .active 0x00017F01) s with | .next t => (match exec (.nvsCommandDone .a) t with | .next u => u.hiveA.mram | _ => []) | _ => []
def withR (s : State) : State := s.modHive .a (fun x => { x with mram := rec1 })
def dup (s : State) (h : HiveId) (f : Duplex → Duplex) : State := s.modDup h f
def bnd (s : State) : State := (List.range 6).foldl (fun s c => s.modComb c (fun x => { x with bundleA := { x.bundleA with state := 2 }, bundleB := { x.bundleB with state := 2 } })) s
def mkCl (n : BitVec 16) (d : Duplex) : Duplex := { d with claim0 := n, claim1 := n, claim2 := n }
def du : State := dup (dup (bnd up) .a (mkCl 2)) .b (mkCl 1)
def du4 : State := nsec du 4096
def du5 : State := nsec du (4096 + 63)
def bx (cl : BitVec 16) (act yl ft : Bool) (sl : Nat) : W64 := BitVec.ofNat 64 (2^48*cl.toNat + (if act then 2^47 else 0) + (if yl then 2^46 else 0) + (if ft then 2^45 else 0) + 2^40*(sl % 16) + 77)
def sl4 := humSlot du4 .b
def x2 := bx 2 true true false sl4
def cr (x : W64) : BitVec 8 := crc8 7#8 0#8 (bitsMsb x)
def x1 := bx 2 true false false sl4
def x3 := bx 2 true true true sl4
def bd_14 (s : State) : State := s.modCore (fun c => c.atFu (s.frameStart (s.frameNow + 1)))
def dec (s : State) : State := dup s .b (fun d => { d with pendingTake := true, former := 1, claim0 := 3, claim1 := 3, claim2 := 3 })
def cm_14 : NvsCmd := { op := 1, kind := 1, inst := 1, addr := 300000, len := 0, writes := [(3, 7)], result := 0, src := 1 }
def told (s : State) : State := s.setReg (chipGrdPage s) Reg.GRD_EVENTS 0x21
def sc (s : State) (g src : Nat) (cfg : W32) (x : Source) : State := (s.setReg (grdPage g) Reg.GRD_SRC_CFG cfg src).modSource g src (fun _ => x)
def at50 (s : State) : State := { s with tick := 50 }
def rc (s : State) (r : Record) : State := s.modGuard (higherClaim s) (fun g => { g with record := some r, seq := 5 })
def en (s : State) : State := s.setReg (chipGrdPage s) Reg.GRD_CTL 1
def r0 : Record := { region := 3, src := 5, step := 0, ceil := 2, seq := 5, classOr := 1, count := 63, regionOr := 8, time := 3, deadline := 50 }
def r2 : Record := { r0 with step := 2, ceil := 4 }
def r1 : Record := { r0 with step := 1 }
def r3 : Record := { r0 with step := 3, ceil := 4 }
def r2j : Record := { r0 with region := 9, step := 2, ceil := 3 }
def r2k : Record := { r0 with step := 2, ceil := 2 }
def wkS_14 (s : State) (w : Nat) (f : Worker → Worker) : State := s.modWorker w f
def fa (s : State) : State := dup s .a (fun d => { d with fatal := true })
def dpl (k : Nat) (s : State) : State := plw (upL ((fa s).modGuard .a (fun g => { g with dump := { sect := k } })) 3) Reg.PLC_RCV_LANES 8 0
def dps (k : Nat) (s : State) : State := wkS_14 (dpl k (qAt s .a 1 (D 1 10) 9 9 9)) 144 (fun x => { x with state := .running })
def kk (s : State) : State := s.setSel .mgmt (grdPage 3) Reg.GRD_PERTURB_KEY 1
def tg_15 (p : Path) (s : State) : State := s.modPath p (fun x => { x with rTag := some (chipPage + Reg.CHIP_COMMIT_FRAME_LO), rHold := 0x8888999977776666, wTag := some (chipPage + Reg.CHIP_COMMIT_FRAME_LO), wHold := 0xABCD })
def cfx : State := (up.setReg chipPage Reg.CHIP_COMMIT_FRAME_LO 0x1234).setReg chipPage Reg.CHIP_COMMIT_FRAME_HI 5
def slp (s : State) : State := s.modDomain 7 (fun d => { d with state := .sleep })
def rst (s : State) : State := s.modDomain 7 (fun d => { d with inReset := true })
def adB : W32 := BitVec.ofNat 32 (hivePage .b 0x1B + 0x100)
def stg : State := { up with staged := [(rkey (cfgPage 0x13) 0x104 0, 3), (rkey chipPage Reg.CHIP_FP_TAG 0, 9)] }
def cf (n : Nat) (s : State) := (s.setReg chipPage Reg.CHIP_COMMIT_FRAME_LO (w32 n)).setReg chipPage Reg.CHIP_COMMIT_FRAME_HI 0
def bd_15 (s : State) : State := s.modCore (fun c => c.atFu (s.frameStart (s.frameNow + 1)))
def sta (p : Path) (a : W32) (op : Nat) (s : State) : State := { s with stalls := [(pathNo p, { addr := a, op := op, data := 7, domain := 7, hive := .b })] }
def sS (p : Path) (e : Stalled) (s : State) : State := { s with stalls := [(pathNo p, e)] }
def sE (_p : Path) (a : W32) (op d : Nat) : Stalled := { addr := a, op := op, data := 7, domain := d, hive := .b }
def wkS_15 (s : State) (w : Nat) (f : Worker → Worker) : State := s.modWorker w f
def wacc (op : Nat) : Stalled := { addr := tmoAddr 5, op := op, data := 7, domain := 8, hive := .b, dest := 4 }
def dm (s : State) (d : Nat) (f : Domain → Domain) : State := s.modDomain d f
def deepS2 : State := onC up (fun c => { c with state := .deep, keepMs := 5555 })
def slAll : State := (List.range 8).foldl (fun s d => dm s d (fun x => { x with state := .sleep })) up
def deepS : State := onC slAll (fun c => { c with state := .deep, keepMs := 5555 })
def bg (b h : W32) (s : State) : State := (s.setReg pwrPage Reg.PWR_BUDGET b).setReg pwrPage Reg.PWR_HYST h
def u20 : State := (List.range 3).foldl (fun s l => laneSt s (l*5) { state := .up, txAwake := true, rxAwake := true }) up
def cmj : NvsCmd := { op := 1, kind := 5, inst := 1, addr := 300000, len := 0, writes := [(3, 7), (4, 8)], result := 0 }
def rich : State := onC (hput ((((blkSt (cellSt (nsec up 5000) 7 { prims := [(1,2)] }) 5 { isolated := true }).modHive .a (fun x => { x with nvs := some cmj, caches := [(144, [⟨5, List.replicate 8 (3, false), .m⟩])] })).modCal 5 (fun x => { x with trim := 3 })).modDup .a (fun d => { d with takes := 3 })) .a 7777 5) (fun c => { c with chipResets := 3, estop := true, spineConst := [3, 7] })
def hkR (s : State) (off : Nat) (v : W32) (i : Nat := 0) : State := s.setReg (hkPage 2) off v i
def cfgx (v : W32) (s : State) : State := (hkR (hkR (hkR s Reg.HK_CFG v 3) Reg.HK_THR_HI 100 3) Reg.HK_THR_LO 0xFFFFFF00 3)
def hk2 (s : State) (f : Hk → Hk) : State := s.modHk 2 f
def hb (k : Int) (f : HkIn → HkIn) (i : Nat) : State := (hk2 (hkR ((up.modCore (fun c => c.atFu (1024000 * k)))) Reg.HK_CTL 1) (fun h => { h with running := true })).modHkIn 2 i f
def hs (v ctl : W32) : State := (hkR (hb 3 (fun x => { x with raw := -5, brk := true }) 3) Reg.HK_CTL ctl).setSel .mgmt (hkPage 2) Reg.HK_SEL v
def stTSAN0 : State := { up with chip := { up.chip with held := true } }
def stTSAN1 : State := { up.modQual (fun q => { q with holdover := true}) with tick := 2048000005 }
def stTSAN2 : State := up.both (fun x => { x with tb := { x.tb with ppsHigh := true } })
/-- States and operands that meet the hypotheses of each clause of TicksSecondsAndNow. -/
theorem wit_TicksSecondsAndNow :
    -- clause 1
    (up.chip.state ≠ PState.deep ∧
      up.chip.state ≠ PState.off ∧
      up.chip.held = false ∧
      up.chip.railsLow = [] ∧
      up.now + 1000 < 2 ^ 48 * 1024000000000) ∧
    -- clause 2
    ((stTSAN0.chip.state = PState.deep ∨ stTSAN0.chip.state = PState.off ∨ stTSAN0.chip.held = true ∨ stTSAN0.chip.railsLow ≠ [])) ∧
    -- clause 3
    (upT.tb.core.nsec = 0 ∧
      upT.tb.core.frac = 0 ∧
      upT.tb.secondTick ≠ some upT.tick ∧
      (bit (upT.cfg 16 Reg.TIM_OUT_CTL) 0 = true ∧ (upT.tb.qual.sync ≠ 0 ∨ bit (upT.cfg 16 Reg.TIM_OUT_CTL) 2 = true)) ∧
      0 ≤ BitVec.toInt (upT.cfg 16 Reg.TIM_OUT_DLY) ∧
      BitVec.toInt (upT.cfg 16 Reg.TIM_OUT_DLY) < 1000) ∧
    -- clause 3
    (stTSAN1.tb.core.nsec = 0 ∧
      stTSAN1.tb.core.frac = 0 ∧
      stTSAN1.tb.secondTick ≠ some stTSAN1.tick ∧
      stTSAN1.tb.qual.holdover = true) ∧
    -- clause 4
    (stTSAN2.tb.ppsHigh = true ∧
      stTSAN2.tb.ppsFall ≤ stTSAN2.tick) ∧
    -- clause 5
    (ReadyRead (.lane 3 : Path) (hiveDom (hiveOf up (.active : HiveRef))) up) :=
  (four (by decide +kernel) ⟨by decide +kernel, by unfold ReadyRead Ready; decide +kernel⟩)

def stRAG0 : State := (candSt e1 1 { state := .suspect }).bothTb (fun t => {t with sel := some 1})
def stRAG1 : State := pps (candSt up 2 { state := .qualified })
def stRAG2 : State := candSt e1 1 { state := .absent }
def stRAG3 : State := (candSt e0 2 { state := .qualified }).bothTb (fun t => {t with sel := some 2})
def stRAG4 : State := g2 { state := .qualifying, fresh := false, count := 1 }
def stRAG5 : State := g2 { state := .suspect, fresh := false, count := 0 }
def stRAG6 : State := g2 { state := .qualified, fresh := false, count := 1 }
def stRAG7 : State := (candSt e1 1 { state := .suspect }).bothTb (fun t => {t with gateStep := true, sel := some 1})
/-- States and operands that meet the hypotheses of each clause of ReferencesAndGates. -/
theorem wit_ReferencesAndGates :
    -- clause 1
    ((if 1 = 2 then (false : Bool) = true ∨ ppsLost stRAG0 = true else candLaneOk stRAG0 1 = false ∨ laneLost stRAG0 (candLane stRAG0 1) = true) ∧
      (stRAG0.cand 1).state ≠ CandState.disabled ∧
      (stRAG0.cand 1).state ≠ CandState.absent ∧
      stRAG0.tb.sel = some 1 ∧
      1 ≠ 2) ∧
    -- clause 1
    ((¬if 2 = 2 then (false : Bool) = true ∨ ppsLost stRAG1 = true else candLaneOk stRAG1 2 = false ∨ laneLost stRAG1 (candLane stRAG1 2) = true)) ∧
    -- clause 2
    (candLaneOk stRAG2 1 = true ∧
      (1 = 2 → ppsLost stRAG2 = false) ∧
      (stRAG2.cand 1).state = CandState.absent) ∧
    -- clause 3
    (Ready (.mgmt : Path) (hiveDom (higherClaim stRAG3)) stRAG3 ∧
      stRAG3.tb.sel = some 2 ∧
      (stRAG3.cand 2).state ≠ CandState.disabled) ∧
    -- clause 4
    ((up.hive (.a : HiveId)).tb.refclkBad = false ∧
      (up.source (hiveDom (.a : HiveId)) 7).broken = false) ∧
    -- clause 6
    (stRAG4.tb.core.nsec = 0 ∧
      stRAG4.tb.core.frac = 0 ∧
      stRAG4.tb.gateTick ≠ some stRAG4.tick ∧
      stRAG4.tb.gateStep = false ∧
      stRAG4.chip.refWrites = [] ∧
      (judgeResult 2 (0 : ℤ) (some (100, -1000) : Option (ℤ × ℤ)) stRAG4).2 = some ((100 : ℤ), (-1000 : ℤ)) ∧
      bit (stRAG4.cfg 17 (candCfgReg 2)) 0 = true ∧
      candLaneOk stRAG4 2 = true ∧
      2 = 2 ∧
      (stRAG4.cand 2).state ≠ CandState.disabled ∧
      (stRAG4.cand 2).state = CandState.qualifying ∧
      (stRAG4.cand 2).fresh = false ∧
      (100 : ℤ).natAbs ≤ BitVec.toNat (stRAG4.cfg 17 Reg.REF_FTOL) ∧ (-1000 : ℤ).natAbs ≤ BitVec.toNat (stRAG4.cfg 17 Reg.REF_PTOL) ∧
      fld (stRAG4.cfg 17 Reg.REF_QUAL_TIME) 9 0 ≤ (stRAG4.cand 2).count + 1) ∧
    -- clause 6
    (stRAG5.tb.core.nsec = 0 ∧
      stRAG5.tb.core.frac = 0 ∧
      stRAG5.tb.gateTick ≠ some stRAG5.tick ∧
      stRAG5.tb.gateStep = false ∧
      stRAG5.chip.refWrites = [] ∧
      (judgeResult 2 (0 : ℤ) (some (100, -1001) : Option (ℤ × ℤ)) stRAG5).2 = some ((100 : ℤ), (-1001 : ℤ)) ∧
      bit (stRAG5.cfg 17 (candCfgReg 2)) 0 = true ∧
      candLaneOk stRAG5 2 = true ∧
      (stRAG5.cand 2).state = CandState.suspect ∧
      (¬((100 : ℤ).natAbs ≤ BitVec.toNat (stRAG5.cfg 17 Reg.REF_FTOL) ∧ (-1001 : ℤ).natAbs ≤ BitVec.toNat (stRAG5.cfg 17 Reg.REF_PTOL))) ∧
      (¬fld (stRAG5.cfg 17 Reg.REF_QUAL_TIME) 9 0 ≤ (stRAG5.cand 2).count + 1)) ∧
    -- clause 6
    (stRAG6.tb.core.nsec = 0 ∧
      stRAG6.tb.core.frac = 0 ∧
      stRAG6.tb.gateTick ≠ some stRAG6.tick ∧
      stRAG6.tb.gateStep = false ∧
      stRAG6.chip.refWrites = [] ∧
      (judgeResult 2 (0 : ℤ) (some (100, -1000) : Option (ℤ × ℤ)) stRAG6).2 = some ((100 : ℤ), (-1000 : ℤ)) ∧
      bit (stRAG6.cfg 17 (candCfgReg 2)) 0 = true ∧
      candLaneOk stRAG6 2 = true ∧
      (stRAG6.cand 2).state = CandState.qualified ∧
      (100 : ℤ).natAbs ≤ BitVec.toNat (stRAG6.cfg 17 Reg.REF_FTOL) ∧ (-1000 : ℤ).natAbs ≤ BitVec.toNat (stRAG6.cfg 17 Reg.REF_PTOL)) ∧
    -- clause 7
    (stRAG7.tb.core.nsec = 0 ∧
      stRAG7.tb.core.frac = 0 ∧
      stRAG7.tb.gateTick ≠ some stRAG7.tick ∧
      stRAG7.tb.gateStep = true) :=
  ⟨by decide +kernel,
   by decide +kernel,
   by decide +kernel,
   ⟨by unfold Ready; decide +kernel, by decide +kernel⟩,
   by decide +kernel⟩

def stSAAAA0 : State := cfgw up 0x10 Reg.TIM_STEP_NSEC 77
def stSAAAA1 : State := { onC up (fun c => {c with step := some arm1}) with tick := 1536000000 }
/-- States and operands that meet the hypotheses of each clause of StepsAreArmedAndApplied. -/
theorem wit_StepsAreArmedAndApplied :
    -- clause 1
    (Ready (.mgmt : Path) (hiveDom (hiveOf stSAAAA0 (.active : HiveRef))) stSAAAA0 ∧
      fld (2 : W32) 1 0 = 2 ∧
      stSAAAA0.chip.framing = false ∧
      (0 ≤ stSAAAA0.now + 1000 * (if bit (2 : W32) 2 = true then (1024 * (1000000000 * (stSAAAA0.reg64 (cfgPage 16) Reg.TIM_STEP_SEC_LO % 2 ^ 48) + fld (stSAAAA0.cfg 16 Reg.TIM_STEP_NSEC) 29 0) + fld (stSAAAA0.cfg 16 Reg.TIM_STEP_FRAC) 9 0).cast - stSAAAA0.now else if bit (2 : W32) 3 = true then -(1024 * (1000000000 * (stSAAAA0.reg64 (cfgPage 16) Reg.TIM_STEP_SEC_LO % 2 ^ 48) + fld (stSAAAA0.cfg 16 Reg.TIM_STEP_NSEC) 29 0) + fld (stSAAAA0.cfg 16 Reg.TIM_STEP_FRAC) 9 0).cast else (1024 * (1000000000 * (stSAAAA0.reg64 (cfgPage 16) Reg.TIM_STEP_SEC_LO % 2 ^ 48) + fld (stSAAAA0.cfg 16 Reg.TIM_STEP_NSEC) 29 0) + fld (stSAAAA0.cfg 16 Reg.TIM_STEP_FRAC) 9 0).cast).fdiv 1000) ∧
      (stSAAAA0.now + 1000 * (if bit (2 : W32) 2 = true then (1024 * (1000000000 * (stSAAAA0.reg64 (cfgPage 16) Reg.TIM_STEP_SEC_LO % 2 ^ 48) + fld (stSAAAA0.cfg 16 Reg.TIM_STEP_NSEC) 29 0) + fld (stSAAAA0.cfg 16 Reg.TIM_STEP_FRAC) 9 0).cast - stSAAAA0.now else if bit (2 : W32) 3 = true then -(1024 * (1000000000 * (stSAAAA0.reg64 (cfgPage 16) Reg.TIM_STEP_SEC_LO % 2 ^ 48) + fld (stSAAAA0.cfg 16 Reg.TIM_STEP_NSEC) 29 0) + fld (stSAAAA0.cfg 16 Reg.TIM_STEP_FRAC) 9 0).cast else (1024 * (1000000000 * (stSAAAA0.reg64 (cfgPage 16) Reg.TIM_STEP_SEC_LO % 2 ^ 48) + fld (stSAAAA0.cfg 16 Reg.TIM_STEP_NSEC) 29 0) + fld (stSAAAA0.cfg 16 Reg.TIM_STEP_FRAC) 9 0).cast).fdiv 1000 < 2 ^ 48 * 1024000000000)) ∧
    -- clause 1
    (Ready (.mgmt : Path) (hiveDom (hiveOf up (.active : HiveRef))) up ∧
      up.chip.step = none ∧
      fld (0 : W32) 1 0 = 0 ∧
      frameDiff (BitVec.ofNat 40 (up.reg64 (cfgPage 16) Reg.TIM_STEP_FRAME_LO)) up.frameNow ≤ 0) ∧
    -- clause 1
    (Ready (.mgmt : Path) (hiveDom (hiveOf up (.active : HiveRef))) up ∧
      up.chip.step = none ∧
      (fld (3 : W32) 1 0 = 2 ∧ up.chip.framing = true ∨ fld (3 : W32) 1 0 = 3)) ∧
    -- clause 1
    (Ready (.mgmt : Path) (hiveDom (hiveOf st0_02 (.active : HiveRef))) st0_02 ∧
      (fld (0 : W32) 1 0 = 0 ∧ 0 < frameDiff (BitVec.ofNat 40 (st0_02.reg64 (cfgPage 16) Reg.TIM_STEP_FRAME_LO)) st0_02.frameNow ∨ fld (0 : W32) 1 0 = 1)) ∧
    -- clause 2
    ((∀ (a : StepArm), up.chip.step = some a → a.mode ≠ 1)) ∧
    -- clause 3
    (stSAAAA1.chip.step = some arm1 ∧
      arm1.mode = 1 ∧
      arm1.goTick + 1536000000 ≤ stSAAAA1.tick) :=
  ⟨⟨by unfold Ready; decide +kernel, by decide +kernel⟩,
   ⟨by unfold Ready; decide +kernel, by decide +kernel⟩,
   ⟨by unfold Ready; decide +kernel, by decide +kernel⟩,
   ⟨by unfold Ready; decide +kernel, by decide +kernel⟩,
   by decide +kernel⟩

/-- States and operands that meet the hypotheses of each clause of FrameBoundaryCounts. -/
theorem wit_FrameBoundaryCounts :
    -- clause 1
    (fb1.chip.started = true ∧
      fb1.chip.state ≠ PState.deep ∧
      fb1.chip.state ≠ PState.off ∧
      boundaryDue fb1 = true ∧
      fb1.hiveA.dup.pendingTake = false ∧
      fb1.hiveB.dup.pendingTake = false ∧
      fb1.chip.step = none ∧
      fb1.chip.commitArmed = none ∧
      fb1.chip.plcArmed = none ∧
      (fb1.tb.qual.unsync = true ∨ fb1.tb.qual.coarse = true)) :=
  by decide +kernel

/-- States and operands that meet the hypotheses of each clause of LeadingEdgeOpensPulse. -/
theorem wit_LeadingEdgeOpensPulse :
    -- clause 1
    (cEn (c1.cellCfg 1151) = true ∧
      capturing c1 (1151 / 192) = true ∧
      cCm (c1.cellCfg 1151) = false ∧
      thOn c1 1151 3 = true ∧
      (c1.cell 1151).muted = false ∧
      (c1.cell 1151).blankEnd = none ∧
      openPulse (c1.cell 1151) 3 = none ∧
      (lget { } (c1.cell 1151).discs 3).ignoreTrail = false) :=
  by decide +kernel

def stCGT0 : State := cellSt up 5 { itps := [.free, .free, .free, .edge 2 false 2000 false], pulses := [pl2] }
def stCGT1 : State := cellSt up 5 { itps := [.free, .edge 2 true 2000 false, .free, .free], pulses := [pl] }
def stCGT2 : State := cellSt (blkw c1 71 Reg.CAL_CTL 0x1401) 1151 { itps := [.free, .free, .free, .calib] }
def stCGT3 : State := cellSt up 1151 { itps := [.free, .free, .free, .calib] }
def stCGT4 : State := cellSt cm4 1151 { itps := [.free, .free, .free, .stampCm 5000 6 false] }
def stCGT5 : State := up.bothServo (fun v => {v with linkCal := [3,19]})
/-- States and operands that meet the hypotheses of each clause of ConversionGivesTime. -/
theorem wit_ConversionGivesTime :
    -- clause 1
    (0 ≤ 399 ∧
      lget Itp.free (stCGT0.cell 5).itps 3 = Itp.edge 2 false (2000 : ℤ) false ∧
      (stCGT0.cell 5).pulses = [pl2] ∧
      pl2.th = 2 ∧
      pl2.lead = Stamp.known (1500 : ℤ) (false : Bool) ∧
      pl2.trail = some (Stamp.waiting 3) ∧
      pl2.ovf = false ∧
      (stCGT0.cell 5).fifo.length < 16) ∧
    -- clause 1
    (399 ≤ 399 ∧
      lget Itp.free (stCGT1.cell 5).itps 1 = Itp.edge 2 true (2000 : ℤ) false ∧
      (stCGT1.cell 5).pulses = [pl] ∧
      pl.th = 2 ∧
      pl.lead = Stamp.waiting 1 ∧
      pl.trail = none ∧
      pl.ovf = false) ∧
    -- clause 1
    (7 ≤ 399 ∧
      lget Itp.free (stCGT2.cell 1151).itps 3 = Itp.calib ∧
      cEn (stCGT2.cellCfg 1151) = true ∧
      (stCGT2.cal (4 * 1151 + 3)).waiting = false) ∧
    -- clause 1
    (7 ≤ 399 ∧
      lget Itp.free (stCGT3.cell 1151).itps 3 = Itp.calib ∧
      cEn (stCGT3.cellCfg 1151) = false) ∧
    -- clause 1
    (7 ≤ 399 ∧
      lget Itp.free (stCGT4.cell 1151).itps 3 = Itp.stampCm (5000 : ℤ) (6 : BitVec 32) false) ∧
    -- clause 2
    (19 ∈ (stCGT5.hive (.b : HiveId)).servo.linkCal ∧
      0 ≤ 399 ∧
      (stCGT5.cal (64 * linkSite (.b : HiveId) + 19)).waiting = false) :=
  by decide +kernel

def stCE0 : State := { cellSt up 17 { pulses := [pl3] } with tick := 263 }
def stCE1 : State := cellSt up 17 { blankEnd := some 999 }
def stCE2 : State := blkw c1 71 Reg.CAL_CTL 0x1401
def stCE3 : State := cellSt (blkSt (past up) 1 { slots := [sl] }) 17 { wrPos := 3, rdPos := 3, fifo := [] }
def stCE4 : State := cellSt (blkSt (past up) 1 { slots := [sl] }) 17 { wrPos := 3, rdPos := 1, fifo := [rw_03 5, rw_03 67108870] }
/-- States and operands that meet the hypotheses of each clause of CellEvents. -/
theorem wit_CellEvents :
    -- clause 1
    ((stCE0.cell 17).pulses = [pl3] ∧
      pl3.th = 3 ∧
      pl3.lead = Stamp.known (7 : ℤ) (false : Bool) ∧
      pl3.trail = none ∧
      pl3.ovf = false ∧
      pl3.muted = false ∧
      pl3.leadM + 262144 < 1000 * stCE0.tick + 1000 ∧
      (stCE0.cell 17).fifo.length < 16 ∧
      3 < (stCE0.cell 17).discs.length) ∧
    -- clause 2
    ((stCE1.cell 17).blankEnd = some 999 ∧
      999 < 1000 * stCE1.tick + 1000) ∧
    -- clause 3
    (bit (stCE2.reg (blkPage (1151 / 16)) Reg.CAL_CTL) 0 = true ∧
      cEn (stCE2.cellCfg 1151) = true ∧
      capturing stCE2 (1151 / 192) = true ∧
      (stCE2.cell 1151).itps = [Itp.free, Itp.free, Itp.free, Itp.free] ∧
      passedOver stCE2 1151 (nextCal stCE2 1151 (stCE2.cell 1151).calPtr) = false) ∧
    -- clause 4
    (up.chip.started = true ∧
      (up.domain (hiveDom (.b : HiveId))).inReset = false ∧
      ((up.domain (hiveDom (.b : HiveId))).state = PState.run ∨ (up.domain (hiveDom (.b : HiveId))).state = PState.idle) ∧
      (up.cal (64 * linkSite (.b : HiveId) + 0)).waiting = false) ∧
    -- clause 5
    ((stCE3.block (17 / 16)).slots = [sl] ∧
      sl.markers.getLsbD (17 % 16) = false ∧
      (stCE3.cell 17).markers = [] ∧
      (sl.drainTick.isSome = true ∨ outPassed stCE3 (17 / 16) sl.stop = true) ∧
      framePending stCE3 17 sl.frame = false ∧
      slotOver stCE3 17 sl = true ∧
      (stCE3.cell 17).fifo = ([] : List RawRec) ++ ([] : List RawRec) ∧
      (∀ r ∈ ([] : List RawRec), ¬(fun (r : RawRec) => frameDiff (frameOf stCE3 (corrected stCE3 17 r.fu)) sl.frame ≤ 0) r) ∧
      (([] : List RawRec) = [] ∨ ∃ (r : RawRec), ([] : List RawRec).getLast? = some r ∧ (fun (r : RawRec) => frameDiff (frameOf stCE3 (corrected stCE3 17 r.fu)) sl.frame ≤ 0) r) ∧
      ([] : List RawRec) = []) ∧
    -- clause 5
    ((stCE4.block (17 / 16)).slots = [sl] ∧
      sl.markers.getLsbD (17 % 16) = false ∧
      (stCE4.cell 17).markers = [] ∧
      (sl.drainTick.isSome = true ∨ outPassed stCE4 (17 / 16) sl.stop = true) ∧
      framePending stCE4 17 sl.frame = false ∧
      slotOver stCE4 17 sl = true ∧
      (stCE4.cell 17).fifo = ([rw_03 5] : List RawRec) ++ ([rw_03 67108870] : List RawRec) ∧
      (∀ r ∈ ([rw_03 67108870] : List RawRec), ¬(fun (r : RawRec) => frameDiff (frameOf stCE4 (corrected stCE4 17 r.fu)) sl.frame ≤ 0) r) ∧
      (([rw_03 5] : List RawRec) = [] ∨ ∃ (r : RawRec), ([rw_03 5] : List RawRec).getLast? = some r ∧ (fun (r : RawRec) => frameDiff (frameOf stCE4 (corrected stCE4 17 r.fu)) sl.frame ≤ 0) r) ∧
      ([rw_03 5] : List RawRec) ≠ []) :=
  (four (by decide +kernel) ⟨(four (by decide +kernel) ⟨by decide +kernel, by decide +kernel, by decide +kernel, (by simp), by decide +kernel⟩),
   by decide +kernel⟩)

def stIR0 : State := onC up (fun c => {c with estop := true})
def stIR1 : State := blkSt (blkw up 71 Reg.INJ_CTL 1) 71 { inj := { state := 2, pend := some (1,0) } }
def stIR2 : State := blkSt up 71 { inj := { state := 2 } }
def stIR3 : State := { blkSt up 3 { inj := { state := 2, mask := 0x8001, count := 1, segStart := 5, pend := some (9, 4) } } with tick := 5 }
def stIR4 : State := { blkSt up 3 { inj := { state := 2, sample := 1, next := 5 } } with tick := 64 }
def stIR5 : State := { blkSt up 3 { inj := { state := 2, sample := 1, stop := true } } with tick := 64 }
/-- States and operands that meet the hypotheses of each clause of InjectorRuns. -/
theorem wit_InjectorRuns :
    -- clause 1
    (Ready (.mgmt : Path) (71 / 12) up ∧
      bit (up.reg (blkPage 71) Reg.INJ_CTL) 0 = false ∧
      up.chip.estop = false ∧
      bit (0x3F03 : W32) 1 = true) ∧
    -- clause 1
    (Ready (.lane 19 : Path) (71 / 12) up ∧
      bit (up.reg (blkPage 71) Reg.INJ_CTL) 0 = false ∧
      up.chip.estop = false ∧
      bit (0x3F01 : W32) 1 = false) ∧
    -- clause 1
    (Ready (.mgmt : Path) (71 / 12) stIR0 ∧
      bit (stIR0.reg (blkPage 71) Reg.INJ_CTL) 0 = false ∧
      stIR0.chip.estop = true) ∧
    -- clause 2
    (Ready (.worker 5 : Path) (71 / 12) stIR1 ∧
      bit (stIR1.reg (blkPage 71) Reg.INJ_CTL) 0 = true) ∧
    -- clause 3
    (Ready (.startup : Path) (71 / 12) up ∧
      bit (0x12F : W32) 8 = true ∧
      (up.block 71).inj.state = 0) ∧
    -- clause 3
    (Ready (.jtag : Path) (71 / 12) stIR2 ∧
      bit (0x12F : W32) 8 = true ∧
      (stIR2.block 71).inj.state ≠ 0) ∧
    -- clause 4
    ((stIR3.block 3).inj.state = 2 ∧
      (stIR3.block 3).inj.sample < (stIR3.block 3).inj.count ∧
      (stIR3.block 3).inj.segStart + (stIR3.block 3).inj.sample * (stIR3.block 3).inj.interval ≤ stIR3.tick ∧
      (stIR3.block 3).inj.sample + 1 = (stIR3.block 3).inj.count) ∧
    -- clause 5
    ((stIR4.block 3).inj.state = 2 ∧
      (stIR4.block 3).inj.count ≤ (stIR4.block 3).inj.sample ∧
      (stIR4.block 3).inj.segStart + (stIR4.block 3).inj.count * (stIR4.block 3).inj.interval ≤ stIR4.tick ∧
      (stIR4.block 3).inj.bound = none ∧
      (stIR4.block 3).inj.stop = false) ∧
    -- clause 5
    ((stIR5.block 3).inj.state = 2 ∧
      (stIR5.block 3).inj.count ≤ (stIR5.block 3).inj.sample ∧
      (stIR5.block 3).inj.segStart + (stIR5.block 3).inj.count * (stIR5.block 3).inj.interval ≤ stIR5.tick ∧
      (stIR5.block 3).inj.bound = none ∧
      (stIR5.block 3).inj.stop = true) :=
  ⟨⟨by unfold Ready; decide +kernel, by decide +kernel⟩,
   ⟨by unfold Ready; decide +kernel, by decide +kernel⟩,
   ⟨by unfold Ready; decide +kernel, by decide +kernel⟩,
   ⟨by unfold Ready; decide +kernel, by decide +kernel⟩,
   ⟨by unfold Ready; decide +kernel, by decide +kernel⟩,
   ⟨by unfold Ready; decide +kernel, by decide +kernel⟩,
   by decide +kernel⟩

def stBMTT0 : State := blkSt up 0 { slewing := true, biasNow := 9, biasNext := 77 }
def stBMTT1 : State := onC up (fun c => {c with estop := true})
def stBMTT2 : State := blkSt (blkw up 0 Reg.BIAS_TARGET 1) 0 { slewing := true }
def stBMTT3 : State := blkSt (blkw up 0 Reg.BIAS_TARGET 1) 0 { slewing := true, biasNow := 4095 }
/-- States and operands that meet the hypotheses of each clause of BiasMovesToTarget. -/
theorem wit_BiasMovesToTarget :
    -- clause 1
    (Ready (.mgmt : Path) (0 / 12) stBMTT0 ∧
      stBMTT0.chip.estop = false ∧
      (stBMTT0.block 0).biasNow ≠ fld (0x5 : W32) 11 0 ∧
      (stBMTT0.block 0).slewing = true) ∧
    -- clause 1
    (Ready (.mgmt : Path) (0 / 12) up ∧
      up.chip.estop = false ∧
      (up.block 0).biasNow = fld (0xF000 : W32) 11 0) ∧
    -- clause 1
    (Ready (.worker 191 : Path) (0 / 12) stBMTT1 ∧
      stBMTT1.chip.estop = true) ∧
    -- clause 2
    ((stBMTT2.block 0).slewing = true ∧
      (stBMTT2.block 0).biasNext ≤ stBMTT2.tick ∧
      (stBMTT2.block 0).biasNow ≠ fld (stBMTT2.reg (blkPage 0) Reg.BIAS_TARGET) 11 0 ∧
      (if (stBMTT2.block 0).biasNow < fld (stBMTT2.reg (blkPage 0) Reg.BIAS_TARGET) 11 0 then (stBMTT2.block 0).biasNow + 1 else (stBMTT2.block 0).biasNow - 1) = fld (stBMTT2.reg (blkPage 0) Reg.BIAS_TARGET) 11 0) ∧
    -- clause 2
    ((stBMTT3.block 0).slewing = true ∧
      (stBMTT3.block 0).biasNext ≤ stBMTT3.tick ∧
      (stBMTT3.block 0).biasNow ≠ fld (stBMTT3.reg (blkPage 0) Reg.BIAS_TARGET) 11 0 ∧
      (if (stBMTT3.block 0).biasNow < fld (stBMTT3.reg (blkPage 0) Reg.BIAS_TARGET) 11 0 then (stBMTT3.block 0).biasNow + 1 else (stBMTT3.block 0).biasNow - 1) ≠ fld (stBMTT3.reg (blkPage 0) Reg.BIAS_TARGET) 11 0) :=
  ⟨⟨by unfold Ready; decide +kernel, by decide +kernel⟩,
   ⟨by unfold Ready; decide +kernel, by decide +kernel⟩,
   ⟨by unfold Ready; decide +kernel, by decide +kernel⟩,
   by decide +kernel⟩

def stCT0 : State := blkSt up 4 { buildQueue := [63, 5] }
def stCT1 : State := calSt (blkSt up 4 { building := some 63 }) 319 { fill := 7, hist := [(0, 3), (5, 2), (399, 2)] }
def stCT2 : State := blkSt up 71 { loadPend := some nt_03 }
def stCT3 : State := blkSt up 71 { loadBuf := [(0, 0x10002), (399, 5)] }
def stCT4 : State := calSt up 4607 { hist := [(0, 1)], fill := 1 }
def stCT5 : State := calSt (blkw up 71 Reg.CAL_CTL 0x1400) 4607 { hist := [(0, 1)], fill := 1 }
/-- States and operands that meet the hypotheses of each clause of CalibrationTables. -/
theorem wit_CalibrationTables :
    -- clause 1
    ((stCT0.block (builderSite (.block 4 : Builder))).buildQueue = 63 :: ([5] : List ℕ) ∧
      (stCT0.block (builderSite (.block 4 : Builder))).built = none ∧
      (stCT0.block (builderSite (.block 4 : Builder))).building = none) ∧
    -- clause 2
    ((stCT1.block (builderSite (.block 4 : Builder))).building = some 63) ∧
    -- clause 3
    (Ready (.mgmt : Path) (71 / 12) stCT2 ∧
      (stCT2.block 71).loadPend ≠ none) ∧
    -- clause 3
    (Ready (.mgmt : Path) (71 / 12) stCT3 ∧
      (stCT3.block 71).loadPend = none) ∧
    -- clause 4
    (Ready (.mgmt : Path) (71 / 12) stCT4 ∧
      20 ≤ histExp (0x1A01 : W32) ∧
      histExp (0x1A01 : W32) ≤ 26 ∧
      histExp (0x1A01 : W32) ≠ histExp (stCT4.reg (blkPage 71) Reg.CAL_CTL)) ∧
    -- clause 4
    (Ready (.mgmt : Path) (71 / 12) stCT5 ∧
      20 ≤ histExp (0x1401 : W32) ∧
      histExp (0x1401 : W32) ≤ 26 ∧
      histExp (0x1401 : W32) = histExp (stCT5.reg (blkPage 71) Reg.CAL_CTL)) ∧
    -- clause 5
    (Ready (.mgmt : Path) (71 / 12) up ∧
      20 ≤ histExp (0x1504 : W32) ∧
      histExp (0x1504 : W32) ≤ 26 ∧
      histExp (0x1504 : W32) = histExp (up.reg (blkPage 71) Reg.CAL_CTL)) :=
  ⟨by decide +kernel,
   by decide +kernel,
   ⟨by unfold Ready; decide +kernel, by decide +kernel⟩,
   ⟨by unfold Ready; decide +kernel, by decide +kernel⟩,
   ⟨by unfold Ready; decide +kernel, by decide +kernel⟩,
   ⟨by unfold Ready; decide +kernel, by decide +kernel⟩,
   ⟨by unfold Ready; decide +kernel, by decide +kernel⟩⟩

def stRC0 : State := rgw_04 (rgsel up (.lane 2) 15) Reg.CAL_RG_GATE 1 15
def stRC1 : State := rgsel up .mgmt 15
def stRC2 : State := rgw_04 (rgsel up (.lane 2) 15) Reg.CAL_RG_GATE 2 15
def stRC3 : State := rgw_04 (rgw_04 (rgsel up (.lane 2) 15) Reg.CAL_RG_GATE 1 15) Reg.CAL_RG_FRAME_LO 7 15
def stRC4 : State := rgSt_04 up 0 { state := 1 }
def stRC5 : State := rgsel (rgSt_04 resv 14 { gate := some {opened := 3}, state := 2 }) .mgmt 14
/-- States and operands that meet the hypotheses of each clause of RegressionCommands. -/
theorem wit_RegressionCommands :
    -- clause 1
    (Ready (.lane 2 : Path) (hiveDom (hiveOf stRC0 (.hiveB : HiveRef))) stRC0 ∧
      rgReserved stRC0 (rgSelected stRC0 (.lane 2 : Path)) = false ∧
      (∀ (h : HiveId), (stRC0.rg h (rgSelected stRC0 (.lane 2 : Path))).state ≠ 1 ∧ (stRC0.rg h (rgSelected stRC0 (.lane 2 : Path))).state ≠ 2) ∧
      rgMode stRC0 (rgSelected stRC0 (.lane 2 : Path)) = 1 ∧
      frameDiff (rgFrame stRC0 (rgSelected stRC0 (.lane 2 : Path))) stRC0.frameNow ≤ 0) ∧
    -- clause 1
    (Ready (.mgmt : Path) (hiveDom (hiveOf stRC1 (.active : HiveRef))) stRC1 ∧
      rgReserved stRC1 (rgSelected stRC1 (.mgmt : Path)) = false ∧
      (∀ (h : HiveId), (stRC1.rg h (rgSelected stRC1 (.mgmt : Path))).state ≠ 1 ∧ (stRC1.rg h (rgSelected stRC1 (.mgmt : Path))).state ≠ 2) ∧
      rgMode stRC1 (rgSelected stRC1 (.mgmt : Path)) = 0) ∧
    -- clause 1
    (Ready (.lane 2 : Path) (hiveDom (hiveOf stRC2 (.hiveB : HiveRef))) stRC2 ∧
      rgReserved stRC2 (rgSelected stRC2 (.lane 2 : Path)) = false ∧
      (∀ (h : HiveId), (stRC2.rg h (rgSelected stRC2 (.lane 2 : Path))).state ≠ 1 ∧ (stRC2.rg h (rgSelected stRC2 (.lane 2 : Path))).state ≠ 2) ∧
      rgMode stRC2 (rgSelected stRC2 (.lane 2 : Path)) = 2) ∧
    -- clause 1
    (Ready (.lane 2 : Path) (hiveDom (hiveOf stRC3 (.hiveB : HiveRef))) stRC3 ∧
      rgReserved stRC3 (rgSelected stRC3 (.lane 2 : Path)) = false ∧
      (∀ (h : HiveId), (stRC3.rg h (rgSelected stRC3 (.lane 2 : Path))).state ≠ 1 ∧ (stRC3.rg h (rgSelected stRC3 (.lane 2 : Path))).state ≠ 2) ∧
      rgMode stRC3 (rgSelected stRC3 (.lane 2 : Path)) = 1 ∧
      0 < frameDiff (rgFrame stRC3 (rgSelected stRC3 (.lane 2 : Path))) stRC3.frameNow) ∧
    -- clause 2
    (Ready (.mgmt : Path) (hiveDom (hiveOf stRC4 (.active : HiveRef))) stRC4 ∧
      rgReserved stRC4 (rgSelected stRC4 (.mgmt : Path)) = false) ∧
    -- clause 2
    (Ready (.mgmt : Path) (hiveDom (hiveOf stRC5 (.active : HiveRef))) stRC5 ∧
      rgReserved stRC5 (rgSelected stRC5 (.mgmt : Path)) = true) ∧
    -- clause 3
    (ReadyRead (.mgmt : Path) (hiveDom (hiveOf stRC4 (.active : HiveRef))) stRC4) :=
  ⟨⟨by unfold Ready; decide +kernel, by decide +kernel, hives (by decide +kernel) (by decide +kernel), by decide +kernel⟩,
   ⟨by unfold Ready; decide +kernel, by decide +kernel, hives (by decide +kernel) (by decide +kernel), by decide +kernel⟩,
   ⟨by unfold Ready; decide +kernel, by decide +kernel, hives (by decide +kernel) (by decide +kernel), by decide +kernel⟩,
   ⟨by unfold Ready; decide +kernel, by decide +kernel, hives (by decide +kernel) (by decide +kernel), by decide +kernel⟩,
   ⟨by unfold Ready; decide +kernel, by decide +kernel⟩,
   ⟨by unfold Ready; decide +kernel, by decide +kernel⟩,
   by unfold ReadyRead Ready; decide +kernel⟩

def stRGAR0 : State := rgSt_04 (rgw_04 (rgw_04 up Reg.CAL_RG_GATE 1 15) Reg.CAL_RG_FRAME_LO 0 15) 15 { state := 1 }
def stRGAR1 : State := rgSt_04 (nsec (rgw_04 up Reg.CAL_RG_LEN 5 15) 10) 15 { state := 2, gate := some { opened := 0 } }
def stRGAR2 : State := rgSt_04 (nsec up 10) 15 { state := 2, gate := some gt, stamps := [(some 5, 900)] }
def stRGAR3 : State := rgSt_04 (rgw_04 up Reg.CAL_RG_NOM_LO 25600 15) 15 { state := 2, closed := [{ opened := 0, sums := sm }] }
def stRGAR4 : State := rgSt_04 up 15 { state := 2, closed := [{ opened := 0, sums := {k := 2} }] }
/-- States and operands that meet the hypotheses of each clause of RegressionGatesAndResults. -/
theorem wit_RegressionGatesAndResults :
    -- clause 1
    (rgReserved stRGAR0 15 = false ∧
      rgMode stRGAR0 15 = 1 ∧
      stRGAR0.chip.deferredTo = none ∧
      frameDiff (rgFrame stRGAR0 15) stRGAR0.frameNow ≤ 0 ∧
      (∀ (h : HiveId), (stRGAR0.rg h 15).state = 1)) ∧
    -- clause 2
    (rgReserved stRGAR1 15 = false ∧
      rgRepeat stRGAR1 15 = false ∧
      (∀ (h : HiveId), ∃ (g : RgGate), (stRGAR1.rg h 15).gate = some g ∧ gateCloses stRGAR1 15 (stRGAR1.rg h 15) g = some (5000 : ℤ) ∧ (5000 : ℤ) ≤ stRGAR1.fuOf h)) ∧
    -- clause 4
    (rgReserved stRGAR2 15 = false ∧
      (stRGAR2.rg (.b : HiveId) 15).stamps = (some (5 : BitVec 32), (900 : BitVec 32)) :: ([] : List (Option (BitVec 32) × BitVec 32)) ∧
      (stRGAR2.rg (.b : HiveId) 15).closed = [] ∧
      (stRGAR2.rg (.b : HiveId) 15).gate = some gt ∧
      gt.origin = some ((3 : ℤ), (100 : ℤ)) ∧
      gateCloses stRGAR2 15 (stRGAR2.rg (.b : HiveId) 15) gt = none ∧
      gt.opened ≤ stRGAR2.fuOf (.b : HiveId) - shortDiff (shortOf (stRGAR2.fuOf (.b : HiveId))) (900 : BitVec 32) ∧
      ((stRGAR2.fuOf (.b : HiveId) - shortDiff (shortOf (stRGAR2.fuOf (.b : HiveId))) (900 : BitVec 32) - (100 : ℤ)) * 256 - ((5 : BitVec 32).toNat.cast - (3 : ℤ)) % 2 ^ 32 * rgNom stRGAR2 15).natAbs ≤ 2 ^ 46 ∧
      gt.sums.k < 2 ^ 30) ∧
    -- clause 5
    (rgReserved stRGAR3 15 = false ∧
      (stRGAR3.rg (.b : HiveId) 15).closed = [({ opened := 0, sums := sm } : RgGate)] ∧
      (stRGAR3.rg (.b : HiveId) 15).gate = none ∧
      (stRGAR3.rg (.b : HiveId) 15).state = 2 ∧
      3 ≤ ({ opened := 0, sums := sm } : RgGate).sums.k ∧
      ({ opened := 0, sums := sm } : RgGate).sums.k * ({ opened := 0, sums := sm } : RgGate).sums.nn - ({ opened := 0, sums := sm } : RgGate).sums.n * ({ opened := 0, sums := sm } : RgGate).sums.n ≠ 0 ∧
      ((rgNom stRGAR3 15 : Int) : ℚ) + ((({ opened := 0, sums := sm } : RgGate).sums.k * ({ opened := 0, sums := sm } : RgGate).sums.nr - ({ opened := 0, sums := sm } : RgGate).sums.n * ({ opened := 0, sums := sm } : RgGate).sums.r : Int) : ℚ) / ((({ opened := 0, sums := sm } : RgGate).sums.k * ({ opened := 0, sums := sm } : RgGate).sums.nn - ({ opened := 0, sums := sm } : RgGate).sums.n * ({ opened := 0, sums := sm } : RgGate).sums.n : Int) : ℚ) ≠ 0) ∧
    -- clause 5
    (rgReserved stRGAR4 15 = false ∧
      (stRGAR4.rg (.a : HiveId) 15).closed = [({ opened := 0, sums := {k := 2} } : RgGate)] ∧
      (stRGAR4.rg (.a : HiveId) 15).gate = none ∧
      (stRGAR4.rg (.a : HiveId) 15).state = 2 ∧
      ({ opened := 0, sums := {k := 2} } : RgGate).sums.k < 3) :=
  ⟨(four (by decide +kernel) (hives (by decide +kernel) (by decide +kernel))),
   ⟨by decide +kernel, by decide +kernel, hives ⟨_, rfl, by decide +kernel⟩ ⟨_, rfl, by decide +kernel⟩⟩,
   by decide +kernel⟩

def stRTTR0 : State := { combSt up 5 { slots := [rs0] } with tick := 128 }
def stRTTR1 : State := combSt up 5 { cbl 1 with floorTick := 0 }
def stRTTR2 : State := combSt up 5 (cbl 0)
/-- States and operands that meet the hypotheses of each clause of RecordsThroughTheRegion. -/
theorem wit_RecordsThroughTheRegion :
    -- clause 1
    ((rt0.cell 1151).fifo = rr :: ([rr] : List RawRec) ∧
      rr.th < 4 ∧
      (rt0.block (1151 / 16)).store.length < 4096 ∧
      (rt0.block (1151 / 16)).isolated = false ∧
      inGap rt0 rr.gen (corrected rt0 1151 rr.fu) = false ∧
      blkMode rt0 (1151 / 16) = 0 ∧
      (rt0.block (1151 / 16)).modes = [] ∧
      findSlot rt0 (1151 / 16) (frameOf rt0 (corrected rt0 1151 rr.fu)) = some sl0) ∧
    -- clause 2
    ((rt0p.cell 1151).fifo = rp_05 :: ([rr] : List RawRec) ∧
      (rt0p.block (1151 / 16)).store.length < 4096 ∧
      (rt0p.block (1151 / 16)).isolated = false ∧
      inGap rt0p rp_05.gen (corrected rt0p 1151 rp_05.fu) = false ∧
      blkMode rt0p (1151 / 16) = 0 ∧
      (rt0p.block (1151 / 16)).modes = [] ∧
      findSlot rt0p (1151 / 16) (frameOf rt0p (corrected rt0p 1151 rp_05.fu)) = some sl0 ∧
      rp_05.parity = true ∧
      parityOf (1 : W64) = true) ∧
    -- clause 3
    (mergerSlot stRTTR0 (71 / 12) = some rs0 ∧
      (stRTTR0.block 71).floorTick + 128 ≤ stRTTR0.tick ∧
      inputClosed stRTTR0 71 rs0 = false ∧
      71 % 12 < (stRTTR0.comb (71 / 12)).inputs.length ∧
      rs0.start ≤ rs0.stop) ∧
    -- clause 4
    ((stRTTR1.comb 5).out = [] ∧
      (stRTTR1.comb 5).inReset = false ∧
      ((stRTTR1.comb 5).bundle (higherClaim stRTTR1)).state = 2 ∧
      0 < ((stRTTR1.comb 5).bundle (higherClaim stRTTR1)).dataCr ∧
      mergerSlot stRTTR1 5 = some rs2 ∧
      (∀ j < 12, stRTTR1.input (12 * 5 + j) ≠ []) ∧
      stRTTR1.input (12 * 5 + 0) = MItem.record (srec 5 : StoreRec) (0 : ℤ) :: ([] : List MItem) ∧
      (srec 5 : StoreRec).frame = rs2.frame ∧
      (∀ j < 12, ∀ (x : MItem) (more : List MItem), stRTTR1.input (12 * 5 + j) = x :: more → (j < 0 → (srec 5 : StoreRec).fu < x.fu) ∧ (0 < j → (srec 5 : StoreRec).fu ≤ x.fu)) ∧
      (∀ (l : ℤ), rs2.latest = some l → l - 1024000 ≤ (srec 5 : StoreRec).fu)) ∧
    -- clause 5
    ((∀ j < 12, stRTTR2.input (12 * 5 + j) ≠ []) ∧
      mergerSlot stRTTR2 5 = some rs2 ∧
      nextInput stRTTR2 5 rs2 = some 0 ∧
      headIsRec (stRTTR2.input (12 * 5 + 0)) = true ∧
      dataCredit stRTTR2 5 = false) :=
  ⟨by decide +kernel,
   by decide +kernel,
   by decide +kernel,
   (four (by decide +kernel) (four (by decide +kernel) ⟨otherHeads (by decide +kernel), by decide +kernel⟩)),
   by decide +kernel⟩

def stFCU0 : State := combSt (blkSt up 71 { slots := [sl9, sl0], store := [srec 6] }) 5 { slots := [{ rs0 with frame := 5 }, rs0] }
def stFCU1 : State := combSt up 5 { slots := [rs3, rs0], disorder := true, inputs := insF }
/-- States and operands that meet the hypotheses of each clause of FramesCloseUpward. -/
theorem wit_FramesCloseUpward :
    -- clause 1
    ((stFCU0.block 71).slots = sl9 :: ([sl0] : List Slot) ∧
      sl9.markers = BitVec.ofNat 16 65535 ∧
      (sl9.drainTick.isSome = true ∨ outPassed stFCU0 71 sl9.stop = true) ∧
      (∀ r ∈ (stFCU0.block 71).store, r.frame ≠ sl9.frame) ∧
      sl9.taken < 2 ^ 24 ∧
      sl9.mutes.length ≤ 16) ∧
    -- clause 2
    (mergerSlot stFCU1 5 = some rs3 ∧
      (∀ i < 12, (tfind rs3.groups i).isSome = true) ∧
      (∀ (i : ℕ) (r : StoreRec) (fl : ℤ), i < 12 → MItem.record r fl ∈ stFCU1.input (12 * 5 + i) → r.frame ≠ rs3.frame)) ∧
    -- clause 3
    ((cutS.block 71).slots = sl9 :: ([sl0] : List Slot) ∧
      overdue cutS sl9.drainTick = true) ∧
    -- clause 4
    (mergerSlot cutS 5 = some ({ rs3 with drainTick := some 0 } : RegSlot) ∧
      overdue cutS ({ rs3 with drainTick := some 0 } : RegSlot).drainTick = true) :=
  ⟨by decide +kernel,
   ⟨by decide +kernel, by decide +kernel, noRecord (by decide +kernel)⟩,
   by decide +kernel⟩

def stBCF0 : State := combSt up 5 { out := [fd 1, fd 5], bundleA := { state := 2, dataCr := 1, ctlCr := 0, sent := 127 } }
def stBCF1 : State := combSt up 5 { bundleB := { state := 2, inFlight := [fd 3, fd 1] } }
def stBCF2 : State := combSt up 5 { bundleA := { state := 2, fails := 15, inFlight := [fd 2, fd 1] } }
def stBCF3 : State := combSt up 5 { bundleA := { state := 2, fails := 15, failed := true, sent := 5, acked := 3, replay := [fd 0, fd 1, fd 2, fd 3, fd 4] } }
def stBCF4 : State := combSt up 5 { bundleA := { state := 2, retCtl := 16 } }
/-- States and operands that meet the hypotheses of each clause of BridgeCarriesFlits. -/
theorem wit_BridgeCarriesFlits :
    -- clause 1
    ((stBCF0.comb 5).out = (fd 1 : Flit) :: ([fd 5] : List Flit) ∧
      ((stBCF0.comb 5).bundle (higherClaim stBCF0)).state = 2 ∧
      (if 3 ≤ (fd 1 : Flit).kind then ((stBCF0.comb 5).bundle (higherClaim stBCF0)).ctlCr else ((stBCF0.comb 5).bundle (higherClaim stBCF0)).dataCr) ≠ 0 ∧
      ((stBCF0.comb 5).bundle (higherClaim stBCF0)).sent - ((stBCF0.comb 5).bundle (higherClaim stBCF0)).acked < 128 ∧
      (stBCF0.comb 5).inReset = false) ∧
    -- clause 2
    (((stBCF1.comb 5).bundle (otherHive (higherClaim stBCF1))).inFlight = (fd 3 : Flit) :: ([fd 1] : List Flit) ∧
      ((stBCF1.comb 5).bundle (otherHive (higherClaim stBCF1))).failed = false ∧
      (fd 3 : Flit).kind < 8) ∧
    -- clause 3
    (((stBCF2.comb 5).bundle (.a : HiveId)).inFlight = (fd 2 : Flit) :: ([fd 1] : List Flit) ∧
      ((stBCF2.comb 5).bundle (.a : HiveId)).failed = false ∧
      ((stBCF2.comb 5).bundle (.a : HiveId)).fails < 16 ∧
      (1 : BitVec 8) ≠ 0) ∧
    -- clause 4
    (((stBCF3.comb 5).bundle (.a : HiveId)).failed = true ∧
      ((stBCF3.comb 5).bundle (.a : HiveId)).replay.length ≤ 128) ∧
    -- clause 5
    ((16 ≤ if (true : Bool) = true then ((stBCF4.comb 5).bundle (.a : HiveId)).retCtl else ((stBCF4.comb 5).bundle (.a : HiveId)).retData)) ∧
    -- clause 6
    (Ready (.mgmt : Path) 5 up) ∧
    -- clause 7
    (((up.comb 5).bundle (.b : HiveId)).state = 1 ∧
      (up.domain 5).inReset = false) :=
  (four (by decide +kernel) ⟨by decide +kernel, by unfold Ready; decide +kernel,
   by decide +kernel⟩)

def stFRAI0 : State := combSt (cellSt (blkSt up 71 { slots := [sl0, sl9] }) 1151 { fifo := [rr], wrPos := 3 }) 5 { slots := [rs3] }
def stFRAI1 : State := blkSt up 71 { slots := [sl0, sl9], store := [srec 5] }
def stFRAI2 : State := combSt (blkSt up 71 { slots := [sl0, sl9], store := [srec 5] }) 5 { inputs := List.replicate 12 [.floor 0 5] }
def stFRAI3 : State := cfgw up 0x15 Reg.FRM_CTL 1
def stFRAI4 : State := blkSt up 71 { isolated := true }
/-- States and operands that meet the hypotheses of each clause of FifoResetAndIsolation. -/
theorem wit_FifoResetAndIsolation :
    -- clause 1
    (stFRAI0.cb128 = false) ∧
    -- clause 2
    (stFRAI1.cb128 = false ∧
      ((.store 71 : FifoId) = FifoId.store (71 : Fin 72) ∨ (.store 71 : FifoId) = FifoId.mergerIn (71 : Fin 72) ∨ (.store 71 : FifoId) = FifoId.handshake (71 : Fin 72)) ∧
      (.store 71 : FifoId) = FifoId.store (71 : Fin 72)) ∧
    -- clause 2
    (stFRAI2.cb128 = false ∧
      ((.mergerIn 71 : FifoId) = FifoId.store (71 : Fin 72) ∨ (.mergerIn 71 : FifoId) = FifoId.mergerIn (71 : Fin 72) ∨ (.mergerIn 71 : FifoId) = FifoId.handshake (71 : Fin 72)) ∧
      (.mergerIn 71 : FifoId) = FifoId.mergerIn (71 : Fin 72)) ∧
    -- clause 3
    (stFRAI1.cb128 = false ∧
      ((.regionHandshake 5 : FifoId) = FifoId.regionHandshake (5 : Fin 6) ∨ ∃ (h : HiveId), (.regionHandshake 5 : FifoId) = FifoId.replay (5 : Fin 6) h)) ∧
    -- clause 4
    (stFRAI3.cb128 = true) ∧
    -- clause 5
    (Ready (.mgmt : Path) (71 / 12) stFRAI1) ∧
    -- clause 6
    (Ready (.mgmt : Path) (71 / 12) up ∧
      (up.block 71).isolated = false) ∧
    -- clause 6
    (Ready (.mgmt : Path) (71 / 12) stFRAI4 ∧
      (stFRAI4.block 71).isolated = true) :=
  ⟨by decide +kernel,
   by decide +kernel,
   by decide +kernel,
   ⟨by decide +kernel, Or.inl rfl⟩,
   by decide +kernel,
   by unfold Ready; decide +kernel,
   ⟨by unfold Ready; decide +kernel, by decide +kernel⟩,
   ⟨by unfold Ready; decide +kernel, by decide +kernel⟩⟩

def stTP0 : State := combSt (tt0 134 5) 3 { bundleA := { state := 2 } }
def stTP1 : State := tt0 132 5
def stTP2 : State := tt0 133 5
def stTP3 : State := blkSt (cellSt (nsec up 8000) 1151 { prims := [(0, 1023), (3, 1022)] }) 71 {}
/-- States and operands that meet the hypotheses of each clause of TriggerPrimitives. -/
theorem wit_TriggerPrimitives :
    -- clause 1
    (stTP0.chip.started = true ∧
      stTP0.now % 8000 = 0 ∧
      (trigOf stTP0).doneTick ≠ some stTP0.tick ∧
      (trigOf stTP0).jumpAt = none ∧
      (trigOf stTP0).target.cast + 1 < stTP0.now / 8000 - (trigOf stTP0).h ∧
      (trigOf stTP0).before = none) ∧
    -- clause 1
    (stTP1.chip.started = true ∧
      stTP1.now % 8000 = 0 ∧
      (trigOf stTP1).doneTick ≠ some stTP1.tick ∧
      (trigOf stTP1).jumpAt = none ∧
      stTP1.now / 8000 - (trigOf stTP1).h ≤ (trigOf stTP1).target.cast) ∧
    -- clause 1
    (stTP2.chip.started = true ∧
      stTP2.now % 8000 = 0 ∧
      (trigOf stTP2).doneTick ≠ some stTP2.tick ∧
      (trigOf stTP2).jumpAt = none ∧
      stTP2.now / 8000 - (trigOf stTP2).h = (trigOf stTP2).target.cast + 1) ∧
    -- clause 2
    (capturing stTP3 5 = true) ∧
    -- clause 3
    ((lineNow ex0 7).en = true ∧
      (lineNow ex0 7).cond = 2 ∧
      ((lineNow ex0 7).extSrc = 1 ∨ (lineNow ex0 7).extSrc = 2) ∧
      (lineNow ex0 7).extEdge = !(true : Bool) ∧
      (∀ (l : ℤ), lget none (trigOf ex0).extLast 1 = some l → l + 43008 ≤ ex0.mono.cast + 999 - (999 : Int))) :=
  by decide +kernel

def stHTR0 : State := bothTrig (ht ht1 3072) (fun t => { t with h := 0 })
def stHTR1 : State := bothTrig (ht ht1 0) (fun t => { t with h := 0 })
def stHTR2 : State := bothTrig (ht ht1 1124941825) (fun t => { t with h := 0 })
def stHTR3 : State := bothTrig (ht ht1 51200000) (fun t => { t with h := 0, entries := List.replicate 64 { line := 0, t := 0, pre := 0, post := 0, lo := 0, hi := 0, mask := 0, seq := 0, trunc := false, host := false, origins := 0, prim := 0 } })
/-- States and operands that meet the hypotheses of each clause of HostTriggerResults. -/
theorem wit_HostTriggerResults :
    -- clause 1
    (Ready (.lane 3 : Path) (hiveDom (hiveOf stHTR0 (.hiveB : HiveRef))) stHTR0 ∧
      (lineNow stHTR0 (fld (7 : W32) 2 0)).en = true ∧
      (¬stHTR0.now + shortDiff (stHTR0.cfg 19 Reg.TRG_HOST_TIME) (shortOf stHTR0.now) - 1024 * (lineNow stHTR0 (fld (7 : W32) 2 0)).pre.cast < 8000 * (trigOf stHTR0).h) ∧
      (¬1073741824 < stHTR0.now + shortDiff (stHTR0.cfg 19 Reg.TRG_HOST_TIME) (shortOf stHTR0.now) - stHTR0.now) ∧
      pendingEntries (trigOf stHTR0) < 64 ∧
      8000 * (trigOf stHTR0).h ≤ stHTR0.now + shortDiff (stHTR0.cfg 19 Reg.TRG_HOST_TIME) (shortOf stHTR0.now) + 1024 * (lineNow stHTR0 (fld (7 : W32) 2 0)).post.cast) ∧
    -- clause 1
    (Ready (.mgmt : Path) (hiveDom (hiveOf up (.active : HiveRef))) up ∧
      (lineNow up (fld (7 : W32) 2 0)).en = false) ∧
    -- clause 1
    (Ready (.mgmt : Path) (hiveDom (hiveOf stHTR1 (.active : HiveRef))) stHTR1 ∧
      (lineNow stHTR1 (fld (7 : W32) 2 0)).en = true ∧
      stHTR1.now + shortDiff (stHTR1.cfg 19 Reg.TRG_HOST_TIME) (shortOf stHTR1.now) - 1024 * (lineNow stHTR1 (fld (7 : W32) 2 0)).pre.cast < 8000 * (trigOf stHTR1).h) ∧
    -- clause 1
    (Ready (.mgmt : Path) (hiveDom (hiveOf stHTR2 (.active : HiveRef))) stHTR2 ∧
      (lineNow stHTR2 (fld (7 : W32) 2 0)).en = true ∧
      (¬stHTR2.now + shortDiff (stHTR2.cfg 19 Reg.TRG_HOST_TIME) (shortOf stHTR2.now) - 1024 * (lineNow stHTR2 (fld (7 : W32) 2 0)).pre.cast < 8000 * (trigOf stHTR2).h) ∧
      1073741824 < stHTR2.now + shortDiff (stHTR2.cfg 19 Reg.TRG_HOST_TIME) (shortOf stHTR2.now) - stHTR2.now) ∧
    -- clause 1
    (Ready (.mgmt : Path) (hiveDom (hiveOf stHTR3 (.active : HiveRef))) stHTR3 ∧
      (lineNow stHTR3 (fld (7 : W32) 2 0)).en = true ∧
      (¬stHTR3.now + shortDiff (stHTR3.cfg 19 Reg.TRG_HOST_TIME) (shortOf stHTR3.now) - 1024 * (lineNow stHTR3 (fld (7 : W32) 2 0)).pre.cast < 8000 * (trigOf stHTR3).h) ∧
      (¬1073741824 < stHTR3.now + shortDiff (stHTR3.cfg 19 Reg.TRG_HOST_TIME) (shortOf stHTR3.now) - stHTR3.now) ∧
      64 ≤ pendingEntries (trigOf stHTR3)) :=
  ⟨⟨by unfold Ready; decide +kernel, by decide +kernel⟩,
   ⟨by unfold Ready; decide +kernel, by decide +kernel⟩,
   ⟨by unfold Ready; decide +kernel, by decide +kernel⟩,
   ⟨by unfold Ready; decide +kernel, by decide +kernel⟩,
   ⟨by unfold Ready; decide +kernel, by decide +kernel⟩⟩

def stSM0 : State := swOn (sw 0x1230000000000000 0)
def stSM1 : State := bothTrig (sw 0x1230000000000000 0) (fun t => { t with dup := [(0x123, 0)] })
/-- States and operands that meet the hypotheses of each clause of SwarmMessages. -/
theorem wit_SwarmMessages :
    -- clause 1
    (List.find? (fun (q : RxPacket) => decide (q.ptype = 5)) (stSM0.lane 19).rx = some (pk 0x1230000000000000 0 : RxPacket) ∧
      (¬((trigOf stSM0).dup.contains (BitVec.extractLsb' 52 12 ((pk 0x1230000000000000 0 : RxPacket).payload.getD 0 0), BitVec.extractLsb' 0 32 ((pk 0x1230000000000000 0 : RxPacket).payload.getD 0 0)) = true ∨ BitVec.extractLsb' 52 12 ((pk 0x1230000000000000 0 : RxPacket).payload.getD 0 0) = deviceAt stSM0 stSM0.now)) ∧
      swEn stSM0 = true ∧
      originEntry stSM0 (deviceAt stSM0 stSM0.now) (BitVec.extractLsb' 52 12 ((pk 0x1230000000000000 0 : RxPacket).payload.getD 0 0)) = none) ∧
    -- clause 1
    (List.find? (fun (q : RxPacket) => decide (q.ptype = 5)) (stSM1.lane 19).rx = some (pk 0x1230000000000000 0 : RxPacket) ∧
      ((trigOf stSM1).dup.contains (BitVec.extractLsb' 52 12 ((pk 0x1230000000000000 0 : RxPacket).payload.getD 0 0), BitVec.extractLsb' 0 32 ((pk 0x1230000000000000 0 : RxPacket).payload.getD 0 0)) = true ∨ BitVec.extractLsb' 52 12 ((pk 0x1230000000000000 0 : RxPacket).payload.getD 0 0) = deviceAt stSM1 stSM1.now)) :=
  by decide +kernel

def stFMAC0 : State := fm { of0 with abandoned := true } [[rec7 0 500], [rec7 200 400], [rec7 400 401, rec7 400 900], [rec7 600 600], [rec7 800 700], [rec7 1000 800]]
def stFMAC1 : State := { fm of2 [[],[],[],[],[],[]] with tick := 79 }
def stFMAC2 : State := { more { of2 with abandoned := true } (fm of2 [[],[],[],[],[],[]]) with tick := 79 }
/-- States and operands that meet the hypotheses of each clause of FramesMergeAndClose. -/
theorem wit_FramesMergeAndClose :
    -- clause 1
    (fm1.fatal = false ∧
      nextRelease fm1 (higherClaim fm1) = some (of0, 1, (rec7 200 400 : StoreRec)) ∧
      List.Pairwise (fun (a b : OpenFrame) => a.frame ≠ b.frame) (framerOf fm1).frames ∧
      canTake fm1 (higherClaim fm1) of0 (rec7 200 400 : StoreRec) = true ∧
      of0.abandoned = false) ∧
    -- clause 1
    (fm2.fatal = false ∧
      nextRelease fm2 (higherClaim fm2) = some (of1, 1, (rec7 200 400 : StoreRec)) ∧
      List.Pairwise (fun (a b : OpenFrame) => a.frame ≠ b.frame) (framerOf fm2).frames ∧
      canTake fm2 (higherClaim fm2) of1 (rec7 200 400 : StoreRec) = false) ∧
    -- clause 1
    (stFMAC0.fatal = false ∧
      nextRelease stFMAC0 (higherClaim stFMAC0) = some (({ of0 with abandoned := true } : OpenFrame), 1, (rec7 200 400 : StoreRec)) ∧
      List.Pairwise (fun (a b : OpenFrame) => a.frame ≠ b.frame) (framerOf stFMAC0).frames ∧
      canTake stFMAC0 (higherClaim stFMAC0) ({ of0 with abandoned := true } : OpenFrame) (rec7 200 400 : StoreRec) = true ∧
      ({ of0 with abandoned := true } : OpenFrame).abandoned = true) ∧
    -- clause 2
    (stFMAC1.fatal = false ∧
      OldestFrame stFMAC1 (fun (o : OpenFrame) => !o.closed) of2 ∧
      of2.drainTick = some 0 ∧
      (∀ c < 6, closedFor stFMAC1 (higherClaim stFMAC1) of2 c = true) ∧
      (∀ b ∈ (framerOf stFMAC1).sorts, ∀ r ∈ b.recs, r.frame ≠ of2.frame) ∧
      of2.abandoned = false ∧
      (of2.slot.isSome = true ∨ (freeSlot stFMAC1 (higherClaim stFMAC1)).isSome = true) ∧
      (of2.cb128 = false → of2.run = [] ∨ (freeJob stFMAC1 (higherClaim stFMAC1)).isSome = true) ∧
      (of2.cb128 = true → (List.filter (fun (i : ℕ) => (cbJob stFMAC1 (higherClaim stFMAC1) of2.frame i).isNone) (List.range 9)).length ≤ (List.filter (fun (j : ℕ) => decide ((stFMAC1.job (higherClaim stFMAC1) j).state = 0)) (List.range 48)).length)) ∧
    -- clause 2
    (stFMAC2.fatal = false ∧
      OldestFrame stFMAC2 (fun (o : OpenFrame) => !o.closed) ({ of2 with abandoned := true } : OpenFrame) ∧
      ({ of2 with abandoned := true } : OpenFrame).drainTick = some 0 ∧
      (∀ c < 6, closedFor stFMAC2 (higherClaim stFMAC2) ({ of2 with abandoned := true } : OpenFrame) c = true) ∧
      (∀ b ∈ (framerOf stFMAC2).sorts, ∀ r ∈ b.recs, r.frame ≠ ({ of2 with abandoned := true } : OpenFrame).frame) ∧
      ({ of2 with abandoned := true } : OpenFrame).abandoned = true) :=
  ⟨by decide +kernel,
   by decide +kernel,
   by decide +kernel,
   ⟨by decide +kernel, by unfold OldestFrame; decide +kernel, by decide +kernel⟩,
   ⟨by decide +kernel, by unfold OldestFrame; decide +kernel, by decide +kernel⟩⟩

def stHATU0 : State := frSt (more of3 tl0) (fun x => { x with lostRanges := (List.range 20).map (fun i => (BitVec.ofNat 40 i, i)) })
/-- States and operands that meet the hypotheses of each clause of HeadAndTrailUnits. -/
theorem wit_HeadAndTrailUnits :
    -- clause 1
    (hd0.fatal = false ∧
      OldestFrame hd0 (fun (o : OpenFrame) => !o.headDone && !o.cb128 && !o.abandoned) of0 ∧
      (if of0.slot.isSome = true then of0.slot else freeSlot hd0 (higherClaim hd0)) = some 7 ∧
      7 < 8 ∧
      of0.stop ≤ 8000 * (trigOf hd0).h ∧
      CanPut hd0 (higherClaim hd0) (80 + 7) (D 3 16 : W64) (0xFFFFFFFE : BitVec 32) (0xFFFFFFFF : BitVec 32) (headWords of0 (List.map (triggerEntry hd0 of0) (List.take 16383 (listedIn (trigOf hd0) of0)))).length ∧
      (listedIn (trigOf hd0) of0).length ≤ 16383) ∧
    -- clause 2
    (stHATU0.fatal = false ∧
      OldestFrame stHATU0 (fun (o : OpenFrame) => o.closed && o.headDone && !o.cb128 && !o.abandoned && decide (o.run = []) && !(List.range 48).any fun (j : ℕ) => decide ((stHATU0.job (higherClaim stHATU0) j).state ≠ 0) && decide ((stHATU0.job (higherClaim stHATU0) j).frame = o.frame)) of3 ∧
      of3.slot = some 7 ∧
      7 < 8 ∧
      CanPut stHATU0 (higherClaim stHATU0) (80 + 7) (D 3 16 : W64) (0xFFFFFFFE : BitVec 32) (0xFFFFFFFF : BitVec 32) (trailWords of3 (tget 0 (trigOf stHATU0).refused of3.frame.toNat) (tget 0 (trigOf stHATU0).late of3.frame.toNat) (List.take 15 (framerOf stHATU0).lostRanges)).length ∧
      List.take 15 (framerOf stHATU0).lostRanges ≠ []) :=
  ⟨⟨by decide +kernel, by unfold OldestFrame; decide +kernel, by decide +kernel, by decide +kernel, by decide +kernel, canPut_of (by decide +kernel), by decide +kernel⟩,
   ⟨by decide +kernel, by unfold OldestFrame; decide +kernel, by decide +kernel, by decide +kernel, canPut_of (by decide +kernel), by decide +kernel⟩⟩

def stCJ0 : State := (qAt (js 47 jbA) .a 79 (D 3 16) 5 9 9)
def stCJ1 : State := qAt (js 47 { jb_07 with state := 3 }) .a 79 (D 3 7) 5 9 68
def stCJ2 : State := (qAt (js 47 { jb2 with poisoned := true }) .a 79 (D 3 7) 5 9 74).modQueue .a 79 (fun x => { x with opened := some .device, written := 5 })
/-- States and operands that meet the hypotheses of each clause of CompressionJobs. -/
theorem wit_CompressionJobs :
    -- clause 1
    (stCJ0.fatal = false ∧
      stCJ0.chip.throttle < 2 ∧
      runningJobs stCJ0 (higherClaim stCJ0) < 6 ∧
      nextJob stCJ0 (higherClaim stCJ0) = some 47 ∧
      stCJ0.job (higherClaim stCJ0) 47 = jbA ∧
      (∀ (i : ℕ), max jbA.read (jbA.recs.length - jbA.present) ≤ i → i < jbA.recs.length → ∃ (x : W64), WordReads stCJ0 (higherClaim stCJ0) (inputAddr 47 jbA.buf (i - (jbA.recs.length - jbA.present))) x) ∧
      jbA.outWords = jbA.reserved ∧
      jbA.outWords < (jobWords stCJ0 (higherClaim stCJ0) { state := jbA.state, frame := jbA.frame, index := jbA.index, cb := jbA.cb, raw := jbA.raw, recs := inputRead stCJ0 (higherClaim stCJ0) 47 jbA, read := jbA.read, present := jbA.present, buf := jbA.buf, poisoned := jbA.poisoned, ended := jbA.ended, reserved := jbA.reserved, inWords := jbA.inWords, outWords := jbA.outWords, resumable := jbA.resumable, device := jbA.device }).1.length ∧
      QueueAt stCJ0 (higherClaim stCJ0) (32 + 47) (D 3 16 : W64) (5 : BitVec 32) (9 : BitVec 32) (9 : BitVec 32) ∧
      QueueOpenTo stCJ0 (higherClaim stCJ0) (32 + 47) Producer.device (D 3 16 : W64) ∧
      (jbA.reserved = 0 ∧ (stCJ0.queue (higherClaim stCJ0) (32 + 47)).opened = none ∧ (9 : BitVec 32) = (9 : BitVec 32) ∨ jbA.reserved ≠ 0 ∧ (stCJ0.queue (higherClaim stCJ0) (32 + 47)).opened = some Producer.device ∧ (stCJ0.queue (higherClaim stCJ0) (32 + 47)).written = jbA.outWords ∧ (9 : BitVec 32) = ringPos (9 : BitVec 32) (jbA.reserved + 1)) ∧
      jbA.reserved + 64 * (((jobWords stCJ0 (higherClaim stCJ0) { state := jbA.state, frame := jbA.frame, index := jbA.index, cb := jbA.cb, raw := jbA.raw, recs := inputRead stCJ0 (higherClaim stCJ0) 47 jbA, read := jbA.read, present := jbA.present, buf := jbA.buf, poisoned := jbA.poisoned, ended := jbA.ended, reserved := jbA.reserved, inWords := jbA.inWords, outWords := jbA.outWords, resumable := jbA.resumable, device := jbA.device }).1.length - jbA.reserved + 63) / 64) + 1 ≤ 2 ^ d0Size (D 3 16 : W64) - 1 ∧
      jbA.reserved + 64 * (((jobWords stCJ0 (higherClaim stCJ0) { state := jbA.state, frame := jbA.frame, index := jbA.index, cb := jbA.cb, raw := jbA.raw, recs := inputRead stCJ0 (higherClaim stCJ0) 47 jbA, read := jbA.read, present := jbA.present, buf := jbA.buf, poisoned := jbA.poisoned, ended := jbA.ended, reserved := jbA.reserved, inWords := jbA.inWords, outWords := jbA.outWords, resumable := jbA.resumable, device := jbA.device }).1.length - jbA.reserved + 63) / 64) < 2 ^ 24 ∧
      ((9 : BitVec 32) - (5 : BitVec 32)).toNat + jbA.reserved + 64 * (((jobWords stCJ0 (higherClaim stCJ0) { state := jbA.state, frame := jbA.frame, index := jbA.index, cb := jbA.cb, raw := jbA.raw, recs := inputRead stCJ0 (higherClaim stCJ0) 47 jbA, read := jbA.read, present := jbA.present, buf := jbA.buf, poisoned := jbA.poisoned, ended := jbA.ended, reserved := jbA.reserved, inWords := jbA.inWords, outWords := jbA.outWords, resumable := jbA.resumable, device := jbA.device }).1.length - jbA.reserved + 63) / 64) + 1 ≤ 2 ^ d0Size (D 3 16 : W64) ∧
      (∀ i ≤ jbA.reserved + 64 * (((jobWords stCJ0 (higherClaim stCJ0) { state := jbA.state, frame := jbA.frame, index := jbA.index, cb := jbA.cb, raw := jbA.raw, recs := inputRead stCJ0 (higherClaim stCJ0) 47 jbA, read := jbA.read, present := jbA.present, buf := jbA.buf, poisoned := jbA.poisoned, ended := jbA.ended, reserved := jbA.reserved, inWords := jbA.inWords, outWords := jbA.outWords, resumable := jbA.resumable, device := jbA.device }).1.length - jbA.reserved + 63) / 64), WordOpen stCJ0 (higherClaim stCJ0) (ringAddr (D 3 16 : W64) (ringPos (9 : BitVec 32) i))) ∧
      jbA.cb = false) ∧
    -- clause 2
    ((stCJ1.job (higherClaim stCJ1) 47).state = 3 ∧
      (stCJ1.job (higherClaim stCJ1) 47).resumable = false ∧
      QueueAt stCJ1 (higherClaim stCJ1) (32 + 47) (D 3 7 : W64) (5 : BitVec 32) (9 : BitVec 32) (68 : BitVec 32) ∧
      d0En (D 3 7 : W64) = true ∧
      (if (stCJ1.queue (higherClaim stCJ1) (32 + 47)).opened.isSome = true then 64 else 65) ≤ roomOf (D 3 7 : W64) (5 : BitVec 32) (68 : BitVec 32)) ∧
    -- clause 3
    (stCJ2.fatal = false ∧
      List.find? (fun (o : OpenFrame) => decide (o.frame = ({ jb2 with poisoned := true } : Job).frame)) (framerOf stCJ2).frames = some of0 ∧
      stCJ2.job (higherClaim stCJ2) 47 = ({ jb2 with poisoned := true } : Job) ∧
      ({ jb2 with poisoned := true } : Job).state = 2 ∧
      ({ jb2 with poisoned := true } : Job).ended = true ∧
      (({ jb2 with poisoned := true } : Job).cb = true → of0.cbSent = ({ jb2 with poisoned := true } : Job).index) ∧
      (jobWords stCJ2 (higherClaim stCJ2) ({ jb2 with poisoned := true } : Job)).1 ≠ [] ∧
      ({ jb2 with poisoned := true } : Job).outWords = (jobWords stCJ2 (higherClaim stCJ2) ({ jb2 with poisoned := true } : Job)).1.length ∧
      (jobWords stCJ2 (higherClaim stCJ2) ({ jb2 with poisoned := true } : Job)).1.length < 2 ^ 24 ∧
      QueueAt stCJ2 (higherClaim stCJ2) (32 + 47) (D 3 7 : W64) (5 : BitVec 32) (9 : BitVec 32) (74 : BitVec 32) ∧
      QueueOpenTo stCJ2 (higherClaim stCJ2) (32 + 47) Producer.device (D 3 7 : W64) ∧
      (stCJ2.queue (higherClaim stCJ2) (32 + 47)).opened = some Producer.device ∧
      (stCJ2.queue (higherClaim stCJ2) (32 + 47)).written = (jobWords stCJ2 (higherClaim stCJ2) ({ jb2 with poisoned := true } : Job)).1.length ∧
      WordOpen stCJ2 (higherClaim stCJ2) (ringAddr (D 3 7 : W64) (9 : BitVec 32)) ∧
      ({ jb2 with poisoned := true } : Job).poisoned = true) :=
  ⟨(four (by decide +kernel) ⟨by decide +kernel, by unfold WordReads WordOpen; decide +kernel, by decide +kernel, by decide +kernel, queueAt_of (by decide +kernel), openTo_of (by decide +kernel), four (by decide +kernel) ⟨by unfold WordOpen; decide +kernel, by decide +kernel⟩⟩),
   ⟨by decide +kernel, by decide +kernel, queueAt_of (by decide +kernel), by decide +kernel⟩,
   (four (by decide +kernel) (four (by decide +kernel) ⟨by decide +kernel, queueAt_of (by decide +kernel), openTo_of (by decide +kernel), by decide +kernel, by decide +kernel, by unfold WordOpen; decide +kernel, by decide +kernel⟩))⟩

def stQP0 : State := qAt (qsel up .mgmt 65535) .a 65535 (D 7 4) 5 5 5
def stQP1 : State := ((qm .mgmt .a 1024 0 1 (qAt (qsel up .mgmt 1024) .a 1024 (D 7 4) 5 10 15)))
def stQP2 : State := mrg_07 ((qm .mgmt .a 1024 0 0 (qAt (qsel up .mgmt 1024) .a 1024 (D 7 4) 5 20 20))) .a 4098 (ptrWord 20)
/-- States and operands that meet the hypotheses of each clause of QueueProducer. -/
theorem wit_QueueProducer :
    -- clause 1
    (Ready (.mgmt : Path) (hiveDom (hiveOf stQP0 (.active : HiveRef))) stQP0 ∧
      QueueAt stQP0 (hiveOf stQP0 (.active : HiveRef)) (qSel stQP0 (.mgmt : Path)) (D 7 4 : W64) (5 : BitVec 32) (5 : BitVec 32) (5 : BitVec 32) ∧
      QueueOpenTo stQP0 (hiveOf stQP0 (.active : HiveRef)) (qSel stQP0 (.mgmt : Path)) (Producer.path (pathNo (.mgmt : Path))) (D 7 4 : W64) ∧
      NoOtherOpen stQP0 (.mgmt : Path) (qSel stQP0 (.mgmt : Path)) ∧
      ((stQP0.queue (hiveOf stQP0 (.active : HiveRef)) (qSel stQP0 (.mgmt : Path))).opened = none ∧ (5 : BitVec 32) = (5 : BitVec 32) ∨ (stQP0.queue (hiveOf stQP0 (.active : HiveRef)) (qSel stQP0 (.mgmt : Path))).opened = some (Producer.path (pathNo (.mgmt : Path))) ∧ (5 : BitVec 32) ≠ (5 : BitVec 32)) ∧
      ((((5 : BitVec 32) - (5 : BitVec 32)).toNat + if (stQP0.queue (hiveOf stQP0 (.active : HiveRef)) (qSel stQP0 (.mgmt : Path))).opened.isSome = true then fld (14 : W32) 23 0 else fld (14 : W32) 23 0 + 1) ≤ 2 ^ d0Size (D 7 4 : W64) - 1) ∧
      ((((5 : BitVec 32) - (5 : BitVec 32)).toNat + if (stQP0.queue (hiveOf stQP0 (.active : HiveRef)) (qSel stQP0 (.mgmt : Path))).opened.isSome = true then fld (14 : W32) 23 0 else fld (14 : W32) 23 0 + 1) ≤ 2 ^ 24) ∧
      (if (stQP0.queue (hiveOf stQP0 (.active : HiveRef)) (qSel stQP0 (.mgmt : Path))).opened.isSome = true then fld (14 : W32) 23 0 else fld (14 : W32) 23 0 + 1) ≤ roomOf (D 7 4 : W64) (5 : BitVec 32) (5 : BitVec 32) ∧
      BitVec.toNat (14 : W32) < 2 ^ 24 ∧
      (stQP0.queue (hiveOf stQP0 (.active : HiveRef)) (qSel stQP0 (.mgmt : Path))).opened = none) ∧
    -- clause 1
    (Ready (.mgmt : Path) (hiveDom (hiveOf stQP1 (.active : HiveRef))) stQP1 ∧
      QueueAt stQP1 (hiveOf stQP1 (.active : HiveRef)) (qSel stQP1 (.mgmt : Path)) (D 7 4 : W64) (5 : BitVec 32) (10 : BitVec 32) (15 : BitVec 32) ∧
      QueueOpenTo stQP1 (hiveOf stQP1 (.active : HiveRef)) (qSel stQP1 (.mgmt : Path)) (Producer.path (pathNo (.mgmt : Path))) (D 7 4 : W64) ∧
      NoOtherOpen stQP1 (.mgmt : Path) (qSel stQP1 (.mgmt : Path)) ∧
      ((stQP1.queue (hiveOf stQP1 (.active : HiveRef)) (qSel stQP1 (.mgmt : Path))).opened = none ∧ (15 : BitVec 32) = (10 : BitVec 32) ∨ (stQP1.queue (hiveOf stQP1 (.active : HiveRef)) (qSel stQP1 (.mgmt : Path))).opened = some (Producer.path (pathNo (.mgmt : Path))) ∧ (15 : BitVec 32) ≠ (10 : BitVec 32)) ∧
      ((((15 : BitVec 32) - (10 : BitVec 32)).toNat + if (stQP1.queue (hiveOf stQP1 (.active : HiveRef)) (qSel stQP1 (.mgmt : Path))).opened.isSome = true then fld (2 : W32) 23 0 else fld (2 : W32) 23 0 + 1) ≤ 2 ^ d0Size (D 7 4 : W64) - 1) ∧
      ((((15 : BitVec 32) - (10 : BitVec 32)).toNat + if (stQP1.queue (hiveOf stQP1 (.active : HiveRef)) (qSel stQP1 (.mgmt : Path))).opened.isSome = true then fld (2 : W32) 23 0 else fld (2 : W32) 23 0 + 1) ≤ 2 ^ 24) ∧
      (if (stQP1.queue (hiveOf stQP1 (.active : HiveRef)) (qSel stQP1 (.mgmt : Path))).opened.isSome = true then fld (2 : W32) 23 0 else fld (2 : W32) 23 0 + 1) ≤ roomOf (D 7 4 : W64) (5 : BitVec 32) (15 : BitVec 32) ∧
      BitVec.toNat (2 : W32) < 2 ^ 24 ∧
      (stQP1.queue (hiveOf stQP1 (.active : HiveRef)) (qSel stQP1 (.mgmt : Path))).opened ≠ none) ∧
    -- clause 2
    (Ready (.mgmt : Path) (hiveDom (hiveOf wq (.active : HiveRef))) wq ∧
      (wq.path (.mgmt : Path)).wTag = some (cfgPage 23 + Reg.Q_WDATA_LO) ∧
      QueueAt wq (hiveOf wq (.active : HiveRef)) (qSel wq (.mgmt : Path)) (D 7 4 : W64) (5 : BitVec 32) (20 : BitVec 32) (23 : BitVec 32) ∧
      QueueOpenTo wq (hiveOf wq (.active : HiveRef)) (qSel wq (.mgmt : Path)) (Producer.path (pathNo (.mgmt : Path))) (D 7 4 : W64) ∧
      (wq.queue (hiveOf wq (.active : HiveRef)) (qSel wq (.mgmt : Path))).opened = some (Producer.path (pathNo (.mgmt : Path))) ∧
      (wq.queue (hiveOf wq (.active : HiveRef)) (qSel wq (.mgmt : Path))).written + 1 < ((23 : BitVec 32) - (20 : BitVec 32)).toNat ∧
      WordOpen wq (hiveOf wq (.active : HiveRef)) (ringAddr (D 7 4 : W64) (ringPos (20 : BitVec 32) ((wq.queue (hiveOf wq (.active : HiveRef)) (qSel wq (.mgmt : Path))).written + 1)))) ∧
    -- clause 3
    (Ready (.mgmt : Path) (hiveDom (hiveOf wq (.hiveA : HiveRef))) wq ∧
      QueueAt wq (hiveOf wq (.hiveA : HiveRef)) (qSel wq (.mgmt : Path)) (D 7 4 : W64) (5 : BitVec 32) (20 : BitVec 32) (23 : BitVec 32) ∧
      QueueOpenTo wq (hiveOf wq (.hiveA : HiveRef)) (qSel wq (.mgmt : Path)) (Producer.path (pathNo (.mgmt : Path))) (D 7 4 : W64) ∧
      (wq.queue (hiveOf wq (.hiveA : HiveRef)) (qSel wq (.mgmt : Path))).opened = some (Producer.path (pathNo (.mgmt : Path))) ∧
      (wq.queue (hiveOf wq (.hiveA : HiveRef)) (qSel wq (.mgmt : Path))).written < 2 ^ 24 ∧
      WordOpen wq (hiveOf wq (.hiveA : HiveRef)) (ringAddr (D 7 4 : W64) (20 : BitVec 32)) ∧
      (wq.queue (hiveOf wq (.hiveA : HiveRef)) (qSel wq (.mgmt : Path))).written ≠ 0) ∧
    -- clause 3
    (Ready (.mgmt : Path) (hiveDom (hiveOf stQP2 (.hiveA : HiveRef))) stQP2 ∧
      QueueAt stQP2 (hiveOf stQP2 (.hiveA : HiveRef)) (qSel stQP2 (.mgmt : Path)) (D 7 4 : W64) (5 : BitVec 32) (20 : BitVec 32) (20 : BitVec 32) ∧
      QueueOpenTo stQP2 (hiveOf stQP2 (.hiveA : HiveRef)) (qSel stQP2 (.mgmt : Path)) (Producer.path (pathNo (.mgmt : Path))) (D 7 4 : W64) ∧
      (stQP2.queue (hiveOf stQP2 (.hiveA : HiveRef)) (qSel stQP2 (.mgmt : Path))).opened = some (Producer.path (pathNo (.mgmt : Path))) ∧
      (stQP2.queue (hiveOf stQP2 (.hiveA : HiveRef)) (qSel stQP2 (.mgmt : Path))).written < 2 ^ 24 ∧
      WordOpen stQP2 (hiveOf stQP2 (.hiveA : HiveRef)) (ringAddr (D 7 4 : W64) (20 : BitVec 32)) ∧
      (stQP2.queue (hiveOf stQP2 (.hiveA : HiveRef)) (qSel stQP2 (.mgmt : Path))).written = 0) ∧
    -- clause 4
    (Ready (.mgmt : Path) (hiveDom (hiveOf wq (.hiveA : HiveRef))) wq ∧
      QueueAt wq (hiveOf wq (.hiveA : HiveRef)) (qSel wq (.mgmt : Path)) (D 7 4 : W64) (5 : BitVec 32) (20 : BitVec 32) (23 : BitVec 32) ∧
      QueueOpenTo wq (hiveOf wq (.hiveA : HiveRef)) (qSel wq (.mgmt : Path)) (Producer.path (pathNo (.mgmt : Path))) (D 7 4 : W64) ∧
      (wq.queue (hiveOf wq (.hiveA : HiveRef)) (qSel wq (.mgmt : Path))).opened = some (Producer.path (pathNo (.mgmt : Path)))) :=
  ⟨⟨by unfold Ready; decide +kernel, queueAt_of (by decide +kernel), openTo_of (by decide +kernel), by unfold NoOtherOpen; decide +kernel, by decide +kernel⟩,
   ⟨by unfold Ready; decide +kernel, queueAt_of (by decide +kernel), openTo_of (by decide +kernel), by unfold NoOtherOpen; decide +kernel, by decide +kernel⟩,
   ⟨by unfold Ready; decide +kernel, by decide +kernel, queueAt_of (by decide +kernel), openTo_of (by decide +kernel), by decide +kernel, by decide +kernel, by unfold WordOpen; decide +kernel⟩,
   ⟨by unfold Ready; decide +kernel, queueAt_of (by decide +kernel), openTo_of (by decide +kernel), by decide +kernel, by decide +kernel, by unfold WordOpen; decide +kernel, by decide +kernel⟩,
   ⟨by unfold Ready; decide +kernel, queueAt_of (by decide +kernel), openTo_of (by decide +kernel), by decide +kernel, by decide +kernel, by unfold WordOpen; decide +kernel, by decide +kernel⟩,
   ⟨by unfold Ready; decide +kernel, queueAt_of (by decide +kernel), openTo_of (by decide +kernel), by decide +kernel⟩⟩

def stQCAC0 : State := qsel pq .jtag 1024
def stQCAC1 : State := rq_07 (ntc up)
def stQCAC2 : State := { (qAt up .b 1024 (D 7 4) 1 2 9).modQueue .b 1024 (fun x => { x with opened := some (.path 5), written := 1 }) with tick := 2^30 }
/-- States and operands that meet the hypotheses of each clause of QueueConsumerAndControl. -/
theorem wit_QueueConsumerAndControl :
    -- clause 1
    (ReadyRead (.lane 4 : Path) (hiveDom (hiveOf pq (.hiveB : HiveRef))) pq ∧
      mayPop (.lane 4 : Path) (qSel pq (.lane 4 : Path)) = true ∧
      QueueAt pq (hiveOf pq (.hiveB : HiveRef)) (qSel pq (.lane 4 : Path)) (D 7 4 : W64) (0xFFFFFFFF : BitVec 32) (3 : BitVec 32) (5 : BitVec 32) ∧
      (0xFFFFFFFF : BitVec 32) ≠ (3 : BitVec 32) ∧
      RingAbove (D 7 4 : W64) ∧
      WordReads pq (hiveOf pq (.hiveB : HiveRef)) (ringAddr (D 7 4 : W64) (0xFFFFFFFF : BitVec 32)) (0x123456789ABCDEF0 : W64)) ∧
    -- clause 2
    (Ready (.jtag : Path) (hiveDom (hiveOf stQCAC0 (.hiveB : HiveRef))) stQCAC0 ∧
      mayPop (.jtag : Path) (qSel stQCAC0 (.jtag : Path)) = true ∧
      QueueAt stQCAC0 (hiveOf stQCAC0 (.hiveB : HiveRef)) (qSel stQCAC0 (.jtag : Path)) (D 7 4 : W64) (0xFFFFFFFF : BitVec 32) (3 : BitVec 32) (5 : BitVec 32) ∧
      BitVec.toNat (4 : W32) ≤ ((3 : BitVec 32) - (0xFFFFFFFF : BitVec 32)).toNat ∧
      BitVec.toNat (4 : W32) < 2 ^ 24) ∧
    -- clause 3
    (Ready (.mgmt : Path) (hiveDom (hiveOf stQCAC1 (.active : HiveRef))) stQCAC1 ∧
      (qClass (qSel stQCAC1 (.mgmt : Path))).isSome = true ∧
      QueueAt stQCAC1 (hiveOf stQCAC1 (.active : HiveRef)) (qSel stQCAC1 (.mgmt : Path)) (D 3 7 : W64) (5 : BitVec 32) (9 : BitVec 32) (74 : BitVec 32) ∧
      qSel stQCAC1 (.mgmt : Path) ≠ 0 ∧
      32 ≤ qSel stQCAC1 (.mgmt : Path) ∧
      qSel stQCAC1 (.mgmt : Path) ≤ 87 ∧
      NoticesOpen stQCAC1) ∧
    -- clause 4
    (Ready (.mgmt : Path) (hiveDom (hiveOf cq (.active : HiveRef))) cq ∧
      qFixed (qSel cq (.mgmt : Path)) = false ∧
      BitVec.toNat (0x5FFFFFF : W32) < 2 ^ 27 ∧
      (∀ (h : HiveId), ∃ (d0 : W64) (hd : BitVec 32) (tl : BitVec 32) (rs : BitVec 32), QueueAt cq h (qSel cq (.mgmt : Path)) d0 hd tl rs ∧ qCfgLocked (0x5FFFFFF : W32) d0 = false ∧ qCfgRefused cq h (qSel cq (.mgmt : Path)) (0x5FFFFFF : W32) d0 = false) ∧
      bit (0x5FFFFFF : W32) 25 = false) ∧
    -- clause 5
    ((stQCAC2.queue (.b : HiveId) 1024).opened = some (Producer.path 5) ∧
      (64 ≤ 5 → (stQCAC2.worker (5 - 64)).state ≠ WorkState.halted) ∧
      QueueAt stQCAC2 (.b : HiveId) 1024 (D 7 4 : W64) (1 : BitVec 32) (2 : BitVec 32) (9 : BitVec 32) ∧
      d0Tmo (D 7 4 : W64) = true ∧
      2 ^ fld (stQCAC2.cfg 23 Reg.Q_OPEN_TMO) 5 0 ≤ stQCAC2.tick - (stQCAC2.queue (.b : HiveId) 1024).lastUse - (stQCAC2.queue (.b : HiveId) 1024).frozen ∧
      1024 ≠ 0) :=
  ⟨⟨by unfold ReadyRead Ready; decide +kernel, by decide +kernel, queueAt_of (by decide +kernel), by decide +kernel, by unfold RingAbove; decide +kernel, wordReads_of (by decide +kernel)⟩,
   ⟨by unfold Ready; decide +kernel, by decide +kernel, queueAt_of (by decide +kernel), by decide +kernel⟩,
   ⟨by unfold Ready; decide +kernel, by decide +kernel, queueAt_of (by decide +kernel), by decide +kernel, by decide +kernel, by decide +kernel, noticesOpen_of (by decide +kernel)⟩,
   ⟨by unfold Ready; decide +kernel, by decide +kernel, by decide +kernel, hives ⟨d0Of 4 5 6 false false, 1, 2, 3, queueAt_of (by decide +kernel), by decide +kernel⟩ ⟨d0Of 4 5 6 false false, 1, 2, 3, queueAt_of (by decide +kernel), by decide +kernel⟩, by decide +kernel⟩,
   ⟨by decide +kernel, by decide +kernel, queueAt_of (by decide +kernel), by decide +kernel⟩⟩

def stUAP0 : State := at3 up
def stUAP1 : State := plSt pbase (fun x => { x with waiting := [un2] })
def stUAP2 : State := plSt (plw pbase Reg.PLC_DUMP_RCV 63) (fun x => { x with dumpBack := [[5,6], [7]] })
/-- States and operands that meet the hypotheses of each clause of UnitsArePlaced. -/
theorem wit_UnitsArePlaced :
    -- clause 1
    (placing stUAP0 = true ∧
      takenBack stUAP0 (higherClaim stUAP0) 63 = [] ∧
      nextUnit stUAP0 (higherClaim stUAP0) 63 = some un ∧
      rcvEn stUAP0 63 = true ∧
      leastLoaded stUAP0 (eligibleLanes stUAP0 63) = some 19 ∧
      un.len ≤ creditOf stUAP0 (higherClaim stUAP0) 63 ∧
      QueueAt stUAP0 (higherClaim stUAP0) un.queue (D 3 4 : W64) (3 : BitVec 32) (9 : BitVec 32) (9 : BitVec 32) ∧
      RingAbove (D 3 4 : W64) ∧
      (∀ i < un.len, WordReads stUAP0 (higherClaim stUAP0) (ringAddr (D 3 4 : W64) (BitVec.ofNat 32 (un.pos + 1 + i))) (xs i)) ∧
      (stUAP0.queue (higherClaim stUAP0) un.queue).freed = [] ∧
      (3 : BitVec 32).toNat = un.pos ∧
      un.len + 1 ≤ ((9 : BitVec 32) - (3 : BitVec 32)).toNat) ∧
    -- clause 1
    (placing up1 = true ∧
      takenBack up1 (higherClaim up1) 63 = [] ∧
      nextUnit up1 (higherClaim up1) 63 = some un ∧
      rcvEn up1 63 = true ∧
      leastLoaded up1 (eligibleLanes up1 63) = some 19 ∧
      un.len ≤ creditOf up1 (higherClaim up1) 63 ∧
      QueueAt up1 (higherClaim up1) un.queue (D 3 4 : W64) (2 : BitVec 32) (9 : BitVec 32) (9 : BitVec 32) ∧
      RingAbove (D 3 4 : W64) ∧
      (∀ i < un.len, WordReads up1 (higherClaim up1) (ringAddr (D 3 4 : W64) (BitVec.ofNat 32 (un.pos + 1 + i))) (xs i)) ∧
      (∀ f ∈ (up1.queue (higherClaim up1) un.queue).freed, f.1 ≠ (2 : BitVec 32).toNat) ∧
      (2 : BitVec 32).toNat ≠ un.pos) ∧
    -- clause 2
    (placing stUAP1 = true ∧
      rcvEn stUAP1 63 = true ∧
      eligibleLanes stUAP1 63 ≠ [] ∧
      takenBack stUAP1 (higherClaim stUAP1) 63 ≠ []) ∧
    -- clause 3
    (dumping stUAP2 (higherClaim stUAP2) = false ∧
      dumpLane stUAP2 = some 19 ∧
      (stUAP2.hive (higherClaim stUAP2)).place.dumpBack = ([5, 6] : List W64) :: ([[7]] : List (List W64))) ∧
    -- clause 4
    (dumping q1 (higherClaim q1) = false ∧
      dumpLane q1 = some 19 ∧
      (q1.hive (higherClaim q1)).place.dumpBack = [] ∧
      QueueAt q1 (higherClaim q1) 1 (D 2 4 : W64) (0xFFFFFFFF : BitVec 32) (4 : BitVec 32) (4 : BitVec 32) ∧
      RingAbove (D 2 4 : W64) ∧
      (∀ i ≤ 2, WordReads q1 (higherClaim q1) (ringAddr (D 2 4 : W64) (ringPos (0xFFFFFFFF : BitVec 32) i)) (((fun i => [0x20000000000#64, 0x55, 0x66].getD i 0) : ℕ → W64) i)) ∧
      (fieldN (BitVec.toNat (((fun i => [0x20000000000#64, 0x55, 0x66].getD i 0) : ℕ → W64) 0)) 63 40 = 2) ∧
      2 + 1 ≤ ((4 : BitVec 32) - (0xFFFFFFFF : BitVec 32)).toNat) :=
  ⟨(four (by decide +kernel) ⟨by decide +kernel, by decide +kernel, queueAt_of (by decide +kernel), by unfold RingAbove; decide +kernel, by unfold WordReads WordOpen; decide +kernel, by decide +kernel⟩),
   (four (by decide +kernel) ⟨by decide +kernel, by decide +kernel, queueAt_of (by decide +kernel), by unfold RingAbove; decide +kernel, by unfold WordReads WordOpen; decide +kernel, by decide +kernel⟩),
   by decide +kernel,
   by decide +kernel,
   ⟨by decide +kernel, by decide +kernel, by decide +kernel, queueAt_of (by decide +kernel), by unfold RingAbove; decide +kernel, by unfold WordReads WordOpen; decide +kernel, by decide +kernel⟩⟩

def stSAJP0 : State := plw up Reg.PLC_SWITCH_FRAME_LO 1
def stSAJP1 : State := onC up (fun c => { c with plcArmed := some 5, plcState := 1 })
def stSAJP2 : State := cfgw (qall jb3 5) 0x18 Reg.PLC_CTL 2
def stSAJP3 : State := cfgw (qall (plSt jb3 (fun x => { x with jobsBack := [(4, [(jw, 7)])] })) 4) 0x18 Reg.PLC_CTL 2
/-- States and operands that meet the hypotheses of each clause of SwitchAndJobPlacement. -/
theorem wit_SwitchAndJobPlacement :
    -- clause 1
    (Ready (.mgmt : Path) (hiveDom (hiveOf up (.active : HiveRef))) up ∧
      frameDiff (BitVec.ofNat 40 (up.reg64 (cfgPage 24) Reg.PLC_SWITCH_FRAME_LO)) up.frameNow ≤ 0 ∧
      up.chip.plcArmed = none) ∧
    -- clause 1
    (Ready (.mgmt : Path) (hiveDom (hiveOf stSAJP0 (.active : HiveRef))) stSAJP0 ∧
      0 < frameDiff (BitVec.ofNat 40 (stSAJP0.reg64 (cfgPage 24) Reg.PLC_SWITCH_FRAME_LO)) stSAJP0.frameNow) ∧
    -- clause 2
    (Ready (.mgmt : Path) (hiveDom (hiveOf up (.active : HiveRef))) up ∧
      up.chip.plcArmed = none) ∧
    -- clause 2
    (Ready (.mgmt : Path) (hiveDom (hiveOf stSAJP1 (.active : HiveRef))) stSAJP1 ∧
      stSAJP1.chip.plcArmed ≠ none) ∧
    -- clause 3
    (bit (stSAJP2.cfg 24 Reg.PLC_CTL) 1 = true ∧
      stSAJP2.fatal = false ∧
      headJob stSAJP2 (higherClaim stSAJP2) 5 = some (some ((jw, 7) : W64 × W64), (none : Option ℕ)) ∧
      (∀ (q : ℕ), (q = 88 + 5 ∨ ∃ w ∈ intakeWorkers (higherClaim stSAJP2) 5, q = 256 + w) → ∃ (d0 : W64) (hd : BitVec 32) (tl : BitVec 32) (rs : BitVec 32), QueueAt stSAJP2 (higherClaim stSAJP2) q d0 hd tl rs) ∧
      jobFits 5 ((jw, 7) : W64 × W64).1 = true ∧
      chooseWorker stSAJP2 (higherClaim stSAJP2) 5 ((jw, 7) : W64 × W64).1 = some 143 ∧
      CanPut stSAJP2 (higherClaim stSAJP2) (256 + 143) (D 4 6 : W64) (5 : BitVec 32) (8 : BitVec 32) 2 ∧
      (∀ (k : ℕ) (e0 : W64) (ed el es : BitVec 32), (none : Option ℕ) = some k → QueueAt stSAJP2 (higherClaim stSAJP2) (88 + 5) e0 ed el es → RingAbove e0 ∧ k ≤ (el - ed).toNat ∧ ∀ m < k, ∃ (x : W64), WordReads stSAJP2 (higherClaim stSAJP2) (ringAddr e0 (ringPos ed m)) x) ∧
      (none : Option ℕ) = none) ∧
    -- clause 3
    (bit (stSAJP3.cfg 24 Reg.PLC_CTL) 1 = true ∧
      stSAJP3.fatal = false ∧
      headJob stSAJP3 (higherClaim stSAJP3) 4 = some (some ((jw, 7) : W64 × W64), (none : Option ℕ)) ∧
      (∀ (q : ℕ), (q = 88 + 4 ∨ ∃ w ∈ intakeWorkers (higherClaim stSAJP3) 4, q = 256 + w) → ∃ (d0 : W64) (hd : BitVec 32) (tl : BitVec 32) (rs : BitVec 32), QueueAt stSAJP3 (higherClaim stSAJP3) q d0 hd tl rs) ∧
      jobFits 4 ((jw, 7) : W64 × W64).1 = false ∧
      (none : Option ℕ) = none) :=
  ⟨⟨by unfold Ready; decide +kernel, by decide +kernel⟩,
   ⟨by unfold Ready; decide +kernel, by decide +kernel⟩,
   ⟨by unfold Ready; decide +kernel, by decide +kernel⟩,
   ⟨by unfold Ready; decide +kernel, by decide +kernel⟩,
   ⟨by decide +kernel, by decide +kernel, by decide +kernel, queuesAt (by decide +kernel), by decide +kernel, by decide +kernel, canPut_of (by decide +kernel), (by intro k e0 ed el es hk; cases hk), by decide +kernel⟩,
   ⟨by decide +kernel, by decide +kernel, by decide +kernel, queuesAt (by decide +kernel), by decide +kernel⟩⟩

def stLCAG0 : State := laneSt (lw up 19 Reg.LNK_CFG 1) 19 { hdrs := BitVec.allOnes 64 }
def stLCAG1 : State := (upL up 19).modLane 19 (fun x => { x with hdrs := BitVec.allOnes 48 |>.zeroExtend 64 })
def stLCAG2 : State := upL up 19
/-- States and operands that meet the hypotheses of each clause of LinksComeAndGo. -/
theorem wit_LinksComeAndGo :
    -- clause 1
    (canLock stLCAG0 19 = true ∧
      (stLCAG0.lane 19).hdrs = BitVec.allOnes 64) ∧
    -- clause 2
    ((stLCAG1.lane 19).lock = true ∧
      16 ≤ badHeaders (stLCAG1.lane 19) ∧
      (stLCAG1.lane 19).state = LaneState.up) ∧
    -- clause 3
    (Ready (.lane 19 : Path) 8 stLCAG2 ∧
      (stLCAG2.lane 19).state ≠ LaneState.asleep ∧
      (stLCAG2.lane 19).state ≠ LaneState.prbs ∧
      (stLCAG2.lane 19).state = LaneState.up) ∧
    -- clause 4
    (Ready (.mgmt : Path) 8 stLCAG2 ∧
      (stLCAG2.lane 19).state ≠ LaneState.asleep ∧
      canTrain stLCAG2 19 = true ∧
      (stLCAG2.lane 19).state = LaneState.up) ∧
    -- clause 5
    (Ready (.mgmt : Path) 8 stLCAG2) :=
  ⟨by decide +kernel,
   by decide +kernel,
   ⟨by unfold Ready; decide +kernel, by decide +kernel⟩,
   ⟨by unfold Ready; decide +kernel, by decide +kernel⟩,
   by unfold Ready; decide +kernel⟩

def stPGO0 : State := mlane (fun x => { x with waiting := [] })
def stPGO1 : State := mlane id
def stPGO2 : State := (takeSwarm 7 swq).1
def stPGO3 : State := mlane (fun x => { x with resend := 2 })
def stPGO4 : State := lw (mlane (fun x => { x with state := .prbs, gen := 5, inj := some (1, 7, 0) })) 7 Reg.LNK_PRBS_CFG 0x25
def stPGO5 : State := { mlane (fun x => { x with roundStart := some 0 }) with tick := 2^21 }
def stPGO6 : State := { mlane id with tick := 2^21 }
def stPGO7 : State := { mlane (fun x => { x with roundStart := some 0, rounds := 254 }) with tick := 2^21 }
def stPGO8 : State := { mlane (fun x => { x with nakSent := some 0 }) with tick := 2^21 }
/-- States and operands that meet the hypotheses of each clause of PacketsGoOut. -/
theorem wit_PacketsGoOut :
    -- clause 1
    (Sending 7 stPGO0 ∧
      ((stPGO0.lane 7).state ≠ LaneState.up ∨ (stPGO0.lane 7).resend = 0 ∧ (64 ≤ (stPGO0.lane 7).retry.length ∨ nextWaiting (stPGO0.lane 7) = none ∧ takeSwarm 7 stPGO0 = (stPGO0, none)))) ∧
    -- clause 2
    (Sending 7 stPGO1 ∧
      (stPGO1.lane 7).state = LaneState.up ∧
      (stPGO1.lane 7).resend = 0 ∧
      (stPGO1.lane 7).retry.length < 64 ∧
      takeSwarm 7 stPGO1 = (stPGO1, none) ∧
      nextWaiting (stPGO1.lane 7) = some 0 ∧
      (stPGO1.lane 7).waiting[0]? = some (⟨1, .unit untx true true, 5, [1,2,3,4], 0, 3, 0⟩ : TxPacket) ∧
      (stPGO1.lane 7).sleepTick = none) ∧
    -- clause 3
    (Sending 7 swq ∧
      (swq.lane 7).state = LaneState.up ∧
      (swq.lane 7).resend = 0 ∧
      (swq.lane 7).retry.length < 64 ∧
      takeSwarm 7 swq = (stPGO2, some (((takeSwarm 7 swq).2).getD ⟨1, .swarm, 5, [], 0, 3, 0⟩ : TxPacket))) ∧
    -- clause 4
    (Sending 7 stPGO3 ∧
      (stPGO3.lane 7).state = LaneState.up ∧
      0 < (stPGO3.lane 7).resend ∧
      (stPGO3.lane 7).retry[(stPGO3.lane 7).retry.length - (stPGO3.lane 7).resend]? = some (⟨4, .waggle (some 5), 0, [5], 3, 3, 0⟩ : TxPacket)) ∧
    -- clause 5
    (stPGO4.chip.started = true ∧
      stPGO4.chip.extest = false ∧
      (stPGO4.lane 7).powered = true ∧
      (stPGO4.lane 7).idleOut = false ∧
      (stPGO4.lane 7).txAwake = true ∧
      laneRole stPGO4 7 ≠ 0 ∧
      (stPGO4.lane 7).state = LaneState.prbs ∧
      bit (stPGO4.reg (lanePage 7) Reg.LNK_PRBS_CFG) 0 = true) ∧
    -- clause 6
    ((stPGO5.lane 7).state = LaneState.up ∧
      (stPGO5.lane 7).resend < (stPGO5.lane 7).retry.length ∧
      (stPGO5.lane 7).retry = (mixL.headD ⟨1, .swarm, 5, [], 0, 3, 0⟩ : TxPacket) :: (mixL.tail : List TxPacket) ∧
      (mixL.headD ⟨1, .swarm, 5, [], 0, 3, 0⟩ : TxPacket).sentTick + retryTicks stPGO5 7 ≤ stPGO5.tick ∧
      (∃ (q : BitVec 8), (stPGO5.lane 7).roundStart = some q ∧ ∃ r ∈ (stPGO5.lane 7).retry, r.seq = q) ∧
      (stPGO5.lane 7).rounds + 1 < fld (stPGO5.reg (lanePage 7) Reg.LNK_RETRY_MAX) 7 0) ∧
    -- clause 6
    ((stPGO6.lane 7).state = LaneState.up ∧
      (stPGO6.lane 7).resend < (stPGO6.lane 7).retry.length ∧
      (stPGO6.lane 7).retry = (mixL.headD ⟨1, .swarm, 5, [], 0, 3, 0⟩ : TxPacket) :: (mixL.tail : List TxPacket) ∧
      (mixL.headD ⟨1, .swarm, 5, [], 0, 3, 0⟩ : TxPacket).sentTick + retryTicks stPGO6 7 ≤ stPGO6.tick ∧
      (¬∃ (q : BitVec 8), (stPGO6.lane 7).roundStart = some q ∧ ∃ r ∈ (stPGO6.lane 7).retry, r.seq = q)) ∧
    -- clause 6
    ((stPGO7.lane 7).state = LaneState.up ∧
      (stPGO7.lane 7).resend < (stPGO7.lane 7).retry.length ∧
      (stPGO7.lane 7).retry = (mixL.headD ⟨1, .swarm, 5, [], 0, 3, 0⟩ : TxPacket) :: (mixL.tail : List TxPacket) ∧
      (mixL.headD ⟨1, .swarm, 5, [], 0, 3, 0⟩ : TxPacket).sentTick + retryTicks stPGO7 7 ≤ stPGO7.tick ∧
      (∃ (q : BitVec 8), (stPGO7.lane 7).roundStart = some q ∧ ∃ r ∈ (stPGO7.lane 7).retry, r.seq = q) ∧
      fld (stPGO7.reg (lanePage 7) Reg.LNK_RETRY_MAX) 7 0 ≤ (stPGO7.lane 7).rounds + 1) ∧
    -- clause 7
    ((stPGO8.lane 7).nakSent = some 0 ∧
      (stPGO8.lane 7).state = LaneState.up ∧
      (stPGO8.lane 7).nakOwed = false ∧
      0 + retryTicks stPGO8 7 ≤ stPGO8.tick) :=
  ⟨⟨by unfold Sending; decide +kernel, by decide +kernel⟩,
   ⟨by unfold Sending; decide +kernel, by decide +kernel⟩,
   ⟨by unfold Sending; decide +kernel, by decide +kernel⟩,
   ⟨by unfold Sending; decide +kernel, by decide +kernel⟩,
   by decide +kernel⟩

def stPCI0 : State := mlane id
def stPCI1 : State := mlane (fun x => { x with state := .training, goodIdle := 5 })
def stPCI2 : State := mlane (fun x => { x with resend := 5 })
def stPCI3 : State := mlane (fun x => { x with state := .training, goodIdle := 7 })
def stPCI4 : State := mlane (fun x => { x with state := .training, goodIdle := 6 })
def stPCI5 : State := lw (mlane (fun x => { x with state := .prbs, chk := { reg := 7 } })) 7 Reg.LNK_PRBS_CFG 2
def stPCI6 : State := crd 0xABCD555500000003
/-- States and operands that meet the hypotheses of each clause of PacketsComeIn. -/
theorem wit_PacketsComeIn :
    -- clause 1
    (Hearing 7 stPCI0 ∧
      Carries 7 stPCI0 ({ pkt 4 255 2 [1] none with trailer := 0 } : RawPacket) (car (mlane id) ({ pkt 4 255 2 [1] none with trailer := 0 }) : List LineBlock) ∧
      packetGood ({ pkt 4 255 2 [1] none with trailer := 0 } : RawPacket) = false ∧
      (stPCI0.lane 7).state = LaneState.up) ∧
    -- clause 1
    (Hearing 7 stPCI1 ∧
      Carries 7 stPCI1 ({ pkt 4 255 2 [1] none with trailer := 0 } : RawPacket) (car (mlane (fun x => { x with state := .training, goodIdle := 5 })) ({ pkt 4 255 2 [1] none with trailer := 0 }) : List LineBlock) ∧
      packetGood ({ pkt 4 255 2 [1] none with trailer := 0 } : RawPacket) = false ∧
      (stPCI1.lane 7).state = LaneState.training) ∧
    -- clause 2
    (Hearing 7 stPCI0 ∧
      Carries 7 stPCI0 (pkt 6 255 2 [1] none : RawPacket) (car (mlane id) (pkt 6 255 2 [1] none) : List LineBlock) ∧
      packetGood (pkt 6 255 2 [1] none : RawPacket) = true ∧
      (stPCI0.lane 7).state = LaneState.up ∧
      hdrLstate (pkt 6 255 2 [1] none : RawPacket).header = 2 ∧
      hdrType (pkt 6 255 2 [1] none : RawPacket).header ≠ 0 ∧
      BitVec.getLsbD (pkt 6 255 2 [1] none : RawPacket).trailer 22 = false ∧
      (hdrSeq (pkt 6 255 2 [1] none : RawPacket).header - (stPCI0.lane 7).expect).toNat = 0 ∧
      acceptsType stPCI0 7 (hdrType (pkt 6 255 2 [1] none : RawPacket).header) = true) ∧
    -- clause 2
    (Hearing 7 stPCI0 ∧
      Carries 7 stPCI0 (pkt 5 126 2 [1] none : RawPacket) (car (mlane id) (pkt 5 126 2 [1] none) : List LineBlock) ∧
      packetGood (pkt 5 126 2 [1] none : RawPacket) = true ∧
      (stPCI0.lane 7).state = LaneState.up ∧
      hdrLstate (pkt 5 126 2 [1] none : RawPacket).header = 2 ∧
      hdrType (pkt 5 126 2 [1] none : RawPacket).header ≠ 0 ∧
      BitVec.getLsbD (pkt 5 126 2 [1] none : RawPacket).trailer 22 = false ∧
      1 ≤ (hdrSeq (pkt 5 126 2 [1] none : RawPacket).header - (stPCI0.lane 7).expect).toNat ∧
      (hdrSeq (pkt 5 126 2 [1] none : RawPacket).header - (stPCI0.lane 7).expect).toNat ≤ 127) ∧
    -- clause 2
    (Hearing 7 stPCI0 ∧
      Carries 7 stPCI0 (pkt 4 255 2 [1] none : RawPacket) (car (mlane id) (pkt 4 255 2 [1] none) : List LineBlock) ∧
      packetGood (pkt 4 255 2 [1] none : RawPacket) = true ∧
      (stPCI0.lane 7).state = LaneState.up ∧
      hdrLstate (pkt 4 255 2 [1] none : RawPacket).header = 2 ∧
      hdrType (pkt 4 255 2 [1] none : RawPacket).header ≠ 0 ∧
      BitVec.getLsbD (pkt 4 255 2 [1] none : RawPacket).trailer 22 = false ∧
      (hdrSeq (pkt 4 255 2 [1] none : RawPacket).header - (stPCI0.lane 7).expect).toNat = 0 ∧
      acceptsType stPCI0 7 (hdrType (pkt 4 255 2 [1] none : RawPacket).header) = false) ∧
    -- clause 2
    (Hearing 7 stPCI0 ∧
      Carries 7 stPCI0 (pkt 5 127 2 [1] none : RawPacket) (car (mlane id) (pkt 5 127 2 [1] none) : List LineBlock) ∧
      packetGood (pkt 5 127 2 [1] none : RawPacket) = true ∧
      (stPCI0.lane 7).state = LaneState.up ∧
      hdrLstate (pkt 5 127 2 [1] none : RawPacket).header = 2 ∧
      hdrType (pkt 5 127 2 [1] none : RawPacket).header ≠ 0 ∧
      BitVec.getLsbD (pkt 5 127 2 [1] none : RawPacket).trailer 22 = false ∧
      128 ≤ (hdrSeq (pkt 5 127 2 [1] none : RawPacket).header - (stPCI0.lane 7).expect).toNat) ∧
    -- clause 3
    (Hearing 7 stPCI0 ∧
      Carries 7 stPCI0 (pkt 5 127 1 [1] none : RawPacket) (car (mlane id) (pkt 5 127 1 [1] none) : List LineBlock) ∧
      packetGood (pkt 5 127 1 [1] none : RawPacket) = true ∧
      (stPCI0.lane 7).state = LaneState.up ∧
      (stPCI0.lane 7).pLstate = 2 ∧
      hdrLstate (pkt 5 127 1 [1] none : RawPacket).header < 2) ∧
    -- clause 4
    (Hearing 7 stPCI0 ∧
      Carries 7 stPCI0 ({ pkt 0 0 2 [] none with trailer := packetTrailer (pkt 0 0 2 [] none).header [] none true } : RawPacket) (car (mlane id) ({ pkt 0 0 2 [] none with trailer := packetTrailer (pkt 0 0 2 [] none).header [] none true }) : List LineBlock) ∧
      packetGood ({ pkt 0 0 2 [] none with trailer := packetTrailer (pkt 0 0 2 [] none).header [] none true } : RawPacket) = true ∧
      (stPCI0.lane 7).state = LaneState.up ∧
      hdrLstate ({ pkt 0 0 2 [] none with trailer := packetTrailer (pkt 0 0 2 [] none).header [] none true } : RawPacket).header = 2 ∧
      hdrType ({ pkt 0 0 2 [] none with trailer := packetTrailer (pkt 0 0 2 [] none).header [] none true } : RawPacket).header = 0 ∧
      BitVec.getLsbD ({ pkt 0 0 2 [] none with trailer := packetTrailer (pkt 0 0 2 [] none).header [] none true } : RawPacket).trailer 23 = false ∧
      BitVec.getLsbD ({ pkt 0 0 2 [] none with trailer := packetTrailer (pkt 0 0 2 [] none).header [] none true } : RawPacket).trailer 22 = true ∧
      (∀ (n : BitVec 8), (stPCI0.lane 7).roundStart = some n → ∀ k ∈ (stPCI0.lane 7).retry, k.seq ≠ n)) ∧
    -- clause 4
    (Hearing 7 stPCI2 ∧
      Carries 7 stPCI2 (pkt 0 0 2 [] (some 2) : RawPacket) (car (mlane (fun x => { x with resend := 5 })) (pkt 0 0 2 [] (some 2)) : List LineBlock) ∧
      packetGood (pkt 0 0 2 [] (some 2) : RawPacket) = true ∧
      (stPCI2.lane 7).state = LaneState.up ∧
      hdrLstate (pkt 0 0 2 [] (some 2) : RawPacket).header = 2 ∧
      hdrType (pkt 0 0 2 [] (some 2) : RawPacket).header = 0 ∧
      BitVec.getLsbD (pkt 0 0 2 [] (some 2) : RawPacket).trailer 23 = true ∧
      BitVec.getLsbD (pkt 0 0 2 [] (some 2) : RawPacket).trailer 22 = false) ∧
    -- clause 5
    (Hearing 7 stPCI3 ∧
      Carries 7 stPCI3 (pkt 0 0 0 [] none : RawPacket) (car (mlane id) (pkt 0 0 0 [] none) : List LineBlock) ∧
      packetGood (pkt 0 0 0 [] none : RawPacket) = true ∧
      (stPCI3.lane 7).state = LaneState.training ∧
      hdrType (pkt 0 0 0 [] none : RawPacket).header = 0 ∧
      7 ≤ (stPCI3.lane 7).goodIdle ∧
      hdrLstate (pkt 0 0 0 [] none : RawPacket).header = 0) ∧
    -- clause 5
    (Hearing 7 stPCI3 ∧
      Carries 7 stPCI3 (pkt 0 0 1 [] none : RawPacket) (car (mlane (fun x => { x with state := .training, goodIdle := 7 })) (pkt 0 0 1 [] none) : List LineBlock) ∧
      packetGood (pkt 0 0 1 [] none : RawPacket) = true ∧
      (stPCI3.lane 7).state = LaneState.training ∧
      hdrType (pkt 0 0 1 [] none : RawPacket).header = 0 ∧
      7 ≤ (stPCI3.lane 7).goodIdle ∧
      1 ≤ hdrLstate (pkt 0 0 1 [] none : RawPacket).header) ∧
    -- clause 5
    (Hearing 7 stPCI4 ∧
      Carries 7 stPCI4 (pkt 0 0 1 [] none : RawPacket) (car (mlane (fun x => { x with state := .training, goodIdle := 6 })) (pkt 0 0 1 [] none) : List LineBlock) ∧
      packetGood (pkt 0 0 1 [] none : RawPacket) = true ∧
      (stPCI4.lane 7).state = LaneState.training ∧
      hdrType (pkt 0 0 1 [] none : RawPacket).header = 0 ∧
      (stPCI4.lane 7).goodIdle < 7) ∧
    -- clause 6
    (Hearing 7 stPCI0 ∧
      ((⟨3, 5⟩ : LineBlock).hdr ≠ hdrData ∧ (⟨3, 5⟩ : LineBlock).hdr ≠ hdrCtrl ∨ (⟨3, 5⟩ : LineBlock).hdr = hdrCtrl ∧ BitVec.extractLsb' 0 8 (descramble (stPCI0.lane 7).dscr (⟨3, 5⟩ : LineBlock).word).2 ≠ BitVec.ofNat 8 120 ∧ BitVec.extractLsb' 0 8 (descramble (stPCI0.lane 7).dscr (⟨3, 5⟩ : LineBlock).word).2 ≠ BitVec.ofNat 8 75)) ∧
    -- clause 7
    (Receiving 7 stPCI5 ∧
      (stPCI5.lane 7).state = LaneState.prbs ∧
      bit (stPCI5.reg (lanePage 7) Reg.LNK_PRBS_CFG) 1 = true) ∧
    -- clause 8
    (List.find? (fun (p : RxPacket) => decide (p.ptype = 6)) (stPCI6.lane 7).rx = some (⟨6, 3, 3, [0xABCD555500000003]⟩ : RxPacket)) :=
  ⟨⟨by unfold Hearing; decide +kernel, by unfold Carries; decide +kernel, by decide +kernel⟩,
   ⟨by unfold Hearing; decide +kernel, by unfold Carries; decide +kernel, by decide +kernel⟩,
   ⟨by unfold Hearing; decide +kernel, by unfold Carries; decide +kernel, by decide +kernel⟩,
   ⟨by unfold Hearing; decide +kernel, by unfold Carries; decide +kernel, by decide +kernel⟩,
   ⟨by unfold Hearing; decide +kernel, by unfold Carries; decide +kernel, by decide +kernel⟩,
   ⟨by unfold Hearing; decide +kernel, by unfold Carries; decide +kernel, by decide +kernel⟩,
   ⟨by unfold Hearing; decide +kernel, by unfold Carries; decide +kernel, by decide +kernel⟩,
   ⟨by unfold Hearing; decide +kernel, by unfold Carries; decide +kernel, by decide +kernel⟩,
   ⟨by unfold Hearing; decide +kernel, by unfold Carries; decide +kernel, by decide +kernel⟩,
   ⟨by unfold Hearing; decide +kernel, by unfold Carries; decide +kernel, by decide +kernel⟩,
   ⟨by unfold Hearing; decide +kernel, by unfold Carries; decide +kernel, by decide +kernel⟩,
   ⟨by unfold Hearing; decide +kernel, by unfold Carries; decide +kernel, by decide +kernel⟩,
   ⟨by unfold Hearing; decide +kernel, by decide +kernel⟩,
   ⟨by unfold Receiving; decide +kernel, by decide +kernel⟩,
   by decide +kernel⟩

def stLSWAT0 : State := mlane id
def stLSWAT1 : State := lw (mlane (fun x => { x with state := .asleep, txAwake := false, rxAwake := false })) 7 Reg.LNK_PWR 3
def stLSWAT2 : State := onC (mlane id) (fun c => { c with removed := [7] })
def stLSWAT3 : State := { mlane (fun x => { x with sleepTick := some 0 }) with tick := 2^21 }
def stLSWAT4 : State := lw (mlane (fun x => { x with rxAwake := false })) 7 Reg.LNK_PWR 6
def stLSWAT5 : State := mlane (fun x => { x with state := .asleep, txAwake := false, txWaking := true })
def stLSWAT6 : State := mlane (fun x => { x with state := .asleep, rxAwake := false, rxWaking := true })
def stLSWAT7 : State := mlane (fun x => { x with state := .prbs })
def stLSWAT8 : State := mlane (fun x => { x with inj := some (1, 5, 3) })
def stLSWAT9 : State := lw (mlane (fun x => { x with state := .prbs, chk := { sync := true } })) 7 Reg.LNK_PRBS_CFG 2
def stLSWAT10 : State := mlane (fun x => { x with state := .prbs, chkLock := true })
/-- States and operands that meet the hypotheses of each clause of LanesSleepWakeAndTest. -/
theorem wit_LanesSleepWakeAndTest :
    -- clause 1
    (Ready (.mgmt : Path) 8 stLSWAT0 ∧
      BitVec.toNat (3 : W32) < 8 ∧
      (stLSWAT0.chip.removed.contains 7 && !laneTiming stLSWAT0 7) = false ∧
      bit (3 : W32) 0 = true ∧
      bit (stLSWAT0.reg (lanePage 7) Reg.LNK_PWR) 0 = false ∧
      bit (3 : W32) 1 = true ∧
      bit (stLSWAT0.reg (lanePage 7) Reg.LNK_PWR) 1 = false ∧
      InUse 7 stLSWAT0) ∧
    -- clause 1
    (Ready (.mgmt : Path) 8 stLSWAT1 ∧
      BitVec.toNat (0 : W32) < 8 ∧
      (stLSWAT1.chip.removed.contains 7 && !laneTiming stLSWAT1 7) = false ∧
      bit (0 : W32) 0 = false ∧
      bit (stLSWAT1.reg (lanePage 7) Reg.LNK_PWR) 0 = true ∧
      bit (0 : W32) 1 = false ∧
      bit (stLSWAT1.reg (lanePage 7) Reg.LNK_PWR) 1 = true) ∧
    -- clause 1
    (Ready (.mgmt : Path) 8 stLSWAT2 ∧
      BitVec.toNat (3 : W32) < 8 ∧
      ((stLSWAT2.chip.removed.contains 7 && !laneTiming stLSWAT2 7) = true ∨ bit (3 : W32) 0 = bit (stLSWAT2.reg (lanePage 7) Reg.LNK_PWR) 0)) ∧
    -- clause 2
    ((stLSWAT3.lane 7).sleepTick = some 0 ∧
      (stLSWAT3.lane 7).txAwake = true ∧
      ((stLSWAT3.lane 7).state ≠ LaneState.up ∨ unitBegun (stLSWAT3.lane 7) = false ∨ 0 + retryTicks stLSWAT3 7 ≤ stLSWAT3.tick) ∧
      InUse 7 stLSWAT3 ∧
      (stLSWAT3.lane 7).state = LaneState.up) ∧
    -- clause 3
    ((stLSWAT4.lane 7).powered = true ∧
      (stLSWAT4.lane 7).rxAwake = false ∧
      bit (stLSWAT4.reg (lanePage 7) Reg.LNK_PWR) 2 = true) ∧
    -- clause 4
    ((if (true : Bool) = true then (stLSWAT5.lane 7).txWaking else (stLSWAT5.lane 7).rxWaking) = true ∧
      (true : Bool) = true ∧
      (stLSWAT5.lane 7).state = LaneState.asleep ∧
      (if (true : Bool) = true then (stLSWAT5.lane 7).rxAwake else (stLSWAT5.lane 7).txAwake) = true ∧
      (stLSWAT5.lane 7).powered = true ∧
      laneRole stLSWAT5 7 ≠ 0) ∧
    -- clause 4
    ((if (false : Bool) = true then (stLSWAT6.lane 7).txWaking else (stLSWAT6.lane 7).rxWaking) = true ∧
      (false : Bool) = false) ∧
    -- clause 5
    (Ready (.mgmt : Path) 8 stLSWAT0 ∧
      BitVec.toNat (19 : W32) < 64 ∧
      fld (19 : W32) 4 2 ≤ 4 ∧
      fld (19 : W32) 1 0 ≠ 0 ∧
      laneRole stLSWAT0 7 ≠ 0 ∧
      (stLSWAT0.lane 7).powered = true ∧
      (stLSWAT0.lane 7).state ≠ LaneState.prbs) ∧
    -- clause 5
    (Ready (.mgmt : Path) 8 stLSWAT7 ∧
      BitVec.toNat (16 : W32) < 64 ∧
      fld (16 : W32) 1 0 = 0 ∧
      (stLSWAT7.lane 7).state = LaneState.prbs) ∧
    -- clause 5
    (Ready (.mgmt : Path) 8 stLSWAT0 ∧
      BitVec.toNat (0x17 : W32) < 64 ∧
      5 ≤ fld (0x17 : W32) 4 2) ∧
    -- clause 6
    (Ready (.mgmt : Path) 8 stLSWAT0 ∧
      BitVec.toNat (0x402 : W32) < 2 ^ 13 ∧
      fld (0x402 : W32) 1 0 = 2 ∧
      4 ≤ fld (0x402 : W32) 12 8) ∧
    -- clause 6
    (Ready (.mgmt : Path) 8 stLSWAT0 ∧
      BitVec.toNat (0x302 : W32) < 2 ^ 13 ∧
      (fld (0x302 : W32) 1 0 = 3 ∨ fld (0x302 : W32) 1 0 = 2 ∧ fld (0x302 : W32) 12 8 < 4)) ∧
    -- clause 6
    (Ready (.mgmt : Path) 8 stLSWAT0 ∧
      BitVec.toNat (0x305 : W32) < 2 ^ 13 ∧
      fld (0x305 : W32) 1 0 < 2) ∧
    -- clause 7
    (Ready (.mgmt : Path) 8 stLSWAT8 ∧
      (∀ (e : ℕ × ℕ), (stLSWAT8.lane 7).inj ≠ some (2, e))) ∧
    -- clause 8
    ((stLSWAT9.lane 7).state = LaneState.prbs ∧
      bit (stLSWAT9.reg (lanePage 7) Reg.LNK_PRBS_CFG) 1 = true ∧
      (stLSWAT9.lane 7).chk.sync = true ∧
      (stLSWAT9.lane 7).chkLock = false) ∧
    -- clause 9
    ((stLSWAT10.lane 7).chkLock = true ∧
      (stLSWAT10.lane 7).chk.sync = false) :=
  ⟨by unfold Ready InUse; decide +kernel,
   ⟨by unfold Ready; decide +kernel, by decide +kernel⟩,
   ⟨by unfold Ready; decide +kernel, by decide +kernel⟩,
   ⟨by decide +kernel, by decide +kernel, by decide +kernel, by unfold InUse; decide +kernel, by decide +kernel⟩,
   by decide +kernel,
   by decide +kernel,
   by decide +kernel,
   ⟨by unfold Ready; decide +kernel, by decide +kernel⟩,
   ⟨by unfold Ready; decide +kernel, by decide +kernel⟩,
   ⟨by unfold Ready; decide +kernel, by decide +kernel⟩,
   ⟨by unfold Ready; decide +kernel, by decide +kernel⟩,
   ⟨by unfold Ready; decide +kernel, by decide +kernel⟩,
   ⟨by unfold Ready; decide +kernel, by decide +kernel⟩,
   ⟨by unfold Ready; decide +kernel, (by intro e he; have h2 : Option.map Prod.fst _ = some 2 := congrArg (Option.map Prod.fst) he; revert h2; decide +kernel)⟩,
   by decide +kernel⟩

def stCR0 : State := rq_09b [rw_09b 0 1 2 3] rbase
def stCR1 : State := rwin (wn 65 none) (rq_09b [rw_09b 2 1 2 3, 0] rbase)
def stCR2 : State := rwin (wn 66 none) (rq_09b [rw_09b 0 1 2 3, 0] rbase)
def stCR3 : State := qd (rq_09b [rw_09b 0 1 2 3, ad_09b 1024] rbase)
def stCR4 : State := rt9.modLane 7 (fun x => { x with state := .training })
/-- States and operands that meet the hypotheses of each clause of ControlRequests. -/
theorem wit_ControlRequests :
    -- clause 1
    (CtrlCmd (7 : Fin 20) (reqOp (([rw_09b 0 1 2 3] : List W64).headD 0)) (.ctrlRead 7 : Instr) ∧
      RequestAt 7 ([rw_09b 0 1 2 3] : List W64) stCR0 ∧
      malformed ([rw_09b 0 1 2 3] : List W64) = true ∧
      (stCR0.lane 7).state = LaneState.up) ∧
    -- clause 2
    (CtrlCmd (7 : Fin 20) (reqOp (([rw_09b 2 1 2 3, 0] : List W64).headD 0)) (.ctrlDbgRead 7 : Instr) ∧
      RequestAt 7 ([rw_09b 2 1 2 3, 0] : List W64) stCR1 ∧
      malformed ([rw_09b 2 1 2 3, 0] : List W64) = false ∧
      (stCR1.lane 7).state = LaneState.up ∧
      List.find? (fun (y : ReqWindow) => decide (y.id = reqId (([rw_09b 2 1 2 3, 0] : List W64).headD 0))) (stCR1.hive (higherClaim stCR1)).windows = some (wn 65 none : ReqWindow) ∧
      ((wn 65 none : ReqWindow).high - reqSeq (([rw_09b 2 1 2 3, 0] : List W64).headD 0)).toInt ≤ 63 ∧
      List.find? (fun (e : BitVec 16 × Option (List W64)) => decide (e.1 = reqSeq (([rw_09b 2 1 2 3, 0] : List W64).headD 0))) (wn 65 none : ReqWindow).seqs = some (reqSeq (([rw_09b 2 1 2 3, 0] : List W64).headD 0), none)) ∧
    -- clause 2
    (CtrlCmd (7 : Fin 20) (reqOp (([rw_09b 0 1 2 3, 0] : List W64).headD 0)) (.ctrlRead 7 : Instr) ∧
      RequestAt 7 ([rw_09b 0 1 2 3, 0] : List W64) stCR2 ∧
      malformed ([rw_09b 0 1 2 3, 0] : List W64) = false ∧
      (stCR2.lane 7).state = LaneState.up ∧
      List.find? (fun (y : ReqWindow) => decide (y.id = reqId (([rw_09b 0 1 2 3, 0] : List W64).headD 0))) (stCR2.hive (higherClaim stCR2)).windows = some (wn 66 none : ReqWindow) ∧
      63 < ((wn 66 none : ReqWindow).high - reqSeq (([rw_09b 0 1 2 3, 0] : List W64).headD 0)).toInt) ∧
    -- clause 3
    (CtrlCmd (7 : Fin 20) (reqOp (rw_09b 0 1 2 3 : W64)) (.ctrlRead 7 : Instr) ∧
      RequestAt 7 [(rw_09b 0 1 2 3 : W64), (ad_09b 1024 : W64)] stCR3 ∧
      malformed [(rw_09b 0 1 2 3 : W64), (ad_09b 1024 : W64)] = false ∧
      pathFree stCR3 (lanePath 7) = true ∧
      running stCR3 7 = none ∧
      gate stCR3 8 = Gate.serve ∧
      BitVec.extractLsb' 32 32 (ad_09b 1024 : W64) = addrOf (lanePage 19) Reg.LNK_RETRY_TMO ∧
      (reqOp (rw_09b 0 1 2 3 : W64) = 1 → 1 ≤ fieldN (BitVec.toNat (ad_09b 1024 : W64)) 31 0 ∧ fieldN (BitVec.toNat (ad_09b 1024 : W64)) 31 0 ≤ 1024) ∧
      (∀ (x : ReqWindow), List.find? (fun (x : ReqWindow) => decide (x.id = reqId (rw_09b 0 1 2 3 : W64))) (stCR3.hive (higherClaim stCR3)).windows = some x → (x.high - reqSeq (rw_09b 0 1 2 3 : W64)).toInt ≤ 63 ∧ List.find? (fun (e : BitVec 16 × Option (List W64)) => decide (e.1 = reqSeq (rw_09b 0 1 2 3 : W64))) x.seqs = none) ∧
      (((stCR3.hive (higherClaim stCR3)).windows.any fun (x : ReqWindow) => decide (x.id = reqId (rw_09b 0 1 2 3 : W64))) = false → (stCR3.hive (higherClaim stCR3)).windows.length < 128) ∧
      ((tagsOf (stCR3.hive (higherClaim stCR3)) (reqId (rw_09b 0 1 2 3 : W64))).any fun (o : ReqOut) => decide (o.tag = reqTag (rw_09b 0 1 2 3 : W64))) = false ∧
      (tagsOf (stCR3.hive (higherClaim stCR3)) (reqId (rw_09b 0 1 2 3 : W64))).length < 32 ∧
      (stCR3.hive (higherClaim stCR3)).outstanding.length < 256 ∧
      CanPut stCR3 (higherClaim stCR3) (128 + 7) qD0 (5 : BitVec 32) (12 : BitVec 32) 2 ∧
      ((stCR3.hive (higherClaim stCR3)).windows.any fun (x : ReqWindow) => decide (x.id = reqId (rw_09b 0 1 2 3 : W64))) = false) ∧
    -- clause 4
    (((rt9.lane 7).state = LaneState.up → txReady rt9 7 = true) ∧
      List.find? (fun (o : ReqOut) => decide (o.lane = 7) && o.queued) (rt9.hive (higherClaim rt9)).outstanding = some ro ∧
      ro.hive = (.a : HiveId) ∧
      QueueAt rt9 (.a : HiveId) (128 + 7) qD0 (0xFFFFFFFF : BitVec 32) (2 : BitVec 32) (2 : BitVec 32) ∧
      RingAbove qD0 ∧
      (∀ i ≤ 2, WordReads rt9 (.a : HiveId) (ringAddr qD0 (ringPos (0xFFFFFFFF : BitVec 32) i)) (rx9 i)) ∧
      fieldN (BitVec.toNat (rx9 0)) 63 40 = 2 ∧
      2 + 1 ≤ ((2 : BitVec 32) - (0xFFFFFFFF : BitVec 32)).toNat ∧
      (rt9.lane 7).state = LaneState.up) ∧
    -- clause 4
    (((stCR4.lane 7).state = LaneState.up → txReady stCR4 7 = true) ∧
      List.find? (fun (o : ReqOut) => decide (o.lane = 7) && o.queued) (stCR4.hive (higherClaim stCR4)).outstanding = some ro ∧
      ro.hive = (.a : HiveId) ∧
      QueueAt stCR4 (.a : HiveId) (128 + 7) qD0 (0xFFFFFFFF : BitVec 32) (2 : BitVec 32) (2 : BitVec 32) ∧
      RingAbove qD0 ∧
      (∀ i ≤ 2, WordReads stCR4 (.a : HiveId) (ringAddr qD0 (ringPos (0xFFFFFFFF : BitVec 32) i)) (rx9 i)) ∧
      fieldN (BitVec.toNat (rx9 0)) 63 40 = 2 ∧
      2 + 1 ≤ ((2 : BitVec 32) - (0xFFFFFFFF : BitVec 32)).toNat ∧
      (stCR4.lane 7).state ≠ LaneState.up) :=
  ⟨⟨by unfold CtrlCmd; decide +kernel, by unfold RequestAt; decide +kernel, by decide +kernel⟩,
   ⟨by unfold CtrlCmd; decide +kernel, by unfold RequestAt; decide +kernel, by decide +kernel⟩,
   ⟨by unfold CtrlCmd; decide +kernel, by unfold RequestAt; decide +kernel, by decide +kernel⟩,
   ⟨by unfold CtrlCmd; decide +kernel, by unfold RequestAt; decide +kernel, four (by decide +kernel) (four (by decide +kernel) ⟨by decide +kernel, by decide +kernel, by decide +kernel, canPut_of (by decide +kernel), by decide +kernel⟩)⟩,
   ⟨by decide +kernel, by decide +kernel, by decide +kernel, queueAt_of (by decide +kernel), by unfold RingAbove; decide +kernel, by unfold WordReads WordOpen; decide +kernel, by decide +kernel⟩,
   ⟨by decide +kernel, by decide +kernel, by decide +kernel, queueAt_of (by decide +kernel), by unfold RingAbove; decide +kernel, by unfold WordReads WordOpen; decide +kernel, by decide +kernel⟩⟩

def stTBRAM0 : State := cfgw tl 0x1A Reg.WAG_CTL 0x00640041
def stTBRAM1 : State := wg tl 7 {rxHist := List.replicate 256 (1,2,true)}
def stTBRAM2 : State := wg tl 7 {toReport := [(1,2),(3,4)]}
def stTBRAM3 : State := mqq 5 7
def stTBRAM4 : State := mqq 5 53
/-- States and operands that meet the hypotheses of each clause of TimingBlocksReportsAndMarks. -/
theorem wit_TimingBlocksReportsAndMarks :
    -- clause 1
    (TimingLane 7 tl ∧
      tl.chip.extest = false ∧
      (tl.lane 7).idleOut = false ∧
      (tl.lane 7).txAwake = true ∧
      (tl.wag 7).txMark ≠ some (markOf tl) ∧
      24 < 2640 ∧
      tl.now ≤ markOf tl + (24 : Int) ∧
      markOf tl + (24 : Int) < tl.now + 1000 ∧
      onBlocks (tl.wag 7) (markOf tl + (24 : Int)) = true) ∧
    -- clause 2
    (TimingHeard 7 tl ∧
      (lb (tbk 2 3) : LineBlock).hdr = 2 ∧
      (descramble (tl.lane 7).dscr (lb (tbk 2 3) : LineBlock).word).2 = (tbk 2 3 : BitVec 56) ++ BitVec.ofNat 8 75 ∧
      timingCheck (tbk 2 3 : BitVec 56) = BitVec.extractLsb' 32 8 (tbk 2 3 : BitVec 56) ∧
      decide ((BitVec.extractLsb' 42 4 (tbk 2 3 : BitVec 56)).toNat < fld (tl.cfg 26 Reg.WAG_CTL) 7 4) = true) ∧
    -- clause 2
    (TimingHeard 7 stTBRAM0 ∧
      (lb (tbk 2 4) : LineBlock).hdr = 2 ∧
      (descramble (stTBRAM0.lane 7).dscr (lb (tbk 2 4) : LineBlock).word).2 = (tbk 2 4 : BitVec 56) ++ BitVec.ofNat 8 75 ∧
      timingCheck (tbk 2 4 : BitVec 56) = BitVec.extractLsb' 32 8 (tbk 2 4 : BitVec 56) ∧
      decide ((BitVec.extractLsb' 42 4 (tbk 2 4 : BitVec 56)).toNat < fld (stTBRAM0.cfg 26 Reg.WAG_CTL) 7 4) = false) ∧
    -- clause 2
    (TimingHeard 7 stTBRAM1 ∧
      (lb (tbk 2 3 ^^^ 1) : LineBlock).hdr = 2 ∧
      (descramble (stTBRAM1.lane 7).dscr (lb (tbk 2 3 ^^^ 1) : LineBlock).word).2 = (tbk 2 3 ^^^ 1 : BitVec 56) ++ BitVec.ofNat 8 75 ∧
      timingCheck (tbk 2 3 ^^^ 1 : BitVec 56) ≠ BitVec.extractLsb' 32 8 (tbk 2 3 ^^^ 1 : BitVec 56)) ∧
    -- clause 3
    ((stTBRAM2.lane 7).state = LaneState.up ∧
      laneTiming stTBRAM2 7 = true ∧
      (stTBRAM2.wag 7).repMark ≠ some (stTBRAM2.now.fdiv (2 ^ 24))) ∧
    -- clause 4
    (Ready (.lane 4 : Path) (hiveDom (hiveOf tl (.hiveB : HiveRef))) tl ∧
      fld (7 : W32) 4 0 < 20 ∧
      (tl.lane (fld (7 : W32) 4 0)).state = LaneState.up ∧
      laneTiming tl (fld (7 : W32) 4 0) = true) ∧
    -- clause 4
    (Ready (.mgmt : Path) (hiveDom (hiveOf tl (.active : HiveRef))) tl ∧
      (20 ≤ fld (0x00015508 : W32) 4 0 ∨ (tl.lane (fld (0x00015508 : W32) 4 0)).state ≠ LaneState.up ∨ laneTiming tl (fld (0x00015508 : W32) 4 0) = false)) ∧
    -- clause 5
    (List.find? (fun (p : RxPacket) => decide (p.ptype = 4) && decide (fieldN (BitVec.toNat (p.payload.getD 0 0)) 63 60 = 1)) (stTBRAM3.lane 7).rx = some mk ∧
      (stTBRAM3.wag 7).lastRx = some (5000 : ℤ) ∧
      CanPut stTBRAM3 (higherClaim stTBRAM3) (2 + 7) d9 (5 : BitVec 32) (7 : BitVec 32) 2 ∧
      ((7 : BitVec 32) - (5 : BitVec 32)).toNat < 48) ∧
    -- clause 5
    (List.find? (fun (p : RxPacket) => decide (p.ptype = 4) && decide (fieldN (BitVec.toNat (p.payload.getD 0 0)) 63 60 = 1)) (stTBRAM4.lane 7).rx = some mk ∧
      (stTBRAM4.wag 7).lastRx = some (5000 : ℤ) ∧
      QueueAt stTBRAM4 (higherClaim stTBRAM4) (2 + 7) d9 (5 : BitVec 32) (53 : BitVec 32) (53 : BitVec 32) ∧
      48 ≤ ((53 : BitVec 32) - (5 : BitVec 32)).toNat) :=
  ⟨⟨by unfold TimingLane; decide +kernel, by decide +kernel⟩,
   ⟨by unfold TimingHeard TimingLane; decide +kernel, by decide +kernel⟩,
   ⟨by unfold TimingHeard TimingLane; decide +kernel, by decide +kernel⟩,
   ⟨by unfold TimingHeard TimingLane; decide +kernel, by decide +kernel⟩,
   by decide +kernel,
   ⟨by unfold Ready; decide +kernel, by decide +kernel⟩,
   ⟨by unfold Ready; decide +kernel, by decide +kernel⟩,
   ⟨by decide +kernel, by decide +kernel, canPut_of (by decide +kernel), by decide +kernel⟩,
   ⟨by decide +kernel, by decide +kernel, queueAt_of (by decide +kernel), by decide +kernel⟩⟩

def stSAS0 : State := rpL [w0r, ent 4 900] {}
def stSAS1 : State := rpL ww { vv with n := 1024 }
def stSAS2 : State := sv (nsec up 1024) (fun v => { v with extPps := some 51200, extN := 1023 })
def stSAS3 : State := (sv (nsec up 70000) (fun v => { v with extPps := some (-5), extN := 3, extSum := 9 })).bothTb (fun t => { t with sel := some 2 })
def stSAS4 : State := cs (50) 3 (se 0x640041 2 id)
def stSAS5 : State := cs (0) 0 (se 0x640041 2 id)
def stSAS6 : State := cs (5000000000000) 3 (se 0x640041 2 id)
def stSAS7 : State := se 0x640040 2 id
def stSAS8 : State := cfgw up 0x1A Reg.WAG_CTL 0x640040
/-- States and operands that meet the hypotheses of each clause of SamplesAndServo. -/
theorem wit_SamplesAndServo :
    -- clause 1
    (List.find? (fun (p : RxPacket) => decide (p.ptype = 4) && decide (fieldN (BitVec.toNat (p.payload.getD 0 0)) 63 60 = 0)) (stSAS0.lane 7).rx = some (rp_10 [w0r, ent 4 900] : RxPacket) ∧
      (rp_10 [w0r, ent 4 900] : RxPacket).payload = w0r :: (ent 4 900 : W64) :: ([] : List W64) ∧
      BitVec.getLsbD (ent 4 900 : W64) 32 = true ∧
      (∀ r ∈ ([] : List W64), BitVec.getLsbD r 32 = false) ∧
      List.find? (fun (e : BitVec 8 × BitVec 32) => decide (e.1 = BitVec.extractLsb' 56 8 (ent 4 900 : W64))) (stSAS0.wag 7).txHist.reverse = none ∧
      (stSAS0.wag 7).n < 1024) ∧
    -- clause 1
    (List.find? (fun (p : RxPacket) => decide (p.ptype = 4) && decide (fieldN (BitVec.toNat (p.payload.getD 0 0)) 63 60 = 0)) (stSAS1.lane 7).rx = some (rp_10 ww : RxPacket) ∧
      (rp_10 ww : RxPacket).payload = w0r :: (ent 4 900 : W64) :: z15 ∧
      BitVec.getLsbD (ent 4 900 : W64) 32 = true ∧
      (∀ r ∈ z15, BitVec.getLsbD r 32 = false) ∧
      1024 ≤ (stSAS1.wag 7).n) ∧
    -- clause 2
    (stSAS2.servo.extPps = some (51200 : ℤ) ∧
      ((51200 : ℤ) - nearSecond (51200 : ℤ)).natAbs ≤ 51200 ∧
      stSAS2.servo.ppsUsed = false ∧
      stSAS2.servo.extN < 1024 ∧
      stSAS2.tb.sel ≠ some 2) ∧
    -- clause 2
    (stSAS3.servo.extPps = some (-5 : ℤ) ∧
      ((-5 : ℤ) - nearSecond (-5 : ℤ)).natAbs ≤ 51200 ∧
      stSAS3.servo.ppsUsed = false ∧
      stSAS3.servo.extN < 1024 ∧
      stSAS3.tb.sel = some 2) ∧
    -- clause 3
    (stSAS4.servo.period < (stSAS4.now + 999).fdiv (2 ^ 30) ∧
      stSAS4.tb.core.skip = 0 ∧
      bit (stSAS4.cfg 26 Reg.WAG_CTL) 0 = true ∧
      stSAS4.tb.sel = some 2 ∧
      periodInput 2 stSAS4 = ((50 : ℤ), 3, (false : Bool)) ∧
      3 ≠ 0 ∧
      (divNearAway (50 : ℤ) (2 * 3)).natAbs ≤ fld (stSAS4.cfg 26 Reg.WAG_STEP_THR) 30 0) ∧
    -- clause 3
    (stSAS5.servo.period < (stSAS5.now + 999).fdiv (2 ^ 30) ∧
      stSAS5.tb.core.skip = 0 ∧
      bit (stSAS5.cfg 26 Reg.WAG_CTL) 0 = true ∧
      stSAS5.tb.sel = some 2 ∧
      periodInput 2 stSAS5 = ((0 : ℤ), 0, (false : Bool)) ∧
      0 = 0) ∧
    -- clause 3
    (stSAS6.servo.period < (stSAS6.now + 999).fdiv (2 ^ 30) ∧
      stSAS6.tb.core.skip = 0 ∧
      bit (stSAS6.cfg 26 Reg.WAG_CTL) 0 = true ∧
      stSAS6.tb.sel = some 2 ∧
      periodInput 2 stSAS6 = ((5000000000000 : ℤ), 3, (false : Bool)) ∧
      3 ≠ 0 ∧
      fld (stSAS6.cfg 26 Reg.WAG_STEP_THR) 30 0 < (divNearAway (5000000000000 : ℤ) (2 * 3)).natAbs) ∧
    -- clause 4
    (stSAS7.servo.period < (stSAS7.now + 999).fdiv (2 ^ 30) ∧
      (stSAS7.tb.sel = none ∨ stSAS7.tb.core.skip ≠ 0 ∨ bit (stSAS7.cfg 26 Reg.WAG_CTL) 0 = false)) ∧
    -- clause 5
    (Ready (.lane 3 : Path) (hiveDom (hiveOf stSAS8 (.hiveB : HiveRef))) stSAS8 ∧
      BitVec.toNat (0x000100F1 : W32) < 2 ^ 26 ∧
      fld (0x000100F1 : W32) 7 4 ≠ 0 ∧
      1 ≤ fld (0x000100F1 : W32) 25 16 ∧
      fld (0x000100F1 : W32) 25 16 ≤ 1000 ∧
      bit (0x000100F1 : W32) 0 = true ∧
      bit (stSAS8.cfg 26 Reg.WAG_CTL) 0 = false) :=
  ⟨⟨by decide +kernel, by decide +kernel, by decide +kernel, (by simp), by decide +kernel⟩,
   ⟨by decide +kernel, by decide +kernel, by decide +kernel, (by simp [z15]), by decide +kernel⟩,
   four (by decide +kernel) ⟨by decide +kernel, by decide +kernel, ⟨by unfold Ready; decide +kernel, by decide +kernel⟩⟩⟩

def stAI0 : State := run1_12 191 (rg_12 [(1, 0x80000001), (2, 0xFFFFFFE3), (3, 4)])
/-- States and operands that meet the hypotheses of each clause of AluInstructions. -/
theorem wit_AluInstructions :
    -- clause 1
    (Going 7 wA ∧
      4 % 2 = 0) ∧
    -- clause 1
    (Going 191 stAI0 ∧
      1 % 2 = 1) :=
  ⟨⟨by unfold Going; decide +kernel, by decide +kernel⟩,
   ⟨by unfold Going; decide +kernel, by decide +kernel⟩⟩

/-- States and operands that meet the hypotheses of each clause of BranchesAndJumps. -/
theorem wit_BranchesAndJumps :
    -- clause 1
    (Going 7 wA) :=
  by unfold Going; decide +kernel

def stLAS0 : State := run1_12 7 (fun x => mm (rg_12 [(1, 1), (4, 0x1234)] x))
def stLAS1 : State := run1_12 191 (fun x => mm (rg_12 [(1, 0x50000F00), (4, 0x1234), (5, 0x90)] x)) (hput up .b 481 0x8899)
def stLAS2 : State := run1_12 191 (fun x => mm (rg_12 [(1, 0x1FFF8), (4, 0x1234), (5, 0x90)] x))
def stLAS3 : State := run1_12 150 (fun x => mm (rg_12 [(1, 0x40000F00), (4, 0x1234), (5, 0x90)] x)) (ln8 .a)
def stLAS4 : State := run1_12 7 (fun x => mm (rg_12 [(1, 0x40000F00), (4, 0x1234), (5, 0x90)] x)) (dnA (hput up .a 480 0x8899AABBCCDDEEFF))
def stLAS5 : State := run1_12 7 (fun x => mm (rg_12 [(1, 0x20001), (4, 0x1234)] x))
def stLAS6 : State := run1_12 191 (fun x => mm (rg_12 [(1, 0xFFFFFFF8), (4, 0x1234), (5, 0x90)] x))
/-- States and operands that meet the hypotheses of each clause of LoadsAndStores. -/
theorem wit_LoadsAndStores :
    -- clause 1
    (LoadStore (7 : Fin 192) (4 : Fin 16) (1 : Fin 16) (0x3FFFF : BitVec 18) 1 (.ldb 7 4 1 0x3FFFF : Instr) (.stb 7 4 1 0x3FFFF : Instr) ∧
      Going 7 stLAS0 ∧
      (1 = 8 → 4 % 2 = 0) ∧
      BitVec.toNat (wkReg stLAS0 7 1 + BitVec.signExtend 32 (0x3FFFF : BitVec 18)) % 1 = 0 ∧
      (isComb 7 = false ∨ hiveUp stLAS0 (wkHive stLAS0 7) = true) ∧
      1 ≠ 8 ∧
      (stLAS0.honey (wkHive stLAS0 7)).merge.length < 8 ∧
      StoreClean (wkHive stLAS0 7) stLAS0) ∧
    -- clause 1
    (LoadStore (191 : Fin 192) (4 : Fin 16) (1 : Fin 16) (8 : BitVec 18) 8 (.ldd 191 4 1 8 : Instr) (.std 191 4 1 8 : Instr) ∧
      Going 191 stLAS1 ∧
      (8 = 8 → 4 % 2 = 0) ∧
      BitVec.toNat (wkReg stLAS1 191 1 + BitVec.signExtend 32 (8 : BitVec 18)) % 8 = 0 ∧
      placeOf 191 (BitVec.toNat (wkReg stLAS1 191 1 + BitVec.signExtend 32 (8 : BitVec 18))) = Place4.honey (0xF08 : ℕ) false ∧
      (isComb 191 = false ∨ hiveUp stLAS1 (wkHive stLAS1 191) = true) ∧
      8 = 8 ∧
      WordOpen stLAS1 (wkHive stLAS1 191) ((0xF08 : ℕ) / 8)) ∧
    -- clause 1
    (LoadStore (7 : Fin 192) (4 : Fin 16) (1 : Fin 16) (0x3FFFF : BitVec 18) 1 (.ldb 7 4 1 0x3FFFF : Instr) (.stb 7 4 1 0x3FFFF : Instr) ∧
      Going 7 stLAS0 ∧
      (1 = 8 → 4 % 2 = 0) ∧
      BitVec.toNat (wkReg stLAS0 7 1 + BitVec.signExtend 32 (0x3FFFF : BitVec 18)) % 1 = 0 ∧
      placeOf 7 (BitVec.toNat (wkReg stLAS0 7 1 + BitVec.signExtend 32 (0x3FFFF : BitVec 18))) = Place4.imem 0 ∧
      LocalClean 7 false 0 1 stLAS0) ∧
    -- clause 1
    (LoadStore (191 : Fin 192) (4 : Fin 16) (1 : Fin 16) (8 : BitVec 18) 8 (.ldd 191 4 1 8 : Instr) (.std 191 4 1 8 : Instr) ∧
      Going 191 stLAS2 ∧
      (8 = 8 → 4 % 2 = 0) ∧
      BitVec.toNat (wkReg stLAS2 191 1 + BitVec.signExtend 32 (8 : BitVec 18)) % 8 = 0 ∧
      placeOf 191 (BitVec.toNat (wkReg stLAS2 191 1 + BitVec.signExtend 32 (8 : BitVec 18))) = Place4.dmem 0 ∧
      LocalClean 191 true 0 8 stLAS2) ∧
    -- clause 1
    (LoadStore (150 : Fin 192) (4 : Fin 16) (1 : Fin 16) (4 : BitVec 18) 4 (.ldw 150 4 1 4 : Instr) (.stw 150 4 1 4 : Instr) ∧
      Going 150 stLAS3 ∧
      (4 = 8 → 4 % 2 = 0) ∧
      BitVec.toNat (wkReg stLAS3 150 1 + BitVec.signExtend 32 (4 : BitVec 18)) % 4 = 0 ∧
      placeOf 150 (BitVec.toNat (wkReg stLAS3 150 1 + BitVec.signExtend 32 (4 : BitVec 18))) = Place4.honey (0xF04 : ℕ) true ∧
      StoreClean (wkHive stLAS3 150) stLAS3 ∧
      (∀ k < 8, GoodWord (wkHive stLAS3 150) ((0xF04 : ℕ) / 64 * 8 + k) stLAS3)) ∧
    -- clause 1
    (LoadStore (7 : Fin 192) (4 : Fin 16) (1 : Fin 16) (4 : BitVec 18) 4 (.ldw 7 4 1 4 : Instr) (.stw 7 4 1 4 : Instr) ∧
      Going 7 stLAS4 ∧
      (4 = 8 → 4 % 2 = 0) ∧
      BitVec.toNat (wkReg stLAS4 7 1 + BitVec.signExtend 32 (4 : BitVec 18)) % 4 = 0 ∧
      placeOf 7 (BitVec.toNat (wkReg stLAS4 7 1 + BitVec.signExtend 32 (4 : BitVec 18))) = Place4.honey (0xF04 : ℕ) false ∧
      isComb 7 = true ∧
      hiveUp stLAS4 (wkHive stLAS4 7) = false) ∧
    -- clause 1
    (LoadStore (7 : Fin 192) (4 : Fin 16) (1 : Fin 16) (0x3FFFC : BitVec 18) 4 (.ldw 7 4 1 0x3FFFC : Instr) (.stw 7 4 1 0x3FFFC : Instr) ∧
      Going 7 stLAS5 ∧
      (4 = 8 → 4 % 2 = 0) ∧
      (BitVec.toNat (wkReg stLAS5 7 1 + BitVec.signExtend 32 (0x3FFFC : BitVec 18)) % 4 ≠ 0 ∨ placeOf 7 (BitVec.toNat (wkReg stLAS5 7 1 + BitVec.signExtend 32 (0x3FFFC : BitVec 18))) = Place4.nowhere)) ∧
    -- clause 1
    (LoadStore (191 : Fin 192) (5 : Fin 16) (1 : Fin 16) (8 : BitVec 18) 8 (.ldd 191 5 1 8 : Instr) (.std 191 5 1 8 : Instr) ∧
      Going 191 stLAS6 ∧
      8 = 8 ∧
      5 % 2 = 1) :=
  ⟨⟨by unfold LoadStore; decide +kernel, by unfold Going; decide +kernel, four (by decide +kernel) ⟨by decide +kernel, by unfold StoreClean; decide +kernel⟩⟩,
   ⟨by unfold LoadStore; decide +kernel, by unfold Going; decide +kernel, four (by decide +kernel) ⟨by decide +kernel, by unfold WordOpen; decide +kernel⟩⟩,
   ⟨by unfold LoadStore; decide +kernel, by unfold Going; decide +kernel, by decide +kernel, by decide +kernel, by decide +kernel, by unfold LocalClean; decide +kernel⟩,
   ⟨by unfold LoadStore; decide +kernel, by unfold Going; decide +kernel, by decide +kernel, by decide +kernel, by decide +kernel, by unfold LocalClean; decide +kernel⟩,
   ⟨by unfold LoadStore; decide +kernel, by unfold Going; decide +kernel, by decide +kernel, by decide +kernel, by decide +kernel, by unfold StoreClean; decide +kernel, by unfold GoodWord; decide +kernel⟩,
   ⟨by unfold LoadStore; decide +kernel, by unfold Going; decide +kernel, by decide +kernel⟩,
   ⟨by unfold LoadStore; decide +kernel, by unfold Going; decide +kernel, by decide +kernel⟩,
   ⟨by unfold LoadStore; decide +kernel, by unfold Going; decide +kernel, by decide +kernel⟩⟩

def stRS0 : State := run1_12 7 (fun x => { rg_12 [(1, 0x30000), (2, 3)] x with inPort := ⟨0x30005, 2, [], true⟩ }) (st0_12 up)
def stRS1 : State := run1_12 7 (fun x => { rg_12 [(1, 0x30000), (2, 3), (4, 5), (5, 6)] x with outPort := ⟨0x30005, 2, [], true⟩ }) up
def stRS2 : State := run1_12 7 (fun x => { rg_12 [(1, 0x30000), (2, 3)] x with outPort := ⟨5, 2, [(3, false)], true⟩ }) (dnA up)
def stRS3 : State := run1_12 7 (rg_12 [(1, 0x600000), (2, 30)]) (st0_12 up)
/-- States and operands that meet the hypotheses of each clause of RecordStreams. -/
theorem wit_RecordStreams :
    -- clause 1
    (Going 7 stRS0 ∧
      BitVec.toNat (wkReg stRS0 7 4) < honeyWords ∧
      (stRS0.worker 7).outPort.buf = [] ∧
      4 % 2 = 0 ∧
      (stRS0.worker 7).inPort.opened = true ∧
      (stRS0.worker 7).inPort.buf = [] ∧
      (stRS0.worker 7).inPort.left ≠ 0 ∧
      (stRS0.worker 7).inPort.waddr < honeyWords ∧
      hiveUp stRS0 (wkHive stRS0 7) = true ∧
      (stRS0.worker 7).outPort.left = 0) ∧
    -- clause 1
    (Going 7 stRS1 ∧
      4 % 2 = 0 ∧
      (stRS1.worker 7).inPort.buf = [] ∧
      (stRS1.worker 7).inPort.left = 0 ∧
      (stRS1.worker 7).outPort.buf = [] ∧
      (stRS1.worker 7).outPort.left ≠ 0 ∧
      (stRS1.worker 7).outPort.waddr < honeyWords ∧
      hiveUp stRS1 (wkHive stRS1 7) = true ∧
      WordOpen stRS1 (wkHive stRS1 7) (stRS1.worker 7).outPort.waddr) ∧
    -- clause 1
    (Going 7 stRS2 ∧
      BitVec.toNat (wkReg stRS2 7 1) < honeyWords ∧
      (stRS2.worker 7).outPort.buf ≠ [] ∧
      hiveUp stRS2 (wkHive stRS2 7) = false) ∧
    -- clause 1
    (Going 7 stRS3 ∧
      honeyWords ≤ BitVec.toNat (wkReg stRS3 7 1)) ∧
    -- clause 1
    (Going 7 stRS1 ∧
      5 % 2 = 1) :=
  ⟨⟨by unfold Going; decide +kernel, by decide +kernel⟩,
   by unfold Going WordOpen; decide +kernel,
   ⟨by unfold Going; decide +kernel, by decide +kernel⟩,
   ⟨by unfold Going; decide +kernel, by decide +kernel⟩,
   ⟨by unfold Going; decide +kernel, by decide +kernel⟩⟩

def stQI0 : State := run1_13 7 (rg_13 [(2, 1024), (3, 8)]) (qU_13 2 9 9)
def stQI1 : State := run1_13 7 (rg_13 [(2, 1024), (3, 9)]) (qU_13 2 9 9)
def stQI2 : State := opq 7 1 (run1_13 7 (fun x => rg_13 [(2, 1024), (3, 2)] { x with openQ := some 1024 }) (qU_13 2 9 13))
def stQI3 : State := opq 7 1 (run1_13 7 (fun x => rg_13 [(2, 1024), (3, 8)] { x with openQ := some 1025 }) (qU_13 2 9 13))
def stQI4 : State := opq 7 1 (run1_13 7 (fun x => rg_13 [(2, 1024), (3, 8)] { x with openQ := some 1024 }) (qU_13 2 9 13))
def stQI5 : State := opq 7 0 (run1_13 7 (fun x => rg_13 [(2, 1024), (3, 8)] { x with openQ := some 1024 }) (qU_13 2 9 13))
def stQI6 : State := run1_13 7 (rg_13 [])
def stQI7 : State := run1_13 7 (rg_13 [(1, 1024)]) (qU_13 2 2 9)
def stQI8 : State := run1_13 7 (rg_13 [(1, 1023)]) (qU_13 2 2 9)
def stQI9 : State := hput (run1_13 7 (rg_13 [(1, 1024)]) (qU_13 2 9 9)) .a (ringAddr D5_13 2) 0x77
/-- States and operands that meet the hypotheses of each clause of QueueInstructions. -/
theorem wit_QueueInstructions :
    -- clause 1
    (Going 7 stQI0 ∧
      ((stQI0.worker 7).openQ = none ∨ (stQI0.worker 7).openQ = some (BitVec.toNat (wkReg stQI0 7 2))) ∧
      QueueAt stQI0 (wkHive stQI0 7) (BitVec.toNat (wkReg stQI0 7 2)) D5_13 (2 : BitVec 32) (9 : BitVec 32) (9 : BitVec 32) ∧
      QueueOpenTo stQI0 (wkHive stQI0 7) (BitVec.toNat (wkReg stQI0 7 2)) (wkProducer 7) D5_13 ∧
      ((stQI0.queue (wkHive stQI0 7) (BitVec.toNat (wkReg stQI0 7 2))).opened = none ∧ (9 : BitVec 32) = (9 : BitVec 32) ∨ (stQI0.queue (wkHive stQI0 7) (BitVec.toNat (wkReg stQI0 7 2))).opened = some (wkProducer 7) ∧ (9 : BitVec 32) ≠ (9 : BitVec 32)) ∧
      ((((9 : BitVec 32) - (9 : BitVec 32)).toNat + if (stQI0.queue (wkHive stQI0 7) (BitVec.toNat (wkReg stQI0 7 2))).opened.isSome = true then BitVec.toNat (wkReg stQI0 7 3) else BitVec.toNat (wkReg stQI0 7 3) + 1) ≤ 2 ^ d0Size D5_13 - 1) ∧
      ((((9 : BitVec 32) - (9 : BitVec 32)).toNat + if (stQI0.queue (wkHive stQI0 7) (BitVec.toNat (wkReg stQI0 7 2))).opened.isSome = true then BitVec.toNat (wkReg stQI0 7 3) else BitVec.toNat (wkReg stQI0 7 3) + 1) ≤ 2 ^ 24) ∧
      (if (stQI0.queue (wkHive stQI0 7) (BitVec.toNat (wkReg stQI0 7 2))).opened.isSome = true then BitVec.toNat (wkReg stQI0 7 3) else BitVec.toNat (wkReg stQI0 7 3) + 1) ≤ roomOf D5_13 (2 : BitVec 32) (9 : BitVec 32) ∧
      (stQI0.queue (wkHive stQI0 7) (BitVec.toNat (wkReg stQI0 7 2))).opened = none) ∧
    -- clause 1
    (Going 7 stQI1 ∧
      ((stQI1.worker 7).openQ = none ∨ (stQI1.worker 7).openQ = some (BitVec.toNat (wkReg stQI1 7 2))) ∧
      QueueAt stQI1 (wkHive stQI1 7) (BitVec.toNat (wkReg stQI1 7 2)) D5_13 (2 : BitVec 32) (9 : BitVec 32) (9 : BitVec 32) ∧
      QueueOpenTo stQI1 (wkHive stQI1 7) (BitVec.toNat (wkReg stQI1 7 2)) (wkProducer 7) D5_13 ∧
      ((stQI1.queue (wkHive stQI1 7) (BitVec.toNat (wkReg stQI1 7 2))).opened = none ∧ (9 : BitVec 32) = (9 : BitVec 32) ∨ (stQI1.queue (wkHive stQI1 7) (BitVec.toNat (wkReg stQI1 7 2))).opened = some (wkProducer 7) ∧ (9 : BitVec 32) ≠ (9 : BitVec 32)) ∧
      ((((9 : BitVec 32) - (9 : BitVec 32)).toNat + if (stQI1.queue (wkHive stQI1 7) (BitVec.toNat (wkReg stQI1 7 2))).opened.isSome = true then BitVec.toNat (wkReg stQI1 7 3) else BitVec.toNat (wkReg stQI1 7 3) + 1) ≤ 2 ^ d0Size D5_13 - 1) ∧
      ((((9 : BitVec 32) - (9 : BitVec 32)).toNat + if (stQI1.queue (wkHive stQI1 7) (BitVec.toNat (wkReg stQI1 7 2))).opened.isSome = true then BitVec.toNat (wkReg stQI1 7 3) else BitVec.toNat (wkReg stQI1 7 3) + 1) ≤ 2 ^ 24) ∧
      (roomOf D5_13 (2 : BitVec 32) (9 : BitVec 32) < if (stQI1.queue (wkHive stQI1 7) (BitVec.toNat (wkReg stQI1 7 2))).opened.isSome = true then BitVec.toNat (wkReg stQI1 7 3) else BitVec.toNat (wkReg stQI1 7 3) + 1)) ∧
    -- clause 1
    (Going 7 stQI2 ∧
      ((stQI2.worker 7).openQ = none ∨ (stQI2.worker 7).openQ = some (BitVec.toNat (wkReg stQI2 7 2))) ∧
      QueueAt stQI2 (wkHive stQI2 7) (BitVec.toNat (wkReg stQI2 7 2)) D5_13 (2 : BitVec 32) (9 : BitVec 32) (13 : BitVec 32) ∧
      QueueOpenTo stQI2 (wkHive stQI2 7) (BitVec.toNat (wkReg stQI2 7 2)) (wkProducer 7) D5_13 ∧
      ((stQI2.queue (wkHive stQI2 7) (BitVec.toNat (wkReg stQI2 7 2))).opened = none ∧ (13 : BitVec 32) = (9 : BitVec 32) ∨ (stQI2.queue (wkHive stQI2 7) (BitVec.toNat (wkReg stQI2 7 2))).opened = some (wkProducer 7) ∧ (13 : BitVec 32) ≠ (9 : BitVec 32)) ∧
      ((((13 : BitVec 32) - (9 : BitVec 32)).toNat + if (stQI2.queue (wkHive stQI2 7) (BitVec.toNat (wkReg stQI2 7 2))).opened.isSome = true then BitVec.toNat (wkReg stQI2 7 3) else BitVec.toNat (wkReg stQI2 7 3) + 1) ≤ 2 ^ d0Size D5_13 - 1) ∧
      ((((13 : BitVec 32) - (9 : BitVec 32)).toNat + if (stQI2.queue (wkHive stQI2 7) (BitVec.toNat (wkReg stQI2 7 2))).opened.isSome = true then BitVec.toNat (wkReg stQI2 7 3) else BitVec.toNat (wkReg stQI2 7 3) + 1) ≤ 2 ^ 24) ∧
      (if (stQI2.queue (wkHive stQI2 7) (BitVec.toNat (wkReg stQI2 7 2))).opened.isSome = true then BitVec.toNat (wkReg stQI2 7 3) else BitVec.toNat (wkReg stQI2 7 3) + 1) ≤ roomOf D5_13 (2 : BitVec 32) (13 : BitVec 32) ∧
      (stQI2.queue (wkHive stQI2 7) (BitVec.toNat (wkReg stQI2 7 2))).opened ≠ none) ∧
    -- clause 2
    (Going 7 stQI3 ∧
      (stQI3.worker 7).openQ = some 1025 ∧
      1025 ≠ BitVec.toNat (wkReg stQI3 7 2)) ∧
    -- clause 3
    (Going 7 stQI4 ∧
      (stQI4.worker 7).openQ = some 1024 ∧
      QueueAt stQI4 (wkHive stQI4 7) 1024 D5_13 (2 : BitVec 32) (9 : BitVec 32) (13 : BitVec 32) ∧
      QueueOpenTo stQI4 (wkHive stQI4 7) 1024 (wkProducer 7) D5_13 ∧
      (stQI4.queue (wkHive stQI4 7) 1024).opened = some (wkProducer 7) ∧
      2 % 2 = 0 ∧
      (stQI4.queue (wkHive stQI4 7) 1024).written + 1 < ((13 : BitVec 32) - (9 : BitVec 32)).toNat ∧
      WordOpen stQI4 (wkHive stQI4 7) (ringAddr D5_13 (ringPos (9 : BitVec 32) ((stQI4.queue (wkHive stQI4 7) 1024).written + 1))) ∧
      (stQI4.queue (wkHive stQI4 7) 1024).written < 2 ^ 24 ∧
      WordOpen stQI4 (wkHive stQI4 7) (ringAddr D5_13 (9 : BitVec 32)) ∧
      (stQI4.queue (wkHive stQI4 7) 1024).written ≠ 0) ∧
    -- clause 3
    (Going 7 stQI5 ∧
      (stQI5.worker 7).openQ = some 1024 ∧
      QueueAt stQI5 (wkHive stQI5 7) 1024 D5_13 (2 : BitVec 32) (9 : BitVec 32) (13 : BitVec 32) ∧
      QueueOpenTo stQI5 (wkHive stQI5 7) 1024 (wkProducer 7) D5_13 ∧
      (stQI5.queue (wkHive stQI5 7) 1024).opened = some (wkProducer 7) ∧
      (stQI5.queue (wkHive stQI5 7) 1024).written < 2 ^ 24 ∧
      WordOpen stQI5 (wkHive stQI5 7) (ringAddr D5_13 (9 : BitVec 32)) ∧
      (stQI5.queue (wkHive stQI5 7) 1024).written = 0) ∧
    -- clause 4
    (Going 7 stQI6 ∧
      (stQI6.worker 7).openQ = none ∧
      owedQueue stQI6 (wkHive stQI6 7) 7 = none ∧
      2 % 2 = 0) ∧
    -- clause 4
    (Going 7 stQI6 ∧
      3 % 2 = 1) ∧
    -- clause 5
    (Going 7 stQI7 ∧
      2 % 2 = 0 ∧
      (BitVec.toNat (wkReg stQI7 7 1) = 256 + 7 ∨ 1024 ≤ BitVec.toNat (wkReg stQI7 7 1) ∧ BitVec.toNat (wkReg stQI7 7 1) < 65536) ∧
      QueueAt stQI7 (wkHive stQI7 7) (BitVec.toNat (wkReg stQI7 7 1)) D5_13 (2 : BitVec 32) (2 : BitVec 32) (9 : BitVec 32) ∧
      RingAbove D5_13 ∧
      (2 : BitVec 32) = (2 : BitVec 32)) ∧
    -- clause 5
    (Going 7 stQI8 ∧
      2 % 2 = 0 ∧
      BitVec.toNat (wkReg stQI8 7 1) ≠ 256 + 7 ∧
      (BitVec.toNat (wkReg stQI8 7 1) < 1024 ∨ 65536 ≤ BitVec.toNat (wkReg stQI8 7 1))) ∧
    -- clause 5
    (Going 7 stQI9 ∧
      2 % 2 = 0 ∧
      (BitVec.toNat (wkReg stQI9 7 1) = 256 + 7 ∨ 1024 ≤ BitVec.toNat (wkReg stQI9 7 1) ∧ BitVec.toNat (wkReg stQI9 7 1) < 65536) ∧
      QueueAt stQI9 (wkHive stQI9 7) (BitVec.toNat (wkReg stQI9 7 1)) D5_13 (2 : BitVec 32) (9 : BitVec 32) (9 : BitVec 32) ∧
      RingAbove D5_13 ∧
      (2 : BitVec 32) ≠ (9 : BitVec 32)) ∧
    -- clause 5
    (Going 7 stQI9 ∧
      3 % 2 = 1) :=
  ⟨⟨by unfold Going; decide +kernel, by decide +kernel, queueAt_of (by decide +kernel), openTo_of (by decide +kernel), by decide +kernel⟩,
   ⟨by unfold Going; decide +kernel, by decide +kernel, queueAt_of (by decide +kernel), openTo_of (by decide +kernel), by decide +kernel⟩,
   ⟨by unfold Going; decide +kernel, by decide +kernel, queueAt_of (by decide +kernel), openTo_of (by decide +kernel), by decide +kernel⟩,
   ⟨by unfold Going; decide +kernel, by decide +kernel⟩,
   ⟨by unfold Going; decide +kernel, by decide +kernel, queueAt_of (by decide +kernel), openTo_of (by decide +kernel), by decide +kernel, by decide +kernel, by decide +kernel, by unfold WordOpen; decide +kernel, by decide +kernel, by unfold WordOpen; decide +kernel, by decide +kernel⟩,
   ⟨by unfold Going; decide +kernel, by decide +kernel, queueAt_of (by decide +kernel), openTo_of (by decide +kernel), by decide +kernel, by decide +kernel, by unfold WordOpen; decide +kernel, by decide +kernel⟩,
   ⟨by unfold Going; decide +kernel, by decide +kernel⟩,
   ⟨by unfold Going; decide +kernel, by decide +kernel⟩,
   ⟨by unfold Going; decide +kernel, by decide +kernel, by decide +kernel, queueAt_of (by decide +kernel), by unfold RingAbove; decide +kernel, by decide +kernel⟩,
   ⟨by unfold Going; decide +kernel, by decide +kernel⟩,
   ⟨by unfold Going; decide +kernel, by decide +kernel, by decide +kernel, queueAt_of (by decide +kernel), by unfold RingAbove; decide +kernel, by decide +kernel⟩,
   ⟨by unfold Going; decide +kernel, by decide +kernel⟩⟩

def stJLAS0 : State := jb_12b (run1_12b 7 (fun x => rg_12b [] { x with ktab := (List.range 16).map (fun e => (e, 0)) }))
def stJLAS1 : State := qAt (run1_12b 7 (rg_12b [])) .a 263 (D 4 4) 2 2 2
def stJLAS2 : State := run1_12b 7 (rg_12b [])
def stJLAS3 : State := run1_12b 7 (fun x => rg_12b [(15, 99)] { x with jobActive := true, jobTag := 3 })
def stJLAS4 : State := run1_12b 30 ra
def stJLAS5 : State := run1_12b 30 (rg_12b [(1, 64)])
def stJLAS6 : State := lse_12b 1 3 { owner := some 29, n := 8, revoked := [30] } (run1_12b 30 ra)
def stJLAS7 : State := lse_12b 1 3 { owner := some 30, n := 8, waiters := [(28, 0, 4)] } (run1_12b 30 ra)
def stJLAS8 : State := run1_12b 30 (fun x => ra { x with doorbell := true, frameEv := true })
def stJLAS9 : State := run1_12b 30 (fun x => ra { x with timer := 5 })
def stJLAS10 : State := run1_12b 30 (fun x => ra { x with dbgEn := true, jobActive := true, openQ := some 6 })
def stJLAS11 : State := run1_12b 30 (rg_12b [(1, ad_12b 19), (3, 1)])
def stJLAS12 : State := run1_12b 7 (rg_12b [(1, 0x5), (3, 1024)])
/-- States and operands that meet the hypotheses of each clause of JobsLeasesAndStops. -/
theorem wit_JobsLeasesAndStops :
    -- clause 1
    (Going 7 stJLAS0 ∧
      QueueAt stJLAS0 (wkHive stJLAS0 7) (256 + 7) (D 4 4 : W64) (2 : BitVec 32) (5 : BitVec 32) (5 : BitVec 32) ∧
      RingAbove (D 4 4 : W64) ∧
      3 ≤ ((5 : BitVec 32) - (2 : BitVec 32)).toNat ∧
      WordReads stJLAS0 (wkHive stJLAS0 7) (ringAddr (D 4 4 : W64) (2 : BitVec 32)) px ∧
      WordReads stJLAS0 (wkHive stJLAS0 7) (ringAddr (D 4 4 : W64) (ringPos (2 : BitVec 32) 1)) j0 ∧
      WordReads stJLAS0 (wkHive stJLAS0 7) (ringAddr (D 4 4 : W64) (ringPos (2 : BitVec 32) 2)) j1 ∧
      fieldN (BitVec.toNat px) 63 40 = 2 ∧
      kernelEntry stJLAS0 7 (fieldN (BitVec.toNat j0) 63 48) = none ∧
      (5 : BitVec 32) = ringPos (2 : BitVec 32) 3) ∧
    -- clause 2
    (Going 7 stJLAS1 ∧
      QueueAt stJLAS1 (wkHive stJLAS1 7) (256 + 7) (D 4 4 : W64) (2 : BitVec 32) (2 : BitVec 32) (2 : BitVec 32)) ∧
    -- clause 3
    (Going 7 stJLAS2 ∧
      (stJLAS2.worker 7).jobActive = false) ∧
    -- clause 3
    (Going 7 stJLAS3 ∧
      (stJLAS3.worker 7).jobActive = true) ∧
    -- clause 4
    (Going 30 stJLAS4 ∧
      BitVec.toNat (wkReg stJLAS4 30 1) < 64 ∧
      30 ∉ (stJLAS4.lease (wkRegion 30) (BitVec.toNat (wkReg stJLAS4 30 1))).revoked ∧
      LeaseFree stJLAS4 (wkRegion 30) (BitVec.toNat (wkReg stJLAS4 30 1)) ∧
      (stJLAS4.lease (wkRegion 30) (BitVec.toNat (wkReg stJLAS4 30 1))).frozenAt = none ∧
      (stJLAS4.lease (wkRegion 30) (BitVec.toNat (wkReg stJLAS4 30 1))).owner ≠ some 30) ∧
    -- clause 4
    (Going 30 stJLAS5 ∧
      64 ≤ BitVec.toNat (wkReg stJLAS5 30 1)) ∧
    -- clause 4
    (Going 30 stJLAS6 ∧
      BitVec.toNat (wkReg stJLAS6 30 1) < 64 ∧
      30 ∈ (stJLAS6.lease (wkRegion 30) (BitVec.toNat (wkReg stJLAS6 30 1))).revoked) ∧
    -- clause 4
    (Going 30 stJLAS7 ∧
      BitVec.toNat (wkReg stJLAS7 30 1) < 64 ∧
      30 ∉ (stJLAS7.lease (wkRegion 30) (BitVec.toNat (wkReg stJLAS7 30 1))).revoked ∧
      (stJLAS7.lease (wkRegion 30) (BitVec.toNat (wkReg stJLAS7 30 1))).owner = some 30) ∧
    -- clause 5
    (Going 30 stJLAS8 ∧
      (31 : BitVec 5) ≠ 0 ∧
      BitVec.ofNat 5 (wkEvents (portFill 30 16 stJLAS8) 30) &&& (31 : BitVec 5) ≠ 0 ∧
      (BitVec.ofNat 5 (wkEvents (portFill 30 16 stJLAS8) 30) &&& (31 : BitVec 5)).getLsbD 3 = true ∧
      (BitVec.ofNat 5 (wkEvents (portFill 30 16 stJLAS8) 30) &&& (31 : BitVec 5)).getLsbD 4 = true) ∧
    -- clause 5
    (Going 30 stJLAS4 ∧
      (0 : BitVec 5) = 0) ∧
    -- clause 5
    (Going 30 stJLAS9 ∧
      (4 : BitVec 5) ≠ 0 ∧
      BitVec.ofNat 5 (wkEvents (portFill 30 16 stJLAS9) 30) &&& (4 : BitVec 5) = 0) ∧
    -- clause 6
    (Going 30 stJLAS4 ∧
      (stJLAS4.worker 30).dbgEn = false) ∧
    -- clause 6
    (Going 30 stJLAS4 ∧
      wordListed (0x0000000A : W32) = false) ∧
    -- clause 6
    (Going 30 stJLAS10 ∧
      (stJLAS10.worker 30).dbgEn = true) ∧
    -- clause 7
    (Going 30 stJLAS11 ∧
      gate stJLAS11 8 = Gate.serve ∧
      wkReg stJLAS11 30 1 = addrOf (lanePage 19) Reg.LNK_RETRY_TMO ∧
      1 ≤ BitVec.toNat (wkReg stJLAS11 30 3) ∧
      BitVec.toNat (wkReg stJLAS11 30 3) ≤ 1024) ∧
    -- clause 7
    (Going 7 stJLAS12 ∧
      gate stJLAS12 8 = Gate.serve ∧
      pageOf stJLAS12 (wkReg stJLAS12 7 1) = none) :=
  ⟨⟨by unfold Going; decide +kernel, queueAt_of (by decide +kernel), by unfold RingAbove; decide +kernel, by decide +kernel, wordReads_of (by decide +kernel), wordReads_of (by decide +kernel), wordReads_of (by decide +kernel), by decide +kernel⟩,
   ⟨by unfold Going; decide +kernel, queueAt_of (by decide +kernel)⟩,
   ⟨by unfold Going; decide +kernel, by decide +kernel⟩,
   ⟨by unfold Going; decide +kernel, by decide +kernel⟩,
   ⟨by unfold Going; decide +kernel, by decide +kernel, by decide +kernel, by unfold LeaseFree; decide +kernel, by decide +kernel⟩,
   ⟨by unfold Going; decide +kernel, by decide +kernel⟩,
   ⟨by unfold Going; decide +kernel, by decide +kernel⟩,
   ⟨by unfold Going; decide +kernel, by decide +kernel⟩,
   ⟨by unfold Going; decide +kernel, by decide +kernel⟩,
   ⟨by unfold Going; decide +kernel, by decide +kernel⟩,
   ⟨by unfold Going; decide +kernel, by decide +kernel⟩,
   ⟨by unfold Going; decide +kernel, by decide +kernel⟩,
   ⟨by unfold Going; decide +kernel, by decide +kernel⟩,
   ⟨by unfold Going; decide +kernel, by decide +kernel⟩,
   ⟨by unfold Going; decide +kernel, by decide +kernel⟩,
   ⟨by unfold Going; decide +kernel, by decide +kernel⟩⟩

def stWC0 : State := fw 7 .stopped
def stWC1 : State := fw 7 .running
def stWC2 : State := fw 150 .halted
def stWC3 : State := msel .mgmt 7 0x7FFC 15 (fw 7 .halted)
def stWC4 : State := msel .mgmt 7 0xFFFD 16 (fw 7 .running)
def stWC5 : State := fw 7 .halted
def stWC6 : State := run1_12c 7 (fun x => { x with haltReq := true })
def stWC7 : State := wkS_12c (fw 150 .running) 150 (fun x => { x with flushing := true })
def stWC8 : State := wkS_12c (fw 7 .waiting) 7 (fun x => { x with haltReq := true })
/-- States and operands that meet the hypotheses of each clause of WorkerControl. -/
theorem wit_WorkerControl :
    -- clause 1
    (Ready (.mgmt : Path) (wkDom (7 : Fin 192)) stWC0 ∧
      (stWC0.worker 7).state = WorkState.stopped) ∧
    -- clause 1
    (Ready (.mgmt : Path) (wkDom (7 : Fin 192)) stWC1 ∧
      ((stWC1.worker 7).state = WorkState.running ∨ (stWC1.worker 7).state = WorkState.waiting)) ∧
    -- clause 1
    (Ready (.lane 3 : Path) (wkDom (150 : Fin 192)) stWC2 ∧
      (stWC2.worker 150).state = WorkState.halted) ∧
    -- clause 2
    (Ready (.mgmt : Path) (wkDom (7 : Fin 192)) stWC3 ∧
      fld (stWC3.sel (.mgmt : Path) (wrkPage 7) Reg.WRK_MEM_SEL) 17 2 < memWords 7 (bit (stWC3.sel (.mgmt : Path) (wrkPage 7) Reg.WRK_MEM_SEL) 0) ∧
      (memLocked 7 (bit (stWC3.sel (.mgmt : Path) (wrkPage 7) Reg.WRK_MEM_SEL) 0) (fld (stWC3.sel (.mgmt : Path) (wrkPage 7) Reg.WRK_MEM_SEL) 17 2) = false ∨ memLocked 7 (bit (stWC3.sel (.mgmt : Path) (wrkPage 7) Reg.WRK_MEM_SEL) 0) (fld (stWC3.sel (.mgmt : Path) (wrkPage 7) Reg.WRK_MEM_SEL) 17 2) = true) ∧
      (bit (stWC3.sel (.mgmt : Path) (wrkPage 7) Reg.WRK_MEM_SEL) 0 = true ∨ (stWC3.worker 7).state = WorkState.stopped ∨ (stWC3.worker 7).state = WorkState.halted) ∧
      bit (stWC3.sel (.mgmt : Path) (wrkPage 7) Reg.WRK_MEM_SEL) 0 = false ∧
      fld (stWC3.sel (.mgmt : Path) (wrkPage 7) Reg.WRK_KT_SEL) 4 0 < 16) ∧
    -- clause 2
    (Ready (.mgmt : Path) (wkDom (7 : Fin 192)) stWC4 ∧
      fld (stWC4.sel (.mgmt : Path) (wrkPage 7) Reg.WRK_MEM_SEL) 17 2 < memWords 7 (bit (stWC4.sel (.mgmt : Path) (wrkPage 7) Reg.WRK_MEM_SEL) 0) ∧
      (memLocked 7 (bit (stWC4.sel (.mgmt : Path) (wrkPage 7) Reg.WRK_MEM_SEL) 0) (fld (stWC4.sel (.mgmt : Path) (wrkPage 7) Reg.WRK_MEM_SEL) 17 2) = false ∨ memLocked 7 (bit (stWC4.sel (.mgmt : Path) (wrkPage 7) Reg.WRK_MEM_SEL) 0) (fld (stWC4.sel (.mgmt : Path) (wrkPage 7) Reg.WRK_MEM_SEL) 17 2) = true) ∧
      (bit (stWC4.sel (.mgmt : Path) (wrkPage 7) Reg.WRK_MEM_SEL) 0 = true ∨ (stWC4.worker 7).state = WorkState.stopped ∨ (stWC4.worker 7).state = WorkState.halted) ∧
      bit (stWC4.sel (.mgmt : Path) (wrkPage 7) Reg.WRK_MEM_SEL) 0 = true ∧
      16 ≤ fld (stWC4.sel (.mgmt : Path) (wrkPage 7) Reg.WRK_KT_SEL) 4 0) ∧
    -- clause 3
    ((stWC5.worker 7).state = WorkState.halted ∧
      wkClocked stWC5 7 = true ∧
      (stWC5.worker 7).flushing = false ∧
      (stWC5.worker 7).stepping = false ∧
      (stWC5.worker 7).haltReq = false ∧
      (stWC5.worker 7).timer = 0 ∧
      isComb 7 = true) ∧
    -- clause 3
    (((stWC6.worker 7).state = WorkState.running ∨ (stWC6.worker 7).state = WorkState.waiting) ∧
      (stWC6.worker 7).haltReq = true ∧
      (stWC6.worker 7).flushing = false ∧
      (stWC6.worker 7).state = WorkState.running ∧
      (stWC6.worker 7).wait = none) ∧
    -- clause 3
    (isComb 7 = true ∧
      (tA.worker 7).access = some ((.a : HiveId), 0) ∧
      0 + 4096 ≤ tA.tick ∧
      hiveUp tA (.a : HiveId) = false ∧
      (tA.worker 7).wait = some (WaitFor.load 3 (0x20 : ℕ) 4)) ∧
    -- clause 3
    ((stWC7.worker 150).flushing = true ∧
      (stWC7.hive (ownHive 150)).caches = []) ∧
    -- clause 3
    ((stWC8.worker 7).haltReq = true ∧
      (stWC8.worker 7).flushing = false ∧
      (stWC8.worker 7).state = WorkState.waiting) :=
  ⟨⟨by unfold Ready; decide +kernel, by decide +kernel⟩,
   ⟨by unfold Ready; decide +kernel, by decide +kernel⟩,
   ⟨by unfold Ready; decide +kernel, by decide +kernel⟩,
   ⟨by unfold Ready; decide +kernel, by decide +kernel, (by cases memLocked _ _ _ <;> simp), by decide +kernel⟩,
   ⟨by unfold Ready; decide +kernel, by decide +kernel, (by cases memLocked _ _ _ <;> simp), by decide +kernel⟩,
   by decide +kernel⟩

def stLOAR0 : State := wkS_12c (lse_12c 1 3 { waiters := [(29, 6, 6), (30, 5, 7)] } up) 30 (fun x => { x with state := .waiting, wait := some (.lease 4 3 7) })
def stLOAR1 : State := { lse_12c 1 3 { owner := some 30, n := 6, since := 0 } up with tick := 65 }
def stLOAR2 : State := lsel .mgmt 1 63 (lse_12c 1 63 { owner := some 30, n := 6 } up)
def stLOAR3 : State := lsel .mgmt 7 63 up
def stLOAR4 : State := lsel .mgmt 1 63 (lse_12c 1 63 { owner := some 255, n := 6 } up)
def stLOAR5 : State := lse_12c 1 3 { owner := some 30, n := 6 } up
/-- States and operands that meet the hypotheses of each clause of LeasesOfARegion. -/
theorem wit_LeasesOfARegion :
    -- clause 1
    ((stLOAR0.lease 1 3).owner = none ∧
      nextWaiter (stLOAR0.region 1).ptr (stLOAR0.lease 1 3).waiters = some ((30, 5, 7) : ℕ × ℕ × ℕ)) ∧
    -- clause 2
    ((stLOAR1.lease 1 3).owner = some 30 ∧
      (stLOAR1.lease 1 3).frozenAt = none ∧
      (stLOAR1.lease 1 3).since + 2 ^ (stLOAR1.lease 1 3).n < stLOAR1.tick ∧
      30 < 192) ∧
    -- clause 3
    (Ready (.mgmt : Path) 1 stLOAR2 ∧
      hostOwner ∉ (stLOAR2.lease 1 (fld (stLOAR2.sel (.mgmt : Path) (lsePage 1) Reg.LSE_SEL) 5 0)).revoked ∧
      (∃ (o : ℕ), (stLOAR2.lease 1 (fld (stLOAR2.sel (.mgmt : Path) (lsePage 1) Reg.LSE_SEL) 5 0)).owner = some o ∧ o ≠ hostOwner) ∧
      (stLOAR2.lease 1 (fld (stLOAR2.sel (.mgmt : Path) (lsePage 1) Reg.LSE_SEL) 5 0)).frozenAt = none ∧
      (stLOAR2.lease 1 (fld (stLOAR2.sel (.mgmt : Path) (lsePage 1) Reg.LSE_SEL) 5 0)).owner ≠ some hostOwner) ∧
    -- clause 3
    (Ready (.mgmt : Path) 7 stLOAR3 ∧
      hostOwner ∉ (stLOAR3.lease 7 (fld (stLOAR3.sel (.mgmt : Path) (lsePage 7) Reg.LSE_SEL) 5 0)).revoked ∧
      LeaseFree stLOAR3 7 (fld (stLOAR3.sel (.mgmt : Path) (lsePage 7) Reg.LSE_SEL) 5 0)) ∧
    -- clause 3
    (Ready (.mgmt : Path) 1 stLOAR4 ∧
      hostOwner ∉ (stLOAR4.lease 1 (fld (stLOAR4.sel (.mgmt : Path) (lsePage 1) Reg.LSE_SEL) 5 0)).revoked ∧
      (stLOAR4.lease 1 (fld (stLOAR4.sel (.mgmt : Path) (lsePage 1) Reg.LSE_SEL) 5 0)).owner = some hostOwner) ∧
    -- clause 4
    (Ready Path.jtag 1 stLOAR5 ∧
      (stLOAR5.lease 1 (fld (0x3 : W32) 5 0)).owner = some 30 ∧
      (stLOAR5.lease 1 (fld (0x3 : W32) 5 0)).waiters = []) :=
  ⟨by decide +kernel,
   by decide +kernel,
   ⟨by unfold Ready; decide +kernel, by decide +kernel⟩,
   ⟨by unfold Ready; decide +kernel, by decide +kernel, by unfold LeaseFree; decide +kernel⟩,
   ⟨by unfold Ready; decide +kernel, by decide +kernel⟩,
   ⟨by unfold Ready; decide +kernel, by decide +kernel⟩⟩

def stHSU0 : State := hy g0 .a (fun y => { y with writeback := some 77, err := [(77, [3]), (78, [4,5])] })
def stHSU1 : State := hy (fo g0) .a (fun y => { y with pos := 77, err := [(77, [3])] })
def stHSU2 : State := fo up
def stHSU3 : State := hy (fo g0) .a (fun y => { y with pos := 77, err := [(77, [3, 70])] })
def stHSU4 : State := { hy g0 .a (fun y => { y with passSec := 1, merge := [⟨77, 5, 3, 0⟩], buckets := [(0, 4), (3, 1)] }) with tick := 100000000 * 1000 }
/-- States and operands that meet the hypotheses of each clause of HoneyStoreUpkeep. -/
theorem wit_HoneyStoreUpkeep :
    -- clause 1
    ((stHSU0.honey (.a : HiveId)).writeback = some 77) ∧
    -- clause 2
    (bit (stHSU1.reg (hsmPage (.a : HiveId)) Reg.HSM_CTL) 0 = true ∧
      forageDue (stHSU1.honey (.a : HiveId)) ≤ stHSU1.tick ∧
      (∀ m ∈ (stHSU1.honey (.a : HiveId)).merge, m.waddr ≠ (stHSU1.honey (.a : HiveId)).pos) ∧
      (stHSU1.honey (.a : HiveId)).writeback = none ∧
      (stHSU1.honey (.a : HiveId)).retiredAt (stHSU1.honey (.a : HiveId)).pos = false ∧
      (stHSU1.honey (.a : HiveId)).pos + 1 < honeyWords ∧
      (stHSU1.honey (.a : HiveId)).stateOf (stHSU1.honey (.a : HiveId)).pos = WState.valid ∧
      tget [] (stHSU1.honey (.a : HiveId)).err (stHSU1.honey (.a : HiveId)).pos = [3] ∧
      tget 0 (stHSU1.honey (.a : HiveId)).buckets ((stHSU1.honey (.a : HiveId)).pos / 2 ^ 17) + 1 < BitVec.toNat (stHSU1.reg (hsmPage (.a : HiveId)) Reg.HSM_BUCKET_MAX) ∧
      (stHSU1.honey (.a : HiveId)).log.length < 32) ∧
    -- clause 2
    (bit (stHSU2.reg (hsmPage (.a : HiveId)) Reg.HSM_CTL) 0 = true ∧
      forageDue (stHSU2.honey (.a : HiveId)) ≤ stHSU2.tick ∧
      (∀ m ∈ (stHSU2.honey (.a : HiveId)).merge, m.waddr ≠ (stHSU2.honey (.a : HiveId)).pos) ∧
      (stHSU2.honey (.a : HiveId)).writeback = none ∧
      (stHSU2.honey (.a : HiveId)).retiredAt (stHSU2.honey (.a : HiveId)).pos = false ∧
      (stHSU2.honey (.a : HiveId)).pos + 1 < honeyWords ∧
      ((stHSU2.honey (.a : HiveId)).stateOf (stHSU2.honey (.a : HiveId)).pos ≠ WState.valid ∨ tget [] (stHSU2.honey (.a : HiveId)).err (stHSU2.honey (.a : HiveId)).pos = [])) ∧
    -- clause 2
    (bit (stHSU3.reg (hsmPage (.a : HiveId)) Reg.HSM_CTL) 0 = true ∧
      forageDue (stHSU3.honey (.a : HiveId)) ≤ stHSU3.tick ∧
      (∀ m ∈ (stHSU3.honey (.a : HiveId)).merge, m.waddr ≠ (stHSU3.honey (.a : HiveId)).pos) ∧
      (stHSU3.honey (.a : HiveId)).writeback = none ∧
      (stHSU3.honey (.a : HiveId)).retiredAt (stHSU3.honey (.a : HiveId)).pos = false ∧
      (stHSU3.honey (.a : HiveId)).pos + 1 < honeyWords ∧
      (stHSU3.honey (.a : HiveId)).stateOf (stHSU3.honey (.a : HiveId)).pos = WState.valid ∧
      tget [] (stHSU3.honey (.a : HiveId)).err (stHSU3.honey (.a : HiveId)).pos = [3, 70]) ∧
    -- clause 3
    ((stHSU4.honey (.a : HiveId)).passLate = false ∧
      (stHSU4.honey (.a : HiveId)).passStart + (stHSU4.honey (.a : HiveId)).passSec * secTicks ≤ stHSU4.tick ∧
      (stHSU4.honey (.a : HiveId)).leakTick + 2 ^ fld (stHSU4.reg (hsmPage (.a : HiveId)) Reg.HSM_LEAK) 5 0 ≤ stHSU4.tick ∧
      (List.map (fun (x : ℕ × ℕ) => x.1) (stHSU4.honey (.a : HiveId)).buckets).Nodup) :=
  by decide +kernel

def stHPC0 : State := ret [3000] (wkx)
def stHPC1 : State := ret [12287, 3000] up
def stHPC2 : State := wa .mgmt (77*8+1) (hy g0 .a (fun y => y.put 77 6 .poison))
def stHPC3 : State := wa .mgmt (6291456*8) g0
def stHPC4 : State := wa .mgmt (6291455*8) (ret [12287] g0)
def stHPC5 : State := wa .mgmt (0x3FFFFF9) (ret [12287] g0)
/-- States and operands that meet the hypotheses of each clause of HoneyPageCommands. -/
theorem wit_HoneyPageCommands :
    -- clause 1
    (Ready (.lane 3 : Path) (hiveDom (hiveOf stHPC0 (.active : HiveRef))) stHPC0 ∧
      2048 ≤ fld (12287 : W32) 13 0 ∧ fld (12287 : W32) 13 0 ≤ 12287 ∧
      fld (12287 : W32) 13 0 ∉ (stHPC0.honey (hiveOf stHPC0 (.active : HiveRef))).retired ∧
      (12287 : W32) &&& 4294754304 = 0 ∧
      knownQueues stHPC0 (hiveOf stHPC0 (.active : HiveRef)) = []) ∧
    -- clause 1
    (Ready (.mgmt : Path) (hiveDom (hiveOf up (.active : HiveRef))) up ∧
      (¬(2048 ≤ fld (2047 : W32) 13 0 ∧ fld (2047 : W32) 13 0 ≤ 12287))) ∧
    -- clause 1
    (Ready (.lane 3 : Path) (hiveDom (hiveOf stHPC1 (.active : HiveRef))) stHPC1 ∧
      2048 ≤ fld (12287 : W32) 13 0 ∧ fld (12287 : W32) 13 0 ≤ 12287 ∧
      fld (12287 : W32) 13 0 ∈ (stHPC1.honey (hiveOf stHPC1 (.active : HiveRef))).retired) ∧
    -- clause 2
    (ReadyRead (.mgmt : Path) (hiveDom (hiveOf up (.active : HiveRef))) up ∧
      (up.honey (hiveOf up (.active : HiveRef))).log = []) ∧
    -- clause 3
    (ReadyRead (.mgmt : Path) (hiveDom (hiveOf stHPC2 (.active : HiveRef))) stHPC2 ∧
      fld (stHPC2.sel (.mgmt : Path) (hsmPage (hiveOf stHPC2 (.active : HiveRef))) Reg.HSM_WIN_ADDR) 25 3 < honeyWords ∧
      WordOpen stHPC2 (hiveOf stHPC2 (.active : HiveRef)) (fld (stHPC2.sel (.mgmt : Path) (hsmPage (hiveOf stHPC2 (.active : HiveRef))) Reg.HSM_WIN_ADDR) 25 3) ∧
      (∀ m ∈ (stHPC2.honey (hiveOf stHPC2 (.active : HiveRef))).merge, m.waddr ≠ fld (stHPC2.sel (.mgmt : Path) (hsmPage (hiveOf stHPC2 (.active : HiveRef))) Reg.HSM_WIN_ADDR) 25 3) ∧
      (stHPC2.honey (hiveOf stHPC2 (.active : HiveRef))).stateOf (fld (stHPC2.sel (.mgmt : Path) (hsmPage (hiveOf stHPC2 (.active : HiveRef))) Reg.HSM_WIN_ADDR) 25 3) = WState.poison) ∧
    -- clause 3
    (ReadyRead (.mgmt : Path) (hiveDom (hiveOf stHPC3 (.active : HiveRef))) stHPC3 ∧
      honeyWords ≤ fld (stHPC3.sel (.mgmt : Path) (hsmPage (hiveOf stHPC3 (.active : HiveRef))) Reg.HSM_WIN_ADDR) 25 3) ∧
    -- clause 4
    (Ready (.mgmt : Path) (hiveDom (hiveOf stHPC4 (.active : HiveRef))) stHPC4 ∧
      bit (stHPC4.sel (.mgmt : Path) (hsmPage (hiveOf stHPC4 (.active : HiveRef))) Reg.HSM_WIN_ADDR) 0 = false ∧
      fld (stHPC4.sel (.mgmt : Path) (hsmPage (hiveOf stHPC4 (.active : HiveRef))) Reg.HSM_WIN_ADDR) 25 3 < honeyWords ∧
      holders stHPC4 (hiveOf stHPC4 (.active : HiveRef)) (fld (stHPC4.sel (.mgmt : Path) (hsmPage (hiveOf stHPC4 (.active : HiveRef))) Reg.HSM_WIN_ADDR) 25 3 / 8) = [] ∧
      (stHPC4.honey (hiveOf stHPC4 (.active : HiveRef))).retiredAt (fld (stHPC4.sel (.mgmt : Path) (hsmPage (hiveOf stHPC4 (.active : HiveRef))) Reg.HSM_WIN_ADDR) 25 3) = true) ∧
    -- clause 4
    (Ready (.mgmt : Path) (hiveDom (hiveOf stHPC5 (.active : HiveRef))) stHPC5 ∧
      bit (stHPC5.sel (.mgmt : Path) (hsmPage (hiveOf stHPC5 (.active : HiveRef))) Reg.HSM_WIN_ADDR) 0 = true ∧
      honeyWords ≤ fld (stHPC5.sel (.mgmt : Path) (hsmPage (hiveOf stHPC5 (.active : HiveRef))) Reg.HSM_WIN_ADDR) 25 3) ∧
    -- clause 4
    (Ready (.mgmt : Path) (hiveDom (hiveOf stHPC2 (.active : HiveRef))) stHPC2 ∧
      fld (stHPC2.sel (.mgmt : Path) (hsmPage (hiveOf stHPC2 (.active : HiveRef))) Reg.HSM_WIN_ADDR) 25 3 < honeyWords ∧
      WordOpen stHPC2 (hiveOf stHPC2 (.active : HiveRef)) (fld (stHPC2.sel (.mgmt : Path) (hsmPage (hiveOf stHPC2 (.active : HiveRef))) Reg.HSM_WIN_ADDR) 25 3)) ∧
    -- clause 5
    (Ready (.mgmt : Path) (hiveDom (hiveOf up (.active : HiveRef))) up) :=
  ⟨⟨by unfold Ready; decide +kernel, by decide +kernel⟩,
   ⟨by unfold Ready; decide +kernel, by decide +kernel⟩,
   ⟨by unfold Ready; decide +kernel, by decide +kernel⟩,
   ⟨by unfold ReadyRead Ready; decide +kernel, by decide +kernel⟩,
   ⟨by unfold ReadyRead Ready; decide +kernel, by decide +kernel, by unfold WordOpen; decide +kernel, by decide +kernel⟩,
   ⟨by unfold ReadyRead Ready; decide +kernel, by decide +kernel⟩,
   ⟨by unfold Ready; decide +kernel, by decide +kernel⟩,
   ⟨by unfold Ready; decide +kernel, by decide +kernel⟩,
   ⟨by unfold Ready; decide +kernel, by decide +kernel, by unfold WordOpen; decide +kernel⟩,
   by unfold Ready; decide +kernel⟩

def stJC0 : State := hput (hput (nv (600*8) 16 up) .a 600 9) .a 601 10
def stJC1 : State := bz cm_131 up
def stJC2 : State := (bz cm2 (withR up)).setReg (nvsPage .a) Reg.NVS_EVENTS 1
def stJC3 : State := (withR up).setSel .mgmt (nvsPage .a) Reg.NVS_RAW_ADDR 3
/-- States and operands that meet the hypotheses of each clause of JournalCommands. -/
theorem wit_JournalCommands :
    -- clause 1
    (Ready (.mgmt : Path) (hiveDom (hiveOf stJC0 (.active : HiveRef))) stJC0 ∧
      (stJC0.hive (hiveOf stJC0 (.active : HiveRef))).nvs = none ∧
      (1 ≤ fld (0x00017F01 : W32) 15 8 ∧ fld (0x00017F01 : W32) 15 8 ≤ 8 ∨ 64 ≤ fld (0x00017F01 : W32) 15 8 ∧ fld (0x00017F01 : W32) 15 8 ≤ 127) ∧
      fld (0x00017F01 : W32) 15 8 ≠ 1 ∧
      fld (0x00017F01 : W32) 15 8 ≠ 2 ∧
      (8 ≤ fld (stJC0.reg (nvsPage (hiveOf stJC0 (.active : HiveRef))) Reg.NVS_LEN) 16 0 ∧ fld (stJC0.reg (nvsPage (hiveOf stJC0 (.active : HiveRef))) Reg.NVS_LEN) 16 0 % 8 = 0 ∧ (fld (stJC0.reg (nvsPage (hiveOf stJC0 (.active : HiveRef))) Reg.NVS_LEN) 16 0 ≤ if 64 ≤ fld (0x00017F01 : W32) 15 8 then 4096 else 65536) ∧ fld (stJC0.reg (nvsPage (hiveOf stJC0 (.active : HiveRef))) Reg.NVS_ADDR) 25 3 + fld (stJC0.reg (nvsPage (hiveOf stJC0 (.active : HiveRef))) Reg.NVS_LEN) 16 0 / 8 ≤ honeyWords) ∧
      (0x00017F01 : W32) &&& 2130706684 = 0 ∧
      winnerOf (records (stJC0.hive (hiveOf stJC0 (.active : HiveRef))).mram) (fld (0x00017F01 : W32) 15 8) (fld (0x00017F01 : W32) 23 16) = none ∧
      recordPayload (stJC0.hive (hiveOf stJC0 (.active : HiveRef))).mram (fld (0x00017F01 : W32) 15 8) (fld (0x00017F01 : W32) 23 16) = none) ∧
    -- clause 1
    (Ready (.mgmt : Path) (hiveDom (hiveOf up (.active : HiveRef))) up ∧
      (up.hive (hiveOf up (.active : HiveRef))).nvs = none ∧
      (¬(1 ≤ fld (0x00010901 : W32) 15 8 ∧ fld (0x00010901 : W32) 15 8 ≤ 8 ∨ 64 ≤ fld (0x00010901 : W32) 15 8 ∧ fld (0x00010901 : W32) 15 8 ≤ 127))) ∧
    -- clause 1
    (Ready (.mgmt : Path) (hiveDom (hiveOf up (.active : HiveRef))) up ∧
      (up.hive (hiveOf up (.active : HiveRef))).nvs = none ∧
      (fld (0x00010101 : W32) 15 8 = 1 ∨ fld (0x00010101 : W32) 15 8 = 2)) ∧
    -- clause 1
    (Ready (.mgmt : Path) (hiveDom (hiveOf up (.active : HiveRef))) up ∧
      (up.hive (hiveOf up (.active : HiveRef))).nvs = none ∧
      (1 ≤ fld (0x00017F01 : W32) 15 8 ∧ fld (0x00017F01 : W32) 15 8 ≤ 8 ∨ 64 ≤ fld (0x00017F01 : W32) 15 8 ∧ fld (0x00017F01 : W32) 15 8 ≤ 127) ∧
      fld (0x00017F01 : W32) 15 8 ≠ 1 ∧
      fld (0x00017F01 : W32) 15 8 ≠ 2 ∧
      (¬(8 ≤ fld (up.reg (nvsPage (hiveOf up (.active : HiveRef))) Reg.NVS_LEN) 16 0 ∧ fld (up.reg (nvsPage (hiveOf up (.active : HiveRef))) Reg.NVS_LEN) 16 0 % 8 = 0 ∧ (fld (up.reg (nvsPage (hiveOf up (.active : HiveRef))) Reg.NVS_LEN) 16 0 ≤ if 64 ≤ fld (0x00017F01 : W32) 15 8 then 4096 else 65536) ∧ fld (up.reg (nvsPage (hiveOf up (.active : HiveRef))) Reg.NVS_ADDR) 25 3 + fld (up.reg (nvsPage (hiveOf up (.active : HiveRef))) Reg.NVS_LEN) 16 0 / 8 ≤ honeyWords))) ∧
    -- clause 1
    (Ready (.mgmt : Path) (hiveDom (hiveOf stJC1 (.active : HiveRef))) stJC1 ∧
      (stJC1.hive (hiveOf stJC1 (.active : HiveRef))).nvs ≠ none) ∧
    -- clause 2
    ((stJC2.hive (.a : HiveId)).nvs = some cm2 ∧
      cm2.src = 0 ∧
      (stJC2.dup (.a : HiveId)).nvPending = false ∧
      cm2.op = 2 ∧
      cm2.result = 0 ∧
      cm2.writes = [] ∧
      Marked stJC2 (nvsPage (.a : HiveId)) Reg.NVS_EVENTS 0) ∧
    -- clause 4
    (ReadyRead (.mgmt : Path) (hiveDom (hiveOf stJC3 (.active : HiveRef))) stJC3) :=
  ⟨⟨by unfold Ready; decide +kernel, by decide +kernel⟩,
   ⟨by unfold Ready; decide +kernel, by decide +kernel⟩,
   ⟨by unfold Ready; decide +kernel, by decide +kernel⟩,
   ⟨by unfold Ready; decide +kernel, by decide +kernel⟩,
   ⟨by unfold Ready; decide +kernel, by decide +kernel⟩,
   by unfold Marked; decide +kernel,
   by unfold ReadyRead Ready; decide +kernel⟩

def stHB0 : State := nsec du 5000
def stHB1 : State := State.reset
def stHB2 : State := dup du4 .b (fun d => { d with pendingTake := true, former := 1, claim0 := 3, claim1 := 3, claim2 := 3 })
def stHB3 : State := dup du5 .b (fun d => { d with missD := 7, missR := 9, silentR := true, hostArm := true, peerClaim := 2 })
def stHB4 : State := dup du5 .b (fun d => { d with missD := 7, missR := 6 })
def stHB5 : State := dup du5 .a (fun d => { d with missR := 7, missD := 9, silentD := true, hostArm := true, peerClaim := 2 })
/-- States and operands that meet the hypotheses of each clause of HumBeats. -/
theorem wit_HumBeats :
    -- clause 1
    (humOn stHB0 (.a : HiveId) = true ∧
      (stHB0.dup (.a : HiveId)).sentSlot ≠ some (humSlot stHB0 (.a : HiveId))) ∧
    -- clause 1
    (humOn stHB1 (.b : HiveId) = false) ∧
    -- clause 2
    (humOn du4 (.b : HiveId) = true ∧
      crc8 (BitVec.ofNat 8 7) (BitVec.ofNat 8 0) (bitsMsb x2) = (cr x2 : BitVec 8) ∧ (BitVec.extractLsb' 40 4 x2).toNat = humSlot du4 (.b : HiveId) % 16 ∧
      BitVec.getLsbD x2 45 = false ∧
      BitVec.getLsbD x2 46 = true ∧
      BitVec.getLsbD x2 47 = true ∧
      isStandby du4 (.b : HiveId) = true ∧
      (du4.dup (.b : HiveId)).pendingTake = false ∧
      armed du4 (.b : HiveId) = true ∧
      BitVec.extractLsb' 48 16 x2 ≠ 65535 ∧
      (.direct : HumPath) = HumPath.direct) ∧
    -- clause 2
    (humOn du4 (.b : HiveId) = true ∧
      crc8 (BitVec.ofNat 8 7) (BitVec.ofNat 8 0) (bitsMsb (bx 2 true true true sl4 : W64)) = (cr (bx 2 true true true sl4) : BitVec 8) ∧ (BitVec.extractLsb' 40 4 (bx 2 true true true sl4 : W64)).toNat = humSlot du4 (.b : HiveId) % 16 ∧
      BitVec.getLsbD (bx 2 true true true sl4 : W64) 45 = true ∧
      higherClaim du4 ≠ (.b : HiveId) ∧
      (.relay3 : HumPath) ≠ HumPath.direct) ∧
    -- clause 2
    (humOn du4 (.b : HiveId) = true ∧
      crc8 (BitVec.ofNat 8 7) (BitVec.ofNat 8 0) (bitsMsb x1) = (cr x1 : BitVec 8) ∧ (BitVec.extractLsb' 40 4 x1).toNat = humSlot du4 (.b : HiveId) % 16 ∧
      BitVec.getLsbD x1 45 = false ∧
      (BitVec.getLsbD x1 46 && BitVec.getLsbD x1 47 && isStandby du4 (.b : HiveId)) = false ∧
      (.direct : HumPath) = HumPath.direct) ∧
    -- clause 2
    (humOn du4 (.b : HiveId) = true ∧
      (¬(crc8 (BitVec.ofNat 8 7) (BitVec.ofNat 8 0) (bitsMsb (x1 + 2^40 : W64)) = (cr (x1 + 2^40) : BitVec 8) ∧ (BitVec.extractLsb' 40 4 (x1 + 2^40 : W64)).toNat = humSlot du4 (.b : HiveId) % 16))) ∧
    -- clause 2
    (humOn stHB2 (.b : HiveId) = true ∧
      crc8 (BitVec.ofNat 8 7) (BitVec.ofNat 8 0) (bitsMsb x3) = (cr x3 : BitVec 8) ∧ (BitVec.extractLsb' 40 4 x3).toNat = humSlot stHB2 (.b : HiveId) % 16 ∧
      BitVec.getLsbD x3 45 = true ∧
      higherClaim stHB2 ≠ (.b : HiveId) ∧
      (stHB2.dup (.b : HiveId)).pendingTake = true) ∧
    -- clause 3
    (humOn stHB3 (.b : HiveId) = true ∧
      overdueBeat stHB3 (.b : HiveId) (if (true : Bool) = true then (stHB3.dup (.b : HiveId)).slotD else (stHB3.dup (.b : HiveId)).slotR) = true ∧
      (if (true : Bool) = true then (stHB3.dup (.b : HiveId)).missD else (stHB3.dup (.b : HiveId)).missR) = 7 ∧
      (if (true : Bool) = true then (stHB3.dup (.b : HiveId)).silentR else (stHB3.dup (.b : HiveId)).silentD) = true ∧
      isStandby stHB3 (.b : HiveId) = true ∧
      ready stHB3 (.b : HiveId) = true ∧
      (stHB3.dup (.b : HiveId)).hostArm = true ∧
      (stHB3.dup (.b : HiveId)).pendingTake = false ∧
      (stHB3.dup (.b : HiveId)).peerFatal = false ∧
      (stHB3.dup (.b : HiveId)).peerClaim ≠ 65535) ∧
    -- clause 3
    (humOn stHB4 (.b : HiveId) = true ∧
      overdueBeat stHB4 (.b : HiveId) (if (true : Bool) = true then (stHB4.dup (.b : HiveId)).slotD else (stHB4.dup (.b : HiveId)).slotR) = true ∧
      (if (true : Bool) = true then (stHB4.dup (.b : HiveId)).missD else (stHB4.dup (.b : HiveId)).missR) = 7 ∧
      (if (true : Bool) = true then (stHB4.dup (.b : HiveId)).silentR else (stHB4.dup (.b : HiveId)).silentD) = false ∧
      (if (true : Bool) = true then (stHB4.dup (.b : HiveId)).missR else (stHB4.dup (.b : HiveId)).missD) < 7) ∧
    -- clause 3
    (humOn du5 (.b : HiveId) = true ∧
      overdueBeat du5 (.b : HiveId) (if (true : Bool) = true then (du5.dup (.b : HiveId)).slotD else (du5.dup (.b : HiveId)).slotR) = true ∧
      (if (true : Bool) = true then (du5.dup (.b : HiveId)).missD else (du5.dup (.b : HiveId)).missR) ≠ 7) ∧
    -- clause 3
    (humOn stHB5 (.a : HiveId) = true ∧
      overdueBeat stHB5 (.a : HiveId) (if (false : Bool) = true then (stHB5.dup (.a : HiveId)).slotD else (stHB5.dup (.a : HiveId)).slotR) = true ∧
      (if (false : Bool) = true then (stHB5.dup (.a : HiveId)).missD else (stHB5.dup (.a : HiveId)).missR) = 7 ∧
      (if (false : Bool) = true then (stHB5.dup (.a : HiveId)).silentR else (stHB5.dup (.a : HiveId)).silentD) = true ∧
      isStandby stHB5 (.a : HiveId) = false) :=
  by decide +kernel

def stCAT0 : State := bd_14 (dec (laneSt (laneSt du 3 { state := .up, lock := true }) 4 { state := .training, lock := true }))
def stCAT1 : State := (du.modHive .a (fun x => { x with nvs := some cm_14 })).modDup .a (fun d => { d with nvPending := true })
def stCAT2 : State := dec du
def stCAT3 : State := dup du .b (fun d => { d with peerClaim := 2, runD := 65 })
def stCAT4 : State := dup du .b (fun d => { d with peerClaim := 0xFFFF, runD := 65 })
/-- States and operands that meet the hypotheses of each clause of ClaimsAndTakeover. -/
theorem wit_ClaimsAndTakeover :
    -- clause 1
    (boundaryDue stCAT0 = true ∧
      higherClaim stCAT0 = otherHive (.b : HiveId) ∧
      (stCAT0.dup (.b : HiveId)).pendingTake = true ∧
      (stCAT0.dup (otherHive (.b : HiveId))).pendingTake = false ∧
      (stCAT0.dup (otherHive (.b : HiveId))).claim.toNat < (stCAT0.dup (.b : HiveId)).claim.toNat ∧
      (stCAT0.domain (hiveDom (.b : HiveId))).inReset = false ∧
      (stCAT0.domain (hiveDom (.b : HiveId))).state ≠ PState.off) ∧
    -- clause 1
    (boundaryDue du = false) ∧
    -- clause 2
    ((stCAT1.hive (.a : HiveId)).nvs = some cm_14 ∧
      cm_14.src = 1) ∧
    -- clause 3
    (Ready (.mgmt : Path) (hiveDom (hiveOf du (.hiveB : HiveRef))) du ∧
      (du.dup HiveId.a).pendingTake = false ∧ (du.dup HiveId.b).pendingTake = false ∧
      (hiveOf du (.hiveB : HiveRef) = higherClaim du ∧ (du.dup (otherHive (hiveOf du (.hiveB : HiveRef)))).claim.toNat < (BitVec.extractLsb' 0 16 (1 : W32)).toNat ∨ hiveOf du (.hiveB : HiveRef) ≠ higherClaim du ∧ (BitVec.extractLsb' 0 16 (1 : W32)).toNat < (du.dup (otherHive (hiveOf du (.hiveB : HiveRef)))).claim.toNat)) ∧
    -- clause 3
    (Ready (.mgmt : Path) (hiveDom (hiveOf du (.hiveB : HiveRef))) du ∧
      (du.dup HiveId.a).pendingTake = false ∧ (du.dup HiveId.b).pendingTake = false ∧
      (¬(hiveOf du (.hiveB : HiveRef) = higherClaim du ∧ (du.dup (otherHive (hiveOf du (.hiveB : HiveRef)))).claim.toNat < (BitVec.extractLsb' 0 16 (2 : W32)).toNat ∨ hiveOf du (.hiveB : HiveRef) ≠ higherClaim du ∧ (BitVec.extractLsb' 0 16 (2 : W32)).toNat < (du.dup (otherHive (hiveOf du (.hiveB : HiveRef)))).claim.toNat))) ∧
    -- clause 3
    (Ready (.mgmt : Path) (hiveDom (hiveOf stCAT2 (.hiveB : HiveRef))) stCAT2 ∧
      (¬((stCAT2.dup HiveId.a).pendingTake = false ∧ (stCAT2.dup HiveId.b).pendingTake = false))) ∧
    -- clause 4
    (Ready (.mgmt : Path) (hiveDom (hiveOf stCAT3 (.hiveB : HiveRef))) stCAT3 ∧
      hiveOf stCAT3 (.hiveB : HiveRef) ≠ higherClaim stCAT3 ∧
      isStandby stCAT3 (hiveOf stCAT3 (.hiveB : HiveRef)) = true ∧
      (stCAT3.dup (hiveOf stCAT3 (.hiveB : HiveRef))).pendingTake = false ∧
      armed stCAT3 (hiveOf stCAT3 (.hiveB : HiveRef)) = true ∧
      (stCAT3.dup (hiveOf stCAT3 (.hiveB : HiveRef))).peerClaim ≠ 65535 ∧
      (stCAT3.dup (hiveOf stCAT3 (.hiveB : HiveRef))).peerFatal = false) ∧
    -- clause 4
    (Ready (.mgmt : Path) (hiveDom (hiveOf du (.active : HiveRef))) du ∧
      hiveOf du (.active : HiveRef) = higherClaim du ∧
      armed du (otherHive (hiveOf du (.active : HiveRef))) = true ∧
      (du.dup (hiveOf du (.active : HiveRef))).claim ≠ 65535 ∧
      (du.dup (hiveOf du (.active : HiveRef))).fatal = false ∧
      isStandby du (hiveOf du (.active : HiveRef)) = false) ∧
    -- clause 4
    (Ready (.mgmt : Path) (hiveDom (hiveOf up (.active : HiveRef))) up ∧
      hiveOf up (.active : HiveRef) = higherClaim up ∧
      (armed up (otherHive (hiveOf up (.active : HiveRef))) = false ∨ (up.dup (hiveOf up (.active : HiveRef))).claim = 65535)) ∧
    -- clause 4
    (Ready (.mgmt : Path) (hiveDom (hiveOf stCAT4 (.hiveB : HiveRef))) stCAT4 ∧
      isStandby stCAT4 (hiveOf stCAT4 (.hiveB : HiveRef)) = true ∧
      (stCAT4.dup (hiveOf stCAT4 (.hiveB : HiveRef))).pendingTake = false ∧
      (armed stCAT4 (hiveOf stCAT4 (.hiveB : HiveRef)) = false ∨ (stCAT4.dup (hiveOf stCAT4 (.hiveB : HiveRef))).peerClaim = 65535)) :=
  ⟨by decide +kernel,
   by decide +kernel,
   by decide +kernel,
   ⟨by unfold Ready; decide +kernel, by decide +kernel⟩,
   ⟨by unfold Ready; decide +kernel, by decide +kernel⟩,
   ⟨by unfold Ready; decide +kernel, by decide +kernel⟩,
   ⟨by unfold Ready; decide +kernel, by decide +kernel⟩,
   ⟨by unfold Ready; decide +kernel, by decide +kernel⟩,
   ⟨by unfold Ready; decide +kernel, by decide +kernel⟩,
   ⟨by unfold Ready; decide +kernel, by decide +kernel⟩⟩

def stSAL0 : State := told (sc du 6 2 0x00040301 { count := 3, windowEnd := none })
def stSAL1 : State := sc du 3 5 0x00020304 {}
def stSAL2 : State := sc du 3 5 0x00020304 { broken := true }
def stSAL3 : State := sc du 3 5 0x00020304 { count := 2, windowEnd := some 5 }
def stSAL4 : State := told (sc du 6 2 0x00000301 { count := 3, windowEnd := none })
def stSAL5 : State := sc du 2 31 0x00010301 {}
def stSAL6 : State := sc du 2 20 0x00010301 {broken := true}
def stSAL7 : State := at50 (rc (en du) r0)
def stSAL8 : State := at50 (rc (en du) r2)
def stSAL9 : State := rc du r0
def stSAL10 : State := at50 (rc (en du) r1)
def stSAL11 : State := at50 (rc (en du) r3)
def stSAL12 : State := at50 (rc (en du) r2j)
def stSAL13 : State := at50 (rc (en du) r2k)
def stSAL14 : State := at50 (rc (du.setReg (chipGrdPage du) Reg.GRD_CTL 0) r0)
/-- States and operands that meet the hypotheses of each clause of SourcesAndLadder. -/
theorem wit_SourcesAndLadder :
    -- clause 1
    ((stSAL0.source 6 2).broken = false ∧
      (fld (stSAL0.reg (grdPage 6) Reg.GRD_SRC_CFG 2) 7 0 ≠ 0 ∧ ((∃ (e : ℕ), (stSAL0.source 6 2).windowEnd = some e ∧ stSAL0.tick < e) ∧ fld (stSAL0.reg (grdPage 6) Reg.GRD_SRC_CFG 2) 7 0 ≤ (stSAL0.source 6 2).count + 1 ∨ (¬∃ (e : ℕ), (stSAL0.source 6 2).windowEnd = some e ∧ stSAL0.tick < e) ∧ fld (stSAL0.reg (grdPage 6) Reg.GRD_SRC_CFG 2) 7 0 ≤ 1)) ∧
      GuardTold stSAL0 ∧
      stSAL0.fatal = false ∧
      fld (stSAL0.reg (grdPage 6) Reg.GRD_SRC_CFG 2) 18 16 ≠ 0 ∧
      openRecord stSAL0 = none) ∧
    -- clause 1
    ((stSAL1.source 3 5).broken = false ∧
      (¬(fld (stSAL1.reg (grdPage 3) Reg.GRD_SRC_CFG 5) 7 0 ≠ 0 ∧ ((∃ (e : ℕ), (stSAL1.source 3 5).windowEnd = some e ∧ stSAL1.tick < e) ∧ fld (stSAL1.reg (grdPage 3) Reg.GRD_SRC_CFG 5) 7 0 ≤ (stSAL1.source 3 5).count + 1 ∨ (¬∃ (e : ℕ), (stSAL1.source 3 5).windowEnd = some e ∧ stSAL1.tick < e) ∧ fld (stSAL1.reg (grdPage 3) Reg.GRD_SRC_CFG 5) 7 0 ≤ 1))) ∧
      (¬∃ (e : ℕ), (stSAL1.source 3 5).windowEnd = some e ∧ stSAL1.tick < e)) ∧
    -- clause 1
    ((stSAL2.source 3 5).broken = true) ∧
    -- clause 1
    ((stSAL3.source 3 5).broken = false ∧
      (¬(fld (stSAL3.reg (grdPage 3) Reg.GRD_SRC_CFG 5) 7 0 ≠ 0 ∧ ((∃ (e : ℕ), (stSAL3.source 3 5).windowEnd = some e ∧ stSAL3.tick < e) ∧ fld (stSAL3.reg (grdPage 3) Reg.GRD_SRC_CFG 5) 7 0 ≤ (stSAL3.source 3 5).count + 1 ∨ (¬∃ (e : ℕ), (stSAL3.source 3 5).windowEnd = some e ∧ stSAL3.tick < e) ∧ fld (stSAL3.reg (grdPage 3) Reg.GRD_SRC_CFG 5) 7 0 ≤ 1))) ∧
      (∃ (e : ℕ), (stSAL3.source 3 5).windowEnd = some e ∧ stSAL3.tick < e)) ∧
    -- clause 1
    ((stSAL4.source 6 2).broken = false ∧
      (fld (stSAL4.reg (grdPage 6) Reg.GRD_SRC_CFG 2) 7 0 ≠ 0 ∧ ((∃ (e : ℕ), (stSAL4.source 6 2).windowEnd = some e ∧ stSAL4.tick < e) ∧ fld (stSAL4.reg (grdPage 6) Reg.GRD_SRC_CFG 2) 7 0 ≤ (stSAL4.source 6 2).count + 1 ∨ (¬∃ (e : ℕ), (stSAL4.source 6 2).windowEnd = some e ∧ stSAL4.tick < e) ∧ fld (stSAL4.reg (grdPage 6) Reg.GRD_SRC_CFG 2) 7 0 ≤ 1)) ∧
      GuardTold stSAL4 ∧
      (stSAL4.fatal = true ∨ fld (stSAL4.reg (grdPage 6) Reg.GRD_SRC_CFG 2) 18 16 = 0)) ∧
    -- clause 2
    ((stSAL5.source 2 31).broken = false ∧
      31 ≠ wireSrc 2) ∧
    -- clause 2
    ((stSAL6.source 2 20).broken = true) ∧
    -- clause 3
    (openRecord stSAL7 = some r0 ∧
      stSAL7.fatal = false ∧
      r0.deadline ≤ stSAL7.tick ∧
      bit (stSAL7.reg (chipGrdPage stSAL7) Reg.GRD_CTL) 0 = true ∧
      r0.step < r0.ceil ∧
      r0.step = 0 ∧
      r0.region < 6 ∧
      r0.src < 12 ∧
      (stSAL7.domain r0.region).inReset = false) ∧
    -- clause 3
    (openRecord stSAL8 = some r2 ∧
      stSAL8.fatal = false ∧
      r2.deadline ≤ stSAL8.tick ∧
      bit (stSAL8.reg (chipGrdPage stSAL8) Reg.GRD_CTL) 0 = true ∧
      r2.step < r2.ceil ∧
      r2.step = 2 ∧
      r2.region ≠ hiveRegion (otherHive (higherClaim stSAL8)) ∧
      armed stSAL8 (otherHive (higherClaim stSAL8)) = true ∧
      (stSAL8.dup (higherClaim stSAL8)).claim ≠ 65535) ∧
    -- clause 3
    (openRecord stSAL9 = some r0 ∧
      (stSAL9.fatal = true ∨ stSAL9.tick < r0.deadline)) ∧
    -- clause 3
    (openRecord stSAL10 = some r1 ∧
      stSAL10.fatal = false ∧
      r1.deadline ≤ stSAL10.tick ∧
      bit (stSAL10.reg (chipGrdPage stSAL10) Reg.GRD_CTL) 0 = true ∧
      r1.step < r1.ceil ∧
      r1.step = 1 ∧
      r1.region < 6) ∧
    -- clause 3
    (openRecord stSAL11 = some r3 ∧
      stSAL11.fatal = false ∧
      r3.deadline ≤ stSAL11.tick ∧
      bit (stSAL11.reg (chipGrdPage stSAL11) Reg.GRD_CTL) 0 = true ∧
      r3.step < r3.ceil ∧
      r3.step = 3) ∧
    -- clause 3
    (openRecord stSAL12 = some r2j ∧
      stSAL12.fatal = false ∧
      r2j.deadline ≤ stSAL12.tick ∧
      bit (stSAL12.reg (chipGrdPage stSAL12) Reg.GRD_CTL) 0 = true ∧
      r2j.step < r2j.ceil ∧
      r2j.step = 2 ∧
      r2j.region = hiveRegion (otherHive (higherClaim stSAL12))) ∧
    -- clause 3
    (openRecord stSAL13 = some r2k ∧
      stSAL13.fatal = false ∧
      r2k.deadline ≤ stSAL13.tick ∧
      bit (stSAL13.reg (chipGrdPage stSAL13) Reg.GRD_CTL) 0 = true ∧
      r2k.ceil ≤ r2k.step) ∧
    -- clause 3
    (openRecord stSAL14 = some r0 ∧
      stSAL14.fatal = false ∧
      r0.deadline ≤ stSAL14.tick ∧
      bit (stSAL14.reg (chipGrdPage stSAL14) Reg.GRD_CTL) 0 = false) ∧
    -- clause 4
    (Ready (.mgmt : Path) 6 stSAL9 ∧
      openRecord stSAL9 = some r0 ∧
      stSAL9.tick < r0.deadline ∧
      BitVec.toNat (5 : W32) < 2 ^ 16 ∧
      6 = hiveDom (higherClaim stSAL9) ∧
      stSAL9.fatal = false ∧
      r0.seq = BitVec.extractLsb' 0 16 (5 : W32)) ∧
    -- clause 4
    (Ready (.mgmt : Path) 7 stSAL9 ∧
      openRecord stSAL9 = some r0 ∧
      stSAL9.tick < r0.deadline ∧
      BitVec.toNat (5 : W32) < 2 ^ 16 ∧
      (7 ≠ hiveDom (higherClaim stSAL9) ∨ stSAL9.fatal = true ∨ r0.seq ≠ BitVec.extractLsb' 0 16 (5 : W32))) :=
  ⟨⟨by decide +kernel, by decide +kernel, by unfold GuardTold Marked; decide +kernel, by decide +kernel⟩,
   by decide +kernel,
   by decide +kernel,
   by decide +kernel,
   ⟨by decide +kernel, by decide +kernel, by unfold GuardTold Marked; decide +kernel, by decide +kernel⟩,
   four (by decide +kernel) (four (by decide +kernel) ⟨by decide +kernel, by decide +kernel, ⟨by unfold Ready; decide +kernel, by decide +kernel⟩,
   ⟨by unfold Ready; decide +kernel, by decide +kernel⟩⟩)⟩

def stFLAK0 : State := dps 1 du
def stFLAK1 : State := fa (du.modGuard .a (fun g => { g with dumpDone := true }))
def stFLAK2 : State := du.modGuard .a (fun g => { g with log := [r0, r1] })
def stFLAK3 : State := ((kk du).modRegion 3 (fun r => { r with unlocked := true })).setReg (grdPage 3) Reg.GRD_PERTURB_CTL 3
def stFLAK4 : State := kk du
/-- States and operands that meet the hypotheses of each clause of FatalLogAndKeys. -/
theorem wit_FatalLogAndKeys :
    -- clause 1
    (Ready (.mgmt : Path) 6 du ∧
      6 = hiveDom (higherClaim du) ∧
      du.fatal = false) ∧
    -- clause 1
    (Ready (.mgmt : Path) 7 du ∧
      7 ≠ hiveDom (higherClaim du)) ∧
    -- clause 2
    (dumping stFLAK0 (higherClaim stFLAK0) = true ∧
      (stFLAK0.hive (higherClaim stFLAK0)).place.dumpBack = [] ∧
      dumpLane stFLAK0 = some 3 ∧
      QueueAt stFLAK0 (higherClaim stFLAK0) 1 (D 1 10 : W64) (9 : BitVec 32) (9 : BitVec 32) (9 : BitVec 32) ∧
      QueueOpenTo stFLAK0 (higherClaim stFLAK0) 1 (Producer.path (64 + (dumpWorker (higherClaim stFLAK0)).val)) (D 1 10 : W64) ∧
      (stFLAK0.queue (higherClaim stFLAK0) 1).opened = none ∧
      (dumpNext stFLAK0 (higherClaim stFLAK0)).1.length + 1 ≤ 2 ^ d0Size (D 1 10 : W64) - 1 ∧
      (∀ i ≤ (dumpNext stFLAK0 (higherClaim stFLAK0)).1.length, WordOpen stFLAK0 (higherClaim stFLAK0) (ringAddr (D 1 10 : W64) (ringPos (9 : BitVec 32) i)))) ∧
    -- clause 3
    (stFLAK1.fatal = true ∧
      (stFLAK1.hive (higherClaim stFLAK1)).guard.dumpDone = true) ∧
    -- clause 4
    (ReadyRead (.mgmt : Path) 6 stFLAK2 ∧
      6 = hiveDom (higherClaim stFLAK2) ∧
      (stFLAK2.hive (higherClaim stFLAK2)).guard.log = r0 :: ([r1] : List Record)) ∧
    -- clause 5
    (Ready (.mgmt : Path) 6 du ∧
      (0xA5A5 : W32) = 42405 ∧
      (fun (t : State) => t.sel (.mgmt : Path) (grdPage 6) Reg.GRD_PERTURB_KEY) du ≠ 1) ∧
    -- clause 5
    (Ready (.mgmt : Path) 3 stFLAK3 ∧
      (3 : W32) ≠ 23130 ∧
      (3 : W32) ≠ 42405) ∧
    -- clause 5
    (Ready (.mgmt : Path) 6 du ∧
      (0x5A5A : W32) = 23130) ∧
    -- clause 5
    (Ready (.mgmt : Path) 3 stFLAK4 ∧
      (0xA5A5 : W32) = 42405 ∧
      (fun (t : State) => t.sel (.mgmt : Path) (grdPage 3) Reg.GRD_PERTURB_KEY) stFLAK4 = 1) :=
  ⟨⟨by unfold Ready; decide +kernel, by decide +kernel⟩,
   ⟨by unfold Ready; decide +kernel, by decide +kernel⟩,
   ⟨by decide +kernel, by decide +kernel, by decide +kernel, queueAt_of (by decide +kernel), openTo_of (by decide +kernel), by decide +kernel, by decide +kernel, by unfold WordOpen; decide +kernel⟩,
   by decide +kernel,
   ⟨by unfold ReadyRead Ready; decide +kernel, by decide +kernel⟩,
   ⟨by unfold Ready; decide +kernel, by decide +kernel⟩,
   ⟨by unfold Ready; decide +kernel, by decide +kernel⟩,
   ⟨by unfold Ready; decide +kernel, by decide +kernel⟩,
   ⟨by unfold Ready; decide +kernel, by decide +kernel⟩⟩

def stRA0 : State := tg_15 .mgmt cfx
def stRA1 : State := slp up
def stRA2 : State := rst up
/-- States and operands that meet the hypotheses of each clause of RegisterAccesses. -/
theorem wit_RegisterAccesses :
    -- clause 1
    (pathFree up (.mgmt : Path) = true ∧
      ((.mgmt : Path) = Path.jtag → up.chip.extest = false) ∧
      pageOf up (0x50000000 : W32) = none) ∧
    -- clause 2
    (Ready (.mgmt : Path) (pageDomain (chipPage : ℕ)) up ∧
      pageOf up (BitVec.ofNat 32 (chipPage + 0xFFC) : W32) = some (chipPage : ℕ) ∧
      (keyOff (BitVec.toNat (BitVec.ofNat 32 (chipPage + 0xFFC) : W32)) % 4 ≠ 0 ∨ descOf (keyGroup (chipPage : ℕ)) (keyOff (BitVec.toNat (BitVec.ofNat 32 (chipPage + 0xFFC) : W32))) = none)) ∧
    -- clause 4
    (Ready (.mgmt : Path) 8 up ∧
      (BitVec.toNat (0 : W32) = 0 ∨ 1024 < BitVec.toNat (0 : W32) ∧ BitVec.toNat (0 : W32) < 2048) ∧
      up.reg (lanePage 7) Reg.LNK_RETRY_TMO ≠ (0 : W32)) ∧
    -- clause 4
    (Ready (.startup : Path) 8 up ∧
      1 ≤ BitVec.toNat (1 : W32) ∧
      BitVec.toNat (1 : W32) ≤ 1024) ∧
    -- clause 5
    (ReadyRead (.mgmt : Path) 8 stRA0 ∧
      (stRA0.path (.mgmt : Path)).rTag = some (chipPage + Reg.CHIP_COMMIT_FRAME_LO) ∧
      (stRA0.path (.mgmt : Path)).rHold = (0x8888999977776666 : W64) ∧
      BitVec.toNat (255 : W32) < 256 ∧
      (stRA0.path (.mgmt : Path)).wTag = some (chipPage + Reg.CHIP_COMMIT_FRAME_LO)) ∧
    -- clause 5
    (ReadyRead (.mgmt : Path) 8 cfx ∧
      (cfx.path (.mgmt : Path)).rTag ≠ some (chipPage + Reg.CHIP_COMMIT_FRAME_LO) ∧
      BitVec.toNat (255 : W32) < 256 ∧
      (cfx.path (.mgmt : Path)).wTag ≠ some (chipPage + Reg.CHIP_COMMIT_FRAME_LO)) ∧
    -- clause 6
    (pathFree stRA1 (.lane 3 : Path) = true ∧
      (.lane 3 : Path) ≠ Path.startup ∧
      (.lane 3 : Path) ≠ Path.mgmt ∧
      (.lane 3 : Path) ≠ Path.jtag ∧
      pageOf stRA1 adB = some (hivePage .b 0x1B : ℕ) ∧
      gate stRA1 (pageDomain (hivePage .b 0x1B : ℕ)) = Gate.stall ∧
      pageDomain (hivePage .b 0x1B : ℕ) < 8) ∧
    -- clause 6
    (pathFree stRA2 (.worker 3 : Path) = true ∧
      (.worker 3 : Path) ≠ Path.startup ∧
      (.worker 3 : Path) ≠ Path.mgmt ∧
      (.worker 3 : Path) ≠ Path.jtag ∧
      pageOf stRA2 adB = some (hivePage .b 0x1B : ℕ) ∧
      gate stRA2 (pageDomain (hivePage .b 0x1B : ℕ)) = Gate.unreachable) :=
  ⟨by decide +kernel,
   ⟨by unfold Ready; decide +kernel, by decide +kernel⟩,
   ⟨by unfold Ready; decide +kernel, by decide +kernel⟩,
   ⟨by unfold Ready; decide +kernel, by decide +kernel⟩,
   ⟨by unfold ReadyRead Ready; decide +kernel, by decide +kernel⟩,
   ⟨by unfold ReadyRead Ready; decide +kernel, by decide +kernel⟩,
   by decide +kernel⟩

def stCAES0 : State := onC stg (fun c => { c with commitArmed := some 8 })
def stCAES1 : State := cf 1 stg
def stCAES2 : State := onC (cf 0 stg) (fun c => { c with commitArmed := some 8, commitState := 1 })
def stCAES3 : State := onC (bd_15 stg) (fun c => { c with commitArmed := some 1, commitState := 1 })
def stCAES4 : State := (blkSt up 5 {}).setReg (blkPage 5) Reg.BIAS_TARGET 88
def stCAES5 : State := State.reset
/-- States and operands that meet the hypotheses of each clause of CommitAndEmergencyStop. -/
theorem wit_CommitAndEmergencyStop :
    -- clause 1
    (Ready (.mgmt : Path) (pageDomain (cfgPage 0x13 : ℕ)) stg ∧
      pageOf stg (ctlOf (BitVec.ofNat 32 (cfgPage 0x13) : W32)) = some (cfgPage 0x13 : ℕ) ∧
      stg.chip.commitArmed = none) ∧
    -- clause 1
    (Ready (.jtag : Path) (pageDomain (hivePage .b 0x13 : ℕ)) stCAES0 ∧
      pageOf stCAES0 (ctlOf (BitVec.ofNat 32 (hivePage .b 0x13) : W32)) = some (hivePage .b 0x13 : ℕ) ∧
      stCAES0.chip.commitArmed ≠ none) ∧
    -- clause 2
    (Ready (.mgmt : Path) 8 stCAES1 ∧
      0 < frameDiff (BitVec.ofNat 40 (stCAES1.reg64 chipPage Reg.CHIP_COMMIT_FRAME_LO)) stCAES1.frameNow ∧
      stCAES1.chip.commitArmed = none) ∧
    -- clause 2
    (Ready (.startup : Path) 8 stCAES2 ∧
      frameDiff (BitVec.ofNat 40 (stCAES2.reg64 chipPage Reg.CHIP_COMMIT_FRAME_LO)) stCAES2.frameNow ≤ 0 ∧
      stCAES2.chip.commitArmed ≠ none) ∧
    -- clause 3
    (stCAES3.chip.started = true ∧
      stCAES3.chip.state ≠ PState.deep ∧
      stCAES3.chip.state ≠ PState.off ∧
      boundaryDue stCAES3 = true ∧
      stCAES3.hiveA.dup.pendingTake = false ∧
      stCAES3.hiveB.dup.pendingTake = false ∧
      stCAES3.chip.step = none ∧
      stCAES3.chip.commitArmed = some (stCAES3.frameNow + 1) ∧
      stCAES3.chip.plcArmed = none ∧
      (List.map (fun (x : ℕ × W32) => x.1) stCAES3.staged).Nodup) ∧
    -- clause 5
    (Ready (.mgmt : Path) 8 stCAES4 ∧
      (.mgmt : Path) ≠ Path.startup) ∧
    -- clause 6
    (up.chip.held = false ∧
      (0xE55E : W32) = 58718 ∧
      up.chip.started = true ∧
      up.chip.state = PState.run) ∧
    -- clause 6
    (up.chip.held = false ∧
      (0xE55F : W32) ≠ 58718) ∧
    -- clause 6
    (stCAES5.chip.held = false ∧
      (0xE55E : W32) = 58718 ∧
      (stCAES5.chip.started = false ∨ stCAES5.chip.state ≠ PState.run)) :=
  ⟨⟨by unfold Ready; decide +kernel, by decide +kernel⟩,
   ⟨by unfold Ready; decide +kernel, by decide +kernel⟩,
   ⟨by unfold Ready; decide +kernel, by decide +kernel⟩,
   ⟨by unfold Ready; decide +kernel, by decide +kernel⟩,
   by decide +kernel,
   ⟨by unfold Ready; decide +kernel, by decide +kernel⟩,
   by decide +kernel⟩

def stPAT0 : State := sta .mgmt adB opRead (slp up)
def stPAT1 : State := sS .mgmt (sE .mgmt (tmoAddr 5) opRead 8) up
def stPAT2 : State := sS .mgmt (sE .mgmt adB opRead 7) (slp up)
def stPAT3 : State := sS .mgmt (sE .mgmt adB opRead 7) (rst up)
def stPAT4 : State := wkS_15 (sS (.worker 77) (wacc opRead) up) 77 (fun x => { x with state := .waiting, wait := some .access, pc := 8, jobActive := true })
def stPAT5 : State := onC State.reset (fun c => { c with i2cPtr := 0x40, i2cHeld := true })
def stPAT6 : State := onC up (fun c => { c with i2cPtr := 0xF0, i2cHeld := true })
def stPAT7 : State := onC up (fun c => { c with i2cPtr := 0xF2, i2cHeld := false })
def stPAT8 : State := bothH up (fun h => { h with dup := { h.dup with fatal := true } })
def stPAT9 : State := slp up
/-- States and operands that meet the hypotheses of each clause of PortsAndTap. -/
theorem wit_PortsAndTap :
    -- clause 1
    (mgtPowered up = true ∧
      up.chip.mgt.state < 16 ∧
      up.chip.mgt.astat < 16 ∧
      tfind up.stalls 32 = none ∧
      pageOf up (0x50000000 : W32) = none ∧
      gate up 8 = Gate.serve ∧
      1 ≤ BitVec.toNat (7 : W32) ∧
      BitVec.toNat (7 : W32) ≤ 1024) ∧
    -- clause 1
    (mgtPowered stPAT0 = true ∧
      stPAT0.chip.mgt.state < 16 ∧
      stPAT0.chip.mgt.astat < 16 ∧
      tfind stPAT0.stalls 32 ≠ none) ∧
    -- clause 2
    (mgtPowered up = true ∧
      95 ≠ 0 ∧
      (95 ≠ 96 ∨ 4 ≤ fieldN (0 : BitVec 96).toNat 95 92 ∨ fieldN (0 : BitVec 96).toNat 91 64 ≠ 0) ∧
      95 < 96) ∧
    -- clause 2
    (mgtPowered up = true ∧
      0 = 0) ∧
    -- clause 2
    (mgtPowered up = true ∧
      97 ≠ 0 ∧
      (97 ≠ 96 ∨ 4 ≤ fieldN (0 : BitVec 96).toNat 95 92 ∨ fieldN (0 : BitVec 96).toNat 91 64 ≠ 0) ∧
      96 < 97) ∧
    -- clause 2
    (mgtPowered up = true ∧
      96 ≠ 0 ∧
      (96 ≠ 96 ∨ 4 ≤ fieldN (0x400000000000000000000000 : BitVec 96).toNat 95 92 ∨ fieldN (0x400000000000000000000000 : BitVec 96).toNat 91 64 ≠ 0) ∧
      96 = 96) ∧
    -- clause 3
    ((∀ (n : Fin 192), (.mgmt : Path) = Path.worker n → (stPAT1.worker n.val).wait ≠ some WaitFor.access) ∧
      (∀ (n : Fin 20), (.mgmt : Path) = Path.lane n → running stPAT1 n.val = none) ∧
      ((.mgmt : Path) = Path.mgmt → tfind stPAT1.stalls 36 = none) ∧
      tfind stPAT1.stalls (pathNo (.mgmt : Path)) = some (sE .mgmt (tmoAddr 5) opRead 8 : Stalled) ∧
      gate stPAT1 (sE .mgmt (tmoAddr 5) opRead 8 : Stalled).domain = Gate.serve ∧
      (sE .mgmt (tmoAddr 5) opRead 8 : Stalled).addr = tmoAddr (5 : Fin 20) ∧
      ((sE .mgmt (tmoAddr 5) opRead 8 : Stalled).op = opDebug ∨ (sE .mgmt (tmoAddr 5) opRead 8 : Stalled).op = opRead ∧ (.mgmt : Path) ≠ Path.jtag) ∧
      (.mgmt : Path) = Path.mgmt) ∧
    -- clause 3
    ((∀ (n : Fin 192), (.mgmt : Path) = Path.worker n → (stPAT2.worker n.val).wait ≠ some WaitFor.access) ∧
      (∀ (n : Fin 20), (.mgmt : Path) = Path.lane n → running stPAT2 n.val = none) ∧
      ((.mgmt : Path) = Path.mgmt → tfind stPAT2.stalls 36 = none) ∧
      tfind stPAT2.stalls (pathNo (.mgmt : Path)) = some (sE .mgmt adB opRead 7 : Stalled) ∧
      gate stPAT2 (sE .mgmt adB opRead 7 : Stalled).domain = Gate.stall) ∧
    -- clause 3
    ((∀ (n : Fin 192), (.mgmt : Path) = Path.worker n → (stPAT3.worker n.val).wait ≠ some WaitFor.access) ∧
      (∀ (n : Fin 20), (.mgmt : Path) = Path.lane n → running stPAT3 n.val = none) ∧
      ((.mgmt : Path) = Path.mgmt → tfind stPAT3.stalls 36 = none) ∧
      tfind stPAT3.stalls (pathNo (.mgmt : Path)) = some (sE .mgmt adB opRead 7 : Stalled) ∧
      gate stPAT3 (sE .mgmt adB opRead 7 : Stalled).domain = Gate.unreachable ∧
      (.mgmt : Path) = Path.mgmt) ∧
    -- clause 4
    (tfind stPAT4.stalls (64 + 77) = some (wacc opRead : Stalled) ∧
      (stPAT4.worker 77).wait = some WaitFor.access ∧
      (stPAT4.worker 77).stepping = false ∧
      (stPAT4.worker 77).haltReq = false ∧
      gate stPAT4 (wacc opRead : Stalled).domain = Gate.serve ∧
      (wacc opRead : Stalled).addr = tmoAddr (5 : Fin 20) ∧
      ((wacc opRead : Stalled).op = opRead ∨ (wacc opRead : Stalled).op = opDebug)) ∧
    -- clause 5
    (up.chip.held = false ∧
      up.chip.i2cPtr = 0 ∧
      up.chip.started = true ∧
      up.chip.state = PState.run ∧
      up.chip.railsLow = [] ∧
      up.chip.i2cHeld = false) ∧
    -- clause 5
    (stPAT5.chip.held = false ∧
      stPAT5.chip.i2cPtr = 64 ∧
      stPAT5.chip.started = false ∧
      stPAT5.chip.i2cHeld = true) ∧
    -- clause 5
    (stPAT6.chip.held = false ∧
      stPAT6.chip.i2cPtr = 240) ∧
    -- clause 5
    (stPAT7.chip.held = false ∧
      stPAT7.chip.i2cPtr = 242) ∧
    -- clause 6
    (faultDriven up = false ∧
      up.chip.faultExt = false ∧
      (up.chip.faultReleased = 0 ∨ up.chip.faultReleased + 1024 ≤ up.tick)) ∧
    -- clause 6
    (faultDriven stPAT8 = true) ∧
    -- clause 7
    (stPAT9.chip.extest = false ∧
      pathFree stPAT9 Path.jtag = true ∧
      gate stPAT9 8 = Gate.serve ∧
      1 ≤ BitVec.toNat (1 : W32) ∧
      BitVec.toNat (1 : W32) ≤ 1024) :=
  (four (by decide +kernel) (four (by decide +kernel) (four (by decide +kernel) (four (by decide +kernel) (by decide +kernel)))))

def stPS0 : State := dm up 0 (fun d => { d with state := .idle, entry := some (.sleep, 2) })
def stPS1 : State := dm up 0 (fun d => { d with state := .run })
def stPS2 : State := dm up 0 (fun d => { d with state := .sleep, hostRun := true, lowPower := true })
def stPS3 : State := (dm up 0 (fun d => { d with state := .idle, entry := some (.sleep, 1), hostRun := true })).setReg pwrPage Reg.PWR_EVENTS 2
def stPS4 : State := dm up 0 (fun d => { d with state := .idle, entry := some (.sleep, 3) })
def stPS5 : State := { dm up 0 (fun d => { d with access := true }) with tick := 1024 * 1048576 }
def stPS6 : State := dm up 0 (fun d => { d with access := true })
def stPS7 : State := deepS2.setReg pwrPage Reg.PWR_WAKE_CFG 0xFFFF7
/-- States and operands that meet the hypotheses of each clause of PowerStates. -/
theorem wit_PowerStates :
    -- clause 1
    (Ready (.mgmt : Path) 8 up) ∧
    -- clause 2
    (Settling 0 stPS0 ∧
      (stPS0.domain 0).state = PState.idle ∧
      (stPS0.domain 0).entry = some (PState.sleep, 2) ∧
      wanted stPS0 0 = PState.sleep ∧
      0 < 6 ∧
      (stPS0.domain 0).entry ≠ none ∧
      (wanted stPS0 0).rank ≤ PState.sleep.rank) ∧
    -- clause 2
    (Settling 0 stPS1 ∧
      (stPS1.domain 0).entry = none ∧
      (wanted stPS1 0).rank ≤ (stPS1.domain 0).state.rank ∧
      (stPS1.domain 0).state = PState.run ∧
      wanted stPS1 0 ≠ PState.run) ∧
    -- clause 2
    (Settling 0 stPS2 ∧
      (stPS2.domain 0).entry = none ∧
      (stPS2.domain 0).state.rank < (wanted stPS2 0).rank ∧
      0 < 6 ∧
      (wanted stPS2 0).awake = true ∧
      (stPS2.domain 0).parked = false) ∧
    -- clause 2
    (Settling 0 stPS3 ∧
      (stPS3.domain 0).entry ≠ none ∧
      PState.sleep.rank < (wanted stPS3 0).rank ∧
      Marked stPS3 pwrPage Reg.PWR_EVENTS 1) ∧
    -- clause 2
    (Settling 0 stPS4 ∧
      (stPS4.domain 0).state = PState.idle ∧
      (stPS4.domain 0).entry = some (PState.sleep, 3) ∧
      wanted stPS4 0 = PState.sleep) ∧
    -- clause 3
    ((stPS5.domain 0).access = true ∧
      (∀ e ∈ stPS5.stalls, e.2.domain ≠ 0) ∧
      stPS5.tick ≥ (stPS5.domain 0).lastAccess + 1024 * fld (stPS5.reg pwrPage Reg.PWR_LINGER) 19 0) ∧
    -- clause 3
    ((¬stPS6.tick ≥ (stPS6.domain 0).lastAccess + 1024 * fld (stPS6.reg pwrPage Reg.PWR_LINGER) 19 0 ∨ ∃ e ∈ stPS6.stalls, e.2.domain = 0)) ∧
    -- clause 4
    (Ready (.mgmt : Path) 8 slAll ∧
      (.mgmt : Path) ≠ Path.startup ∧
      ((.enterOff .mgmt : Instr) = Instr.enterDeep (.mgmt : Path) ∧ (.off : PState) = PState.deep ∨ (.enterOff .mgmt : Instr) = Instr.enterOff (.mgmt : Path) ∧ (.off : PState) = PState.off) ∧
      slAll.chip.entering = none ∧
      (∀ d < 8, (slAll.domain d).state = PState.sleep ∧ (slAll.domain d).entry = none ∧ (slAll.domain d).inReset = false)) ∧
    -- clause 4
    (Ready (.lane 3 : Path) 8 up ∧
      (.lane 3 : Path) ≠ Path.startup ∧
      ((.enterDeep (.lane 3) : Instr) = Instr.enterDeep (.lane 3 : Path) ∧ (.deep : PState) = PState.deep ∨ (.enterDeep (.lane 3) : Instr) = Instr.enterOff (.lane 3 : Path) ∧ (.deep : PState) = PState.off) ∧
      (up.chip.entering ≠ none ∨ ¬∀ d < 8, (up.domain d).state = PState.sleep ∧ (up.domain d).entry = none ∧ (up.domain d).inReset = false)) ∧
    -- clause 5
    ((match (.lane 3 : WakeSrc) with | WakeSrc.wakePin => True | WakeSrc.lane n => bit (deepS.reg pwrPage Reg.PWR_WAKE_CFG) n.val = true | WakeSrc.mgt => bit (deepS.reg pwrPage Reg.PWR_WAKE_CFG) 20 = true) ∧
      deepS.chip.state = PState.deep ∧
      deepS.chip.entering = none ∧
      deepS.chip.keepMs + 10 < 2 ^ 48 * 1000) ∧
    -- clause 5
    ((¬match (.lane 3 : WakeSrc) with | WakeSrc.wakePin => True | WakeSrc.lane n => bit (stPS7.reg pwrPage Reg.PWR_WAKE_CFG) n.val = true | WakeSrc.mgt => bit (stPS7.reg pwrPage Reg.PWR_WAKE_CFG) 20 = true)) :=
  ⟨by unfold Ready; decide +kernel,
   ⟨by unfold Settling; decide +kernel, by decide +kernel⟩,
   ⟨by unfold Settling; decide +kernel, by decide +kernel⟩,
   ⟨by unfold Settling; decide +kernel, by decide +kernel⟩,
   ⟨by unfold Settling; decide +kernel, by decide +kernel, by decide +kernel, by unfold Marked; decide +kernel⟩,
   ⟨by unfold Settling; decide +kernel, by decide +kernel⟩,
   by decide +kernel,
   by decide +kernel,
   ⟨by unfold Ready; decide +kernel, by decide +kernel⟩,
   ⟨by unfold Ready; decide +kernel, by decide +kernel⟩,
   by decide +kernel⟩

def stBAR0 : State := onC (bg 1 1 up) (fun c => { c with throttle := 3, throttleEp := true, removed := [5, 3] })
def stBAR1 : State := onC (bg 86 5 up) (fun c => { c with throttle := 1, overBudget := true })
def stBAR2 : State := bg 1 1 u20
def stBAR3 : State := onC (bg 300 1 up) (fun c => { c with throttle := 2, throttleEp := true })
def stBAR4 : State := onC (bg 1 1 u20) (fun c => { c with throttle := 1 })
def stBAR5 : State := onC (bg 300 1 up) (fun c => { c with throttle := 3, throttleEp := true, removed := [5, 3] })
def stBAR6 : State := onC u20 (fun c => { c with vlaneLow := true, vbiasLow := true })
/-- States and operands that meet the hypotheses of each clause of BudgetAndRails. -/
theorem wit_BudgetAndRails :
    -- clause 1
    (stBAR0.chip.started = true ∧
      stBAR0.chip.state = PState.run ∧
      10 * fld (stBAR0.reg pwrPage Reg.PWR_BUDGET) 8 0 < 4 * (List.map (fun (x : ℕ × ℕ) => x.1) ([(10, 3)] : List (ℕ × ℕ))).sum + 6 * (List.map (fun (x : ℕ × ℕ) => x.2) ([(10, 3)] : List (ℕ × ℕ))).sum + 35 * awakeTx stBAR0 + 10 * fld (stBAR0.reg pwrPage Reg.PWR_FIXED) 7 0 ∧
      2 ≤ stBAR0.chip.throttle ∧
      nextRemoved stBAR0 = none ∧
      stBAR0.chip.overBudget = false) ∧
    -- clause 1
    (stBAR1.chip.started = true ∧
      stBAR1.chip.state = PState.run ∧
      (4 * (List.map (fun (x : ℕ × ℕ) => x.1) ([] : List (ℕ × ℕ))).sum + 6 * (List.map (fun (x : ℕ × ℕ) => x.2) ([] : List (ℕ × ℕ))).sum + 35 * awakeTx stBAR1 + 10 * fld (stBAR1.reg pwrPage Reg.PWR_FIXED) 7 0) % 10 = 0 ∧
      4 * (List.map (fun (x : ℕ × ℕ) => x.1) ([] : List (ℕ × ℕ))).sum + 6 * (List.map (fun (x : ℕ × ℕ) => x.2) ([] : List (ℕ × ℕ))).sum + 35 * awakeTx stBAR1 + 10 * fld (stBAR1.reg pwrPage Reg.PWR_FIXED) 7 0 ≤ 10 * fld (stBAR1.reg pwrPage Reg.PWR_BUDGET) 8 0 ∧
      10 * fld (stBAR1.reg pwrPage Reg.PWR_BUDGET) 8 0 ≤ 4 * (List.map (fun (x : ℕ × ℕ) => x.1) ([] : List (ℕ × ℕ))).sum + 6 * (List.map (fun (x : ℕ × ℕ) => x.2) ([] : List (ℕ × ℕ))).sum + 35 * awakeTx stBAR1 + 10 * fld (stBAR1.reg pwrPage Reg.PWR_FIXED) 7 0 + 10 * fld (stBAR1.reg pwrPage Reg.PWR_HYST) 5 0) ∧
    -- clause 1
    (stBAR2.chip.started = true ∧
      stBAR2.chip.state = PState.run ∧
      10 * fld (stBAR2.reg pwrPage Reg.PWR_BUDGET) 8 0 < 4 * (List.map (fun (x : ℕ × ℕ) => x.1) ([(10, 3)] : List (ℕ × ℕ))).sum + 6 * (List.map (fun (x : ℕ × ℕ) => x.2) ([(10, 3)] : List (ℕ × ℕ))).sum + 35 * awakeTx stBAR2 + 10 * fld (stBAR2.reg pwrPage Reg.PWR_FIXED) 7 0 ∧
      stBAR2.chip.throttle = 0 ∧
      stBAR2.chip.throttleEp = false) ∧
    -- clause 1
    (stBAR3.chip.started = true ∧
      stBAR3.chip.state = PState.run ∧
      4 * (List.map (fun (x : ℕ × ℕ) => x.1) ([] : List (ℕ × ℕ))).sum + 6 * (List.map (fun (x : ℕ × ℕ) => x.2) ([] : List (ℕ × ℕ))).sum + 35 * awakeTx stBAR3 + 10 * fld (stBAR3.reg pwrPage Reg.PWR_FIXED) 7 0 + 10 * fld (stBAR3.reg pwrPage Reg.PWR_HYST) 5 0 < 10 * fld (stBAR3.reg pwrPage Reg.PWR_BUDGET) 8 0 ∧
      stBAR3.chip.throttle = 2) ∧
    -- clause 1
    (stBAR4.chip.started = true ∧
      stBAR4.chip.state = PState.run ∧
      10 * fld (stBAR4.reg pwrPage Reg.PWR_BUDGET) 8 0 < 4 * (List.map (fun (x : ℕ × ℕ) => x.1) ([(10, 3)] : List (ℕ × ℕ))).sum + 6 * (List.map (fun (x : ℕ × ℕ) => x.2) ([(10, 3)] : List (ℕ × ℕ))).sum + 35 * awakeTx stBAR4 + 10 * fld (stBAR4.reg pwrPage Reg.PWR_FIXED) 7 0 ∧
      stBAR4.chip.throttle = 1 ∧
      stBAR4.chip.throttleEp = false) ∧
    -- clause 1
    (stBAR5.chip.started = true ∧
      stBAR5.chip.state = PState.run ∧
      4 * (List.map (fun (x : ℕ × ℕ) => x.1) ([] : List (ℕ × ℕ))).sum + 6 * (List.map (fun (x : ℕ × ℕ) => x.2) ([] : List (ℕ × ℕ))).sum + 35 * awakeTx stBAR5 + 10 * fld (stBAR5.reg pwrPage Reg.PWR_FIXED) 7 0 + 10 * fld (stBAR5.reg pwrPage Reg.PWR_HYST) 5 0 < 10 * fld (stBAR5.reg pwrPage Reg.PWR_BUDGET) 8 0 ∧
      stBAR5.chip.throttle = 3) ∧
    -- clause 2
    (u20.chip.vlaneLow = false ∧
      u20.chip.vbiasLow = false) ∧
    -- clause 2
    (stBAR6.chip.vlaneLow = true) :=
  by decide +kernel

def stCRAS0 : State := onC rich (fun c => { c with state := .off })
def stCRAS1 : State := rich.setReg rstPage Reg.RST_REMOTE_LANES 8
def stCRAS2 : State := rich.setReg rstPage Reg.RST_REMOTE_LANES 0
def stCRAS3 : State := { onC (rich.modHive .a (fun x => { x with nvs := none })) (fun c => { c with softAt := some (5, 4, 19) }) with tick := 5 }
def stCRAS4 : State := onC rich (fun c => { c with softAt := some (5, 3, 0) })
def stCRAS5 : State := State.reset
def stCRAS6 : State := onC State.reset (fun c => { c with cause := 4, railsLow := [.vcore] })
/-- States and operands that meet the hypotheses of each clause of ChipResetsAndStartup. -/
theorem wit_ChipResetsAndStartup :
    -- clause 1
    (up.chip.held = false ∧
      up.chip.state ≠ PState.off) ∧
    -- clause 1
    (stCRAS0.chip.state = PState.off) ∧
    -- clause 2
    (Ready (.mgmt : Path) 8 rich ∧
      fld (0x9C3A : W32) 15 0 = 39994) ∧
    -- clause 2
    (Ready (.lane 3 : Path) 8 rich ∧
      fld (0x9C3B : W32) 15 0 ≠ 39994) ∧
    -- clause 3
    (Ready (Path.lane (3 : Fin 20)) 8 stCRAS1 ∧
      (0x3C96 : W32) = 15510 ∧
      bit (stCRAS1.reg rstPage Reg.RST_REMOTE_LANES) 3 = true) ∧
    -- clause 3
    (Ready (Path.lane (3 : Fin 20)) 8 stCRAS2 ∧
      ((0x3C96 : W32) ≠ 15510 ∨ bit (stCRAS2.reg rstPage Reg.RST_REMOTE_LANES) 3 = false)) ∧
    -- clause 4
    (stCRAS3.chip.softAt = some (5, 4, 19) ∧
      5 ≤ stCRAS3.tick ∧
      (4 = 3 ∨ 4 = 4) ∧
      (List.map (fun (x : ℕ × ItpCal) => x.1) stCRAS3.cals).Nodup ∧
      stCRAS3.hiveA.nvs = none ∧ stCRAS3.hiveB.nvs = none) ∧
    -- clause 4
    (stCRAS4.chip.softAt = some (5, 3, 0) ∧
      stCRAS4.tick < 5) ∧
    -- clause 5
    (stCRAS5.chip.started = false ∧
      stCRAS5.tb.refclkBad = false ∧
      stCRAS5.chip.held = false ∧
      stCRAS5.chip.vlaneLow = false ∧
      stCRAS5.chip.state ≠ PState.off ∧
      stCRAS5.hiveA.mram = [] ∧
      stCRAS5.hiveB.mram = [] ∧
      stCRAS5.chip.cause ≠ 3 ∧
      stCRAS5.chip.cause ≠ 4) ∧
    -- clause 5
    ((up.chip.started = true ∨ up.tb.refclkBad = true ∨ up.chip.held = true ∨ up.chip.vlaneLow = true ∨ up.chip.state = PState.off)) ∧
    -- clause 5
    (stCRAS6.chip.started = false ∧
      stCRAS6.tb.refclkBad = false ∧
      stCRAS6.chip.held = false ∧
      stCRAS6.chip.vlaneLow = false ∧
      stCRAS6.chip.state ≠ PState.off ∧
      stCRAS6.hiveA.mram = [] ∧
      stCRAS6.hiveB.mram = [] ∧
      (stCRAS6.chip.cause = 3 ∨ stCRAS6.chip.cause = 4)) :=
  ⟨by decide +kernel,
   by decide +kernel,
   ⟨by unfold Ready; decide +kernel, by decide +kernel⟩,
   ⟨by unfold Ready; decide +kernel, by decide +kernel⟩,
   ⟨by unfold Ready; decide +kernel, by decide +kernel⟩,
   ⟨by unfold Ready; decide +kernel, by decide +kernel⟩,
   by decide +kernel⟩

def stRR0 : State := dm rich 7 (fun d => { d with inReset := true })
def stRR1 : State := dm rich 5 (fun d => { d with rejoin := true })
def stRR2 : State := dm rich 6 (fun d => { d with lowPower := true, state := .sleep })
/-- States and operands that meet the hypotheses of each clause of RegionResets. -/
theorem wit_RegionResets :
    -- clause 1
    (Ready (.mgmt : Path) 8 rich ∧
      fld (5 : W32) 3 0 < 6 ∧
      (rich.domain (fld (5 : W32) 3 0)).inReset = false) ∧
    -- clause 1
    (Ready (.mgmt : Path) 8 rich ∧
      fld (9 : W32) 3 0 = hiveRegion (otherHive (higherClaim rich)) ∧
      (rich.domain (hiveDom (otherHive (higherClaim rich)))).inReset = false) ∧
    -- clause 1
    (Ready (.mgmt : Path) 8 rich ∧
      6 ≤ fld (8 : W32) 3 0 ∧
      fld (8 : W32) 3 0 ≠ hiveRegion (otherHive (higherClaim rich))) ∧
    -- clause 2
    ((rich.domain 5).inReset = false) ∧
    -- clause 2
    ((stRR0.domain 7).inReset = true) ∧
    -- clause 3
    ((rich.domain 5).rejoin = false) ∧
    -- clause 3
    ((stRR1.domain 5).rejoin = true) ∧
    -- clause 4
    (rich.chip.started = true ∧
      (rich.domain 5).inReset = false ∧
      (rich.domain 5).lowPower = false) ∧
    -- clause 4
    (stRR2.chip.started = true ∧
      (stRR2.domain 6).inReset = false ∧
      (stRR2.domain 6).lowPower = true) :=
  ⟨⟨by unfold Ready; decide +kernel, by decide +kernel⟩,
   ⟨by unfold Ready; decide +kernel, by decide +kernel⟩,
   ⟨by unfold Ready; decide +kernel, by decide +kernel⟩,
   by decide +kernel⟩

def stHI0 : State := cfgx 0x30000 (hb 3 (fun x => { x with n := 3 }) 3)
def stHI1 : State := hb 3 id 3
def stHI2 : State := hk2 (hb 3 (fun x => { x with n := 3 }) 3) (fun h => { h with running := false })
def stHI3 : State := hkR up Reg.HK_CTL 0
def stHI4 : State := hs 3 1
def stHI5 : State := hs 3 3
/-- States and operands that meet the hypotheses of each clause of HousekeepingInputs. -/
theorem wit_HousekeepingInputs :
    -- clause 1
    (hkRuns stHI0 2 = true ∧
      (stHI0.hk 2).running = true ∧
      (stHI0.hk 2).lastConv ≠ some (stHI0.now.fdiv 1024000) ∧
      ((stHI0.now.fdiv 1024000 % 16).toNat < 8 ∧ ((0x800 : ℕ) < 8 * fld (hkReg stHI0 2 Reg.HK_CM_WIN) 7 0 ∨ 8 * fld (hkReg stHI0 2 Reg.HK_CM_WIN) 15 8 < (0x800 : ℕ))) ∧
      (stHI0.hkIn 2 (stHI0.now.fdiv 1024000 % 16).toNat).brk = false ∧
      (stHI0.now.fdiv 1024000 % 16).toNat < 14 ∧
      bit (hkReg stHI0 2 Reg.HK_CFG (stHI0.now.fdiv 1024000 % 16).toNat) 8 = false ∧
      bit (hkReg stHI0 2 Reg.HK_CFG (stHI0.now.fdiv 1024000 % 16).toNat) 10 = false ∧
      (stHI0.hkIn 2 (stHI0.now.fdiv 1024000 % 16).toNat).switchAt = none ∧
      ((stHI0.hkIn 2 (stHI0.now.fdiv 1024000 % 16).toNat).n + 1) % hkD (fld (hkReg stHI0 2 Reg.HK_CFG (stHI0.now.fdiv 1024000 % 16).toNat) 7 6) = 0 ∧
      bit (hkReg stHI0 2 Reg.HK_CFG (stHI0.now.fdiv 1024000 % 16).toNat) 16 = true ∧
      (stHI0.hkIn 2 (stHI0.now.fdiv 1024000 % 16).toNat).hi = false ∧
      (BitVec.toInt (hkReg stHI0 2 Reg.HK_THR_HI (stHI0.now.fdiv 1024000 % 16).toNat) < satQ ((((2 ^ 16 * (List.map (fun (j : ℕ) => (min (j + 1) (2 * hkD (fld (hkReg stHI0 2 Reg.HK_CFG (stHI0.now.fdiv 1024000 % 16).toNat) 7 6) - 1 - j)).cast * (lget (0, false, false) ((if (stHI0.now.fdiv 1024000 % 16).toNat = 15 ∨ bit (hkReg stHI0 2 Reg.HK_TDAC) 20 = true ∧ (stHI0.now.fdiv 1024000 % 16).toNat < 8 ∧ fld (hkReg stHI0 2 Reg.HK_TDAC) 18 16 = (stHI0.now.fdiv 1024000 % 16).toNat then ((fld (hkReg stHI0 2 Reg.HK_TDAC) 9 0).cast - 512) * 4 else if (stHI0.now.fdiv 1024000 % 16).toNat < 8 then max (-2048) (min 2047 (2000 : ℤ)) else max 0 (min 4095 (2000 : ℤ)), decide ((stHI0.now.fdiv 1024000 % 16).toNat < 8 ∧ ((0x800 : ℕ) < 8 * fld (hkReg stHI0 2 Reg.HK_CM_WIN) 7 0 ∨ 8 * fld (hkReg stHI0 2 Reg.HK_CM_WIN) 15 8 < (0x800 : ℕ))), decide (bit (hkReg stHI0 2 Reg.HK_TDAC) 20 = true ∧ (stHI0.now.fdiv 1024000 % 16).toNat < 8 ∧ fld (hkReg stHI0 2 Reg.HK_TDAC) 18 16 = (stHI0.now.fdiv 1024000 % 16).toNat)) :: (stHI0.hkIn 2 (stHI0.now.fdiv 1024000 % 16).toNat).hist) j).1) (List.range (2 * hkD (fld (hkReg stHI0 2 Reg.HK_CFG (stHI0.now.fdiv 1024000 % 16).toNat) 7 6) - 1))).sum).fdiv (2 ^ hkW (fld (hkReg stHI0 2 Reg.HK_CFG (stHI0.now.fdiv 1024000 % 16).toNat) 7 6)) - BitVec.toInt (hkReg stHI0 2 Reg.HK_OFFSET (stHI0.now.fdiv 1024000 % 16).toNat)) * BitVec.toInt (hkReg stHI0 2 Reg.HK_GAIN (stHI0.now.fdiv 1024000 % 16).toNat)).fdiv (2 ^ 24)))) ∧
    -- clause 1
    (hkRuns stHI0 2 = true ∧
      (stHI0.hk 2).running = true ∧
      (stHI0.hk 2).lastConv ≠ some (stHI0.now.fdiv 1024000) ∧
      (stHI0.now.fdiv 1024000 % 16).toNat < 14 ∧
      bit (hkReg stHI0 2 Reg.HK_CFG (stHI0.now.fdiv 1024000 % 16).toNat) 8 = false ∧
      bit (hkReg stHI0 2 Reg.HK_CFG (stHI0.now.fdiv 1024000 % 16).toNat) 10 = false ∧
      (stHI0.hkIn 2 (stHI0.now.fdiv 1024000 % 16).toNat).switchAt = none ∧
      ((stHI0.hkIn 2 (stHI0.now.fdiv 1024000 % 16).toNat).n + 1) % hkD (fld (hkReg stHI0 2 Reg.HK_CFG (stHI0.now.fdiv 1024000 % 16).toNat) 7 6) = 0 ∧
      bit (hkReg stHI0 2 Reg.HK_CFG (stHI0.now.fdiv 1024000 % 16).toNat) 17 = true ∧
      (stHI0.hkIn 2 (stHI0.now.fdiv 1024000 % 16).toNat).lo = false ∧
      (satQ ((((2 ^ 16 * (List.map (fun (j : ℕ) => (min (j + 1) (2 * hkD (fld (hkReg stHI0 2 Reg.HK_CFG (stHI0.now.fdiv 1024000 % 16).toNat) 7 6) - 1 - j)).cast * (lget (0, false, false) ((if (stHI0.now.fdiv 1024000 % 16).toNat = 15 ∨ bit (hkReg stHI0 2 Reg.HK_TDAC) 20 = true ∧ (stHI0.now.fdiv 1024000 % 16).toNat < 8 ∧ fld (hkReg stHI0 2 Reg.HK_TDAC) 18 16 = (stHI0.now.fdiv 1024000 % 16).toNat then ((fld (hkReg stHI0 2 Reg.HK_TDAC) 9 0).cast - 512) * 4 else if (stHI0.now.fdiv 1024000 % 16).toNat < 8 then max (-2048) (min 2047 (-2000 : ℤ)) else max 0 (min 4095 (-2000 : ℤ)), decide ((stHI0.now.fdiv 1024000 % 16).toNat < 8 ∧ ((0x800 : ℕ) < 8 * fld (hkReg stHI0 2 Reg.HK_CM_WIN) 7 0 ∨ 8 * fld (hkReg stHI0 2 Reg.HK_CM_WIN) 15 8 < (0x800 : ℕ))), decide (bit (hkReg stHI0 2 Reg.HK_TDAC) 20 = true ∧ (stHI0.now.fdiv 1024000 % 16).toNat < 8 ∧ fld (hkReg stHI0 2 Reg.HK_TDAC) 18 16 = (stHI0.now.fdiv 1024000 % 16).toNat)) :: (stHI0.hkIn 2 (stHI0.now.fdiv 1024000 % 16).toNat).hist) j).1) (List.range (2 * hkD (fld (hkReg stHI0 2 Reg.HK_CFG (stHI0.now.fdiv 1024000 % 16).toNat) 7 6) - 1))).sum).fdiv (2 ^ hkW (fld (hkReg stHI0 2 Reg.HK_CFG (stHI0.now.fdiv 1024000 % 16).toNat) 7 6)) - BitVec.toInt (hkReg stHI0 2 Reg.HK_OFFSET (stHI0.now.fdiv 1024000 % 16).toNat)) * BitVec.toInt (hkReg stHI0 2 Reg.HK_GAIN (stHI0.now.fdiv 1024000 % 16).toNat)).fdiv (2 ^ 24)) < BitVec.toInt (hkReg stHI0 2 Reg.HK_THR_LO (stHI0.now.fdiv 1024000 % 16).toNat))) ∧
    -- clause 1
    (hkRuns stHI1 2 = true ∧
      (stHI1.hk 2).running = true ∧
      (stHI1.hk 2).lastConv ≠ some (stHI1.now.fdiv 1024000) ∧
      (stHI1.now.fdiv 1024000 % 16).toNat < 14 ∧
      bit (hkReg stHI1 2 Reg.HK_CFG (stHI1.now.fdiv 1024000 % 16).toNat) 8 = false ∧
      (stHI1.hkIn 2 (stHI1.now.fdiv 1024000 % 16).toNat).switchAt = none ∧
      ((stHI1.hkIn 2 (stHI1.now.fdiv 1024000 % 16).toNat).n + 1) % hkD (fld (hkReg stHI1 2 Reg.HK_CFG (stHI1.now.fdiv 1024000 % 16).toNat) 7 6) ≠ 0) ∧
    -- clause 2
    (hkRuns stHI2 2 = true ∧
      (stHI2.hk 2).running = false) ∧
    -- clause 2
    (hkRuns stHI3 2 = false) ∧
    -- clause 3
    (ReadyRead (.mgmt : Path) 2 stHI4 ∧
      bit (hkReg stHI4 2 Reg.HK_CTL) 1 = false) ∧
    -- clause 3
    (ReadyRead (.mgmt : Path) 2 stHI5 ∧
      bit (hkReg stHI5 2 Reg.HK_CTL) 1 = true) :=
  (four (by decide +kernel) ⟨by decide +kernel, ⟨by unfold ReadyRead Ready; decide +kernel, by decide +kernel⟩,
   ⟨by unfold ReadyRead Ready; decide +kernel, by decide +kernel⟩⟩)

/-- States and operands that meet the hypotheses of each clause of StepRunsFront. -/
theorem wit_StepRunsFront :
    -- clause 3
    (up.pending = []) :=
  by decide +kernel

/-- A state that meets what every step keeps, with a command to run. -/
theorem wit_EveryStepKeepsMemories :
    Kept { up with pending := [.packetReceive 3 [⟨1, 5⟩]] } ∧
    ∃ t, step { up with pending := [.packetReceive 3 [⟨1, 5⟩]] } = .next t := by
  refine ⟨⟨by decide +kernel, hives ?_ ?_, fun w => ?_⟩, ⟨_, rfl⟩⟩
  · exact ⟨rfl, rfl⟩
  · exact ⟨rfl, rfl⟩
  · exact ⟨rfl, rfl⟩

end Sys2Proof.Tests
end

/-! ### Steps of time (02_timebase.md R40, R69): the record of the last PPS_IN edge -/

namespace Sys2Proof.Machine

/-- The reset state with one PPS_IN edge on record in HIVE_A and none in HIVE_B. -/
def edgeInOneHive : State :=
  { State.reset with hiveA := { State.reset.hiveA with tb := { lastPps := some 0 } } }

/-- By the record of the active HIVE_A an edge now comes more than 1 µs before it is due. -/
theorem edgeInOneHive_early :
    ∃ p, edgeInOneHive.tb.lastPps = some p ∧ monoOf edgeInOneHive 0 + 1024000 < p + 1024000000000 :=
  ⟨0, rfl, by decide⟩

/-- An early edge changes no record, so the standby HIVE_B keeps its own, which is empty. -/
theorem ppsIn_edgeInOneHive_lastPps : (ppsIn 0 edgeInOneHive).hiveB.tb.lastPps = none := rfl

end Sys2Proof.Machine

section
open Sys2Proof Sys2Proof.Machine

/-- Refutes O3: it asks that after an early PPS_IN edge both hives hold the active hive's record of the last edge, but the model leaves
each hive's own record as it was, and in `edgeInOneHive` the two differ. -/
theorem not_stepsAreArmedAndApplied : ¬ Obligations.StepsAreArmedAndApplied := by
  unfold Obligations.StepsAreArmedAndApplied
  rintro ⟨-, hEdge, -⟩
  obtain ⟨t, hrun, ⟨-, hB⟩, -⟩ := hEdge 0 edgeInOneHive
  have ht : { ppsIn 0 edgeInOneHive with pending := edgeInOneHive.pending } = t := Host.Outcome.next.inj hrun
  have hsome : t.hiveB.tb.lastPps = some 0 := hB.trans (if_pos edgeInOneHive_early)
  have hnone : t.hiveB.tb.lastPps = none := by rw [← ht]; exact ppsIn_edgeInOneHive_lastPps
  rw [hnone] at hsome
  cases hsome

end

namespace Sys2Proof.Machine

/-! ### The voted time core -/

/-- Differences from the vote that the copies keep do not outvote a new value. -/
theorem maj_xor_vote {w : Nat} (n x y z : BitVec w) :
    maj (n ^^^ (maj x y z ^^^ x)) (n ^^^ (maj x y z ^^^ y)) (n ^^^ (maj x y z ^^^ z)) = n := by
  ext i
  simp only [maj, BitVec.getElem_or, BitVec.getElem_and, BitVec.getElem_xor]
  generalize n[i] = n, x[i] = x, y[i] = y, z[i] = z
  revert n x y z
  decide

@[simp] theorem maj_self {w : Nat} (a : BitVec w) : maj a a a = a := by simp [maj]

/-- The vote reads the changed core, whatever copies differ. -/
@[simp] theorem TimeBase.core_modCore (t : TimeBase) (f : TimeCore → TimeCore) : (t.modCore f).core = f t.core := by
  simp only [TimeBase.modCore, TimeCore.diff, TimeBase.core, maj_xor_vote]

@[simp] theorem TimeBase.core_setCore (t : TimeBase) (c : TimeCore) : (t.setCore c).core = c := by
  simp only [TimeBase.core, TimeBase.setCore, maj_self]

@[simp] theorem TimeBase.modCore_qual (t : TimeBase) (f : TimeCore → TimeCore) : (t.modCore f).qual = t.qual := rfl
@[simp] theorem TimeBase.setCore_qual (t : TimeBase) (c : TimeCore) : (t.setCore c).qual = t.qual := rfl

/-- A core put at a count within range stands at that count (R41, R42, R48). -/
theorem TimeCore.fu_atFu (c : TimeCore) (x : Int) (h0 : 0 ≤ x) (h1 : x < 2 ^ 48 * 1024000000000) : (c.atFu x).fu = x := by
  have hs : x / 1024 / 1000000000 % 2 ^ 48 = x / 1024 / 1000000000 := by omega
  have hn : x / 1024 % 1000000000 % 2 ^ 30 = x / 1024 % 1000000000 := by omega
  have hf : x % 1024 % 2 ^ 10 = x % 1024 := by omega
  simp only [TimeCore.fu, TimeCore.atFu, BitVec.toNat_ofInt, Nat.cast_add, Nat.cast_mul]
  omega

theorem TimeCore.fu_nonneg (c : TimeCore) : 0 ≤ c.fu := Int.natCast_nonneg _

/-! ### The clock part of the state -/

/-- What of a hive the passage of time goes by: its voted core, the QUAL flags that stop frame building, and the claims. -/
structure HiveClock where
  core : TimeCore
  unsync : Bool
  coarse : Bool
  claim : BitVec 16
  former : BitVec 16
  pendingTake : Bool

def Hive.clock (x : Hive) : HiveClock :=
  { core := x.tb.core, unsync := x.tb.qual.unsync, coarse := x.tb.qual.coarse
    claim := x.dup.claim, former := x.dup.former, pendingTake := x.dup.pendingTake }

/-- The parts of the state that the work of a tick and of a frame boundary leave alone, but for the few steps that set them: the tick
count, time and claims of the hives, the power of the domains, which workers run and see FRAME, frame building and the spine delays. -/
structure Clock where
  tick : Nat
  hive : HiveId → HiveClock
  power : Nat → Bool × PState
  worker : Nat → WorkState × Bool
  framing : Bool
  spineNow : List Int
  spinePrev : List Int

def State.clock (s : State) : Clock :=
  { tick := s.tick, hive := fun h => (s.hive h).clock, power := fun d => ((s.domain d).inReset, (s.domain d).state)
    worker := fun w => ((s.worker w).state, (s.worker w).frameEv), framing := s.chip.framing
    spineNow := s.chip.spineNow, spinePrev := s.chip.spinePrev }

theorem tick_of_clock {s t : State} (h : t.clock = s.clock) : t.tick = s.tick := congrArg Clock.tick h

/-- Which hive is active is told by the clock alone. -/
def Clock.presented (c : Clock) (h : HiveId) : Nat :=
  if (c.power (hiveDom h)).1 || (c.power (hiveDom h)).2 = .off then 0
  else if (c.hive h).pendingTake then (c.hive h).former.toNat else (c.hive h).claim.toNat

def Clock.active (c : Clock) : HiveId := if c.presented .a ≥ c.presented .b then .a else .b

theorem higherClaim_eq (s : State) : higherClaim s = s.clock.active := rfl

/-! ### Updates and the clock -/

theorem clock_of_quiet {K : Nat → Prop} {s t : State} (q : Quiet K s t) : t.clock = s.clock := by
  have hhive : ∀ h, (t.hive h).clock = (s.hive h).clock := fun h => by
    obtain ⟨htb, -, -, -, -, -, -, -, -, -, -, -, hdup, -⟩ := q.hive h
    simp only [Hive.clock, htb, hdup]
  have hdom : ∀ d, t.domain d = s.domain d := fun d => by unfold State.domain; rw [q.domains]
  have hwk : ∀ w, ((t.worker w).state, (t.worker w).frameEv) = ((s.worker w).state, (s.worker w).frameEv) := fun w =>
    (congrArg (fun x : Worker => (x.state, x.frameEv)) (q.worker w) :)
  simp only [State.clock, q.tick, q.chip, hhive, hdom, hwk]

section
variable (s : State)

@[simp] theorem clock_ite (p : Prop) [Decidable p] (a b : State) : (if p then a else b).clock = if p then a.clock else b.clock :=
  apply_ite State.clock p a b

@[simp] theorem clock_setCell (c : Nat) (x : Cell) : (s.setCell c x).clock = s.clock := rfl
@[simp] theorem clock_setCal (i : Nat) (x : ItpCal) : (s.setCal i x).clock = s.clock := rfl
@[simp] theorem clock_setBlock (b : Nat) (x : Block) : (s.setBlock b x).clock = s.clock := rfl
@[simp] theorem clock_setComb (c : Nat) (x : Comb) : (s.setComb c x).clock = s.clock := rfl
@[simp] theorem clock_setLane (l : Nat) (x : Lane) : (s.setLane l x).clock = s.clock := rfl
@[simp] theorem clock_setReg (pg off : Nat) (v : W32) (i : Nat) : (s.setReg pg off v i).clock = s.clock := rfl
@[simp] theorem clock_setReg64 (pg off v i : Nat) : (s.setReg64 pg off v i).clock = s.clock := rfl
@[simp] theorem clock_count (pg off n i : Nat) : (s.count pg off n i).clock = s.clock := rfl

@[simp] theorem clock_modChip (f : Chip → Chip) (hf : (f s.chip).framing = s.chip.framing)
    (hn : (f s.chip).spineNow = s.chip.spineNow) (hp : (f s.chip).spinePrev = s.chip.spinePrev) : (s.modChip f).clock = s.clock := by
  have he : (s.modChip f).clock =
    { s.clock with framing := (f s.chip).framing, spineNow := (f s.chip).spineNow, spinePrev := (f s.chip).spinePrev } := rfl
  rw [he, hf, hn, hp]; rfl

/-- A hive put with the clock it had. -/
theorem clock_setHive (h : HiveId) (x : Hive) (hx : x.clock = (s.hive h).clock) : (s.setHive h x).clock = s.clock := by
  simp only [State.clock, State.setHive_tick, State.setHive_domain, State.setHive_worker, State.setHive_chip, State.setHive_hive]
  congr 1
  funext k
  split
  · rename_i e; rw [e, hx]
  · rfl

theorem clock_modHive (h : HiveId) (f : Hive → Hive) (hf : ∀ x, (f x).clock = x.clock) : (s.modHive h f).clock = s.clock :=
  clock_setHive s h _ (hf _)

@[simp] theorem clock_setHive_parts (h : HiveId) (x : Hive) (ht : x.tb = (s.hive h).tb) (hd : x.dup = (s.hive h).dup) :
    (s.setHive h x).clock = s.clock :=
  clock_setHive s h x (by unfold Hive.clock; rw [ht, hd])

@[simp] theorem clock_setDomain (d : Nat) (x : Domain) (hr : x.inReset = (s.domain d).inReset) (hs : x.state = (s.domain d).state) :
    (s.setDomain d x).clock = s.clock := by
  have hp : ∀ k, (((s.setDomain d x).domain k).inReset, ((s.setDomain d x).domain k).state) = ((s.domain k).inReset, (s.domain k).state) :=
    fun k => by rw [State.setDomain_domain]; split <;> simp_all
  simp only [State.clock, hp]; rfl

@[simp] theorem clock_both (f : Hive → Hive) : (s.both f).clock = { s.clock with hive := fun h => (f (s.hive h)).clock } := by
  have hh : (fun h => ((s.both f).hive h).clock) = fun h => (f (s.hive h)).clock := by funext h; cases h <;> rfl
  unfold State.clock; rw [hh]; rfl

theorem clock_forN (n : Nat) (f : Nat → State → State) (hf : ∀ i u, (f i u).clock = u.clock) : (forN n f s).clock = s.clock := by
  unfold forN
  induction List.range n generalizing s with
  | nil => rfl
  | cons i l ih => rw [List.foldl_cons, ih, hf]

theorem clock_forL {α : Type} (l : List α) (f : α → State → State) (hf : ∀ x u, (f x u).clock = u.clock) : (forL l f s).clock = s.clock := by
  unfold forL
  induction l generalizing s with
  | nil => rfl
  | cons x l ih => rw [List.foldl_cons, ih, hf]

theorem clock_raise (pg off bits : Nat) (hp : pg % 2 ^ 12 = 0) : (raise s pg off bits).clock = s.clock :=
  clock_of_quiet (raise_quiet s pg off bits hp)

@[simp] theorem clock_raise_page (r g i off bits : Nat) : (raise s (page r g i) off bits).clock = s.clock :=
  clock_raise s _ _ _ (page_mod r g i)

@[simp] theorem clock_guardEvent (g src : Nat) : (guardEvent s g src).clock = s.clock :=
  clock_of_quiet (K := fun _ => False) (guardEvent_quiet s g src)

end

end Sys2Proof.Machine

namespace Sys2Proof.Machine
section
variable (s : State)

@[simp] theorem clock_modBundle (c : Nat) (h : HiveId) (f : Bundle → Bundle) : (s.modBundle c h f).clock = s.clock := rfl
@[simp] theorem clock_modFr (h : HiveId) (f : Framer → Framer) : (s.modFr h f).clock = s.clock := by
  unfold State.modFr; simp
@[simp] theorem clock_modFrame (h : HiveId) (n : BitVec 40) (g : OpenFrame → OpenFrame) : (s.modFrame h n g).clock = s.clock := by
  unfold State.modFrame; simp
@[simp] theorem clock_modSort (h : HiveId) (c : Nat) (g : SortBuf → SortBuf) : (s.modSort h c g).clock = s.clock := by
  unfold State.modSort; simp
@[simp] theorem clock_modSlot (b : Nat) (f : BitVec 40) (g : Slot → Slot) : (s.modSlot b f g).clock = s.clock := rfl

@[simp] theorem clock_timEvent (n : Nat) : (timEvent n s).clock = s.clock := by unfold timEvent; simp

@[simp] theorem clock_startDrains : (startDrains s).clock = s.clock := by
  unfold startDrains; simp [clock_forN]

@[simp] theorem clock_fillClose (h : HiveId) (f : BitVec 40) (c : Nat) : (fillClose h f c s).clock = s.clock := by
  unfold fillClose; simp
@[simp] theorem clock_voidRegion (h : HiveId) (c : Nat) : (voidRegion h c s).clock = s.clock := by
  unfold voidRegion; simp [clock_forL]
@[simp] theorem clock_bundleWork (h : HiveId) (c : Nat) (f : State → State) (hf : (f s).clock = s.clock) :
    (bundleWork h c f s).clock = s.clock := by
  unfold bundleWork; simp [hf]
@[simp] theorem clock_retrainStart (c : Nat) (h : HiveId) : (retrainStart c h s).clock = s.clock := by
  unfold retrainStart; simp
@[simp] theorem clock_rejoinAtBoundary (c : Nat) : (rejoinAtBoundary c s).clock = s.clock := by
  unfold rejoinAtBoundary; simp
@[simp] theorem clock_siteRaise (b bits : Nat) : (siteRaise b bits s).clock = s.clock := by unfold siteRaise; simp
@[simp] theorem clock_siteCount (b off : Nat) : (siteCount b off s).clock = s.clock := by unfold siteCount; simp
@[simp] theorem clock_histRestart (i : Nat) : (histRestart i s).clock = s.clock := rfl
@[simp] theorem clock_trimRestart (b i : Nat) : (trimRestart b i s).clock = s.clock := rfl
@[simp] theorem clock_swapTable (b i : Nat) (t : BinTable) (bd : Int) : (swapTable b i t bd s).clock = s.clock := by
  unfold swapTable; simp
@[simp] theorem clock_swapBuilt (b : Nat) (n : NewTable) (bd : Int) : (swapBuilt b n bd s).clock = s.clock := by
  unfold swapBuilt
  cases n.alarm with
  | none => simp
  | some bin =>
    rw [clock_histRestart]
    dsimp only
    generalize hu : siteCount b Reg.CAL_DRIFT_CNT _ = u
    have hu : u.clock = s.clock := by rw [← hu]; simp
    generalize hv : siteRaise b 1 _ = v
    have hv : v.clock = s.clock := by rw [← hv]; simp [hu]
    simp [hv]
@[simp] theorem clock_blockSwaps (bd : Int) (b : Nat) : (blockSwaps bd b s).clock = s.clock := by
  unfold blockSwaps; dsimp only; split <;> split <;> simp
@[simp] theorem clock_clearRegion (c : Nat) : (clearRegion c s).clock = s.clock :=
  (clock_setComb _ _ _).trans (clock_forN _ _ _ fun _ _ => rfl)
@[simp] theorem clock_parkAtBoundary (d : Nat) : (parkAtBoundary d s).clock = s.clock := by unfold parkAtBoundary; simp
@[simp] theorem clock_boundaryWork (b : Int) : (boundaryWork b s).clock = s.clock := by unfold boundaryWork; simp [clock_forN]
@[simp] theorem clock_muteDecision (commit : Bool) (f : BitVec 40) (c : Nat) : (muteDecision commit f c s).clock = s.clock := rfl
@[simp] theorem clock_muteAll (commit : Bool) (f : BitVec 40) : (muteAll commit f s).clock = s.clock := 
  clock_forL _ _ _ fun _ _ => rfl
@[simp] theorem clock_muteBoundary (running committed : Bool) (f : BitVec 40) : (muteBoundary running committed f s).clock = s.clock := by
  unfold muteBoundary; simp
@[simp] theorem clock_autoPrescale (h : HiveId) (f : BitVec 40) : (autoPrescale h f s).clock = s.clock := by
  unfold autoPrescale; simp
@[simp] theorem clock_modQual (f : Qual → Qual) (hf : ∀ q, (f q).unsync = q.unsync ∧ (f q).coarse = q.coarse) :
    (s.modQual f).clock = s.clock := by
  unfold State.modQual State.bothTb
  rw [clock_both]
  simp only [State.clock, Hive.clock, hf]
  rfl
@[simp] theorem clock_endStepped : (endStepped s).clock = s.clock := by unfold endStepped; simp
@[simp] theorem clock_flagFrames (b : Int) (committed : Bool) : (flagFrames b committed s).clock = s.clock := by
  unfold flagFrames; simp; rfl
@[simp] theorem clock_startFrame (h : HiveId) (f : BitVec 40) (a e : Int) : (startFrame h f a e s).clock = s.clock := by
  unfold startFrame; simp
@[simp] theorem clock_openRegion (c : Nat) (f : BitVec 40) (a e : Int) : (openRegion c f a e s).clock = s.clock := 
  (clock_setComb _ _ _).trans (clock_forN _ _ _ fun _ _ => rfl)
@[simp] theorem clock_beginStepped : (beginStepped s).clock = s.clock := by unfold beginStepped; simp
theorem clock_startSegment (b seg tick : Nat) : (startSegment b seg tick s).clock = s.clock := rfl
@[simp] theorem clock_forgetOld : (forgetOld s).clock = s.clock := rfl

/-! ### The steps of a boundary that set the clock -/

/-- Frame building goes on or stops: the flag alone changes. -/
@[simp] theorem clock_stopFraming (b : Int) : (stopFraming b s).clock = { s.clock with framing := false } := by
  unfold stopFraming
  cases hf : s.chip.framing with
  | false => simp only [Bool.not_false, if_true, State.clock, hf]
  | true => rfl

theorem clock_beginFraming (b : Int) : (beginFraming b s).clock = { s.clock with framing := true } := rfl

@[simp] theorem clock_startFrames (b : Int) : (startFrames b s).clock = { s.clock with framing := true } := by
  unfold startFrames
  dsimp only
  rw [clock_forN _ _ _ (fun _ _ => clock_modSlot _ _ _ _), clock_forN, clock_startFrame, clock_beginFraming, clock_beginStepped]
  intro c u
  rw [clock_ite, clock_openRegion, ite_self]

/-- The spine delays measured in the frame before come into force (R56). -/
@[simp] theorem clock_spineDelays (b : Int) (trips : List Nat) :
    (spineDelays b trips s).clock = { s.clock with spinePrev := s.chip.spineNow, spineNow := s.chip.spineNext } := by
  unfold spineDelays
  dsimp only
  rw [clock_forN]
  · rfl
  · intro i u
    simp

/-- A worker's list entry after the entries of all workers have been changed alike. -/
theorem tfind_map {α : Type} (l : Tab α) (f : α → α) (q : Nat) : tfind (l.map (fun e => (e.1, f e.2))) q = (tfind l q).map f := by
  induction l with
  | nil => rfl
  | cons e l ih => simp only [List.map_cons, tfind, ih]; split <;> rfl

theorem tget_map {α : Type} (d : α) (l : Tab α) (f : α → α) (q : Nat) (hd : f d = d) :
    tget d (l.map (fun e => (e.1, f e.2))) q = f (tget d l q) := by
  unfold tget; rw [tfind_map]; cases tfind l q <;> simp [hd]

/-- A worker as it sees FRAME: STOPPED it sees none. -/
def seesFrame (x : Worker) : Worker := if x.state = .stopped then x else { x with frameEv := true }

theorem seesFrame_get (l : Tab Worker) (w : Nat) :
    tget {} (l.map (fun e => (e.1, if e.2.state = .stopped then e.2 else { e.2 with frameEv := true }))) w = seesFrame (tget {} l w) :=
  tget_map {} l seesFrame w rfl

/-- Every worker that is not STOPPED sees FRAME once a boundary is over. -/
theorem clock_afterBoundary : (afterBoundary s).clock =
    { s.clock with worker := fun w => ((s.clock.worker w).1, if (s.clock.worker w).1 = .stopped then (s.clock.worker w).2 else true) } := by
  unfold afterBoundary
  dsimp only
  rw [clock_startDrains]
  generalize hu : forN 72 _ (forgetOld s) = u
  have hu : u.clock = s.clock := by
    rw [← hu, clock_forN, clock_forgetOld]
    intro k v; rw [clock_ite, clock_startSegment, ite_self]
  rw [← hu]
  refine (congrArg (fun f => { u.clock with worker := f }) (funext fun w => ?_) : _)
  refine (congrArg (fun x : Worker => (x.state, x.frameEv)) (seesFrame_get u.workers w)).trans ?_
  change ((seesFrame (u.worker w)).state, (seesFrame (u.worker w)).frameEv)
    = ((u.worker w).state, if (u.worker w).state = .stopped then (u.worker w).frameEv else true)
  unfold seesFrame
  split <;> simp_all
end

end Sys2Proof.Machine

namespace Sys2Proof.Machine

/-- The clock with every hive's frame counter set. -/
def Clock.atFrame (c : Clock) (f : BitVec 40) : Clock :=
  { c with hive := fun h => { c.hive h with core := { (c.hive h).core with frame := f } } }

theorem clock_modCore_frame (s : State) (f : BitVec 40) : (s.modCore (fun c => { c with frame := f })).clock = s.clock.atFrame f := by
  unfold State.modCore State.bothTb
  rw [clock_both]
  simp only [Hive.clock, TimeBase.core_modCore, TimeBase.modCore_qual]
  rfl

/-- While the time is UNSYNC or COARSE no frame may be built (R45). -/
theorem mayBuild_of_unset (s : State) (b : Int) (h : s.tb.qual.unsync = true ∨ s.tb.qual.coarse = true) : mayBuild s b = false := by
  unfold mayBuild
  rcases h with h | h <;> simp [h]

/-- The clock after the boundary of a frame at which nothing is armed; `building` tells whether frames are built from it on. -/
def Clock.nextFrame (c : Clock) (f : BitVec 40) (building : Bool) (spineNext : List Int) : Clock :=
  { c.atFrame f with
    worker := fun w => ((c.worker w).1, if (c.worker w).1 = .stopped then (c.worker w).2 else true)
    framing := building, spineNow := spineNext, spinePrev := c.spineNow }

/-- A boundary at which no commit and no table switch is armed. -/
theorem clock_startBoundary (trips : List Nat) (running : Bool) (s : State) (hc : s.chip.commitArmed = none) (hp : s.chip.plcArmed = none) :
    ∃ building : Bool, (s.tb.qual.unsync = true ∨ s.tb.qual.coarse = true → building = false) ∧
      (startBoundary trips running s).clock = s.clock.nextFrame (s.frameNow + 1) building s.chip.spineNext := by
  unfold startBoundary
  dsimp only
  generalize s.frameStart (s.frameNow + 1) = b
  generalize hu : s.modCore (fun c => { c with frame := s.frameNow + 1 }) = u
  have hclock : u.clock = s.clock.atFrame (s.frameNow + 1) := by rw [← hu, clock_modCore_frame]
  have hchip : u.chip = s.chip := by rw [← hu]; rfl
  rw [hchip, hc]
  simp only [Bool.false_eq_true, if_false, hchip, hp, or_self]
  generalize hv : flagFrames b false _ = v
  have hv : v.clock = { s.clock.atFrame (s.frameNow + 1) with spineNow := s.chip.spineNext, spinePrev := s.chip.spineNow } := by
    rw [← hv, clock_flagFrames, clock_boundaryWork, clock_endStepped, clock_autoPrescale, clock_muteBoundary, clock_spineDelays,
      clock_modChip _ _ rfl rfl rfl, hclock]
    simp only [State.modChip_chip, hchip]
  refine ⟨mayBuild v b, fun hq => mayBuild_of_unset v b ?_, ?_⟩
  · have hunsync : v.tb.qual.unsync = s.tb.qual.unsync := congrArg (fun c => (c.hive c.active).unsync) hv
    have hcoarse : v.tb.qual.coarse = s.tb.qual.coarse := congrArg (fun c => (c.hive c.active).coarse) hv
    rwa [hunsync, hcoarse]
  · rw [clock_afterBoundary]
    cases mayBuild v b with
    | true => rw [if_pos rfl, clock_startFrames, hv]; rfl
    | false => rw [if_neg Bool.false_ne_true, clock_stopFraming, hv]; rfl

/-- With no takeover pending and no step armed a due boundary is that of the next frame. -/
theorem frameBoundary_plain (trips : List Nat) (s : State) (hs : s.chip.started = true) (hd : s.chip.state ≠ .deep)
    (ho : s.chip.state ≠ .off) (hb : boundaryDue s = true) (ha : s.hiveA.dup.pendingTake = false)
    (hB : s.hiveB.dup.pendingTake = false) (ht : s.chip.step = none) :
    frameBoundary trips s = startBoundary trips s.chip.framing s := by
  have htake : ∀ f, takeAtBoundary f s = s := fun f => by unfold takeAtBoundary; rw [ha, hB]; rfl
  have hdue : ∀ f, stepDue s f = none := fun f => by unfold stepDue; rw [ht]; rfl
  unfold frameBoundary
  rw [hs, hb, if_neg (by simp [hd, ho])]
  simp only [htake, hdue]

end Sys2Proof.Machine

section
open Sys2Proof Sys2Proof.Machine Sys2Proof.Claims

/-- Settles O4: nothing a boundary does but its own steps touches the clock, so it stands as `Clock.nextFrame` says. -/
theorem frameBoundaryCounts : Obligations.FrameBoundaryCounts := by
  unfold Obligations.FrameBoundaryCounts
  intro trips s hs hd ho hb ha hB hstep hcommit hplc
  obtain ⟨building, hbuilding, hclock⟩ := clock_startBoundary trips s.chip.framing s hcommit hplc
  rw [← frameBoundary_plain trips s hs hd ho hb ha hB hstep] at hclock
  refine ⟨_, rfl, fun h => ?_, ?_, ?_, fun w hw => ?_, ?_, ?_, fun hq => ?_⟩
  · exact congrArg (fun c => (c.hive h).core.frame) hclock
  · exact congrArg Clock.spineNow hclock
  · exact congrArg Clock.spinePrev hclock
  · exact (congrArg (fun c => (c.worker w).2) hclock).trans (if_neg hw)
  · exact congrArg Clock.tick hclock
  · exact congrArg (fun c => (c.hive c.active).core.fu) hclock
  · exact (congrArg Clock.framing hclock).trans (hbuilding hq)

end

namespace Sys2Proof.Machine

/-! ### Two more queue operations leave everything but their own alone -/

section
variable {K : Nat → Prop} (s : State) (h : HiveId) (q : Nat)

theorem qReleaseE_quiet (n : Nat) : Quiet K s (qReleaseE s h q n).1 := by
  unfold qReleaseE
  dsimp only
  split
  · exact qDescE_quiet s h q
  · exact (qDescE_quiet s h q).trans (putPtr_quiet _ h q 1 _)

theorem qReleaseE_owns (n : Nat) : Owns (qReleaseE s h q n).2.1 := by
  unfold qReleaseE
  dsimp only
  split
  · exact qDescE_owns s h q
  · exact (owns_append _ _).2 ⟨qDescE_owns s h q, putPtr_owns _ h q 1 _⟩

theorem qKillE_quiet : Quiet K s (qKillE s h q).1 := by
  unfold qKillE
  dsimp only
  split
  · exact Quiet.refl s
  · exact (qDescE_quiet s h q).trans (closeOpen_quiet _ h q _)

theorem qKillE_owns : Owns (qKillE s h q).2 := by
  unfold qKillE
  dsimp only
  split
  · exact owns_nil
  · exact (owns_append _ _).2 ⟨qDescE_owns s h q, closeOpen_owns _ h q _⟩

theorem qDesc_quiet : Quiet K s (qDesc s h q).1 := (qDescE_quiet s h q).trans (settle_quiet _ _ (qDescE_owns s h q))
theorem qRelease_quiet (n : Nat) : Quiet K s (qRelease s h q n).1 := (qReleaseE_quiet s h q n).trans (settle_quiet _ _ (qReleaseE_owns s h q n))
theorem qKill_quiet : Quiet K s (qKill s h q) := (qKillE_quiet s h q).trans (settle_quiet _ _ (qKillE_owns s h q))

end

/-! ### The work of a tick and the clock -/

section
variable (s : State)

@[simp] theorem clock_modQueue (h : HiveId) (q : Nat) (f : Queue → Queue) : (s.modQueue h q f).clock = s.clock :=
  clock_of_quiet (K := fun _ => False) (quiet_modQueue s h q f)
@[simp] theorem clock_qDesc (h : HiveId) (q : Nat) : (qDesc s h q).1.clock = s.clock := clock_of_quiet (K := fun _ => False) (qDesc_quiet s h q)
@[simp] theorem clock_qRelease (h : HiveId) (q n : Nat) : (qRelease s h q n).1.clock = s.clock :=
  clock_of_quiet (K := fun _ => False) (qRelease_quiet s h q n)
@[simp] theorem clock_qKill (h : HiveId) (q : Nat) : (qKill s h q).clock = s.clock := clock_of_quiet (K := fun _ => False) (qKill_quiet s h q)

/-- A vote puts the copies right and leaves the voted core. -/
@[simp] theorem clock_voteCore (h : HiveId) : (voteCore h s).clock = s.clock := by
  unfold voteCore
  dsimp only
  rw [clock_ite, clock_raise_page, clock_forN _ _ _ (fun _ u => (clock_guardEvent _ _ _).trans (clock_count u _ _ _ _)), State.modHive_eq,
    clock_setHive, ite_self]
  simp only [Hive.clock, TimeBase.core_setCore, TimeBase.setCore_qual]

@[simp] theorem clock_voteClaim (h : HiveId) : (voteClaim h s).clock = s.clock := by
  unfold voteClaim State.modDup
  dsimp only
  rw [clock_ite, clock_forN _ _ _ (fun _ u => (clock_guardEvent _ _ _).trans (clock_count u _ _ _ _)), State.modHive_eq,
    clock_setHive, ite_self]
  simp only [Hive.clock, Duplex.claim, maj_self, State.dup]

@[simp] theorem clock_voteCombs : (voteCombs s).clock = s.clock := by
  unfold voteCombs
  rw [clock_forL _ _ _ (fun _ u => (clock_guardEvent _ _ _).trans (clock_count u _ _ _ _))]
  rfl

/-- A worker whose timer counts down is in the state it was. -/
@[simp] theorem clock_countTimers : (countTimers s).clock = s.clock := by
  unfold countTimers
  refine (congrArg (fun f => { s.clock with worker := f }) (funext fun w => ?_) : _)
  refine (congrArg (fun x : Worker => (x.state, x.frameEv))
    (tget_map {} s.workers (fun x => if x.timer > 0 ∧ x.state ≠ .halted then { x with timer := x.timer - 1 } else x) w rfl)).trans ?_
  split <;> rfl

@[simp] theorem clock_horizonRestart (h : HiveId) : (horizonRestart h s).clock = s.clock := by unfold horizonRestart; simp
@[simp] theorem clock_lagUpdate (h : HiveId) : (lagUpdate h s).clock = s.clock := by unfold lagUpdate; simp
@[simp] theorem clock_discardStale (h : HiveId) : (discardStale h s).clock = s.clock := by
  unfold discardStale
  refine clock_forL _ _ _ fun q u => ?_
  dsimp only
  rw [clock_ite, clock_qRelease, clock_modQueue, clock_qDesc, ite_self]
@[simp] theorem clock_switchCredits (h : HiveId) (c : Nat) : (switchCredits h c s).clock = s.clock := by unfold switchCredits; simp
@[simp] theorem clock_creditStart (h : HiveId) : (creditStart h s).clock = s.clock := by unfold creditStart State.modPlace; simp
@[simp] theorem clock_logRecord (h : HiveId) (r : Record) (close : Nat) : (logRecord h r close s).clock = s.clock := by
  unfold logRecord State.modGuard; simp
@[simp] theorem clock_abortOutput (h : HiveId) : (abortOutput h s).clock = s.clock := by
  unfold abortOutput
  exact clock_forN _ _ _ fun i u => by rw [clock_ite, clock_qKill, ite_self]
@[simp] theorem clock_becomeStandby (h : HiveId) : (becomeStandby h s).clock = s.clock := by
  unfold becomeStandby
  refine (clock_modHive _ h _ ?_).trans (clock_abortOutput s h)
  exact fun _ => rfl
@[simp] theorem clock_restartLinks : (restartLinks s).clock = s.clock := by
  unfold restartLinks
  refine clock_forN _ _ _ fun l u => ?_
  unfold laneEvent
  split <;> simp
@[simp] theorem clock_restartPort : (restartPort s).clock = s.clock := by
  unfold restartPort
  dsimp only
  split <;> rfl

/-- A takeover changes neither time nor the claims. -/
@[simp] theorem clock_becomeActive (h : HiveId) (first : BitVec 40) (decided : Bool) : (becomeActive h first decided s).clock = s.clock := by
  unfold becomeActive
  dsimp only
  rw [clock_restartPort, clock_restartLinks, clock_ite, clock_raise_page, ite_self, clock_becomeStandby]
  generalize hu : State.setReg64 _ _ _ _ = u
  have hu : u.clock = s.clock := by
    rw [← hu, clock_setReg64, clock_creditStart, clock_forN _ _ _ (fun c v => clock_switchCredits v h c), clock_discardStale,
      clock_horizonRestart, clock_lagUpdate, clock_raise_page]
    exact clock_modHive _ h _ fun _ => rfl
  split
  · rw [clock_ite, clock_logRecord, ite_self, hu]
  · exact hu

@[simp] theorem clock_obeyClaims : (obeyClaims s).clock = s.clock := by unfold obeyClaims; simp
@[simp] theorem clock_countStalls : (countStalls s).clock = s.clock := by
  unfold countStalls
  simp only [clock_ite, clock_count, ite_self]
  exact clock_forN _ _ _ fun c u => by rw [clock_ite, clock_count, ite_self]
@[simp] theorem clock_copyWords : (copyWords s).clock = s.clock := rfl
@[simp] theorem clock_copyHousekeeping : (copyHousekeeping s).clock = s.clock := by
  unfold copyHousekeeping; rw [clock_ite, clock_modChip _ _ rfl rfl rfl, ite_self]
@[simp] theorem clock_summaryTry (h : HiveId) : (summaryTry h s).clock = s.clock := by
  unfold summaryTry State.modGuard
  dsimp only
  generalize recordWrites (s.hive h).mram 8 0 (summaryWords (s.hive h)) = ws
  cases ws <;> simp

/-- What a started device does at every tick leaves the clock for the tick itself to move. -/
@[simp] theorem clock_tickWork : (tickWork s).clock = s.clock := by unfold tickWork; simp

end
end Sys2Proof.Machine

namespace Sys2Proof.Machine
open Sys2Proof.Claims

/-! ### Changes of the time bases of both hives -/

section
variable (s : State) (f : TimeBase → TimeBase)

@[simp] theorem bothTb_tb (h : HiveId) : ((s.bothTb f).hive h).tb = f (s.hive h).tb := by cases h <;> rfl

end

/-- The state with other time bases. -/
def retime (a b : TimeBase) (s : State) : State := { s with hiveA := { s.hiveA with tb := a }, hiveB := { s.hiveB with tb := b } }

theorem timeOnly_def (K : Nat → Prop) (s t : State) : TimeOnly K s t ↔ Quiet K (retime t.hiveA.tb t.hiveB.tb s) t := Iff.rfl

section
variable {K : Nat → Prop} {s t u : State}

/-- What the delivery of events leaves alone does not depend on the time bases it finds. -/
theorem quiet_retime (a b : TimeBase) (q : Quiet K s t) : Quiet K (retime a b s) (retime a b t) where
  pending := q.pending
  tick := q.tick
  staged := q.staged
  upsets := q.upsets
  sels := q.sels
  paths := q.paths
  stalls := q.stalls
  cells := q.cells
  cals := q.cals
  blocks := q.blocks
  combs := q.combs
  lanes := q.lanes
  domains := q.domains
  hks := q.hks
  chip := q.chip
  hive h := match h with
    | .a => ⟨rfl, (q.hive .a).2⟩
    | .b => ⟨rfl, (q.hive .b).2⟩
  worker := q.worker
  regs := q.regs

theorem timeOnly_of_quiet (q : Quiet K s t) : TimeOnly K s t := by
  rw [timeOnly_def]
  have ha : t.hiveA.tb = s.hiveA.tb := (q.hive .a).1
  have hb : t.hiveB.tb = s.hiveB.tb := (q.hive .b).1
  rw [ha, hb]
  exact q

theorem timeOnly_trans (h : TimeOnly K s t) (k : TimeOnly K t u) : TimeOnly K s u :=
  (timeOnly_def K s u).2 ((quiet_retime u.hiveA.tb u.hiveB.tb ((timeOnly_def K s t).1 h)).trans k)

theorem timeOnly_bothTb (s : State) (f : TimeBase → TimeBase) : TimeOnly K s (s.bothTb f) := Quiet.refl _

end

/-! ### The tick (R46, R54, R30) -/

/-- The output at a tick changes PPS_OUT alone. -/
theorem ppsTick_keeps (s : State) : (ppsTick s).tick = s.tick ∧ ∀ h, ((ppsTick s).hive h).tb.core0 = (s.hive h).tb.core0 ∧
    ((ppsTick s).hive h).tb.core1 = (s.hive h).tb.core1 ∧ ((ppsTick s).hive h).tb.core2 = (s.hive h).tb.core2 := by
  unfold ppsTick ppsRise
  split
  · exact ⟨rfl, fun h => by simp only [bothTb_tb, and_self]⟩
  · split
    · exact ⟨rfl, fun _ => ⟨rfl, rfl, rfl⟩⟩
    · split
      · exact ⟨rfl, fun h => by simp only [bothTb_tb, and_self]⟩
      · exact ⟨rfl, fun _ => ⟨rfl, rfl, rfl⟩⟩

/-- The three copies of both cores take the active hive's time, one tick on. -/
theorem advanceTime_copies (s : State) : (advanceTime s).tick = s.tick ∧
    ∀ h, ((advanceTime s).hive h).tb.core0 = s.tb.core.atFu (s.now + 1000) ∧
      ((advanceTime s).hive h).tb.core1 = s.tb.core.atFu (s.now + 1000) ∧
      ((advanceTime s).hive h).tb.core2 = s.tb.core.atFu (s.now + 1000) := by
  unfold advanceTime
  obtain ⟨htick, hcopies⟩ := ppsTick_keeps (s.bothTb fun t => t.setCore (s.tb.core.atFu (s.now + 1000)))
  refine ⟨htick, fun h => ?_⟩
  obtain ⟨h0, h1, h2⟩ := hcopies h
  exact ⟨h0.trans (congrArg TimeBase.core0 (bothTb_tb _ _ h)), h1.trans (congrArg TimeBase.core1 (bothTb_tb _ _ h)),
    h2.trans (congrArg TimeBase.core2 (bothTb_tb _ _ h))⟩

/-- While the spine runs a tick puts every copy of the time one tick on from the active hive's. -/
theorem tickStep_copies (s : State) (hd : s.chip.state ≠ .deep) (ho : s.chip.state ≠ .off) (hh : s.chip.held = false)
    (hr : s.chip.railsLow = []) : (tickStep s).tick = s.tick + 1 ∧ ∃ c : TimeCore, ∀ h,
      ((tickStep s).hive h).tb.core0 = c.atFu (s.now + 1000) ∧ ((tickStep s).hive h).tb.core1 = c.atFu (s.now + 1000) ∧
      ((tickStep s).hive h).tb.core2 = c.atFu (s.now + 1000) := by
  unfold tickStep
  rw [if_neg (by simp [hd, ho, hh, hr])]
  dsimp only
  generalize hu : (if s.chip.started = true then tickWork s else s) = u
  have hclock : u.clock = s.clock := by rw [← hu, clock_ite, clock_tickWork, ite_self]
  have hnow : u.now = s.now := congrArg (fun c => (c.hive c.active).core.fu) hclock
  obtain ⟨htick, hcopies⟩ := advanceTime_copies { u with tick := u.tick + 1 }
  refine ⟨htick.trans (congrArg (· + 1) (tick_of_clock hclock)), u.tb.core, fun h => ?_⟩
  rw [← hnow]
  exact hcopies h

theorem core_of_copies (t : TimeBase) (c : TimeCore) (h0 : t.core0 = c) (h1 : t.core1 = c) (h2 : t.core2 = c) : t.core = c := by
  simp only [TimeBase.core, h0, h1, h2, maj_self]

/-- The spine stands in Deep sleep and Off, and while power is low. -/
theorem tickStep_stands (s : State) (h : s.chip.state = .deep ∨ s.chip.state = .off ∨ s.chip.held = true ∨ s.chip.railsLow ≠ []) :
    tickStep s = s := if_pos h

/-- The tick of O1. -/
theorem runs_tick (s : State) (hd : s.chip.state ≠ .deep) (ho : s.chip.state ≠ .off) (hh : s.chip.held = false)
    (hr : s.chip.railsLow = []) (hnow : s.now + 1000 < 2 ^ 48 * 1024000000000) :
    Runs .tick s fun t => t.tick = s.tick + 1 ∧ ∀ h, t.fuOf h = s.now + 1000 ∧
      (t.hive h).tb.core0 = (t.hive h).tb.core ∧ (t.hive h).tb.core1 = (t.hive h).tb.core ∧ (t.hive h).tb.core2 = (t.hive h).tb.core := by
  obtain ⟨htick, c, hcopies⟩ := tickStep_copies s hd ho hh hr
  refine ⟨_, rfl, htick, fun h => ?_⟩
  obtain ⟨h0, h1, h2⟩ := hcopies h
  have hcore := core_of_copies _ _ h0 h1 h2
  have h0le : 0 ≤ s.now + 1000 := Int.add_nonneg (TimeCore.fu_nonneg s.tb.core) (by decide)
  exact ⟨(congrArg TimeCore.fu hcore).trans (TimeCore.fu_atFu c _ h0le hnow), h0.trans hcore.symm, h1.trans hcore.symm, h2.trans hcore.symm⟩

end Sys2Proof.Machine

namespace Sys2Proof.Machine
open Sys2Proof.Claims

/-! ### Events and registers of the hives' TIM_ pages -/

theorem onHives_page (h : HiveId) (g off : Nat) (hg : g < 2 ^ 8) (ho : off < 2 ^ 12) : onHives g (rkey (hivePage h g) off 0) := by
  have hp : keyPage (rkey (hivePage h g) off 0) = hivePage h g := by
    cases h <;> simp only [keyPage, rkey, hivePage, page, hiveRegion] <;> omega
  unfold onHives
  cases h
  · exact .inl hp
  · exact .inr hp

theorem quiet_mono {K L : Nat → Prop} {s t : State} (q : Quiet K s t) (h : ∀ k, K k → L k) : Quiet L s t :=
  { q with regs := fun k hn hl => q.regs k hn fun hk => hl (h k hk) }

theorem timEvent_quiet (n : Nat) (s : State) : Quiet (onHives 0x10) s (timEvent n s) := by
  unfold timEvent
  refine quiet_mono (raise_quiet s _ _ _ (page_mod _ _ _)) ?_
  rintro k rfl
  exact onHives_page _ 0x10 _ (by decide) (by decide)

/-- A register of the TIM_ pages that events neither count nor mark. -/
abbrev TimPlain (off : Nat) : Prop := off < 2 ^ 12 ∧ off ≠ Reg.EVT_COUNT ∧ off ≠ Reg.TIM_EVENTS

/-- Different offsets of the TIM_ pages are different registers. -/
theorem timKey_ne (h k : HiveId) (o o' : Nat) (ho : o < 2 ^ 12) (ho' : o' < 2 ^ 12) (hne : o ≠ o') :
    rkey (hivePage h 0x10) o 0 ≠ rkey (hivePage k 0x10) o' 0 := by
  cases h <;> cases k <;> simp only [rkey, hivePage, page, hiveRegion] <;> omega

theorem noted_tim (k : HiveId) (off : Nat) (ho : off < 2 ^ 12) (he : off ≠ Reg.EVT_COUNT) : noted (rkey (hivePage k 0x10) off 0) = false := by
  have hoff : rkey (hivePage k 0x10) off 0 % 2 ^ 12 = off := by
    cases k <;> simp only [rkey, hivePage, page, hiveRegion] <;> omega
  have hgroup : rkey (hivePage k 0x10) off 0 / 2 ^ 20 % 2 ^ 8 = 0x10 := by
    cases k <;> simp only [rkey, hivePage, page, hiveRegion] <;> omega
  unfold noted
  rw [hoff, hgroup]
  simp [he]

theorem timEvent_reg (n : Nat) (s : State) (k : HiveId) (off : Nat) (h : TimPlain off) :
    (timEvent n s).reg (hivePage k 0x10) off = s.reg (hivePage k 0x10) off :=
  raise_reg_other s _ _ _ _ _ _ (page_mod _ _ _) (noted_tim k off h.1 h.2.1) (timKey_ne k _ _ _ h.1 (by decide) h.2.2)

@[simp] theorem timEvent_tb (n : Nat) (s : State) (h : HiveId) : ((timEvent n s).hive h).tb = (s.hive h).tb := ((timEvent_quiet n s).hive h).1
@[simp] theorem timEvent_higherClaim (n : Nat) (s : State) : higherClaim (timEvent n s) = higherClaim s := (timEvent_quiet n s).higherClaim

/-- TIM_HOLD_SEC shows the seconds on both hives' pages, and no other register changes. -/
theorem holdSec_reg (n : Nat) (s : State) (k : HiveId) (off : Nat) (h : off < 2 ^ 12) :
    (holdSec n s).reg (hivePage k 0x10) off = if off = Reg.TIM_HOLD_SEC then w32 n else s.reg (hivePage k 0x10) off := by
  unfold holdSec
  rw [State.setReg_reg, State.setReg_reg]
  by_cases ho : off = Reg.TIM_HOLD_SEC
  · subst ho
    cases k <;> simp
  · rw [if_neg (timKey_ne k .b _ _ h (by decide) ho), if_neg (timKey_ne k .a _ _ h (by decide) ho), if_neg ho]

theorem holdSec_quiet (n : Nat) (s : State) : Quiet (onHives 0x10) s (holdSec n s) :=
  (quiet_setReg s _ _ _ _ (.inr (onHives_page .a 0x10 _ (by decide) (by decide)))).trans
    (quiet_setReg _ _ _ _ _ (.inr (onHives_page .b 0x10 _ (by decide) (by decide))))

/-! ### The second boundary (R58, R59, R72–R74) -/

/-- The frequency word enters its running mean. -/
def secondMean (s : State) : State :=
  let s := s.bothTb (fun t => { t with secondTick := some s.tick })
  let n := max 1 (fld (s.cfg 0x10 Reg.TIM_HOLD_AVG) 12 0)
  let s := s.bothTb (fun t => { t with holdHist := (t.core.freq.toInt :: t.holdHist).take n })
  s.modCore (fun k => { k with holdAvg := BitVec.ofInt 40 (runningMean s.tb.holdHist) })

/-- TIM_HOLD_SEC is brought up in holdover. -/
def holdMark (s : State) : State := if s.tb.qual.holdover then holdSec (holdSeconds s) s else s

/-- PPS_OUT rises with the second where TIM_OUT_DLY holds no whole tick. -/
def secondRise (s : State) : State := if outTicks s = 0 then ppsRise s else s

/-- The announced UTC offset is taken up at its second. -/
def takeOffset (sec : Nat) (s : State) : State :=
  if s.reg64 (cfgPage 0x10) Reg.TIM_UTC_NEXT_SEC_LO % 2 ^ 48 = sec then
    timEvent 128 (s.setReg (cfgPage 0x10) Reg.TIM_UTC_OFFSET (s.cfg 0x10 Reg.TIM_UTC_NEXT_OFFSET))
  else s

theorem secondBoundary_eq (s : State) (hn : s.tb.core.nsec = 0) (hf : s.tb.core.frac = 0) (ht : s.tb.secondTick ≠ some s.tick) :
    secondBoundary s = takeOffset s.tb.core.sec.toNat (secondRise (holdMark (secondMean s))) :=
  if_neg (by rintro (h | h | h); exacts [h hn, h hf, ht h])

section
variable (s : State)

@[simp] theorem secondMean_regs : (secondMean s).regs = s.regs := rfl
@[simp] theorem secondMean_tick : (secondMean s).tick = s.tick := rfl
@[simp] theorem secondMean_higherClaim : higherClaim (secondMean s) = higherClaim s := rfl

/-- Of the hives' time bases the running mean changes the core's average and its own record alone. -/
theorem secondMean_tb (h : HiveId) : ((secondMean s).hive h).tb.qual = (s.hive h).tb.qual ∧
    ((secondMean s).hive h).tb.holdTick = (s.hive h).tb.holdTick ∧ ((secondMean s).hive h).tb.core.fu = (s.hive h).tb.core.fu := by
  unfold secondMean State.modCore
  simp only [bothTb_tb, TimeBase.core_modCore]
  exact ⟨rfl, rfl, rfl⟩

theorem timeOnly_secondMean (K : Nat → Prop) : TimeOnly K s (secondMean s) := Quiet.refl _

@[simp] theorem holdMark_hive (h : HiveId) : (holdMark s).hive h = s.hive h := by
  unfold holdMark; split <;> rfl

theorem holdMark_quiet : Quiet (onHives 0x10) s (holdMark s) := by
  unfold holdMark
  split
  · exact holdSec_quiet _ _
  · exact Quiet.refl s

theorem holdMark_reg (k : HiveId) (off : Nat) (h : off < 2 ^ 12) : (holdMark s).reg (hivePage k 0x10) off =
    if s.tb.qual.holdover = true ∧ off = Reg.TIM_HOLD_SEC then w32 (holdSeconds s) else s.reg (hivePage k 0x10) off := by
  unfold holdMark
  split
  · rename_i hh
    rw [holdSec_reg _ _ _ _ h]
    simp only [hh, true_and]
  · rename_i hh
    rw [if_neg fun x => hh x.1]

theorem secondRise_timeOnly (K : Nat → Prop) : TimeOnly K s (secondRise s) := by
  unfold secondRise ppsRise
  split
  · split
    · exact timeOnly_bothTb _ _
    · exact Quiet.refl _
  · exact Quiet.refl _

theorem secondRise_regs : (secondRise s).regs = s.regs := by
  unfold secondRise ppsRise
  split
  · split <;> rfl
  · rfl

theorem takeOffset_quiet (sec : Nat) : Quiet (onHives 0x10) s (takeOffset sec s) := by
  unfold takeOffset
  split
  · exact (quiet_setReg s _ _ _ _ (.inr (onHives_page .a 0x10 _ (by decide) (by decide)))).trans (timEvent_quiet _ _)
  · exact Quiet.refl s

/-- Of the plain TIM_ registers it sets TIM_UTC_OFFSET alone. -/
theorem takeOffset_reg (sec : Nat) (k : HiveId) (off : Nat) (h : TimPlain off) (ho : off ≠ Reg.TIM_UTC_OFFSET) :
    (takeOffset sec s).reg (hivePage k 0x10) off = s.reg (hivePage k 0x10) off := by
  unfold takeOffset
  split
  · exact (timEvent_reg 128 _ k off h).trans ((State.setReg_reg ..).trans (if_neg (timKey_ne k .a _ _ h.1 (by decide) ho)))
  · rfl

theorem takeOffset_offset (sec : Nat) : (takeOffset sec s).cfg 0x10 Reg.TIM_UTC_OFFSET =
    (if s.reg64 (cfgPage 0x10) Reg.TIM_UTC_NEXT_SEC_LO % 2 ^ 48 = sec then s.cfg 0x10 Reg.TIM_UTC_NEXT_OFFSET
     else s.cfg 0x10 Reg.TIM_UTC_OFFSET) := by
  unfold takeOffset
  split
  · exact (timEvent_reg 128 _ .a _ (by decide)).trans ((State.setReg_reg ..).trans (if_pos rfl))
  · rfl

end
end Sys2Proof.Machine

namespace Sys2Proof.Machine
open Sys2Proof.Claims

/-- A meaning that leaves the queue as it was answers its state. -/
theorem done_of_pending {s t : State} (h : t.pending = s.pending) : done s t = .next t := by
  rw [done_eq, ← h]

section
variable (s : State)

/-- A second boundary before it touches PPS_OUT and the UTC offset. -/
def atSecond : State := holdMark (secondMean s)

theorem timeOnly_atSecond : TimeOnly (onHives 0x10) s (atSecond s) :=
  timeOnly_trans (timeOnly_secondMean s _) (timeOnly_of_quiet (holdMark_quiet _))

@[simp] theorem atSecond_tick : (atSecond s).tick = s.tick := (holdMark_quiet (secondMean s)).tick
@[simp] theorem atSecond_higherClaim : higherClaim (atSecond s) = higherClaim s := (holdMark_quiet (secondMean s)).higherClaim
@[simp] theorem atSecond_qual (h : HiveId) : ((atSecond s).hive h).tb.qual = (s.hive h).tb.qual := by
  unfold atSecond; rw [holdMark_hive, (secondMean_tb s h).1]
@[simp] theorem atSecond_now : (atSecond s).now = s.now := by
  unfold State.now State.fuOf
  rw [atSecond_higherClaim, atSecond, holdMark_hive, (secondMean_tb s _).2.2]

theorem atSecond_reg (k : HiveId) (off : Nat) (h : off < 2 ^ 12) : (atSecond s).reg (hivePage k 0x10) off =
    if s.tb.qual.holdover = true ∧ off = Reg.TIM_HOLD_SEC then w32 (holdSeconds s) else s.reg (hivePage k 0x10) off := by
  have hsec : holdSeconds (secondMean s) = holdSeconds s := by
    unfold holdSeconds State.tb
    rw [secondMean_higherClaim, (secondMean_tb s _).2.1, secondMean_tick]
  have hreg : (secondMean s).reg (hivePage k 0x10) off = s.reg (hivePage k 0x10) off := by
    unfold State.reg; rw [secondMean_regs]
  unfold atSecond
  rw [holdMark_reg _ _ _ h, hsec, hreg, State.tb, secondMean_higherClaim, (secondMean_tb s _).1]

theorem atSecond_cfg (off : Nat) (h : off < 2 ^ 12) (ho : off ≠ Reg.TIM_HOLD_SEC) : (atSecond s).cfg 0x10 off = s.cfg 0x10 off :=
  (atSecond_reg s .a off h).trans (if_neg fun x => ho x.2)

/-- At a whole second PPS_OUT rises where it may and TIM_OUT_DLY holds no whole tick. -/
theorem secondRise_pps (ha : ppsAllowed s = true) (h0 : 0 ≤ outDelay s) (h1 : outDelay s < 1000) (hnow : s.now % (secondFu : Int) = 0)
    (h : HiveId) : ((secondRise s).hive h).tb.ppsHigh = true ∧
      ((secondRise s).hive h).tb.ppsFall = s.tick + 1024 * fld (s.cfg 0x10 Reg.TIM_OUT_CTL) 22 4 := by
  have hticks : outTicks s = 0 := by
    unfold outTicks
    rw [Int.fdiv_eq_ediv_of_nonneg _ (by decide)]
    exact Int.ediv_eq_zero_of_lt h0 h1
  unfold secondRise ppsRise
  rw [if_pos hticks, hticks, if_pos ⟨ha, by rw [mul_zero, sub_zero]; exact hnow⟩, bothTb_tb]
  exact ⟨rfl, rfl⟩

theorem secondRise_qual (h : HiveId) : ((secondRise s).hive h).tb.qual = (s.hive h).tb.qual := by
  unfold secondRise ppsRise
  split
  · split
    · rw [bothTb_tb]
    · rfl
  · rfl

@[simp] theorem secondRise_reg (pg off i : Nat) : (secondRise s).reg pg off i = s.reg pg off i := by
  unfold State.reg; rw [secondRise_regs]

@[simp] theorem secondRise_higherClaim : higherClaim (secondRise s) = higherClaim s := by
  unfold secondRise ppsRise
  split
  · split <;> rfl
  · rfl

/-- A core at a whole second stands at a multiple of a second. -/
theorem TimeCore.fu_whole (c : TimeCore) (hn : c.nsec = 0) (hf : c.frac = 0) : c.fu % (secondFu : Int) = 0 := by
  have hn : c.nsec.toNat = 0 := by rw [hn]; rfl
  have hf : c.frac.toNat = 0 := by rw [hf]; rfl
  unfold TimeCore.fu secondFu
  rw [hn, hf]
  omega

theorem ppsAllowed_congr {s t : State} (hc : t.cfg 0x10 Reg.TIM_OUT_CTL = s.cfg 0x10 Reg.TIM_OUT_CTL) (hq : t.tb.qual = s.tb.qual) :
    ppsAllowed t = ppsAllowed s := by
  unfold ppsAllowed; rw [hc, hq]

section
variable (sec : Nat)

@[simp] theorem takeOffset_tb (h : HiveId) : ((takeOffset sec s).hive h).tb = (s.hive h).tb := ((takeOffset_quiet s sec).hive h).1
@[simp] theorem takeOffset_higherClaim : higherClaim (takeOffset sec s) = higherClaim s := (takeOffset_quiet s sec).higherClaim

theorem timeOnly_second : TimeOnly (onHives 0x10) s (takeOffset sec (secondRise (atSecond s))) :=
  timeOnly_trans (timeOnly_trans (timeOnly_atSecond s) (secondRise_timeOnly _ _)) (timeOnly_of_quiet (takeOffset_quiet _ sec))

/-- TIM_HOLD_SEC shows the seconds of the present holdover (R59). -/
theorem second_holdSec (hh : s.tb.qual.holdover = true) (h : HiveId) :
    (takeOffset sec (secondRise (atSecond s))).reg (hivePage h 0x10) Reg.TIM_HOLD_SEC = w32 (holdSeconds s) := by
  rw [takeOffset_reg _ _ _ _ (by decide) (by decide), secondRise_reg, atSecond_reg _ _ _ (by decide), if_pos ⟨hh, rfl⟩]

/-- The UTC offset announced for this second is taken up (R74). -/
theorem second_offset : (takeOffset sec (secondRise (atSecond s))).cfg 0x10 Reg.TIM_UTC_OFFSET =
    (if s.reg64 (cfgPage 0x10) Reg.TIM_UTC_NEXT_SEC_LO % 2 ^ 48 = sec then s.cfg 0x10 Reg.TIM_UTC_NEXT_OFFSET
     else s.cfg 0x10 Reg.TIM_UTC_OFFSET) := by
  have hcfg : ∀ off, off < 2 ^ 12 → off ≠ Reg.TIM_HOLD_SEC → (secondRise (atSecond s)).cfg 0x10 off = s.cfg 0x10 off :=
    fun off h ho => (secondRise_reg _ _ _ _).trans (atSecond_cfg s off h ho)
  have hnext : (secondRise (atSecond s)).reg64 (cfgPage 0x10) Reg.TIM_UTC_NEXT_SEC_LO = s.reg64 (cfgPage 0x10) Reg.TIM_UTC_NEXT_SEC_LO :=
    congrArg₂ (fun lo hi : W32 => lo.toNat + 2 ^ 32 * hi.toNat) (hcfg _ (by decide) (by decide)) (hcfg _ (by decide) (by decide))
  rw [takeOffset_offset, hnext, hcfg _ (by decide) (by decide), hcfg _ (by decide) (by decide)]

/-- PPS_OUT rises at the second, driven by the active hive alone (R72, R73). -/
theorem second_pps (ha : ppsAllowed s = true) (h0 : 0 ≤ outDelay s) (h1 : outDelay s < 1000) (hnow : s.now % (secondFu : Int) = 0) :
    let t := takeOffset sec (secondRise (atSecond s))
    (∀ h, (t.hive h).tb.ppsHigh = true ∧ (t.hive h).tb.ppsFall = s.tick + 1024 * fld (s.cfg 0x10 Reg.TIM_OUT_CTL) 22 4) ∧
      ∀ h, ppsOut t h = decide (h = higherClaim s) := by
  have hctl : (atSecond s).cfg 0x10 Reg.TIM_OUT_CTL = s.cfg 0x10 Reg.TIM_OUT_CTL := atSecond_cfg s _ (by decide) (by decide)
  have hdly : outDelay (atSecond s) = outDelay s := congrArg BitVec.toInt (atSecond_cfg s Reg.TIM_OUT_DLY (by decide) (by decide))
  have hallow : ppsAllowed (atSecond s) = true :=
    (ppsAllowed_congr hctl (by rw [State.tb, atSecond_higherClaim, atSecond_qual])).trans ha
  have hrise := secondRise_pps (atSecond s) hallow (by rwa [hdly]) (by rwa [hdly]) (by rwa [atSecond_now])
  rw [atSecond_tick, hctl] at hrise
  have hout : ppsAllowed (takeOffset sec (secondRise (atSecond s))) = true := by
    refine (ppsAllowed_congr ?_ ?_).trans hallow
    · exact (takeOffset_reg _ _ .a _ (by decide) (by decide)).trans (secondRise_reg _ _ _ _)
    · rw [State.tb, takeOffset_higherClaim, takeOffset_tb, secondRise_higherClaim, secondRise_qual]
  refine ⟨fun h => by rw [takeOffset_tb]; exact hrise h, fun h => ?_⟩
  unfold ppsOut
  rw [hout, State.tb, takeOffset_tb, (hrise _).1, takeOffset_higherClaim, secondRise_higherClaim, atSecond_higherClaim,
    Bool.and_true, Bool.and_true]

end

/-- The second boundary of O1. -/
theorem runs_secondBoundary (hn : s.tb.core.nsec = 0) (hf : s.tb.core.frac = 0) (hs : s.tb.secondTick ≠ some s.tick) :
    Runs .secondBoundary s fun t => t = takeOffset s.tb.core.sec.toNat (secondRise (atSecond s)) := by
  refine ⟨_, ?_, rfl⟩
  exact (congrArg (done s) (secondBoundary_eq s hn hf hs)).trans (done_of_pending (timeOnly_second s _).pending)

end

/-! ### The fall of PPS_OUT (R72) -/

theorem ppsOutFall_eq (s : State) (hh : s.tb.ppsHigh = true) (hf : s.tb.ppsFall ≤ s.tick) :
    ppsOutFall s = s.bothTb (fun t => { t with ppsHigh := false }) := if_pos ⟨hh, hf⟩

/-! ### A read that a path carries at once -/

theorem noteResult_path (p : Path) (st : Nat) (x : W32) (s : State) :
    ((noteResult p st x s).path p).astat = st ∧ ((noteResult p st x s).path p).rdata = x := by
  unfold noteResult
  rw [State.modPath_eq, State.setPath_path, if_pos rfl]
  exact ⟨rfl, rfl⟩

/-- A path other than JTAG that carries an access at once keeps its outcome and the value read. -/
theorem pathAccess_result (p : Path) (op pg : Nat) (a v : W32) (s : State) (hf : pathFree s p = true) (hj : p ≠ .jtag)
    (hp : pageOf s a = some pg) (hg : (if p = .startup then Gate.serve else gate s (pageDomain pg)) = .serve) :
    ∃ s', Near s s' ∧ Near (perform p op pg (keyOff a.toNat) v s').1 (pathAccess p op a v s) ∧
      ((pathAccess p op a v s).path p).astat = (perform p op pg (keyOff a.toNat) v s').2.1 ∧
      ((pathAccess p op a v s).path p).rdata = (perform p op pg (keyOff a.toNat) v s').2.2 := by
  have hs : tfind s.stalls (pathNo p) = none := by
    unfold pathFree at hf; simp only [Bool.and_eq_true, Option.isNone_iff_eq_none] at hf; exact hf.2
  cases p with
  | jtag => exact absurd rfl hj
  | mgmt =>
    have hm : mgtPowered s = true := by
      unfold pathFree at hf; unfold mgtPowered
      simp only [Bool.and_eq_true] at hf ⊢; exact hf.1
    have n : Near s ((mgtOpen s).modMgt (fun m => { m with state := 2, astat := 0, seq := m.seq + 1, addr := a, data := 0 })) :=
      (near_mgt _ s).trans (near_mgt _ _)
    obtain ⟨s', h1, h2⟩ := access_near .mgmt op a v 0 pg _ (by rw [near_pageOf n]; exact hp) (by rw [near_gate n]; exact hg)
    have hs' : tfind (mgtOpen s).stalls 32 = none := hs
    refine ⟨s', n.trans h1, ?_⟩
    simp only [pathAccess, mgtFrame, hm, if_true, mgtExecute, hs', Option.isSome_none, Bool.false_eq_true, if_false, h2]
    exact ⟨(near_mgt _ _).trans (near_note _ _ _ _), noteResult_path _ _ _ _⟩
  | _ =>
    obtain ⟨s', h1, h2⟩ := access_near _ op a v 0 pg s hp hg
    refine ⟨s', h1, ?_⟩
    simp only [pathAccess, hf, Bool.not_true, Bool.false_eq_true, if_false, h2]
    exact ⟨near_note _ _ _ _, noteResult_path _ _ _ _⟩

/-- The page of a hive that an access names (R472, 01_device_overview.md R23), here for TIM_NOW_0. -/
theorem pageOf_timNow (s : State) (r : HiveRef) : pageOf s (hiveAddr r 0x10 Reg.TIM_NOW_0) = some (hivePage (hiveOf s r) 0x10) := by
  cases r with
  | hiveA => rfl
  | hiveB => rfl
  | active =>
    have hc : fld (hiveAddr .active 0x10 Reg.TIM_NOW_0) 31 28 = 0xC := by decide
    have hg : fld (hiveAddr .active 0x10 Reg.TIM_NOW_0) 27 20 = 0x10 := by decide
    have hi : fld (hiveAddr .active 0x10 Reg.TIM_NOW_0) 19 12 = 0 := by decide
    have hk : ∀ h : HiveId, pageKnown (hiveRegion h) 0x10 0 = true := fun h => by cases h <;> rfl
    unfold pageOf
    rw [hc, if_pos rfl, hg, hi, if_pos (hk _)]
    rfl

theorem pageDomain_hivePage (h : HiveId) : pageDomain (hivePage h 0x10) = hiveDom h := by cases h <;> rfl

theorem homePage_tim (h : HiveId) : homePage (hivePage h 0x10) = cfgPage 0x10 := by cases h <;> rfl
theorem pageHive_tim (h : HiveId) : pageHive (hivePage h 0x10) = h := by cases h <;> rfl

/-- A read of TIM_NOW_0 on a page of the TIM_ group (R47). -/
theorem perform_timNow (p : Path) (h : HiveId) (s : State) :
    perform p opRead (hivePage h 0x10) Reg.TIM_NOW_0 0 s = ((timNow p (hivePage h 0x10) s).1, 0, (timNow p (hivePage h 0x10) s).2) := by
  cases h <;> rfl

theorem near_sels {s t : State} (h : Near s t) (x : Tab W32) : Near { s with sels := x } { t with sels := x } :=
  { h with sels := rfl }

/-- A read of TIM_NOW_0 sets two selection words of its path and, the record of its outcome aside, nothing else. -/
theorem timNow_sels {s s' t : State} {p : Path} {a b : W32} (h : Near s s')
    (ht : Near ((s'.setSel p (cfgPage 0x10) Reg.TIM_NOW_1 a).setSel p (cfgPage 0x10) Reg.TIM_NOW_2 b) t) :
    t.sel p (cfgPage 0x10) Reg.TIM_NOW_1 = a ∧ t.sel p (cfgPage 0x10) Reg.TIM_NOW_2 = b ∧ Near { s with sels := t.sels } t := by
  have hsel : ∀ off, t.sel p (cfgPage 0x10) off =
      ((s'.setSel p (cfgPage 0x10) Reg.TIM_NOW_1 a).setSel p (cfgPage 0x10) Reg.TIM_NOW_2 b).sel p (cfgPage 0x10) off := fun off => by
    unfold State.sel; rw [ht.sels]
  have hne : Reg.TIM_NOW_1 + cfgPage 0x10 + 2 ^ 48 * pathNo p ≠ Reg.TIM_NOW_2 + cfgPage 0x10 + 2 ^ 48 * pathNo p := by
    have : Reg.TIM_NOW_1 ≠ Reg.TIM_NOW_2 := by decide
    omega
  refine ⟨?_, ?_, ?_⟩
  · rw [hsel, State.setSel_sel, if_neg hne, State.setSel_sel, if_pos rfl]
  · rw [hsel, State.setSel_sel, if_pos rfl]
  · rw [ht.sels]
    exact (near_sels h _).trans ht

theorem bothHives_of {t : State} {P : Hive → Prop} (h : ∀ k, P (t.hive k)) : BothHives t P := ⟨h .a, h .b⟩

end Sys2Proof.Machine

section
open Sys2Proof Sys2Proof.Machine Sys2Proof.Claims

/-- Settles O1: a clause for each of tick, standing spine, second boundary, fall of PPS_OUT and read of TIM_NOW_0. -/
theorem ticksSecondsAndNow : Obligations.TicksSecondsAndNow := by
  unfold Obligations.TicksSecondsAndNow
  refine ⟨runs_tick, fun s h => congrArg (done s) (tickStep_stands s h), fun s hn hf hs => ?second, fun s hh hf => ?fall,
    fun p r s ⟨⟨hfree, hgate, _⟩, hj⟩ => ?now⟩
  case second =>
    have hpps := second_pps s s.tb.core.sec.toNat
    have hhold := second_holdSec s s.tb.core.sec.toNat
    have hoffset := second_offset s s.tb.core.sec.toNat
    have honly := timeOnly_second s s.tb.core.sec.toNat
    obtain ⟨t, hrun, ht⟩ := runs_secondBoundary s hn hf hs
    rw [← ht] at hpps hhold hoffset honly
    refine ⟨t, hrun, fun ha h0 h1 => ?_, hhold, hoffset, honly⟩
    have hallow : ppsAllowed s = true := by unfold ppsAllowed; simpa using ha
    obtain ⟨hrise, hout⟩ := hpps hallow h0 h1 (TimeCore.fu_whole s.tb.core hn hf)
    exact ⟨bothHives_of hrise, hout⟩
  case fall => exact ⟨_, congrArg (done s) (ppsOutFall_eq s hh hf), ⟨rfl, rfl⟩, rfl⟩
  case now =>
    have hserve : (if p = .startup then Gate.serve else gate s (pageDomain (hivePage (hiveOf s r) 0x10))) = .serve := by
      rw [pageDomain_hivePage]
      exact ite_eq_left_iff.mpr hgate.resolve_left
    obtain ⟨s', hnear, hdone, hstat, hdata⟩ := pathAccess_result p opRead _ _ 0 s hfree hj (pageOf_timNow s r) hserve
    have hoff : keyOff (hiveAddr r 0x10 Reg.TIM_NOW_0).toNat = Reg.TIM_NOW_0 := by cases r <;> rfl
    have hhive : s'.hive (hiveOf s r) = s.hive (hiveOf s r) := by cases hiveOf s r <;> [exact hnear.hiveA; exact hnear.hiveB]
    rw [hoff, perform_timNow] at hdone hstat hdata
    unfold timNow at hdone hdata
    rw [pageHive_tim, hhive, homePage_tim] at hdone hdata
    exact ⟨_, done_of_pending (hdone.pending.trans hnear.pending), hdata, hstat, timNow_sels hnear hdone⟩

end

/-! ### Cells (03_cells.md) -/

namespace Sys2Proof.Machine
open Sys2Proof.Claims

/-- A meaning that leaves the queue as it was runs to the state it gives. -/
theorem runs_of_done {i : Instr} {s t : State} {P : State → Prop} (he : exec i s = done s t) (hp : t.pending = s.pending) (h : P t) :
    Runs i s P := ⟨t, he.trans (done_of_pending hp), h⟩

/-! ### Registers of a block page -/

theorem keyPage_block (b off : Nat) (hb : b < 72) (ho : off < 2 ^ 12) : keyPage (rkey (blkPage b) off 0) = blkPage b := by
  simp only [keyPage, rkey, blkPage, page]; omega

/-- A count raised on a block page changes no register of another page. -/
theorem onlyRegs_count (s : State) (b off : Nat) (hb : b < 72) (ho : off < 2 ^ 12) :
    OnlyRegs (onPage (blkPage b)) s (s.count (blkPage b) off) := fun _ hj =>
  (tfind_tset _ _ _ _ _).trans (if_neg fun h => hj ((congrArg keyPage h).trans (keyPage_block b off hb ho)))

theorem cell_block_lt (c : Fin 1152) : c.val / 16 < 72 := by omega

/-- Of the state only one cell and the registers of its block's page differ. -/
def CellStep (c : Nat) (s t : State) : Prop :=
  t = { s with cells := t.cells, regs := t.regs } ∧ (∀ k, k ≠ c → t.cell k = s.cell k) ∧ OnlyRegs (onPage (blkPage (c / 16))) s t

theorem CellStep.trans {c : Nat} {s t u : State} (h : CellStep c s t) (k : CellStep c t u) : CellStep c s u := by
  obtain ⟨hst, hcells, hregs⟩ := h
  obtain ⟨htu, kcells, kregs⟩ := k
  refine ⟨htu.trans ?_, fun n hn => (kcells n hn).trans (hcells n hn), fun n hn => (kregs n hn).trans (hregs n hn)⟩
  rw [hst]

@[simp] theorem State.count_cell (s : State) (pg off n i k : Nat) : (s.count pg off n i).cell k = s.cell k := rfl

theorem State.setCell_self (s : State) (c : Nat) (x : Cell) : (s.setCell c x).cell c = x := (State.setCell_cell s c x c).trans (if_pos rfl)

theorem cellStep_setCell (s : State) (c : Nat) (x : Cell) : CellStep c s (s.setCell c x) :=
  ⟨rfl, fun k hk => (State.setCell_cell s c x k).trans (if_neg hk), fun _ _ => rfl⟩

theorem cellStep_count (s : State) (c off : Nat) (hc : c < 1152) (ho : off < 2 ^ 12) :
    CellStep c s (s.count (blkPage (c / 16)) off) :=
  ⟨rfl, fun _ _ => rfl, onlyRegs_count s _ _ (by omega) ho⟩

theorem onlyCell_setCell (s : State) (c : Nat) (x : Cell) : OnlyCell c s (s.setCell c x) :=
  ⟨rfl, fun k hk => (State.setCell_cell s c x k).trans (if_neg hk)⟩

theorem onlyCell_trans {c : Nat} {s t u : State} (h : OnlyCell c s t) (k : OnlyCell c t u) : OnlyCell c s u := by
  obtain ⟨hst, hcells⟩ := h
  obtain ⟨htu, kcells⟩ := k
  refine ⟨htu.trans ?_, fun n hn => (kcells n hn).trans (hcells n hn)⟩
  rw [hst]

/-! ### The order of edges (R89, R90) -/

/-- An edge of the present tick that comes alone is served as it is. -/
theorem rankEdges_single (e : EdgeIn) (h : e.next = false) : rankEdges [e] = [e] := by
  simp [rankEdges, h, insertEdge, serveOrder, nextEdge]

/-- The first tick boundary after an edge of the present tick (04_interpolators.md R121). -/
theorem launchOf_delta (s : State) (d : Fin 1000) : launchOf (s.now + 999 - (d.val : Int)) s = s.now + 1000 := by
  have hd : (s.now + 999 - (d.val : Int) - s.now).fdiv 1000 = 0 := by
    rw [Int.fdiv_eq_ediv_of_nonneg _ (by decide)]; omega
  rw [launchOf, hd]; rfl

/-! ### The interpolator pool (R89–R92) -/

/-- What an edge that reaches the pool meets: a free interpolator, only a calibrating one, or none. -/
theorem takeStamp_cases (c : Nat) (mk : Itp) (s : State) (tick : Int) :
    (∃ i, (s.cell c).itps.findIdx? (fun x => x = .free) = some i ∧
      takeStamp c mk s tick = (s.setCell c { s.cell c with itps := lset (s.cell c).itps i mk }, .waiting i)) ∨
    (∃ i, (s.cell c).itps.findIdx? (fun x => x = .free) = none ∧ pickItp (s.cell c) = some (i, true) ∧
      takeStamp c mk s tick = ((s.setCell c { s.cell c with itps := lset (s.cell c).itps i mk }).count (blkPage (c / 16)) Reg.CELL_CAL_YIELD_CNT,
        .waiting i)) ∨
    (pickItp (s.cell c) = none ∧ (s.cell c).itps.findIdx? (fun x => x = .free) = none ∧
      takeStamp c mk s tick = (s.count (blkPage (c / 16)) Reg.CELL_COARSE_CNT, .known (tick - 500) true)) := by
  unfold takeStamp
  cases hf : (s.cell c).itps.findIdx? (fun x => x = .free) with
  | some i =>
    have hp : pickItp (s.cell c) = some (i, false) := by unfold pickItp; rw [hf]
    exact .inl ⟨i, rfl, by rw [hp]; rfl⟩
  | none =>
    cases hc : (s.cell c).itps.findIdx? (fun x => x = .calib) with
    | some i =>
      have hp : pickItp (s.cell c) = some (i, true) := by unfold pickItp; rw [hf, hc]; rfl
      exact .inr (.inl ⟨i, rfl, hp, by rw [hp]; rfl⟩)
    | none =>
      have hp : pickItp (s.cell c) = none := by unfold pickItp; rw [hf, hc]; rfl
      exact .inr (.inr ⟨hp, rfl, by rw [hp]⟩)

theorem cellStep_takeStamp (c : Nat) (mk : Itp) (s : State) (tick : Int) (hc : c < 1152) : CellStep c s (takeStamp c mk s tick).1 := by
  obtain ⟨i, -, h⟩ | ⟨i, -, -, h⟩ | ⟨-, -, h⟩ := takeStamp_cases c mk s tick <;> rw [h]
  · exact cellStep_setCell _ _ _
  · exact (cellStep_setCell _ _ _).trans (cellStep_count _ _ _ hc (by decide))
  · exact cellStep_count _ _ _ hc (by decide)

/-! ### A leading edge (R86, R88, R93, R98) -/

/-- The discriminator of a threshold awaits the trailing edge of a new pulse. -/
def Cell.rearm (x : Cell) (th : Nat) : Cell :=
  noteLeading th { x with discs := lmod x.discs th (fun d => { d with ignoreTrail := false, moved := false }) }

/-- The pulse that a leading edge at `m` opens in an unmuted cell, with its stamp. -/
def openedPulse (c th m : Nat) (s : State) (st : Stamp) : Pulse :=
  { th := th, leadM := m, leadLabel := s.now + ((m : Int) - (s.mono : Int)), lead := st
    pileup := isPileup (s.cell c) (lowTh s c) th, cal := inCalWin s c m, gen := s.chip.stepGen }

/-- A cell with one more pulse. -/
def Cell.addPulse (x : Cell) (p : Pulse) : Cell := { x with pulses := x.pulses ++ [p] }

section
variable (x : Cell) (th : Nat) (p : Pulse)

@[simp] theorem Cell.rearm_pulses : (x.rearm th).pulses = x.pulses := rfl
@[simp] theorem Cell.rearm_fifo : (x.rearm th).fifo = x.fifo := rfl
@[simp] theorem Cell.rearm_itps : (x.rearm th).itps = x.itps := rfl
@[simp] theorem Cell.addPulse_pulses : (x.addPulse p).pulses = x.pulses ++ [p] := rfl
@[simp] theorem Cell.addPulse_fifo : (x.addPulse p).fifo = x.fifo := rfl
@[simp] theorem Cell.addPulse_itps : (x.addPulse p).itps = x.itps := rfl

end

/-- A leading edge that is not ignored opens its pulse with the stamp of the pool. -/
theorem leadingEdge_unmuted (c th m : Nat) (s : State) (hm : (s.cell c).muted = false) (ho : openPulse (s.cell c) th = none)
    (hi : (lget {} (s.cell c).discs th).ignoreTrail = false) :
    leadingEdge c th m s =
      let r := takeStamp c (.edge th true (launchOf (s.now + ((m : Int) - (s.mono : Int))) s) false) (s.setCell c ((s.cell c).rearm th))
        (launchOf (s.now + ((m : Int) - (s.mono : Int))) s)
      r.1.modCell c (·.addPulse (openedPulse c th m s r.2)) := by
  unfold leadingEdge
  rw [if_neg (by simp [ho, hi])]
  simp only [hm, Bool.false_and, Bool.false_eq_true, if_false]
  rfl

/-- What a leading edge gives: a pulse with the stamp of the pool, and of the rest only its cell and a count. -/
theorem leadingEdge_opens (c th m : Nat) (s : State) (hc : c < 1152) (hm : (s.cell c).muted = false)
    (ho : openPulse (s.cell c) th = none) (hi : (lget {} (s.cell c).discs th).ignoreTrail = false) (tick : Int)
    (ht : launchOf (s.now + ((m : Int) - (s.mono : Int))) s = tick) :
    CellStep c s (leadingEdge c th m s) ∧ ((leadingEdge c th m s).cell c).fifo = (s.cell c).fifo ∧
      ∃ st, ((leadingEdge c th m s).cell c).pulses = (s.cell c).pulses ++ [openedPulse c th m s st] ∧
        (∀ i, (s.cell c).itps.findIdx? (fun x => x = .free) = some i → st = .waiting i ∧
          ((leadingEdge c th m s).cell c).itps = lset (s.cell c).itps i (.edge th true tick false) ∧ OnlyCell c s (leadingEdge c th m s)) ∧
        (pickItp (s.cell c) = none → st = .known (tick - 500) true ∧ ((leadingEdge c th m s).cell c).itps = (s.cell c).itps ∧
          (leadingEdge c th m s).reg (blkPage (c / 16)) Reg.CELL_COARSE_CNT =
            satInc (s.reg (blkPage (c / 16)) Reg.CELL_COARSE_CNT) 1) := by
  rw [leadingEdge_unmuted c th m s hm ho hi, ht]
  dsimp only
  generalize hu : s.setCell c ((s.cell c).rearm th) = u
  have hcell : u.cell c = (s.cell c).rearm th := by rw [← hu, State.setCell_self]
  have hitps : (u.cell c).itps = (s.cell c).itps := by rw [hcell, Cell.rearm_itps]
  have hpick : pickItp (u.cell c) = pickItp (s.cell c) := by unfold pickItp; rw [hitps]
  have honly : OnlyCell c s u := hu ▸ onlyCell_setCell s c _
  have hstep : CellStep c s u := hu ▸ cellStep_setCell s c _
  have hreg : u.reg (blkPage (c / 16)) Reg.CELL_COARSE_CNT = s.reg (blkPage (c / 16)) Reg.CELL_COARSE_CNT := by rw [← hu]; rfl
  refine ⟨(hstep.trans (cellStep_takeStamp c _ u tick hc)).trans (cellStep_setCell _ _ _), ?_⟩
  rw [← hpick, ← hitps]
  obtain ⟨i, hfree, hr⟩ | ⟨i, hfree, hcal, hr⟩ | ⟨hnone, hfree, hr⟩ := takeStamp_cases c (.edge th true tick false) u tick <;>
    rw [hr, hfree]
  case inl =>
    refine ⟨by simp [hcell], .waiting i, by simp [hcell], ?_, ?_⟩
    · rintro k ⟨⟩
      exact ⟨rfl, by simp, onlyCell_trans honly (onlyCell_trans (onlyCell_setCell _ _ _) (onlyCell_setCell _ _ _))⟩
    · intro hnone
      unfold pickItp at hnone
      rw [hfree] at hnone
      cases hnone
  case inr.inl =>
    refine ⟨by simp [hcell], .waiting i, by simp [hcell], nofun, ?_⟩
    rw [hcal]
    exact nofun
  case inr.inr =>
    refine ⟨by simp [hcell], _, by simp [hcell], nofun, fun _ => ⟨rfl, ?_, ?_⟩⟩
    · simp
    · simp [State.count, hreg]

/-- The primitive of a leading edge noted for the trigger (06_trigger.md R192). -/
def Cell.notePrim (x : Cell) (th : Nat) (tt : Int) : Cell :=
  { x with prims := (x.prims.filter (fun p => decide (p.2 + 12 > tt))) ++ [(th, tt)] }

/-- The single leading edge of a cell that captures, is not muted, blanked or in clock-monitor mode. -/
theorem discriminatorEdges_leading (c : Nat) (th : Fin 4) (delta : Fin 1000) (s : State) (hen : cEn (s.cellCfg c) = true)
    (hcap : capturing s (c / 192) = true) (hcm : cCm (s.cellCfg c) = false) (hon : thOn s c th.val = true)
    (hmu : (s.cell c).muted = false) (hbl : (s.cell c).blankEnd = none) :
    discriminatorEdges c [⟨th, true, delta, false⟩] s =
      leadingEdge c th.val (s.mono + edgeAt ⟨th, true, delta, false⟩) (s.setCell c ((s.cell c).notePrim th.val (s.now / 8000))) := by
  unfold discriminatorEdges
  rw [if_neg (by simp [hen, hcap]), rankEdges_single _ rfl]
  have hcm' : cCm ((s.setCell c ((s.cell c).notePrim th.val (s.now / 8000))).cellCfg c) = false := hcm
  have hon' : thOn (s.setCell c ((s.cell c).notePrim th.val (s.now / 8000))) c th.val = true := by
    rw [← hon]; unfold thOn discSetting; simp [Cell.notePrim]
  rw [List.foldl_cons, List.foldl_nil]
  unfold oneEdge
  simp only [hbl, hcm, hon, hmu, Bool.false_eq_true, Bool.not_true, or_self, if_false]
  exact (if_neg (Bool.eq_false_iff.1 hcm')).trans (if_pos hon')

/-- An edge of the present tick lies at `999 - delta` fu of it. -/
theorem edgeAt_here (th : Fin 4) (rising : Bool) (delta : Fin 1000) : edgeAt ⟨th, rising, delta, false⟩ = 999 - delta.val := by
  unfold edgeAt; simp only [Bool.false_eq_true, if_false]; omega

end Sys2Proof.Machine

section
open Sys2Proof Sys2Proof.Machine Sys2Proof.Claims

/-- Settles O5: the edge is served alone, and `leadingEdge_opens` says what it does by what the pool holds. -/
theorem leadingEdgeOpensPulse : Obligations.LeadingEdgeOpensPulse := by
  unfold Obligations.LeadingEdgeOpensPulse
  intro c th delta s hen hcap hcm hon hmu hbl hop hig
  have hrun := congrArg (done s) (discriminatorEdges_leading c.val th delta s hen hcap hcm hon hmu hbl)
  generalize hu : s.setCell c.val ((s.cell c.val).notePrim th.val (s.now / 8000)) = u at hrun
  have hcell : u.cell c.val = (s.cell c.val).notePrim th.val (s.now / 8000) := by rw [← hu, State.setCell_self]
  have hnow : u.now = s.now := by rw [← hu]; rfl
  have hlabel : u.now + (((s.mono + (999 - delta.val) : Nat) : Int) - (s.mono : Int)) = s.now + 999 - (delta.val : Int) := by omega
  rw [edgeAt_here] at hrun
  obtain ⟨hstep, hfifo, st, hpulses, hfree, hnone⟩ := leadingEdge_opens c.val th.val (s.mono + (999 - delta.val)) u c.isLt
    (by rw [hcell]; exact hmu) (by rw [hcell]; exact hop) (by rw [hcell]; exact hig) (s.now + 1000)
    (by rw [← hu]; exact (congrArg (launchOf · s) (hnow ▸ hlabel)).trans (launchOf_delta s delta))
  rw [hcell] at hfifo hpulses hfree hnone
  have hreg : u.reg (blkPage (c.val / 16)) Reg.CELL_COARSE_CNT = s.reg (blkPage (c.val / 16)) Reg.CELL_COARSE_CNT := by rw [← hu]; rfl
  have honly : OnlyCell c.val s u := hu ▸ onlyCell_setCell s c.val _
  have hstart : CellStep c.val s u := hu ▸ cellStep_setCell s c.val _
  rw [hreg] at hnone
  obtain ⟨hrest, hothers, hregs⟩ := hstart.trans hstep
  refine runs_of_done hrun (by rw [hrest]) ⟨⟨_, hpulses, rfl, ?_, ?_, rfl, rfl, rfl, fun i hi => ?_, fun hp => ?_⟩,
    hfifo, hothers, hrest, hregs⟩
  · simp only [openedPulse, State.mono]; omega
  · rw [← hlabel, ← hu]; rfl
  · obtain ⟨hst, hitps, hcellOnly⟩ := hfree i hi
    exact ⟨hst, hitps, onlyCell_trans honly hcellOnly⟩
  · obtain ⟨hst, hitps, hcount⟩ := hnone hp
    exact ⟨hst.trans (congrArg (Stamp.known · true) (by omega)), hitps, hcount⟩

end

namespace Sys2Proof.Machine
open Sys2Proof.Claims

theorem onlyCell_pending {c : Nat} {s t : State} (h : OnlyCell c s t) : t.pending = s.pending := by rw [h.1]

/-! ### Records (R93–R100) -/

theorem pulseRec_open (parity : Bool) (p : Pulse) (ht : p.trail = none) (ho : p.ovf = false) : pulseRec parity p = none := by
  unfold pulseRec; rw [ht, ho]; cases p.lead <;> rfl

theorem pulseRec_closed (parity : Bool) (p : Pulse) (t u : Int) (cl ct : Bool) (hl : p.lead = .known t cl)
    (ht : p.trail = some (.known u ct)) (ho : p.ovf = false) :
    pulseRec parity p = some ⟨p.th, t, totOf t u, recFlags cl ct false p.pileup p.cal, parity, p.gen⟩ := by
  unfold pulseRec; rw [hl, ht, ho]; rfl

theorem pulseRec_ovf (parity : Bool) (p : Pulse) (t : Int) (cl : Bool) (hl : p.lead = .known t cl) (ho : p.ovf = true) :
    pulseRec parity p = some ⟨p.th, t, 16383, recFlags cl false true p.pileup p.cal, parity, p.gen⟩ := by
  unfold pulseRec; rw [hl, ho]; rfl

/-- A pulse that makes no record yet stays. -/
theorem complete_keeps (c : Nat) (s : State) (p : Pulse) (hp : (s.cell c).pulses = [p]) (hr : pulseRec s.cb128 p = none) :
    complete c s = s.setCell c { s.cell c with pulses := [p] } := by
  unfold complete
  simp [hp, hr]

/-- A record enters a cell FIFO that has room; but for the count of R103 nothing else changes. -/
theorem pushRec_room (c : Nat) (r : RawRec) (s : State) (h : (s.cell c).fifo.length < 16) :
    OnlyCell c s (pushRec c r s) ∧
      ∃ n, (pushRec c r s).cell c = { s.cell c with fifo := (s.cell c).fifo ++ [r], wrPos := (s.cell c).wrPos + 1, recs := n } := by
  unfold pushRec
  dsimp only
  split
  · exact ⟨onlyCell_setCell _ _ _, _, State.setCell_self _ _ _⟩
  · have hcount : ∀ f, (countRec c f s).cell c = { s.cell c with recs := tset 0 (s.cell c).recs f.toNat (tget 0 (s.cell c).recs f.toNat + 1) } :=
      fun f => State.setCell_self _ _ _
    rw [if_pos (by rw [hcount]; exact h)]
    refine ⟨onlyCell_trans (onlyCell_setCell _ _ _) (onlyCell_setCell _ _ _), ((countRec c (frameOf s (corrected s c r.fu)) s).cell c).recs, ?_⟩
    rw [State.modCell_eq, State.setCell_self, hcount]

/-- A pulse that is complete makes its record, which enters a cell FIFO that has room. -/
theorem complete_record (c : Nat) (s : State) (p : Pulse) (r : RawRec) (hp : (s.cell c).pulses = [p])
    (hr : pulseRec s.cb128 p = some r) (h : (s.cell c).fifo.length < 16) :
    OnlyCell c s (complete c s) ∧ ∃ n, (complete c s).cell c =
      { s.cell c with pulses := [], fifo := (s.cell c).fifo ++ [r], wrPos := (s.cell c).wrPos + 1, recs := n } := by
  have he : complete c s = pushRec c r (s.setCell c { s.cell c with pulses := [] }) := by
    unfold complete
    simp [hp, hr]
  obtain ⟨honly, n, hcell⟩ := pushRec_room c r (s.setCell c { s.cell c with pulses := [] }) (by rw [State.setCell_self]; exact h)
  rw [State.setCell_self, ← he] at hcell
  rw [← he] at honly
  exact ⟨onlyCell_trans (onlyCell_setCell _ _ _) honly, n, hcell⟩

/-! ### Conversions (04_interpolators.md R122, R127) -/

theorem clampIndex_le (b count : Nat) (s : State) (h : count ≤ 399) : clampIndex b count s = (s, count) := if_pos h

/-- A cell with interpolator `i` freed. -/
def Cell.freeItp (x : Cell) (i : Nat) : Cell := { x with itps := lset x.itps i .free }

/-- A pulse that takes the stamp of interpolator `i` for the edge of its threshold. -/
def Pulse.stamped (p : Pulse) (th : Nat) (rising : Bool) (i : Nat) (st : Stamp) : Pulse :=
  if p.th ≠ th then p
  else if rising then (if p.lead = .waiting i then { p with lead := st } else p)
  else if p.trail = some (.waiting i) then { p with trail := some st } else p

/-- A cell whose interpolator `i` is freed with a stamp for its pulses. -/
def Cell.stamped (x : Cell) (th : Nat) (rising : Bool) (i : Nat) (st : Stamp) : Cell :=
  { x.freeItp i with pulses := x.pulses.map (fun p => p.stamped th rising i st) }

section
variable (c i count : Nat) (s : State) (hn : count ≤ 399)
include hn

/-- The conversion of an edge frees its interpolator and stamps the pulses that wait for it, which then may be complete. -/
theorem conversionComplete_edge (th : Nat) (rising : Bool) (tickFu : Int)
    (h : lget .free (s.cell c).itps i = .edge th rising tickFu false) :
    ∃ u, conversionComplete c i count s = complete c u ∧ OnlyCell c s u ∧
      u.cell c = (s.cell c).stamped th rising i (.known (rawTime (s.cal (4 * c + i)).table count tickFu) false) := by
  refine ⟨(s.setCell c ((s.cell c).freeItp i)).setCell c
    ((s.cell c).stamped th rising i (.known (rawTime (s.cal (4 * c + i)).table count tickFu) false)), ?_,
    onlyCell_trans (onlyCell_setCell _ _ _) (onlyCell_setCell _ _ _), State.setCell_self _ _ _⟩
  unfold conversionComplete
  rw [h]
  simp only [clampIndex_le _ _ _ hn, State.modCell_eq, State.setCell_self]
  rfl

theorem conversionComplete_calib (h : lget .free (s.cell c).itps i = .calib) :
    conversionComplete c i count s = histogramAdd c i count (s.setCell c ((s.cell c).freeItp i)) := by
  unfold conversionComplete
  rw [h]
  simp only [clampIndex_le _ _ _ hn]
  rfl

theorem conversionComplete_stamp (tickFu : Int) (index : BitVec 32) (h : lget .free (s.cell c).itps i = .stampCm tickFu index false) :
    conversionComplete c i count s =
      sendStamp (fun m => fld (rgReg s m Reg.CAL_RG_CFG) 1 0 = 1 && fld (rgReg s m Reg.CAL_RG_CFG) 14 4 = c)
        (some index, shortOf (corrected s c (rawTime (s.cal (4 * c + i)).table count tickFu)))
        (s.setCell c ((s.cell c).freeItp i)) := by
  have hcorr : ∀ raw, corrected (s.setCell c ((s.cell c).freeItp i)) c raw = corrected s c raw := fun raw => by
    unfold corrected skewAt; simp [Cell.freeItp]; rfl
  unfold conversionComplete
  rw [h]
  simp only [clampIndex_le _ _ _ hn]
  rw [← hcorr]
  rfl

end

/-! ### Histograms (R128–R130) -/

/-- A histogram with one more entry in bin `n`; `full` passes it to the builder. -/
def ItpCal.addBin (k : ItpCal) (n : Nat) (full : Bool) : ItpCal :=
  { k with hist := tset 0 k.hist n (tget 0 k.hist n + 1), fill := k.fill + 1, waiting := full }

/-- Whether the next entry fills the histogram of interpolator `i` of a site. -/
def binFull (b i : Nat) (s : State) : Bool := decide ((s.cal (64 * b + i)).fill + 1 ≥ 2 ^ siteExp s b)

/-- A bin of a histogram that does not wait gains 1; a full one joins the builder's queue. -/
theorem binAdd_eq (b i n : Nat) (s : State) (hw : (s.cal (64 * b + i)).waiting = false) :
    binAdd b i n s =
      if binFull b i s then (s.setCal (64 * b + i) ((s.cal (64 * b + i)).addBin n (binFull b i s))).modBlock b
        (fun x => { x with buildQueue := x.buildQueue ++ [i] })
      else s.setCal (64 * b + i) ((s.cal (64 * b + i)).addBin n (binFull b i s)) :=
  if_neg (Bool.eq_false_iff.1 hw)

/-- Of the rest only the builder's queue may change. -/
theorem binAdd_rest (b i n : Nat) (s : State) (hw : (s.cal (64 * b + i)).waiting = false) :
    binAdd b i n s = { s with cals := (binAdd b i n s).cals, blocks := (binAdd b i n s).blocks } := by
  rw [binAdd_eq b i n s hw]; split <;> rfl

theorem binAdd_cal (b i n : Nat) (s : State) (hw : (s.cal (64 * b + i)).waiting = false) (m : Nat) :
    (binAdd b i n s).cal m =
      if m = 64 * b + i then (s.cal (64 * b + i)).addBin n (binFull b i s) else s.cal m := by
  rw [binAdd_eq b i n s hw]; split <;> simp

theorem histogramAdd_disabled (c i n : Nat) (s : State) (h : cEn (s.cellCfg c) = false) : histogramAdd c i n s = s := by
  unfold histogramAdd; rw [h]; rfl

theorem histogramAdd_enabled (c i n : Nat) (s : State) (h : cEn (s.cellCfg c) = true) :
    ∃ p, histogramAdd c i n s = (binAdd (c / 16) (localItp c i) n s).modCell c (fun x => { x with calPtr := p }) := by
  unfold histogramAdd; rw [h]; exact ⟨_, rfl⟩

/-- The number of a cell's interpolator among those of all sites. -/
theorem site_localItp (c i : Nat) : 64 * (c / 16) + localItp c i = 4 * c + i := by simp only [localItp]; omega

/-! ### Clock-monitor stamps (03_cells.md R105, 04_interpolators.md R139) -/

theorem tfind_map_key {α : Type} (l : Tab α) (f : Nat → α → α) (q : Nat) :
    tfind (l.map (fun e => (e.1, f e.1 e.2))) q = (tfind l q).map (f q) := by
  induction l with
  | nil => rfl
  | cons e l ih =>
    simp only [List.map_cons, tfind, ih]
    split
    · rename_i h; rw [h]; rfl
    · rfl

theorem tget_map_key {α : Type} (d : α) (l : Tab α) (f : Nat → α → α) (q : Nat) (hd : f q d = d) :
    tget d (l.map (fun e => (e.1, f e.1 e.2))) q = f q (tget d l q) := by
  unfold tget; rw [tfind_map_key]; cases tfind l q <;> simp [hd]

/-- A slot that takes stamps: one that is armed, or that has a gate. -/
def RgSlot.takes (k : RgSlot) : Bool := k.gate.isSome || !k.closed.isEmpty || decide (k.state = 1)

/-- What a stamp does to slot `n` of a hive, `ok` telling the slots it is for. -/
def stampSlot (ok : Nat → Bool) (st : Option (BitVec 32) × BitVec 32) (s : State) (n : Nat) (k : RgSlot) : RgSlot :=
  if ok n ∧ !rgReserved s n ∧ (k.gate.isSome ∨ !k.closed.isEmpty ∨ k.state = 1) then { k with stamps := k.stamps ++ [st] } else k

theorem sendStamp_rg (ok : Nat → Bool) (st : Option (BitVec 32) × BitVec 32) (s : State) (h : HiveId) (n : Nat) :
    (sendStamp ok st s).rg h n = stampSlot ok st s n (s.rg h n) := by
  have hempty : stampSlot ok st s n {} = {} := by simp [stampSlot]
  have hmap := fun l : Tab RgSlot => tget_map_key {} l (stampSlot ok st s) n hempty
  cases h with
  | a => exact hmap s.hiveA.slots
  | b => exact hmap s.hiveB.slots

/-- An armed slot, or one with an open gate, takes a stamp that is for it as its last. -/
theorem stampSlot_stamps (ok : Nat → Bool) (st : Option (BitVec 32) × BitVec 32) (s : State) (n : Nat) (k : RgSlot) (hok : ok n = true)
    (hr : rgReserved s n = false) (hk : k.state = 1 ∨ k.gate.isSome = true) : (stampSlot ok st s n k).stamps = k.stamps ++ [st] := by
  unfold stampSlot
  rw [if_pos ⟨hok, by simp [hr], hk.elim (fun h => .inr (.inr h)) .inl⟩]

/-! ### The conversions of O6 -/

section
variable (c : Fin 1152) (i : Fin 4) (count : Nat) (s : State) (hn : count ≤ 399)
include hn

theorem runs_conversion_leading (th : Nat) (tickFu : Int) (p : Pulse) (h : lget .free (s.cell c.val).itps i.val = .edge th true tickFu false)
    (hp : (s.cell c.val).pulses = [p]) (hth : p.th = th) (hl : p.lead = .waiting i.val) (ht : p.trail = none) (ho : p.ovf = false) :
    Runs (.conversionComplete (.cell c) i count) s fun t =>
      (t.cell c.val).itps = lset (s.cell c.val).itps i.val .free ∧
      (t.cell c.val).pulses = [{ p with lead := .known (rawTime (s.cal (4 * c.val + i.val)).table count tickFu) false }] ∧
      (t.cell c.val).fifo = (s.cell c.val).fifo ∧ OnlyCell c.val s t := by
  obtain ⟨u, hrun, honly, hcell⟩ := conversionComplete_edge c.val i.val count s hn th true tickFu h
  generalize Stamp.known (rawTime (s.cal (4 * c.val + i.val)).table count tickFu) false = st at hcell ⊢
  have hpulses : (u.cell c.val).pulses = [{ p with lead := st }] := by
    rw [hcell]; simp [Cell.stamped, hp, Pulse.stamped, hth, hl]
  rw [complete_keeps c.val u _ hpulses (pulseRec_open _ _ ht ho), hcell] at hrun
  have honly := onlyCell_trans honly (onlyCell_setCell u c.val { (s.cell c.val).stamped th true i.val st with pulses := [{ p with lead := st }] })
  refine runs_of_done (congrArg (done s) hrun) (onlyCell_pending honly) ⟨?_, ?_, ?_, honly⟩ <;> rw [State.setCell_self] <;> rfl

theorem runs_conversion_trailing (th : Nat) (tickFu v : Int) (cl : Bool) (p : Pulse)
    (h : lget .free (s.cell c.val).itps i.val = .edge th false tickFu false) (hp : (s.cell c.val).pulses = [p]) (hth : p.th = th)
    (hl : p.lead = .known v cl) (ht : p.trail = some (.waiting i.val)) (ho : p.ovf = false) (hroom : (s.cell c.val).fifo.length < 16) :
    Runs (.conversionComplete (.cell c) i count) s fun t =>
      (t.cell c.val).itps = lset (s.cell c.val).itps i.val .free ∧ (t.cell c.val).pulses = [] ∧
      (t.cell c.val).wrPos = (s.cell c.val).wrPos + 1 ∧
      (∃ parity, (t.cell c.val).fifo = (s.cell c.val).fifo ++ [⟨p.th, v, totOf v (rawTime (s.cal (4 * c.val + i.val)).table count tickFu),
        recFlags cl false false p.pileup p.cal, parity, p.gen⟩]) ∧ OnlyCell c.val s t := by
  obtain ⟨u, hrun, honly, hcell⟩ := conversionComplete_edge c.val i.val count s hn th false tickFu h
  generalize rawTime (s.cal (4 * c.val + i.val)).table count tickFu = raw at hcell ⊢
  have hpulses : (u.cell c.val).pulses = [{ p with trail := some (.known raw false) }] := by
    rw [hcell]; simp [Cell.stamped, hp, Pulse.stamped, hth, ht]
  obtain ⟨hrec, n, hlast⟩ := complete_record c.val u _ _ hpulses (pulseRec_closed u.cb128 _ v raw cl false hl rfl ho) (by rw [hcell]; exact hroom)
  rw [← hrun] at hrec hlast
  rw [hcell] at hlast
  have honly := onlyCell_trans honly hrec
  exact runs_of_done rfl (onlyCell_pending honly)
    ⟨congrArg Cell.itps hlast, congrArg Cell.pulses hlast, congrArg Cell.wrPos hlast, ⟨u.cb128, congrArg Cell.fifo hlast⟩, honly⟩

theorem runs_conversion_calib (h : lget .free (s.cell c.val).itps i.val = .calib) (hen : cEn (s.cellCfg c.val) = true)
    (hw : (s.cal (4 * c.val + i.val)).waiting = false) :
    Runs (.conversionComplete (.cell c) i count) s fun t =>
      (t.cell c.val).itps = lset (s.cell c.val).itps i.val .free ∧ (t.cell c.val).pulses = (s.cell c.val).pulses ∧ t.regs = s.regs ∧
      ∀ m, t.cal m = if m = 4 * c.val + i.val then (s.cal (4 * c.val + i.val)).addBin count
        (decide ((s.cal (4 * c.val + i.val)).fill + 1 ≥ 2 ^ histExp (s.reg (blkPage (c.val / 16)) Reg.CAL_CTL))) else s.cal m := by
  have hrun := conversionComplete_calib c.val i.val count s hn h
  generalize hu : s.setCell c.val ((s.cell c.val).freeItp i.val) = u at hrun
  have hcell : u.cell c.val = (s.cell c.val).freeItp i.val := by rw [← hu, State.setCell_self]
  have hcal : ∀ m, u.cal m = s.cal m := fun m => by rw [← hu]; rfl
  have hwait : (u.cal (64 * (c.val / 16) + localItp c.val i.val)).waiting = false := by rw [site_localItp, hcal]; exact hw
  have hfull : binFull (c.val / 16) (localItp c.val i.val) u =
      decide ((s.cal (4 * c.val + i.val)).fill + 1 ≥ 2 ^ histExp (s.reg (blkPage (c.val / 16)) Reg.CAL_CTL)) := by
    unfold binFull siteExp
    rw [site_localItp, hcal, if_pos (cell_block_lt c), ← hu]
    rfl
  obtain ⟨q, hadd⟩ := histogramAdd_enabled c.val i.val count u (by rw [← hu]; exact hen)
  have hcells : (binAdd (c.val / 16) (localItp c.val i.val) count u).cell c.val = u.cell c.val := by
    rw [binAdd_rest _ _ _ _ hwait]; rfl
  have hbin := binAdd_cal (c.val / 16) (localItp c.val i.val) count u hwait
  have hrest := binAdd_rest (c.val / 16) (localItp c.val i.val) count u hwait
  rw [hfull] at hbin
  generalize binAdd (c.val / 16) (localItp c.val i.val) count u = b at hadd hcells hbin hrest
  rw [hadd, State.modCell_eq] at hrun
  refine runs_of_done (congrArg (done s) hrun) ?_ ⟨?_, ?_, ?_, fun m => ?_⟩
  · rw [hrest, ← hu]; rfl
  · rw [State.setCell_self, hcells, hcell]; rfl
  · rw [State.setCell_self, hcells, hcell]; rfl
  · rw [hrest, ← hu]; rfl
  · rw [State.setCell_cal, hbin, site_localItp, hcal, hcal]

theorem runs_conversion_calib_disabled (h : lget .free (s.cell c.val).itps i.val = .calib) (hen : cEn (s.cellCfg c.val) = false) :
    Runs (.conversionComplete (.cell c) i count) s fun t =>
      (t.cell c.val).itps = lset (s.cell c.val).itps i.val .free ∧ OnlyCell c.val s t := by
  have hrun := conversionComplete_calib c.val i.val count s hn h
  rw [histogramAdd_disabled c.val i.val count (s.setCell c.val _) hen] at hrun
  exact runs_of_done (congrArg (done s) hrun) rfl ⟨by rw [State.setCell_self]; rfl, onlyCell_setCell _ _ _⟩

/-- The meaning of a stamp's conversion leaves everything but the cell and the slots of the hives. -/
theorem runs_conversion_stamp (tickFu : Int) (index : BitVec 32) (h : lget .free (s.cell c.val).itps i.val = .stampCm tickFu index false) :
    Runs (.conversionComplete (.cell c) i count) s fun t =>
      (t.cell c.val).itps = lset (s.cell c.val).itps i.val .free ∧ (∀ j, j ≠ c.val → t.cell j = s.cell j) ∧
      (∀ g n, (s.rg g n).state = 1 ∨ (s.rg g n).gate.isSome = true → rgReserved s n = false →
        fld (rgReg s n Reg.CAL_RG_CFG) 1 0 = 1 → fld (rgReg s n Reg.CAL_RG_CFG) 14 4 = c.val →
        (t.rg g n).stamps = (s.rg g n).stamps ++
          [(some index, shortOf (corrected s c.val (rawTime (s.cal (4 * c.val + i.val)).table count tickFu)))]) ∧
      t.regs = s.regs ∧ t.blocks = s.blocks ∧ t.lanes = s.lanes := by
  have hrun := conversionComplete_stamp c.val i.val count s hn tickFu index h
  refine runs_of_done (congrArg (done s) hrun) rfl ⟨?_, fun j hj => ?_, fun g n hg hr hc hcell => ?_, rfl, rfl, rfl⟩
  · exact congrArg Cell.itps (State.setCell_self _ _ _)
  · exact (State.setCell_cell _ _ _ _).trans (if_neg hj)
  · rw [sendStamp_rg]
    exact stampSlot_stamps _ _ _ n (s.rg g n) (by simp [hc, hcell]) hr hg

end

/-- A link interpolator fills its own histogram. -/
theorem linkConversion_eq (h : HiveId) (l count : Nat) (s : State) (hl : l ∈ (s.hive h).servo.linkCal) (hn : count ≤ 399) :
    linkConversion h l count s = binAdd (linkSite h) l count
      (s.modHive h (fun x => { x with servo := { x.servo with linkCal := x.servo.linkCal.filter (· ≠ l) } })) := by
  unfold linkConversion
  rw [if_neg (by simpa using hl), min_eq_right hn]

theorem runs_conversion_link (h : HiveId) (l : Fin 20) (i : Fin 4) (count : Nat) (s : State) (hl : l.val ∈ (s.hive h).servo.linkCal)
    (hn : count ≤ 399) (hw : (s.cal (64 * linkSite h + l.val)).waiting = false) :
    Runs (.conversionComplete (.link h l) i count) s fun t =>
      (∃ full, ∀ m, t.cal m = if m = 64 * linkSite h + l.val then (s.cal (64 * linkSite h + l.val)).addBin count full else s.cal m) ∧
      l.val ∉ (t.hive h).servo.linkCal ∧ t.regs = s.regs ∧ t.cells = s.cells := by
  have hrun := linkConversion_eq h l.val count s hl hn
  generalize hu : s.modHive h _ = u at hrun
  have hcal : ∀ m, u.cal m = s.cal m := fun m => by rw [← hu, State.modHive_eq, State.setHive_cal]
  have hwait : (u.cal (64 * linkSite h + l.val)).waiting = false := by rw [hcal]; exact hw
  have hrest := binAdd_rest _ _ count u hwait
  have hbin := binAdd_cal _ _ count u hwait
  rw [← hrun] at hrest hbin
  refine runs_of_done rfl ?_ ⟨⟨binFull (linkSite h) l.val u, fun m => ?_⟩, ?_, ?_, ?_⟩
  · exact (congrArg State.pending hrest).trans (by rw [← hu]; simp)
  · exact (hbin m).trans (by rw [hcal, hcal])
  · have hhive : (linkConversion h l.val count s).hive h = u.hive h :=
      (congrArg (State.hive · h) hrest).trans (by cases h <;> rfl)
    change l.val ∉ ((linkConversion h l.val count s).hive h).servo.linkCal
    rw [hhive, ← hu]
    simp
  · exact (congrArg State.regs hrest).trans (by rw [← hu]; simp)
  · exact (congrArg State.cells hrest).trans (by rw [← hu]; simp)

/-- TOT of R96 in units of 16 fu. -/
theorem totOf_eq (u v : Int) : totOf u v = if v - u < 0 then 0 else min 16383 ((v - u + 8) / 16).toNat := by
  unfold totOf
  dsimp only
  split
  · rfl
  · congr 1; omega

/-- The bins of a histogram with one more entry. -/
theorem addBin_hist (k : ItpCal) (n : Nat) (full : Bool) (m : Nat) :
    tget 0 (k.addBin n full).hist m = if m = n then tget 0 k.hist n + 1 else tget 0 k.hist m :=
  tget_tset 0 k.hist n m (tget 0 k.hist n + 1)

end Sys2Proof.Machine

section
open Sys2Proof Sys2Proof.Machine Sys2Proof.Claims

/-- Settles O6: a case for each thing an interpolator can be converting, and one for the link interpolators. -/
theorem conversionGivesTime : Obligations.ConversionGivesTime := by
  unfold Obligations.ConversionGivesTime
  refine ⟨fun c i count s hn => ⟨?leading, ?trailing, ?calib, ?disabled, ?stamp⟩, fun h l i count s hl hn hw => ?link⟩
  case leading => exact runs_conversion_leading c i count s hn
  case trailing =>
    intro th tickFu v cl p h hp hth hl ht ho hroom
    obtain ⟨t, hrun, hitps, hpulses, hpos, ⟨parity, hfifo⟩, honly⟩ := runs_conversion_trailing c i count s hn th tickFu v cl p h hp hth hl ht ho hroom
    exact ⟨t, hrun, hitps, hpulses, hpos, ⟨_, hfifo, hth, rfl, rfl, totOf_eq v _⟩, honly⟩
  case calib =>
    intro h hen hw
    obtain ⟨t, hrun, hitps, hpulses, hregs, hcal⟩ := runs_conversion_calib c i count s hn h hen hw
    have hself := (hcal _).trans (if_pos rfl)
    refine ⟨t, hrun, hitps, ?_, fun n hne => ?_, ?_, ?_, fun m hm => (hcal m).trans (if_neg hm), hpulses, hregs⟩ <;> rw [hself]
    · exact (addBin_hist _ _ _ _).trans (if_pos rfl)
    · exact (addBin_hist _ _ _ _).trans (if_neg hne)
    · rfl
    · rfl
  case disabled => exact runs_conversion_calib_disabled c i count s hn
  case stamp => exact runs_conversion_stamp c i count s hn
  case link =>
    obtain ⟨t, hrun, ⟨full, hcal⟩, hmem, hregs, hcells⟩ := runs_conversion_link h l i count s hl hn hw
    have hself := (hcal _).trans (if_pos rfl)
    refine ⟨t, hrun, ?_, ?_, hmem, fun m hm => (hcal m).trans (if_neg hm), hregs, hcells⟩ <;> rw [hself]
    · exact (addBin_hist _ _ _ _).trans (if_pos rfl)
    · rfl

end

namespace Sys2Proof.Machine
open Sys2Proof.Claims

/-! ### Elements of a list by position -/

theorem lget_lmod {α : Type} (d : α) (l : List α) (n : Nat) (f : α → α) (h : n < l.length) : lget d (lmod l n f) n = f (lget d l n) := by
  induction l generalizing n with
  | nil => cases h
  | cons x l ih =>
    cases n with
    | zero => rfl
    | succ n => exact ih n (Nat.lt_of_succ_lt_succ h)

@[simp] theorem length_lmod {α : Type} (l : List α) (n : Nat) (f : α → α) : (lmod l n f).length = l.length := by
  induction l generalizing n with
  | nil => rfl
  | cons x l ih => cases n <;> simp [lmod, ih]

/-! ### Pulses that run out (03_cells.md R97) -/

/-- TOT_OVF stands in bit 2 of a record's flags (R95). -/
theorem recFlags_ovf (cl pile cal : Bool) : (recFlags cl false true pile cal).getLsbD 2 = true := by
  cases cl <;> cases pile <;> cases cal <;> decide

/-- A discriminator whose pulse has run out under the setting `new`: its trailing edge will be ignored. -/
def Disc.drop (d : Disc) (new : BitVec 12 × BitVec 4 × Bool) : Disc := { d with ignoreTrail := true, moved := d.kept.any (· ≠ new) }

/-- A cell whose pulse `p` of a threshold has run out. -/
def Cell.runOut (x : Cell) (th : Nat) (p : Pulse) (new : BitVec 12 × BitVec 4 × Bool) : Cell :=
  { x with pulses := x.pulses.map (fun q => if q = p then { q with ovf := true } else q)
           discs := lmod (lmod x.discs th (·.drop new)) th (fun d => { d with kept := none }) }

/-- An unmuted pulse that is still open 256 ns after its leading edge is counted, and what of its record is known makes it. -/
theorem pulseTimeout_open (c th : Nat) (s : State) (p : Pulse) (hp : openPulse (s.cell c) th = some p) (hm : p.muted = false)
    (ht : ¬ s.mono + 1000 ≤ p.leadM + 262144) :
    ∃ u new, pulseTimeout c th s = complete c u ∧ OnlyCell c (s.count (blkPage (c / 16)) Reg.CELL_LONG_CNT) u ∧
      u.cell c = (s.cell c).runOut th p new := by
  unfold pulseTimeout
  rw [hp]
  simp only [if_neg ht, hm, Bool.false_eq_true, if_false, closeTh, State.modCell_eq, State.count_cell, State.setCell_self]
  exact ⟨_, _, rfl, onlyCell_trans (onlyCell_setCell _ _ _) (onlyCell_setCell _ _ _), State.setCell_self _ _ _⟩

/-- The timeout of a cell's only pulse (R97). -/
theorem runs_pulseTimeout (c : Fin 1152) (th : Fin 4) (p : Pulse) (u : Int) (cl : Bool) (s : State) (hp : (s.cell c.val).pulses = [p])
    (hth : p.th = th.val) (hl : p.lead = .known u cl) (ht : p.trail = none) (ho : p.ovf = false) (hm : p.muted = false)
    (hdue : p.leadM + 262144 < 1000 * s.tick + 1000) (hroom : (s.cell c.val).fifo.length < 16) :
    Runs (.pulseTimeout c th) s fun t => OnlyCell c.val (s.count (blkPage (c.val / 16)) Reg.CELL_LONG_CNT) t ∧
      ∃ new parity n, t.cell c.val = { (s.cell c.val).runOut th.val p new with
        pulses := [], wrPos := (s.cell c.val).wrPos + 1, recs := n
        fifo := (s.cell c.val).fifo ++ [⟨p.th, u, 16383, recFlags cl false true p.pileup p.cal, parity, p.gen⟩] } := by
  have hopen : openPulse (s.cell c.val) th.val = some p := by unfold openPulse; simp [hp, hth, ht, ho]
  obtain ⟨v, new, hrun, honly, hcell⟩ := pulseTimeout_open c.val th.val s p hopen hm (by simp only [State.mono]; omega)
  have hpulses : (v.cell c.val).pulses = [{ p with ovf := true }] := by rw [hcell]; simp [Cell.runOut, hp]
  obtain ⟨hrec, n, hlast⟩ := complete_record c.val v _ _ hpulses (pulseRec_ovf v.cb128 _ u cl hl rfl) (by rw [hcell]; exact hroom)
  rw [← hrun] at hrec hlast
  rw [hcell] at hlast
  have honly := onlyCell_trans honly hrec
  exact runs_of_done rfl ((onlyCell_pending honly).trans (State.setReg_pending ..)) ⟨honly, new, v.cb128, n, hlast⟩

/-! ### Blanking and random edges (03_cells.md R87, 04_interpolators.md R129, 10_time_transfer.md R331) -/

theorem blankingEnd_due (c e : Nat) (s : State) (he : (s.cell c).blankEnd = some e) (hdue : e < 1000 * s.tick + 1000) :
    blankingEnd c s = s.setCell c { s.cell c with blankEnd := none } := by
  unfold blankingEnd
  rw [he]
  exact if_neg (by simp only [State.mono]; omega)

/-- A random edge that the pointer's interpolator takes up. -/
theorem randomEdge_taken (c : Nat) (s : State) (hctl : bit (s.reg (blkPage (c / 16)) Reg.CAL_CTL) 0 = true)
    (hen : cEn (s.cellCfg c) = true) (hcap : capturing s (c / 192) = true) (hfree : (s.cell c).itps = [.free, .free, .free, .free])
    (hpass : passedOver s c (nextCal s c (s.cell c).calPtr) = false) :
    randomEdge c s = s.setCell c { s.cell c with
      calPtr := nextCal s c (s.cell c).calPtr
      itps := lset [.free, .free, .free, .free] (nextCal s c (s.cell c).calPtr) .calib } := by
  unfold randomEdge
  rw [if_pos ⟨hctl, hen, hcap, by rw [hfree]; decide, by rw [hpass]; rfl⟩, State.modCell_eq, hfree]

/-- A random edge that a link interpolator takes up. -/
theorem linkEdge_taken (h : HiveId) (l : Nat) (s : State) (hs : s.chip.started = true) (hr : (s.domain (hiveDom h)).inReset = false)
    (hd : (s.domain (hiveDom h)).state = .run ∨ (s.domain (hiveDom h)).state = .idle)
    (hw : (s.cal (64 * linkSite h + l)).waiting = false) :
    ∃ x, linkEdge h l s = s.setHive h x ∧ l ∈ x.servo.linkCal := by
  unfold linkEdge
  rw [if_neg (by simpa [hs, hr, hw] using not_or.2.mt (not_not.2 hd))]
  refine ⟨_, rfl, ?_⟩
  by_cases hl : l ∈ (s.hive h).servo.linkCal <;> simp [hl]

/-! ### End-of-frame markers (03_cells.md R102, 05_blocks_regions.md R157) -/

/-- The marker stands behind the records up to the last one of the frame or of an earlier one. -/
theorem markerPos_split (s : State) (c : Nat) (f : BitVec 40) (before after : List RawRec) (hfifo : (s.cell c).fifo = before ++ after)
    (hafter : ∀ r ∈ after, ¬ frameDiff (frameOf s (corrected s c r.fu)) f ≤ 0)
    (hbefore : before = [] ∨ ∃ r, before.getLast? = some r ∧ frameDiff (frameOf s (corrected s c r.fu)) f ≤ 0) :
    markerPos s c f = (s.cell c).rdPos + before.length := by
  unfold markerPos
  dsimp only
  rw [hfifo, List.reverse_append, List.dropWhile_append_of_pos]
  · obtain rfl | ⟨r, hlast, hown⟩ := hbefore
    · rfl
    · obtain ⟨l, rfl⟩ := List.getLast?_eq_some_iff.1 hlast
      rw [List.reverse_append, List.reverse_singleton, List.singleton_append, List.dropWhile_cons_of_neg (by simpa using hown)]
      simp
  · intro r hr
    simpa using hafter r (List.mem_reverse.1 hr)

/-- The marker of a cell for its block's only slot. -/
theorem eofMarker_places (c : Nat) (k : Slot) (s : State) (hslots : (s.block (c / 16)).slots = [k])
    (hmark : k.markers.getLsbD (c % 16) = false) (hnone : (s.cell c).markers = [])
    (hdrain : k.drainTick.isSome = true ∨ outPassed s (c / 16) k.stop = true) (hpend : framePending s c k.frame = false)
    (hover : slotOver s c k = true) :
    eofMarker c s = applyMarkers c (s.setCell c { s.cell c with markers := [(k.frame, markerPos s c k.frame)] }) := by
  have hdrain' : (k.drainTick.isNone && !outPassed s (c / 16) k.stop) = false := by
    rcases hdrain with h | h
    · rw [← Option.not_isSome, h]; rfl
    · rw [h]; simp
  unfold eofMarker
  simp [hslots, hmark, hnone, hdrain', hpend, hover]

/-- A marker behind the point read waits. -/
theorem applyMarkers_waits (c : Nat) (s : State) (f : BitVec 40) (n : Nat) (hm : (s.cell c).markers = [(f, n)])
    (hn : (s.cell c).rdPos < n) : applyMarkers c s = s.setCell c { s.cell c with markers := [(f, n)] } := by
  unfold applyMarkers
  simp [hm, hn]

/-- A marker at the point read is applied to its slot. -/
theorem applyMarkers_ready (c : Nat) (s : State) (f : BitVec 40) (n : Nat) (hm : (s.cell c).markers = [(f, n)])
    (hn : n ≤ (s.cell c).rdPos) : applyMarkers c s = (s.setCell c { s.cell c with markers := [] }).modSlot (c / 16) f
      (fun k => { k with markers := k.markers ||| (1#16 <<< (c % 16)) }) := by
  unfold applyMarkers
  simp [hm, hn]

/-- A change of a block's only slot. -/
theorem modSlot_only (s : State) (b : Nat) (k : Slot) (g : Slot → Slot) (h : (s.block b).slots = [k]) :
    ((s.modSlot b k.frame g).block b).slots = [g k] := by
  unfold State.modSlot
  rw [State.modBlock_eq, State.setBlock_block, if_pos rfl, h]
  simp

/-- The bit of a cell that a marker sets in its slot. -/
theorem marker_bit (m : BitVec 16) (c : Nat) : (m ||| (1#16 <<< (c % 16))).getLsbD (c % 16) = true := by
  have : c % 16 < 16 := Nat.mod_lt _ (by decide)
  simp [this]

/-- The marker of O7, by whether a record of the frame still stands before it. -/
theorem runs_eofMarker (c : Fin 1152) (k : Slot) (s : State) (hslots : (s.block (c.val / 16)).slots = [k])
    (hmark : k.markers.getLsbD (c.val % 16) = false) (hnone : (s.cell c.val).markers = [])
    (hdrain : k.drainTick.isSome = true ∨ outPassed s (c.val / 16) k.stop = true) (hpend : framePending s c.val k.frame = false)
    (hover : slotOver s c.val k = true) (before after : List RawRec) (hfifo : (s.cell c.val).fifo = before ++ after)
    (hafter : ∀ r ∈ after, ¬ frameDiff (frameOf s (corrected s c.val r.fu)) k.frame ≤ 0)
    (hbefore : before = [] ∨ ∃ r, before.getLast? = some r ∧ frameDiff (frameOf s (corrected s c.val r.fu)) k.frame ≤ 0) :
    Runs (.eofMarker c) s fun t =>
      (before ≠ [] → (t.cell c.val).markers = [(k.frame, (s.cell c.val).rdPos + before.length)]) ∧
      (before = [] → (t.cell c.val).markers = [] ∧
        ∃ q, (t.block (c.val / 16)).slots = [q] ∧ q.markers.getLsbD (c.val % 16) = true) ∧
      (t.cell c.val).fifo = (s.cell c.val).fifo ∧ t = { s with cells := t.cells, blocks := t.blocks } ∧
      ∀ j, j ≠ c.val → t.cell j = s.cell j := by
  have hrun := eofMarker_places c.val k s hslots hmark hnone hdrain hpend hover
  rw [markerPos_split s c.val k.frame before after hfifo hafter hbefore] at hrun
  generalize hu : s.setCell c.val _ = u at hrun
  have hcell : u.cell c.val = { s.cell c.val with markers := [(k.frame, (s.cell c.val).rdPos + before.length)] } := by
    rw [← hu, State.setCell_self]
  have hmarkers : (u.cell c.val).markers = [(k.frame, (s.cell c.val).rdPos + before.length)] := by rw [hcell]
  have hothers : ∀ j, j ≠ c.val → u.cell j = s.cell j := fun j hj => by rw [← hu, State.setCell_cell, if_neg hj]
  rcases Nat.eq_zero_or_pos before.length with h0 | h0
  · have hnil : before = [] := List.eq_nil_of_length_eq_zero h0
    rw [applyMarkers_ready c.val u _ _ hmarkers (by rw [hcell, h0]; exact le_rfl)] at hrun
    refine runs_of_done (congrArg (done s) hrun) (by rw [← hu]; rfl) ⟨fun h => absurd hnil h, fun _ => ⟨?_, ?_⟩, ?_, ?_, fun j hj => ?_⟩
    · exact congrArg Cell.markers (State.setCell_self _ _ _)
    · exact ⟨_, modSlot_only _ _ k _ (by rw [← hu]; exact hslots), marker_bit _ _⟩
    · exact (congrArg Cell.fifo (State.setCell_self _ _ _)).trans (by rw [hcell])
    · rw [← hu]; rfl
    · exact (State.setCell_cell _ _ _ _).trans ((if_neg hj).trans (hothers j hj))
  · have hne : before ≠ [] := List.ne_nil_of_length_pos h0
    rw [applyMarkers_waits c.val u _ _ hmarkers (by rw [hcell]; exact Nat.lt_add_of_pos_right h0)] at hrun
    refine runs_of_done (congrArg (done s) hrun) (by rw [← hu]; rfl) ⟨fun _ => ?_, fun h => absurd h hne, ?_, ?_, fun j hj => ?_⟩
    · rw [State.setCell_self]
    · rw [State.setCell_self, hcell]
    · rw [← hu]; rfl
    · rw [State.setCell_cell, if_neg hj, hothers j hj]

end Sys2Proof.Machine

section
open Sys2Proof Sys2Proof.Machine Sys2Proof.Claims

/-- Settles O7: a case for each of timeout, end of blanking, random edge of a cell and of a link, and marker. -/
theorem cellEvents : Obligations.CellEvents := by
  unfold Obligations.CellEvents
  refine ⟨fun c th p u cl s hp hth hl ht ho hm hdue hroom => ?timeout, fun c e s he hdue => ?blanking,
    fun c s hctl hen hcap hfree hpass => ?random, fun h l s hs hr hd hw => ?link,
    fun c k s hslots hmark hnone hdrain hpend hover before after hfifo hafter hbefore => ?marker⟩
  case timeout =>
    obtain ⟨t, hrun, honly, new, parity, n, hcell⟩ := runs_pulseTimeout c th p u cl s hp hth hl ht ho hm hdue hroom
    have hregs : t.regs = (s.count (blkPage (c.val / 16)) Reg.CELL_LONG_CNT).regs := by rw [honly.1]
    have hdiscs : (t.cell c.val).discs = _ := congrArg Cell.discs hcell
    refine ⟨t, hrun, ?_, congrArg Cell.pulses hcell, ⟨_, congrArg Cell.fifo hcell, hth, rfl, rfl, recFlags_ovf _ _ _⟩, fun hlen => ?_, ?_,
      honly.2, fun j hj => ?_⟩
    · unfold State.reg
      rw [hregs]
      exact (State.setReg_reg ..).trans (if_pos rfl)
    · rw [hdiscs, Cell.runOut, lget_lmod _ _ _ _ (by rwa [length_lmod]), lget_lmod _ _ _ _ hlen]
      rfl
    · rw [honly.1]; rfl
    · rw [hregs]; exact (tfind_tset _ _ _ _ _).trans (if_neg hj)
  case blanking =>
    exact runs_of_done (congrArg (done s) (blankingEnd_due c.val e s he hdue)) rfl ⟨State.setCell_self _ _ _, onlyCell_setCell _ _ _⟩
  case random =>
    have hrun := congrArg (done s) (randomEdge_taken c.val s hctl hen hcap hfree hpass)
    refine runs_of_done hrun rfl ⟨?_, ?_, onlyCell_setCell _ _ _⟩ <;> rw [State.setCell_self]
  case link =>
    obtain ⟨x, hrun, hmem⟩ := linkEdge_taken h l.val s hs hr hd hw
    refine runs_of_done (congrArg (done s) hrun) (by simp) ⟨?_, by simp, by simp, by simp⟩
    rw [State.setHive_hive, if_pos rfl]
    exact hmem
  case marker =>
    exact runs_eofMarker c k s hslots hmark hnone hdrain hpend hover before after hfifo hafter hbefore

end

namespace Sys2Proof.Machine

/-! ### What the honey store and the queue engine are made of

Whatever an operation of a hive's store or queues does is a sequence of a few kinds of change, and the events that it gives rise to are
bits of the hive's own pages and errors of the hive's first two guard sources. A frame of all these operations is then one induction. -/

/-- A hive's pages that the store and the queue engine count and mark. -/
abbrev engineGroup (g : Nat) : Prop := g = 0x17 ∨ g = 0x1B

/-- The state `t` and the events `es` that an operation of the store or the queues can make of `s`. -/
inductive Engine : State → State → List Ev → Prop
  | refl (s) : Engine s s []
  | hive (s) (h : HiveId) (x : Hive) : Engine s (s.setHive h x) []
  | worker (s) (w : Nat) (x : Worker) : Engine s (s.setWorker w x) []
  | free (s : State) : Engine s s.free.2 []
  | count (s) (h : HiveId) (g off n : Nat) (hg : engineGroup g) (ho : off < 2 ^ 12) : Engine s (s.count (hivePage h g) off n) []
  | mark (s) (h : HiveId) (g off bits : Nat) (hg : engineGroup g) (ho : off < 2 ^ 12) : Engine s s [.raise (hivePage h g) off bits]
  | error (s) (h : HiveId) (src : Nat) (hs : src ≤ 1) : Engine s s [.guard (hiveDom h) src]
  | trans {s t u : State} {d e : List Ev} : Engine s t d → Engine t u e → Engine s u (d ++ e)

namespace Engine
variable {s t u : State} {e : List Ev}

/-- A change without events after an operation. -/
theorem step (h : Engine s t e) (k : Engine t u []) : Engine s u e := List.append_nil e ▸ h.trans k

theorem modHoney (s : State) (h : HiveId) (f : Honey → Honey) : Engine s (s.modHoney h f) [] := .hive _ _ _
theorem modQueue (s : State) (h : HiveId) (q : Nat) (f : Queue → Queue) : Engine s (s.modQueue h q f) [] := .hive _ _ _

theorem hsmCount (s : State) (h : HiveId) (off n : Nat) (ho : off < 2 ^ 12) : Engine s (s.count (hsmPage h) off n) [] :=
  .count s h 0x1B off n (.inr rfl) ho

theorem hsmMark (s : State) (h : HiveId) (off bits : Nat) (ho : off < 2 ^ 12) : Engine s s [.raise (hsmPage h) off bits] :=
  .mark s h 0x1B off bits (.inr rfl) ho

/-- A fold each step of which goes on from what an operation has made. -/
theorem foldl {α : Type} (l : List α) (f : State × List Ev → α → State × List Ev)
    (hf : ∀ p x, Engine s p.1 p.2 → Engine s (f p x).1 (f p x).2) (p : State × List Ev) (hp : Engine s p.1 p.2) :
    Engine s (l.foldl f p).1 (l.foldl f p).2 := by
  induction l generalizing p with
  | nil => exact hp
  | cons x l ih => exact ih _ (hf p x hp)

end Engine

section
variable (s : State) (h : HiveId)

theorem logAdd_engine (e : LogEnt) : Engine s (logAdd s h e).1 (logAdd s h e).2 := by
  have lost (t : State) : Engine t (t.count (hsmPage h) Reg.HSM_LOG_LOST_CNT) [.raise (hsmPage h) Reg.HSM_EVENTS 4] :=
    (Engine.hsmCount t h _ 1 (by decide)).trans (.hsmMark _ h _ _ (by decide))
  unfold logAdd
  dsimp only
  split
  · dsimp only; exact .modHoney s h _
  · split
    · exact lost s
    · split
      · exact (Engine.modHoney s h _).trans (lost _)
      · exact lost s

theorem bucketAdd_engine (bank : Nat) : Engine s (bucketAdd s h bank).1 (bucketAdd s h bank).2 := by
  unfold bucketAdd
  dsimp only
  have mark (t : State) : Engine t t [if bank < 32 then .raise (hsmPage h) Reg.HSM_BUCKET_OVF (2 ^ bank)
      else .raise (hsmPage h) Reg.HSM_BUCKET_OVF_HI (2 ^ (bank - 32))] := by
    split
    · exact .hsmMark t h _ _ (by decide)
    · exact .hsmMark t h _ _ (by decide)
  split
  · dsimp only; exact (Engine.modHoney s h _).trans (mark _)
  · dsimp only; exact .modHoney s h _

theorem makePoison_engine (agent w : Nat) (x : W64) : Engine s (makePoison s h agent w x).1 (makePoison s h agent w x).2 :=
  ((((Engine.modHoney s h _).trans (.hsmCount _ h _ 1 (by decide))).trans (logAdd_engine _ h _)).trans
    ((Engine.hsmMark _ h _ _ (by decide)).trans (.error _ h 0 (by decide))))

theorem correctable_engine (agent w pos : Nat) : Engine s (correctable s h agent w pos).1 (correctable s h agent w pos).2 :=
  (((Engine.modHoney s h _).trans (.hsmCount _ h _ 1 (by decide))).trans (bucketAdd_engine _ h _)).trans (logAdd_engine _ h _)

theorem retiredAccess_engine (agent w : Nat) : Engine s (retiredAccess s h agent w).1 (retiredAccess s h agent w).2 :=
  ((Engine.hsmCount s h _ 1 (by decide)).trans (logAdd_engine _ h _)).trans (.hsmMark _ h _ _ (by decide))

theorem storeRead_engine (agent w : Nat) : Engine s (storeRead s h agent w).1 (storeRead s h agent w).2.1 := by
  have b : Engine s (s.modHoney h writeBack) [] := .modHoney _ _ _
  unfold storeRead
  dsimp only
  split
  · exact b.trans (retiredAccess_engine _ _ _ _)
  · split
    · exact b
    · split
      · exact b
      · exact b
      · split
        · exact b
        · exact b.trans (correctable_engine _ _ _ _ _)
        · split
          · exact b.trans (makePoison_engine _ _ _ _ _)
          · exact b.trans (.free _)

theorem storeWrite_engine (agent w : Nat) (x : W64) (p : Bool) :
    Engine s (storeWrite s h agent w x p).1 (storeWrite s h agent w x p).2.1 := by
  have b : Engine s (s.modHoney h writeBack) [] := .modHoney _ _ _
  unfold storeWrite
  dsimp only
  split
  · exact b.trans (retiredAccess_engine _ _ _ _)
  · dsimp only; exact b.trans (.modHoney _ h _)

theorem backLine_engine (c : CLine) : Engine s (backLine s h c).1 (backLine s h c).2 := by
  unfold backLine
  exact Engine.foldl _ _ (fun _ _ hp => hp.trans (storeWrite_engine _ _ _ _ _ _)) _ (.refl s)

theorem backAll_engine (hs : List (Nat × CLine)) :
    let r := hs.foldl (fun (p : State × List Ev) (x : Nat × CLine) =>
      if x.2.state = .m then ((backLine p.1 h x.2).1, p.2 ++ (backLine p.1 h x.2).2) else (p.1, p.2)) (s, [])
    Engine s r.1 r.2 := by
  refine Engine.foldl _ _ (fun p x hp => ?_) _ (.refl s)
  split
  · exact hp.trans (backLine_engine _ _ _)
  · exact hp

theorem recallRead_engine (line : Nat) : Engine s (recallRead s h line).1 (recallRead s h line).2 := by
  unfold recallRead
  split
  · exact .refl s
  · exact (backAll_engine s h _).step (.hive _ _ _)

theorem recallInv_engine (line : Nat) : Engine s (recallInv s h line).1 (recallInv s h line).2 := by
  unfold recallInv
  split
  · exact .refl s
  · exact (backAll_engine s h _).step (.hive _ _ _)

theorem hReadE_engine (agent w : Nat) : Engine s (hReadE s h agent w).1 (hReadE s h agent w).2.1 :=
  (recallRead_engine s h _).trans (storeRead_engine _ h _ _)

theorem hWriteE_engine (agent w : Nat) (x : W64) : Engine s (hWriteE s h agent w x).1 (hWriteE s h agent w x).2.1 :=
  (recallInv_engine s h _).trans (storeWrite_engine _ h _ _ _ _)

theorem putPtr_engine (q i : Nat) (p : BitVec 32) : Engine s (putPtr s h q i p).1 (putPtr s h q i p).2 := hWriteE_engine _ _ _ _ _

theorem dropOpen_engine (q r : Nat) : Engine s (dropOpen s h q r) [] := by
  unfold dropOpen
  dsimp only
  split
  · split
    · exact ((Engine.modQueue s h q _).trans (.worker _ _ _)).trans (.modQueue _ _ _ _)
    · exact (Engine.modQueue s h q _).trans (.modQueue _ _ _ _)
  · exact .modQueue _ _ _ _

theorem abandonFrame_engine (f : BitVec 40) : Engine s (abandonFrame s h f).1 (abandonFrame s h f).2 := by
  unfold abandonFrame
  dsimp only
  split
  · exact .refl s
  · refine Engine.foldl _ _ (fun p x hp => ?_) _ (.hive _ _ _)
    split
    · exact ((hp.trans (hReadE_engine _ _ _ _)).trans (putPtr_engine _ _ _ _ _)).step (dropOpen_engine _ _ _ _)
    · exact hp

theorem frameQueueReset_engine (q : Nat) : Engine s (frameQueueReset s h q).1 (frameQueueReset s h q).2 := by
  unfold frameQueueReset
  dsimp only
  split
  · exact Engine.foldl _ _ (fun p x hp => hp.trans (abandonFrame_engine _ _ _)) _ (.hive _ _ _)
  · exact .refl s

theorem qResetE_engine (q : Nat) (host : Bool) : Engine s (qResetE s h q host).1 (qResetE s h q host).2 := by
  unfold qResetE
  dsimp only
  have b := ((((putPtr_engine s h q 1 0).trans (putPtr_engine _ h q 2 0)).trans (putPtr_engine _ h q 3 0)).step
    (dropOpen_engine _ h q qWasReset)).step (.modQueue _ h q (fun x => { x with seq := 0, freed := [] }))
  have notice (u : State) : Engine u (if q = 0 then u.modHive h (fun x => { x with noticeReset := true }) else u) [] := by
    split
    · exact .hive _ _ _
    · exact .refl u
  have mark (u : State) : Engine u (u.count (qPage h) Reg.Q_RESET_CNT) [.raise (qPage h) Reg.Q_EVENTS 1] :=
    (Engine.count u h 0x17 _ 1 (.inl rfl) (by decide)).trans (.mark _ h 0x17 _ _ (.inl rfl) (by decide))
  have told (u : State) : Engine u u (if host then [] else [.guard (hiveDom h) 1]) := by
    split
    · exact .refl u
    · exact .error u h 1 (by decide)
  exact ((((b.step (notice _)).trans (frameQueueReset_engine _ h q)).trans (mark _)).trans (told _))

theorem qDescHead_engine (q : Nat) : Engine s (qDescHead s h q).1 (qDescHead s h q).2.1 := by
  unfold qDescHead
  have b := hReadE_engine s h agQueue (4 * q)
  generalize hReadE s h agQueue (4 * q) = r at b ⊢
  dsimp only
  split
  · dsimp only
    exact (b.trans (hWriteE_engine _ h agQueue (4 * q) _)).step (.modQueue _ h q _)
  · exact b

theorem closeOpen_engine (q : Nat) (p : BitVec 32) : Engine s (closeOpen s h q p).1 (closeOpen s h q p).2 := by
  unfold closeOpen
  split
  · exact .refl s
  · exact (putPtr_engine s h q 3 p).step (dropOpen_engine _ h q qAborted)

theorem qDescE_engine (q : Nat) : Engine s (qDescE s h q).1 (qDescE s h q).2.1 := by
  unfold qDescE
  have b := qDescHead_engine s h q
  generalize qDescHead s h q = d at b ⊢
  dsimp only
  have b := b.trans (hReadE_engine d.1 h agQueue (4 * q + 1))
  generalize hReadE d.1 h agQueue (4 * q + 1) = r at b ⊢
  have b := b.trans (hReadE_engine r.1 h agQueue (4 * q + 2))
  generalize hReadE r.1 h agQueue (4 * q + 2) = u at b ⊢
  have b := b.trans (hReadE_engine u.1 h agQueue (4 * q + 3))
  generalize hReadE u.1 h agQueue (4 * q + 3) = v at b ⊢
  split
  · exact b.trans (qResetE_engine _ h q false)
  · split
    · exact b.trans (closeOpen_engine _ h q _)
    · exact b

theorem takeOwed_engine (t : State) (q r : Nat) (p : Producer) (e : takeOwed s h q p = some (t, r)) : Engine s t [] := by
  unfold takeOwed at e
  split at e
  · cases e
  · split at e
    · cases e; exact .modQueue _ _ _ _
    · cases e

theorem qReserveE_engine (q : Nat) (p : Producer) (n : Nat) : Engine s (qReserveE s h q p n).1 (qReserveE s h q p n).2.1 := by
  unfold qReserveE
  have b := qDescE_engine s h q
  generalize qDescE s h q = r at b ⊢
  obtain ⟨t, e, d⟩ := r
  dsimp only at b ⊢
  split
  · exact .refl s
  · split
    · rename_i hp
      exact b.step (takeOwed_engine _ h _ q _ p hp)
    · split
      · exact b
      · split
        · split
          · exact b
          · split
            · exact b
            · split
              · exact b
              · dsimp only; exact (b.trans (putPtr_engine t h q 3 _)).step (.modQueue _ h q _)
        · split
          · exact b
          · split
            · exact b
            · dsimp only; exact (b.trans (putPtr_engine t h q 3 _)).step (.modQueue _ h q _)

theorem rewindE_engine (q : Nat) (d : Desc) : Engine s (rewindE s h q d).1 (rewindE s h q d).2 := by
  unfold rewindE
  dsimp only
  exact (putPtr_engine s h q 3 d.tail).step (.modQueue _ h q _)

theorem qWriteE_engine (q : Nat) (p : Producer) (w : W64) : Engine s (qWriteE s h q p w).1 (qWriteE s h q p w).2.1 := by
  unfold qWriteE
  have b := qDescE_engine s h q
  generalize qDescE s h q = r at b ⊢
  obtain ⟨t, e, d⟩ := r
  dsimp only at b ⊢
  split
  · exact .refl s
  · split
    · rename_i hp
      exact b.step (takeOwed_engine _ h _ q _ p hp)
    · split
      · exact b
      · split
        · exact b.trans (rewindE_engine t h q d)
        · have c := b.trans (hWriteE_engine t h agQueue (ringAddr d.d0 (d.tail + BitVec.ofNat 32 ((t.queue h q).written + 1))) w)
          split
          · exact c.trans (rewindE_engine _ h q d)
          · dsimp only; exact c.step (.modQueue _ h q _)

theorem qCommitE_engine (q : Nat) (p : Producer) : Engine s (qCommitE s h q p).1 (qCommitE s h q p).2.1 := by
  unfold qCommitE
  cases qClass q with
  | none => exact .refl s
  | some cls =>
    have b := qDescE_engine s h q
    generalize qDescE s h q = r at b ⊢
    obtain ⟨t, e, d⟩ := r
    dsimp only at b ⊢
    split
    · rename_i hp
      exact b.step (takeOwed_engine _ h _ q _ p hp)
    · split
      · exact b
      · split
        · exact b.trans (rewindE_engine t h q d)
        · have c := b.trans (hWriteE_engine t h agQueue (ringAddr d.d0 d.tail) (packetWord (t.queue h q).written cls (t.queue h q).seq))
          split
          · exact c.trans (rewindE_engine _ h q d)
          · dsimp only; exact ((c.trans (putPtr_engine _ h q 3 _)).trans (putPtr_engine _ h q 2 _)).step (.modQueue _ h q _)

theorem qWriteList_engine (q : Nat) (p : Producer) (ws : List W64) : Engine s (qWriteList h q p ws s).1 (qWriteList h q p ws s).2.1 := by
  induction ws generalizing s with
  | nil => exact .refl s
  | cons w ws ih =>
    unfold qWriteList
    dsimp only
    split
    · exact qWriteE_engine s h q p w
    · exact (qWriteE_engine s h q p w).trans (ih _)

theorem qPutE_engine (q : Nat) (p : Producer) (ws : List W64) : Engine s (qPutE s h q p ws).1 (qPutE s h q p ws).2.1 := by
  unfold qPutE
  have b := qReserveE_engine s h q p ws.length
  dsimp only
  split
  · exact b
  · split
    · exact b.trans (qWriteList_engine _ h q p ws)
    · exact (b.trans (qWriteList_engine _ h q p ws)).trans (qCommitE_engine _ h q p)

theorem noticePut_engine (w : W64 × W64) : Engine s (noticePut s h w).1 (noticePut s h w).2 := by
  unfold noticePut
  have b := qPutE_engine s h 0 .device [w.1, w.2]
  dsimp only
  split
  · exact b.step (.hive _ _ _)
  · exact (b.step (.hive _ _ _)).trans ((Engine.count _ h 0x17 _ 1 (.inl rfl) (by decide)).trans (.mark _ h 0x17 _ _ (.inl rfl) (by decide)))

theorem noticeE_engine (pg off bits : Nat) : Engine s (noticeE s pg off bits).1 (noticeE s pg off bits).2 :=
  ((qDescE_engine s _ 0).step (.hive _ _ _)).trans (noticePut_engine _ _ _)

end

/-! ### Guard sources that the delivery of other events leaves alone -/

/-- A guard source that no store and no queue reports to (14_redundancy_faults.md R453, R454): any of a comb, and those of a hive but its
first two. -/
def Spared (g src : Nat) : Prop := g < 8 ∧ (g < 6 ∨ 1 < src)

/-- The register that counts a guard source lies at one offset of a page of one group. -/
def GuardCount (k : Nat) : Prop := k % 2 ^ 12 = Reg.GRD_SRC_CNT ∧ k / 2 ^ 20 % 2 ^ 8 = 0x05

theorem guardCount_key (g src : Nat) : GuardCount (rkey (grdPage g) Reg.GRD_SRC_CNT src) := by
  unfold GuardCount
  simp only [rkey, grdPage, page, regionCode, Reg.GRD_SRC_CNT]
  split <;> omega

theorem not_guardCount_off (pg off : Nat) (hp : pg % 2 ^ 12 = 0) (ho : off < 2 ^ 12) (hne : off ≠ Reg.GRD_SRC_CNT) :
    ¬ GuardCount (rkey pg off 0) := by
  rintro ⟨h, -⟩
  simp only [rkey] at h
  omega

theorem not_guardCount_engine (h : HiveId) (g off : Nat) (hg : engineGroup g) (ho : off < 2 ^ 12) : ¬ GuardCount (rkey (hivePage h g) off 0) := by
  rintro ⟨-, hgroup⟩
  obtain rfl | rfl := hg <;> cases h <;> simp only [rkey, hivePage, page, hiveRegion] at hgroup <;> omega

/-- The spared sources and their counts stand. -/
structure SourcesKept (s t : State) : Prop where
  source : ∀ g src, Spared g src → t.source g src = s.source g src
  count : ∀ g src, Spared g src → tfind t.regs (rkey (grdPage g) Reg.GRD_SRC_CNT src) = tfind s.regs (rkey (grdPage g) Reg.GRD_SRC_CNT src)

/-- An event whose delivery leaves the spared sources alone. -/
def SparedEv : Ev → Prop
  | .raise pg off _ => pg % 2 ^ 12 = 0 ∧ ¬ GuardCount (rkey pg off 0)
  | .guard g src => 6 ≤ g ∧ g < 8 ∧ src ≤ 1

theorem sparedEv_error (h : HiveId) (src : Nat) (hs : src ≤ 1) : SparedEv (.guard (hiveDom h) src) := by
  cases h <;> exact ⟨by decide, by decide, hs⟩

namespace SourcesKept
variable {s t u : State}

theorem refl (s : State) : SourcesKept s s := ⟨fun _ _ _ => rfl, fun _ _ _ => rfl⟩
theorem trans (h : SourcesKept s t) (k : SourcesKept t u) : SourcesKept s u :=
  ⟨fun g src hs => (k.source g src hs).trans (h.source g src hs), fun g src hs => (k.count g src hs).trans (h.count g src hs)⟩

theorem of_eq (hr : t.regions = s.regions) (hg : t.regs = s.regs) : SourcesKept s t :=
  ⟨fun g src _ => by unfold State.source State.region; rw [hr], fun g src _ => by rw [hg]⟩

theorem setReg (s : State) (pg off : Nat) (v : W32) (hk : ¬ GuardCount (rkey pg off 0)) : SourcesKept s (s.setReg pg off v) :=
  ⟨fun _ _ _ => rfl, fun g src _ => (tfind_tset _ _ _ _ _).trans (if_neg fun h => hk (by rw [← h]; exact guardCount_key g src))⟩

/-- The store and the queues leave the spared sources alone, and so do the events they give rise to. -/
theorem engine {e : List Ev} (h : Engine s t e) : SourcesKept s t ∧ ∀ x ∈ e, SparedEv x := by
  induction h with
  | refl s => exact ⟨.refl s, by simp⟩
  | hive s h x => exact ⟨.of_eq (State.setHive_regions s h x) (State.setHive_regs s h x), by simp⟩
  | worker s w x => exact ⟨.of_eq rfl rfl, by simp⟩
  | free s => exact ⟨.of_eq rfl rfl, by simp⟩
  | count s h g off n hg ho => exact ⟨.setReg _ _ _ _ (not_guardCount_engine h g off hg ho), by simp⟩
  | mark s h g off bits hg ho =>
    exact ⟨.refl s, List.forall_mem_singleton.2 ⟨page_mod _ _ _, not_guardCount_engine h g off hg ho⟩⟩
  | error s h src hs => exact ⟨.refl s, List.forall_mem_singleton.2 (sparedEv_error h src hs)⟩
  | trans _ _ hd he =>
    obtain ⟨hst, hd⟩ := hd
    obtain ⟨htu, he⟩ := he
    exact ⟨hst.trans htu, fun x hx => (List.mem_append.1 hx).elim (hd x) (he x)⟩

theorem raiseE (s : State) (pg off bits : Nat) (h : SparedEv (.raise pg off bits)) :
    SourcesKept s (raiseE s pg off bits).1 ∧ ∀ x ∈ (raiseE s pg off bits).2, SparedEv x := by
  obtain ⟨hp, hk⟩ := h
  unfold Machine.raiseE
  dsimp only
  have hset := SourcesKept.setReg s pg off (s.reg pg off ||| w32 bits) hk
  split
  · exact ⟨hset, by simp⟩
  · have hcount := SourcesKept.setReg (s.setReg pg off (s.reg pg off ||| w32 bits)) pg Reg.EVT_COUNT
      (satInc ((s.setReg pg off (s.reg pg off ||| w32 bits)).reg pg Reg.EVT_COUNT) 1)
      (not_guardCount_off pg _ hp (by decide) (by decide))
    obtain ⟨hnotice, hev⟩ := engine (noticeE_engine ((s.setReg pg off (s.reg pg off ||| w32 bits)).count pg Reg.EVT_COUNT) pg off
      (toldBits s pg off bits).toNat)
    exact ⟨(hset.trans hcount).trans hnotice, hev⟩

/-- A severe event changes the active hive's guard, and marks GRD_EVENTS of its page. -/
theorem severeE (s : State) (g src : Nat) : SourcesKept s (severeE s g src).1 ∧ ∀ x ∈ (severeE s g src).2, SparedEv x := by
  have hmark (n : Nat) : SparedEv (.raise (chipGrdPage s) Reg.GRD_EVENTS n) :=
    ⟨page_mod _ _ _, not_guardCount_off _ _ (page_mod _ _ _) (by decide) (by decide)⟩
  have hput (h : HiveId) (x : Hive) : SourcesKept s (s.setHive h x) := .of_eq (State.setHive_regions s h x) (State.setHive_regs s h x)
  unfold Machine.severeE
  dsimp only
  split
  · exact ⟨.refl s, List.forall_mem_singleton.2 (hmark 1)⟩
  · split
    · exact ⟨hput _ _, List.forall_mem_singleton.2 (hmark 1)⟩
    · refine ⟨hput _ _, List.forall_mem_cons.2 ⟨hmark 1, ?_⟩⟩
      split
      · exact List.forall_mem_singleton.2 (hmark 32)
      · exact List.forall_mem_nil _

/-- An unspared source that reports leaves the spared ones. -/
theorem modSource (s : State) (g src : Nat) (f : Source → Source) (h : 6 ≤ g ∧ g < 8 ∧ src ≤ 1) : SourcesKept s (s.modSource g src f) := by
  refine ⟨fun k src' hs => ?_, fun _ _ _ => rfl⟩
  obtain ⟨hk, hs⟩ := hs
  unfold State.source State.modSource
  rw [State.modRegion_eq, State.setRegion_region]
  split
  · rename_i hkg
    subst hkg
    exact (tget_tset _ _ _ _ _).trans (if_neg (by omega))
  · rfl

end SourcesKept

/-- Each guard source has a register of its own. -/
theorem grdKey_inj {g src g' src' : Nat} (hg : g < 8) (hg' : g' < 8)
    (h : rkey (grdPage g) Reg.GRD_SRC_CNT src = rkey (grdPage g') Reg.GRD_SRC_CNT src') : g = g' ∧ src = src' := by
  simp only [rkey, grdPage, page, regionCode] at h
  split at h <;> split at h <;> omega

/-- An event of a source that is not broken is counted; what else it does leaves the spared sources alone. -/
theorem guardE_counts (s : State) (g src : Nat) (hb : (s.source g src).broken = false) :
    ∃ f, let t := (s.count (grdPage g) Reg.GRD_SRC_CNT 1 src).modSource g src f
      SourcesKept t (guardE s g src).1 ∧ ∀ x ∈ (guardE s g src).2, SparedEv x := by
  unfold guardE
  rw [hb]
  dsimp only
  rw [if_neg Bool.false_ne_true]
  split
  · exact ⟨_, SourcesKept.severeE _ g src⟩
  · dsimp only; exact ⟨_, .refl _, List.forall_mem_nil _⟩

namespace SourcesKept

theorem guardE (s : State) (g src : Nat) (h : 6 ≤ g ∧ g < 8 ∧ src ≤ 1) :
    SourcesKept s (guardE s g src).1 ∧ ∀ x ∈ (guardE s g src).2, SparedEv x := by
  cases hb : (s.source g src).broken with
  | true =>
    unfold Machine.guardE
    rw [hb]
    exact ⟨.refl s, List.forall_mem_nil _⟩
  | false =>
    obtain ⟨f, hkept, hev⟩ := guardE_counts s g src hb
    have hcount : SourcesKept s (s.count (grdPage g) Reg.GRD_SRC_CNT 1 src) :=
      ⟨fun _ _ _ => rfl, fun k src' hs => (tfind_tset _ _ _ _ _).trans (if_neg fun hkey => by
        obtain ⟨rfl, rfl⟩ := grdKey_inj hs.1 h.2.1 hkey
        obtain ⟨-, hs⟩ := hs
        omega)⟩
    exact ⟨(hcount.trans (modSource _ g src f h)).trans hkept, hev⟩

theorem deliver (n : Nat) (s : State) (es : List Ev) (h : ∀ e ∈ es, SparedEv e) : SourcesKept s (deliver n s es) := by
  induction n generalizing s es with
  | zero => unfold Machine.deliver; exact .refl s
  | succ n ih =>
    have go {t : State} {e : List Ev} {l : List Ev} (hl : ∀ x ∈ l, SparedEv x) (ht : SourcesKept s t ∧ ∀ x ∈ e, SparedEv x) :
        SourcesKept s (Machine.deliver n t (l ++ e)) :=
      ht.1.trans (ih t _ fun x hx => (List.mem_append.1 hx).elim (hl x) (ht.2 x))
    cases es with
    | nil => unfold Machine.deliver; exact .refl s
    | cons e es =>
      obtain ⟨he, hes⟩ := List.forall_mem_cons.1 h
      cases e with
      | raise pg off bits => unfold Machine.deliver; exact go hes (raiseE s pg off bits he)
      | guard g src => unfold Machine.deliver; exact go hes (guardE s g src he)

theorem raise (s : State) (pg off bits : Nat) (h : SparedEv (.raise pg off bits)) : SourcesKept s (raise s pg off bits) :=
  deliver 400 s _ (List.forall_mem_singleton.2 h)

theorem reg {s t : State} (h : SourcesKept s t) {g src : Nat} (hs : Spared g src) :
    t.reg (grdPage g) Reg.GRD_SRC_CNT src = s.reg (grdPage g) Reg.GRD_SRC_CNT src := by
  unfold State.reg; rw [h.count g src hs]

end SourcesKept

/-- A guard event of a source that is not broken raises its count by one (R451, R455). -/
theorem guardEvent_counts (s : State) (g src : Nat) (hs : Spared g src) (hb : (s.source g src).broken = false) :
    (guardEvent s g src).reg (grdPage g) Reg.GRD_SRC_CNT src = satInc (s.reg (grdPage g) Reg.GRD_SRC_CNT src) 1 := by
  obtain ⟨f, hkept, hev⟩ := guardE_counts s g src hb
  have he : guardEvent s g src = deliver 399 (guardE s g src).1 (guardE s g src).2 := rfl
  rw [he, (SourcesKept.deliver 399 _ _ hev).reg hs, hkept.reg hs]
  exact (State.setReg_reg ..).trans (if_pos rfl)

end Sys2Proof.Machine

namespace Sys2Proof.Machine
open Sys2Proof.Claims

/-! ### Changes of blocks and of one page of registers -/

/-- Of the state only blocks may differ, beside `K` and what the delivery of events marks. -/
def BlocksOnly (K : Nat → Prop) (s t : State) : Prop := Quiet K { s with blocks := t.blocks } t

section
variable {K : Nat → Prop} {s t u : State}

/-- What the delivery of events leaves alone does not depend on the blocks it finds. -/
theorem quiet_reblock (b : Tab Block) (q : Quiet K s t) : Quiet K { s with blocks := b } { t with blocks := b } :=
  { pending := q.pending, tick := q.tick, staged := q.staged, upsets := q.upsets, sels := q.sels, paths := q.paths, stalls := q.stalls
    cells := q.cells, cals := q.cals, blocks := rfl, combs := q.combs, lanes := q.lanes, domains := q.domains, hks := q.hks, chip := q.chip
    hive := fun h => match h with
      | .a => q.hive .a
      | .b => q.hive .b
    worker := q.worker, regs := q.regs }

theorem blocksOnly_of_quiet (q : Quiet K s t) : BlocksOnly K s t := by
  unfold BlocksOnly
  rw [q.blocks]
  exact q

theorem BlocksOnly.trans (h : BlocksOnly K s t) (k : BlocksOnly K t u) : BlocksOnly K s u := (quiet_reblock u.blocks h).trans k

theorem blocksOnly_setBlock (s : State) (b : Nat) (x : Block) : BlocksOnly K s (s.setBlock b x) := Quiet.refl _

theorem BlocksOnly.pending (h : BlocksOnly K s t) : t.pending = s.pending := by
  unfold BlocksOnly at h
  exact h.pending

/-- An access whose register acts on blocks alone. -/
theorem served_blocks {s' v : State} (hn : Near s s') (h : BlocksOnly K s' v) (hv : Near v t) : Served K { s with blocks := t.blocks } t := by
  refine ⟨{ s' with blocks := v.blocks }, v, ?_, h, hv⟩
  rw [hv.blocks]
  exact { hn with blocks := rfl }

end

/-! ### Events and registers of a block's page -/

theorem keyGroup_block (b off : Nat) (ho : off < 2 ^ 12) : keyGroup (rkey (blkPage b) off 0) = 1 := by
  simp only [keyGroup, rkey, blkPage, page]; omega

theorem blkKey_ne (b off off' : Nat) (h : off ≠ off') : rkey (blkPage b) off 0 ≠ rkey (blkPage b) off' 0 := by
  simp only [rkey]; omega

theorem raise_blkPage_block (s : State) (b off bits k : Nat) : (raise s (blkPage b) off bits).block k = s.block k :=
  raise_block _ _ _ _ _ (page_mod _ _ _)

theorem noted_block (b off : Nat) (ho : off < 2 ^ 12) (he : off ≠ Reg.EVT_COUNT) : noted (rkey (blkPage b) off 0) = false := by
  have hg := keyGroup_block b off ho
  have hoff : rkey (blkPage b) off 0 % 2 ^ 12 = off := by simp only [rkey, blkPage, page]; omega
  unfold noted
  simp only [keyGroup] at hg
  rw [hoff, hg]
  simp [he]

/-- An event bit of the page leaves the page's other registers. -/
theorem raise_block_reg (b : Nat) (s : State) (off bits off' : Nat) (ho' : off' < 2 ^ 12) (he : off' ≠ Reg.EVT_COUNT) (hne : off' ≠ off) :
    (raise s (blkPage b) off bits).reg (blkPage b) off' = s.reg (blkPage b) off' :=
  raise_reg_other s _ _ _ _ _ _ (page_mod _ _ _) (noted_block b off' ho' he) (blkKey_ne b _ _ hne)

/-- A bit raised in a register of the page is set. -/
theorem raise_block_marked (b : Nat) (s : State) (off n : Nat) (ho : off < 2 ^ 12) (he : off ≠ Reg.EVT_COUNT) (hn : n < 32) :
    Marked (raise s (blkPage b) off (2 ^ n)) (blkPage b) off n := by
  unfold Marked
  rw [raise_reg s _ _ _ (page_mod _ _ _) (noted_block b off ho he)]
  simp only [bit, BitVec.toNat_or, Nat.testBit_or, BitVec.toNat_ofNat, Nat.testBit_mod_two_pow, Nat.testBit_two_pow_self]
  simp [hn]

section
variable (b : Nat) (hb : b < 72)
include hb

theorem blocksOnly_raise (s : State) (off bits : Nat) (ho : off < 2 ^ 12) :
    BlocksOnly (onPage (blkPage b)) s (raise s (blkPage b) off bits) := by
  refine blocksOnly_of_quiet (quiet_mono (raise_quiet s _ _ _ (page_mod _ _ _)) ?_)
  rintro k rfl
  exact keyPage_block b off hb ho

theorem blocksOnly_setReg (s : State) (off : Nat) (v : W32) (ho : off < 2 ^ 12) :
    BlocksOnly (onPage (blkPage b)) s (s.setReg (blkPage b) off v) :=
  blocksOnly_of_quiet (quiet_setReg s _ _ _ _ (.inr (keyPage_block b off hb ho)))

end

/-! ### The bias output (03_cells.md R112–R115) -/

/-- A target that the output already stands at: DONE at once (R113, R114). -/
theorem biasTo_reached (b target : Nat) (s : State) (h : (s.block b).biasNow = target) :
    biasTo b target s = raise ((s.setReg (blkPage b) Reg.BIAS_TARGET (w32 target)).setBlock b { s.block b with slewing := false })
      (blkPage b) Reg.BIAS_EVENTS (2 ^ 0) := if_pos h

/-- Another target: the output slews toward it (R113). -/
theorem biasTo_slews (b target : Nat) (s : State) (h : (s.block b).biasNow ≠ target) :
    ∃ next, ((s.block b).slewing = true → next = (s.block b).biasNext) ∧
      biasTo b target s = (s.setReg (blkPage b) Reg.BIAS_TARGET (w32 target)).setBlock b { s.block b with slewing := true, biasNext := next } := by
  refine ⟨_, fun hs => ?_, if_neg h⟩
  exact if_pos hs

/-- What a bias target taken does to the block and the page (R113, R114). -/
theorem biasTo_effect (b target : Nat) (hb : b < 72) (s : State) :
    let t := biasTo b target s
    t.reg (blkPage b) Reg.BIAS_TARGET = w32 target ∧ (t.block b).biasNow = (s.block b).biasNow ∧
      ((s.block b).biasNow = target → (t.block b).slewing = false ∧ Marked t (blkPage b) Reg.BIAS_EVENTS 0) ∧
      ((s.block b).biasNow ≠ target → (t.block b).slewing = true ∧
        t.reg (blkPage b) Reg.BIAS_EVENTS = s.reg (blkPage b) Reg.BIAS_EVENTS ∧
        ((s.block b).slewing = true → (t.block b).biasNext = (s.block b).biasNext)) ∧
      (∀ k, k ≠ b → t.block k = s.block k) ∧ BlocksOnly (onPage (blkPage b)) s t := by
  dsimp only
  have hset := blocksOnly_setReg b hb s Reg.BIAS_TARGET (w32 target) (by decide)
  have htarget : (s.setReg (blkPage b) Reg.BIAS_TARGET (w32 target)).reg (blkPage b) Reg.BIAS_TARGET = w32 target :=
    (State.setReg_reg ..).trans (if_pos rfl)
  by_cases h : (s.block b).biasNow = target
  · rw [biasTo_reached b target s h]
    refine ⟨?_, ?_, fun _ => ⟨?_, raise_block_marked b _ _ 0 (by decide) (by decide) (by decide)⟩, fun hne => absurd h hne, fun k hk => ?_,
      (hset.trans (blocksOnly_setBlock _ _ _)).trans (blocksOnly_raise b hb _ _ _ (by decide))⟩
    · rw [raise_block_reg b _ _ _ _ (by decide) (by decide) (by decide)]; exact htarget
    · rw [raise_blkPage_block, State.setBlock_block, if_pos rfl]
    · rw [raise_blkPage_block, State.setBlock_block, if_pos rfl]
    · rw [raise_blkPage_block, State.setBlock_block, if_neg hk, State.setReg_block]
  · obtain ⟨next, hnext, he⟩ := biasTo_slews b target s h
    rw [he]
    refine ⟨htarget, ?_, fun heq => absurd heq h, fun _ => ⟨?_, ?_, fun hs => ?_⟩, fun k hk => ?_, hset.trans (blocksOnly_setBlock _ _ _)⟩
    · simp
    · simp
    · exact (State.setReg_reg ..).trans (if_neg (blkKey_ne b _ _ (by decide)))
    · simp [hnext hs]
    · simp [hk]

/-- A step of the output (R112, R114). -/
theorem biasStep_moves (b : Nat) (s : State) (hs : (s.block b).slewing = true) (hd : (s.block b).biasNext ≤ s.tick) :
    let x := s.block b
    let target := fld (s.reg (blkPage b) Reg.BIAS_TARGET) 11 0
    let n := if x.biasNow < target then x.biasNow + 1 else x.biasNow - 1
    let u := s.setBlock b { x with biasNow := n, biasNext := x.biasNext + biasPeriod s b }
    biasStep b s = if n = target then raise (u.setBlock b { u.block b with slewing := false }) (blkPage b) Reg.BIAS_EVENTS (2 ^ 0) else u := by
  unfold biasStep
  dsimp only
  rw [if_neg (by simp [hs]; omega)]
  rfl

/-! ### The write of BIAS_TARGET (15_control.md R472, R475) -/

theorem keyGroup_blkPage (b : Nat) : keyGroup (blkPage b) = 1 := by simp only [keyGroup, blkPage, page]; omega

/-- The block that a page names. -/
theorem blkPage_block (b : Nat) (hb : b < 72) : keyRegion (blkPage b) * 12 + keyInst (blkPage b) = b := by
  simp only [keyRegion, keyInst, blkPage, page]; omega

theorem pageDomain_block (b : Nat) (hb : b < 72) : pageDomain (blkPage b) = b / 12 := by
  have hr : keyRegion (blkPage b) = b / 12 := by simp only [keyRegion, blkPage, page]; omega
  unfold pageDomain
  dsimp only
  rw [hr]
  exact if_pos (by omega)

/-- A write of an RW register of a block page that is neither a selection nor half of a 64-bit value, and takes every value: what the
register does, its reserved bits reported (R475). -/
theorem writeReg_block (p : Path) (b : Nat) (d : RegDesc) (v : W32) (s : State) (hacc : d.acc = .rw) (hoff : 0x40 ≤ d.off)
    (hsel : isSel 1 d.off = false) (hlo : isLo 1 d.off = false) (hhi : isLo 1 (d.off - 4) = false) (hfit : ∀ old x, fitValue 1 d.off old x = x) :
    writeReg p (blkPage b) d v s =
      writeBlock p (blkPage b) d (v &&& w32 d.bits) (if v &&& ~~~w32 d.bits = 0 then s else pageErr s (blkPage b) errRsvd) := by
  have hact : ∀ x t, actReg p (blkPage b) d x t = writeBlock p (blkPage b) d x t := fun x t => by
    unfold actReg; rw [keyGroup_blkPage]; rfl
  have hrange : ∀ x t, rangeWrite p (blkPage b) d x t = writeBlock p (blkPage b) d x t := fun x t => by
    unfold rangeWrite; dsimp only; rw [keyGroup_blkPage, hfit, if_pos rfl, hact]
  have hopen : ∀ x t, openWrite p (blkPage b) d x t = writeBlock p (blkPage b) d x t := fun x t => by
    unfold openWrite
    rw [keyGroup_blkPage]
    simp [hsel, hlo, hhi, hacc, hrange]
  unfold writeReg
  rw [keyGroup_blkPage, if_neg (by rintro ⟨h, -⟩; cases h), hacc]
  dsimp only
  rw [if_neg (by simp), if_neg (by omega), hopen]

/-- The description of BIAS_TARGET. -/
def biasDesc : RegDesc := ⟨Reg.BIAS_TARGET, .rw, 0x0, 0xFFF, none, none⟩

/-- A write of BIAS_TARGET takes the twelve bits of the code, and reports reserved bits (R475). -/
def biasWrite (b : Nat) (v : W32) (s : State) : State :=
  biasTarget b (v &&& w32 0xFFF) (if v &&& ~~~w32 0xFFF = 0 then s else pageErr s (blkPage b) errRsvd)

theorem perform_biasTarget (p : Path) (b : Nat) (hb : b < 72) (v : W32) (s : State) :
    perform p opWrite (blkPage b) Reg.BIAS_TARGET v s = (biasWrite b v s, 0, 0) := by
  have hd : descOf 1 Reg.BIAS_TARGET = some biasDesc := rfl
  have hwrite : writeReg p (blkPage b) biasDesc v s = biasWrite b v s := by
    rw [writeReg_block p b biasDesc v s rfl (by decide) rfl rfl rfl (fun _ _ => rfl)]
    unfold writeBlock
    rw [blkPage_block b hb]
    rfl
  unfold perform
  rw [if_pos (by decide), keyGroup_blkPage, hd, ← hwrite]
  rfl

theorem addrOf_block (b off : Nat) (hb : b < 72) (ho : off < 2 ^ 12) : (addrOf (blkPage b) off).toNat = off + blkPage b := by
  unfold addrOf
  rw [BitVec.toNat_ofNat]
  refine Nat.mod_eq_of_lt ?_
  simp only [blkPage, page]; omega

theorem keyOff_block (b off : Nat) (hb : b < 72) (ho : off < 2 ^ 12) : keyOff (addrOf (blkPage b) off).toNat = off := by
  rw [addrOf_block b off hb ho]; simp only [keyOff, blkPage, page]; omega

/-- An address of a block's page names that page (R472). -/
theorem pageOf_block (s : State) (b off : Nat) (hb : b < 72) (ho : off < 2 ^ 12) : pageOf s (addrOf (blkPage b) off) = some (blkPage b) := by
  have hr : fld (addrOf (blkPage b) off) 31 28 = b / 12 := by
    simp only [fld, fieldN, addrOf_block b off hb ho, Nat.shiftRight_eq_div_pow, blkPage, page]; omega
  have hg : fld (addrOf (blkPage b) off) 27 20 = 1 := by
    simp only [fld, fieldN, addrOf_block b off hb ho, Nat.shiftRight_eq_div_pow, blkPage, page]; omega
  have hi : fld (addrOf (blkPage b) off) 19 12 = b % 12 := by
    simp only [fld, fieldN, addrOf_block b off hb ho, Nat.shiftRight_eq_div_pow, blkPage, page]; omega
  have hknown : pageKnown (b / 12) 1 (b % 12) = true := by
    have h6 : b / 12 < 6 := by omega
    have h12 : b % 12 < 12 := Nat.mod_lt _ (by decide)
    unfold pageKnown; simp [h6, h12]
  have hregion : b / 12 ≠ 0xC := by omega
  unfold pageOf
  dsimp only
  rw [hr, hg, hi, if_neg hregion, if_pos hknown]

section
variable {s t : State} (h : Near s t)
include h

theorem near_reg (pg off i : Nat) : t.reg pg off i = s.reg pg off i := by unfold State.reg; rw [h.regs]
theorem near_block (k : Nat) : t.block k = s.block k := by unfold State.block; rw [h.blocks]
theorem near_estop : t.chip.estop = s.chip.estop := by rw [h.chip]

end

/-- A write to a block's page on a path that carries it at once lies between two states that differ in the carrying alone. -/
theorem writeAt_block (p : Path) (b off : Nat) (hb : b < 72) (ho : off < 2 ^ 12) (v : W32) (s : State) (h : Ready p (b / 12) s) :
    ∃ s', Near s s' ∧ Near (perform p opWrite (blkPage b) off v s').1 (writeAt p (addrOf (blkPage b) off) v s) := by
  obtain ⟨hfree, hgate, hj⟩ := h
  have hserve : (if p = .startup then Gate.serve else gate s (pageDomain (blkPage b))) = .serve := by
    rw [pageDomain_block b hb]
    exact ite_eq_left_iff.mpr hgate.resolve_left
  have hnear := pathAccess_near p opWrite (blkPage b) (addrOf (blkPage b) off) v s hfree (fun hp => ⟨hj hp, .inl rfl⟩)
    (pageOf_block s b off hb ho) hserve
  rwa [keyOff_block b off hb ho] at hnear

/-- What a write of BIAS_TARGET does (R113, R114, R488). -/
theorem biasWrite_effect (b : Nat) (hb : b < 72) (v : W32) (s : State) :
    let t := biasWrite b v s
    (s.chip.estop = false → t.reg (blkPage b) Reg.BIAS_TARGET = w32 (fld v 11 0)) ∧
      (s.chip.estop = false → (s.block b).biasNow = fld v 11 0 →
        (t.block b).slewing = false ∧ Marked t (blkPage b) Reg.BIAS_EVENTS 0) ∧
      (s.chip.estop = false → (s.block b).biasNow ≠ fld v 11 0 → (t.block b).slewing = true ∧
        t.reg (blkPage b) Reg.BIAS_EVENTS = s.reg (blkPage b) Reg.BIAS_EVENTS ∧
        ((s.block b).slewing = true → (t.block b).biasNext = (s.block b).biasNext)) ∧
      (s.chip.estop = true → t.reg (blkPage b) Reg.BIAS_TARGET = s.reg (blkPage b) Reg.BIAS_TARGET ∧
        t.block b = s.block b ∧ Marked t (blkPage b) Reg.ERR_STATUS 3) ∧
      (t.block b).biasNow = (s.block b).biasNow ∧ (∀ k, k ≠ b → t.block k = s.block k) ∧ BlocksOnly (onPage (blkPage b)) s t := by
  have hcode : fld (v &&& w32 0xFFF) 11 0 = fld v 11 0 := by
    have hmask : (w32 0xFFF).toNat = 2 ^ 12 - 1 := rfl
    simp only [fld, fieldN, BitVec.toNat_and, hmask, Nat.and_two_pow_sub_one_eq_mod, Nat.shiftRight_zero, Nat.mod_mod]
  dsimp only
  unfold biasWrite
  generalize hu : (if v &&& ~~~w32 0xFFF = 0 then s else pageErr s (blkPage b) errRsvd) = u
  have hblocks : BlocksOnly (onPage (blkPage b)) s u := by
    rw [← hu]; split
    · exact blocksOnly_of_quiet (Quiet.refl s)
    · exact blocksOnly_raise b hb _ _ _ (by decide)
  have hchip : u.chip = s.chip := by
    unfold BlocksOnly at hblocks; exact hblocks.chip
  have hblock : ∀ k, u.block k = s.block k := fun k => by
    rw [← hu]; split
    · rfl
    · exact raise_blkPage_block _ _ _ _ _
  have hreg : ∀ off, off < 2 ^ 12 → off ≠ Reg.EVT_COUNT → off ≠ Reg.ERR_STATUS → u.reg (blkPage b) off = s.reg (blkPage b) off :=
    fun off ho he hne => by
      rw [← hu]; split
      · rfl
      · exact raise_block_reg b _ _ _ _ ho he hne
  unfold biasTarget
  rw [hchip]
  cases s.chip.estop with
  | true =>
    rw [if_pos rfl]
    refine ⟨nofun, nofun, nofun, fun _ => ⟨?_, ?_, raise_block_marked b _ _ 3 (by decide) (by decide) (by decide)⟩, ?_, fun k _ => ?_,
      hblocks.trans (blocksOnly_raise b hb _ _ _ (by decide))⟩
    · exact (raise_block_reg b _ _ _ _ (by decide) (by decide) (by decide)).trans (hreg _ (by decide) (by decide) (by decide))
    · exact (raise_blkPage_block _ _ _ _ _).trans (hblock b)
    · exact congrArg Block.biasNow ((raise_blkPage_block _ _ _ _ _).trans (hblock b))
    · exact (raise_blkPage_block _ _ _ _ _).trans (hblock k)
  | false =>
    rw [if_neg Bool.false_ne_true, hcode]
    obtain ⟨htarget, hnow, hreached, hslews, hothers, honly⟩ := biasTo_effect b (fld v 11 0) hb u
    rw [hblock] at hnow hreached hslews
    rw [hreg _ (by decide) (by decide) (by decide)] at hslews
    exact ⟨fun _ => htarget, fun _ => hreached, fun _ => hslews, nofun, hnow, fun k hk => (hothers k hk).trans (hblock k), hblocks.trans honly⟩

/-- An event bit of a block's page leaves the guard sources of the combs. -/
theorem sourcesKept_raise_block (s : State) (b off bits : Nat) (ho : off < 2 ^ 12) (hne : off ≠ Reg.GRD_SRC_CNT) :
    SourcesKept s (raise s (blkPage b) off bits) :=
  .raise s _ _ _ ⟨page_mod _ _ _, not_guardCount_off _ _ (page_mod _ _ _) ho hne⟩

/-- What a step of the output does (R112, R114). -/
theorem biasStep_effect (b : Nat) (hb : b < 72) (s : State) (hs : (s.block b).slewing = true) (hd : (s.block b).biasNext ≤ s.tick) :
    let x := s.block b
    let target := fld (s.reg (blkPage b) Reg.BIAS_TARGET) 11 0
    let n := if x.biasNow < target then x.biasNow + 1 else x.biasNow - 1
    let t := biasStep b s
    t.block b = { x with biasNow := n, biasNext := x.biasNext + biasPeriod s b, slewing := decide (n ≠ target) } ∧
      (n = target → Marked t (blkPage b) Reg.BIAS_EVENTS 0) ∧
      (n ≠ target → t.reg (blkPage b) Reg.BIAS_EVENTS = s.reg (blkPage b) Reg.BIAS_EVENTS) ∧ (∀ k, k ≠ b → t.block k = s.block k) ∧
      BlocksOnly (onPage (blkPage b)) s t := by
  have hmove := biasStep_moves b s hs hd
  dsimp only at hmove ⊢
  generalize fld (s.reg (blkPage b) Reg.BIAS_TARGET) 11 0 = target at hmove ⊢
  generalize (if (s.block b).biasNow < target then (s.block b).biasNow + 1 else (s.block b).biasNow - 1) = n at hmove ⊢
  by_cases h : n = target
  · rw [hmove, if_pos h]
    refine ⟨?_, fun _ => raise_block_marked b _ _ 0 (by decide) (by decide) (by decide), fun hne => absurd h hne, fun k hk => ?_,
      ((blocksOnly_setBlock _ _ _).trans (blocksOnly_setBlock _ _ _)).trans (blocksOnly_raise b hb _ _ _ (by decide))⟩
    · rw [raise_blkPage_block]; simp [h]
    · rw [raise_blkPage_block]; simp [hk]
  · rw [hmove, if_neg h]
    refine ⟨?_, fun heq => absurd heq h, fun _ => rfl, fun k hk => ?_, blocksOnly_setBlock _ _ _⟩
    · simp [h, hs]
    · simp [hk]

/-- What an overload does (R115, 14_redundancy_faults.md R451). -/
theorem biasOverload_effect (b : Nat) (hb : b < 72) (s : State) :
    let t := biasOverload b s
    t.block b = { s.block b with overload := true } ∧ Marked t (blkPage b) Reg.BIAS_EVENTS 1 ∧ SourceCounts (b / 12) 16 s t ∧
      (∀ k, k ≠ b → t.block k = s.block k) ∧ BlocksOnly (onPage (blkPage b)) s t := by
  have hspared : Spared (b / 12) 16 := ⟨by omega, .inl (by omega)⟩
  unfold biasOverload
  dsimp only
  rw [State.modBlock_eq]
  have hset := blocksOnly_setBlock (K := onPage (blkPage b)) s b { s.block b with overload := true }
  generalize hv : s.setBlock b { s.block b with overload := true } = v at hset ⊢
  have hmark : Marked (raise v (blkPage b) Reg.BIAS_EVENTS 2) (blkPage b) Reg.BIAS_EVENTS 1 :=
    raise_block_marked b v Reg.BIAS_EVENTS 1 (by decide) (by decide) (by decide)
  have hraise := blocksOnly_raise b hb v Reg.BIAS_EVENTS 2 (by decide)
  have hkept := sourcesKept_raise_block v b Reg.BIAS_EVENTS 2 (by decide) (by decide)
  have hblock := raise_blkPage_block v b Reg.BIAS_EVENTS 2
  generalize raise v (blkPage b) Reg.BIAS_EVENTS 2 = u at hmark hraise hkept hblock ⊢
  refine ⟨?_, ?_, fun hbroken => ?_, fun k hk => ?_, (hset.trans hraise).trans (blocksOnly_of_quiet (guardEvent_quiet _ _ _))⟩
  · rw [guardEvent_block, hblock, ← hv, State.setBlock_block, if_pos rfl]
  · unfold Marked
    rw [guardEvent_reg _ _ _ _ _ _ (noted_block b Reg.BIAS_EVENTS (by decide) (by decide))]
    exact hmark
  · have hcount := guardEvent_counts u (b / 12) 16 hspared (by rw [hkept.source _ _ hspared, ← hv]; exact hbroken)
    rw [hcount, hkept.reg hspared, ← hv]
    rfl
  · rw [guardEvent_block, hblock, ← hv, State.setBlock_block, if_neg hk]

end Sys2Proof.Machine

section
open Sys2Proof Sys2Proof.Machine Sys2Proof.Claims

/-- Settles O9: the write of a target, a step of the output, and an overload. -/
theorem biasMovesToTarget : Obligations.BiasMovesToTarget := by
  unfold Obligations.BiasMovesToTarget
  refine ⟨fun p blk v s hready => ?write, fun blk s => ?step, fun blk s => ?overload⟩
  case write =>
    obtain ⟨s', hnear, hdone⟩ := writeAt_block p blk.val Reg.BIAS_TARGET blk.isLt (by decide) v s hready
    rw [perform_biasTarget p blk.val blk.isLt] at hdone
    have heffect := biasWrite_effect blk.val blk.isLt v s'
    generalize biasWrite blk.val v s' = w at hdone heffect
    dsimp only at hdone heffect
    simp only [Marked, near_estop hnear, near_block hnear, near_reg hnear, ← near_block hdone, ← near_reg hdone] at heffect
    obtain ⟨htarget, hreached, hslews, hstopped, hnow, hothers, honly⟩ := heffect
    exact ⟨_, done_of_pending (hdone.pending.trans (honly.pending.trans hnear.pending)), htarget, hreached, hslews, hstopped, hnow, hothers,
      served_blocks hnear honly hdone⟩
  case step =>
    intro x target hs hd hne
    obtain ⟨hblock, hreached, hslews, hothers, honly⟩ := biasStep_effect blk.val blk.isLt s hs hd
    exact runs_of_done rfl honly.pending ⟨hblock, hreached, hslews, hothers, honly⟩
  case overload =>
    obtain ⟨hblock, hmark, hcounts, hothers, honly⟩ := biasOverload_effect blk.val blk.isLt s
    exact runs_of_done rfl honly.pending ⟨hblock, hmark, hcounts, hothers, honly⟩

end

namespace Sys2Proof.Machine
open Sys2Proof.Claims

/-! ### The table builder (04_interpolators.md R131, R132) -/

/-- The entries of the first `n` bins together. -/
def binsBelow (hist : Tab Nat) (n : Nat) : Nat := ((List.range n).map (fun m => tget 0 hist m)).sum

/-- Centre and width of bin `j` (R131). -/
def binEntry (hist : Tab Nat) (fill j : Nat) : Nat × Nat :=
  let lo := 64000 * binsBelow hist j / fill
  let hi := 64000 * binsBelow hist (j + 1) / fill
  ((lo + hi) / 2, hi - lo)

theorem binsBelow_succ (hist : Tab Nat) (n : Nat) : binsBelow hist (n + 1) = binsBelow hist n + tget 0 hist n := by
  simp [binsBelow, List.range_succ]

/-- The builder carries the count so far and the entries so far, the last one first. -/
theorem buildTable_fold (hist : Tab Nat) (fill n : Nat) :
    (List.range n).foldl (fun (acc : Nat × BinTable) i =>
      let lo := 64000 * acc.1 / fill
      let a := acc.1 + tget 0 hist i
      let hi := 64000 * a / fill
      (a, ((lo + hi) / 2, hi - lo) :: acc.2)) (0, []) = (binsBelow hist n, ((List.range n).map (binEntry hist fill)).reverse) := by
  induction n with
  | zero => rfl
  | succ n ih =>
    rw [List.range_succ, List.foldl_append, ih]
    simp [binEntry, binsBelow_succ]

theorem buildTable_eq (hist : Tab Nat) (fill : Nat) : buildTable hist fill = (List.range 400).map (binEntry hist fill) := by
  unfold buildTable
  rw [buildTable_fold, List.reverse_reverse]

theorem lget_map_range {α : Type} (d : α) (f : Nat → α) (n j : Nat) (h : j < n) : lget d ((List.range n).map f) j = f j := by
  simp [lget, List.getD, h]

theorem buildStart_oldest (b i : Nat) (rest : List Nat) (s : State) (hq : (s.block b).buildQueue = i :: rest)
    (ht : (s.block b).built = none) (hb : (s.block b).building = none) :
    buildStart b s = s.setBlock b { s.block b with buildQueue := rest, building := some i } := by
  unfold buildStart; simp [hq, ht, hb]

/-- The builder's result: the table of the histogram it was given, with the tick of its completion. -/
theorem buildDone_building (b i : Nat) (s : State) (h : (s.block b).building = some i) :
    buildDone b s = s.setBlock b { s.block b with
      building := none
      built := some ⟨i, buildTable (s.cal (64 * b + i)).hist (s.cal (64 * b + i)).fill,
        driftBin (buildTable (s.cal (64 * b + i)).hist (s.cal (64 * b + i)).fill) (s.cal (64 * b + i)).table, s.tick⟩ } := by
  unfold buildDone; rw [h]; rfl

/-! ### Fields of words -/

/-- A field shows the bits within it alone. -/
theorem fld_congr (x y : W32) (hi lo : Nat) (h : ∀ i, lo ≤ i → i ≤ hi → x.getLsbD i = y.getLsbD i) : fld x hi lo = fld y hi lo := by
  refine Nat.eq_of_testBit_eq fun i => ?_
  simp only [fld, fieldN, Nat.testBit_mod_two_pow, Nat.testBit_shiftRight]
  by_cases hi' : i < hi + 1 - lo
  · have hbit := h (lo + i) (by omega) (by omega)
    simp only [BitVec.getLsbD] at hbit
    rw [hbit]
  · simp [hi']

theorem fld_and (v : W32) (mask hi lo : Nat) (h : ∀ i, i ≤ hi → lo ≤ i → (w32 mask).getLsbD i = true) :
    fld (v &&& w32 mask) hi lo = fld v hi lo :=
  fld_congr _ _ _ _ fun i hlo hhi => by rw [BitVec.getLsbD_and, h i hhi hlo, Bool.and_true]

theorem fld_or (v : W32) (n hi lo : Nat) (h : ∀ i, i ≤ hi → lo ≤ i → (w32 n).getLsbD i = false) :
    fld (v ||| w32 n) hi lo = fld v hi lo :=
  fld_congr _ _ _ _ fun i hlo hhi => by rw [BitVec.getLsbD_or, h i hhi hlo, Bool.or_false]

/-! ### Writes of a block's calibration registers (15_control.md R472, R475) -/

/-- The state once reserved bits of a write to a block's page are reported (R475). -/
def reservedNoted (b bits : Nat) (v : W32) (s : State) : State := if v &&& ~~~w32 bits = 0 then s else pageErr s (blkPage b) errRsvd

/-- A write of an RW or WO register of a block page that is neither a selection nor half of a 64-bit value, its value within range. -/
theorem writeReg_block_fits (p : Path) (b : Nat) (d : RegDesc) (v : W32) (s : State) (hacc : d.acc = .rw ∨ d.acc = .wo) (hoff : 0x40 ≤ d.off)
    (hsel : isSel 1 d.off = false) (hlo : isLo 1 d.off = false) (hhi : isLo 1 (d.off - 4) = false)
    (hfit : ∀ old, fitValue 1 d.off old (v &&& w32 d.bits) = v &&& w32 d.bits) :
    writeReg p (blkPage b) d v s = writeBlock p (blkPage b) d (v &&& w32 d.bits) (reservedNoted b d.bits v s) := by
  have hrange : ∀ t, rangeWrite p (blkPage b) d (v &&& w32 d.bits) t = writeBlock p (blkPage b) d (v &&& w32 d.bits) t := fun t => by
    unfold rangeWrite actReg
    dsimp only
    rw [keyGroup_blkPage, hfit, if_pos rfl]
    rfl
  have hopen : ∀ t, openWrite p (blkPage b) d (v &&& w32 d.bits) t = writeBlock p (blkPage b) d (v &&& w32 d.bits) t := fun t => by
    unfold openWrite
    rw [keyGroup_blkPage]
    obtain h | h := hacc <;> simp [hsel, hlo, hhi, h, hrange]
  unfold writeReg
  rw [keyGroup_blkPage, if_neg (by rintro ⟨h, -⟩; cases h)]
  obtain h | h := hacc <;> rw [h] <;> dsimp only <;> rw [if_neg (by simp), if_neg (by omega), hopen] <;> rfl

section
variable (b : Nat) (hb : b < 72) (bits : Nat) (v : W32) (s : State)

include hb in
theorem reservedNoted_quiet : Quiet (onPage (blkPage b)) s (reservedNoted b bits v s) := by
  unfold reservedNoted
  split
  · exact Quiet.refl s
  · refine quiet_mono (raise_quiet s _ _ _ (page_mod _ _ _)) ?_
    rintro k rfl
    exact keyPage_block b Reg.ERR_STATUS hb (by decide)

theorem reservedNoted_reg (off : Nat) (ho : off < 2 ^ 12) (he : off ≠ Reg.EVT_COUNT) (hne : off ≠ Reg.ERR_STATUS) :
    (reservedNoted b bits v s).reg (blkPage b) off = s.reg (blkPage b) off := by
  unfold reservedNoted
  split
  · rfl
  · exact raise_block_reg b _ _ _ _ ho he hne

end

/-! ### TDC_LOAD (R134) -/

/-- The description of TDC_LOAD. -/
def loadDesc : RegDesc := ⟨Reg.TDC_LOAD, .wo, 0x0, 0x13F, none, none⟩

/-- The load buffer as a table. -/
def bufTable (buf : Tab W32) : BinTable := (List.range 400).map (fun i => (fld (tget 0 buf i) 15 0, fld (tget 0 buf i) 31 16))

/-- A GO for interpolator `itp`: the load buffer latched, or VALUE while a load waits. -/
def loadGo (b itp : Nat) (s : State) : State :=
  if (s.block b).loadPend.isSome then pageErr s (blkPage b) errValue
  else s.setBlock b { s.block b with loadPend := some ⟨itp, bufTable (s.block b).loadBuf, none, s.tick⟩ }

theorem tdcLoad_go (b : Nat) (v : W32) (s : State) (hgo : bit v 8 = true) :
    valueIf (bit v 8 && (s.block b).loadPend.isSome) (blkPage b) (tdcLoad b v s) = loadGo b (4 * fld v 3 0 + fld v 5 4) s := by
  unfold valueIf tdcLoad loadGo
  rw [hgo]
  by_cases h : (s.block b).loadPend.isSome = true
  · simp [h]
  · simp only [h, Bool.and_false, Bool.not_true, Bool.false_eq_true, or_self, if_false]
    rfl

theorem perform_loadGo (p : Path) (b : Nat) (hb : b < 72) (v : W32) (s : State) :
    (perform p opWrite (blkPage b) Reg.TDC_LOAD (withBits v 0x100) s).1 =
      loadGo b (4 * fld v 3 0 + fld v 5 4) (reservedNoted b 0x13F (withBits v 0x100) s) := by
  have hd : descOf 1 Reg.TDC_LOAD = some loadDesc := rfl
  have hgo : bit (withBits v 0x100 &&& w32 0x13F) 8 = true := by
    have hbits : (withBits v 0x100 &&& w32 0x13F).getLsbD 8 = true := by
      rw [BitVec.getLsbD_and, BitVec.getLsbD_or, show (w32 0x100).getLsbD 8 = true by decide, show (w32 0x13F).getLsbD 8 = true by decide,
        Bool.or_true, Bool.and_true]
    exact hbits
  have hcell : fld (withBits v 0x100 &&& w32 0x13F) 3 0 = fld v 3 0 :=
    (fld_and _ _ _ _ (by decide)).trans (fld_or _ _ _ _ (by decide))
  have hitp : fld (withBits v 0x100 &&& w32 0x13F) 5 4 = fld v 5 4 :=
    (fld_and _ _ _ _ (by decide)).trans (fld_or _ _ _ _ (by decide))
  have hwrite : ∀ x t, writeBlock p (blkPage b) loadDesc x t =
      valueIf (bit x 8 && (t.block b).loadPend.isSome) (blkPage b) (tdcLoad b x t) := fun x t => by
    unfold writeBlock
    rw [blkPage_block b hb]
    rfl
  unfold perform
  rw [if_pos (by decide), keyGroup_blkPage, hd]
  dsimp only
  rw [if_pos rfl, writeReg_block_fits p b loadDesc _ s (.inr rfl) (by decide) rfl rfl rfl fun _ => rfl, hwrite,
    show loadDesc.bits = 0x13F from rfl, tdcLoad_go b _ _ hgo, hcell, hitp]

/-- What a GO does, the reserved bits of its word aside (R134). -/
theorem loadGo_effect (b : Nat) (hb : b < 72) (itp bits : Nat) (v : W32) (s : State) :
    let t := loadGo b itp (reservedNoted b bits v s)
    ((s.block b).loadPend = none → (t.block b).loadPend = some ⟨itp, bufTable (s.block b).loadBuf, none, s.tick⟩) ∧
      ((s.block b).loadPend ≠ none → t.block b = s.block b ∧ Marked t (blkPage b) Reg.ERR_STATUS 3) ∧
      (∀ k, k ≠ b → t.block k = s.block k) ∧ BlocksOnly (onPage (blkPage b)) s t := by
  have hquiet := reservedNoted_quiet b hb bits v s
  generalize reservedNoted b bits v s = u at hquiet ⊢
  have hblock : ∀ k, u.block k = s.block k := fun k => by unfold State.block; rw [hquiet.blocks]
  have honly := blocksOnly_of_quiet hquiet
  unfold loadGo
  rw [hblock, hquiet.tick]
  cases hp : (s.block b).loadPend with
  | none =>
    refine ⟨fun _ => ?_, fun h => absurd rfl h, fun k hk => ?_, honly.trans (blocksOnly_setBlock _ _ _)⟩
    · simp
    · simp [hk, hblock]
  | some n =>
    refine ⟨nofun, fun _ => ⟨?_, raise_block_marked b _ _ 3 (by decide) (by decide) (by decide)⟩, fun k _ => ?_,
      honly.trans (blocksOnly_raise b hb _ _ _ (by decide))⟩
    · exact (raise_blkPage_block _ _ _ _ _).trans (hblock b)
    · exact (raise_blkPage_block _ _ _ _ _).trans (hblock k)

/-! ### CAL_CTL (R130, R135) -/

/-- The description of CAL_CTL. -/
def calDesc : RegDesc := ⟨Reg.CAL_CTL, .rw, 0x1505, 0x3F0F, none, none⟩

/-- What CAL_CTL holds after a write of an accepted exponent. -/
def calWord (v : W32) : W32 := (v &&& 0x200F) ||| w32 (histExp v * 2 ^ 8)

/-- A filling histogram cleared; one that waits for the builder is kept. -/
def ItpCal.restarted (k : ItpCal) : ItpCal := if k.waiting then k else { k with hist := [], fill := 0 }

section
variable (v : W32) (hv : 20 ≤ histExp v ∧ histExp v ≤ 26)

include hv in
theorem histExp_calWord : histExp (calWord v) = histExp v := by
  have hfield : histExp (calWord v) = histExp (w32 (histExp v * 2 ^ 8)) := fld_congr _ _ _ _ fun i hlo hhi => by
    have hmask : (0x200F#32).getLsbD i = false := by interval_cases i <;> decide
    unfold calWord
    rw [BitVec.getLsbD_or, BitVec.getLsbD_and]
    rw [show (0x200F : W32).getLsbD i = false from hmask, Bool.and_false, Bool.false_or]
  rw [hfield]
  generalize histExp v = e at hv
  simp only [histExp, fld, fieldN, BitVec.toNat_ofNat, Nat.shiftRight_eq_div_pow]
  omega

theorem bit_calWord : bit (calWord v) 0 = bit v 0 := by
  have hbits : (calWord v).getLsbD 0 = v.getLsbD 0 := by
    have hshift : (w32 (histExp v * 2 ^ 8)).getLsbD 0 = false := by rw [BitVec.getLsbD_ofNat, Nat.testBit_mul_two_pow]; rfl
    unfold calWord
    rw [BitVec.getLsbD_or, BitVec.getLsbD_and, show (0x200F : W32).getLsbD 0 = true by decide, Bool.and_true, hshift, Bool.or_false]
  exact hbits

include hv in
theorem calCtl_accepts (b : Nat) (s : State) :
    calCtl b v s = if histExp v ≠ histExp (s.reg (blkPage b) Reg.CAL_CTL)
      then forN 64 (fun i s => s.modCal (64 * b + i) ItpCal.restarted) (s.setReg (blkPage b) Reg.CAL_CTL (calWord v))
      else s.setReg (blkPage b) Reg.CAL_CTL (calWord v) := by
  unfold calCtl
  dsimp only
  rw [decide_eq_true hv, if_pos rfl]
  rfl

end

/-- Interpolators changed one by one from `base` on, and nothing else. -/
theorem forN_modCal (base n : Nat) (f : ItpCal → ItpCal) (s : State) :
    let t := forN n (fun i s => s.modCal (base + i) f) s
    (∀ m, t.cal m = if base ≤ m ∧ m < base + n then f (s.cal m) else s.cal m) ∧ t = { s with cals := t.cals } := by
  dsimp only
  unfold forN
  induction n with
  | zero => exact ⟨fun m => (if_neg (by omega)).symm, rfl⟩
  | succ n ih =>
    rw [List.range_succ, List.foldl_append]
    generalize List.foldl (fun t i => t.modCal (base + i) f) s (List.range n) = u at ih ⊢
    obtain ⟨hcal, hrest⟩ := ih
    refine ⟨fun m => ?_, ?_⟩
    · simp only [List.foldl_cons, List.foldl_nil]
      rw [State.modCal_eq, State.setCal_cal, hcal, hcal]
      by_cases hm : m = base + n
      · rw [if_pos hm, if_neg (by omega), if_pos (by omega), hm]
      · rw [if_neg hm]
        exact if_congr (by omega) rfl rfl
    · rw [hrest]; rfl

/-- Of the state only calibration data may differ, beside `K` and what the delivery of events marks. -/
def CalsOnly (K : Nat → Prop) (s t : State) : Prop := Quiet K { s with cals := t.cals } t

theorem quiet_recal {K : Nat → Prop} {s t : State} (c : Tab ItpCal) (q : Quiet K s t) : Quiet K { s with cals := c } { t with cals := c } :=
  { pending := q.pending, tick := q.tick, staged := q.staged, upsets := q.upsets, sels := q.sels, paths := q.paths, stalls := q.stalls
    cells := q.cells, cals := rfl, blocks := q.blocks, combs := q.combs, lanes := q.lanes, domains := q.domains, hks := q.hks, chip := q.chip
    hive := fun h => match h with
      | .a => q.hive .a
      | .b => q.hive .b
    worker := q.worker, regs := q.regs }

theorem perform_calCtl (p : Path) (b : Nat) (hb : b < 72) (v : W32) (s : State) (hv : 20 ≤ histExp v ∧ histExp v ≤ 26) :
    (perform p opWrite (blkPage b) Reg.CAL_CTL v s).1 = calCtl b (v &&& w32 0x3F0F) (reservedNoted b 0x3F0F v s) := by
  have hd : descOf 1 Reg.CAL_CTL = some calDesc := rfl
  have hexp : histExp (v &&& w32 0x3F0F) = histExp v := fld_and _ _ _ _ (by decide)
  have hfit : ∀ old, fitValue 1 Reg.CAL_CTL old (v &&& w32 0x3F0F) = v &&& w32 0x3F0F := fun old => by
    have hkeep : fitValue 1 Reg.CAL_CTL old (v &&& w32 0x3F0F) =
      keepField (decide (20 ≤ histExp (v &&& w32 0x3F0F) ∧ histExp (v &&& w32 0x3F0F) ≤ 26)) 0x1F00#32 old (v &&& w32 0x3F0F) := rfl
    rw [hkeep, hexp, decide_eq_true hv]
    rfl
  have hwrite : ∀ x t, writeBlock p (blkPage b) calDesc x t = calCtl b x t := fun x t => by
    unfold writeBlock
    rw [blkPage_block b hb]
    rfl
  unfold perform
  rw [if_pos (by decide), keyGroup_blkPage, hd]
  dsimp only
  rw [if_pos rfl, writeReg_block_fits p b calDesc _ s (.inl rfl) (by decide) rfl rfl rfl hfit, hwrite]
  rfl

/-- What a write of CAL_CTL with an accepted exponent does. -/
theorem calWrite_effect (b : Nat) (hb : b < 72) (v : W32) (s : State) (hv : 20 ≤ histExp v ∧ histExp v ≤ 26) :
    let t := calCtl b (v &&& w32 0x3F0F) (reservedNoted b 0x3F0F v s)
    histExp (t.reg (blkPage b) Reg.CAL_CTL) = histExp v ∧ bit (t.reg (blkPage b) Reg.CAL_CTL) 0 = bit v 0 ∧
      (histExp v ≠ histExp (s.reg (blkPage b) Reg.CAL_CTL) → ∀ i, i < 64 → t.cal (64 * b + i) = (s.cal (64 * b + i)).restarted) ∧
      (histExp v = histExp (s.reg (blkPage b) Reg.CAL_CTL) → t.cals = s.cals) ∧ CalsOnly (onPage (blkPage b)) s t := by
  have hexp : histExp (v &&& w32 0x3F0F) = histExp v := fld_and _ _ _ _ (by decide)
  have hen : bit (v &&& w32 0x3F0F) 0 = bit v 0 := by
    have hbits : (v &&& w32 0x3F0F).getLsbD 0 = v.getLsbD 0 := by
      rw [BitVec.getLsbD_and, show (w32 0x3F0F).getLsbD 0 = true by decide, Bool.and_true]
    exact hbits
  have hquiet := reservedNoted_quiet b hb 0x3F0F v s
  have hreg := reservedNoted_reg b 0x3F0F v s Reg.CAL_CTL (by decide) (by decide) (by decide)
  generalize reservedNoted b 0x3F0F v s = u at hquiet hreg ⊢
  generalize v &&& w32 0x3F0F = x at hexp hen ⊢
  have hword : (u.setReg (blkPage b) Reg.CAL_CTL (calWord x)).reg (blkPage b) Reg.CAL_CTL = calWord x :=
    (State.setReg_reg ..).trans (if_pos rfl)
  have hset : Quiet (onPage (blkPage b)) s (u.setReg (blkPage b) Reg.CAL_CTL (calWord x)) :=
    hquiet.trans (quiet_setReg _ _ _ _ _ (.inr (keyPage_block b _ hb (by decide))))
  have hcals : (u.setReg (blkPage b) Reg.CAL_CTL (calWord x)).cals = s.cals := hquiet.cals
  have hx := histExp_calWord x (by rw [hexp]; exact hv)
  dsimp only
  rw [calCtl_accepts x (by rw [hexp]; exact hv), hreg, hexp]
  generalize u.setReg (blkPage b) Reg.CAL_CTL (calWord x) = w at hword hset hcals ⊢
  by_cases h : histExp v = histExp (s.reg (blkPage b) Reg.CAL_CTL)
  · rw [if_neg (not_not.mpr h), hword]
    refine ⟨hx.trans hexp, (bit_calWord x).trans hen, fun hne => absurd h hne, fun _ => hcals, ?_⟩
    unfold CalsOnly
    rw [hcals]
    exact hset
  · rw [if_pos h]
    obtain ⟨hcal, hrest⟩ := forN_modCal (64 * b) 64 ItpCal.restarted w
    generalize forN 64 (fun i s => s.modCal (64 * b + i) ItpCal.restarted) w = t at hcal hrest ⊢
    have htreg : t.reg (blkPage b) Reg.CAL_CTL = calWord x := by rw [hrest]; exact hword
    rw [htreg]
    refine ⟨hx.trans hexp, (bit_calWord x).trans hen, fun _ i hi => ?_, fun heq => absurd heq h, ?_⟩
    · rw [hcal, if_pos (by omega)]
      unfold State.cal
      rw [hcals]
    · unfold CalsOnly
      rw [hrest]
      exact quiet_recal _ hset

theorem near_recal {s t : State} (h : Near s t) (c : Tab ItpCal) : Near { s with cals := c } { t with cals := c } := { h with cals := rfl }

/-- A write of CAL_CTL with an accepted exponent on a path that carries it at once (R130, R135). -/
theorem writeAt_calCtl (p : Path) (blk : Fin 72) (v : W32) (s : State) (hready : Ready p (blk.val / 12) s)
    (hv : 20 ≤ histExp v ∧ histExp v ≤ 26) :
    let t := writeAt p (addrOf (blkPage blk.val) Reg.CAL_CTL) v s
    t.pending = s.pending ∧ histExp (t.reg (blkPage blk.val) Reg.CAL_CTL) = histExp v ∧
      bit (t.reg (blkPage blk.val) Reg.CAL_CTL) 0 = bit v 0 ∧
      (histExp v ≠ histExp (s.reg (blkPage blk.val) Reg.CAL_CTL) → ∀ i, i < 64 →
        t.cal (64 * blk.val + i) = (s.cal (64 * blk.val + i)).restarted) ∧
      (histExp v = histExp (s.reg (blkPage blk.val) Reg.CAL_CTL) → t.cals = s.cals) ∧
      Served (onPage (blkPage blk.val)) { s with cals := t.cals } t := by
  obtain ⟨s', hnear, hdone⟩ := writeAt_block p blk.val Reg.CAL_CTL blk.isLt (by decide) v s hready
  rw [perform_calCtl p blk.val blk.isLt v s' hv] at hdone
  have heffect := calWrite_effect blk.val blk.isLt v s' hv
  generalize calCtl blk.val (v &&& w32 0x3F0F) (reservedNoted blk.val 0x3F0F v s') = w at hdone heffect
  have hcal : ∀ m, s'.cal m = s.cal m := fun m => by unfold State.cal; rw [hnear.cals]
  have hcal' : ∀ m, (writeAt p (addrOf (blkPage blk.val) Reg.CAL_CTL) v s).cal m = w.cal m := fun m => by unfold State.cal; rw [hdone.cals]
  dsimp only at heffect ⊢
  simp only [near_reg hnear, hcal, hnear.cals, ← near_reg hdone, ← hcal', ← hdone.cals] at heffect
  obtain ⟨hexp, hen, hcleared, hkept, honly⟩ := heffect
  refine ⟨?_, hexp, hen, hcleared, hkept, ⟨_, w, ?_, honly, hdone⟩⟩
  · exact hdone.pending.trans (honly.pending.trans hnear.pending)
  · rw [hdone.cals]
    exact near_recal hnear _

end Sys2Proof.Machine

section
open Sys2Proof Sys2Proof.Machine Sys2Proof.Claims

/-- Settles O10: the builder's table (`buildTable_eq`), a GO, and the writes of CAL_CTL. -/
theorem calibrationTables : Obligations.CalibrationTables := by
  unfold Obligations.CalibrationTables
  refine ⟨fun site i rest s => ?start, fun site i s => ?finish, fun p blk v s hready => ?load,
    fun p blk v s hready hlo hhi => ?exponent, fun p blk v s hready hlo hhi => ?enable⟩
  case start =>
    intro b hq ht hb
    refine runs_of_done (congrArg (done s) (buildStart_oldest b i rest s hq ht hb)) rfl ⟨?_, rfl, fun k hk => ?_⟩
    · rw [State.setBlock_block, if_pos rfl]
    · rw [State.setBlock_block, if_neg hk]
  case finish =>
    intro b hb
    refine runs_of_done (congrArg (done s) (buildDone_building b i s hb)) rfl
      ⟨?_, ⟨_, congrArg Block.built ((State.setBlock_block ..).trans (if_pos rfl)), rfl, rfl, ?_, fun j hj => ?_⟩, rfl, fun k hk => ?_⟩
    · rw [State.setBlock_block, if_pos rfl]
    · rw [buildTable_eq, List.length_map, List.length_range]
    · rw [buildTable_eq]
      exact lget_map_range _ _ _ _ hj
    · rw [State.setBlock_block, if_neg hk]
  case load =>
    obtain ⟨s', hnear, hdone⟩ := writeAt_block p blk.val Reg.TDC_LOAD blk.isLt (by decide) (withBits v 0x100) s hready
    rw [perform_loadGo p blk.val blk.isLt] at hdone
    have heffect := loadGo_effect blk.val blk.isLt (4 * fld v 3 0 + fld v 5 4) 0x13F (withBits v 0x100) s'
    generalize loadGo blk.val (4 * fld v 3 0 + fld v 5 4) (reservedNoted blk.val 0x13F (withBits v 0x100) s') = w at hdone heffect
    dsimp only at heffect
    simp only [Marked, near_block hnear, hnear.tick, ← near_block hdone, ← near_reg hdone] at heffect
    obtain ⟨hlatched, hwaits, hothers, honly⟩ := heffect
    exact ⟨_, done_of_pending (hdone.pending.trans (honly.pending.trans hnear.pending)),
      fun hnone => ⟨_, hlatched hnone, rfl, rfl, fun j hj => lget_map_range _ _ _ _ hj⟩, hwaits, hothers, served_blocks hnear honly hdone⟩
  case exponent =>
    obtain ⟨hpending, hexp, -, hcleared, hkept, hserved⟩ := writeAt_calCtl p blk v s hready ⟨hlo, hhi⟩
    exact runs_of_done rfl hpending ⟨hexp, hcleared, hkept, hserved⟩
  case enable =>
    obtain ⟨hpending, -, hen, -, hkept, hserved⟩ := writeAt_calCtl p blk v s hready ⟨hlo, hhi⟩
    exact runs_of_done rfl hpending ⟨hen, hkept, hserved⟩

end

/-! ### Regression slots (04_interpolators.md R139–R145) -/

namespace Sys2Proof.Machine
open Sys2Proof.Claims

/-- Two states alike in all that the regression units read beside their slots. -/
structure SameBasis (s t : State) : Prop where
  regs : t.regs = s.regs
  refWrites : t.chip.refWrites = s.chip.refWrites
  deferredTo : t.chip.deferredTo = s.chip.deferredTo
  deferredFrom : t.chip.deferredFrom = s.chip.deferredFrom
  tb : ∀ h, (t.hive h).tb = (s.hive h).tb
  active : higherClaim t = higherClaim s

namespace SameBasis
variable {s t : State} (b : SameBasis s t) (n : Nat)
include b

theorem reg (pg off i : Nat) : t.reg pg off i = s.reg pg off i := by unfold State.reg; rw [b.regs]
theorem reg64 (pg off i : Nat) : t.reg64 pg off i = s.reg64 pg off i := by unfold State.reg64; rw [b.reg, b.reg]
theorem rgReg (off : Nat) : rgReg t n off = rgReg s n off := b.reg _ _ _
theorem mode : rgMode t n = rgMode s n := congrArg (fld · 1 0) (b.rgReg n _)
theorem edge : rgEdge t n = rgEdge s n := congrArg (bit · 4) (b.rgReg n _)
theorem repeats : rgRepeat t n = rgRepeat s n := congrArg (bit · 5) (b.rgReg n _)
theorem len : rgLen t n = rgLen s n := congrArg BitVec.toNat (b.rgReg n _)
theorem frame : rgFrame t n = rgFrame s n := congrArg (BitVec.ofNat 40) (b.reg64 _ _ _)
theorem nom : rgNom t n = rgNom s n := by unfold rgNom; rw [b.reg64]

theorem reserved : rgReserved t n = rgReserved s n := by
  unfold rgReserved anyCand refEff
  simp only [b.refWrites, State.cfg, b.reg]

theorem fuOf (h : HiveId) : t.fuOf h = s.fuOf h := by unfold State.fuOf; rw [b.tb]
theorem now : t.now = s.now := by unfold State.now; rw [b.active, b.fuOf]
theorem frameNow : t.frameNow = s.frameNow := by unfold State.frameNow; rw [b.active, b.tb]

theorem frameStart (f : BitVec 40) : t.frameStart f = s.frameStart f := by
  unfold State.frameStart State.epochFu State.frameFu State.frameK
  simp only [State.cfg, b.reg, b.reg64, b.now]

theorem builtFrame (f : BitVec 40) : builtFrame t f = builtFrame s f := by
  unfold Machine.builtFrame; rw [b.deferredTo, b.deferredFrom]

theorem gateCloses (k : RgSlot) (g : RgGate) : gateCloses t n k g = gateCloses s n k g := by
  unfold Machine.gateCloses; rw [b.mode, b.len, b.edge, b.frameStart, b.builtFrame]

end SameBasis

section
variable {s t u : State}

theorem slotsOnly_trans (h : t = SlotsOnly s t) (k : u = SlotsOnly t u) : u = SlotsOnly s u := k.trans (by rw [h]; rfl)

theorem sameBasis_of_slotsOnly (h : t = SlotsOnly s t) : SameBasis s t where
  regs := congrArg (fun x => x.regs) h
  refWrites := congrArg (fun x => x.chip.refWrites) h
  deferredTo := congrArg (fun x => x.chip.deferredTo) h
  deferredFrom := congrArg (fun x => x.chip.deferredFrom) h
  tb k := by
    cases k
    · exact congrArg (fun x => x.hiveA.tb) h
    · exact congrArg (fun x => x.hiveB.tb) h
  active := (congrArg higherClaim h :)

end

theorem modRg_slotsOnly (s : State) (h : HiveId) (n : Nat) (f : RgSlot → RgSlot) : s.modRg h n f = SlotsOnly s (s.modRg h n f) := by
  cases h <;> rfl

@[simp] theorem modRg_rg (s : State) (h k : HiveId) (n m : Nat) (f : RgSlot → RgSlot) :
    (s.modRg h n f).rg k m = if k = h ∧ m = n then f (s.rg h n) else s.rg k m := by
  unfold State.rg State.modRg
  rw [State.modHive_eq, State.setHive_hive]
  by_cases hk : k = h <;> by_cases hm : m = n <;> simp [hk, hm]

/-- A meaning of one hive's unit that works on slot `n` alone, by that slot and what `SameBasis` keeps. -/
structure SlotWise (n : Nat) (op : HiveId → State → State) : Prop where
  only : ∀ h s, op h s = SlotsOnly s (op h s)
  others : ∀ h s k m, ¬ (k = h ∧ m = n) → (op h s).rg k m = s.rg k m
  reads : ∀ h s t, SameBasis s t → t.rg h n = s.rg h n → (op h t).rg h n = (op h s).rg h n

/-- A change of one slot, or none. -/
theorem slotWise_of {n : Nat} {op : HiveId → State → State} (hform : ∀ h s, op h s = s ∨ ∃ f, op h s = s.modRg h n f)
    (hreads : ∀ h s t, SameBasis s t → t.rg h n = s.rg h n → (op h t).rg h n = (op h s).rg h n) : SlotWise n op where
  only h s := by
    obtain he | ⟨f, he⟩ := hform h s <;> rw [he]
    · rfl
    · exact modRg_slotsOnly s h n f
  others h s k m hne := by
    obtain he | ⟨f, he⟩ := hform h s <;> rw [he]
    rw [modRg_rg, if_neg hne]
  reads := hreads

/-- On both hives, one after the other, each slot fares as it does alone. -/
theorem SlotWise.both {n : Nat} {op : HiveId → State → State} (w : SlotWise n op) (s : State) :
    (∀ h, (op .b (op .a s)).rg h n = (op h s).rg h n) ∧ op .b (op .a s) = SlotsOnly s (op .b (op .a s)) := by
  refine ⟨fun h => ?_, slotsOnly_trans (w.only .a s) (w.only .b _)⟩
  cases h with
  | a => exact w.others .b _ .a n (by simp)
  | b => exact w.reads .b s _ (sameBasis_of_slotsOnly (w.only .a s)) (w.others .a s .b n (by simp))

theorem slotWise_arm (n : Nat) : SlotWise n (rgArm n) := by
  refine slotWise_of (fun h s => ?_) (fun h s t b hk => ?_)
  · unfold rgArm
    dsimp only
    split
    · exact .inl rfl
    · split
      · exact .inr ⟨_, rfl⟩
      · split <;> exact .inr ⟨_, rfl⟩
      · exact .inr ⟨_, rfl⟩
      · exact .inl rfl
  · unfold rgArm
    simp only [hk, b.reserved, b.mode, b.frame, b.frameNow, b.fuOf]
    repeat' split
    all_goals simp [hk]

theorem slotWise_stop (n : Nat) : SlotWise n (rgStop n) := by
  refine slotWise_of (fun h s => ?_) (fun h s t b hk => ?_)
  · unfold rgStop
    split
    · exact .inl rfl
    · exact .inr ⟨_, rfl⟩
  · unfold rgStop
    simp only [b.reserved, b.fuOf]
    split <;> simp [hk]

theorem slotWise_open (n : Nat) : SlotWise n (rgOpen n) := by
  refine slotWise_of (fun h s => ?_) (fun h s t b hk => ?_)
  · unfold rgOpen
    dsimp only
    split
    · exact .inl rfl
    · split
      · split
        · exact .inl rfl
        · exact .inr ⟨_, rfl⟩
      · split <;> exact .inr ⟨_, rfl⟩
      · exact .inl rfl
  · unfold rgOpen
    simp only [hk, b.reserved, b.mode, b.frame, b.frameNow, b.frameStart, b.builtFrame]
    repeat' split
    all_goals simp [hk]

theorem slotWise_close (n : Nat) : SlotWise n (rgClose n) := by
  refine slotWise_of (fun h s => ?_) (fun h s t b hk => ?_)
  · unfold rgClose
    dsimp only
    split
    · exact .inl rfl
    · split
      · exact .inl rfl
      · split
        · exact .inl rfl
        · split
          · exact .inl rfl
          · exact .inr ⟨_, rfl⟩
  · unfold rgClose
    simp only [hk, b.reserved, b.gateCloses, b.mode, b.edge, b.repeats, b.len, b.fuOf]
    repeat' split
    all_goals simp [hk]

theorem slotWise_stamp (n : Nat) : SlotWise n (rgStamp n) := by
  refine slotWise_of (fun h s => ?_) (fun h s t b hk => ?_)
  · unfold rgStamp
    dsimp only
    split
    · exact .inl rfl
    · split
      · exact .inl rfl
      · exact .inr ⟨_, rfl⟩
  · unfold rgStamp
    simp only [hk, b.reserved, b.gateCloses, b.nom, b.fuOf]
    repeat' split
    all_goals simp [hk]
end Sys2Proof.Machine

namespace Sys2Proof.Machine
open Sys2Proof.Claims

/-! ### Gates (R141) -/

section
variable {n : Nat} {h : HiveId} {s : State} (hr : rgReserved s n = false)
include hr

/-- A FRAME gate whose frame has begun opens at the start of that frame. -/
theorem rgOpen_frame (hmode : rgMode s n = 1) (hdef : s.chip.deferredTo = none) (hf : frameDiff (rgFrame s n) s.frameNow ≤ 0)
    (hk : (s.rg h n).state = 1) :
    ((rgOpen n h s).rg h n).state = 2 ∧
      ((rgOpen n h s).rg h n).gate = some { opened := s.frameStart (rgFrame s n), frame := rgFrame s n } := by
  have hb : builtFrame s (rgFrame s n) = rgFrame s n := by unfold builtFrame; rw [hdef]
  unfold rgOpen
  simp only [hr, hk, hmode, hb, not_lt.mpr hf]
  simp

/-- An open gate whose instant has come closes; without REPEAT none follows. -/
theorem rgClose_last {g : RgGate} {t0 : Int} (hrep : rgRepeat s n = false) (hg : (s.rg h n).gate = some g)
    (hc : gateCloses s n (s.rg h n) g = some t0) (ht : t0 ≤ s.fuOf h) :
    ((rgClose n h s).rg h n).gate = none ∧ ((rgClose n h s).rg h n).state = 2 ∧
      ((rgClose n h s).rg h n).closed = (s.rg h n).closed ++ [{ g with closed := t0 }] := by
  unfold rgClose
  simp only [hr, hg, hc, hrep, not_lt.mpr ht]
  simp

/-! ### Stamps (R140, R143) -/

/-- A stamp within the open gate of a slot without closed ones enters that gate. -/
theorem rgStamp_gate {index : Option (BitVec 32)} {sh : BitVec 32} {rest : List (Option (BitVec 32) × BitVec 32)} {g : RgGate} {x : Int}
    (hx : x = s.fuOf h - shortDiff (shortOf (s.fuOf h)) sh) (hk : (s.rg h n).stamps = (index, sh) :: rest)
    (hc : (s.rg h n).closed = []) (hg : (s.rg h n).gate = some g) (ho : gateCloses s n (s.rg h n) g = none) (hin : g.opened ≤ x) :
    ((rgStamp n h s).rg h n).stamps = rest ∧ ((rgStamp n h s).rg h n).gate = some (rgAdd (rgNom s n) index x g) := by
  have hopen : ∀ k : RgSlot, k.edges = (s.rg h n).edges → gateCloses s n k g = none := fun k he => by
    rw [← ho]; unfold gateCloses; rw [he]
  unfold rgStamp
  simp only [hr, hk, ← hx, Bool.false_eq_true, if_false, modRg_rg, and_self, if_true, hc, hg, List.findIdx?_nil]
  simp [hopen, hin]

end

/-- A stamp with an index and with its residual within range enters the six sums. -/
theorem rgAdd_sums {p : Int} {i : BitVec 32} {x e0 t0 : Int} {g : RgGate} (hg : g.origin = some (e0, t0)) {d r : Int}
    (hd : d = ((i.toNat : Int) - e0) % 2 ^ 32) (hr : r = (x - t0) * 256 - d * p) (hrange : r.natAbs ≤ 2 ^ 46) (hk : g.sums.k < 2 ^ 30) :
    (rgAdd p (some i) x g).sums = ⟨g.sums.k + 1, g.sums.n + d, g.sums.r + r, g.sums.nr + d * r, g.sums.nn + d * d, g.sums.rr + r * r⟩ ∧
      (rgAdd p (some i) x g).opened = g.opened ∧ (rgAdd p (some i) x g).origin = g.origin := by
  have hadd : rgAdd p (some i) x g = { g with
      sums := ⟨g.sums.k + 1, g.sums.n + d, g.sums.r + r, g.sums.nr + d * r, g.sums.nn + d * d, g.sums.rr + r * r⟩ } := by
    unfold rgAdd
    simp only [Option.isNone_some, Bool.false_eq_true, if_false, hg, Option.getD_some, ← hd, ← hr]
    rw [if_neg (not_lt.mpr hrange), if_neg (not_le.mpr hk)]
  rw [hadd]
  exact ⟨rfl, rfl, rfl⟩

/-! ### Edges of GATE_n (R141) -/

/-- Whether a slot takes the edges of input `m`: one of GATE mode that names it and is ARMED or OPEN. -/
abbrev TakesEdge (s : State) (m n : Nat) (k : RgSlot) : Prop :=
  rgReserved s n = false ∧ rgMode s n = 2 ∧ fld (rgReg s n Reg.CAL_RG_GATE) 3 2 = m ∧ (k.state = 1 ∨ k.state = 2)

/-- What an edge stamped `t` does to slot `n`. -/
def edgeSlot (m : Nat) (rising : Bool) (s : State) (t : Int) (n : Nat) (k : RgSlot) : RgSlot :=
  if !rgReserved s n ∧ rgMode s n = 2 ∧ fld (rgReg s n Reg.CAL_RG_GATE) 3 2 = m ∧ (k.state = 1 ∨ k.state = 2)
  then { k with edges := k.edges ++ [(t, rising)] } else k

theorem edgeSlot_eq (m : Nat) (rising : Bool) (s : State) (t : Int) (n : Nat) (k : RgSlot) :
    edgeSlot m rising s t n k = if TakesEdge s m n k then { k with edges := k.edges ++ [(t, rising)] } else k := by
  unfold edgeSlot; simp only [Bool.not_eq_true']

theorem gateEdge_rg (m : Nat) (rising : Bool) (delta : Nat) (s : State) (h : HiveId) (n : Nat) :
    (gateEdge m rising delta s).rg h n = edgeSlot m rising s (s.fuOf h + 999 - delta) n (s.rg h n) := by
  have hempty : ∀ t, edgeSlot m rising s t n {} = {} := fun t => by simp [edgeSlot]
  have hmap := fun (l : Tab RgSlot) (t : Int) => tget_map_key {} l (edgeSlot m rising s t) n (hempty t)
  cases h with
  | a => exact hmap s.hiveA.slots _
  | b => exact hmap s.hiveB.slots _

theorem gateEdge_only (m : Nat) (rising : Bool) (delta : Nat) (s : State) :
    gateEdge m rising delta s = SlotsOnly s (gateEdge m rising delta s) := rfl

/-! ### Results (R144, R145) -/

/-- What a slot and the events of its hive hold once gate `g` gave its results: FEW below three stamps, else the frequency of the fitted
period. -/
def GivesResult (p : Int) (n : Nat) (h : HiveId) (g : RgGate) (s t : State) : Prop :=
  let c := g.sums
  let det := c.k * c.nn - c.n * c.n
  let beta : ℚ := (c.k * c.nr - c.n * c.r : Int) / (det : ℚ)
  (t.rg h n).closed = [] ∧ (t.rg h n).state = 3 ∧ (t.rg h n).res.seq = (s.rg h n).res.seq + 1 ∧
    Marked t (hivePage h 0x12) Reg.CAL_RG_EVENTS n ∧ (t.rg h n).res.sums = g.sums ∧
    (c.k < 3 → (t.rg h n).res.few = true) ∧
    (3 ≤ c.k → det ≠ 0 → p + beta ≠ 0 → (t.rg h n).res.few = false ∧
      (t.rg h n).res.freq = clampI (-2 ^ 63) (2 ^ 63 - 1) (roundAway (-1000000000000000 * beta / (p + beta))))

section
variable (p : Int) (g : RgGate) (q : Qual) (seq : BitVec 16) (v w : W64)

@[simp] theorem rgResult_seq : (rgResult p g q seq v w).seq = seq := by unfold rgResult; dsimp only; split <;> rfl
@[simp] theorem rgResult_sums : (rgResult p g q seq v w).sums = g.sums := by unfold rgResult; dsimp only; split <;> rfl

theorem rgResult_few (hk : g.sums.k < 3) : (rgResult p g q seq v w).few = true := by
  unfold rgResult; dsimp only; rw [if_pos (.inl hk)]

theorem rgResult_fit (hk : 3 ≤ g.sums.k) :
    let c := g.sums
    let det := c.k * c.nn - c.n * c.n
    let beta : ℚ := (c.k * c.nr - c.n * c.r : Int) / (det : ℚ)
    det ≠ 0 → p + beta ≠ 0 → (rgResult p g q seq v w).few = false ∧
      (rgResult p g q seq v w).freq = clampI (-2 ^ 63) (2 ^ 63 - 1) (roundAway (-1000000000000000 * beta / (p + beta))) := by
  intro c det beta hdet hper
  unfold rgResult
  dsimp only
  rw [if_neg (by rintro (h | h); exacts [not_lt.mpr hk h, hdet h]), if_neg hper]
  exact ⟨rfl, rfl⟩

end

/-- Slot `n` with its oldest closed gate's results. -/
def RgSlot.finished (k : RgSlot) (rest : List RgGate) (res : RgResult) : RgSlot :=
  { k with closed := rest, res := res, state := if k.gate.isNone ∧ rest.isEmpty ∧ k.state = 2 then 3 else k.state }

/-- What a hive's unit does for results: nothing, or a change of slot `n` and the slot's event. -/
theorem rgFinish_cases (n : Nat) (v w : W64) (h : HiveId) (s : State) :
    rgFinish n v w h s = s ∨ ∃ f, rgFinish n v w h s = raise (s.modRg h n f) (rgPage h) Reg.CAL_RG_EVENTS (2 ^ n) := by
  unfold rgFinish
  dsimp only
  split
  · exact .inl rfl
  · split
    · exact .inl rfl
    · exact .inr ⟨_, rfl⟩

theorem rgFinish_closed (n : Nat) (v w : W64) (h : HiveId) (s : State) (g : RgGate) (rest : List RgGate) (hr : rgReserved s n = false)
    (hc : (s.rg h n).closed = g :: rest) :
    rgFinish n v w h s = raise (s.modRg h n (·.finished rest
      (rgResult (rgNom s n) g (s.hive h).tb.qual ((s.rg h n).res.seq + 1) v w))) (rgPage h) Reg.CAL_RG_EVENTS (2 ^ n) := by
  unfold rgFinish
  simp only [hr, hc, Bool.false_eq_true, if_false]
  rfl

end Sys2Proof.Machine

namespace Sys2Proof.Machine
open Sys2Proof.Claims

/-! ### Events and registers of the hives' CAL_RG_ pages -/

/-- The page groups in which no counter or event of `noted` but EVT_COUNT lies. -/
abbrev plainGroup (g : Nat) : Prop := g < 2 ^ 8 ∧ g ≠ 0x05 ∧ g ≠ 0x17 ∧ g ≠ 0x1B

theorem noted_hivePage (k : HiveId) (g off i : Nat) (hg : plainGroup g) (ho : off < 2 ^ 12) (he : off ≠ Reg.EVT_COUNT) :
    noted (rkey (hivePage k g) off i) = false := by
  obtain ⟨hlt, h5, h17, h1B⟩ := hg
  have hoff : rkey (hivePage k g) off i % 2 ^ 12 = off := by simp only [rkey, hivePage, page]; omega
  have hgroup : rkey (hivePage k g) off i / 2 ^ 20 % 2 ^ 8 = g := by cases k <;> simp only [rkey, hivePage, page, hiveRegion] <;> omega
  unfold noted
  rw [hoff, hgroup]
  simp [he, h5, h17, h1B]

/-- A bit raised is set. -/
theorem raise_marked (s : State) (pg off n : Nat) (hp : pg % 2 ^ 12 = 0) (hn : noted (rkey pg off 0) = false) (hb : n < 32) :
    Marked (raise s pg off (2 ^ n)) pg off n := by
  unfold Marked
  rw [raise_reg s pg off _ hp hn]
  simp only [bit, BitVec.toNat_or, Nat.testBit_or, BitVec.toNat_ofNat, Nat.testBit_mod_two_pow, Nat.testBit_two_pow_self]
  simp [hb]

theorem raise_rg (s : State) (pg off bits : Nat) (hp : pg % 2 ^ 12 = 0) (k : HiveId) (n : Nat) :
    (raise s pg off bits).rg k n = s.rg k n := by
  obtain ⟨-, -, -, -, -, hslots, -⟩ := (raise_quiet s pg off bits hp).hive k
  unfold State.rg
  rw [hslots]

theorem hiveRegion_lt (h : HiveId) : hiveRegion h < 16 := by cases h <;> decide

/-- The event registers of the slots are told from all others by offset and hive. -/
theorem rgEvents_key (h k : HiveId) (g off i : Nat) (hg : g < 2 ^ 8) (ho : off < 2 ^ 12)
    (hkey : rkey (hivePage k g) off i = rkey (rgPage h) Reg.CAL_RG_EVENTS 0) : off = Reg.CAL_RG_EVENTS ∧ k = h := by
  have hk := hiveRegion_lt k
  have hh := hiveRegion_lt h
  simp only [rkey, rgPage, hivePage, page, Reg.CAL_RG_EVENTS] at hkey ⊢
  have hregion : hiveRegion k = hiveRegion h := by omega
  refine ⟨by omega, ?_⟩
  cases k <;> cases h <;> simp [hiveRegion] at hregion ⊢

section
variable (s : State) (h : HiveId) (bits : Nat)

/-- An event of the page leaves every other register of the device-wide groups. -/
theorem raise_rg_reg (k : HiveId) (g off i : Nat) (hg : plainGroup g) (ho : off < 2 ^ 12) (he : off ≠ Reg.EVT_COUNT)
    (hne : off = Reg.CAL_RG_EVENTS → k ≠ h) :
    (raise s (rgPage h) Reg.CAL_RG_EVENTS bits).reg (hivePage k g) off i = s.reg (hivePage k g) off i := by
  refine raise_reg_other s _ _ _ _ _ _ (page_mod _ _ _) (noted_hivePage k g off i hg ho he) fun hkey => ?_
  obtain ⟨hoff, hk⟩ := rgEvents_key h k g off i hg.1 ho hkey
  exact hne hoff hk

@[simp] theorem raise_rg_reserved (n : Nat) : rgReserved (raise s (rgPage h) Reg.CAL_RG_EVENTS bits) n = rgReserved s n := by
  have hcand : ∀ off, off < 2 ^ 12 → off ≠ Reg.EVT_COUNT → off ≠ Reg.CAL_RG_EVENTS →
      refEff (raise s (rgPage h) Reg.CAL_RG_EVENTS bits) off = refEff s off := fun off ho he hne => by
    unfold refEff
    rw [raise_chip _ _ _ _ (page_mod _ _ _)]
    have hcfg : (raise s (rgPage h) Reg.CAL_RG_EVENTS bits).cfg 0x11 off = s.cfg 0x11 off :=
      raise_rg_reg s h bits .a 0x11 off 0 (by decide) ho he (absurd · hne)
    rw [hcfg]
  unfold rgReserved anyCand
  simp only [List.any_cons, List.any_nil, hcand Reg.REF_CAND_0_CFG (by decide) (by decide) (by decide),
    hcand Reg.REF_CAND_1_CFG (by decide) (by decide) (by decide), hcand Reg.REF_CAND_2_CFG (by decide) (by decide) (by decide),
    hcand Reg.REF_CAND_3_CFG (by decide) (by decide) (by decide)]

@[simp] theorem raise_rg_nom (n : Nat) : rgNom (raise s (rgPage h) Reg.CAL_RG_EVENTS bits) n = rgNom s n := by
  have hcfg : ∀ off, off < 2 ^ 12 → off ≠ Reg.EVT_COUNT → off ≠ Reg.CAL_RG_EVENTS →
      (raise s (rgPage h) Reg.CAL_RG_EVENTS bits).reg (cfgPage 0x12) off n = s.reg (cfgPage 0x12) off n := fun off ho he hne =>
    raise_rg_reg s h bits .a 0x12 off n (by decide) ho he (absurd · hne)
  unfold rgNom State.reg64
  rw [hcfg _ (by decide) (by decide) (by decide), hcfg _ (by decide) (by decide) (by decide)]

end

/-- Results of a hive's unit leave the other hive's slot and event, and all that its own results rest on. -/
theorem rgFinish_elsewhere (n : Nat) (v w : W64) (h k : HiveId) (hne : k ≠ h) (s : State) :
    let t := rgFinish n v w h s
    t.rg k n = s.rg k n ∧ rgReserved t n = rgReserved s n ∧ rgNom t n = rgNom s n ∧
      t.reg (rgPage k) Reg.CAL_RG_EVENTS = s.reg (rgPage k) Reg.CAL_RG_EVENTS ∧ t.pending = s.pending := by
  dsimp only
  obtain he | ⟨f, he⟩ := rgFinish_cases n v w h s <;> rw [he]
  · exact ⟨rfl, rfl, rfl, rfl, rfl⟩
  · have b := sameBasis_of_slotsOnly (modRg_slotsOnly s h n f)
    refine ⟨?_, ?_, ?_, ?_, ?_⟩
    · rw [raise_rg _ _ _ _ (page_mod _ _ _), modRg_rg, if_neg (fun x => hne x.1)]
    · rw [raise_rg_reserved, b.reserved]
    · rw [raise_rg_nom, b.nom]
    · rw [raise_rg_reg _ _ _ _ _ _ _ (by decide) (by decide) (by decide) (fun _ => hne), b.reg]
    · rw [raise_pending _ _ _ _ (page_mod _ _ _)]
      exact congrArg (fun x => x.pending) (modRg_slotsOnly s h n f)

/-- The last closed gate of a slot gives its results (R144, R145). -/
theorem rgFinish_gives (n : Nat) (hn : n < 16) (v w : W64) (h : HiveId) (s : State) (g : RgGate) (hr : rgReserved s n = false)
    (hc : (s.rg h n).closed = [g]) (hg : (s.rg h n).gate = none) (hk : (s.rg h n).state = 2) :
    GivesResult (rgNom s n) n h g s (rgFinish n v w h s) := by
  have hmark : Marked (rgFinish n v w h s) (hivePage h 0x12) Reg.CAL_RG_EVENTS n := by
    rw [rgFinish_closed n v w h s g [] hr hc]
    exact raise_marked _ _ _ _ (page_mod _ _ _) (noted_hivePage h 0x12 _ 0 (by decide) (by decide) (by decide)) (by omega)
  have hslot : (rgFinish n v w h s).rg h n =
      (s.rg h n).finished [] (rgResult (rgNom s n) g (s.hive h).tb.qual ((s.rg h n).res.seq + 1) v w) := by
    rw [rgFinish_closed n v w h s g [] hr hc, raise_rg _ _ _ _ (page_mod _ _ _), modRg_rg, if_pos ⟨rfl, rfl⟩]
  have hstate : ((rgFinish n v w h s).rg h n).state = 3 := by rw [hslot]; simp [RgSlot.finished, hg, hk]
  have hres := congrArg RgSlot.res hslot
  dsimp only [RgSlot.finished] at hres
  unfold GivesResult
  rw [hres]
  exact ⟨by rw [hslot]; rfl, hstate, rgResult_seq .., hmark, rgResult_sums .., rgResult_few _ _ _ _ _ _, rgResult_fit _ _ _ _ _ _⟩

/-- The results of a slot of either hive. -/
theorem rgResultBoth_gives (n : Nat) (hn : n < 16) (h : HiveId) (s : State) (g : RgGate) (hr : rgReserved s n = false)
    (hc : (s.rg h n).closed = [g]) (hg : (s.rg h n).gate = none) (hk : (s.rg h n).state = 2) :
    GivesResult (rgNom s n) n h g s (rgResultBoth n s) ∧ (rgResultBoth n s).pending = s.pending := by
  obtain ⟨v, w, u, hu, hboth⟩ : ∃ v w u, u = { s with freeCtr := u.freeCtr } ∧ rgResultBoth n s = rgFinish n v w .b (rgFinish n v w .a u) :=
    ⟨_, _, _, rfl, rfl⟩
  have hrg : ∀ k, u.rg k n = s.rg k n := fun k => by rw [hu]; cases k <;> rfl
  have hur : rgReserved u n = false := by rw [hu]; exact hr
  have hun : rgNom u n = rgNom s n := by rw [hu]; rfl
  have hup : u.pending = s.pending := by rw [hu]
  rw [hboth]
  obtain ⟨hab, hreserved, hnom, -, hpending⟩ := rgFinish_elsewhere n v w .a .b nofun u
  obtain ⟨hba, -, -, hevents, hpending'⟩ := rgFinish_elsewhere n v w .b .a nofun (rgFinish n v w .a u)
  refine ⟨?_, hpending'.trans (hpending.trans hup)⟩
  rw [← hrg] at hc hg hk
  cases h with
  | a =>
    have hres := rgFinish_gives n hn v w .a u g hur hc hg hk
    unfold GivesResult Marked at hres ⊢
    rwa [hba, hevents, ← hrg, ← hun]
  | b =>
    have hres := rgFinish_gives n hn v w .b (rgFinish n v w .a u) g (hreserved.trans hur) (by rwa [hab]) (by rwa [hab]) (by rwa [hab])
    unfold GivesResult at hres ⊢
    rwa [hab, hnom, hrg, hun] at hres

end Sys2Proof.Machine

section
open Sys2Proof Sys2Proof.Machine Sys2Proof.Claims

/-- Settles O12: gates, edges and stamps slot by slot (`SlotWise.both`), and the results of a closed gate. -/
theorem regressionGatesAndResults : Obligations.RegressionGatesAndResults := by
  unfold Obligations.RegressionGatesAndResults
  refine ⟨fun n s hr hm hd hf hk => ?frame, fun n t0 s hr hrep hg => ?close, fun m rising delta s => ?edge,
    fun n i sh rest e0 t0 g h s => ?stamp, fun n g h s hr hc hg hk => ?result⟩
  case frame =>
    obtain ⟨hslot, honly⟩ := (slotWise_open n.val).both s
    refine runs_of_done rfl (congrArg (fun x => x.pending) honly) ⟨fun h => ?_, honly⟩
    rw [hslot]
    exact rgOpen_frame hr hm hd hf (hk h)
  case close =>
    obtain ⟨hslot, honly⟩ := (slotWise_close n.val).both s
    refine runs_of_done rfl (congrArg (fun x => x.pending) honly) ⟨fun h => ?_, honly⟩
    obtain ⟨g, hgate, hcloses, ht⟩ := hg h
    obtain ⟨hnone, hstate, hclosed⟩ := rgClose_last hr hrep hgate hcloses ht
    rw [hslot]
    exact ⟨hnone, hstate, g, hgate, hclosed⟩
  case edge =>
    refine runs_of_done rfl rfl ⟨fun h k htakes => ?_, fun h k hnot => ?_, gateEdge_only m.val rising delta.val s⟩
    · rw [gateEdge_rg, edgeSlot_eq, if_pos htakes]
    · rw [gateEdge_rg, edgeSlot_eq, if_neg hnot]
  case stamp =>
    intro k x d r hr hk hc hg horigin hopen hin hrange hfull
    obtain ⟨hslot, honly⟩ := (slotWise_stamp n.val).both s
    obtain ⟨hstamps, hgate⟩ := rgStamp_gate hr rfl hk hc hg hopen hin
    obtain ⟨hsums, hopened, hfirst⟩ := rgAdd_sums (p := rgNom s n.val) (i := i) horigin rfl rfl hrange hfull
    refine runs_of_done rfl (congrArg (fun x => x.pending) honly) ⟨?_, ⟨_, ?_, hsums, hopened, hfirst⟩, honly⟩
    · rw [hslot]; exact hstamps
    · rw [hslot]; exact hgate
  case result =>
    obtain ⟨hgives, hpending⟩ := rgResultBoth_gives n.val n.isLt h s g hr hc hg hk
    exact runs_of_done rfl hpending hgives

end

namespace Sys2Proof.Machine
open Sys2Proof.Claims

/-! ### Accesses to a hive's page -/

section
variable (h : HiveId) (r : HiveRef) (g off : Nat) (hg : 0x10 ≤ g ∧ g ≤ 0x1E) (ho : off < 2 ^ 12)

include hg ho in
theorem hiveAddr_toNat : (hiveAddr r g off).toNat = off + page (refCode r) g 0 := by
  have hr : refCode r < 16 := by cases r <;> decide
  unfold hiveAddr
  rw [BitVec.toNat_ofNat]
  refine Nat.mod_eq_of_lt ?_
  simp only [page]; omega

include hg ho in
theorem keyOff_hiveAddr : keyOff (hiveAddr r g off).toNat = off := by
  rw [hiveAddr_toNat r g off hg ho]; simp only [keyOff, page]; omega

include hg ho in
/-- The page of a hive that an access names (R472, 01_device_overview.md R23). -/
theorem pageOf_hiveAddr (s : State) : pageOf s (hiveAddr r g off) = some (hivePage (hiveOf s r) g) := by
  have hcode : refCode r < 16 := by cases r <;> decide
  have hr : fld (hiveAddr r g off) 31 28 = refCode r := by
    simp only [fld, fieldN, hiveAddr_toNat r g off hg ho, Nat.shiftRight_eq_div_pow, page]; omega
  have hgroup : fld (hiveAddr r g off) 27 20 = g := by
    simp only [fld, fieldN, hiveAddr_toNat r g off hg ho, Nat.shiftRight_eq_div_pow, page]; omega
  have hi : fld (hiveAddr r g off) 19 12 = 0 := by
    simp only [fld, fieldN, hiveAddr_toNat r g off hg ho, Nat.shiftRight_eq_div_pow, page]; omega
  have hregion : (if refCode r = 0xC then hiveRegion (higherClaim s) else refCode r) = hiveRegion (hiveOf s r) := by cases r <;> rfl
  have hknown : ∀ k, pageKnown (hiveRegion k) g 0 = true := fun k => by cases k <;> simp [pageKnown, hiveRegion, hg]
  unfold pageOf
  dsimp only
  rw [hr, hgroup, hi, hregion, if_pos (hknown _)]

include hg in
theorem pageDomain_hive : pageDomain (hivePage h g) = hiveDom h := by
  have hr : keyRegion (hivePage h g) = hiveRegion h := by cases h <;> simp only [keyRegion, hivePage, page, hiveRegion] <;> omega
  unfold pageDomain
  dsimp only
  rw [hr]
  cases h <;> rfl

end

/-- A write to a hive's page on a path that carries it at once lies between two states that differ in the carrying alone. -/
theorem writeAt_hive (p : Path) (r : HiveRef) (g off : Nat) (hg : 0x10 ≤ g ∧ g ≤ 0x1E) (ho : off < 2 ^ 12) (v : W32) (s : State)
    (h : Ready p (hiveDom (hiveOf s r)) s) :
    ∃ s', Near s s' ∧ Near (perform p opWrite (hivePage (hiveOf s r) g) off v s').1 (writeAt p (hiveAddr r g off) v s) := by
  obtain ⟨hfree, hgate, hj⟩ := h
  have hserve : (if p = .startup then Gate.serve else gate s (pageDomain (hivePage (hiveOf s r) g))) = .serve := by
    rw [pageDomain_hive _ g hg]
    exact ite_eq_left_iff.mpr hgate.resolve_left
  have hnear := pathAccess_near p opWrite _ (hiveAddr r g off) v s hfree (fun hp => ⟨hj hp, .inl rfl⟩) (pageOf_hiveAddr r g off hg ho s) hserve
  rwa [keyOff_hiveAddr r g off hg ho] at hnear

/-! ### Slots and what carries an access -/

section
variable {s t u v : State} {K : Nat → Prop}

theorem near_hive (h : Near s t) (k : HiveId) : t.hive k = s.hive k := by cases k <;> [exact h.hiveA; exact h.hiveB]

theorem near_rg (h : Near s t) (k : HiveId) (n : Nat) : t.rg k n = s.rg k n := by unfold State.rg; rw [near_hive h]

theorem near_higherClaim (h : Near s t) : higherClaim t = higherClaim s := by
  have hclaim : ∀ k, presented t k = presented s k := fun k => by
    unfold presented; rw [near_hive h, h.domain]
  unfold higherClaim; rw [hclaim, hclaim]

theorem sameBasis_of_near (h : Near s t) : SameBasis s t where
  regs := h.regs
  refWrites := by rw [h.chip]
  deferredTo := by rw [h.chip]
  deferredFrom := by rw [h.chip]
  tb k := by rw [near_hive h]
  active := near_higherClaim h

theorem near_rgSelected (h : Near s t) (p : Path) : rgSelected t p = rgSelected s p := by
  unfold rgSelected State.sel; rw [h.sels]

theorem near_slotsOnly (h : Near s t) (x : State) : Near (SlotsOnly s x) (SlotsOnly t x) :=
  { h with hiveA := by unfold SlotsOnly; rw [h.hiveA], hiveB := by unfold SlotsOnly; rw [h.hiveB] }

/-- An access whose register acts on the slots alone, up to the events it marks. -/
theorem near_slots {s' : State} (hn : Near s s') (h : u = SlotsOnly s' u) (q : Quiet K u v) (hv : Near v t) : Near (SlotsOnly s t) u := by
  have hslots : ∀ k, (t.hive k).slots = (u.hive k).slots := fun k => by
    obtain ⟨-, -, -, -, -, hslots, -⟩ := q.hive k
    rw [near_hive hv, hslots]
  have hsame : SlotsOnly s t = SlotsOnly s u := by
    have ha := hslots .a
    have hb := hslots .b
    dsimp only [State.hive] at ha hb
    unfold SlotsOnly
    rw [ha, hb]
  rw [hsame, h]
  exact near_slotsOnly hn _

theorem slots_pending {s' : State} (hn : Near s s') (h : u = SlotsOnly s' u) (q : Quiet K u v) (hv : Near v t) : t.pending = s.pending :=
  hv.pending.trans (q.pending.trans ((congrArg (fun x => x.pending) h).trans hn.pending))

end

/-! ### ARM and STOP (R141, R142) -/

section
variable {n : Nat} {h : HiveId} {s : State} (hr : rgReserved s n = false)
include hr

section
variable (hidle : (s.rg h n).state ≠ 1 ∧ (s.rg h n).state ≠ 2)
include hidle

theorem rgArm_time (hm : rgMode s n = 0) :
    ((rgArm n h s).rg h n).state = 2 ∧ ((rgArm n h s).rg h n).gate = some { opened := s.fuOf h } := by
  unfold rgArm; simp [hr, hidle, hm]

theorem rgArm_frame (hm : rgMode s n = 1) (hf : 0 < frameDiff (rgFrame s n) s.frameNow) :
    ((rgArm n h s).rg h n).state = 1 ∧ ((rgArm n h s).rg h n).gate = (s.rg h n).gate := by
  unfold rgArm; simp [hr, hidle, hm, not_le.mpr hf]

theorem rgArm_late (hm : rgMode s n = 1) (hf : frameDiff (rgFrame s n) s.frameNow ≤ 0) :
    ((rgArm n h s).rg h n).state = (s.rg h n).state ∧ ((rgArm n h s).rg h n).expired = true := by
  unfold rgArm; simp [hr, hidle, hm, hf]

theorem rgArm_gate (hm : rgMode s n = 2) : ((rgArm n h s).rg h n).state = 1 := by
  unfold rgArm; simp [hr, hidle, hm]

end

theorem rgStop_gate {g : RgGate} (hg : (s.rg h n).gate = some g) : ((rgStop n h s).rg h n).gate = none ∧
    ((rgStop n h s).rg h n).closed = (s.rg h n).closed ++ [{ g with closed := s.fuOf h }] := by
  unfold rgStop; simp [hr, hg]

theorem rgStop_armed (hg : (s.rg h n).gate = none) (hk : (s.rg h n).state = 1) : ((rgStop n h s).rg h n).state = 0 := by
  unfold rgStop; simp [hr, hg, hk]

end

theorem rgStop_reserved {n : Nat} {h : HiveId} {s : State} (hr : rgReserved s n = true) : rgStop n h s = s := if_pos hr

/-! ### The writes of CAL_RG_CTL (R139, R142) -/

/-- A write of ARM or STOP alone. -/
theorem perform_rgCtl (p : Path) (h : HiveId) (v : W32) (hv : v = 1 ∨ v = 2) (s : State) :
    perform p opWrite (hivePage h 0x12) Reg.CAL_RG_CTL v s =
      (valueIf (bit v 0 && rgLocked s (rgSelected s p)) (hivePage h 0x12) (rgCtl (rgSelected s p) v s), 0, 0) := by
  obtain rfl | rfl := hv <;> cases h <;> rfl

/-- STOP reaches both units. -/
theorem perform_stop (p : Path) (h : HiveId) (s : State) :
    (perform p opWrite (hivePage h 0x12) Reg.CAL_RG_CTL 2 s).1 = rgStop (rgSelected s p) .b (rgStop (rgSelected s p) .a s) := by
  rw [perform_rgCtl p h 2 (.inr rfl)]
  rfl

/-- ARM of an idle slot of the host's reaches both units; for a frame already begun it is refused EXPIRED once. -/
theorem perform_arm (p : Path) (h : HiveId) (s : State) (n : Nat) (hn : rgSelected s p = n) (hr : rgReserved s n = false)
    (hidle : ∀ k, (s.rg k n).state ≠ 1 ∧ (s.rg k n).state ≠ 2) :
    (perform p opWrite (hivePage h 0x12) Reg.CAL_RG_CTL 1 s).1 =
      if rgMode s n = 1 ∧ frameDiff (rgFrame s n) s.frameNow ≤ 0 then schedExpired (rgArm n .b (rgArm n .a s))
      else rgArm n .b (rgArm n .a s) := by
  rw [perform_rgCtl p h 1 (.inl rfl), hn]
  have hlocked : rgLocked s n = false := by unfold rgLocked; simp [hr, hidle]
  have hctl : rgCtl n 1 s = if (decide (rgMode s n = 1) && !rgReserved s n &&
      !decide ((s.rg (higherClaim s) n).state = 1 ∨ (s.rg (higherClaim s) n).state = 2) && decide (frameDiff (rgFrame s n) s.frameNow ≤ 0)) = true
      then schedExpired (rgArm n .b (rgArm n .a s)) else rgArm n .b (rgArm n .a s) := rfl
  rw [hlocked, Bool.and_false]
  exact hctl.trans (if_congr (by simp [hr, hidle]) rfl rfl)

/-- A scheduled action refused EXPIRED is counted and marked on the chip's page (11_systems.md R369). -/
theorem schedExpired_effect (s : State) :
    (schedExpired s).reg chipPage Reg.CHIP_SCHED_EXP_CNT = satInc (s.reg chipPage Reg.CHIP_SCHED_EXP_CNT) 1 ∧
      Marked (schedExpired s) chipPage Reg.CHIP_SYS_EVENTS 2 ∧ Quiet (onPage chipPage) s (schedExpired s) ∧
      ∀ h n, (schedExpired s).rg h n = s.rg h n := by
  unfold schedExpired
  refine ⟨?_, raise_marked _ chipPage Reg.CHIP_SYS_EVENTS 2 (by decide) (by decide) (by decide), ?_, fun h n => ?_⟩
  · rw [raise_reg_other _ chipPage Reg.CHIP_SYS_EVENTS 4 chipPage Reg.CHIP_SCHED_EXP_CNT 0 (by decide) (by decide) (by decide)]
    exact (State.setReg_reg ..).trans (if_pos rfl)
  · refine (quiet_count (K := onPage chipPage) s chipPage Reg.CHIP_SCHED_EXP_CNT 1 0 (.inr rfl)).trans
      (quiet_mono (raise_quiet _ _ _ _ (page_mod _ _ _)) ?_)
    rintro k rfl
    rfl
  · rw [raise_rg _ _ _ _ (page_mod _ _ _)]
    cases h <;> rfl

/-- ARM on both units, refused EXPIRED or not: each slot fares as its own unit has it, a refusal is counted once, and nothing else changes. -/
theorem armBoth_effect (n : Nat) (late : Prop) [Decidable late] (s : State) :
    let w := rgArm n .b (rgArm n .a s)
    let v := if late then schedExpired w else w
    (∀ h, v.rg h n = (rgArm n h s).rg h n) ∧
      (late → v.reg chipPage Reg.CHIP_SCHED_EXP_CNT = satInc (s.reg chipPage Reg.CHIP_SCHED_EXP_CNT) 1 ∧
        Marked v chipPage Reg.CHIP_SYS_EVENTS 2) ∧
      w = SlotsOnly s w ∧ Quiet (fun k => onHives 0x12 k ∨ onPage chipPage k) w v := by
  intro w v
  obtain ⟨hslot, honly⟩ := (slotWise_arm n).both s
  obtain ⟨hcount, hmark, hquiet, hslots⟩ := schedExpired_effect w
  rw [(sameBasis_of_slotsOnly honly).reg] at hcount
  by_cases h : late
  · have hv : v = schedExpired w := if_pos h
    rw [hv]
    exact ⟨fun k => (hslots k n).trans (hslot k), fun _ => ⟨hcount, hmark⟩, honly, quiet_mono hquiet fun _ => .inr⟩
  · have hv : v = w := if_neg h
    rw [hv]
    exact ⟨hslot, fun hl => absurd hl h, honly, Quiet.refl w⟩

/-! ### The read of CAL_RG_STATUS (R145) -/

theorem perform_rgStatus (p : Path) (h : HiveId) (s : State) :
    perform p opRead (hivePage h 0x12) Reg.CAL_RG_STATUS 0 s = ((rgSnapshot p (hivePage h 0x12) s).1, 0, (rgSnapshot p (hivePage h 0x12) s).2) := by
  cases h <;> rfl

/-- The path's snapshot of its selected slot. -/
theorem rgSnapshot_eq (p : Path) (h : HiveId) (s : State) :
    let n := rgSelected s p
    rgSnapshot p (hivePage h 0x12) s =
      (s.modPath p (fun x => { x with rgSnap := some (n, (s.rg h n).res, (rgStatus s h n).toNat) }), rgStatus s h n) := by cases h <;> rfl

theorem rgStatus_congr {s t : State} (b : SameBasis s t) (h : HiveId) (n : Nat) (hk : t.rg h n = s.rg h n) : rgStatus t h n = rgStatus s h n := by
  unfold rgStatus; rw [hk, b.reserved]

end Sys2Proof.Machine

section
open Sys2Proof Sys2Proof.Machine Sys2Proof.Claims

/-- Settles O11: ARM and STOP reach both units (`SlotWise.both`), the read of CAL_RG_STATUS the path's snapshot alone. -/
theorem regressionCommands : Obligations.RegressionCommands := by
  unfold Obligations.RegressionCommands
  refine ⟨fun p r s hready => ?arm, fun p r s hready => ?stop, fun p r s ⟨⟨hfree, hgate, _⟩, hj⟩ => ?snapshot⟩
  case arm =>
    intro n hr hidle
    obtain ⟨s', hnear, hdone⟩ := writeAt_hive p r 0x12 Reg.CAL_RG_CTL (by decide) (by decide) 1 s hready
    have b := sameBasis_of_near hnear
    have hr' : rgReserved s' n = false := by rw [b.reserved]; exact hr
    have hidle' : ∀ k, (s'.rg k n).state ≠ 1 ∧ (s'.rg k n).state ≠ 2 := fun k => by rw [near_rg hnear]; exact hidle k
    rw [perform_arm p _ s' n (near_rgSelected hnear p) hr' hidle', b.mode, b.frame, b.frameNow] at hdone
    obtain ⟨hslot, hexpired, honly, hquiet⟩ := armBoth_effect n (rgMode s n = 1 ∧ frameDiff (rgFrame s n) s.frameNow ≤ 0) s'
    have hrg := fun h => (near_rg hdone h n).trans (hslot h)
    simp only [Marked, ← near_reg hdone, b.reg] at hexpired
    refine runs_of_done rfl (slots_pending hnear honly hquiet hdone)
      ⟨fun hm h => ?_, fun hm hf h => ?_, fun hm hf => ⟨fun h => ?_, hexpired ⟨hm, hf⟩⟩, fun hm h => ?_, _, _, near_slots hnear honly hquiet hdone, hquiet, hdone⟩
    · rw [hrg, ← b.fuOf]
      exact rgArm_time hr' (hidle' h) (by rw [b.mode]; exact hm)
    · rw [hrg, ← near_rg hnear]
      exact rgArm_frame hr' (hidle' h) (by rw [b.mode]; exact hm) (by rw [b.frame, b.frameNow]; exact hf)
    · rw [hrg, ← near_rg hnear]
      exact rgArm_late hr' (hidle' h) (by rw [b.mode]; exact hm) (by rw [b.frame, b.frameNow]; exact hf)
    · rw [hrg]
      exact rgArm_gate hr' (hidle' h) (by rw [b.mode]; exact hm)
  case stop =>
    intro n
    obtain ⟨s', hnear, hdone⟩ := writeAt_hive p r 0x12 Reg.CAL_RG_CTL (by decide) (by decide) 2 s hready
    have b := sameBasis_of_near hnear
    rw [perform_stop, near_rgSelected hnear p] at hdone
    obtain ⟨hslot, honly⟩ := (slotWise_stop n).both s'
    have hrg : ∀ h, (writeAt p (hiveAddr r 0x12 Reg.CAL_RG_CTL) 2 s).rg h n = (rgStop n h s').rg h n := fun h =>
      (near_rg hdone h n).trans (hslot h)
    refine runs_of_done rfl (slots_pending (K := fun _ => False) hnear honly (Quiet.refl _) hdone)
      ⟨fun hr h => ?_, fun h g hr hg => ?_, fun h hr hg hk => ?_, (near_slots (K := fun _ => False) hnear honly (Quiet.refl _) hdone).trans hdone⟩
    · rw [hrg, rgStop_reserved (by rw [b.reserved]; exact hr), near_rg hnear]
    · rw [hrg, ← near_rg hnear, ← b.fuOf]
      exact rgStop_gate (by rw [b.reserved]; exact hr) (by rw [near_rg hnear]; exact hg)
    · rw [hrg]
      exact rgStop_armed (by rw [b.reserved]; exact hr) (by rw [near_rg hnear]; exact hg) (by rw [near_rg hnear]; exact hk)
  case snapshot =>
    intro n
    have hserve : (if p = .startup then Gate.serve else gate s (pageDomain (hivePage (hiveOf s r) 0x12))) = .serve := by
      rw [pageDomain_hive _ _ (by decide)]
      exact ite_eq_left_iff.mpr hgate.resolve_left
    obtain ⟨s', hnear, hdone, -, hdata⟩ := pathAccess_result p opRead _ _ 0 s hfree hj
      (pageOf_hiveAddr r 0x12 Reg.CAL_RG_STATUS (by decide) (by decide) s) hserve
    have hstatus := rgStatus_congr (sameBasis_of_near hnear) (hiveOf s r) n (near_rg hnear _ _)
    rw [keyOff_hiveAddr r 0x12 Reg.CAL_RG_STATUS (by decide) (by decide), perform_rgStatus, rgSnapshot_eq, near_rgSelected hnear] at hdone hdata
    dsimp only at hdone hdata
    have hpath := congrArg PathSt.rgSnap (hdone.path p)
    rw [State.modPath_eq, State.setPath_path, if_pos rfl] at hpath
    refine runs_of_done rfl (hdone.pending.trans hnear.pending) ⟨hdata.trans hstatus, ?_, hdone.regs.trans hnear.regs,
      hdone.hiveA.trans hnear.hiveA, hdone.hiveB.trans hnear.hiveB⟩
    refine hpath.trans ?_
    rw [hstatus, near_rg hnear]

end

/-! ### Blocks, region mergers and bridges (05_blocks_regions.md) -/

namespace Sys2Proof.Machine
open Sys2Proof.Claims

/-- A fact that holds before a loop and that every round carries on holds after it. -/
theorem forN_induct {σ : Type} {n : Nat} {f : Nat → σ → σ} {s : σ} (P : Nat → σ → Prop) (h0 : P 0 s)
    (hs : ∀ i u, i < n → P i u → P (i + 1) (f i u)) : P n (forN n f s) := by
  unfold forN
  induction n with
  | zero => exact h0
  | succ n ih =>
    rw [List.range_succ, List.foldl_append]
    exact hs n _ (Nat.lt_succ_self n) (ih fun i u hi => hs i u (Nat.lt_succ_of_lt hi))

/-! ### Changes of cells, blocks and combs -/

/-- Of the state only cells, blocks and combs may differ, beside `K` and what the delivery of events marks. -/
def StagesOnly (K : Nat → Prop) (s t : State) : Prop := Quiet K { s with cells := t.cells, blocks := t.blocks, combs := t.combs } t

section
variable {K L : Nat → Prop} {s t u : State}

/-- What the delivery of events leaves alone does not depend on the cells, blocks and combs it finds. -/
theorem quiet_restage (a : Tab Cell) (b : Tab Block) (c : Tab Comb) (q : Quiet K s t) :
    Quiet K { s with cells := a, blocks := b, combs := c } { t with cells := a, blocks := b, combs := c } :=
  { pending := q.pending, tick := q.tick, staged := q.staged, upsets := q.upsets, sels := q.sels, paths := q.paths, stalls := q.stalls
    cells := rfl, cals := q.cals, blocks := rfl, combs := rfl, lanes := q.lanes, domains := q.domains, hks := q.hks, chip := q.chip
    hive := fun h => match h with
      | .a => q.hive .a
      | .b => q.hive .b
    worker := q.worker, regs := q.regs }

theorem stagesOnly_of_quiet (q : Quiet K s t) : StagesOnly K s t := by
  unfold StagesOnly
  rw [q.cells, q.blocks, q.combs]
  exact q

theorem stagesOnly_refl (s : State) : StagesOnly K s s := Quiet.refl s

namespace StagesOnly

theorem quiet (h : StagesOnly K s t) : Quiet K { s with cells := t.cells, blocks := t.blocks, combs := t.combs } t := h

theorem trans (h : StagesOnly K s t) (k : StagesOnly K t u) : StagesOnly K s u := by
  have hq := quiet_restage u.cells u.blocks u.combs h.quiet
  exact hq.trans k.quiet

theorem mono (h : StagesOnly K s t) (hk : ∀ k, K k → L k) : StagesOnly L s t := quiet_mono h hk

variable (h : StagesOnly K s t)
include h

theorem pending : t.pending = s.pending := h.quiet.pending
theorem tick : t.tick = s.tick := h.quiet.tick
theorem chip : t.chip = s.chip := h.quiet.chip
theorem lanes : t.lanes = s.lanes := h.quiet.lanes

theorem hive (k : HiveId) : HiveKeeps (s.hive k) (t.hive k) := by
  cases k
  · exact h.quiet.hive .a
  · exact h.quiet.hive .b

theorem reg (pg off i : Nat) (hn : noted (rkey pg off i) = false) (hk : ¬ K (rkey pg off i)) : t.reg pg off i = s.reg pg off i :=
  Quiet.reg h pg off i hn hk

/-- The combs alone differ where cells and blocks are as they were. -/
theorem combs (hc : t.cells = s.cells) (hb : t.blocks = s.blocks) : Quiet K { s with combs := t.combs } t := by
  unfold StagesOnly at h
  rwa [hc, hb] at h

/-- Cells and blocks alone differ where the combs are as they were. -/
theorem cellsBlocks (hc : t.combs = s.combs) : Quiet K { s with cells := t.cells, blocks := t.blocks } t := by
  unfold StagesOnly at h
  rwa [hc] at h

end StagesOnly

theorem stagesOnly_setBlock (s : State) (b : Nat) (x : Block) : StagesOnly K s (s.setBlock b x) := Quiet.refl _
theorem stagesOnly_setComb (s : State) (c : Nat) (x : Comb) : StagesOnly K s (s.setComb c x) := Quiet.refl _

end

/-! ### Pages of blocks and region mergers (15_control.md R472) -/

/-- The page of a block or of a region merger. -/
def StagePage (pg : Nat) : Prop := ∃ r g i, pg = page r g i ∧ r < 6 ∧ (g = 1 ∨ g = 2) ∧ i < 12

/-- An offset of a page at which no event is counted. -/
abbrev PlainOff (off : Nat) : Prop := off < 2 ^ 12 ∧ off ≠ Reg.EVT_COUNT

theorem stagePage_blk {b : Nat} (hb : b < 72) : StagePage (blkPage b) :=
  ⟨b / 12, 1, b % 12, rfl, by omega, .inl rfl, Nat.mod_lt _ (by decide)⟩
theorem stagePage_comb {c : Nat} (hc : c < 6) : StagePage (combPage c 0x02) := ⟨c, 2, 0, rfl, hc, .inr rfl, by decide⟩

namespace StagePage
variable {pg : Nat} (hpg : StagePage pg)
include hpg

theorem mod : pg % 2 ^ 12 = 0 := by obtain ⟨r, g, i, rfl, -⟩ := hpg; exact page_mod r g i

theorem keyPage {off : Nat} (ho : off < 2 ^ 12) : keyPage (rkey pg off 0) = pg := by
  obtain ⟨r, g, i, rfl, hr, hg, hi⟩ := hpg
  simp only [Machine.keyPage, rkey, page]; omega

theorem group (off : Nat) (ho : off < 2 ^ 12) : keyGroup (rkey pg off 0) = 1 ∨ keyGroup (rkey pg off 0) = 2 := by
  obtain ⟨r, g, i, rfl, hr, hg, hi⟩ := hpg
  simp only [keyGroup, rkey, page]; omega

theorem off {off : Nat} (ho : off < 2 ^ 12) : keyOff (rkey pg off 0) = off := by
  obtain ⟨r, g, i, rfl, -⟩ := hpg
  simp only [keyOff, rkey, page]; omega

theorem noted {off : Nat} (ho : PlainOff off) : noted (rkey pg off 0) = false := by
  have hoff := hpg.off ho.1
  have hgroup := hpg.group off ho.1
  simp only [keyOff, keyGroup] at hoff hgroup
  unfold Machine.noted
  rw [hoff]
  obtain h | h := hgroup <;> rw [h] <;> simp [ho.2]

theorem not_guardCount {off : Nat} (ho : off < 2 ^ 12) : ¬ GuardCount (rkey pg off 0) := by
  rintro ⟨-, h⟩
  have hgroup := hpg.group off ho
  simp only [keyGroup, h] at hgroup
  omega

/-- Registers of these pages are told apart by page and offset. -/
theorem key_inj {pg' off off' : Nat} (hpg' : StagePage pg') (ho : off < 2 ^ 12) (ho' : off' < 2 ^ 12)
    (h : rkey pg off 0 = rkey pg' off' 0) : pg = pg' ∧ off = off' :=
  ⟨by rw [← hpg.keyPage ho, h, hpg'.keyPage ho'], by rw [← hpg.off ho, h, hpg'.off ho']⟩

end StagePage

section
variable {pg : Nat} (hpg : StagePage pg) (s : State)
include hpg

theorem stagesOnly_setReg {off : Nat} (ho : off < 2 ^ 12) (v : W32) : StagesOnly (onPage pg) s (s.setReg pg off v) :=
  stagesOnly_of_quiet (quiet_setReg s _ _ _ _ (.inr (hpg.keyPage ho)))

theorem quiet_raise_stage {off : Nat} (ho : off < 2 ^ 12) (bits : Nat) : Quiet (onPage pg) s (raise s pg off bits) := by
  refine quiet_mono (raise_quiet s _ _ _ hpg.mod) ?_
  rintro k rfl
  exact hpg.keyPage ho

/-- An event bit leaves the other registers of these pages. -/
theorem raise_stage_reg {off pg' off' : Nat} (hpg' : StagePage pg') (ho : off < 2 ^ 12) (ho' : PlainOff off') (hne : ¬ (pg' = pg ∧ off' = off))
    (bits : Nat) : (raise s pg off bits).reg pg' off' = s.reg pg' off' :=
  raise_reg_other s _ _ _ _ _ _ hpg.mod (hpg'.noted ho') fun h => hne (hpg'.key_inj hpg ho'.1 ho h)

theorem setReg_stage_reg {off pg' off' : Nat} (hpg' : StagePage pg') (ho : off < 2 ^ 12) (ho' : off' < 2 ^ 12) (hne : ¬ (pg' = pg ∧ off' = off))
    (v : W32) : (s.setReg pg off v).reg pg' off' = s.reg pg' off' :=
  (State.setReg_reg ..).trans (if_neg fun h => hne (hpg'.key_inj hpg ho' ho h))

/-- A register of these pages set leaves the sources of the guards. -/
theorem sourcesKept_setReg {off : Nat} (ho : off < 2 ^ 12) (v : W32) : SourcesKept s (s.setReg pg off v) :=
  .setReg s pg off v (hpg.not_guardCount ho)

end

/-- An error of a stage reported: bit `n` of an event register raised and an event of a guard source given (14_redundancy_faults.md R451). -/
def reportError (pg off n g src : Nat) (s : State) : State := guardEvent (raise s pg off (2 ^ n)) g src

/-- What a reported error does. -/
theorem reportError_effect {pg off n g src : Nat} (hpg : StagePage pg) (ho : PlainOff off) (hn : n < 32) (hs : Spared g src) (s : State) :
    let t := reportError pg off n g src s
    Quiet (onPage pg) s t ∧ Marked t pg off n ∧ SourceCounts g src s t ∧
      ∀ pg' off', StagePage pg' → PlainOff off' → ¬ (pg' = pg ∧ off' = off) → t.reg pg' off' = s.reg pg' off' := by
  have hmark := raise_marked s pg off n hpg.mod (hpg.noted ho) hn
  have hquiet := quiet_raise_stage hpg s ho.1 (2 ^ n)
  have hkept : SourcesKept s (raise s pg off (2 ^ n)) := .raise s _ _ _ ⟨hpg.mod, hpg.not_guardCount ho.1⟩
  unfold reportError
  refine ⟨hquiet.trans (guardEvent_quiet _ _ _), ?_, fun hbroken => ?_, fun pg' off' hpg' ho' hne => ?_⟩
  · unfold Marked
    rwa [guardEvent_reg _ _ _ _ _ _ (hpg.noted ho)]
  · rw [guardEvent_counts _ g src hs (by rwa [hkept.source _ _ hs]), hkept.reg hs]
  · rw [guardEvent_reg _ _ _ _ _ _ (hpg'.noted ho'), raise_stage_reg hpg s hpg' ho.1 ho' hne]

/-- A source that counts from a state with the same sources counts. -/
theorem sourceCounts_of_kept {g src : Nat} {s t u : State} (hs : Spared g src) (hk : SourcesKept s t) (h : SourceCounts g src t u) :
    SourceCounts g src s u := fun hb => by
  rw [h (by rwa [hk.source _ _ hs]), hk.reg hs]

theorem spared_comb {c : Nat} (hc : c < 6) (src : Nat) : Spared c src := ⟨by omega, .inl hc⟩

section
variable {K : Nat → Prop} {s t : State} (q : Quiet K s t)
include q

theorem Quiet.cell (k : Nat) : t.cell k = s.cell k := by unfold State.cell; rw [q.cells]
theorem Quiet.block (k : Nat) : t.block k = s.block k := by unfold State.block; rw [q.blocks]
theorem Quiet.comb (k : Nat) : t.comb k = s.comb k := by unfold State.comb; rw [q.combs]

end

end Sys2Proof.Machine

namespace Sys2Proof.Machine
open Sys2Proof.Claims

/-! ### Open slots (05_blocks_regions.md R157, R164) -/

/-- A block with a change of each of its open slots. -/
def Block.mapSlots (x : Block) (f : Slot → Slot) : Block := { x with slots := x.slots.map f }

/-- A comb with a change of each of its open slots. -/
def Comb.mapSlots (x : Comb) (f : RegSlot → RegSlot) : Comb := { x with slots := x.slots.map f }

@[simp] theorem Block.mapSlots_slots (x : Block) (f : Slot → Slot) : (x.mapSlots f).slots = x.slots.map f := rfl
@[simp] theorem Block.mapSlots_store (x : Block) (f : Slot → Slot) : (x.mapSlots f).store = x.store := rfl
@[simp] theorem Comb.mapSlots_slots (x : Comb) (f : RegSlot → RegSlot) : (x.mapSlots f).slots = x.slots.map f := rfl

/-- A change of a block's slots that leaves all but their markers. -/
def OnlyMarkers (f : Slot → Slot) : Prop := ∀ k, f k = { k with markers := (f k).markers }

theorem OnlyMarkers.comp {f g : Slot → Slot} (hf : OnlyMarkers f) (hg : OnlyMarkers g) : OnlyMarkers (f ∘ g) := fun k => by
  have h := hf (g k)
  rw [hg k] at h
  simpa only [Function.comp_apply, ← hg k] using h

/-- A comb that differs from another in the close groups of its open slots alone. -/
def GroupsDiffer (x y : Comb) : Prop := ∃ f, (∀ k, f k = { k with groups := (f k).groups }) ∧ y = x.mapSlots f

theorem GroupsDiffer.refl (x : Comb) : GroupsDiffer x x := ⟨id, fun _ => rfl, by simp [Comb.mapSlots]⟩

theorem GroupsDiffer.trans {x y z : Comb} (h : GroupsDiffer x y) (k : GroupsDiffer y z) : GroupsDiffer x z := by
  obtain ⟨f, hf, rfl⟩ := h
  obtain ⟨g, hg, rfl⟩ := k
  refine ⟨g ∘ f, fun q => ?_, by simp [Comb.mapSlots]⟩
  have hq := hg (f q)
  rw [hf q] at hq
  simpa only [Function.comp_apply, ← hf q] using hq

section
variable {x y : Comb} (h : GroupsDiffer x y)
include h

theorem GroupsDiffer.inputs : y.inputs = x.inputs := by obtain ⟨f, -, rfl⟩ := h; rfl
theorem GroupsDiffer.bundle (k : HiveId) : y.bundle k = x.bundle k := by obtain ⟨f, -, rfl⟩ := h; rfl

end

/-- Flags put into the length word that a slot holds of block `i`. -/
def RegSlot.flagGroup (k : RegSlot) (i : Nat) (flags : W64) : RegSlot :=
  { k with groups := k.groups.map (fun e => (e.1, if e.1 = i then lmod e.2 0 (· ||| flags) else e.2)) }

/-- A slot with the marker of a cell. -/
def Slot.mark (k : Slot) (c : Nat) : Slot := { k with markers := k.markers ||| (1#16 <<< (c % 16)) }

/-- Markers applied to a block's slots one after the other. -/
theorem foldl_mark (c b : Nat) (ms : List (BitVec 40 × Nat)) (s : State) : ∃ f, OnlyMarkers f ∧
    let t := ms.foldl (fun (s : State) m => s.modSlot b m.1 (·.mark c)) s
    (∀ j, t.block j = if j = b then (s.block b).mapSlots f else s.block j) ∧ t = { s with blocks := t.blocks } := by
  induction ms generalizing s with
  | nil =>
    refine ⟨id, fun _ => rfl, fun j => ?_, rfl⟩
    simp only [List.foldl_nil, Block.mapSlots, List.map_id]
    split
    · rename_i h; rw [h]
    · rfl
  | cons m ms ih =>
    obtain ⟨f, hf, hblock, honly⟩ := ih (s.modSlot b m.1 (·.mark c))
    refine ⟨f ∘ fun k => if k.frame = m.1 then k.mark c else k, hf.comp fun k => ?_, fun j => ?_, honly.trans rfl⟩
    · split <;> rfl
    · rw [List.foldl_cons, hblock]
      simp only [State.modSlot, State.modBlock_eq, State.setBlock_block, if_true]
      split
      · simp [Block.mapSlots]
      · rfl

/-- A cell without the markers that the point read has passed. -/
def Cell.unmarked (x : Cell) : Cell := { x with markers := x.markers.filter (fun m => !(m.2 ≤ x.rdPos)) }

theorem applyMarkers_eq (c : Nat) (s : State) :
    applyMarkers c s = ((s.cell c).markers.filter (fun m => m.2 ≤ (s.cell c).rdPos)).foldl (fun (s : State) m => s.modSlot (c / 16) m.1 (·.mark c))
      (s.setCell c (s.cell c).unmarked) := rfl

/-- The end-of-frame markers of a cell that the point read has passed leave the cell's list and reach the block's slots. -/
theorem applyMarkers_effect (c : Nat) (s : State) : ∃ f, OnlyMarkers f ∧
    (∀ j, (applyMarkers c s).cell j = if j = c then (s.cell c).unmarked else s.cell j) ∧
    (∀ j, (applyMarkers c s).block j = if j = c / 16 then (s.block (c / 16)).mapSlots f else s.block j) ∧
    applyMarkers c s = { s with cells := (applyMarkers c s).cells, blocks := (applyMarkers c s).blocks } := by
  rw [applyMarkers_eq]
  obtain ⟨f, hf, hblock, honly⟩ :=
    foldl_mark c (c / 16) ((s.cell c).markers.filter (fun m => m.2 ≤ (s.cell c).rdPos)) (s.setCell c (s.cell c).unmarked)
  refine ⟨f, hf, fun j => (congrArg (State.cell · j) honly).trans (State.setCell_cell _ _ _ _), hblock, ?_⟩
  rw [honly]
  rfl

/-! ### Protected FIFOs (R162–R166) -/

/-- A block whose open slots are all marked BLOCK_LOST. -/
def Block.lose (x : Block) : Block := x.mapSlots (fun k => { k with lost := true })

theorem Block.lose_lost (x : Block) : ∀ q ∈ x.lose.slots, q.lost = true := by
  simp [Block.lose]

/-- The marks of R164 as changes of one block and of its comb. -/
theorem markLost_eq (b : Nat) (s : State) :
    markLost b s = (s.setBlock b (s.block b).lose).setComb (b / 12) ((s.comb (b / 12)).mapSlots (·.flagGroup (b % 12) 2)) := rfl

theorem groupsDiffer_flag (s : State) (c i d : Nat) (flags : W64) :
    GroupsDiffer (s.comb d) (if d = c then (s.comb c).mapSlots (·.flagGroup i flags) else s.comb d) := by
  split
  · rename_i h; subst h; exact ⟨_, fun _ => rfl, rfl⟩
  · exact .refl _

theorem markLost_block (b j : Nat) (s : State) : (markLost b s).block j = if j = b then (s.block b).lose else s.block j := by
  simp [markLost_eq]

theorem markLost_comb (b d : Nat) (s : State) : GroupsDiffer (s.comb d) ((markLost b s).comb d) := by
  rw [markLost_eq, State.setComb_comb]
  exact groupsDiffer_flag s (b / 12) (b % 12) d 2

/-- What the reset of a block's FIFO does (R163, R164). -/
theorem blockFifoReset_effect {b : Nat} (hb : b < 72) (s : State) :
    let t := blockFifoReset b s
    t.pending = s.pending ∧ t.cells = s.cells ∧
      (∀ j, t.block j = if j = b then (s.block b).lose else s.block j) ∧ (∀ c, GroupsDiffer (s.comb c) (t.comb c)) ∧
      Marked t (blkPage b) Reg.BLK_EVENTS 1 ∧
      t.reg (blkPage b) Reg.BLK_RESET_CNT = satInc (s.reg (blkPage b) Reg.BLK_RESET_CNT) 1 ∧ SourceCounts (b / 12) (b % 12) s t := by
  have hpg := stagePage_blk hb
  have hs := spared_comb (c := b / 12) (by omega) (b % 12)
  let u := markLost b (s.count (blkPage b) Reg.BLK_RESET_CNT)
  have hkept : SourcesKept s u := (sourcesKept_setReg hpg s (by decide) _).trans (.of_eq rfl rfl)
  obtain ⟨hquiet, hmark, hcounts, hothers⟩ := reportError_effect hpg (off := Reg.BLK_EVENTS) (by decide) (by decide : 1 < 32) hs u
  have he : blockFifoReset b s = reportError (blkPage b) Reg.BLK_EVENTS 1 (b / 12) (b % 12) u := rfl
  dsimp only
  rw [he]
  refine ⟨hquiet.pending, hquiet.cells, fun j => ?_, fun c => ?_, hmark, ?_, sourceCounts_of_kept hs hkept hcounts⟩
  · rw [hquiet.block]; exact markLost_block b j _
  · rw [hquiet.comb]; exact markLost_comb b c _
  · rw [hothers _ _ hpg (by decide) (by simp)]
    exact (State.setReg_reg ..).trans (if_pos rfl)

/-- Blocks of a comb marked one by one. -/
theorem forN_markLost (c n : Nat) (s : State) :
    let t := forN n (fun i (s : State) => markLost (12 * c + i) s) s
    (∀ i, t.block (12 * c + i) = if i < n then (s.block (12 * c + i)).lose else s.block (12 * c + i)) ∧
      (∀ d, GroupsDiffer (s.comb d) (t.comb d)) ∧ t = { s with blocks := t.blocks, combs := t.combs } := by
  refine forN_induct (fun m (t : State) => (∀ i, t.block (12 * c + i) = if i < m then (s.block (12 * c + i)).lose else s.block (12 * c + i)) ∧
    (∀ d, GroupsDiffer (s.comb d) (t.comb d)) ∧ t = { s with blocks := t.blocks, combs := t.combs }) ?_ fun m u _ hu => ?_
  · exact ⟨fun i => (if_neg (Nat.not_lt_zero i)).symm, fun d => .refl _, rfl⟩
  · obtain ⟨hblock, hcomb, honly⟩ := hu
    refine ⟨fun i => ?_, fun d => (hcomb d).trans (markLost_comb _ d u), by rw [markLost_eq, honly]; rfl⟩
    rw [markLost_block, hblock, hblock, if_neg (lt_irrefl m)]
    by_cases him : i = m
    · rw [him, if_pos rfl, if_pos (Nat.lt_succ_self m)]
    · rw [if_neg (by omega)]
      exact if_congr (by omega) rfl rfl

/-- What the reset of a FIFO of the region does (R163, R164). -/
theorem regionFifoReset_effect {c : Nat} (hc : c < 6) (s : State) :
    let t := regionFifoReset c s
    t.pending = s.pending ∧ t.cells = s.cells ∧ (∀ i, i < 12 → t.block (12 * c + i) = (s.block (12 * c + i)).lose) ∧
      (∀ d, GroupsDiffer (s.comb d) (t.comb d)) ∧ Marked t (combPage c 0x02) Reg.REG_EVENTS 3 ∧ SourceCounts c 12 s t := by
  obtain ⟨hblock, hcomb, honly⟩ := forN_markLost c 12 s
  have he : regionFifoReset c s =
    reportError (combPage c 0x02) Reg.REG_EVENTS 3 c 12 (forN 12 (fun i s => markLost (12 * c + i) s) s) := rfl
  generalize forN 12 (fun i s => markLost (12 * c + i) s) s = u at *
  have hs := spared_comb hc 12
  have hkept : SourcesKept s u := by rw [honly]; exact .of_eq rfl rfl
  obtain ⟨hquiet, hmark, hcounts, -⟩ :=
    reportError_effect (stagePage_comb hc) (off := Reg.REG_EVENTS) (by decide) (by decide : 3 < 32) hs u
  dsimp only
  rw [he]
  refine ⟨?_, ?_, fun i hi => ?_, fun d => ?_, hmark, sourceCounts_of_kept hs hkept hcounts⟩
  · rw [hquiet.pending, honly]
  · rw [hquiet.cells, honly]
  · rw [hquiet.block, hblock, if_pos hi]
  · rw [hquiet.comb]; exact hcomb d

end Sys2Proof.Machine

namespace Sys2Proof.Machine
open Sys2Proof.Claims

/-! ### Isolation and rejoin of a block (R181, R183) -/

/-- The description of BLK_CTL. -/
def blkCtlDesc : RegDesc := ⟨Reg.BLK_CTL, .wo, 0x0, 0x3, none, none⟩

/-- A write of ISOLATE or REJOIN alone: VALUE for a rejoin of a block that is not isolated. -/
theorem perform_blkCtl (p : Path) {b : Nat} (hb : b < 72) (v : W32) (hv : v = 1 ∨ v = 2) (s : State) :
    (perform p opWrite (blkPage b) Reg.BLK_CTL v s).1 =
      valueIf (bit v 1 && !bit v 0 && !(s.block b).isolated) (blkPage b) (blkCtl b v s) := by
  have hd : descOf 1 Reg.BLK_CTL = some blkCtlDesc := rfl
  have hmask : v &&& w32 blkCtlDesc.bits = v := by obtain rfl | rfl := hv <;> decide
  have hclean : reservedNoted b blkCtlDesc.bits v s = s := if_pos (by obtain rfl | rfl := hv <;> decide)
  have hwrite : ∀ x t, writeBlock p (blkPage b) blkCtlDesc x t =
      valueIf (bit x 1 && !bit x 0 && !(t.block b).isolated) (blkPage b) (blkCtl b x t) := fun x t => by
    unfold writeBlock
    rw [blkPage_block b hb]
    rfl
  unfold perform
  rw [if_pos (by decide), keyGroup_blkPage, hd]
  dsimp only
  rw [if_pos rfl, writeReg_block_fits p b blkCtlDesc v s (.inr rfl) (by decide) rfl rfl rfl fun _ => rfl, hwrite, hmask, hclean]

/-- A block taken out of service with the records it holds (R183). -/
def Block.isolate (x : Block) : Block :=
  { x with isolated := true, rejoinReq := false, store := [], slots := x.slots.map (fun k => { k with isolated := true }) }

theorem Block.isolate_slots (x : Block) : ∀ q ∈ x.isolate.slots, q.isolated = true := by
  simp [Block.isolate]

section
variable (p : Path) {b : Nat} (hb : b < 72) (s : State)
include hb

/-- What ISOLATE does. -/
theorem isolate_effect :
    let t := (perform p opWrite (blkPage b) Reg.BLK_CTL 1 s).1
    t.block b = (s.block b).isolate ∧ Marked t (blkPage b) Reg.BLK_EVENTS 4 ∧ (∀ j, j ≠ b → t.block j = s.block j) ∧
      BlocksOnly (onPage (blkPage b)) s t := by
  have he : (perform p opWrite (blkPage b) Reg.BLK_CTL 1 s).1 =
    raise (s.setBlock b (s.block b).isolate) (blkPage b) Reg.BLK_EVENTS (2 ^ 4) := perform_blkCtl p hb 1 (.inl rfl) s
  dsimp only
  rw [he]
  refine ⟨?_, raise_block_marked b _ _ 4 (by decide) (by decide) (by decide), fun j hj => ?_,
    (blocksOnly_setBlock s b _).trans (blocksOnly_raise b hb _ _ _ (by decide))⟩
  · rw [raise_blkPage_block, State.setBlock_block, if_pos rfl]
  · rw [raise_blkPage_block, State.setBlock_block, if_neg hj]

/-- What REJOIN does. -/
theorem rejoin_effect :
    let t := (perform p opWrite (blkPage b) Reg.BLK_CTL 2 s).1
    ((s.block b).isolated = true → t.block b = { s.block b with rejoinReq := true }) ∧
      ((s.block b).isolated = false → t.block b = s.block b ∧ Marked t (blkPage b) Reg.ERR_STATUS 3) ∧
      (∀ j, j ≠ b → t.block j = s.block j) ∧ BlocksOnly (onPage (blkPage b)) s t := by
  have he : (perform p opWrite (blkPage b) Reg.BLK_CTL 2 s).1 = valueIf (!(s.block b).isolated) (blkPage b) (blkCtl b 2 s) :=
    perform_blkCtl p hb 2 (.inr rfl) s
  have hctl : blkCtl b 2 s = if (s.block b).isolated = true then s.setBlock b { s.block b with rejoinReq := true } else s :=
    if_congr (and_iff_right (by decide)) rfl rfl
  dsimp only
  rw [he, hctl]
  by_cases h : (s.block b).isolated = true
  · have hvalue : ∀ u, valueIf (!(s.block b).isolated) (blkPage b) u = u := fun u => by rw [h]; rfl
    rw [hvalue, if_pos h]
    refine ⟨fun _ => ?_, fun hf => absurd (h.symm.trans hf) nofun, fun j hj => ?_, blocksOnly_setBlock s b _⟩
    · exact (State.setBlock_block ..).trans (if_pos rfl)
    · exact (State.setBlock_block ..).trans (if_neg hj)
  · have hvalue : ∀ u, valueIf (!(s.block b).isolated) (blkPage b) u = pageErr u (blkPage b) errValue := fun u => by
      rw [Bool.eq_false_iff.2 h]; rfl
    rw [hvalue, if_neg h]
    exact ⟨fun ht => absurd ht h, fun _ => ⟨raise_blkPage_block _ _ _ _ _, raise_block_marked b _ _ 3 (by decide) (by decide) (by decide)⟩,
      fun j _ => raise_blkPage_block _ _ _ _ _, blocksOnly_raise b hb _ _ _ (by decide)⟩

end

/-! ### The FIFOs of O16 -/

theorem lget_lmod_nil {α : Type} (l : List (List α)) (n : Nat) : lget [] (lmod l n (fun _ => [])) n = [] := by
  by_cases h : n < l.length
  · exact lget_lmod _ _ _ _ h
  · exact List.getD_eq_default _ _ (by simpa using h)

/-- The reset of a FIFO that a block shares with no cell. -/
theorem runs_blockMismatch (b : Fin 72) (f : FifoId) (s : State) (hcb : s.cb128 = false) (hf : f = .store b ∨ f = .mergerIn b ∨ f = .handshake b) :
    Runs (.fifoPointerMismatch f) s fun t => (f = .store b → (t.block b.val).store = []) ∧ (f = .mergerIn b → t.input b.val = []) ∧
      (∀ q ∈ (t.block b.val).slots, q.lost = true) ∧ Marked t (blkPage b.val) Reg.BLK_EVENTS 1 ∧
      t.reg (blkPage b.val) Reg.BLK_RESET_CNT = satInc (s.reg (blkPage b.val) Reg.BLK_RESET_CNT) 1 ∧
      SourceCounts (b.val / 12) (b.val % 12) s t ∧ t.cells = s.cells ∧ ∀ j, j ≠ b.val → t.block j = s.block j := by
  obtain ⟨u, hrun, hu, hothers, hstore, hinput⟩ : ∃ u, exec (.fifoPointerMismatch f) s = done s (blockFifoReset b.val u) ∧
      u = { s with blocks := u.blocks, combs := u.combs } ∧ (∀ j, j ≠ b.val → u.block j = s.block j) ∧
      (f = .store b → (u.block b.val).store = []) ∧ (f = .mergerIn b → u.input b.val = []) := by
    have hexec : exec (.fifoPointerMismatch f) s = done s (pointerMismatch f s) := rfl
    rw [hexec]
    unfold pointerMismatch
    rw [hcb, if_neg Bool.false_ne_true]
    obtain rfl | rfl | rfl := hf
    · refine ⟨_, rfl, rfl, fun j hj => ?_, fun _ => ?_, nofun⟩
      · exact (State.setBlock_block ..).trans (if_neg hj)
      · exact congrArg Block.store ((State.setBlock_block ..).trans (if_pos rfl))
    · refine ⟨_, rfl, rfl, fun _ _ => rfl, nofun, fun _ => ?_⟩
      unfold State.input State.modInput
      rw [State.modComb_eq, State.setComb_comb, if_pos rfl]
      exact lget_lmod_nil _ _
    · exact ⟨s, rfl, rfl, fun _ _ => rfl, nofun, nofun⟩
  obtain ⟨hpending, hcells, hblock, hcomb, hmark, hcount, hsource⟩ := blockFifoReset_effect b.isLt u
  have hreg : u.reg (blkPage b.val) Reg.BLK_RESET_CNT = s.reg (blkPage b.val) Reg.BLK_RESET_CNT := by rw [hu]; rfl
  have hkept : SourcesKept s u := by rw [hu]; exact .of_eq rfl rfl
  have hself := (hblock b.val).trans (if_pos rfl)
  refine runs_of_done hrun (hpending.trans (by rw [hu])) ⟨fun h => ?_, fun h => ?_, ?_, hmark, hcount.trans (by rw [hreg]),
    sourceCounts_of_kept (spared_comb (by omega) _) hkept hsource, hcells.trans (by rw [hu]), fun j hj => ?_⟩
  · rw [hself]; exact hstore h
  · unfold State.input
    rw [(hcomb _).inputs]
    exact hinput h
  · rw [hself]; exact Block.lose_lost _
  · rw [hblock, if_neg hj, hothers j hj]

end Sys2Proof.Machine

section
open Sys2Proof Sys2Proof.Machine Sys2Proof.Claims

/-- Settles O16: `blockFifoReset_effect` and `regionFifoReset_effect` for the FIFOs, `isolate_effect` and `rejoin_effect` for BLK_CTL. -/
theorem fifoResetAndIsolation : Obligations.FifoResetAndIsolation := by
  unfold Obligations.FifoResetAndIsolation
  refine ⟨fun c s hcb => ?cell, runs_blockMismatch, fun c f s hcb hf => ?region, fun f s hcb => ?cb128,
    fun p blk s hready => ?isolate, fun p blk s hready => ?rejoin⟩
  case cell =>
    have hrun : exec (.fifoPointerMismatch (.cell c)) s =
        done s (blockFifoReset (c.val / 16) (applyMarkers c.val (s.setCell c.val { s.cell c.val with fifo := [], rdPos := (s.cell c.val).wrPos }))) :=
      congrArg (done s) (if_neg (Bool.eq_false_iff.1 hcb))
    obtain ⟨f, -, hcell, -, honly⟩ := applyMarkers_effect c.val (s.setCell c.val { s.cell c.val with fifo := [], rdPos := (s.cell c.val).wrPos })
    generalize applyMarkers c.val _ = u at *
    obtain ⟨hpending, hcells, hblock, -, hmark, hcount, hsource⟩ := blockFifoReset_effect (cell_block_lt c) u
    generalize blockFifoReset (c.val / 16) u = t at *
    have hcell' : ∀ j, t.cell j = u.cell j := fun j => by unfold State.cell; rw [hcells]
    have hself := (hcell' c.val).trans ((hcell c.val).trans (if_pos rfl))
    rw [State.setCell_self] at hself
    have hreg : u.reg (blkPage (c.val / 16)) Reg.BLK_RESET_CNT = s.reg (blkPage (c.val / 16)) Reg.BLK_RESET_CNT := by rw [honly]; rfl
    have hkept : SourcesKept s u := by rw [honly]; exact .of_eq rfl rfl
    have hdom : c.val / 16 / 12 = c.val / 192 := by omega
    refine runs_of_done hrun (hpending.trans (by rw [honly]; rfl)) ⟨congrArg Cell.fifo hself, congrArg Cell.rdPos hself, ?_, hmark,
      hcount.trans (by rw [hreg]), ?_, fun j hj => ?_⟩
    · rw [hblock, if_pos rfl]; exact Block.lose_lost _
    · rw [← hdom]; exact sourceCounts_of_kept (spared_comb (by omega) _) hkept hsource
    · rw [hcell', hcell, if_neg hj, State.setCell_cell, if_neg hj]
  case region =>
    obtain ⟨u, hrun, hu, hreplay⟩ : ∃ u, exec (.fifoPointerMismatch f) s = done s (regionFifoReset c.val u) ∧
        u = { s with combs := u.combs } ∧ (∀ h, f = .replay c h → ((u.comb c.val).bundle h).replay = []) := by
      have hexec : exec (.fifoPointerMismatch f) s = done s (pointerMismatch f s) := rfl
      rw [hexec]
      unfold pointerMismatch
      rw [hcb, if_neg Bool.false_ne_true]
      obtain rfl | ⟨k, rfl⟩ := hf
      · exact ⟨s, rfl, rfl, nofun⟩
      · refine ⟨_, rfl, rfl, ?_⟩
        rintro h ⟨⟩
        unfold State.modBundle
        rw [State.modComb_eq, State.setComb_comb, if_pos rfl]
        cases k <;> rfl
    obtain ⟨hpending, hcells, hblock, hcomb, hmark, hsource⟩ := regionFifoReset_effect c.isLt u
    have hkept : SourcesKept s u := by rw [hu]; exact .of_eq rfl rfl
    refine runs_of_done hrun (hpending.trans (by rw [hu])) ⟨fun h he => ?_, fun i hi => ?_, hmark,
      sourceCounts_of_kept (spared_comb c.isLt _) hkept hsource, hcells.trans (by rw [hu])⟩
    · rw [(hcomb _).bundle]; exact hreplay h he
    · rw [hblock i hi]; exact Block.lose_lost _
  case cb128 => exact congrArg (done s) (if_pos hcb)
  case isolate =>
    obtain ⟨s', hnear, hdone⟩ := writeAt_block p blk.val Reg.BLK_CTL blk.isLt (by decide) 1 s hready
    have heffect := isolate_effect p blk.isLt s'
    generalize (perform p opWrite (blkPage blk.val) Reg.BLK_CTL 1 s').1 = w at hdone heffect
    simp only [Marked, near_block hnear, ← near_block hdone, ← near_reg hdone] at heffect
    obtain ⟨hblock, hmark, hothers, honly⟩ := heffect
    refine runs_of_done rfl (hdone.pending.trans (honly.pending.trans hnear.pending))
      ⟨?_, ?_, ?_, ?_, hmark, hothers, served_blocks hnear honly hdone⟩ <;> rw [hblock]
    · rfl
    · rfl
    · rfl
    · exact Block.isolate_slots _
  case rejoin =>
    obtain ⟨s', hnear, hdone⟩ := writeAt_block p blk.val Reg.BLK_CTL blk.isLt (by decide) 2 s hready
    have heffect := rejoin_effect p blk.isLt s'
    generalize (perform p opWrite (blkPage blk.val) Reg.BLK_CTL 2 s').1 = w at hdone heffect
    simp only [Marked, near_block hnear, ← near_block hdone, ← near_reg hdone] at heffect
    obtain ⟨hisolated, hfree, hothers, honly⟩ := heffect
    exact runs_of_done rfl (hdone.pending.trans (honly.pending.trans hnear.pending))
      ⟨hisolated, hfree, hothers, served_blocks hnear honly hdone⟩

end

namespace Sys2Proof.Machine
open Sys2Proof.Claims

/-! ### The die bridge (R172–R174) -/

/-- A comb with another bundle to a hive. -/
def Comb.putBundle (x : Comb) (h : HiveId) (g : Bundle) : Comb :=
  match h with
  | .a => { x with bundleA := g }
  | .b => { x with bundleB := g }

@[simp] theorem Comb.putBundle_bundle (x : Comb) (h k : HiveId) (g : Bundle) : (x.putBundle h g).bundle k = if k = h then g else x.bundle k := by
  cases h <;> cases k <;> rfl

theorem modBundle_eq (s : State) (c : Nat) (h : HiveId) (f : Bundle → Bundle) :
    s.modBundle c h f = s.setComb c ((s.comb c).putBundle h (f ((s.comb c).bundle h))) := by cases h <;> rfl

@[simp] theorem modBundle_bundle (s : State) (c : Nat) (h k : HiveId) (f : Bundle → Bundle) :
    ((s.modBundle c h f).comb c).bundle k = if k = h then f ((s.comb c).bundle h) else (s.comb c).bundle k := by
  rw [modBundle_eq, State.setComb_comb, if_pos rfl, Comb.putBundle_bundle]

theorem modBundle_comb_other (s : State) (c d : Nat) (h : HiveId) (f : Bundle → Bundle) (hd : d ≠ c) : (s.modBundle c h f).comb d = s.comb d :=
  (State.setComb_comb ..).trans (if_neg hd)

@[simp] theorem modBundle_higherClaim (s : State) (c : Nat) (h : HiveId) (f : Bundle → Bundle) :
    higherClaim (s.modBundle c h f) = higherClaim s := rfl

theorem modBundle_only (s : State) (c : Nat) (h : HiveId) (f : Bundle → Bundle) :
    s.modBundle c h f = { s with combs := (s.modBundle c h f).combs } := rfl

/-- A bundle that is UP with one more flit sent, and kept for replay. -/
def Bundle.send (x : Bundle) (f : Flit) (parity : Bool) : Bundle :=
  if x.state ≠ 2 then x
  else { x with
    replay := (if x.replay.length ≥ 128 then x.replay.tail else x.replay) ++ [{ f with parity := parity }]
    inFlight := x.inFlight ++ [f], sent := x.sent + 1
    dataCr := if isCtl f then x.dataCr else x.dataCr - 1, ctlCr := if isCtl f then x.ctlCr - 1 else x.ctlCr }

theorem Bundle.send_up (x : Bundle) (f : Flit) (parity : Bool) (h : x.state = 2) :
    (x.send f parity).inFlight = x.inFlight ++ [f] ∧ (x.send f parity).sent = x.sent + 1 ∧
      (x.send f parity).replay.getLast? = some { f with parity := parity } ∧
      (x.send f parity).dataCr = x.dataCr - (if 3 ≤ f.kind then 0 else 1) ∧ (x.send f parity).ctlCr = x.ctlCr - (if 3 ≤ f.kind then 1 else 0) := by
  unfold Bundle.send
  rw [if_neg (not_not.2 h)]
  refine ⟨rfl, rfl, List.getLast?_concat, ?_, ?_⟩ <;> by_cases hk : 3 ≤ f.kind <;> simp [hk]

/-- A comb whose next flit has left on both bundles. -/
def Comb.sendFlit (x : Comb) (f : Flit) (rest : List Flit) (parity : Bool) : Comb :=
  { x with out := rest, bundleA := x.bundleA.send f parity, bundleB := x.bundleB.send f parity }

theorem Comb.sendFlit_bundle (x : Comb) (f : Flit) (rest : List Flit) (parity : Bool) (h : HiveId) :
    (x.sendFlit f rest parity).bundle h = (x.bundle h).send f parity := by cases h <;> rfl

/-- A comb that holds what it needs sends its next flit on both bundles. -/
theorem bridgeSend_eq {c : Nat} {s : State} {f : Flit} {rest : List Flit} (ho : (s.comb c).out = f :: rest)
    (hup : ((s.comb c).bundle (higherClaim s)).state = 2)
    (hcr : (if 3 ≤ f.kind then ((s.comb c).bundle (higherClaim s)).ctlCr else ((s.comb c).bundle (higherClaim s)).dataCr) ≠ 0)
    (hroom : ((s.comb c).bundle (higherClaim s)).sent - ((s.comb c).bundle (higherClaim s)).acked < 128) (hr : (s.comb c).inReset = false) :
    bridgeSend c s = s.setComb c ((s.comb c).sendFlit f rest s.cb128) := by
  unfold bridgeSend
  rw [ho]
  refine if_neg ?_
  rintro (h | h | h | h)
  · exact h hup
  · exact hcr (by simpa using h)
  · exact absurd hroom (not_lt.2 h)
  · rw [hr] at h; cases h

/-! ### Flits on their way (R172, R174) -/

/-- The sideband of a flit names its type, slot and poison. -/
theorem flitSide_fields (f : Flit) (hk : f.kind < 8) :
    ((flitSide f).extractLsb' 0 3).toNat = f.kind ∧ (flitSide f).getLsbD 3 = f.slot ∧ (flitSide f).getLsbD 4 = f.poison := by
  obtain ⟨k, a, b, w, q⟩ := f
  dsimp only at hk
  simp only [flitSide]
  interval_cases k <;> cases a <;> cases b <;> decide

/-- A flit that arrives as it was sent is taken, without the parity of the replay buffer. -/
theorem bridgeTake_good {c : Nat} {h : HiveId} {s : State} {f : Flit} {rest : List Flit}
    (hin : ((s.comb c).bundle h).inFlight = f :: rest) (hf : ((s.comb c).bundle h).failed = false) (hk : f.kind < 8) :
    bridgeTake c h 0 s =
      (s.modBundle c h (fun x => { x with inFlight := rest, acked := x.acked + 1, fails := 0 }), some { f with parity := false }) := by
  have hbody : flitBits f ^^^ (0 : BitVec 80).extractLsb' 8 72 = flitBits f := by simp
  have hcheck : flitCheck (flitBits f) ^^^ (0 : BitVec 80).extractLsb' 0 8 = flitCheck (flitBits f) := by simp
  have hside : (flitBits f).extractLsb' 0 8 = flitSide f := by
    unfold flitBits
    rw [BitVec.extractLsb'_append_eq_of_add_le (by decide)]
    simp
  have hload : (flitBits f).extractLsb' 8 64 = f.payload := by
    unfold flitBits
    rw [BitVec.extractLsb'_append_eq_of_le (by decide)]
    simp
  obtain ⟨hkind, hslot, hpoison⟩ := flitSide_fields f hk
  unfold bridgeTake
  dsimp only
  rw [hin]
  dsimp only
  rw [hf, hbody, hcheck, if_neg Bool.false_ne_true, if_neg (not_not.2 rfl), hside, hload, hkind, hslot, hpoison]

/-- A flit whose check fails is not taken, and a replay is asked for. -/
theorem bridgeTake_bad {c : Nat} {h : HiveId} {s : State} {f : Flit} {rest : List Flit} (e : BitVec 8)
    (hin : ((s.comb c).bundle h).inFlight = f :: rest) (hf : ((s.comb c).bundle h).failed = false)
    (hfails : ((s.comb c).bundle h).fails < 16) (he : e ≠ 0) :
    bridgeTake c h (e.zeroExtend 80) s = (s.modBundle c h (fun x => { x with inFlight := rest, failed := true }), none) := by
  have hbody : flitBits f ^^^ (e.zeroExtend 80).extractLsb' 8 72 = flitBits f := by
    have h0 : (e.zeroExtend 80).extractLsb' 8 72 = 0 := by
      ext i hi
      simp
    rw [h0]; simp
  have hbits : (e.zeroExtend 80).extractLsb' 0 8 = e := by
    ext i hi
    simp only [BitVec.getElem_extractLsb', Nat.zero_add, BitVec.truncate_eq_setWidth, BitVec.getLsbD_setWidth, BitVec.getLsbD_eq_getElem hi]
    exact Bool.and_eq_right_iff_imp.2 fun _ => decide_eq_true (by omega)
  unfold bridgeTake
  dsimp only
  rw [hin]
  dsimp only
  rw [hf, hbody, hbits, if_neg Bool.false_ne_true, if_pos, if_neg (not_le.2 hfails)]
  intro hc
  exact he (BitVec.xor_right_inj (flitCheck (flitBits f)) |>.1 (hc.symm.trans (by simp)))

/-- A change of a bundle that keeps whether it is UP leaves the hives. -/
theorem bundleWork_same (h : HiveId) (c : Nat) (f : State → State) (s : State)
    (hs : (((f s).comb c).bundle h).state = ((s.comb c).bundle h).state) : bundleWork h c f s = f s := by
  unfold bundleWork
  dsimp only
  rw [hs, bne_self_eq_false, if_neg Bool.false_ne_true]

/-! ### Replays (R174) -/

theorem Flit.read_zero (f : Flit) : f.read 0 = f := by
  have h : parityOf 0 = false := by decide
  unfold Flit.read
  rw [h]
  simp

/-- A replay buffer read without upsets. -/
theorem replay_read (old : List Flit) (hl : old.length ≤ 128) :
    (List.zip (List.range 128) old).map (fun e => e.2.read (lget 0 [] e.1)) = old := by
  have hread : ∀ e : Nat × Flit, e.2.read (lget 0 [] e.1) = e.2 := fun e => Flit.read_zero e.2
  simp only [hread]
  exact List.map_snd_zip (by simpa using hl)

/-- Flits that gain no poison in the replay buffer report none. -/
theorem forL_poisonFlit (l : List Flit) (s : State) : forL (List.zip l l) (fun e s => poisonFlit e.1 e.2 s) s = s := by
  unfold forL
  induction l generalizing s with
  | nil => rfl
  | cons f l ih =>
    have hf : poisonFlit f f s = s := if_neg (by simp)
    rw [List.zip_cons_cons, List.foldl_cons]
    dsimp only
    rw [hf, ih]

/-- The counter of a region's replays to a hive. -/
def retryCnt (h : HiveId) : Nat := match h with | .a => Reg.REG_RETRY_A | .b => Reg.REG_RETRY_B

/-- A bundle that sends again what is owed. -/
def Bundle.again (x : Bundle) : Bundle :=
  let owed := x.sent - x.acked
  let old := x.replay.drop (x.replay.length - owed)
  { x with replay := x.replay.take (x.replay.length - owed) ++ old, inFlight := old, acked := x.sent - old.length, failed := false, fails := x.fails + 1 }

/-- A replay from an undamaged buffer sends again what is owed. -/
theorem bridgeReplay_eq {c : Nat} {h : HiveId} {s : State} (hf : ((s.comb c).bundle h).failed = true)
    (hl : ((s.comb c).bundle h).replay.length ≤ 128) :
    bridgeReplay c h [] s = (s.modBundle c h Bundle.again).count (combPage c 0x02) (retryCnt h) := by
  unfold bridgeReplay
  dsimp only
  rw [hf, Bool.not_true, if_neg Bool.false_ne_true, replay_read _ (by rw [List.length_drop]; omega), forL_poisonFlit, modBundle_eq, modBundle_eq]
  rfl

/-! ### Trained bundles (07_frames_compression.md R228) -/

/-- Of the state only the frames in the making of one hive differ. -/
def FramerOnly (h : HiveId) (s t : State) : Prop := t = s.setHive h { s.hive h with fr := t.fr h }

theorem FramerOnly.refl (h : HiveId) (s : State) : FramerOnly h s s := by cases h <;> rfl
theorem FramerOnly.trans {h : HiveId} {s t u : State} (hst : FramerOnly h s t) (htu : FramerOnly h t u) : FramerOnly h s u := by
  unfold FramerOnly at *
  rw [htu, hst]
  cases h <;> rfl

theorem framerOnly_modFr (h : HiveId) (s : State) (f : Framer → Framer) : FramerOnly h s (s.modFr h f) := by cases h <;> rfl

@[simp] theorem modFr_fr (s : State) (h : HiveId) (f : Framer → Framer) : (s.modFr h f).fr h = f (s.fr h) := by cases h <;> rfl

/-- A change of open frames that puts in the close of region `c` for those of `fs` and takes none away. -/
def ClosesRegion (c : Nat) (fs : List (BitVec 40)) (g : OpenFrame → OpenFrame) : Prop :=
  ∀ o, (g o).frame = o.frame ∧ (o.frame ∈ fs ∨ (tfind o.closes c).isSome = true → (tfind (g o).closes c).isSome = true)

/-- A frame `f` in the making that has no close word of region `c` given one. -/
def OpenFrame.fill (o : OpenFrame) (s : State) (c : Nat) (f : BitVec 40) : OpenFrame :=
  if (tfind o.closes c).isSome then o
  else
    let r := !quiet s c && regionReset s c o
    { o with closes := tput o.closes c (ownClose c f (!quiet s c) r), bundle := o.bundle || (!quiet s c && !r) }

theorem OpenFrame.fill_frame (o : OpenFrame) (s : State) (c : Nat) (f : BitVec 40) : (o.fill s c f).frame = o.frame := by
  unfold OpenFrame.fill
  split <;> rfl

theorem OpenFrame.fill_closes (o : OpenFrame) (s : State) (c : Nat) (f : BitVec 40) : (tfind (o.fill s c f).closes c).isSome = true := by
  unfold OpenFrame.fill
  split
  · assumption
  · dsimp only
    rw [tfind_tput, if_pos rfl]
    rfl

theorem fillClose_effect (h : HiveId) (f : BitVec 40) (c : Nat) (s : State) :
    FramerOnly h s (fillClose h f c s) ∧ ∃ g, ClosesRegion c [f] g ∧ ((fillClose h f c s).fr h).frames = (s.fr h).frames.map g := by
  have he : fillClose h f c s = s.modFr h (fun x => { x with frames := x.frames.map (fun o => if o.frame = f then o.fill s c f else o) }) := rfl
  rw [he]
  refine ⟨framerOnly_modFr h s _, _, fun o => ?_, congrArg Framer.frames (modFr_fr ..)⟩
  by_cases ho : o.frame = f
  · rw [if_pos ho]
    exact ⟨o.fill_frame s c f, fun _ => o.fill_closes s c f⟩
  · rw [if_neg ho]
    exact ⟨rfl, fun hc => hc.resolve_left (by simpa using ho)⟩

theorem forL_fillClose (h : HiveId) (c : Nat) (fs : List (BitVec 40)) (s : State) :
    let t := forL fs (fun f (s : State) => fillClose h f c s) s
    FramerOnly h s t ∧ ∃ g, ClosesRegion c fs g ∧ (t.fr h).frames = (s.fr h).frames.map g := by
  unfold forL
  induction fs generalizing s with
  | nil => exact ⟨.refl h s, id, fun o => ⟨rfl, fun hc => hc.resolve_left (by simp)⟩, by simp⟩
  | cons f fs ih =>
    obtain ⟨honly, g, hg, hframes⟩ := fillClose_effect h f c s
    obtain ⟨honly', g', hg', hframes'⟩ := ih (fillClose h f c s)
    rw [List.foldl_cons]
    refine ⟨honly.trans honly', g' ∘ g, fun o => ?_, ?_⟩
    · obtain ⟨hframe, hclose⟩ := hg o
      obtain ⟨hframe', hclose'⟩ := hg' (g o)
      refine ⟨hframe'.trans hframe, fun hc => hclose' ?_⟩
      rw [hframe]
      obtain (hmem | hc) := hc
      · obtain rfl | hmem := List.mem_cons.1 hmem
        · exact .inr (hclose (.inl (List.mem_singleton.2 rfl)))
        · exact .inl hmem
      · exact .inr (hclose (.inr hc))
    · rw [hframes', hframes, List.map_map]

/-- A region void for a hive's open frames counts as closed for each of them. -/
theorem voidRegion_effect (h : HiveId) (c : Nat) (s : State) :
    FramerOnly h s (voidRegion h c s) ∧ ∀ o ∈ ((voidRegion h c s).fr h).frames, (tfind o.closes c).isSome = true := by
  have hsort := framerOnly_modFr h s (fun x => { x with sorts := lmod x.sorts c (fun b => { b with groups := [] }) })
  have hkeep : ((s.modSort h c (fun b => { b with groups := [] })).fr h).frames = (s.fr h).frames := by
    unfold State.modSort; rw [modFr_fr]
  obtain ⟨honly, g, hg, hframes⟩ := forL_fillClose h c ((s.fr h).frames.map (·.frame)) (s.modSort h c (fun b => { b with groups := [] }))
  refine ⟨hsort.trans honly, fun o ho => ?_⟩
  unfold voidRegion at ho
  rw [hframes, hkeep] at ho
  obtain ⟨q, hq, rfl⟩ := List.mem_map.1 ho
  exact (hg q).2 (.inl (List.mem_map_of_mem hq))

end Sys2Proof.Machine

namespace Sys2Proof.Machine
open Sys2Proof.Claims

/-! ### A write of REG_CTL (R184) -/

section
variable {c : Nat} (hc : c < 6)
include hc

omit hc in
theorem keyGroup_combPage (c : Nat) : keyGroup (combPage c 0x02) = 2 := by
  simp only [keyGroup, combPage, page]; omega

theorem keyRegion_combPage : keyRegion (combPage c 0x02) = c := by
  simp only [keyRegion, combPage, page]; omega

theorem addrOf_comb {off : Nat} (ho : off < 2 ^ 12) : (addrOf (combPage c 0x02) off).toNat = off + combPage c 0x02 := by
  unfold addrOf
  rw [BitVec.toNat_ofNat]
  refine Nat.mod_eq_of_lt ?_
  simp only [combPage, page]; omega

/-- An address of a region merger's page names that page (R472). -/
theorem pageOf_comb (s : State) {off : Nat} (ho : off < 2 ^ 12) : pageOf s (addrOf (combPage c 0x02) off) = some (combPage c 0x02) := by
  have hr : fld (addrOf (combPage c 0x02) off) 31 28 = c := by
    simp only [fld, fieldN, addrOf_comb hc ho, Nat.shiftRight_eq_div_pow, combPage, page]; omega
  have hg : fld (addrOf (combPage c 0x02) off) 27 20 = 2 := by
    simp only [fld, fieldN, addrOf_comb hc ho, Nat.shiftRight_eq_div_pow, combPage, page]; omega
  have hi : fld (addrOf (combPage c 0x02) off) 19 12 = 0 := by
    simp only [fld, fieldN, addrOf_comb hc ho, Nat.shiftRight_eq_div_pow, combPage, page]; omega
  have hknown : pageKnown c 2 0 = true := by unfold pageKnown; simp [hc]
  have hregion : c ≠ 0xC := by omega
  unfold pageOf
  dsimp only
  rw [hr, hg, hi, if_neg hregion, if_pos hknown]

/-- A write to a region merger's page on a path that carries it at once lies between two states that differ in the carrying alone. -/
theorem writeAt_comb (p : Path) {off : Nat} (ho : off < 2 ^ 12) (v : W32) (s : State) (h : Ready p c s) :
    ∃ s', Near s s' ∧ Near (perform p opWrite (combPage c 0x02) off v s').1 (writeAt p (addrOf (combPage c 0x02) off) v s) := by
  obtain ⟨hfree, hgate, hj⟩ := h
  have hdomain : pageDomain (combPage c 0x02) = c := by
    unfold pageDomain
    dsimp only
    rw [keyRegion_combPage hc, if_pos hc]
  have hserve : (if p = .startup then Gate.serve else gate s (pageDomain (combPage c 0x02))) = .serve := by
    rw [hdomain]
    exact ite_eq_left_iff.mpr hgate.resolve_left
  have hnear := pathAccess_near p opWrite (combPage c 0x02) (addrOf (combPage c 0x02) off) v s hfree (fun hp => ⟨hj hp, .inl rfl⟩)
    (pageOf_comb hc s ho) hserve
  have hoff : keyOff (addrOf (combPage c 0x02) off).toNat = off := by
    rw [addrOf_comb hc ho]; simp only [keyOff, combPage, page]; omega
  rwa [hoff] at hnear

/-- The description of REG_CTL. -/
def regCtlDesc : RegDesc := ⟨Reg.REG_CTL, .wo, 0x0, 0x3, none, none⟩

/-- A write of REG_CTL reports reserved bits and asks for the retrains of its two bits (R184, R475). -/
theorem perform_regCtl (p : Path) (v : W32) (s : State) :
    (perform p opWrite (combPage c 0x02) Reg.REG_CTL v s).1 =
      regCtl c (v &&& w32 3) (if v &&& ~~~w32 3 = 0 then s else pageErr s (combPage c 0x02) errRsvd) := by
  have hd : descOf 2 Reg.REG_CTL = some regCtlDesc := rfl
  have hact : ∀ x t, actReg p (combPage c 0x02) regCtlDesc x t = regCtl c x t := fun x t => by
    unfold actReg
    rw [keyGroup_combPage, keyRegion_combPage hc]
    rfl
  have hrange : ∀ x t, rangeWrite p (combPage c 0x02) regCtlDesc x t = regCtl c x t := fun x t => by
    unfold rangeWrite
    rw [keyGroup_combPage]
    exact (if_pos rfl).trans (hact x t)
  have hopen : ∀ x t, openWrite p (combPage c 0x02) regCtlDesc x t = regCtl c x t := fun x t => by
    unfold openWrite
    rw [keyGroup_combPage]
    exact hrange x t
  unfold perform
  rw [if_pos (by decide), keyGroup_combPage, hd]
  dsimp only
  rw [if_pos rfl]
  unfold writeReg
  rw [keyGroup_combPage, if_neg (by rintro ⟨h, -⟩; cases h)]
  exact hopen _ _

omit hc in
theorem bit_retrain (v : W32) {n : Nat} (hn : n < 2) : bit (v &&& w32 3) n = bit v n := by
  have hmask : (w32 3).toNat.testBit n = true := by interval_cases n <;> rfl
  unfold bit
  rw [BitVec.toNat_and, Nat.testBit_and, hmask, Bool.and_true]

/-- A bundle with a retrain asked for where `b` holds. -/
def Bundle.ask (x : Bundle) (b : Bool) : Bundle := if b then { x with retrain := true } else x

omit hc in
theorem regCtl_bundles (c : Nat) (v : W32) (s : State) :
    ((regCtl c v s).comb c).bundleA = (s.comb c).bundleA.ask (bit v 0) ∧ ((regCtl c v s).comb c).bundleB = (s.comb c).bundleB.ask (bit v 1) ∧
      regCtl c v s = { s with combs := (regCtl c v s).combs } := by
  unfold regCtl Bundle.ask
  dsimp only
  cases bit v 0 <;> cases bit v 1 <;> simp [modBundle_eq, Comb.putBundle, Comb.bundle] <;> rfl

/-- What a write of REG_CTL does. -/
theorem retrain_effect (p : Path) (v : W32) (s : State) :
    let t := (perform p opWrite (combPage c 0x02) Reg.REG_CTL v s).1
    (t.comb c).bundleA = (s.comb c).bundleA.ask (bit v 0) ∧ (t.comb c).bundleB = (s.comb c).bundleB.ask (bit v 1) ∧
      t.cells = s.cells ∧ t.blocks = s.blocks ∧ StagesOnly (onPage (combPage c 0x02)) s t := by
  have hnoted : Quiet (onPage (combPage c 0x02)) s (if v &&& ~~~w32 3 = 0 then s else pageErr s (combPage c 0x02) errRsvd) := by
    split
    · exact Quiet.refl s
    · exact quiet_raise_stage (stagePage_comb hc) s (by decide) _
  dsimp only
  rw [perform_regCtl hc]
  generalize (if v &&& ~~~w32 3 = 0 then s else pageErr s (combPage c 0x02) errRsvd) = u at *
  obtain ⟨ha, hb, honly⟩ := regCtl_bundles c (v &&& w32 3) u
  rw [bit_retrain v (by decide), hnoted.comb] at ha hb
  refine ⟨ha, hb, ?_, ?_, (stagesOnly_of_quiet hnoted).trans ?_⟩
  · rw [honly]; exact hnoted.cells
  · rw [honly]; exact hnoted.blocks
  · rw [honly]; exact Quiet.refl _

end

section
variable {K : Nat → Prop} {s s' v t : State}

theorem near_comb (h : Near s t) (k : Nat) : t.comb k = s.comb k := by unfold State.comb; rw [h.combs]

/-- An access whose register acts on combs alone. -/
theorem served_combs (hn : Near s s') (hc : v.cells = s'.cells) (hb : v.blocks = s'.blocks) (h : StagesOnly K s' v) (hv : Near v t) :
    Served K { s with combs := t.combs } t := by
  refine ⟨{ s' with combs := v.combs }, v, ?_, h.combs hc hb, hv⟩
  rw [hv.combs]
  exact { hn with combs := rfl }

end

/-! ### Flits taken at the standby, and bundles that have trained (R174, 07_frames_compression.md R228) -/

/-- A hive with the record of a flit counted. -/
def Hive.acceptFlit (x : Hive) (f : Flit) : Hive := { x with accepted := x.accepted + (if f.kind = 1 then 1 else 0) }

/-- A bundle with a place freed for another flit of the class of `f`. -/
def Bundle.free (x : Bundle) (f : Flit) : Bundle :=
  { x with retData := x.retData + (if 3 ≤ f.kind then 0 else 1), retCtl := x.retCtl + (if 3 ≤ f.kind then 1 else 0) }

theorem freeCredit_eq (c : Nat) (h : HiveId) (f : Flit) (s : State) : freeCredit c h (isCtl f) s = s.modBundle c h (·.free f) := by
  unfold freeCredit Bundle.free isCtl
  by_cases hk : 3 ≤ f.kind <;> simp [hk]

theorem acceptFlit_eq (h : HiveId) (f : Flit) (s : State) :
    (if f.kind = 1 then s.modHive h (fun x => { x with accepted := x.accepted + 1 }) else s) = s.modHive h (·.acceptFlit f) := by
  unfold Hive.acceptFlit
  split
  · rfl
  · cases h <;> rfl

/-- The standby takes a good flit and frees its place at once. -/
theorem bridgeReceive_standby {c : Nat} {s : State} {f : Flit} {rest : List Flit}
    (hin : ((s.comb c).bundle (otherHive (higherClaim s))).inFlight = f :: rest)
    (hf : ((s.comb c).bundle (otherHive (higherClaim s))).failed = false) (hk : f.kind < 8) :
    bridgeReceive c (otherHive (higherClaim s)) 0 s =
      ((s.modBundle c (otherHive (higherClaim s)) (fun x => { x with inFlight := rest, acked := x.acked + 1, fails := 0 })).modHive
        (otherHive (higherClaim s)) (·.acceptFlit f)).modBundle c (otherHive (higherClaim s)) (·.free f) := by
  have hne : otherHive (higherClaim s) ≠ higherClaim s := by cases higherClaim s <;> decide
  unfold bridgeReceive
  rw [bridgeTake_good hin hf hk]
  dsimp only
  rw [modBundle_higherClaim, if_neg hne, acceptFlit_eq]
  exact freeCredit_eq c _ { f with parity := false } _

/-- A bundle that completes training takes the hive's credits, and its region is void for the frames open. -/
theorem bundleWork_trained {c : Nat} {h : HiveId} {s : State} (ht : ((s.comb c).bundle h).state = 1) (hr : (s.domain c).inReset = false) :
    bundleWork h c (bundleTrained c h) s = voidRegion h c (s.modBundle c h (fun _ => { state := 2, dataCr := 4096, ctlCr := 64 })) := by
  have he : bundleTrained c h s = s.modBundle c h (fun _ => { state := 2, dataCr := 4096, ctlCr := 64 }) := by
    unfold bundleTrained
    exact if_neg (by simp [ht, hr])
  unfold bundleWork
  dsimp only
  rw [he, modBundle_bundle, if_pos rfl, ht]
  rfl

end Sys2Proof.Machine

section
open Sys2Proof Sys2Proof.Machine Sys2Proof.Claims

/-- Settles O15, with one lemma on the bridge for each clause: `bridgeSend_eq`, `bridgeTake_good`, `bridgeTake_bad`, `bridgeReplay_eq`,
`retrain_effect` and `voidRegion_effect`; a batch of credits is one change of a bundle. -/
theorem bridgeCarriesFlits : Obligations.BridgeCarriesFlits := by
  unfold Obligations.BridgeCarriesFlits
  refine ⟨fun c f rest s => ?send, fun c f rest s => ?take, fun c h e f rest s hin hf hfails he => ?bad, fun c h s => ?replay,
    fun c h ctl s => ?credit, fun p c v s hready => ?retrain, fun c h s htraining hreset => ?trained⟩
  case send =>
    dsimp only
    intro ho hup hcr hroom hr
    have hrun : exec (.bridgeFlitSend c) s = done s (bridgeSend c.val s) := rfl
    rw [bridgeSend_eq ho hup hcr hroom hr] at hrun
    refine runs_of_done hrun rfl ?_
    rw [State.setComb_comb, if_pos rfl]
    refine ⟨rfl, fun h hh => ?_, fun h hh => ?_, rfl, fun j hj => (State.setComb_comb ..).trans (if_neg hj)⟩
    · rw [Comb.sendFlit_bundle]; exact Bundle.send_up _ f s.cb128 hh
    · rw [Comb.sendFlit_bundle]; exact if_pos hh
  case take =>
    dsimp only
    intro hin hf hk
    have hrun : exec (.bridgeFlitReceive c (otherHive (higherClaim s)) 0) s = done s (bridgeReceive c.val (otherHive (higherClaim s)) 0 s) := rfl
    rw [bridgeReceive_standby hin hf hk] at hrun
    generalize otherHive (higherClaim s) = h at *
    have hbundle : ∀ u : State, (((u.modHive h (·.acceptFlit f)).modBundle c.val h (·.free f)).comb c.val).bundle h =
        ((u.comb c.val).bundle h).free f := fun u => by
      rw [modBundle_bundle, if_pos rfl]; cases h <;> rfl
    refine runs_of_done hrun (by cases h <;> rfl) ?_
    rw [hbundle, modBundle_bundle, if_pos rfl]
    refine ⟨rfl, rfl, rfl, rfl, ?_, fun g => ?_, ?_⟩
    · cases h <;> rfl
    · cases h <;> cases g <;> rfl
    · cases h <;> rfl
  case bad =>
    have hrun : exec (.bridgeFlitReceive c h (e.zeroExtend 80)) s = done s (bridgeReceive c.val h (e.zeroExtend 80) s) := rfl
    unfold bridgeReceive at hrun
    rw [bridgeTake_bad e hin hf hfails he] at hrun
    dsimp only at hrun
    rw [bundleWork_same _ _ _ _ (by rw [modBundle_bundle, if_pos rfl])] at hrun
    refine runs_of_done hrun rfl ?_
    rw [modBundle_bundle, if_pos rfl]
    exact ⟨rfl, rfl, rfl, modBundle_only ..⟩
  case replay =>
    dsimp only
    intro hf hl
    have hrun : exec (.bridgeReplay ⟨c, []⟩ h) s = done s (bridgeReplay c.val h [] s) := rfl
    rw [bridgeReplay_eq hf hl] at hrun
    refine runs_of_done hrun rfl ?_
    have hbundle := modBundle_bundle s c.val h h Bundle.again
    rw [if_pos rfl] at hbundle
    refine ⟨?_, ?_, ?_, ⟨?_, fun j hj => ?_⟩, rfl⟩
    · exact congrArg Bundle.failed hbundle
    · exact congrArg Bundle.fails hbundle
    · exact congrArg Bundle.inFlight hbundle
    · exact (State.setReg_reg ..).trans (if_pos rfl)
    · exact (tfind_tset _ _ _ _ _).trans (if_neg hj)
  case credit =>
    dsimp only
    intro hx
    have hrun : exec (.creditBatchReturn c h ctl) s = done s (creditReturn c.val h ctl s) := rfl
    refine runs_of_done hrun rfl ⟨?_, rfl⟩
    unfold creditReturn
    rw [modBundle_bundle, if_pos rfl]
    cases ctl
    · exact if_pos hx
    · exact if_pos hx
  case retrain =>
    obtain ⟨s', hnear, hdone⟩ := writeAt_comb c.isLt p (off := Reg.REG_CTL) (by decide) v s hready
    have heffect := retrain_effect c.isLt p v s'
    generalize (perform p opWrite (combPage c.val 0x02) Reg.REG_CTL v s').1 = w at hdone heffect
    simp only [near_comb hnear, ← near_comb hdone] at heffect
    obtain ⟨ha, hb, hcells, hblocks, honly⟩ := heffect
    exact runs_of_done rfl (hdone.pending.trans (honly.pending.trans hnear.pending))
      ⟨ha, hb, served_combs hnear hcells hblocks honly hdone⟩
  case trained =>
    have hrun : exec (.bundleTrained c h) s = done s (bundleWork h c.val (bundleTrained c.val h) s) := rfl
    rw [bundleWork_trained htraining hreset] at hrun
    obtain ⟨honly, hclosed⟩ := voidRegion_effect h c.val (s.modBundle c.val h (fun _ => { state := 2, dataCr := 4096, ctlCr := 64 }))
    have hcombs := congrArg State.combs honly
    generalize voidRegion h c.val _ = t at *
    have hcomb : ∀ k, t.comb k = (s.modBundle c.val h (fun _ => { state := 2, dataCr := 4096, ctlCr := 64 })).comb k := fun k => by
      unfold State.comb
      rw [hcombs]
      cases h <;> rfl
    refine runs_of_done hrun (by rw [honly]; cases h <;> rfl) ⟨?_, ?_, fun k hk => ?_, hclosed, fun g => ?_, ?_, ?_⟩
    · rw [hcomb, modBundle_bundle, if_pos rfl]
    · rw [hcomb, modBundle_bundle, if_neg (by cases h <;> decide)]
    · rw [hcomb, modBundle_comb_other _ _ _ _ _ hk]
    · rw [honly]; cases h <;> cases g <;> rfl
    · rw [honly]; cases h <;> rfl
    · rw [honly]; cases h <;> rfl

end

namespace Sys2Proof.Machine
open Sys2Proof.Claims

/-! ### Records written to the store (R153–R155, R166) -/

/-- The fields of a record word (R155). -/
theorem recordWord_fields {c th : Nat} (hc : c < 1152) (hth : th < 4) (time tot : Nat) (flags : BitVec 7) :
    let w := recordWord c th time tot flags
    recCell w = c ∧ recTh w = th ∧ recTime w = time % 2 ^ 30 ∧ fieldN w.toNat 20 7 = tot % 2 ^ 14 ∧ ∀ i, i < 7 → w.getLsbD i = flags.getLsbD i := by
  have hflags := flags.isLt
  have hword : (recordWord c th time tot flags).toNat =
      2 ^ 53 * c + 2 ^ 51 * th + time % 2 ^ 30 * 2 ^ 21 + tot % 2 ^ 14 * 2 ^ 7 + flags.toNat := by
    unfold recordWord
    rw [BitVec.toNat_ofNat]
    omega
  dsimp only
  refine ⟨?_, ?_, ?_, ?_, fun i hi => ?_⟩
  · simp only [recCell, fieldN, hword, Nat.shiftRight_eq_div_pow]; omega
  · simp only [recTh, fieldN, hword, Nat.shiftRight_eq_div_pow]; omega
  · simp only [recTime, fieldN, hword, Nat.shiftRight_eq_div_pow]; omega
  · simp only [fieldN, hword, Nat.shiftRight_eq_div_pow]; omega
  · have hlow : (recordWord c th time tot flags).toNat % 2 ^ 7 = flags.toNat := by rw [hword]; omega
    rw [BitVec.getLsbD, BitVec.getLsbD, ← hlow, Nat.testBit_mod_two_pow]
    simp [hi]

/-- The flags of a record as it is corrected: CAL marks a skew that is in force. -/
theorem calFlag (ok : Bool) (flags : BitVec 7) : (if ok then flags ||| 32 else flags).getLsbD 5 = (ok || flags.getLsbD 5) := by
  cases ok <;> simp

/-- A block with one more record in its store. -/
def Block.push (x : Block) (r : StoreRec) : Block := { x with store := x.store ++ [r] }

/-- A selected record enters a store that is not full. -/
theorem storeRecord_selected {b : Nat} {r : StoreRec} {s : State} (hr : r.selected = true) (hs : (s.block b).store.length < 4096) :
    storeRecord b r s = (s.setBlock b ((s.block b).push r)).maxReg (blkPage b) Reg.BLK_FILL_MAX ((s.block b).push r).store.length := by
  unfold storeRecord noteFill
  rw [if_neg (by simp [hr]), if_neg (by omega)]
  dsimp only
  rw [State.modBlock_eq, State.setBlock_block, if_pos rfl]
  rfl

/-- A source that has counted keeps its count over a step that leaves the sources. -/
theorem sourceCounts_kept {g src : Nat} {s t u : State} (hs : Spared g src) (h : SourceCounts g src s t) (hk : SourcesKept t u) :
    SourceCounts g src s u := fun hb => (hk.reg hs).trans (h hb)

/-- What a read of a cell FIFO ends with: a selected record stored and the markers passed applied. -/
theorem storeMarkers_effect {c : Nat} (hc : c / 16 < 72) {r : StoreRec} {s : State} (hr : r.selected = true)
    (hs : (s.block (c / 16)).store.length < 4096) :
    let t := applyMarkers c (storeRecord (c / 16) r s)
    (∃ f, OnlyMarkers f ∧ t.block (c / 16) = ((s.block (c / 16)).push r).mapSlots f) ∧ (∀ j, j ≠ c / 16 → t.block j = s.block j) ∧
      (∀ j, t.cell j = if j = c then (s.cell c).unmarked else s.cell j) ∧ t.combs = s.combs ∧ StagesOnly (onPage (blkPage (c / 16))) s t ∧
      SourcesKept s t ∧ ∀ pg off, StagePage pg → PlainOff off → ¬ (pg = blkPage (c / 16) ∧ off = Reg.BLK_FILL_MAX) → t.reg pg off = s.reg pg off := by
  have hpg := stagePage_blk hc
  dsimp only
  rw [storeRecord_selected hr hs]
  obtain ⟨f, hf, hcell, hblock, honly⟩ := applyMarkers_effect c
    ((s.setBlock (c / 16) ((s.block (c / 16)).push r)).maxReg (blkPage (c / 16)) Reg.BLK_FILL_MAX ((s.block (c / 16)).push r).store.length)
  generalize hu : (s.setBlock (c / 16) ((s.block (c / 16)).push r)).maxReg (blkPage (c / 16)) Reg.BLK_FILL_MAX
    ((s.block (c / 16)).push r).store.length = u at *
  have hpush : ∀ j, u.block j = if j = c / 16 then (s.block (c / 16)).push r else s.block j := fun j => by
    rw [← hu]; exact State.setBlock_block ..
  have hstages : StagesOnly (onPage (blkPage (c / 16))) s u := by
    rw [← hu]; exact (stagesOnly_setBlock s _ _).trans (stagesOnly_setReg hpg _ (off := Reg.BLK_FILL_MAX) (by decide) _)
  have hkept : SourcesKept s u := by
    rw [← hu]
    exact (SourcesKept.of_eq rfl rfl : SourcesKept s (s.setBlock (c / 16) ((s.block (c / 16)).push r))).trans (sourcesKept_setReg hpg _ (off := Reg.BLK_FILL_MAX) (by decide) _)
  refine ⟨⟨f, hf, ?_⟩, fun j hj => ?_, fun j => ?_, ?_, hstages.trans ?_, hkept.trans ?_, fun pg off hp ho hne => ?_⟩
  · rw [hblock, if_pos rfl, hpush, if_pos rfl]
  · rw [hblock, if_neg hj, hpush, if_neg hj]
  · rw [hcell, ← hu]; rfl
  · rw [honly, ← hu]; rfl
  · rw [honly]; exact Quiet.refl _
  · rw [honly]; exact .of_eq rfl rfl
  · rw [honly]
    refine Eq.trans ?_ (setReg_stage_reg hpg (s.setBlock (c / 16) ((s.block (c / 16)).push r)) hp
      (off := Reg.BLK_FILL_MAX) (by decide) ho.1 hne
      (w32 (max (s.reg (blkPage (c / 16)) Reg.BLK_FILL_MAX).toNat ((s.block (c / 16)).push r).store.length)))
    rw [← hu]
    rfl

/-- A block whose open slots of some frames are marked POISON. -/
def Block.poison (x : Block) (ofFrame : BitVec 40 → Bool) : Block := x.mapSlots (fun k => if ofFrame k.frame then { k with poison := true } else k)

/-- Close groups of block `i` marked POISON in a region's open slots of some frames. -/
def RegSlot.poison (k : RegSlot) (i : Nat) (ofFrame : BitVec 40 → Bool) : RegSlot := if ofFrame k.frame then k.flagGroup i 8 else k

theorem RegSlot.poison_eq (i : Nat) (ofFrame : BitVec 40 → Bool) (k : RegSlot) : k.poison i ofFrame = { k with groups := (k.poison i ofFrame).groups } := by
  unfold RegSlot.poison; split <;> rfl

theorem poisonWord_eq (b : Nat) (ofFrame : BitVec 40 → Bool) (s : State) :
    poisonWord b ofFrame s = reportError (blkPage b) Reg.BLK_EVENTS 2 (b / 12) (b % 12)
      (((s.count (blkPage b) Reg.BLK_POISON_CNT).setBlock b ((s.block b).poison ofFrame)).setComb (b / 12)
        ((s.comb (b / 12)).mapSlots (·.poison (b % 12) ofFrame))) := rfl

/-- What a poisoned word of a block does (R166). -/
theorem poisonWord_effect {b : Nat} (hb : b < 72) (ofFrame : BitVec 40 → Bool) (s : State) :
    let t := poisonWord b ofFrame s
    t.cells = s.cells ∧ (∀ j, t.block j = if j = b then (s.block b).poison ofFrame else s.block j) ∧ (∀ c, GroupsDiffer (s.comb c) (t.comb c)) ∧
      Marked t (blkPage b) Reg.BLK_EVENTS 2 ∧ t.reg (blkPage b) Reg.BLK_POISON_CNT = satInc (s.reg (blkPage b) Reg.BLK_POISON_CNT) 1 ∧
      SourceCounts (b / 12) (b % 12) s t ∧ StagesOnly (onPage (blkPage b)) s t ∧
      ∀ pg off, StagePage pg → PlainOff off → ¬ (pg = blkPage b ∧ (off = Reg.BLK_POISON_CNT ∨ off = Reg.BLK_EVENTS)) → t.reg pg off = s.reg pg off := by
  have hpg := stagePage_blk hb
  have hs := spared_comb (c := b / 12) (by omega) (b % 12)
  dsimp only
  rw [poisonWord_eq]
  have hkept : SourcesKept s (((s.count (blkPage b) Reg.BLK_POISON_CNT).setBlock b ((s.block b).poison ofFrame)).setComb (b / 12)
      ((s.comb (b / 12)).mapSlots (·.poison (b % 12) ofFrame))) := (sourcesKept_setReg hpg s (by decide) _).trans (.of_eq rfl rfl)
  have hstages : StagesOnly (onPage (blkPage b)) s (((s.count (blkPage b) Reg.BLK_POISON_CNT).setBlock b ((s.block b).poison ofFrame)).setComb (b / 12)
      ((s.comb (b / 12)).mapSlots (·.poison (b % 12) ofFrame))) :=
    (stagesOnly_setReg hpg s (by decide) _).trans ((stagesOnly_setBlock _ _ _).trans (stagesOnly_setComb _ _ _))
  generalize hu : ((s.count (blkPage b) Reg.BLK_POISON_CNT).setBlock b ((s.block b).poison ofFrame)).setComb (b / 12)
      ((s.comb (b / 12)).mapSlots (·.poison (b % 12) ofFrame)) = u at *
  obtain ⟨hquiet, hmark, hcounts, hothers⟩ := reportError_effect hpg (off := Reg.BLK_EVENTS) (by decide) (by decide : 2 < 32) hs u
  refine ⟨hquiet.cells.trans (by rw [← hu]; rfl), fun j => ?_, fun c => ?_, hmark, ?_, sourceCounts_of_kept hs hkept hcounts,
    hstages.trans (stagesOnly_of_quiet hquiet), fun pg off hp ho hne => ?_⟩
  · rw [hquiet.block, ← hu]; exact State.setBlock_block ..
  · rw [hquiet.comb, ← hu, State.setComb_comb]
    split
    · rename_i h; subst h; exact ⟨_, RegSlot.poison_eq _ _, rfl⟩
    · exact .refl _
  · rw [hothers _ _ hpg (by decide) (by simp), ← hu]
    exact (State.setReg_reg ..).trans (if_pos rfl)
  · rw [hothers _ _ hp ho (fun h => hne ⟨h.1, .inr h.2⟩), ← hu]
    exact setReg_stage_reg hpg s hp (by decide) ho.1 (fun h => hne ⟨h.1, .inl h.2⟩) _

/-- A slot that stands open is not opened again. -/
theorem openSlot_open {s : State} {b : Nat} {f : BitVec 40} {k : Slot} (hk : findSlot s b f = some k) (a e : Int) :
    openSlot s b f a e = s.setBlock b (s.block b) := by
  have hany : (s.block b).slots.any (fun k => k.frame = f) = true := by
    obtain ⟨l, r, hslots, -⟩ := List.find?_eq_some_iff_append.1 hk |>.2
    have hframe := List.find?_some hk
    rw [hslots]
    simpa using .inr (.inl (by simpa using hframe))
  unfold openSlot
  rw [State.modBlock_eq, if_pos hany]

/-- A cell whose oldest record has been read. -/
def Cell.popped (x : Cell) (rest : List RawRec) : Cell := { x with fifo := rest, rdPos := x.rdPos + 1 }

theorem skewAt_setCell {s : State} {c : Nat} {x : Cell} (hx : x.skewPrev = (s.cell c).skewPrev) (raw : Int) :
    skewAt (s.setCell c x) c raw = skewAt s c raw := by
  unfold skewAt
  rw [State.setCell_cell, if_pos rfl, hx]
  rfl

theorem corrected_setCell {s : State} {c : Nat} {x : Cell} (hx : x.skewPrev = (s.cell c).skewPrev) (raw : Int) :
    corrected (s.setCell c x) c raw = corrected s c raw := by
  unfold corrected
  dsimp only
  rw [skewAt_setCell hx]
  rfl

/-- The state as a record read out of a cell is about to be stored: its poison counted. -/
def beforeStore (b : Nat) (f : BitVec 40) (bad : Bool) (s : State) : State := if bad then poisonWord b (· = f) s else s

/-- A block whose next frame's slot has been opened where a record runs ahead. -/
def slotReady (s : State) (b : Nat) (f : BitVec 40) (a e : Int) (next : Bool) : State := if next then openSlot s b f a e else s

theorem slotReady_open {s : State} {b : Nat} {f : BitVec 40} {k : Slot} (hk : findSlot s b f = some k) (a e : Int) (next : Bool) :
    (∀ j, (slotReady s b f a e next).block j = s.block j) ∧
      slotReady s b f a e next = { s with blocks := (slotReady s b f a e next).blocks } := by
  cases next with
  | false => exact ⟨fun _ => rfl, rfl⟩
  | true =>
    unfold slotReady
    rw [if_pos rfl, openSlot_open hk]
    refine ⟨fun j => ?_, rfl⟩
    rw [State.setBlock_block]
    split
    · rename_i h; rw [h]
    · rfl

/-- What a read of record `r` of cell `c` in `s` stores, with time `fu`, selection and parity of `v`. -/
def storedRec (c : Nat) (upset : W64) (r : RawRec) (fu : Int) (s v : State) : StoreRec :=
  ⟨recordWord c r.th (frameRel s (corrected s c r.fu)) r.tot (if (skewAt s c r.fu).2 then r.flags ||| 32 else r.flags) ^^^ upset, fu,
    frameOf s (corrected s c r.fu), selectedOn v c fu, r.parity && parityOf upset, v.cb128⟩

/-- A block that holds a record's frame open stores the record it reads, with the poison the word gained. -/
theorem blockWrite_open {c : Nat} {upset : W64} {r : RawRec} {rest : List RawRec} {k : Slot} {s : State} (hfifo : (s.cell c).fifo = r :: rest)
    (hroom : (s.block (c / 16)).store.length < 4096) (hin : (s.block (c / 16)).isolated = false) (hgap : inGap s r.gen (corrected s c r.fu) = false)
    (hslot : findSlot s (c / 16) (frameOf s (corrected s c r.fu)) = some k) :
    ∃ u : State, (∀ j, u.block j = s.block j) ∧ (∀ j, u.cell j = if j = c then (s.cell c).popped rest else s.cell j) ∧
      u = { s with cells := u.cells, blocks := u.blocks } ∧
      let v := beforeStore (c / 16) (frameOf s (corrected s c r.fu)) (r.parity && parityOf upset) u
      ∃ fu, blockWrite c upset s = applyMarkers c (storeRecord (c / 16) (storedRec c upset r fu s v) v) := by
  have hskew : skewAt (s.setCell c ((s.cell c).popped rest)) c r.fu = skewAt s c r.fu :=
    skewAt_setCell (x := (s.cell c).popped rest) rfl _
  have hcorr : corrected (s.setCell c ((s.cell c).popped rest)) c r.fu = corrected s c r.fu :=
    corrected_setCell (x := (s.cell c).popped rest) rfl _
  have hpop : s.modCell c (fun x => { x with fifo := rest, rdPos := x.rdPos + 1 }) = s.setCell c ((s.cell c).popped rest) := rfl
  unfold blockWrite
  dsimp only
  rw [hfifo]
  dsimp only
  rw [if_neg (by rintro ⟨-, h⟩; omega), hpop, hskew, hcorr]
  generalize hw : s.setCell c ((s.cell c).popped rest) = w
  have hcell : ∀ j, w.cell j = if j = c then (s.cell c).popped rest else s.cell j := fun j => by rw [← hw]; exact State.setCell_cell ..
  have hgap' : ¬ inGap w r.gen (corrected s c r.fu) = true := by rw [← hw]; exact Bool.eq_false_iff.1 hgap
  have hin' : ¬ (w.block (c / 16)).isolated = true := by rw [← hw]; exact Bool.eq_false_iff.1 hin
  have hframe : frameOf w (corrected s c r.fu) = frameOf s (corrected s c r.fu) := by rw [← hw]; rfl
  have hrel : frameRel w (corrected s c r.fu) = frameRel s (corrected s c r.fu) := by rw [← hw]; rfl
  have hready : ∀ (next : Bool) (f : BitVec 40) (a e : Int), (if next = true then openSlot w (c / 16) f a e else w) =
    slotReady w (c / 16) f a e next := fun _ _ _ _ => rfl
  rw [hready, hframe, hrel, if_neg hgap', if_neg hin']
  have hslot' : findSlot w (c / 16) (frameOf s (corrected s c r.fu)) = some k := by rw [← hw]; exact hslot
  have hfacts := fun a e next => slotReady_open hslot' a e next
  have hstill : ∀ a e next, ¬ (findSlot (slotReady w (c / 16) (frameOf s (corrected s c r.fu)) a e next) (c / 16)
      (frameOf s (corrected s c r.fu))).isNone = true := fun a e next => by
    have hsame : findSlot (slotReady w (c / 16) (frameOf s (corrected s c r.fu)) a e next) (c / 16) (frameOf s (corrected s c r.fu)) = some k :=
      (congrArg (fun x : Block => x.slots.find? (fun (q : Slot) => q.frame = frameOf s (corrected s c r.fu))) ((hfacts a e next).1 _)).trans hslot'
    rw [hsame]
    exact Bool.false_ne_true
  rw [if_neg (hstill _ _ _)]
  refine ⟨_, fun j => ((hfacts _ _ _).1 j).trans ?_, fun j => ?_, ?_, _, rfl⟩
  · rw [← hw]; rfl
  · rw [(hfacts _ _ _).2]; exact hcell j
  · rw [(hfacts _ _ _).2, ← hw]; rfl

/-- A block that streams, and has streamed, selects every record. -/
theorem selectedOn_streaming {s : State} {c : Nat} (hmode : blkMode s (c / 16) = 0) (hmodes : (s.block (c / 16)).modes = []) (t : Int) :
    selectedOn s c t = true := by
  have hat : modeAt s (c / 16) t = (0, blkStream s (c / 16)) := by
    unfold modeAt
    rw [hmodes, ← hmode]
    rfl
  unfold selectedOn
  rw [hat]
  rfl

/-- A state with a record's poison counted differs from the one before in its block's slots, page and close groups alone. -/
theorem beforeStore_effect {b : Nat} (hb : b < 72) (f : BitVec 40) (bad : Bool) (s : State) :
    let t := beforeStore b f bad s
    t.cells = s.cells ∧ (t.block b).store = (s.block b).store ∧ (t.block b).modes = (s.block b).modes ∧
      (∀ j, j ≠ b → t.block j = s.block j) ∧ StagesOnly (onPage (blkPage b)) s t ∧ blkMode t b = blkMode s b := by
  dsimp only
  unfold beforeStore
  cases bad with
  | false => exact ⟨rfl, rfl, rfl, fun _ _ => rfl, stagesOnly_refl s, rfl⟩
  | true =>
    rw [if_pos rfl]
    obtain ⟨hcells, hblock, -, -, -, -, hstages, hothers⟩ := poisonWord_effect hb (· = f) s
    have hself := (hblock b).trans (if_pos rfl)
    exact ⟨hcells, by rw [hself]; rfl, by rw [hself]; rfl, fun j hj => (hblock j).trans (if_neg hj), hstages,
      congrArg (fld · 1 0) (hothers _ _ (stagePage_blk hb) (by decide) (by simp))⟩

/-- The oldest record `r` of cell `c` read and stored as `x`: from `s` to `t`, with `v` where its poison has been counted. -/
structure CellRead (c : Nat) (r : RawRec) (rest : List RawRec) (upset : W64) (x : StoreRec) (s v t : State) : Prop where
  word : x.word = recordWord c r.th (frameRel s (corrected s c r.fu)) r.tot (if (skewAt s c r.fu).2 then r.flags ||| 32 else r.flags) ^^^ upset
  frame : x.frame = frameOf s (corrected s c r.fu)
  selected : x.selected = true
  poison : x.poison = (r.parity && parityOf upset)
  block : ∃ f, OnlyMarkers f ∧ t.block (c / 16) = ((v.block (c / 16)).push x).mapSlots f
  others : ∀ j, j ≠ c / 16 → t.block j = s.block j
  store : (v.block (c / 16)).store = (s.block (c / 16)).store
  cell : ∀ j, t.cell j = if j = c then ((s.cell c).popped rest).unmarked else s.cell j
  combs : t.combs = v.combs
  stages : StagesOnly (onPage (blkPage (c / 16))) s t
  kept : SourcesKept v t
  regs : ∀ pg off, StagePage pg → PlainOff off → ¬ (pg = blkPage (c / 16) ∧ off = Reg.BLK_FILL_MAX) → t.reg pg off = v.reg pg off

/-- A STREAMING block that holds the record's frame open reads and stores it. -/
theorem blockWrite_streaming {c : Fin 1152} {upset : W64} {r : RawRec} {rest : List RawRec} {k : Slot} {s : State}
    (hfifo : (s.cell c.val).fifo = r :: rest) (hroom : (s.block (c.val / 16)).store.length < 4096) (hin : (s.block (c.val / 16)).isolated = false)
    (hgap : inGap s r.gen (corrected s c.val r.fu) = false) (hmode : blkMode s (c.val / 16) = 0) (hmodes : (s.block (c.val / 16)).modes = [])
    (hslot : findSlot s (c.val / 16) (frameOf s (corrected s c.val r.fu)) = some k) :
    ∃ (u : State) (x : StoreRec), (∀ j, u.block j = s.block j) ∧ u = { s with cells := u.cells, blocks := u.blocks } ∧
      CellRead c.val r rest upset x s (beforeStore (c.val / 16) (frameOf s (corrected s c.val r.fu)) (r.parity && parityOf upset) u)
        (blockWrite c.val upset s) := by
  have hb := cell_block_lt c
  obtain ⟨u, hblock, hcell, honly, fu, hwrite⟩ := blockWrite_open (upset := upset) hfifo hroom hin hgap hslot
  have hu : StagesOnly (onPage (blkPage (c.val / 16))) s u := by rw [honly]; exact Quiet.refl _
  have humode : blkMode u (c.val / 16) = blkMode s (c.val / 16) := by rw [honly]; rfl
  obtain ⟨hvcells, hvstore, hvmodes, hvothers, hvstages, hvmode⟩ :=
    beforeStore_effect hb (frameOf s (corrected s c.val r.fu)) (r.parity && parityOf upset) u
  refine ⟨u, storedRec c.val upset r fu s (beforeStore (c.val / 16) (frameOf s (corrected s c.val r.fu)) (r.parity && parityOf upset) u),
    hblock, honly, ?_⟩
  rw [hwrite]
  generalize beforeStore (c.val / 16) (frameOf s (corrected s c.val r.fu)) (r.parity && parityOf upset) u = v at *
  have hsel : (storedRec c.val upset r fu s v).selected = true :=
    selectedOn_streaming (hvmode.trans (humode.trans hmode)) (hvmodes.trans ((congrArg Block.modes (hblock _)).trans hmodes)) fu
  have hstore := hvstore.trans (congrArg Block.store (hblock _))
  obtain ⟨hself, hothers, hcells, hcombs, hstages, hkept, hregs⟩ := storeMarkers_effect hb hsel (by rw [hstore]; exact hroom)
  have hvcell : ∀ j, v.cell j = u.cell j := fun j => by unfold State.cell; rw [hvcells]
  exact {
    word := rfl, frame := rfl, selected := hsel, poison := rfl, block := hself
    others := fun j hj => (hothers j hj).trans ((hvothers j hj).trans (hblock j))
    store := hstore
    cell := fun j => by
      rw [hcells, hvcell, hvcell, hcell, if_pos rfl, hcell]
      split <;> rfl
    combs := hcombs, stages := hu.trans (hvstages.trans hstages), kept := hkept, regs := hregs }

end Sys2Proof.Machine

namespace Sys2Proof.Machine
open Sys2Proof.Claims

/-! ### The merger's inputs (R167, R168) -/

/-- A loop whose rounds change nothing. -/
theorem forN_same {σ : Type} {n : Nat} {f : Nat → σ → σ} {s : σ} (h : ∀ i, i < n → f i s = s) : forN n f s = s :=
  forN_induct (fun _ u => u = s) rfl fun i u hi hu => by rw [hu, h i hi]

/-- An input that holds an item takes no other. -/
theorem feedInput_filled {b : Nat} {s : State} (h : s.input b ≠ []) (upset : W64) : feedInput b upset s = s := by
  unfold feedInput
  cases mergerSlot s (b / 12) with
  | none => rfl
  | some k => exact if_pos (.inl (by simpa using h))

/-- The floor of a block lies within its frame (R167). -/
theorem floorOf_bounds (s : State) (b : Nat) (k : RegSlot) : floorOf s b k ≤ k.stop ∧ (k.start ≤ k.stop → k.start ≤ floorOf s b k) :=
  ⟨min_le_left .., fun h => le_min h (le_max_left ..)⟩

theorem modInput_eq (s : State) (b : Nat) (f : List MItem → List MItem) :
    s.modInput b f = s.setComb (b / 12) { s.comb (b / 12) with inputs := lmod (s.comb (b / 12)).inputs (b % 12) f } := rfl

theorem input_modInput {s : State} {b : Nat} (hb : b % 12 < (s.comb (b / 12)).inputs.length) (f : List MItem → List MItem) :
    (s.modInput b f).input b = f (s.input b) := by
  unfold State.input
  rw [modInput_eq, State.setComb_comb, if_pos rfl]
  exact lget_lmod _ _ _ _ hb

/-- An input that holds an item is one of the comb's inputs. -/
theorem input_length {s : State} {b : Nat} (h : s.input b ≠ []) : b % 12 < (s.comb (b / 12)).inputs.length := by
  by_contra hb
  exact h (List.getD_eq_default _ _ (not_lt.1 hb))

/-- A block that has passed no record for 128 ticks gives a floor. -/
theorem floorEmit_due {b : Nat} {k : RegSlot} {s : State} (hk : mergerSlot s (b / 12) = some k) (hdue : (s.block b).floorTick + 128 ≤ s.tick)
    (hopen : inputClosed s b k = false) :
    floorEmit b s = (s.setBlock b { s.block b with floorTick := s.tick }).modInput b (· ++ [.floor k.frame (floorOf s b k)]) := by
  unfold floorEmit
  rw [hk]
  exact if_neg (by simp [hopen, hdue])

/-! ### The head the merger releases (R168) -/

/-- The lesser of a least time so far and the time `x` of number `i`; of equals the one so far. -/
def lesser (i : Nat) (x : Int) (m : Option (Int × Nat)) : Option (Int × Nat) :=
  match m with
  | some (t, _) => if x < t then some (x, i) else m
  | none => some (x, i)

/-- The least of some times, and the first number that has it, among those below a bound. -/
def leastOf (t : Nat → Int) (n : Nat) : Option (Int × Nat) := forN n (fun i m => lesser i (t i) m) none

theorem leastOf_eq {t : Nat → Int} {n i : Nat} (hi : i < n) (hbefore : ∀ j, j < i → t i < t j) (hafter : ∀ j, i < j → j < n → t i ≤ t j) :
    leastOf t n = some (t i, i) := by
  have key : (n ≤ i → ∀ x, leastOf t n = some x → t i < x.1) ∧ (i < n → leastOf t n = some (t i, i)) := by
    refine forN_induct (s := none) (fun m u => (m ≤ i → ∀ x, u = some x → t i < x.1) ∧ (i < m → u = some (t i, i))) ⟨fun _ _ h => (by cases h), fun h => absurd h (by omega)⟩
      fun m u hm hu => ?_
    obtain ⟨hlow, hhigh⟩ := hu
    obtain h | h | h := lt_trichotomy m i
    · refine ⟨fun _ x hx => ?_, fun h' => absurd h' (by omega)⟩
      cases u with
      | none => cases hx; exact hbefore m h
      | some y =>
        unfold lesser at hx
        dsimp only at hx
        split at hx
        · cases hx; exact hbefore m h
        · exact hlow h.le x hx
    · subst h
      refine ⟨fun h' => absurd h' (by omega), fun _ => ?_⟩
      cases u with
      | none => rfl
      | some y => exact if_pos (hlow le_rfl y rfl)
    · refine ⟨fun h' => absurd h' (by omega), fun _ => ?_⟩
      rw [hhigh h]
      exact if_neg (not_lt.2 (hafter m h hm))
  exact key.2 hi

/-- The time of the item at the head of a list. -/
def headFu (l : List MItem) : Int := match l with | [] => 0 | x :: _ => x.fu

/-- With a head at each of its inputs the merger takes the earliest, of equals that of the lowest block. -/
theorem nextInput_eq {s : State} {c i : Nat} (k : RegSlot) (hi : i < 12) (hfull : ∀ j, j < 12 → s.input (12 * c + j) ≠ [])
    (hbefore : ∀ j, j < i → headFu (s.input (12 * c + i)) < headFu (s.input (12 * c + j)))
    (hafter : ∀ j, i < j → j < 12 → headFu (s.input (12 * c + i)) ≤ headFu (s.input (12 * c + j))) : nextInput s c k = some i := by
  have hheads : (List.range 12).any (fun j => (headOf s (12 * c + j) k).isNone) = false := by
    rw [List.any_eq_false]
    intro j hj
    have hne := hfull j (List.mem_range.1 hj)
    unfold headOf
    cases h : s.input (12 * c + j) with
    | nil => exact absurd h hne
    | cons x more => simp
  unfold nextInput
  rw [hheads, if_neg Bool.false_ne_true]
  refine congrArg (Option.map (·.2)) (Eq.trans ?_ (leastOf_eq hi hbefore hafter))
  unfold leastOf forN
  refine List.foldl_ext _ _ _ fun m j hj => ?_
  have hne := hfull j (List.mem_range.1 hj)
  cases h : s.input (12 * c + j) with
  | nil => exact absurd h hne
  | cons x more =>
    have hhead : headFu (s.input (12 * c + j)) = x.fu := by rw [h]; rfl
    exact congrArg (lesser j · m) hhead.symm

/-! ### Records released (R169) -/

theorem parityOf_zero : parityOf 0 = false := by decide

/-- A record read from an undamaged FIFO. -/
theorem readRec_zero (b : Nat) (r : StoreRec) (s : State) : readRec b r 0 s = (s, { r with parity := s.cb128 }) := by
  have hread : r.read 0 = r := by
    unfold StoreRec.read
    rw [parityOf_zero]
    simp
  unfold readRec
  dsimp only
  rw [hread, if_neg (by simp)]

/-- Of a comb no more than its floors sent and flits of floors behind those that wait differ. -/
def FloorFlits (x y : Comb) : Prop := ∃ fs a b, (∀ f ∈ fs, f.kind = 2) ∧ y = { x with out := x.out ++ fs, floorSent := a, floorTick := b }

theorem regionFloor_effect (c : Nat) (s : State) :
    FloorFlits (s.comb c) ((regionFloor c s).comb c) ∧ regionFloor c s = { s with combs := (regionFloor c s).combs } := by
  have hsame : FloorFlits (s.comb c) (s.comb c) := ⟨[], (s.comb c).floorSent, (s.comb c).floorTick, by simp, by rw [List.append_nil]⟩
  unfold regionFloor
  cases mergerSlot s c with
  | none => exact ⟨hsame, rfl⟩
  | some k =>
    dsimp only
    split
    · refine ⟨⟨[floorFlit k (minFloor s c k)], minFloor s c k, s.tick, by simp [floorFlit], ?_⟩, rfl⟩
      unfold pushFlit
      rw [State.modComb_eq, State.setComb_comb, if_pos rfl, State.setComb_comb, if_pos rfl]
    · exact ⟨hsame, rfl⟩

/-- The data flit of a record (R172). -/
def dataFlit (k : RegSlot) (r : StoreRec) : Flit := ⟨1, k.frame.getLsbD 0, r.poison, r.word, false⟩

/-- A comb that has dropped a record out of order. -/
def Comb.drop (x : Comb) : Comb := { x with disorder := true }

theorem disorderDrop_eq (c : Nat) (s : State) :
    disorderDrop c s = reportError (combPage c 0x02) Reg.MRG_EVENTS 0 c 12
      ((s.setComb c (s.comb c).drop).count (combPage c 0x02) Reg.MRG_DISORDER_CNT) := rfl

section
variable {c : Nat} (hc : c < 6)
include hc

/-- What the drop of a record does (R169). -/
theorem disorderDrop_effect (s : State) :
    let t := disorderDrop c s
    (∀ d, t.comb d = if d = c then (s.comb c).drop else s.comb d) ∧ t.cells = s.cells ∧ t.blocks = s.blocks ∧
      t.reg (combPage c 0x02) Reg.MRG_DISORDER_CNT = satInc (s.reg (combPage c 0x02) Reg.MRG_DISORDER_CNT) 1 ∧
      Marked t (combPage c 0x02) Reg.MRG_EVENTS 0 ∧ SourceCounts c 12 s t ∧ StagesOnly (onPage (combPage c 0x02)) s t := by
  have hpg := stagePage_comb hc
  have hs := spared_comb hc 12
  have hkept : SourcesKept s ((s.setComb c (s.comb c).drop).count (combPage c 0x02) Reg.MRG_DISORDER_CNT) :=
    (SourcesKept.of_eq rfl rfl : SourcesKept s (s.setComb c (s.comb c).drop)).trans
      (sourcesKept_setReg hpg _ (off := Reg.MRG_DISORDER_CNT) (by decide) _)
  have hstages : StagesOnly (onPage (combPage c 0x02)) s ((s.setComb c (s.comb c).drop).count (combPage c 0x02) Reg.MRG_DISORDER_CNT) :=
    (stagesOnly_setComb s c _).trans (stagesOnly_setReg hpg _ (off := Reg.MRG_DISORDER_CNT) (by decide) _)
  obtain ⟨hquiet, hmark, hcounts, hothers⟩ := reportError_effect hpg (off := Reg.MRG_EVENTS) (n := 0) (by decide) (by decide) hs
    ((s.setComb c (s.comb c).drop).count (combPage c 0x02) Reg.MRG_DISORDER_CNT)
  dsimp only
  rw [disorderDrop_eq]
  refine ⟨fun d => (hquiet.comb d).trans (State.setComb_comb ..), hquiet.cells, hquiet.blocks, ?_, hmark, sourceCounts_of_kept hs hkept hcounts,
    hstages.trans (stagesOnly_of_quiet hquiet)⟩
  rw [hothers _ _ hpg (by decide) (by simp)]
  exact (State.setReg_reg ..).trans (if_pos rfl)

/-- A record of the frame served that is not out of bounds goes to the transmitters. -/
theorem releaseRec_in_order {k : RegSlot} {r : StoreRec} {s : State} (hf : r.frame = k.frame) (hl : ∀ l, k.latest = some l → l - 1024000 ≤ r.fu) :
    let t := releaseRec c k r s
    (t.comb c).out = (s.comb c).out ++ [dataFlit k r] ∧ (t.comb c).inputs = (s.comb c).inputs ∧ t.cells = s.cells ∧ t.blocks = s.blocks ∧
      StagesOnly (onPage (combPage c 0x02)) s t := by
  have hpush : ∀ (u : State) (g : RegSlot → RegSlot), ((pushFlit c (dataFlit k r) (u.modRegSlot c k.frame g)).comb c).out = (u.comb c).out ++ [dataFlit k r] ∧
      ((pushFlit c (dataFlit k r) (u.modRegSlot c k.frame g)).comb c).inputs = (u.comb c).inputs := fun u g => by
    unfold pushFlit State.modRegSlot
    rw [State.modComb_eq, State.setComb_comb, if_pos rfl, State.modComb_eq, State.setComb_comb, if_pos rfl]
    exact ⟨rfl, rfl⟩
  unfold releaseRec
  rw [if_neg (not_not.2 hf)]
  cases h : k.latest with
  | none => exact ⟨(hpush s _).1, (hpush s _).2, rfl, rfl, Quiet.refl _⟩
  | some l =>
    dsimp only
    rw [if_neg (not_lt.2 (hl l h))]
    split
    · exact ⟨(hpush _ _).1, (hpush _ _).2, rfl, rfl, (stagesOnly_setReg (stagePage_comb hc) s (off := Reg.MRG_MAX_LAG) (by decide) _).trans (Quiet.refl _)⟩
    · exact ⟨(hpush s _).1, (hpush s _).2, rfl, rfl, Quiet.refl _⟩

end

/-- A record too far behind is dropped. -/
theorem releaseRec_late {c : Nat} {k : RegSlot} {r : StoreRec} {s : State} {l : Int} (hf : r.frame = k.frame) (hl : k.latest = some l)
    (h : r.fu < l - 1024000) : releaseRec c k r s = disorderDrop c s := by
  unfold releaseRec
  rw [if_neg (not_not.2 hf), hl]
  exact if_pos h

/-- A record of the frame served goes to the transmitters, or is dropped where it is too far behind (R169). -/
theorem releaseRec_effect {c : Nat} (hc : c < 6) {k : RegSlot} {r : StoreRec} (s : State) (hf : r.frame = k.frame) :
    let t := releaseRec c k r s
    (t.comb c).inputs = (s.comb c).inputs ∧ t.cells = s.cells ∧ t.blocks = s.blocks ∧ StagesOnly (onPage (combPage c 0x02)) s t ∧
      ((∀ l, k.latest = some l → l - 1024000 ≤ r.fu) → (t.comb c).out = (s.comb c).out ++ [dataFlit k r]) ∧
      ∀ l, k.latest = some l → r.fu < l - 1024000 → (t.comb c).disorder = true ∧ (t.comb c).out = (s.comb c).out ∧
        t.reg (combPage c 0x02) Reg.MRG_DISORDER_CNT = satInc (s.reg (combPage c 0x02) Reg.MRG_DISORDER_CNT) 1 ∧
        Marked t (combPage c 0x02) Reg.MRG_EVENTS 0 ∧ SourceCounts c 12 s t := by
  by_cases h : ∀ l, k.latest = some l → l - 1024000 ≤ r.fu
  · obtain ⟨hout, hinputs, hcells, hblocks, hstages⟩ := releaseRec_in_order hc (s := s) hf h
    exact ⟨hinputs, hcells, hblocks, hstages, fun _ => hout, fun l hl hlate => absurd (h l hl) (not_le.2 hlate)⟩
  · obtain ⟨l, hl⟩ := not_forall.1 h
    obtain ⟨hl, hlate⟩ := Classical.not_imp.1 hl
    dsimp only
    rw [releaseRec_late hf hl (not_le.1 hlate)]
    obtain ⟨hcomb, hcells, hblocks, hcount, hmark, hsource, hstages⟩ := disorderDrop_effect hc s
    rw [hcomb, if_pos rfl]
    exact ⟨rfl, hcells, hblocks, hstages, fun h' => absurd h' h, fun _ _ _ => ⟨rfl, rfl, hcount, hmark, hsource⟩⟩

/-- The record at the head of an input leaves it for the bridge, and the floor that came with it counts. -/
theorem releaseItem_record {c i : Nat} {k : RegSlot} {r : StoreRec} {fl : Int} {rest : List MItem} {s : State} (hi : i < 12)
    (hin : s.input (12 * c + i) = .record r fl :: rest) :
    ∃ u, releaseItem c k i 0 s = releaseRec c k { r with parity := s.cb128 } u ∧ u = { s with combs := u.combs } ∧
      u.input (12 * c + i) = rest ∧ (u.comb c).out = (s.comb c).out := by
  have hdiv : (12 * c + i) / 12 = c := by omega
  have hlen := input_length (b := 12 * c + i) (s := s) (by rw [hin]; simp)
  have hrest := input_modInput hlen (fun _ => rest)
  have hout : ((s.modInput (12 * c + i) (fun _ => rest)).comb c).out = (s.comb c).out := by
    rw [modInput_eq, hdiv, State.setComb_comb, if_pos rfl]
  unfold releaseItem
  dsimp only
  rw [hin]
  dsimp only
  rw [readRec_zero]
  refine ⟨_, rfl, rfl, ?_, ?_⟩
  · unfold State.input State.modRegSlot
    rw [hdiv, State.modComb_eq, State.setComb_comb, if_pos rfl]
    unfold State.input at hrest
    rwa [hdiv] at hrest
  · unfold State.modRegSlot
    rw [State.modComb_eq, State.setComb_comb, if_pos rfl, hout]

/-- A comb that holds all heads and nothing for the bridge releases its earliest record. -/
theorem mergerRelease_eq {c i : Nat} {k : RegSlot} {upsets : List W64} {s : State} (ho : (s.comb c).out = []) (hr : (s.comb c).inReset = false)
    (hk : mergerSlot s c = some k) (hfull : ∀ j, j < 12 → s.input (12 * c + j) ≠ []) (hnext : nextInput s c k = some i)
    (hcredit : dataCredit s c = true) : mergerRelease c upsets s = regionFloor c (releaseItem c k i (lget 0 upsets 12) s) := by
  have hfeed : forN 12 (fun i s => feedInput (12 * c + i) (lget 0 upsets i) s) s = s := forN_same fun j hj => feedInput_filled (hfull j hj) _
  unfold mergerRelease
  rw [if_neg (by simp [ho, hr])]
  dsimp only
  rw [hfeed, hk]
  dsimp only
  rw [hnext]
  exact if_neg (by simp [hcredit])

/-- Without a credit no record leaves. -/
theorem mergerRelease_starved {c i : Nat} {k : RegSlot} {upsets : List W64} {s : State} (hk : mergerSlot s c = some k)
    (hfull : ∀ j, j < 12 → s.input (12 * c + j) ≠ []) (hnext : nextInput s c k = some i) (hrec : headIsRec (s.input (12 * c + i)) = true)
    (hcredit : dataCredit s c = false) : mergerRelease c upsets s = s := by
  have hfeed : forN 12 (fun i s => feedInput (12 * c + i) (lget 0 upsets i) s) s = s := forN_same fun j hj => feedInput_filled (hfull j hj) _
  unfold mergerRelease
  split
  · rfl
  · dsimp only
    rw [hfeed, hk]
    dsimp only
    rw [hnext]
    exact if_pos (by simp [hcredit, hrec])

end Sys2Proof.Machine

section
open Sys2Proof Sys2Proof.Machine Sys2Proof.Claims

/-- Settles O13: `blockWrite_streaming` for the read of a cell FIFO, `floorEmit_due` for the floor, and for the merger `nextInput_eq` (the head it
takes), `releaseRec_in_order` and `disorderDrop_effect` (what becomes of it). -/
theorem recordsThroughTheRegion : Obligations.RecordsThroughTheRegion := by
  unfold Obligations.RecordsThroughTheRegion
  refine ⟨fun c r rest k s => ?stored, fun c upset r rest k s => ?poisoned, fun blk k s hk hdue hopen => ?floor,
    fun c k i r fl rest s ho hr hup hcr hk hfull hin hframe hleast => ?release, fun c upsets k i s hfull hk hnext hrec hcredit => ?starved⟩
  case stored =>
    dsimp only
    intro hfifo hth hroom hiso hgap hmode hmodes hslot
    have hrun : exec (.blockWrite c 0) s = done s (blockWrite c.val 0 s) := rfl
    obtain ⟨u, x, hblock, honly, hread⟩ := blockWrite_streaming (upset := 0) hfifo hroom hiso hgap hmode hmodes hslot
    have hgood : (r.parity && parityOf 0) = false := by rw [parityOf_zero, Bool.and_false]
    have hpoison := hread.poison
    rw [hgood] at hread hpoison
    have hword := hread.word
    rw [show (0 : W64) = 0#64 from rfl, BitVec.xor_zero] at hword
    obtain ⟨hcell, hrth, htime, htot, hflags⟩ := recordWord_fields c.isLt hth (frameRel s (corrected s c.val r.fu)) r.tot
      (if (skewAt s c.val r.fu).2 then r.flags ||| 32 else r.flags)
    rw [← hword] at hcell hrth htime htot hflags
    obtain ⟨f, -, hself⟩ := hread.block
    have hcombs : (blockWrite c.val 0 s).combs = s.combs := hread.combs.trans (by unfold beforeStore; rw [honly]; rfl)
    have hcellc := (hread.cell c.val).trans (if_pos rfl)
    refine runs_of_done hrun hread.stages.pending ⟨congrArg Cell.fifo hcellc, congrArg Cell.rdPos hcellc,
      ⟨x, ?_, hread.frame, hread.selected, hpoison, hcell, hrth, htime, htot, (hflags 5 (by decide)).trans (calFlag _ _)⟩,
      fun j hj => (hread.cell j).trans (if_neg hj), hread.others, hread.stages.cellsBlocks hcombs⟩
    rw [hself, ← hread.store]
    rfl
  case poisoned =>
    dsimp only
    intro hfifo hroom hiso hgap hmode hmodes hslot hparity hupset
    have hrun : exec (.blockWrite c upset) s = done s (blockWrite c.val upset s) := rfl
    obtain ⟨u, x, hblock, honly, hread⟩ := blockWrite_streaming (upset := upset) hfifo hroom hiso hgap hmode hmodes hslot
    have hbad : (r.parity && parityOf upset) = true := by rw [hparity, hupset]; rfl
    have hpoison := hread.poison
    rw [hbad] at hread hpoison
    have hb := cell_block_lt c
    obtain ⟨-, hslots, -, hmark, hcount, hsource, -, -⟩ := poisonWord_effect hb (· = frameOf s (corrected s c.val r.fu)) u
    have hv : beforeStore (c.val / 16) (frameOf s (corrected s c.val r.fu)) true u =
      poisonWord (c.val / 16) (· = frameOf s (corrected s c.val r.fu)) u := rfl
    rw [← hv] at hslots hmark hcount hsource
    generalize beforeStore (c.val / 16) (frameOf s (corrected s c.val r.fu)) true u = v at *
    have hpg := stagePage_blk hb
    have hs := spared_comb (c := c.val / 16 / 12) (by omega) (c.val / 16 % 12)
    have hdom : c.val / 16 / 12 = c.val / 192 := by omega
    have hkept : SourcesKept s u := by rw [honly]; exact .of_eq rfl rfl
    have hreg : u.reg (blkPage (c.val / 16)) Reg.BLK_POISON_CNT = s.reg (blkPage (c.val / 16)) Reg.BLK_POISON_CNT := by rw [honly]; rfl
    obtain ⟨f, hf, hself⟩ := hread.block
    refine runs_of_done hrun hread.stages.pending ⟨⟨x, ?_, hread.frame, hpoison⟩, fun q hq hqf => ?_, ?_, ?_, ?_,
      fun j hj => (hread.cell j).trans (if_neg hj), hread.others⟩
    · rw [hself, ← hread.store]
      rfl
    · rw [hself, hslots, if_pos rfl] at hq
      obtain ⟨q', hq', rfl⟩ := List.mem_map.1 hq
      obtain ⟨q₀, -, rfl⟩ := List.mem_map.1 hq'
      rw [hf] at hqf ⊢
      dsimp only at hqf ⊢
      by_cases h : decide (q₀.frame = frameOf s (corrected s c.val r.fu)) = true
      · rw [if_pos h]
      · rw [if_neg h] at hqf
        exact absurd (decide_eq_true hqf) h
    · unfold Marked
      rwa [hread.regs _ _ hpg (by decide) (by simp)]
    · rw [hread.regs _ _ hpg (by decide) (by simp), hcount, hreg]
    · rw [← hdom]
      exact sourceCounts_kept hs (sourceCounts_of_kept hs hkept hsource) hread.kept
  case floor =>
    have hrun : exec (.floorEmit blk) s = done s (floorEmit blk.val s) := rfl
    rw [floorEmit_due hk hdue hopen] at hrun
    obtain ⟨hstop, hstart⟩ := floorOf_bounds s blk.val k
    refine runs_of_done hrun rfl ⟨?_, fun hlen => input_modInput hlen _, hstop, hstart, rfl⟩
    exact congrArg Block.floorTick ((State.setBlock_block ..).trans (if_pos rfl))
  case release =>
    have hnext : nextInput s c.val k = some i.val := by
      have hhead : ∀ j, j < 12 → (j < i.val → r.fu < headFu (s.input (12 * c.val + j))) ∧ (i.val < j → r.fu ≤ headFu (s.input (12 * c.val + j))) :=
        fun j hj => by
          cases h : s.input (12 * c.val + j) with
          | nil => exact absurd h (hfull j hj)
          | cons x more => exact hleast j hj x more h
      have hi : headFu (s.input (12 * c.val + i.val)) = r.fu := by rw [hin]; rfl
      exact nextInput_eq k i.isLt hfull (fun j hj => by rw [hi]; exact (hhead j (hj.trans i.isLt)).1 hj)
        (fun j hij hj => by rw [hi]; exact (hhead j hj).2 hij)
    have hcredit : dataCredit s c.val = true := by
      unfold dataCredit
      dsimp only
      rw [ho, hup]
      exact decide_eq_true hcr
    have hrun : exec (.mergerRelease ⟨c, []⟩) s = done s (mergerRelease c.val [] s) := rfl
    rw [mergerRelease_eq ho hr hk hfull hnext hcredit] at hrun
    obtain ⟨u, hitem, hu, hinput, hout⟩ := releaseItem_record (k := k) i.isLt hin
    have hitem' : releaseItem c.val k i.val (lget 0 [] 12) s = releaseRec c.val k { r with parity := s.cb128 } u := hitem
    rw [hitem'] at hrun
    have hustages : StagesOnly (onPage (combPage c.val 0x02)) s u := by rw [hu]; exact Quiet.refl _
    have hukept : SourcesKept s u := by rw [hu]; exact .of_eq rfl rfl
    rw [ho] at hout
    obtain ⟨hinputs, hcells, hblocks, hstages, horder, hlate⟩ :=
      releaseRec_effect c.isLt u (show ({ r with parity := s.cb128 } : StoreRec).frame = k.frame from hframe)
    generalize releaseRec c.val k { r with parity := s.cb128 } u = v at *
    obtain ⟨⟨fs, a, b, hfs, hcomb⟩, honly⟩ := regionFloor_effect c.val v
    generalize regionFloor c.val v = t at *
    have hall : StagesOnly (onPage (combPage c.val 0x02)) s t := hustages.trans (hstages.trans (by rw [honly]; exact Quiet.refl _))
    refine runs_of_done hrun hall.pending ⟨?_, fun hl => ?_, fun l hl hbehind => ?_, hall.combs ?_ ?_⟩
    · rw [← hinput]
      unfold State.input
      have hdiv : (12 * c.val + i.val) / 12 = c.val := by omega
      rw [hdiv, hcomb, ← hinputs]
    · rw [hcomb, horder hl, hout]
      rfl
    · obtain ⟨hdisorder, hkept, hcount, hmark, hsource⟩ := hlate l hl hbehind
      refine ⟨by rw [hcomb]; exact hdisorder, fun f hf => ?_, ?_, ?_, ?_⟩
      · rw [hcomb, hkept, hout] at hf
        rw [hfs f hf]
        decide
      · rw [honly]
        exact hcount.trans (by rw [hu]; rfl)
      · rw [honly]
        exact hmark
      · rw [honly]
        exact sourceCounts_kept (spared_comb c.isLt 12) (sourceCounts_of_kept (spared_comb c.isLt 12) hukept hsource) (.of_eq rfl rfl)
    · rw [honly]
      exact hcells.trans (by rw [hu])
    · rw [honly]
      exact hblocks.trans (by rw [hu])
  case starved =>
    have hrun : exec (.mergerRelease ⟨c, upsets⟩) s = done s (mergerRelease c.val upsets s) := rfl
    rw [mergerRelease_starved hk hfull hnext hrec hcredit] at hrun
    exact hrun.trans (done_of_pending rfl)

end

namespace Sys2Proof.Machine
open Sys2Proof.Claims

/-! ### Steps of blocks and region mergers -/

/-- The registers of a page in front of the settings of its cells. -/
def StageReg (pg k : Nat) : Prop := keyPage k = pg ∧ keyOff k < 0x100

/-- The registers of all pages of blocks and region mergers, but for the settings of the cells. -/
def AnyStageReg (k : Nat) : Prop := (keyGroup k = 1 ∨ keyGroup k = 2) ∧ keyOff k < 0x100

theorem stageReg_key {pg off : Nat} (hpg : StagePage pg) (ho : off < 0x100) : StageReg pg (rkey pg off 0) := by
  have hlt : off < 2 ^ 12 := by omega
  exact ⟨hpg.keyPage hlt, by rw [hpg.off hlt]; exact ho⟩

theorem stageReg_any {pg k : Nat} (hpg : StagePage pg) (h : StageReg pg k) : AnyStageReg k := by
  obtain ⟨r, g, i, rfl, hr, hg, hi⟩ := hpg
  obtain ⟨hpage, hoff⟩ := h
  refine ⟨?_, hoff⟩
  simp only [keyPage, page] at hpage
  simp only [keyGroup]
  omega

/-- A step of cells, blocks and combs that leaves the corrected times and takes no event of the blocks and regions back. -/
structure StageStep (K : Nat → Prop) (s t : State) : Prop where
  stages : StagesOnly K s t
  skew : ∀ j, (t.cell j).skewPrev = (s.cell j).skewPrev
  events : ∀ pg n, StagePage pg → Marked s pg Reg.BLK_EVENTS n → Marked t pg Reg.BLK_EVENTS n

namespace StageStep
variable {K L : Nat → Prop} {s t u : State}

theorem refl (s : State) : StageStep K s s := ⟨stagesOnly_refl s, fun _ => rfl, fun _ _ _ => id⟩

theorem trans (h : StageStep K s t) (k : StageStep K t u) : StageStep K s u :=
  ⟨h.stages.trans k.stages, fun j => (k.skew j).trans (h.skew j), fun pg n hpg hm => k.events pg n hpg (h.events pg n hpg hm)⟩

theorem mono (h : StageStep K s t) (hk : ∀ k, K k → L k) : StageStep L s t := ⟨h.stages.mono hk, h.skew, h.events⟩

/-- A step of cells, blocks and combs that keeps the skew of the cells. -/
theorem of_only (h : t = { s with cells := t.cells, blocks := t.blocks, combs := t.combs }) (hs : ∀ j, (t.cell j).skewPrev = (s.cell j).skewPrev) :
    StageStep K s t := by
  refine ⟨?_, hs, fun pg n _ hm => ?_⟩
  · rw [h]; exact Quiet.refl _
  · rw [h]; exact hm

theorem setBlock (s : State) (b : Nat) (x : Block) : StageStep K s (s.setBlock b x) := of_only rfl fun _ => rfl
theorem setComb (s : State) (c : Nat) (x : Comb) : StageStep K s (s.setComb c x) := of_only rfl fun _ => rfl

theorem setCell (s : State) (c : Nat) {x : Cell} (hx : x.skewPrev = (s.cell c).skewPrev) : StageStep K s (s.setCell c x) :=
  of_only rfl fun j => by
    rw [State.setCell_cell]
    split
    · rename_i h; rw [h]; exact hx
    · rfl

theorem setReg {pg : Nat} (hpg : StagePage pg) {off : Nat} (ho : off < 0x100) (hne : off ≠ Reg.BLK_EVENTS) (s : State) (v : W32) :
    StageStep (StageReg pg) s (s.setReg pg off v) := by
  refine ⟨stagesOnly_of_quiet (quiet_setReg s _ _ _ _ (.inr (stageReg_key hpg ho))), fun _ => rfl, fun pg' n hpg' hm => ?_⟩
  unfold Marked
  rwa [setReg_stage_reg hpg s hpg' (by omega) (by decide) fun h => hne h.2.symm]

theorem raise {pg : Nat} (hpg : StagePage pg) {off : Nat} (ho : off < 0x100) (s : State) (bits : Nat) :
    StageStep (StageReg pg) s (raise s pg off bits) := by
  have hquiet := raise_quiet s pg off bits hpg.mod
  refine ⟨stagesOnly_of_quiet (quiet_mono hquiet ?_), fun j => by rw [hquiet.cell], fun pg' n hpg' hm => ?_⟩
  · rintro k rfl
    exact stageReg_key hpg ho
  · unfold Marked at hm ⊢
    by_cases h : pg' = pg ∧ Reg.BLK_EVENTS = off
    · obtain ⟨rfl, rfl⟩ := h
      rw [raise_reg s _ _ _ hpg'.mod (hpg'.noted (by decide))]
      simp only [bit, BitVec.toNat_or, Nat.testBit_or] at hm ⊢
      rw [hm, Bool.true_or]
    · rwa [raise_stage_reg hpg s hpg' (by omega) (by decide) h]

theorem guardEvent (s : State) (g src : Nat) : StageStep K s (guardEvent s g src) := by
  have hquiet : Quiet K s (Machine.guardEvent s g src) := guardEvent_quiet s g src
  refine ⟨stagesOnly_of_quiet hquiet, fun j => by rw [hquiet.cell], fun pg n hpg hm => ?_⟩
  unfold Marked
  rwa [guardEvent_reg _ _ _ _ _ _ (hpg.noted (by decide))]

section
variable (h : StageStep AnyStageReg s t)
include h

/-- Settings that are not a stage's own are as they were. -/
theorem setting {pg off i : Nat} (hn : noted (rkey pg off i) = false) (hk : ¬ AnyStageReg (rkey pg off i)) : t.reg pg off i = s.reg pg off i :=
  h.stages.reg pg off i hn hk

theorem timeSetting {off : Nat} (hn : noted (rkey (cfgPage 0x10) off 0) = false) (hg : keyGroup (rkey (cfgPage 0x10) off 0) = 0x10) :
    t.reg (cfgPage 0x10) off = s.reg (cfgPage 0x10) off := by
  refine h.setting hn ?_
  rintro ⟨hgroup, -⟩
  rw [hg] at hgroup
  omega

theorem frameK : t.frameK = s.frameK := by
  unfold State.frameK State.cfg
  rw [h.timeSetting (by decide) (by decide)]

theorem frameFu : t.frameFu = s.frameFu := by
  unfold State.frameFu
  rw [h.frameK]

theorem epochFu : t.epochFu = s.epochFu := by
  unfold State.epochFu State.reg64 State.cfg
  rw [h.timeSetting (by decide) (by decide), h.timeSetting (by decide) (by decide), h.timeSetting (by decide) (by decide)]

/-- The frame of a time is as it was. -/
theorem frameOf (x : Int) : frameOf t x = frameOf s x := by
  unfold Machine.frameOf schemeAt
  rw [h.stages.chip, h.frameFu, h.epochFu]

theorem overdue (d : Option Nat) : overdue t d = overdue s d := by
  unfold Machine.overdue drainFu
  rw [h.stages.tick, h.frameK]

/-- The settings of a cell are as they were. -/
theorem cellSetting (c : Nat) {off : Nat} (ho : 0x100 ≤ off) (ho' : off < 2 ^ 12) : t.cellReg c off = s.cellReg c off := by
  have hgroup : keyGroup (rkey (blkPage (c / 16)) off (c % 16)) = 1 := by
    have hi : c / 16 % 12 < 12 := Nat.mod_lt _ (by decide)
    simp only [keyGroup, rkey, blkPage, page]
    generalize c / 16 % 12 = i at *
    generalize c / 16 / 12 = g
    omega
  have hoff : keyOff (rkey (blkPage (c / 16)) off (c % 16)) = off := by simp only [keyOff, rkey, blkPage, page]; omega
  refine h.setting ?_ ?_
  · simp only [keyOff, keyGroup] at hoff hgroup
    unfold noted
    rw [hoff, hgroup]
    have hcount : off ≠ Reg.EVT_COUNT := by rintro rfl; exact absurd ho (by decide)
    simp [hcount]
  · rintro ⟨-, hlt⟩
    rw [hoff] at hlt
    omega

/-- Corrected times are as they were. -/
theorem corrected (c : Nat) (raw : Int) : corrected t c raw = corrected s c raw := by
  have hskew : skewAt t c raw = skewAt s c raw := by
    unfold skewAt
    rw [h.cellSetting c (by decide) (by decide), h.skew]
    unfold State.cellCfg
    rw [h.cellSetting c (by decide) (by decide)]
  unfold Machine.corrected dieOffset
  rw [hskew, h.stages.chip]

end

end StageStep

end Sys2Proof.Machine

namespace Sys2Proof.Machine
open Sys2Proof.Claims

/-! ### A block closes a slot (R158–R160) -/

/-- A length word from its parts (R159). -/
def lengthWord (b frame taken drops mutes flags : Nat) : W64 :=
  BitVec.ofNat 64 (2 ^ 57 * b + 2 ^ 53 * frame + taken * 2 ^ 29 + 2 ^ 13 * drops + mutes * 2 ^ 8 + flags)

theorem lengthWord_fields {b frame taken drops mutes flags : Nat} (hb : b < 72) (hf : frame < 16) (ht : taken < 2 ^ 24) (hd : drops < 2 ^ 16)
    (hm : mutes < 32) (hfl : flags < 2 ^ 8) :
    let w := lengthWord b frame taken drops mutes flags
    fieldN w.toNat 63 57 = b ∧ fieldN w.toNat 56 53 = frame ∧ fieldN w.toNat 52 29 = taken ∧ fieldN w.toNat 28 13 = drops ∧
      fieldN w.toNat 12 8 = mutes ∧ ∀ i, i < 8 → w.getLsbD i = flags.testBit i := by
  have hword : (lengthWord b frame taken drops mutes flags).toNat = 2 ^ 57 * b + 2 ^ 53 * frame + taken * 2 ^ 29 + 2 ^ 13 * drops + mutes * 2 ^ 8 + flags := by
    unfold lengthWord
    rw [BitVec.toNat_ofNat]
    omega
  dsimp only
  refine ⟨?_, ?_, ?_, ?_, ?_, fun i hi => ?_⟩
  · simp only [fieldN, hword, Nat.shiftRight_eq_div_pow]; omega
  · simp only [fieldN, hword, Nat.shiftRight_eq_div_pow]; omega
  · simp only [fieldN, hword, Nat.shiftRight_eq_div_pow]; omega
  · simp only [fieldN, hword, Nat.shiftRight_eq_div_pow]; omega
  · simp only [fieldN, hword, Nat.shiftRight_eq_div_pow]; omega
  · have hlow : (lengthWord b frame taken drops mutes flags).toNat % 2 ^ 8 = flags := by rw [hword]; omega
    have hbit := Nat.testBit_mod_two_pow (lengthWord b frame taken drops mutes flags).toNat 8 i
    rw [hlow, decide_eq_true hi, Bool.true_and] at hbit
    exact hbit.symm

/-- Five flags of a word, the first lowest. -/
theorem flagBits (a b c d e : Bool) : let n := bitAt a 0 + bitAt b 1 + bitAt c 2 + bitAt d 3 + bitAt e 4
    n < 2 ^ 8 ∧ n.testBit 0 = a ∧ n.testBit 1 = b ∧ n.testBit 2 = c ∧ n.testBit 3 = d ∧ n.testBit 4 = e := by
  revert a b c d e; decide

/-- The close group of a slot starts with its length word (R159, R160). -/
theorem closeGroup_head (s : State) (b : Nat) (k : Slot) : ∃ ws, closeGroup s b k =
    lengthWord b (k.frame.toNat % 16) (k.taken % 2 ^ 24) (min (tget 0 (s.block b).drops k.frame.toNat) 65535) k.mutes.length
      (bitAt k.overrun.isSome 0 + bitAt k.lost 1 + bitAt k.cut.isSome 2 + bitAt k.poison 3 + bitAt k.isolated 4) :: ws :=
  ⟨_, rfl⟩

/-- A block that has closed a frame. -/
def Block.close (x : Block) (f : BitVec 40) : Block :=
  { x with slots := x.slots.filter (fun q => q.frame ≠ f), drops := x.drops.filter (fun e => decide (frameDiff (BitVec.ofNat 40 e.1) f > 0)) }

/-- A cell whose block has closed a frame. -/
def Cell.forget (x : Cell) (f : BitVec 40) : Cell := { x with recs := x.recs.filter (fun e => decide (frameDiff (BitVec.ofNat 40 e.1) f > 0)) }

/-- A slot given the close group of block `i`, where it is the slot of a frame. -/
def RegSlot.give (q : RegSlot) (f : BitVec 40) (i : Nat) (ws : List W64) : RegSlot :=
  if q.frame = f then { q with groups := tput q.groups i ws } else q

theorem RegSlot.give_eq (f : BitVec 40) (i : Nat) (ws : List W64) (q : RegSlot) : q.give f i ws = { q with groups := (q.give f i ws).groups } := by
  unfold RegSlot.give; split <;> rfl

/-- The cells of a block that has closed a frame. -/
def forgetCells (b : Nat) (f : BitVec 40) (s : State) : State := forN 16 (fun i s => s.modCell (16 * b + i) (·.forget f)) s

/-- What a block tells of the frame it has closed (R182). -/
def closeNotes (b : Nat) (k : Slot) (drain : Nat) (s : State) : State :=
  (((s.setReg (blkPage b) Reg.BLK_LAST_COUNT (w32 (k.taken % 2 ^ 24))).setReg64 (blkPage b) Reg.BLK_LAST_FRAME_LO k.frame.toNat).setReg
    (blkPage b) Reg.BLK_DRAIN_LAST (w32 drain)).maxReg (blkPage b) Reg.BLK_DRAIN_MAX drain

theorem closeBlock_eq (b : Nat) (k : Slot) (s : State) : ∃ drain, closeBlock b k s = closeNotes b k drain
    (forgetCells b k.frame ((s.setComb (b / 12) ((s.comb (b / 12)).mapSlots (·.give k.frame (b % 12) (closeGroup s b k)))).setBlock b
      ((s.block b).close k.frame))) := ⟨_, rfl⟩

theorem forgetCells_effect (b : Nat) (f : BitVec 40) (s : State) :
    let t := forgetCells b f s
    (∀ j, t.cell j = if j / 16 = b then (s.cell j).forget f else s.cell j) ∧ t = { s with cells := t.cells } := by
  have key := forN_induct (n := 16) (f := fun i s => s.modCell (16 * b + i) (·.forget f)) (s := s)
    (fun m (t : State) => (∀ j, t.cell j = if 16 * b ≤ j ∧ j < 16 * b + m then (s.cell j).forget f else s.cell j) ∧ t = { s with cells := t.cells })
    ⟨fun j => (if_neg (by omega)).symm, rfl⟩ fun m u _ hu => by
      obtain ⟨hcell, honly⟩ := hu
      refine ⟨fun j => ?_, by rw [honly]; rfl⟩
      have hmod : u.modCell (16 * b + m) (·.forget f) = u.setCell (16 * b + m) ((u.cell (16 * b + m)).forget f) := rfl
      rw [hmod, State.setCell_cell, hcell, hcell]
      by_cases hj : j = 16 * b + m
      · rw [hj, if_pos rfl, if_neg (by omega), if_pos (by omega)]
      · rw [if_neg hj]
        exact if_congr (by omega) rfl rfl
  refine ⟨fun j => (key.1 j).trans (if_congr (by omega) rfl rfl), key.2⟩

section
variable {b : Nat} (hb : b < 72) (k : Slot) (s : State)
include hb

/-- The registers written as a block closes a frame. -/
theorem closeNotes_effect (drain : Nat) :
    let t := closeNotes b k drain s
    t.reg (blkPage b) Reg.BLK_LAST_COUNT = w32 (k.taken % 2 ^ 24) ∧ t.reg64 (blkPage b) Reg.BLK_LAST_FRAME_LO = k.frame.toNat ∧
      t = { s with regs := t.regs } ∧ OnlyRegs (onPage (blkPage b)) s t ∧ StageStep (StageReg (blkPage b)) s t := by
  have hpg := stagePage_blk hb
  have honly : ∀ (u : State) off v, off < 2 ^ 12 → OnlyRegs (onPage (blkPage b)) u (u.setReg (blkPage b) off v) := fun u off v ho _ hj =>
    (tfind_tset _ _ _ _ _).trans (if_neg fun h => hj ((congrArg keyPage h).trans (keyPage_block b off hb ho)))
  have hstep : ∀ (u : State) off v, off < 0x100 → off ≠ Reg.BLK_EVENTS → StageStep (StageReg (blkPage b)) u (u.setReg (blkPage b) off v) :=
    fun u off v ho hne => .setReg hpg ho hne u v
  have hframe := k.frame.isLt
  have htrans : ∀ {u v w : State}, OnlyRegs (onPage (blkPage b)) u v → OnlyRegs (onPage (blkPage b)) v w → OnlyRegs (onPage (blkPage b)) u w :=
    fun h h' j hj => (h' j hj).trans (h j hj)
  dsimp only
  unfold closeNotes State.maxReg State.setReg64 State.reg64
  simp only [State.setReg_reg]
  refine ⟨?_, ?_, rfl, ?_, ?_⟩
  · simp [Reg.BLK_LAST_COUNT, Reg.BLK_LAST_FRAME_LO, Reg.BLK_DRAIN_LAST, Reg.BLK_DRAIN_MAX]
  · simp [Reg.BLK_LAST_FRAME_LO, Reg.BLK_DRAIN_LAST, Reg.BLK_DRAIN_MAX]
    omega
  · exact htrans (htrans (htrans (htrans (honly _ _ _ (by decide)) (honly _ _ _ (by decide))) (honly _ _ _ (by decide))) (honly _ _ _ (by decide)))
      (honly _ _ _ (by decide))
  · exact ((((hstep _ _ _ (by decide) (by decide)).trans (hstep _ _ _ (by decide) (by decide))).trans (hstep _ _ _ (by decide) (by decide))).trans
      (hstep _ _ _ (by decide) (by decide))).trans (hstep _ _ _ (by decide) (by decide))

/-- What a block's close of a slot does (R158). -/
theorem closeBlock_effect :
    let t := closeBlock b k s
    (∀ j, t.block j = if j = b then (s.block b).close k.frame else s.block j) ∧
      (∀ j, t.cell j = if j / 16 = b then (s.cell j).forget k.frame else s.cell j) ∧
      (∀ d, t.comb d = if d = b / 12 then (s.comb (b / 12)).mapSlots (·.give k.frame (b % 12) (closeGroup s b k)) else s.comb d) ∧
      t.reg (blkPage b) Reg.BLK_LAST_COUNT = w32 (k.taken % 2 ^ 24) ∧ t.reg64 (blkPage b) Reg.BLK_LAST_FRAME_LO = k.frame.toNat ∧
      t = { s with blocks := t.blocks, combs := t.combs, cells := t.cells, regs := t.regs } ∧ OnlyRegs (onPage (blkPage b)) s t ∧
      StageStep (StageReg (blkPage b)) s t := by
  obtain ⟨drain, hclose⟩ := closeBlock_eq b k s
  dsimp only
  rw [hclose]
  generalize hu : (s.setComb (b / 12) ((s.comb (b / 12)).mapSlots (·.give k.frame (b % 12) (closeGroup s b k)))).setBlock b
    ((s.block b).close k.frame) = u
  have hucell : ∀ j, u.cell j = s.cell j := fun j => by rw [← hu]; rfl
  have hublock : ∀ j, u.block j = if j = b then (s.block b).close k.frame else s.block j := fun j => by
    rw [← hu, State.setBlock_block]; rfl
  have hucomb : ∀ d, u.comb d = if d = b / 12 then (s.comb (b / 12)).mapSlots (·.give k.frame (b % 12) (closeGroup s b k)) else s.comb d :=
    fun d => by rw [← hu, State.setBlock_comb, State.setComb_comb]
  have huonly : u = { s with blocks := u.blocks, combs := u.combs } := by rw [← hu]; rfl
  have hustep : StageStep (StageReg (blkPage b)) s u := by
    rw [← hu]; exact (StageStep.setComb s _ _).trans (.setBlock _ _ _)
  clear hu
  obtain ⟨hcell, honly⟩ := forgetCells_effect b k.frame u
  have hskew : ∀ j, ((forgetCells b k.frame u).cell j).skewPrev = (u.cell j).skewPrev := fun j => by
    rw [hcell]; split <;> rfl
  have hstep : StageStep (StageReg (blkPage b)) s (forgetCells b k.frame u) :=
    hustep.trans (.of_only (by rw [honly]) hskew)
  have hvcell : ∀ j, (forgetCells b k.frame u).cell j = if j / 16 = b then (s.cell j).forget k.frame else s.cell j := fun j => by
    rw [hcell, hucell]
  generalize forgetCells b k.frame u = v at *
  obtain ⟨hcount, hframe, hregs, honlyRegs, hnotes⟩ := closeNotes_effect hb k v drain
  generalize closeNotes b k drain v = t at *
  refine ⟨fun j => ?_, fun j => ?_, fun d => ?_, hcount, hframe, ?_, fun j hj => ?_, hstep.trans hnotes⟩
  · rw [← hublock, hregs, honly]
    rfl
  · rw [← hvcell]
    unfold State.cell
    rw [congrArg State.cells hregs]
  · rw [← hucomb, hregs, honly]
    rfl
  · rw [hregs, honly, huonly]
  · rw [honlyRegs j hj, honly, huonly]

end

end Sys2Proof.Machine

namespace Sys2Proof.Machine
open Sys2Proof.Claims

/-- A block whose oldest slot has all it waits for closes it. -/
theorem blockClose_ready {b : Nat} {k : Slot} {rest : List Slot} {s : State} (hk : (s.block b).slots = k :: rest) (hm : k.markers = 0xFFFF#16)
    (hout : k.drainTick.isSome = true ∨ outPassed s b k.stop = true) (hstore : ∀ r ∈ (s.block b).store, r.frame ≠ k.frame) :
    blockClose b s = closeBlock b k s := by
  have hnone : (s.block b).store.any (fun r => r.frame = k.frame) = false := by
    simpa using hstore
  unfold blockClose
  rw [hk]
  exact if_pos ⟨hm, Bool.or_eq_true_iff.2 hout, by rw [hnone]; rfl⟩

/-! ### A block is cut at the drain deadline (R179) -/

/-- Whether a record of a cell falls in a frame. -/
def recOf (s : State) (c : Nat) (f : BitVec 40) (r : RawRec) : Bool := decide (frameOf s (corrected s c r.fu) = f)

theorem recOf_step {s t : State} (h : StageStep AnyStageReg s t) (c : Nat) (f : BitVec 40) (r : RawRec) : recOf t c f r = recOf s c f r := by
  unfold recOf
  rw [h.corrected, h.frameOf]

/-- A cell without its records of a frame. -/
def Cell.cut (x : Cell) (gone : RawRec → Bool) : Cell :=
  { x with fifo := x.fifo.filter (fun r => !gone r), rdPos := x.rdPos + (x.fifo.filter gone).length }

theorem cutCell_eq (c : Nat) (f : BitVec 40) (s : State) : (cutCell c f s).1 =
    if ((s.cell c).fifo.filter (recOf s c f)).length = 0 then s else applyMarkers c (s.setCell c ((s.cell c).cut (recOf s c f))) := rfl

/-- The records of a frame leave a cell's FIFO, and markers then passed reach its block. -/
theorem cutCell_effect (c : Nat) (f : BitVec 40) (s : State) :
    let t := (cutCell c f s).1
    (t.cell c).fifo = (s.cell c).fifo.filter (fun r => !recOf s c f r) ∧ (∀ j, j ≠ c → t.cell j = s.cell j) ∧
      (∃ g, OnlyMarkers g ∧ t.block (c / 16) = (s.block (c / 16)).mapSlots g) ∧ (∀ j, j ≠ c / 16 → t.block j = s.block j) ∧
      t = { s with cells := t.cells, blocks := t.blocks } ∧ StageStep AnyStageReg s t := by
  dsimp only
  rw [cutCell_eq]
  split
  · rename_i h
    have hkeep : (s.cell c).fifo = (s.cell c).fifo.filter (fun r => !recOf s c f r) := by
      rw [List.length_eq_zero_iff, List.filter_eq_nil_iff] at h
      exact (List.filter_eq_self.2 fun r hr => by simpa using h r hr).symm
    exact ⟨hkeep, fun _ _ => rfl, ⟨id, fun _ => rfl, by simp [Block.mapSlots]⟩, fun _ _ => rfl, rfl, .refl s⟩
  · obtain ⟨g, hg, hcell, hblock, honly⟩ := applyMarkers_effect c (s.setCell c ((s.cell c).cut (recOf s c f)))
    have hself := (hcell c).trans (if_pos rfl)
    rw [State.setCell_self] at hself
    have hskew : ∀ j, ((applyMarkers c (s.setCell c ((s.cell c).cut (recOf s c f)))).cell j).skewPrev = (s.cell j).skewPrev := fun j => by
      by_cases hj : j = c
      · rw [hj, hself]; rfl
      · rw [hcell, if_neg hj, State.setCell_cell, if_neg hj]
    generalize applyMarkers c (s.setCell c ((s.cell c).cut (recOf s c f))) = t at *
    refine ⟨congrArg Cell.fifo hself, fun j hj => ?_, ⟨g, hg, (hblock _).trans (if_pos rfl)⟩, fun j hj => (hblock j).trans (if_neg hj), ?_, .of_only ?_ hskew⟩
    · rw [hcell, if_neg hj, State.setCell_cell, if_neg hj]
    · rw [honly]; rfl
    · rw [honly]; rfl

/-- The cells of a block cut one after the other, with the number of records discarded. -/
def cutCells (b : Nat) (f : BitVec 40) (s : State) (n : Nat) : State × Nat :=
  forN 16 (fun i (acc : State × Nat) => ((cutCell (16 * b + i) f acc.1).1, acc.2 + (cutCell (16 * b + i) f acc.1).2)) (s, n)

theorem cutCells_effect (b : Nat) (f : BitVec 40) (s : State) (n : Nat) :
    let t := (cutCells b f s n).1
    (∀ i, i < 16 → (t.cell (16 * b + i)).fifo = (s.cell (16 * b + i)).fifo.filter (fun r => !recOf s (16 * b + i) f r)) ∧
      (∀ j, j / 16 ≠ b → t.cell j = s.cell j) ∧ (∃ g, OnlyMarkers g ∧ t.block b = (s.block b).mapSlots g) ∧ (∀ j, j ≠ b → t.block j = s.block j) ∧
      t = { s with cells := t.cells, blocks := t.blocks } ∧ StageStep AnyStageReg s t := by
  have key := forN_induct (n := 16) (s := (s, n))
    (f := fun i (acc : State × Nat) => ((cutCell (16 * b + i) f acc.1).1, acc.2 + (cutCell (16 * b + i) f acc.1).2))
    (fun m (acc : State × Nat) =>
      (∀ i, i < m → (acc.1.cell (16 * b + i)).fifo = (s.cell (16 * b + i)).fifo.filter (fun r => !recOf s (16 * b + i) f r)) ∧
        (∀ j, (j < 16 * b ∨ 16 * b + m ≤ j) → acc.1.cell j = s.cell j) ∧ (∃ g, OnlyMarkers g ∧ acc.1.block b = (s.block b).mapSlots g) ∧
        (∀ j, j ≠ b → acc.1.block j = s.block j) ∧ acc.1 = { s with cells := acc.1.cells, blocks := acc.1.blocks } ∧ StageStep AnyStageReg s acc.1)
    ⟨fun _ h => absurd h (by omega), fun _ _ => rfl, ⟨id, fun _ => rfl, by simp [Block.mapSlots]⟩, fun _ _ => rfl, rfl, .refl s⟩
    fun m acc hm hacc => by
      obtain ⟨u, n'⟩ := acc
      obtain ⟨hfifo, hcell, ⟨g, hg, hself⟩, hblock, honly, hstep⟩ := hacc
      obtain ⟨hfifo', hcell', ⟨g', hg', hself'⟩, hblock', honly', hstep'⟩ := cutCell_effect (16 * b + m) f u
      have hdiv : (16 * b + m) / 16 = b := by omega
      rw [hdiv] at hself' hblock'
      dsimp only at *
      generalize (cutCell (16 * b + m) f u).1 = t at *
      refine ⟨fun i hi => ?_, fun j hj => ?_, ⟨g' ∘ g, hg'.comp hg, ?_⟩, fun j hj => (hblock' j hj).trans (hblock j hj), ?_, hstep.trans hstep'⟩
      · obtain h | h := Nat.lt_succ_iff_lt_or_eq.1 hi
        · rw [hcell' _ (by omega), hfifo i h]
        · subst h
          rw [hfifo', hcell _ (.inr le_rfl)]
          exact List.filter_congr fun r _ => by rw [recOf_step hstep]
      · rw [hcell' j (by omega), hcell j (by omega)]
      · rw [hself', hself]
        simp [Block.mapSlots]
      · rw [honly', honly]
  obtain ⟨hfifo, hcell, hself, hblock, honly, hstep⟩ := key
  exact ⟨hfifo, fun j hj => hcell j (by omega), hself, hblock, honly, hstep⟩

/-- A block without a frame's records in its store. -/
def Block.dropStore (x : Block) (f : BitVec 40) : Block := { x with store := x.store.filter (fun r => r.frame ≠ f) }

theorem cutBlock_eq {b : Nat} {k : Slot} {rest : List Slot} {s : State} (hk : (s.block b).slots = k :: rest) (hd : overdue s k.drainTick = true) :
    ∃ n, cutBlock b s = closeBlock b { k with cut := some (cutCells b k.frame s n).2 }
      (raise (((cutCells b k.frame s n).1.setBlock b (((cutCells b k.frame s n).1.block b).dropStore k.frame)).count (blkPage b) Reg.BLK_CUT_CNT
        (cutCells b k.frame s n).2) (blkPage b) Reg.BLK_EVENTS 8) := by
  refine ⟨((s.block b).store.filter (fun r => r.frame = k.frame)).length, ?_⟩
  unfold cutBlock
  rw [hk]
  dsimp only
  rw [hd, Bool.not_true, if_neg Bool.false_ne_true]
  rfl

/-- A block cut free of a frame: its slot closed, its records gone and the cut told, from `s` to `t`. -/
structure BlockCut (b : Nat) (f : BitVec 40) (s t : State) : Prop where
  slots : ∀ q ∈ (t.block b).slots, q.frame ≠ f
  store : ∀ r ∈ (t.block b).store, r.frame ≠ f
  fifos : ∀ i, i < 16 → (t.cell (16 * b + i)).fifo = (s.cell (16 * b + i)).fifo.filter (fun r => !recOf s (16 * b + i) f r)
  told : Marked t (blkPage b) Reg.BLK_EVENTS 3

section
variable {b : Nat} (hb : b < 72) (s : State)
include hb

/-- What a cut of block `b` leaves of the others, and what becomes of its cut frame. -/
theorem cutBlock_overdue {k : Slot} {rest : List Slot} (hk : (s.block b).slots = k :: rest) (hd : overdue s k.drainTick = true) :
    let t := cutBlock b s
    (∀ j, j ≠ b → t.block j = s.block j) ∧ (∀ j, j / 16 ≠ b → t.cell j = s.cell j) ∧ (∀ c, GroupsDiffer (s.comb c) (t.comb c)) ∧
      StageStep AnyStageReg s t ∧ BlockCut b k.frame s t := by
  have hpg := stagePage_blk hb
  have hany : ∀ k, StageReg (blkPage b) k → AnyStageReg k := fun _ => stageReg_any hpg
  obtain ⟨n, hcut⟩ := cutBlock_eq hk hd
  dsimp only
  rw [hcut]
  obtain ⟨hfifo, hcell, ⟨g, -, hself⟩, hblock, honly, hstep⟩ := cutCells_effect b k.frame s n
  generalize (cutCells b k.frame s n).1 = u at *
  generalize (cutCells b k.frame s n).2 = m at *
  have hstepv : StageStep (StageReg (blkPage b)) u ((u.setBlock b ((u.block b).dropStore k.frame)).count (blkPage b) Reg.BLK_CUT_CNT m) :=
    (StageStep.setBlock u _ _).trans (.setReg hpg (by decide) (by decide) _ _)
  have hvblock : ∀ j, ((u.setBlock b ((u.block b).dropStore k.frame)).count (blkPage b) Reg.BLK_CUT_CNT m).block j =
    if j = b then (u.block b).dropStore k.frame else u.block j := State.setBlock_block u b _
  have hvcell : ((u.setBlock b ((u.block b).dropStore k.frame)).count (blkPage b) Reg.BLK_CUT_CNT m).cells = u.cells := rfl
  have hvcombs : ((u.setBlock b ((u.block b).dropStore k.frame)).count (blkPage b) Reg.BLK_CUT_CNT m).combs = s.combs := by
    rw [honly]; rfl
  generalize (u.setBlock b ((u.block b).dropStore k.frame)).count (blkPage b) Reg.BLK_CUT_CNT m = v at *
  have hquiet := raise_quiet v (blkPage b) Reg.BLK_EVENTS 8 hpg.mod
  have hmark : Marked (raise v (blkPage b) Reg.BLK_EVENTS 8) (blkPage b) Reg.BLK_EVENTS 3 :=
    raise_marked v _ _ 3 hpg.mod (hpg.noted (by decide)) (by decide)
  have hraise : StageStep (StageReg (blkPage b)) v (raise v (blkPage b) Reg.BLK_EVENTS 8) := .raise hpg (by decide) v 8
  generalize raise v (blkPage b) Reg.BLK_EVENTS 8 = w at *
  have hwcell : ∀ j, w.cell j = u.cell j := fun j => by unfold State.cell; rw [hquiet.cells, hvcell]
  have hwcomb : ∀ c, w.comb c = s.comb c := fun c => by unfold State.comb; rw [hquiet.combs, hvcombs]
  obtain ⟨htblock, htcell, htcomb, -, -, -, -, hclose⟩ := closeBlock_effect hb { k with cut := some m } w
  generalize closeBlock b { k with cut := some m } w = t at *
  refine ⟨fun j hj => ?_, fun j hj => ?_, fun c => ?_, hstep.trans (((hstepv.trans hraise).trans hclose).mono hany), ?_, ?_, fun i hi => ?_, ?_⟩
  · rw [htblock, if_neg hj, hquiet.block, hvblock, if_neg hj, hblock j hj]
  · rw [htcell, if_neg hj, hwcell, hcell j hj]
  · rw [htcomb, ← hwcomb]
    split
    · rename_i h; subst h; exact ⟨_, RegSlot.give_eq _ _ _, rfl⟩
    · exact .refl _
  · rw [htblock, if_pos rfl]
    intro q hq
    simpa using (List.mem_filter.1 hq).2
  · rw [htblock, if_pos rfl, hquiet.block, hvblock, if_pos rfl]
    intro r hr
    simpa using (List.mem_filter.1 hr).2
  · rw [htcell, if_pos (by omega), hwcell]
    exact hfifo i hi
  · exact hclose.events _ _ hpg hmark

/-- A block's turn at the drain deadline leaves the other blocks and their cells, and of the combs all but close groups. -/
theorem cutBlock_effect :
    let t := cutBlock b s
    (∀ j, j ≠ b → t.block j = s.block j) ∧ (∀ j, j / 16 ≠ b → t.cell j = s.cell j) ∧ (∀ c, GroupsDiffer (s.comb c) (t.comb c)) ∧
      StageStep AnyStageReg s t := by
  have hsame : cutBlock b s = s → let t := cutBlock b s
      (∀ j, j ≠ b → t.block j = s.block j) ∧ (∀ j, j / 16 ≠ b → t.cell j = s.cell j) ∧ (∀ c, GroupsDiffer (s.comb c) (t.comb c)) ∧
        StageStep AnyStageReg s t := fun h => by
    dsimp only
    rw [h]
    exact ⟨fun _ _ => rfl, fun _ _ => rfl, fun _ => .refl _, .refl s⟩
  cases hk : (s.block b).slots with
  | nil => exact hsame (by unfold cutBlock; rw [hk])
  | cons k rest =>
    by_cases hd : overdue s k.drainTick = true
    · obtain ⟨hblock, hcell, hcomb, hstep, -⟩ := cutBlock_overdue hb s hk hd
      exact ⟨hblock, hcell, hcomb, hstep⟩
    · exact hsame (by unfold cutBlock; rw [hk]; exact if_pos (by simp [hd]))

end

/-- Blocks cut one after the other: those below `n` have had their turn, from `s` to `t`. -/
theorem cutBlocks_effect {n : Nat} (hn : n ≤ 72) (s : State) :
    let t := forN n cutBlock s
    StageStep AnyStageReg s t ∧ (∀ c, GroupsDiffer (s.comb c) (t.comb c)) ∧ (∀ b, n ≤ b → t.block b = s.block b) ∧
      (∀ j, n ≤ j / 16 → t.cell j = s.cell j) ∧
      ∀ b k rest, b < n → (s.block b).slots = k :: rest → overdue s k.drainTick = true → BlockCut b k.frame s t := by
  refine forN_induct (fun m (t : State) => StageStep AnyStageReg s t ∧ (∀ c, GroupsDiffer (s.comb c) (t.comb c)) ∧ (∀ b, m ≤ b → t.block b = s.block b) ∧
      (∀ j, m ≤ j / 16 → t.cell j = s.cell j) ∧
      ∀ b k rest, b < m → (s.block b).slots = k :: rest → overdue s k.drainTick = true → BlockCut b k.frame s t)
    ⟨.refl s, fun _ => .refl _, fun _ _ => rfl, fun _ _ => rfl, fun _ _ _ h => absurd h (Nat.not_lt_zero _)⟩ fun m u hm hu => ?_
  obtain ⟨hstep, hcomb, hblock, hcell, hcut⟩ := hu
  have hm72 : m < 72 := by omega
  obtain ⟨hblock', hcell', hcomb', hstep'⟩ := cutBlock_effect hm72 u
  refine ⟨hstep.trans hstep', fun c => (hcomb c).trans (hcomb' c), fun b hb => ?_, fun j hj => ?_, fun b k rest hb hk hd => ?_⟩
  · rw [hblock' b (by omega), hblock b (by omega)]
  · rw [hcell' j (by omega), hcell j (by omega)]
  · obtain h | rfl := Nat.lt_succ_iff_lt_or_eq.1 hb
    · have hold := hcut b k rest h hk hd
      exact {
        slots := by rw [hblock' b (by omega)]; exact hold.slots
        store := by rw [hblock' b (by omega)]; exact hold.store
        fifos := fun i hi => by rw [hcell' _ (by omega)]; exact hold.fifos i hi
        told := hstep'.events _ _ (stagePage_blk (by omega)) hold.told }
    · obtain ⟨-, -, -, -, hnew⟩ := cutBlock_overdue hm72 u ((congrArg Block.slots (hblock b le_rfl)).trans hk) (by rw [hstep.overdue]; exact hd)
      exact { hnew with
        fifos := fun i hi => by
          rw [hnew.fifos i hi, hcell _ (by omega)]
          exact List.filter_congr fun r _ => by rw [recOf_step hstep] }

end Sys2Proof.Machine

namespace Sys2Proof.Machine
open Sys2Proof.Claims

/-! ### A region closes a slot (R161, R171) -/

/-- A comb with more flits behind those that wait. -/
def Comb.pushAll (x : Comb) (fs : List Flit) : Comb := { x with out := x.out ++ fs }

/-- The close word of a region (R171). -/
def closeFlit (c : Nat) (f : BitVec 40) (flags drain : Nat) : Flit :=
  ⟨5, f.getLsbD 0, false, BitVec.ofNat 64 (2 ^ 61 * c + 2 ^ 21 * f.toNat + 2 ^ 13 * flags + drain), false⟩

theorem closeFlit_fields {c flags drain : Nat} (hc : c < 6) (f : BitVec 40) (hfl : flags < 2 ^ 4) (hd : drain < 2 ^ 13) :
    fieldN (closeFlit c f flags drain).payload.toNat 63 61 = c ∧ fieldN (closeFlit c f flags drain).payload.toNat 60 21 = f.toNat ∧
      ∀ i, i < 4 → (closeFlit c f flags drain).payload.getLsbD (13 + i) = flags.testBit i := by
  have hf := f.isLt
  have hword : (closeFlit c f flags drain).payload.toNat = 2 ^ 61 * c + 2 ^ 21 * f.toNat + 2 ^ 13 * flags + drain := by
    unfold closeFlit
    rw [BitVec.toNat_ofNat]
    omega
  refine ⟨?_, ?_, fun i hi => ?_⟩
  · simp only [fieldN, hword, Nat.shiftRight_eq_div_pow]; omega
  · simp only [fieldN, hword, Nat.shiftRight_eq_div_pow]; omega
  · have hlow : (closeFlit c f flags drain).payload.toNat / 2 ^ 13 % 2 ^ 4 = flags := by rw [hword]; omega
    have hbit := Nat.testBit_mod_two_pow ((closeFlit c f flags drain).payload.toNat / 2 ^ 13) 4 i
    rw [hlow, decide_eq_true hi, Bool.true_and, Nat.testBit_div_two_pow, Nat.add_comm] at hbit
    exact hbit.symm

/-- An item that is no floor of a frame. -/
def notFloorOf (f : BitVec 40) : MItem → Bool
  | .floor g _ => g ≠ f
  | .record _ _ => true

/-- A comb that has closed a frame. -/
def Comb.finish (x : Comb) (k : RegSlot) (tick : Nat) : Comb :=
  { x with
    slots := x.slots.filter (fun q => q.frame ≠ k.frame), disorder := false, lastClosed := some k.frame
    inputs := x.inputs.map (fun l => l.filter (notFloorOf k.frame))
    windows := x.windows.filter (fun w => decide (k.stop ≤ w.2)), floorTick := tick
    floorSent := match x.slots.find? (fun q => q.frame ≠ k.frame) with | some q => q.start | none => x.floorSent }

/-- What a region tells of the frame it has closed (R179, R185). -/
def regionNotes (c : Nat) (cut : Bool) (drain : Nat) (s : State) : State :=
  let t := (s.setReg (combPage c 0x02) Reg.REG_DRAIN_LAST (w32 drain)).maxReg (combPage c 0x02) Reg.REG_DRAIN_MAX drain
  if cut then raise t (combPage c 0x02) Reg.REG_EVENTS 4 else t

/-- The close groups of a slot put at the transmitters. -/
def pushGroups (c : Nat) (k : RegSlot) (s : State) : State :=
  forN 12 (fun i s => (List.zip (List.range 400) (tget [] k.groups i)).foldl (fun s e =>
    pushFlit c ⟨if e.1 = 0 then 3 else 4, k.frame.getLsbD 0, false, e.2, false⟩ s) s) s

/-- The slot of a frame in a comb once its length words have been checked. -/
def checkedSlot (c : Nat) (k : RegSlot) (s : State) : RegSlot := ((s.comb c).slots.find? (fun q => q.frame = k.frame)).getD k

theorem closeRegion_eq (c : Nat) (cut : Bool) (k : RegSlot) (s : State) : ∃ wrong drain, drain < 2 ^ 13 ∧
    let u := pushGroups c (checkedSlot c k (forN 12 (checkLength c k) s)) (forN 12 (checkLength c k) s)
    let q := checkedSlot c k (forN 12 (checkLength c k) s)
    let v := pushFlit c (closeFlit c q.frame (bitAt cut 0 + bitAt (u.comb c).disorder 1 + bitAt wrong 2 + bitAt q.reset 3) drain) u
    closeRegion c cut k s = regionNotes c cut drain (v.setComb c ((v.comb c).finish q v.tick)) :=
  ⟨_, _, lt_of_le_of_lt (min_le_left _ _) (by decide), rfl⟩

/-- A step of one comb and the registers of `K` that leaves cells, blocks and the other combs. -/
structure CombChange (K : Nat → Prop) (c : Nat) (s t : State) : Prop where
  step : StageStep K s t
  cells : t.cells = s.cells
  blocks : t.blocks = s.blocks
  others : ∀ d, d ≠ c → t.comb d = s.comb d

namespace CombChange
variable {K L : Nat → Prop} {c : Nat} {s t u : State}

theorem refl (s : State) : CombChange K c s s := ⟨.refl s, rfl, rfl, fun _ _ => rfl⟩

theorem trans (h : CombChange K c s t) (k : CombChange K c t u) : CombChange K c s u :=
  ⟨h.step.trans k.step, k.cells.trans h.cells, k.blocks.trans h.blocks, fun d hd => (k.others d hd).trans (h.others d hd)⟩

theorem mono (h : CombChange K c s t) (hk : ∀ k, K k → L k) : CombChange L c s t := ⟨h.step.mono hk, h.cells, h.blocks, h.others⟩

theorem setComb (s : State) (c : Nat) (x : Comb) : CombChange K c s (s.setComb c x) :=
  ⟨.setComb s c x, rfl, rfl, fun _ hd => (State.setComb_comb ..).trans (if_neg hd)⟩

variable (hc : c < 6)
include hc

theorem setReg {off : Nat} (ho : off < 0x100) (hne : off ≠ Reg.BLK_EVENTS) (s : State) (v : W32) : CombChange (StageReg (combPage c 0x02)) c s (s.setReg (combPage c 0x02) off v) :=
  ⟨.setReg (stagePage_comb hc) ho hne s v, rfl, rfl, fun _ _ => rfl⟩

theorem raise {off : Nat} (ho : off < 0x100) (s : State) (bits : Nat) : CombChange (StageReg (combPage c 0x02)) c s (raise s (combPage c 0x02) off bits) := by
  have hquiet := raise_quiet s (combPage c 0x02) off bits (stagePage_comb hc).mod
  exact ⟨.raise (stagePage_comb hc) ho s bits, hquiet.cells, hquiet.blocks, fun d _ => hquiet.comb d⟩

omit hc in
theorem guardEvent (s : State) (g src : Nat) : CombChange K c s (guardEvent s g src) := by
  have hquiet : Quiet K s (Machine.guardEvent s g src) := guardEvent_quiet s g src
  exact ⟨.guardEvent s g src, hquiet.cells, hquiet.blocks, fun d _ => hquiet.comb d⟩

end CombChange

/-- A step of one comb and its page. -/
abbrev CombStep (c : Nat) (s t : State) : Prop := CombChange (StageReg (combPage c 0x02)) c s t

section
variable {c : Nat} (hc : c < 6)
include hc

/-- The check of a length word changes no more of the comb than close groups (R161). -/
theorem checkLength_effect (k : RegSlot) (i : Nat) (s : State) :
    CombStep c s (checkLength c k i s) ∧ GroupsDiffer (s.comb c) ((checkLength c k i s).comb c) := by
  unfold checkLength
  dsimp only
  split
  · exact ⟨.refl s, .refl _⟩
  · have hslots : CombStep c s (s.modRegSlot c k.frame (fun q => { q with groups := tput q.groups i (lmod (tget [] k.groups i) 0 (· ||| 2)) })) :=
      .setComb s c _
    have hgroups : GroupsDiffer (s.comb c)
        ((s.modRegSlot c k.frame (fun q => { q with groups := tput q.groups i (lmod (tget [] k.groups i) 0 (· ||| 2)) })).comb c) := by
      unfold State.modRegSlot
      rw [State.modComb_eq, State.setComb_comb, if_pos rfl]
      exact ⟨_, RegSlot.give_eq k.frame i (lmod (tget [] k.groups i) 0 (· ||| 2)), rfl⟩
    generalize s.modRegSlot c k.frame (fun q => { q with groups := tput q.groups i (lmod (tget [] k.groups i) 0 (· ||| 2)) }) = u at *
    have hcount : CombStep c u (u.count (combPage c 0x02) Reg.MRG_LENGTH_CNT) := .setReg hc (by decide) (by decide) _ _
    refine ⟨((hslots.trans hcount).trans (.raise hc (by decide) _ _)).trans (.guardEvent _ _ _), ?_⟩
    rw [guardEvent_comb, raise_comb _ _ _ _ _ (stagePage_comb hc).mod]
    exact hgroups

theorem checkLengths_effect (k : RegSlot) (s : State) :
    CombStep c s (forN 12 (checkLength c k) s) ∧ GroupsDiffer (s.comb c) ((forN 12 (checkLength c k) s).comb c) :=
  forN_induct (fun _ t => CombStep c s t ∧ GroupsDiffer (s.comb c) (t.comb c)) ⟨.refl s, .refl _⟩ fun i u _ hu => by
    obtain ⟨hstep, hgroups⟩ := hu
    obtain ⟨hstep', hgroups'⟩ := checkLength_effect hc k i u
    exact ⟨hstep.trans hstep', hgroups.trans hgroups'⟩

end

/-- Of a comb no more than flits behind those that wait differ. -/
def MoreFlits (x y : Comb) : Prop := ∃ fs, y = x.pushAll fs

theorem MoreFlits.refl (x : Comb) : MoreFlits x x := ⟨[], by simp [Comb.pushAll]⟩

theorem MoreFlits.trans {x y z : Comb} (h : MoreFlits x y) (k : MoreFlits y z) : MoreFlits x z := by
  obtain ⟨fs, rfl⟩ := h
  obtain ⟨gs, rfl⟩ := k
  exact ⟨fs ++ gs, by simp [Comb.pushAll]⟩

theorem pushFlit_effect (c : Nat) (f : Flit) (s : State) :
    CombStep c s (pushFlit c f s) ∧ (pushFlit c f s).comb c = (s.comb c).pushAll [f] :=
  ⟨.setComb s c _, (State.setComb_comb ..).trans (if_pos rfl)⟩

theorem pushFlits_effect {α : Type} (c : Nat) (g : α → Flit) (l : List α) (s : State) :
    CombStep c s (l.foldl (fun s e => pushFlit c (g e) s) s) ∧ MoreFlits (s.comb c) ((l.foldl (fun s e => pushFlit c (g e) s) s).comb c) := by
  induction l generalizing s with
  | nil => exact ⟨.refl s, .refl _⟩
  | cons e l ih =>
    obtain ⟨hstep, hcomb⟩ := pushFlit_effect c (g e) s
    obtain ⟨hstep', hmore⟩ := ih (pushFlit c (g e) s)
    rw [hcomb] at hmore
    exact ⟨hstep.trans hstep', .trans ⟨_, rfl⟩ hmore⟩

theorem pushGroups_effect (c : Nat) (k : RegSlot) (s : State) :
    CombStep c s (pushGroups c k s) ∧ MoreFlits (s.comb c) ((pushGroups c k s).comb c) :=
  forN_induct (fun _ t => CombStep c s t ∧ MoreFlits (s.comb c) (t.comb c)) ⟨.refl s, .refl _⟩ fun i u _ hu => by
    obtain ⟨hstep, hmore⟩ := hu
    obtain ⟨hstep', hmore'⟩ := pushFlits_effect c (fun e : Nat × W64 => ⟨if e.1 = 0 then 3 else 4, k.frame.getLsbD 0, false, e.2, false⟩)
      (List.zip (List.range 400) (tget [] k.groups i)) u
    exact ⟨hstep.trans hstep', hmore.trans hmore'⟩

/-- The region's notes of a frame leave its comb; those of a cut mark it. -/
theorem regionNotes_effect {c : Nat} (hc : c < 6) (cut : Bool) (drain : Nat) (s : State) :
    CombStep c s (regionNotes c cut drain s) ∧ (regionNotes c cut drain s).comb c = s.comb c ∧
      (cut = true → Marked (regionNotes c cut drain s) (combPage c 0x02) Reg.REG_EVENTS 2) := by
  have hpg := stagePage_comb hc
  have hnotes : CombStep c s ((s.setReg (combPage c 0x02) Reg.REG_DRAIN_LAST (w32 drain)).maxReg (combPage c 0x02) Reg.REG_DRAIN_MAX drain) :=
    (CombChange.setReg hc (by decide) (by decide) s (w32 drain)).trans (.setReg hc (by decide) (by decide) _ _)
  unfold regionNotes
  dsimp only
  cases cut with
  | false => exact ⟨hnotes, rfl, nofun⟩
  | true =>
    rw [if_pos rfl]
    exact ⟨hnotes.trans (.raise hc (by decide) _ _), raise_comb _ _ _ _ _ hpg.mod, fun _ => raise_marked _ _ _ 2 hpg.mod (hpg.noted (by decide)) (by decide)⟩

/-- The slot of a frame is found again where its close groups alone have changed. -/
theorem groupsDiffer_find {x y : Comb} {k : RegSlot} {rest : List RegSlot} (h : GroupsDiffer x y) (hk : x.slots = k :: rest) :
    ∃ g, y.slots.find? (fun q => q.frame = k.frame) = some { k with groups := g } := by
  obtain ⟨f, hf, rfl⟩ := h
  refine ⟨(f k).groups, ?_⟩
  rw [Comb.mapSlots_slots, hk, List.map_cons, List.find?_cons_of_pos (by rw [hf]; simp), hf]

/-- A comb that has closed frame `f` of slot `k`, from `x` to `y`; `cut` tells that the deadline did it. -/
structure CombClosed (c : Nat) (cut : Bool) (k : RegSlot) (x y : Comb) : Prop where
  slots : ∀ q ∈ y.slots, q.frame ≠ k.frame
  lastClosed : y.lastClosed = some k.frame
  disorder : y.disorder = false
  inputs : y.inputs = x.inputs.map (fun l => l.filter (notFloorOf k.frame))
  word : ∃ flags drain, y.out.getLast? = some (closeFlit c k.frame flags drain) ∧ flags < 2 ^ 4 ∧ drain < 2 ^ 13 ∧
    flags.testBit 0 = cut ∧ flags.testBit 1 = x.disorder ∧ flags.testBit 3 = k.reset

/-- What a region's close of its oldest slot does (R171). -/
theorem closeRegion_effect {c : Nat} (hc : c < 6) (cut : Bool) {k : RegSlot} {rest : List RegSlot} {s : State} (hk : (s.comb c).slots = k :: rest) :
    CombStep c s (closeRegion c cut k s) ∧ CombClosed c cut k (s.comb c) ((closeRegion c cut k s).comb c) ∧
      (cut = true → Marked (closeRegion c cut k s) (combPage c 0x02) Reg.REG_EVENTS 2) := by
  obtain ⟨wrong, drain, hdrain, hclose⟩ := closeRegion_eq c cut k s
  dsimp only at hclose
  rw [hclose]
  obtain ⟨hstep, hgroups⟩ := checkLengths_effect hc k s
  obtain ⟨g, hfind⟩ := groupsDiffer_find hgroups hk
  have hslot : checkedSlot c k (forN 12 (checkLength c k) s) = { k with groups := g } := congrArg (Option.getD · k) hfind
  rw [hslot]
  generalize forN 12 (checkLength c k) s = t at *
  obtain ⟨hstep', fs, hfs⟩ := pushGroups_effect c { k with groups := g } t
  generalize pushGroups c { k with groups := g } t = u at *
  have hflags : ∀ a b d e : Bool, let n := bitAt a 0 + bitAt b 1 + bitAt d 2 + bitAt e 3
      n < 2 ^ 4 ∧ n.testBit 0 = a ∧ n.testBit 1 = b ∧ n.testBit 3 = e := by decide
  obtain ⟨hlt, hcut, hdisorder, hreset⟩ := hflags cut (u.comb c).disorder wrong k.reset
  generalize hn : bitAt cut 0 + bitAt (u.comb c).disorder 1 + bitAt wrong 2 + bitAt k.reset 3 = flags at *
  obtain ⟨hstep'', hcomb⟩ := pushFlit_effect c (closeFlit c k.frame flags drain) u
  generalize pushFlit c (closeFlit c k.frame flags drain) u = v at *
  obtain ⟨hnotes, hsame, hmark⟩ := regionNotes_effect hc cut drain (v.setComb c ((v.comb c).finish { k with groups := g } v.tick))
  refine ⟨((hstep.trans hstep').trans hstep'').trans ((CombChange.setComb v c _).trans hnotes), ?_, hmark⟩
  obtain ⟨f, -, hx⟩ := hgroups
  rw [hsame, State.setComb_comb, if_pos rfl, hcomb, hfs, hx]
  rw [hfs, hx] at hdisorder
  exact {
    slots := fun q hq => by simpa using (List.mem_filter.1 hq).2
    lastClosed := rfl, disorder := rfl, inputs := rfl
    word := ⟨flags, drain, List.getLast?_concat, hlt, hdrain, hcut, hdisorder, hreset⟩ }

end Sys2Proof.Machine

namespace Sys2Proof.Machine
open Sys2Proof.Claims

/-! ### A region is cut at the drain deadline (R179) -/

theorem lget_lmod_other {α : Type} (d : α) (l : List α) {n j : Nat} (f : α → α) (h : j ≠ n) : lget d (lmod l n f) j = lget d l j := by
  induction l generalizing n j with
  | nil => rfl
  | cons x l ih =>
    cases n with
    | zero =>
      cases j with
      | zero => exact absurd rfl h
      | succ j => rfl
    | succ n =>
      cases j with
      | zero => rfl
      | succ j => exact ih (by omega)

/-- A close group with `n` more records in its cut word (R179). -/
def RegSlot.cutMore (q : RegSlot) (i n : Nat) : RegSlot :=
  match tget [] q.groups i with
  | [] => q
  | w :: rest =>
    let ovr := w.getLsbD 0
    let pre := if ovr then rest.take 1 else []
    let post := if ovr then rest.drop 1 else rest
    let group :=
      if w.getLsbD 2 then w :: pre ++ lmod post 0 (· + BitVec.ofNat 64 n)
      else (w ||| 4) :: pre ++ BitVec.ofNat 64 n :: post
    { q with groups := tput q.groups i group }

theorem RegSlot.cutMore_eq (q : RegSlot) (i n : Nat) : q.cutMore i n = { q with groups := (q.cutMore i n).groups } := by
  unfold RegSlot.cutMore
  split <;> rfl

/-- Of a slot of a comb only close groups differ. -/
def SlotsKept (x y : Comb) : Prop := ∃ f : RegSlot → RegSlot, (∀ k, f k = { k with groups := (f k).groups }) ∧ y.slots = x.slots.map f

theorem SlotsKept.refl (x : Comb) : SlotsKept x x := ⟨id, fun _ => rfl, by simp⟩

theorem SlotsKept.trans {x y z : Comb} (h : SlotsKept x y) (k : SlotsKept y z) : SlotsKept x z := by
  obtain ⟨f, hf, hy⟩ := h
  obtain ⟨g, hg, hz⟩ := k
  refine ⟨g ∘ f, fun q => ?_, by rw [hz, hy, List.map_map]⟩
  have hq := hg (f q)
  rw [hf q] at hq
  simpa only [Function.comp_apply, ← hf q] using hq

theorem SlotsKept.head {x y : Comb} (h : SlotsKept x y) {k : RegSlot} {rest : List RegSlot} (hk : x.slots = k :: rest) :
    ∃ g rest', y.slots = { k with groups := g } :: rest' := by
  obtain ⟨f, hf, hy⟩ := h
  refine ⟨(f k).groups, rest.map f, ?_⟩
  rw [hy, hk, List.map_cons, hf]

theorem GroupsDiffer.slotsKept {x y : Comb} (h : GroupsDiffer x y) : SlotsKept x y := by
  obtain ⟨f, hf, rfl⟩ := h
  exact ⟨f, hf, rfl⟩

/-- A step of the drain deadline on one comb. -/
abbrev CutStep (c : Nat) (s t : State) : Prop := CombChange AnyStageReg c s t

theorem CombStep.cutStep {c : Nat} (hc : c < 6) {s t : State} (h : CombStep c s t) : CutStep c s t := h.mono fun _ => stageReg_any (stagePage_comb hc)

theorem cutInput_eq (c : Nat) (f : BitVec 40) (i : Nat) (s : State) : cutInput c f i s =
    if ((s.input (12 * c + i)).filter (MItem.isRecOf f)).length = 0 then s
    else (raise ((s.modInput (12 * c + i) (fun l => l.filter (fun x => !x.isRecOf f))).count (blkPage (12 * c + i)) Reg.BLK_CUT_CNT
      ((s.input (12 * c + i)).filter (MItem.isRecOf f)).length) (blkPage (12 * c + i)) Reg.BLK_EVENTS 8).modRegSlot c f
        (fun q => q.cutMore i ((s.input (12 * c + i)).filter (MItem.isRecOf f)).length) := rfl

section
variable {c : Nat} (hc : c < 6)
include hc

/-- The records of a frame leave an input of the region. -/
theorem cutInput_effect (f : BitVec 40) {i : Nat} (hi : i < 12) (s : State) :
    let t := cutInput c f i s
    CutStep c s t ∧ SlotsKept (s.comb c) (t.comb c) ∧
      ∀ j, j < 12 → t.input (12 * c + j) = if j = i then (s.input (12 * c + j)).filter (fun x => !x.isRecOf f) else s.input (12 * c + j) := by
  have hpg := stagePage_blk (b := 12 * c + i) (by omega)
  have hdiv : ∀ j, j < 12 → (12 * c + j) / 12 = c ∧ (12 * c + j) % 12 = j := fun j hj => ⟨by omega, by omega⟩
  dsimp only
  rw [cutInput_eq]
  split
  · rename_i h
    refine ⟨.refl s, .refl _, fun j hj => ?_⟩
    split
    · rename_i hji
      subst hji
      rw [List.length_eq_zero_iff, List.filter_eq_nil_iff] at h
      exact (List.filter_eq_self.2 fun x hx => by simpa using h x hx).symm
    · rfl
  · rename_i hn
    have hlen : (12 * c + i) % 12 < (s.comb ((12 * c + i) / 12)).inputs.length := input_length fun hnil => hn (by rw [hnil]; rfl)
    have hinput : ∀ j, j < 12 → (s.modInput (12 * c + i) (fun l => l.filter (fun x => !x.isRecOf f))).input (12 * c + j) =
        if j = i then (s.input (12 * c + j)).filter (fun x => !x.isRecOf f) else s.input (12 * c + j) := fun j hj => by
      split
      · rename_i hji; subst hji; exact input_modInput hlen _
      · rename_i hji
        unfold State.input
        rw [modInput_eq, (hdiv j hj).1, (hdiv j hj).2, (hdiv i hi).1, (hdiv i hi).2, State.setComb_comb, if_pos rfl]
        exact lget_lmod_other _ _ _ hji
    have hslots : ((s.modInput (12 * c + i) (fun l => l.filter (fun x => !x.isRecOf f))).comb c).slots = (s.comb c).slots := by
      rw [modInput_eq, (hdiv i hi).1, State.setComb_comb, if_pos rfl]
    have hstep : CutStep c s (s.modInput (12 * c + i) (fun l => l.filter (fun x => !x.isRecOf f))) := by
      rw [modInput_eq, (hdiv i hi).1]
      exact CombChange.setComb s c _
    generalize s.modInput (12 * c + i) (fun l => l.filter (fun x => !x.isRecOf f)) = u at *
    generalize ((s.input (12 * c + i)).filter (MItem.isRecOf f)).length = n at *
    have hany : ∀ k, StageReg (blkPage (12 * c + i)) k → AnyStageReg k := fun _ => stageReg_any hpg
    have hcount : CutStep c u (u.count (blkPage (12 * c + i)) Reg.BLK_CUT_CNT n) :=
      ⟨(StageStep.setReg hpg (by decide) (by decide) u _).mono hany, rfl, rfl, fun _ _ => rfl⟩
    have hquiet := raise_quiet (u.count (blkPage (12 * c + i)) Reg.BLK_CUT_CNT n) (blkPage (12 * c + i)) Reg.BLK_EVENTS 8 hpg.mod
    have hraise : CutStep c (u.count (blkPage (12 * c + i)) Reg.BLK_CUT_CNT n)
        (raise (u.count (blkPage (12 * c + i)) Reg.BLK_CUT_CNT n) (blkPage (12 * c + i)) Reg.BLK_EVENTS 8) :=
      ⟨(StageStep.raise hpg (by decide) _ 8).mono hany, hquiet.cells, hquiet.blocks, fun d _ => hquiet.comb d⟩
    have hcomb : (raise (u.count (blkPage (12 * c + i)) Reg.BLK_CUT_CNT n) (blkPage (12 * c + i)) Reg.BLK_EVENTS 8).comb c = u.comb c := hquiet.comb c
    generalize raise (u.count (blkPage (12 * c + i)) Reg.BLK_CUT_CNT n) (blkPage (12 * c + i)) Reg.BLK_EVENTS 8 = v at *
    have hlast : (v.modRegSlot c f (fun q => q.cutMore i n)).comb c =
        { u.comb c with slots := (u.comb c).slots.map (fun q => if q.frame = f then q.cutMore i n else q) } := by
      unfold State.modRegSlot
      rw [State.modComb_eq, State.setComb_comb, if_pos rfl, hcomb]
    refine ⟨((hstep.trans hcount).trans hraise).trans (CombChange.setComb v c _), ?_, fun j hj => ?_⟩
    · rw [hlast]
      refine ⟨fun q => if q.frame = f then q.cutMore i n else q, fun q => ?_, congrArg (List.map _) hslots⟩
      dsimp only
      split
      · exact RegSlot.cutMore_eq q i n
      · rfl
    · rw [← hinput j hj]
      unfold State.input
      rw [(hdiv j hj).1, hlast]

/-- All inputs of a region cut free of a frame's records. -/
theorem cutInputs_effect (f : BitVec 40) (s : State) :
    let t := forN 12 (cutInput c f) s
    CutStep c s t ∧ SlotsKept (s.comb c) (t.comb c) ∧ ∀ j, j < 12 → ∀ x ∈ t.input (12 * c + j), MItem.isRecOf f x = false := by
  refine forN_induct (fun m (t : State) => CutStep c s t ∧ SlotsKept (s.comb c) (t.comb c) ∧
    ∀ j, j < m → ∀ x ∈ t.input (12 * c + j), MItem.isRecOf f x = false) ⟨.refl s, .refl _, fun _ h => absurd h (Nat.not_lt_zero _)⟩ fun m u hm hu => ?_
  obtain ⟨hstep, hslots, hnone⟩ := hu
  obtain ⟨hstep', hslots', hinput⟩ := cutInput_effect hc f hm u
  refine ⟨hstep.trans hstep', hslots.trans hslots', fun j hj x hx => ?_⟩
  rw [hinput j (by omega)] at hx
  split at hx
  · simpa using (List.mem_filter.1 hx).2
  · exact hnone j (by omega) x hx

/-- A region cut free of the frame of slot `k`. -/
structure RegionCut (c : Nat) (k : RegSlot) (t : State) : Prop where
  slots : ∀ q ∈ (t.comb c).slots, q.frame ≠ k.frame
  lastClosed : (t.comb c).lastClosed = some k.frame
  word : ∃ flags drain, (t.comb c).out.getLast? = some (closeFlit c k.frame flags drain) ∧ flags < 2 ^ 4 ∧ drain < 2 ^ 13 ∧ flags.testBit 0 = true
  inputs : ∀ i x, i < 12 → x ∈ t.input (12 * c + i) → MItem.isRecOf k.frame x = false
  told : Marked t (combPage c 0x02) Reg.REG_EVENTS 2

/-- What becomes of a region whose oldest slot has drained too long. -/
theorem cutRegion_overdue {k : RegSlot} {s : State} (hk : mergerSlot s c = some k) (hd : overdue s k.drainTick = true) :
    CutStep c s (cutRegion c s) ∧ RegionCut c k (cutRegion c s) := by
  obtain ⟨rest, hslots⟩ : ∃ rest, (s.comb c).slots = k :: rest := by
    unfold mergerSlot at hk
    exact List.head?_eq_some_iff.1 hk
  obtain ⟨hstep, hkept, hnone⟩ := cutInputs_effect hc k.frame s
  obtain ⟨g, rest', hslots'⟩ := hkept.head hslots
  have hcut : cutRegion c s = closeRegion c true { k with groups := g } (forN 12 (cutInput c k.frame) s) := by
    unfold cutRegion
    rw [hk]
    dsimp only
    rw [hd, Bool.not_true, if_neg Bool.false_ne_true]
    have hhead : mergerSlot (forN 12 (cutInput c k.frame) s) c = some { k with groups := g } := by
      unfold mergerSlot
      rw [hslots']
      rfl
    rw [hhead]
  rw [hcut]
  generalize forN 12 (cutInput c k.frame) s = u at *
  obtain ⟨hclose, hclosed, hmark⟩ := closeRegion_effect hc true hslots'
  generalize closeRegion c true { k with groups := g } u = t at *
  obtain ⟨flags, drain, hlast, hflags, hdrain, hbit, -, -⟩ := hclosed.word
  refine ⟨hstep.trans (hclose.cutStep hc), ?_⟩
  exact {
    slots := hclosed.slots, lastClosed := hclosed.lastClosed
    word := ⟨flags, drain, hlast, hflags, hdrain, hbit⟩
    inputs := fun i x hi hx => by
      have hdiv : (12 * c + i) / 12 = c := by omega
      unfold State.input at hx
      rw [hdiv, hclosed.inputs] at hx
      have hmap : lget [] ((u.comb c).inputs.map (fun l => l.filter (notFloorOf k.frame))) ((12 * c + i) % 12) =
        (lget [] (u.comb c).inputs ((12 * c + i) % 12)).filter (notFloorOf k.frame) := List.getD_map _ ([] : List MItem) (fun l => l.filter (notFloorOf k.frame))
      have hmem : x ∈ u.input (12 * c + i) := by
        unfold State.input
        rw [hdiv]
        exact (List.mem_filter.1 (hmap ▸ hx)).1
      exact hnone i hi x hmem
    told := hmark rfl }

/-- A region's turn at the drain deadline leaves cells, blocks and the other combs. -/
theorem cutRegion_effect (s : State) : CutStep c s (cutRegion c s) := by
  cases hk : mergerSlot s c with
  | none =>
    have hsame : cutRegion c s = s := by unfold cutRegion; rw [hk]
    rw [hsame]
    exact .refl s
  | some k =>
    by_cases hd : overdue s k.drainTick = true
    · exact (cutRegion_overdue hc hk hd).1
    · have hsame : cutRegion c s = s := by unfold cutRegion; rw [hk]; exact if_pos (by simp [hd])
      rw [hsame]
      exact .refl s

end

/-- Regions cut one after the other: those below `n` have had their turn, from `s` to `t`. -/
theorem cutRegions_effect {n : Nat} (hn : n ≤ 6) (s : State) :
    let t := forN n cutRegion s
    StageStep AnyStageReg s t ∧ t.cells = s.cells ∧ t.blocks = s.blocks ∧ (∀ c, n ≤ c → t.comb c = s.comb c) ∧
      ∀ c k, c < n → mergerSlot s c = some k → overdue s k.drainTick = true → RegionCut c k t := by
  refine forN_induct (fun m (t : State) => StageStep AnyStageReg s t ∧ t.cells = s.cells ∧ t.blocks = s.blocks ∧ (∀ c, m ≤ c → t.comb c = s.comb c) ∧
    ∀ c k, c < m → mergerSlot s c = some k → overdue s k.drainTick = true → RegionCut c k t)
    ⟨.refl s, rfl, rfl, fun _ _ => rfl, fun _ _ h => absurd h (Nat.not_lt_zero _)⟩ fun m u hm hu => ?_
  obtain ⟨hstep, hcells, hblocks, hcomb, hcut⟩ := hu
  have hm6 : m < 6 := by omega
  have hnext := cutRegion_effect hm6 u
  refine ⟨hstep.trans hnext.step, hnext.cells.trans hcells, hnext.blocks.trans hblocks, fun c hc => ?_, fun c k hc hk hd => ?_⟩
  · rw [hnext.others c (by omega), hcomb c (by omega)]
  · obtain h | rfl := Nat.lt_succ_iff_lt_or_eq.1 hc
    · have hold := hcut c k h hk hd
      have hsame := hnext.others c (by omega)
      exact {
        slots := by rw [hsame]; exact hold.slots
        lastClosed := by rw [hsame]; exact hold.lastClosed
        word := by rw [hsame]; exact hold.word
        inputs := fun i x hi hx => by
          have hdiv : (12 * c + i) / 12 = c := by omega
          refine hold.inputs i x hi ?_
          unfold State.input at hx ⊢
          rw [hdiv] at hx ⊢
          rwa [hsame] at hx
        told := hnext.step.events _ _ (stagePage_comb (by omega)) hold.told }
    · exact (cutRegion_overdue hm6 ((congrArg (fun x : Comb => x.slots.head?) (hcomb c le_rfl)).trans hk) (by rw [hstep.overdue]; exact hd)).2

end Sys2Proof.Machine

namespace Sys2Proof.Machine
open Sys2Proof.Claims

/-- A region that holds all close groups and no record of its oldest slot closes it. -/
theorem regionClose_ready {c : Nat} {k : RegSlot} {s : State} (hk : mergerSlot s c = some k) (hg : ∀ i, i < 12 → (tfind k.groups i).isSome = true)
    (hn : ∀ i, i < 12 → (s.input (12 * c + i)).any (MItem.isRecOf k.frame) = false) : regionClose c s = closeRegion c false k s := by
  unfold regionClose
  rw [hk]
  refine if_pos (List.all_eq_true.2 fun i hi => ?_)
  rw [hg i (List.mem_range.1 hi), hn i (List.mem_range.1 hi)]
  rfl

/-- What the delivery of events leaves of a hive includes its duplex part. -/
theorem hiveKeeps_dup {x y : Hive} (h : HiveKeeps x y) : y.dup = x.dup := by
  obtain ⟨-, -, -, -, -, -, -, -, -, -, -, -, hdup, -⟩ := h
  exact hdup

end Sys2Proof.Machine

section
open Sys2Proof Sys2Proof.Machine Sys2Proof.Claims

/-- Settles O14: `closeBlock_effect` and `closeRegion_effect` for the closes; at the deadline `cutBlocks_effect` and `cutRegions_effect` follow one block
and one region through the loops, over steps that leave the frames of times and the deadlines (`StageStep`). -/
theorem framesCloseUpward : Obligations.FramesCloseUpward := by
  unfold Obligations.FramesCloseUpward
  refine ⟨fun blk k rest s hk hm hout hstore htaken hmutes => ?block, fun c k s hk hg hn => ?region, fun blk k rest s hk hd => ?cutBlock,
    fun c k s hk hd => ?cutRegion⟩
  case block =>
    have hrun : exec (.blockClose blk) s = done s (blockClose blk.val s) := rfl
    rw [blockClose_ready hk hm hout hstore] at hrun
    obtain ⟨hblock, -, hcomb, hcount, hframe, honly, hregs, hstep⟩ := closeBlock_effect blk.isLt k s
    generalize closeBlock blk.val k s = t at *
    have hself := (hblock blk.val).trans (if_pos rfl)
    refine runs_of_done hrun hstep.stages.pending ⟨fun q hq => ?_, fun q hq hf => ?_, ?_, ?_, hframe, fun q hq hf => ?_, honly, hregs⟩
    · rw [hself] at hq
      simpa using (List.mem_filter.1 hq).2
    · rw [hself]
      exact List.mem_filter.2 ⟨hq, by simpa using hf⟩
    · rw [hself]
      rfl
    · rw [hcount, Nat.mod_eq_of_lt htaken]
    · rw [hcomb, if_pos rfl] at hq
      obtain ⟨q₀, -, rfl⟩ := List.mem_map.1 hq
      rw [RegSlot.give_eq] at hf
      obtain ⟨ws, hws⟩ := closeGroup_head s blk.val k
      obtain ⟨hflags, hoverrun, hlost, hcut, hpoison, hisolated⟩ :=
        flagBits k.overrun.isSome k.lost k.cut.isSome k.poison k.isolated
      obtain ⟨hb, hfr, ht, hdrops, hmut, hbits⟩ := lengthWord_fields blk.isLt (Nat.mod_lt k.frame.toNat (by decide : 0 < 16))
        (Nat.mod_lt k.taken (by decide : 0 < 2 ^ 24)) (lt_of_le_of_lt (min_le_right (tget 0 (s.block blk.val).drops k.frame.toNat) 65535) (by decide))
        (lt_of_le_of_lt hmutes (by decide)) hflags
      refine ⟨_, ws, ?_, hb, hfr, ht.trans (Nat.mod_eq_of_lt htaken), hdrops, hmut, (hbits 0 (by decide)).trans hoverrun, (hbits 1 (by decide)).trans hlost,
        (hbits 2 (by decide)).trans hcut, (hbits 3 (by decide)).trans hpoison, (hbits 4 (by decide)).trans hisolated⟩
      unfold RegSlot.give
      rw [if_pos hf, ← hws]
      exact (tfind_tput ..).trans (if_pos rfl)
  case region =>
    have hnone : ∀ i, i < 12 → (s.input (12 * c.val + i)).any (MItem.isRecOf k.frame) = false := fun i hi => by
      rw [List.any_eq_false]
      intro x hx
      cases x with
      | record r fl => simpa [MItem.isRecOf] using hn i r fl hi hx
      | floor f fl => exact Bool.false_ne_true
    have hrun : exec (.regionClose c) s = done s (regionClose c.val s) := rfl
    rw [regionClose_ready hk hg hnone] at hrun
    obtain ⟨rest, hslots⟩ := List.head?_eq_some_iff.1 hk
    obtain ⟨hstep, hclosed, -⟩ := closeRegion_effect c.isLt false hslots
    generalize closeRegion c.val false k s = t at *
    obtain ⟨flags, drain, hlast, hflags, hdrain, hcut, hdisorder, hreset⟩ := hclosed.word
    obtain ⟨hc, hframe, hbits⟩ := closeFlit_fields c.isLt k.frame hflags hdrain
    exact runs_of_done hrun hstep.step.stages.pending ⟨hclosed.slots, hclosed.lastClosed, hclosed.disorder,
      ⟨_, hlast, rfl, rfl, rfl, hc, hframe, (hbits 0 (by decide)).trans hcut, (hbits 1 (by decide)).trans hdisorder, (hbits 3 (by decide)).trans hreset⟩,
      (hstep.step.stages.mono fun _ h => h.1).combs hstep.cells hstep.blocks⟩
  case cutBlock =>
    have hrun : exec .drainDeadline s = done s (forN 6 cutRegion (forN 72 cutBlock s)) := rfl
    obtain ⟨hstep, -, -, -, hcut⟩ := cutBlocks_effect (le_refl 72) s
    have hdone := hcut blk.val k rest blk.isLt hk hd
    generalize forN 72 cutBlock s = u at *
    obtain ⟨hstep', hcells, hblocks, -, -⟩ := cutRegions_effect (le_refl 6) u
    generalize forN 6 cutRegion u = t at *
    have hall := hstep.trans hstep'
    have hblock : t.block blk.val = u.block blk.val := by unfold State.block; rw [hblocks]
    have hcell : ∀ j, t.cell j = u.cell j := fun j => by unfold State.cell; rw [hcells]
    refine runs_of_done hrun hall.stages.pending ⟨by rw [hblock]; exact hdone.slots, by rw [hblock]; exact hdone.store, fun i r hi hr => ?_,
      hstep'.events _ _ (stagePage_blk blk.isLt) hdone.told, hall.stages.tick, ?_, ?_, hall.stages.lanes⟩
    · rw [hcell, hdone.fifos i hi] at hr
      obtain ⟨hmem, hkeep⟩ := List.mem_filter.1 hr
      exact ⟨hmem, by simpa [recOf] using hkeep⟩
    · exact hiveKeeps_dup (hall.stages.hive .a)
    · exact hiveKeeps_dup (hall.stages.hive .b)
  case cutRegion =>
    have hrun : exec .drainDeadline s = done s (forN 6 cutRegion (forN 72 cutBlock s)) := rfl
    obtain ⟨hstep, hgroups, -, -, -⟩ := cutBlocks_effect (le_refl 72) s
    generalize forN 72 cutBlock s = u at *
    obtain ⟨rest, hslots⟩ := List.head?_eq_some_iff.1 hk
    obtain ⟨g, rest', hslots'⟩ := (hgroups c.val).slotsKept.head hslots
    obtain ⟨hstep', -, -, -, hcut⟩ := cutRegions_effect (le_refl 6) u
    have hdone := hcut c.val { k with groups := g } c.isLt (congrArg List.head? hslots') (by rw [hstep.overdue]; exact hd)
    generalize forN 6 cutRegion u = t at *
    obtain ⟨flags, drain, hlast, hflags, hdrain, hbit⟩ := hdone.word
    obtain ⟨-, hframe, hbits⟩ := closeFlit_fields c.isLt k.frame hflags hdrain
    exact runs_of_done hrun (hstep.trans hstep').stages.pending ⟨hdone.slots, hdone.lastClosed,
      ⟨_, hlast, rfl, hframe, (hbits 0 (by decide)).trans hbit⟩, hdone.inputs, hdone.told⟩

end

/-! ### Trigger and swarm (06_trigger.md) -/

namespace Sys2Proof.Machine
open Sys2Proof.Claims

/-! ### Changes of the trigger parts of the hives -/

/-- Of the state only the trigger parts of the hives may differ, beside `K` and what the delivery of events marks. -/
def TrigsOnly (K : Nat → Prop) (s t : State) : Prop := Quiet K (TrigOnly s t) t

section
variable {K L : Nat → Prop} {s t u : State}

/-- What the delivery of events leaves alone does not depend on the trigger parts it finds. -/
theorem quiet_retrig (x : State) (q : Quiet K s t) : Quiet K (TrigOnly s x) (TrigOnly t x) :=
  { q with
    hive := fun h => match h with
      | .a => have ⟨htb, _, hrest⟩ := q.hive .a; ⟨htb, rfl, hrest⟩
      | .b => have ⟨htb, _, hrest⟩ := q.hive .b; ⟨htb, rfl, hrest⟩ }

theorem Quiet.trig (q : Quiet K s t) (h : HiveId) : (t.hive h).trig = (s.hive h).trig := by
  obtain ⟨-, htrig, -⟩ := q.hive h
  exact htrig

theorem trigOnly_of_trig (h : ∀ k, (t.hive k).trig = (s.hive k).trig) : TrigOnly s t = s := by
  have ha : t.hiveA.trig = s.hiveA.trig := h .a
  have hb : t.hiveB.trig = s.hiveB.trig := h .b
  unfold TrigOnly
  rw [ha, hb]

theorem trigsOnly_of_quiet (q : Quiet K s t) : TrigsOnly K s t := by
  unfold TrigsOnly
  rwa [trigOnly_of_trig q.trig]

namespace TrigsOnly

theorem refl (s : State) : TrigsOnly K s s := Quiet.refl s

theorem trans (h : TrigsOnly K s t) (k : TrigsOnly K t u) : TrigsOnly K s u := (quiet_retrig u h).trans k

theorem mono (h : TrigsOnly K s t) (hk : ∀ k, K k → L k) : TrigsOnly L s t := quiet_mono h hk

/-- An update of one hive that puts its trigger part alone. -/
theorem modHive (s : State) (h : HiveId) (g : Hive → Hive) (hg : ∀ x, g x = { x with trig := (g x).trig }) : TrigsOnly K s (s.modHive h g) := by
  have he : TrigOnly s (s.modHive h g) = s.modHive h g := by
    cases h
    · exact congrArg (fun x => { s with hiveA := x }) (hg s.hiveA).symm
    · exact congrArg (fun x => { s with hiveB := x }) (hg s.hiveB).symm
  unfold TrigsOnly
  rw [he]
  exact Quiet.refl _

variable (h : TrigsOnly K s t)
include h

theorem quiet : Quiet K (TrigOnly s t) t := h
theorem pending : t.pending = s.pending := h.quiet.pending
theorem tick : t.tick = s.tick := h.quiet.tick
theorem staged : t.staged = s.staged := h.quiet.staged
theorem cells : t.cells = s.cells := h.quiet.cells
theorem combs : t.combs = s.combs := h.quiet.combs
theorem lanes : t.lanes = s.lanes := h.quiet.lanes
theorem chip : t.chip = s.chip := h.quiet.chip

theorem tb (k : HiveId) : (t.hive k).tb = (s.hive k).tb := by
  obtain ⟨htb, -⟩ := h.quiet.hive k
  rw [htb]
  cases k <;> rfl

theorem higherClaim : higherClaim t = higherClaim s := h.quiet.higherClaim
theorem fuOf (k : HiveId) : t.fuOf k = s.fuOf k := by unfold State.fuOf; rw [h.tb]
theorem now : t.now = s.now := by unfold State.now; rw [h.higherClaim, h.fuOf]
theorem frameNow : t.frameNow = s.frameNow := by unfold State.frameNow; rw [h.higherClaim, h.tb]

theorem reg (pg off i : Nat) (hn : noted (rkey pg off i) = false) (hk : ¬ K (rkey pg off i)) : t.reg pg off i = s.reg pg off i :=
  Quiet.reg h pg off i hn hk

end TrigsOnly

theorem modHive_trig (s : State) (h k : HiveId) (g : Hive → Hive) :
    ((s.modHive h g).hive k).trig = if k = h then (g (s.hive h)).trig else (s.hive k).trig := by
  rw [State.modHive_eq, State.setHive_hive]
  split <;> rfl

/-- The trigger part of the active hive, where the active hive is as it was. -/
theorem trigOf_of_active {t : State} {h : HiveId} (ha : higherClaim t = h) : trigOf t = (t.hive h).trig := by unfold trigOf; rw [ha]

end

/-! ### Registers of the hives' pages -/

/-- A register of a hive's page lies on the hives' pages of its group, whatever its window. -/
theorem onHives_window (h : HiveId) (g off i : Nat) (hg : g < 2 ^ 8) (ho : off < 2 ^ 12) : onHives g (rkey (hivePage h g) off i) := by
  have hpage : keyPage (rkey (hivePage h g) off i) = hivePage h g := by
    cases h <;> simp only [keyPage, rkey, hivePage, page, hiveRegion] <;> omega
  cases h
  · exact .inl hpage
  · exact .inr hpage

/-- Registers of pages are told apart by their offsets. -/
theorem rkey_off {pg pg' off off' i i' : Nat} (hp : pg % 2 ^ 12 = 0) (hp' : pg' % 2 ^ 12 = 0) (ho : off < 2 ^ 12) (ho' : off' < 2 ^ 12)
    (h : rkey pg off i = rkey pg' off' i') : off = off' := by
  simp only [rkey] at h; omega

/-- A register set leaves those at other offsets. -/
theorem setReg_reg_off (s : State) {pg pg' off off' : Nat} (v : W32) (i i' : Nat) (hp : pg % 2 ^ 12 = 0) (hp' : pg' % 2 ^ 12 = 0)
    (ho : off < 2 ^ 12) (ho' : off' < 2 ^ 12) (hne : off' ≠ off) : (s.setReg pg off v i).reg pg' off' i' = s.reg pg' off' i' :=
  (State.setReg_reg ..).trans (if_neg fun h => hne (rkey_off hp' hp ho' ho h))

/-- A counter reads one more after it counts. -/
theorem count_reg (s : State) (pg off n i : Nat) : (s.count pg off n i).reg pg off i = satInc (s.reg pg off i) n :=
  (State.setReg_reg ..).trans (if_pos rfl)

section
variable (s : State) (h : HiveId) {g off : Nat} (hg : g < 2 ^ 8) (ho : off < 2 ^ 12)
include hg ho

theorem trigsOnly_setReg (v : W32) (i : Nat) : TrigsOnly (onHives g) s (s.setReg (hivePage h g) off v i) :=
  trigsOnly_of_quiet (quiet_setReg s _ _ _ _ (.inr (onHives_window h g off i hg ho)))

theorem trigsOnly_count (n i : Nat) : TrigsOnly (onHives g) s (s.count (hivePage h g) off n i) := trigsOnly_setReg s h hg ho _ i

theorem quiet_raise_hive (bits : Nat) : Quiet (onHives g) s (raise s (hivePage h g) off bits) := by
  refine quiet_mono (raise_quiet s _ _ _ (page_mod _ _ _)) ?_
  rintro k rfl
  exact onHives_window h g off 0 hg ho

theorem trigsOnly_raise (bits : Nat) : TrigsOnly (onHives g) s (raise s (hivePage h g) off bits) :=
  trigsOnly_of_quiet (quiet_raise_hive s h hg ho bits)

end

/-- An event of a hive's page leaves the registers at other offsets of the hives' pages. -/
theorem raise_hive_reg (s : State) (h k : HiveId) {g g' off off' : Nat} (i bits : Nat) (hg' : plainGroup g') (ho : off < 2 ^ 12) (ho' : off' < 2 ^ 12)
    (he : off' ≠ Reg.EVT_COUNT) (hne : off' ≠ off) :
    (raise s (hivePage h g) off bits).reg (hivePage k g') off' i = s.reg (hivePage k g') off' i :=
  raise_reg_other s _ _ _ _ _ _ (page_mod _ _ _) (noted_hivePage k g' off' i hg' ho' he)
    fun hkey => hne (rkey_off (page_mod _ _ _) (page_mod _ _ _) ho' ho hkey)

/-! ### Decision entries (R199, R201, R214, R216) -/

/-- The decision that an accepted trigger makes (R214, R216). -/
def Trig.decision (x : Trig) (line : Nat) (host : Bool) (t : Int) (pre post : Nat) (mask : BitVec 6) (prim origins : Nat) : Decision :=
  { line := line, host := host, trunc := decide (t - (1024 * pre : Nat) < 8000 * x.h), t := t, pre := pre, post := post
    lo := max (t - (1024 * pre : Nat)) (8000 * x.h), hi := t + (1024 * post : Nat), origins := origins, prim := prim, mask := mask, seq := x.seq }

/-- The trigger part that has taken a decision: one whose window H has not passed is entered and waits for the blocks. -/
def Trig.take (x : Trig) (d : Decision) : Trig :=
  { x with
    seq := x.seq + 1
    entries := if d.hi < 8000 * x.h then x.entries else x.entries ++ [d]
    decided := if d.hi < 8000 * x.h then x.decided else x.decided ++ [d]
    unsent := if d.hi < 8000 * x.h then x.unsent else x.unsent ++ [d] }

/-- The trigger part with the highest PENDING noted (R202). -/
def Trig.peaked (x : Trig) : Trig := { x with peak := max x.peak (pendingEntries x) }

/-- The trigger part with a refused trigger counted for frame `f` (R199). -/
def Trig.refusedIn (x : Trig) (f : Nat) : Trig := { x with refused := tset 0 x.refused f (tget 0 x.refused f + 1) }

theorem notePending_effect (h : HiveId) (s : State) :
    let t := notePending h s
    TrigsOnly (onHives 0x13) s t ∧ (∀ k, (t.hive k).trig = if k = h then (s.hive h).trig.peaked else (s.hive k).trig) ∧
      ∀ off i, off < 2 ^ 12 → off ≠ Reg.TRG_PEND_MAX → t.reg (trgPage h) off i = s.reg (trgPage h) off i := by
  unfold notePending
  refine ⟨(TrigsOnly.modHive s h _ fun _ => rfl).trans (trigsOnly_setReg _ h (by decide) (by decide) _ _), fun k => ?_, fun off i ho hne => ?_⟩
  · exact modHive_trig s h k _
  · refine (setReg_reg_off _ _ _ _ (page_mod _ _ _) (page_mod _ _ _) (by decide) ho hne).trans ?_
    rw [State.modHive_eq, State.setHive_reg]

/-- An accepted trigger (R199, R214): the line's count, the decision taken, the highest PENDING. -/
theorem accept_effect (h : HiveId) (line : Nat) (host : Bool) (x : Int) (pre post : Nat) (mask : BitVec 6) (prim origins : Nat) (s : State) :
    let t := accept h line host x pre post mask prim origins s
    let d := (s.hive h).trig.decision line host x pre post mask prim origins
    TrigsOnly (onHives 0x13) s t ∧ (∀ k, (t.hive k).trig = if k = h then ((s.hive h).trig.take d).peaked else (s.hive k).trig) ∧
      t.reg (trgPage h) Reg.TRG_LINE_TAKE_CNT line = satInc (s.reg (trgPage h) Reg.TRG_LINE_TAKE_CNT line) 1 := by
  intro t d
  have ht : t = notePending h ((s.count (trgPage h) Reg.TRG_LINE_TAKE_CNT 1 line).modHive h
      fun y => { y with trig := (s.hive h).trig.take d }) := rfl
  obtain ⟨honly, htrig, hreg⟩ := notePending_effect h ((s.count (trgPage h) Reg.TRG_LINE_TAKE_CNT 1 line).modHive h
    fun y => { y with trig := (s.hive h).trig.take d })
  rw [← ht] at honly htrig hreg
  refine ⟨((trigsOnly_count s h (by decide) (by decide) 1 line).trans (TrigsOnly.modHive _ h _ fun _ => rfl)).trans honly, fun k => ?_, ?_⟩
  · rw [htrig, modHive_trig, modHive_trig, if_pos rfl]
    split
    · rfl
    · cases k <;> rfl
  · rw [hreg _ _ (by decide) (by decide), State.modHive_eq, State.setHive_reg]
    exact count_reg ..

/-- A refused trigger (R199): counted for its frame and for the page, and told. -/
theorem refuse_effect (h : HiveId) (x : Int) (s : State) :
    let t := refuse h x s
    TrigsOnly (onHives 0x13) s t ∧
      (∀ k, (t.hive k).trig = if k = h then (s.hive h).trig.refusedIn (frameOf s x).toNat else (s.hive k).trig) ∧
      t.reg (trgPage h) Reg.TRG_REFUSED_CNT = satInc (s.reg (trgPage h) Reg.TRG_REFUSED_CNT) 1 := by
  unfold refuse
  dsimp only
  refine ⟨((TrigsOnly.modHive s h _ fun _ => rfl).trans (trigsOnly_count _ h (by decide) (by decide) 1 0)).trans
    (trigsOnly_raise _ h (by decide) (by decide) 1), fun k => ?_, ?_⟩
  · rw [(quiet_raise_hive _ h (g := 0x13) (by decide) (by decide) 1).trig k]
    exact modHive_trig s h k _
  · rw [raise_hive_reg _ h h 0 1 (by decide) (by decide) (by decide) (by decide) (by decide), count_reg, State.modHive_eq, State.setHive_reg]

end Sys2Proof.Machine

namespace Sys2Proof.Machine
open Sys2Proof.Claims

/-! ### What the trigger rests on -/

/-- States in which the trigger finds the same: the time bases and trigger parts of the hives and the registers of their TRG_ pages. -/
structure SameTrigger (s t : State) : Prop where
  active : higherClaim t = higherClaim s
  tb : ∀ k, (t.hive k).tb = (s.hive k).tb
  trig : ∀ k, (t.hive k).trig = (s.hive k).trig
  regs : ∀ k off i, off < 2 ^ 12 → off ≠ Reg.EVT_COUNT → off ≠ Reg.ERR_STATUS → t.reg (hivePage k 0x13) off i = s.reg (hivePage k 0x13) off i

namespace SameTrigger
variable {s t u : State}

theorem trans (h : SameTrigger s t) (k : SameTrigger t u) : SameTrigger s u where
  active := k.active.trans h.active
  tb x := (k.tb x).trans (h.tb x)
  trig x := (k.trig x).trans (h.trig x)
  regs x off i ho he hne := (k.regs x off i ho he hne).trans (h.regs x off i ho he hne)

theorem of_near (h : Near s t) : SameTrigger s t where
  active := near_higherClaim h
  tb k := by rw [near_hive h]
  trig k := by rw [near_hive h]
  regs _ _ _ _ _ _ := near_reg h _ _ _

/-- An error of a TRG_ page reported leaves what the trigger rests on (15_control.md R475). -/
theorem pageErr (s : State) (h : HiveId) (bits : Nat) : SameTrigger s (pageErr s (hivePage h 0x13) bits) := by
  have hquiet := quiet_raise_hive s h (g := 0x13) (off := Reg.ERR_STATUS) (by decide) (by decide) bits
  exact {
    active := hquiet.higherClaim
    tb := (trigsOnly_of_quiet hquiet).tb
    trig := hquiet.trig
    regs := fun k off i ho he hne => raise_hive_reg s h k i bits (by decide) (by decide) ho he hne }

variable (h : SameTrigger s t)
include h

theorem now : t.now = s.now := by unfold State.now State.fuOf; rw [h.active, h.tb]
theorem trigOf : trigOf t = trigOf s := by unfold Claims.trigOf; rw [h.active, h.trig]

theorem cfg (off i : Nat) (ho : off < 2 ^ 12) (he : off ≠ Reg.EVT_COUNT) (hne : off ≠ Reg.ERR_STATUS) : t.cfg 0x13 off i = s.cfg 0x13 off i :=
  h.regs .a off i ho he hne

theorem lineNow (i : Nat) : lineNow t i = lineNow s i := by
  unfold Machine.lineNow trgCfg
  rw [h.cfg _ _ (by decide) (by decide) (by decide), h.cfg _ _ (by decide) (by decide) (by decide),
    h.cfg _ _ (by decide) (by decide) (by decide), h.cfg _ _ (by decide) (by decide) (by decide)]

end SameTrigger

theorem near_trigOnly {s t : State} (h : Near s t) (x : State) : Near (TrigOnly s x) (TrigOnly t x) :=
  { h with hiveA := by unfold TrigOnly; rw [h.hiveA], hiveB := by unfold TrigOnly; rw [h.hiveB] }

/-- An access whose register acts on the trigger parts alone. -/
theorem served_trig {K : Nat → Prop} {s s' v t : State} (hn : Near s s') (h : TrigsOnly K s' v) (hv : Near v t) : Served K (TrigOnly s t) t := by
  have hsame : TrigOnly s t = TrigOnly s v := by unfold TrigOnly; rw [hv.hiveA, hv.hiveB]
  rw [hsame]
  exact ⟨TrigOnly s' v, v, near_trigOnly hn v, h.quiet, hv⟩

/-! ### A host trigger (R204) -/

/-- The trigger part with the result of a host trigger (R204). -/
def Trig.answered (x : Trig) (n : Nat) : Trig := { x with hostStatus := n }

/-- The result of a host trigger put in TRG_HOST_STATUS. -/
def hostAnswer (h : HiveId) (n : Nat) (s : State) : State := s.modHive h (fun x => { x with trig := x.trig.answered n })

theorem hostAnswer_effect (h : HiveId) (n : Nat) (s : State) :
    let t := hostAnswer h n s
    TrigsOnly (onHives 0x13) s t ∧ (t.hive h).trig = (s.hive h).trig.answered n ∧ ∀ pg off i, t.reg pg off i = s.reg pg off i :=
  ⟨TrigsOnly.modHive s h _ fun _ => rfl, by unfold hostAnswer; rw [modHive_trig, if_pos rfl],
    fun _ _ _ => by unfold hostAnswer; rw [State.modHive_eq, State.setHive_reg]⟩

/-- The time that a host trigger names (R204). -/
def hostTime (s : State) : Int := s.now + shortDiff (s.cfg 0x13 Reg.TRG_HOST_TIME) (shortOf s.now)

/-- A GO written to TRG_HOST_CTL: the conditions of R204 in their order. -/
theorem hostTrigger_go {v : W32} {i : Nat} (hgo : bit v 8 = true) (hi : fld v 2 0 = i) (s : State) :
    let h := higherClaim s
    let r := lineNow s i
    let x := hostTime s
    hostTrigger v s =
      if !r.en then hostAnswer h 5 s
      else if x - 1024 * r.pre < 8000 * (trigOf s).h then hostAnswer h 2 s
      else if 1073741824 < x - s.now then hostAnswer h 4 s
      else if 64 ≤ pendingEntries (trigOf s) then hostAnswer h 3 (refuse h x s)
      else hostAnswer h 1 (accept h i true x r.pre r.post r.readMask 0 0 s) := by
  subst hi
  have hpre : ∀ n : Nat, ((1024 * n : Nat) : Int) = 1024 * n := fun n => by push_cast; rfl
  unfold hostTrigger
  rw [hgo, if_neg (by decide)]
  dsimp only
  rw [hpre]
  rfl

/-- The five results of a host trigger of line `i`. -/
theorem hostTrigger_effect {v : W32} {i : Nat} (hgo : bit v 8 = true) (hi : fld v 2 0 = i) (s : State) :
    let t := hostTrigger v s
    let h := higherClaim s
    let r := lineNow s i
    let x := hostTime s
    let early := x - 1024 * r.pre < 8000 * (trigOf s).h
    let late := 1073741824 < x - s.now
    TrigsOnly (onHives 0x13) s t ∧
      (r.en = false → (trigOf t).hostStatus = 5) ∧ (r.en = true → early → (trigOf t).hostStatus = 2) ∧
      (r.en = true → ¬ early → late → (trigOf t).hostStatus = 4) ∧
      (r.en = true → ¬ early → ¬ late → 64 ≤ pendingEntries (trigOf s) → (trigOf t).hostStatus = 3 ∧
        t.reg (trgPage h) Reg.TRG_REFUSED_CNT = satInc (s.reg (trgPage h) Reg.TRG_REFUSED_CNT) 1) ∧
      (r.en = true → ¬ early → ¬ late → pendingEntries (trigOf s) < 64 →
        trigOf t = ((trigOf s).take ((trigOf s).decision i true x r.pre r.post r.readMask 0 0)).peaked.answered 1 ∧
        t.reg (trgPage h) Reg.TRG_LINE_TAKE_CNT i = satInc (s.reg (trgPage h) Reg.TRG_LINE_TAKE_CNT i) 1) := by
  intro t h r x early late
  have ht := hostTrigger_go hgo hi s
  have answer (n : Nat) (w : State) (hw : TrigsOnly (onHives 0x13) s w) (hn : t = hostAnswer h n w) :
      TrigsOnly (onHives 0x13) s t ∧ trigOf t = (w.hive h).trig.answered n ∧ ∀ pg off i, t.reg pg off i = w.reg pg off i := by
    obtain ⟨honly, htrig, hreg⟩ := hostAnswer_effect h n w
    rw [hn]
    have hall := hw.trans honly
    exact ⟨hall, (trigOf_of_active hall.higherClaim).trans htrig, hreg⟩
  obtain ⟨hrefused, -, hrefcnt⟩ := refuse_effect h x s
  obtain ⟨haccepted, htaken, htakecnt⟩ := accept_effect h i true x r.pre r.post r.readMask 0 0 s
  by_cases hen : r.en = false
  · obtain ⟨honly, htrig, -⟩ := answer 5 s (.refl s) (ht.trans (if_pos (by rw [hen]; rfl)))
    exact ⟨honly, fun _ => by rw [htrig]; rfl, by simp [hen], by simp [hen], by simp [hen], by simp [hen]⟩
  replace ht := ht.trans (if_neg (by simpa using hen))
  by_cases he : early
  · obtain ⟨honly, htrig, -⟩ := answer 2 s (.refl s) (ht.trans (if_pos he))
    exact ⟨honly, fun hoff => absurd hoff hen, fun _ _ => by rw [htrig]; rfl, fun _ hne => absurd he hne, fun _ hne => absurd he hne, fun _ hne => absurd he hne⟩
  replace ht := ht.trans (if_neg he)
  by_cases hl : late
  · obtain ⟨honly, htrig, -⟩ := answer 4 s (.refl s) (ht.trans (if_pos hl))
    exact ⟨honly, fun hoff => absurd hoff hen, fun _ hea => absurd hea he, fun _ _ _ => by rw [htrig]; rfl, fun _ _ hnl => absurd hl hnl, fun _ _ hnl => absurd hl hnl⟩
  replace ht := ht.trans (if_neg hl)
  by_cases hf : 64 ≤ pendingEntries (trigOf s)
  · obtain ⟨honly, htrig, hreg⟩ := answer 3 _ hrefused (ht.trans (if_pos hf))
    exact ⟨honly, fun hoff => absurd hoff hen, fun _ hea => absurd hea he, fun _ _ hla => absurd hla hl,
      fun _ _ _ _ => ⟨by rw [htrig]; rfl, (hreg ..).trans hrefcnt⟩, fun _ _ _ hroom => absurd hf (not_le.mpr hroom)⟩
  · obtain ⟨honly, htrig, hreg⟩ := answer 1 _ haccepted (ht.trans (if_neg hf))
    refine ⟨honly, fun hoff => absurd hoff hen, fun _ hea => absurd hea he, fun _ _ hla => absurd hla hl, fun _ _ _ hfull => absurd hfull hf,
      fun _ _ _ _ => ⟨?_, (hreg ..).trans htakecnt⟩⟩
    rw [htrig, htaken, if_pos rfl]
    rfl

/-- The decision of a host trigger of line `i` whose window lies at or above H (R204, R214). -/
def hostDecision (s : State) (i : Nat) : Decision :=
  { line := i, host := true, trunc := false, t := hostTime s, pre := (lineNow s i).pre, post := (lineNow s i).post
    lo := hostTime s - 1024 * (lineNow s i).pre, hi := hostTime s + 1024 * (lineNow s i).post, origins := 0, prim := 0
    mask := (lineNow s i).readMask, seq := (trigOf s).seq }

/-- A window that starts at H or above is not cut short. -/
theorem decision_uncut {s : State} {i : Nat} (h : ¬ hostTime s - 1024 * (lineNow s i).pre < 8000 * (trigOf s).h) :
    (trigOf s).decision i true (hostTime s) (lineNow s i).pre (lineNow s i).post (lineNow s i).readMask 0 0 = hostDecision s i := by
  unfold Trig.decision hostDecision
  push_cast
  rw [max_eq_left (not_lt.mp h), decide_eq_false h]

/-- A decision whose window H has not passed is entered, listed and sent. -/
theorem take_entered {x : Trig} {d : Decision} (h : 8000 * x.h ≤ d.hi) :
    (x.take d).decided = x.decided ++ [d] ∧ (x.take d).unsent = x.unsent ++ [d] ∧ (x.take d).entries = x.entries ++ [d] :=
  ⟨if_neg (not_lt.mpr h), if_neg (not_lt.mpr h), if_neg (not_lt.mpr h)⟩

/-! ### The write of TRG_HOST_CTL -/

/-- The description of TRG_HOST_CTL. -/
def hostDesc : RegDesc := ⟨Reg.TRG_HOST_CTL, .wo, 0x0, 0x107, none, none⟩

/-- The state once reserved bits of a write to TRG_HOST_CTL are reported (15_control.md R475). -/
def hostNoted (h : HiveId) (v : W32) (s : State) : State := if v &&& ~~~w32 0x107 = 0 then s else pageErr s (hivePage h 0x13) errRsvd

theorem hostNoted_same (h : HiveId) (v : W32) (s : State) : SameTrigger s (hostNoted h v s) ∧ TrigsOnly (onHives 0x13) s (hostNoted h v s) := by
  unfold hostNoted
  split
  · exact ⟨⟨rfl, fun _ => rfl, fun _ => rfl, fun _ _ _ _ _ _ => rfl⟩, .refl s⟩
  · exact ⟨.pageErr s h _, trigsOnly_raise s h (by decide) (by decide) _⟩

theorem keyGroup_hive (h : HiveId) : keyGroup (hivePage h 0x13) = 0x13 := by cases h <;> rfl

/-- A write of TRG_HOST_CTL is the host trigger of its own bits. -/
theorem perform_trgHost (p : Path) (h : HiveId) (v : W32) (s : State) :
    (perform p opWrite (hivePage h 0x13) Reg.TRG_HOST_CTL v s).1 = hostTrigger (v &&& w32 0x107) (hostNoted h v s) := by
  have hd : descOf 0x13 Reg.TRG_HOST_CTL = some hostDesc := rfl
  have hrange : ∀ x t, rangeWrite p (hivePage h 0x13) hostDesc x t = hostTrigger x t := fun x t => by
    unfold rangeWrite actReg
    rw [keyGroup_hive]
    exact if_pos rfl
  have hopen : ∀ x t, openWrite p (hivePage h 0x13) hostDesc x t = hostTrigger x t := fun x t => by
    unfold openWrite
    rw [keyGroup_hive]
    exact hrange x t
  have hwrite : writeReg p (hivePage h 0x13) hostDesc v s = hostTrigger (v &&& w32 0x107) (hostNoted h v s) := by
    unfold writeReg
    rw [keyGroup_hive]
    exact hopen _ _
  unfold perform
  rw [if_pos (by decide), keyGroup_hive, hd]
  exact hwrite

/-- The word of a GO names its line and holds GO. -/
theorem hostWord (v : W32) : bit (withBits v 0x100 &&& w32 0x107) 8 = true ∧ fld (withBits v 0x100 &&& w32 0x107) 2 0 = fld v 2 0 := by
  constructor
  · have hbits : (withBits v 0x100 &&& w32 0x107).getLsbD 8 = true := by
      rw [BitVec.getLsbD_and, BitVec.getLsbD_or, show (w32 0x100).getLsbD 8 = true by decide, show (w32 0x107).getLsbD 8 = true by decide,
        Bool.or_true, Bool.and_true]
    exact hbits
  · exact (fld_and _ _ _ _ (by decide)).trans (fld_or _ _ _ _ (by decide))

end Sys2Proof.Machine

section
open Sys2Proof Sys2Proof.Machine Sys2Proof.Claims

/-- Settles O18: the five results of `hostTrigger_effect`, found from the state in front of the access (`SameTrigger`). -/
theorem hostTriggerResults : Obligations.HostTriggerResults := by
  unfold Obligations.HostTriggerResults
  intro p r v s hready
  obtain ⟨s', hnear, hdone⟩ := writeAt_hive p r 0x13 Reg.TRG_HOST_CTL (by decide) (by decide) (withBits v 0x100) s hready
  obtain ⟨hgo, hline⟩ := hostWord v
  obtain ⟨hnoted, honly⟩ := hostNoted_same (hiveOf s r) (withBits v 0x100) s'
  rw [perform_trgHost] at hdone
  have hsame := (SameTrigger.of_near hnear).trans hnoted
  have htime : hostTime (hostNoted (hiveOf s r) (withBits v 0x100) s') = hostTime s := by
    unfold hostTime
    rw [hsame.now, hsame.cfg _ _ (by decide) (by decide) (by decide)]
  have heffect := hostTrigger_effect hgo hline (hostNoted (hiveOf s r) (withBits v 0x100) s')
  generalize hostTrigger (withBits v 0x100 &&& w32 0x107) (hostNoted (hiveOf s r) (withBits v 0x100) s') = u at hdone heffect
  simp only [htime, hsame.now, hsame.active, hsame.trigOf, hsame.lineNow, hsame.regs _ Reg.TRG_REFUSED_CNT _ (by decide) (by decide) (by decide),
    hsame.regs _ Reg.TRG_LINE_TAKE_CNT _ (by decide) (by decide) (by decide), ← near_reg hdone, ← (SameTrigger.of_near hdone).trigOf] at heffect
  obtain ⟨hhost, hoff, hexpired, hahead, hfull, htaken⟩ := heffect
  have hall := honly.trans hhost
  refine runs_of_done rfl (hdone.pending.trans (hall.pending.trans hnear.pending))
    ⟨hoff, hexpired, hahead, hfull, fun hen he hl hroom => ?_, served_trig hnear hall hdone⟩
  obtain ⟨htrig, hcount⟩ := htaken hen he hl hroom
  rw [decision_uncut he] at htrig
  rw [htrig]
  refine ⟨rfl, rfl, hcount, fun hwindow => ?_⟩
  obtain ⟨hdecided, hunsent, hentries⟩ := take_entered (x := trigOf s) (d := hostDecision s (fld v 2 0)) hwindow
  exact ⟨_, hdecided, rfl, rfl, rfl, rfl, rfl, rfl, rfl, rfl, rfl, rfl, hunsent, hentries⟩

end

namespace Sys2Proof.Machine
open Sys2Proof.Claims

/-! ### Packets put into a fixed ring (08_queues_placement.md R274) -/

section
variable {K : Nat → Prop} (s : State) (h : HiveId)

theorem ringWriteE_quiet (d0 : W64) (ws : List W64) (p : BitVec 32) : Quiet K s (ringWriteE h d0 ws p s).1 := by
  induction ws generalizing s p with
  | nil => exact Quiet.refl s
  | cons w ws ih => exact (hWriteE_quiet s h agQueue (ringAddr d0 p) w).trans (ih _ _)

theorem ringWriteE_owns (d0 : W64) (ws : List W64) (p : BitVec 32) : Owns (ringWriteE h d0 ws p s).2 := by
  induction ws generalizing s p with
  | nil => exact owns_nil
  | cons w ws ih => exact (owns_append _ _).2 ⟨hWriteE_owns s h agQueue (ringAddr d0 p) w, ih _ _⟩

theorem qPutFixedE_quiet (q : Nat) (ws : List W64) : Quiet K s (qPutFixedE s h q ws).1 := by
  unfold qPutFixedE
  cases qClass q with
  | none => exact Quiet.refl s
  | some cls =>
    dsimp only
    split
    · exact qDescE_quiet s h q
    · dsimp only
      refine Quiet.trans ?_ (quiet_modQueue _ h q _)
      exact (((qDescE_quiet s h q).trans (ringWriteE_quiet _ h _ _ _)).trans (putPtr_quiet _ h q 3 _)).trans (putPtr_quiet _ h q 2 _)

theorem qPutFixedE_owns (q : Nat) (ws : List W64) : Owns (qPutFixedE s h q ws).2.1 := by
  unfold qPutFixedE
  cases qClass q with
  | none => exact owns_nil
  | some cls =>
    dsimp only
    split
    · exact qDescE_owns s h q
    · simp only [owns_append]
      exact ⟨⟨⟨qDescE_owns s h q, ringWriteE_owns _ h _ _ _⟩, putPtr_owns _ h q 3 _⟩, putPtr_owns _ h q 2 _⟩

theorem qPutFixed_quiet (q : Nat) (ws : List W64) : Quiet K s (qPutFixed s h q ws).1 :=
  (qPutFixedE_quiet s h q ws).trans (settle_quiet _ _ (qPutFixedE_owns s h q ws))

end

/-- A message put in the transmit queues counts and marks at most what it finds full (R206). -/
theorem sendSwarm_quiet (h : HiveId) (ws : List W64) (exc : Option Nat) (s : State) :
    Quiet (fun k => k = rkey (swmPage h) Reg.SWM_TX_DROP_CNT 0 ∨ k = rkey (swmPage h) Reg.SWM_EVENTS 0) s (sendSwarm h ws exc s) := by
  refine forN_induct (fun _ t => Quiet _ s t) (Quiet.refl s) fun n u _ hu => hu.trans ?_
  dsimp only
  split
  · exact Quiet.refl u
  · split
    · exact qPutFixed_quiet u h _ _
    · exact ((qPutFixed_quiet u h _ _).trans (quiet_count _ _ _ _ _ (.inr (.inl rfl)))).trans
        (quiet_mono (raise_quiet _ _ _ _ (page_mod _ _ _)) fun _ => .inr)

/-! ### The lines and candidates of a trigger tick (R190) -/

/-- The registers of the hives' TRG_ and SWM_ pages. -/
def TrigReg (k : Nat) : Prop := onHives 0x13 k ∨ onHives 0x14 k

/-- What the evaluation of lines and candidates leaves of a trigger part: the horizon and what moves it. A decision that it makes waits
to be sent to the blocks. -/
structure TrigKeeps (x y : Trig) : Prop where
  h : y.h = x.h
  target : y.target = x.target
  jumpAt : y.jumpAt = x.jumpAt
  before : y.before = x.before
  doneTick : y.doneTick = x.doneTick
  decided : ∀ d ∈ y.decided, d ∈ x.decided ∨ d ∈ y.unsent
  unsent : ∀ d ∈ x.unsent, d ∈ y.unsent

namespace TrigKeeps
variable {x y z : Trig}

theorem refl (x : Trig) : TrigKeeps x x := ⟨rfl, rfl, rfl, rfl, rfl, fun _ => .inl, fun _ => id⟩

theorem trans (p : TrigKeeps x y) (q : TrigKeeps y z) : TrigKeeps x z where
  h := q.h.trans p.h
  target := q.target.trans p.target
  jumpAt := q.jumpAt.trans p.jumpAt
  before := q.before.trans p.before
  doneTick := q.doneTick.trans p.doneTick
  decided d hd := (q.decided d hd).elim (fun hy => (p.decided d hy).imp_right (q.unsent d)) .inr
  unsent d hd := q.unsent d (p.unsent d hd)

/-- Other fields of a trigger part changed. -/
theorem of_eq
    (e : y = { y with
      h := x.h, target := x.target, jumpAt := x.jumpAt, before := x.before, doneTick := x.doneTick, decided := x.decided, unsent := x.unsent }) :
    TrigKeeps x y where
  h := (congrArg Trig.h e :)
  target := (congrArg Trig.target e :)
  jumpAt := (congrArg Trig.jumpAt e :)
  before := (congrArg Trig.before e :)
  doneTick := (congrArg Trig.doneTick e :)
  decided d hd := .inl (by rwa [(congrArg Trig.decided e :)] at hd)
  unsent d hd := by rwa [(congrArg Trig.unsent e :)]

theorem take (x : Trig) (d : Decision) : TrigKeeps x (x.take d) where
  h := rfl
  target := rfl
  jumpAt := rfl
  before := rfl
  doneTick := rfl
  decided e he := by
    unfold Trig.take at he ⊢
    dsimp only at he ⊢
    split at he
    · exact .inl he
    · rename_i hin
      rw [if_neg hin]
      exact (List.mem_append.1 he).imp_right fun h => List.mem_append.2 (.inr h)
  unsent e he := by
    unfold Trig.take
    dsimp only
    split
    · exact he
    · exact List.mem_append.2 (.inl he)

end TrigKeeps

/-- A step of the evaluation of lines and candidates. -/
structure Evaluates (s t : State) : Prop where
  only : TrigsOnly TrigReg s t
  trig : ∀ k, TrigKeeps (s.hive k).trig (t.hive k).trig

namespace Evaluates
variable {s t u : State}

theorem refl (s : State) : Evaluates s s := ⟨.refl s, fun _ => .refl _⟩

theorem trans (h : Evaluates s t) (k : Evaluates t u) : Evaluates s u := ⟨h.only.trans k.only, fun x => (h.trig x).trans (k.trig x)⟩

theorem of_quiet (q : Quiet TrigReg s t) : Evaluates s t := ⟨trigsOnly_of_quiet q, fun k => by rw [q.trig]; exact .refl _⟩

/-- One hive's trigger part changed in other fields than those that `TrigKeeps` names. -/
theorem modHive (s : State) (h : HiveId) (g : Hive → Hive) (hg : ∀ x, g x = { x with trig := (g x).trig }) (hk : ∀ x, TrigKeeps x.trig (g x).trig) :
    Evaluates s (s.modHive h g) := by
  refine ⟨.modHive s h g hg, fun k => ?_⟩
  rw [modHive_trig]
  split
  · rename_i e
    rw [e]
    exact hk _
  · exact .refl _

/-- What is known of an operation of one hive's trigger part makes it a step. -/
theorem of_effect {h : HiveId} {y : Trig} (honly : TrigsOnly (onHives 0x13) s t) (htrig : ∀ k, (t.hive k).trig = if k = h then y else (s.hive k).trig)
    (hy : TrigKeeps (s.hive h).trig y) : Evaluates s t := by
  refine ⟨honly.mono fun _ => .inl, fun k => ?_⟩
  rw [htrig]
  split
  · rename_i e
    rw [e]
    exact hy
  · exact .refl _

theorem count (s : State) (h : HiveId) {g off : Nat} (n i : Nat) (hg : g = 0x13 ∨ g = 0x14) (ho : off < 2 ^ 12) : Evaluates s (s.count (hivePage h g) off n i) := by
  refine of_quiet (quiet_count s _ _ _ _ (.inr ?_))
  obtain rfl | rfl := hg
  · exact .inl (onHives_window h _ _ _ (by decide) ho)
  · exact .inr (onHives_window h _ _ _ (by decide) ho)

theorem raise (s : State) (h : HiveId) {off : Nat} (bits : Nat) (ho : off < 2 ^ 12) : Evaluates s (raise s (trgPage h) off bits) :=
  of_quiet (quiet_mono (quiet_raise_hive s h (by decide) ho bits) fun _ => .inl)

/-- A fold each step of which is one. -/
theorem foldl {α β : Type} (l : List α) (f : State × β → α → State × β) (hf : ∀ p x, Evaluates p.1 (f p x).1) (p : State × β) :
    Evaluates p.1 (l.foldl f p).1 := by
  induction l generalizing p with
  | nil => exact .refl _
  | cons x l ih => exact (hf p x).trans (ih _)

theorem foldState {α : Type} (l : List α) (f : State → α → State) (hf : ∀ u x, Evaluates u (f u x)) (s : State) : Evaluates s (l.foldl f s) := by
  induction l generalizing s with
  | nil => exact .refl s
  | cons x l ih => exact (hf s x).trans (ih _)

theorem ite {p : Prop} [Decidable p] (h : p → Evaluates s t) (k : ¬ p → Evaluates s u) : Evaluates s (if p then t else u) := by
  split
  · rename_i hp; exact h hp
  · rename_i hp; exact k hp

end Evaluates

/-- The SHORT of a message formed, in the list of the last 64 (R218). -/
def Hive.addFormed (x : Hive) (short : BitVec 32) : Hive := { x with trig := { x.trig with formed := (short :: x.trig.formed).take 64 } }

section
variable (h : HiveId) (s : State)

theorem notePending_evaluates : Evaluates s (notePending h s) := by
  obtain ⟨honly, htrig, -⟩ := notePending_effect h s
  exact .of_effect honly htrig (.of_eq rfl)

theorem refuse_evaluates (x : Int) : Evaluates s (refuse h x s) := by
  obtain ⟨honly, htrig, -⟩ := refuse_effect h x s
  exact .of_effect honly htrig (.of_eq rfl)

theorem accept_evaluates (line : Nat) (host : Bool) (x : Int) (pre post : Nat) (mask : BitVec 6) (prim origins : Nat) :
    Evaluates s (accept h line host x pre post mask prim origins s) := by
  obtain ⟨honly, htrig, -⟩ := accept_effect h line host x pre post mask prim origins s
  exact .of_effect honly htrig ((TrigKeeps.take _ _).trans (.of_eq rfl))

theorem passPrescale_evaluates (line n : Nat) : Evaluates s (passPrescale h line n s).1 := by
  unfold passPrescale
  dsimp only
  exact .modHive s h _ (fun _ => rfl) fun _ => .of_eq rfl

theorem takeFiring_evaluates (line : Nat) (r : LineRegs) (x : Int) (prim : Nat) : Evaluates s (takeFiring h line r x prim s) := by
  unfold takeFiring
  dsimp only
  refine (passPrescale_evaluates h s line _).trans (.ite (fun _ => .refl _) fun _ => .ite (fun _ => ?_) fun _ => ?_)
  · exact refuse_evaluates h _ x
  · exact accept_evaluates h _ line false x r.pre r.post r.readMask prim 0

theorem sendSwarm_evaluates (ws : List W64) (exc : Option Nat) : Evaluates s (sendSwarm h ws exc s) := by
  refine .of_quiet (quiet_mono (sendSwarm_quiet h ws exc s) ?_)
  rintro k (rfl | rfl)
  · exact .inr (onHives_window h 0x14 _ _ (by decide) (by decide))
  · exact .inr (onHives_window h 0x14 _ _ (by decide) (by decide))

theorem formed_evaluates (short : BitVec 32) :
    Evaluates s { s with hiveA := s.hiveA.addFormed short, hiveB := s.hiveB.addFormed short } :=
  (Evaluates.modHive s .a (·.addFormed short) (fun _ => rfl) fun _ => .of_eq rfl).trans
    (.modHive _ .b (·.addFormed short) (fun _ => rfl) fun _ => .of_eq rfl)

theorem swarmFire_evaluates (j x : Int) (mult : Nat) (gap : Bool) : Evaluates s (swarmFire h j x mult gap s) := by
  unfold swarmFire
  dsimp only
  split
  · exact .refl s
  generalize hv : (if (!swSend s) = true then s else _) = v
  have hsent : Evaluates s v := by
    rw [← hv]
    exact .ite (fun _ => .refl s) fun _ => (sendSwarm_evaluates h s _ none).trans (formed_evaluates _ (shortOf x))
  refine hsent.trans (.ite (fun _ => .refl v) fun _ => .ite (fun _ => .count v h 1 0 (.inr rfl) (by decide)) fun _ => ?_)
  generalize hr : List.foldl _ (v, ([] : List CandLine)) (List.range 8) = r
  have hheld : Evaluates v r.1 := by
    rw [← hr]
    refine .foldl _ _ (fun p i => ?_) (v, [])
    split
    · exact .refl p.1
    · split
      · exact refuse_evaluates h p.1 x
      · exact .refl p.1
  refine hheld.trans (.trans ?_ (notePending_evaluates h _))
  exact .modHive r.1 h _ (fun _ => rfl) fun _ => .of_eq rfl

/-- A line for a trigger tick: what it holds of its condition, and a firing (R196–R198, R206). -/
theorem evalLine_evaluates (j : Int) (sums acts : Nat → Nat) (i : Nat) : Evaluates s (evalLine h j sums acts i s) := by
  unfold evalLine
  extract_lets label x r l isSrc held fire v now w es
  have hfire (y : Int) (prim : Nat) (u : State) : Evaluates u (fire y prim u) := by
    unfold fire
    extract_lets v w gap z
    have hv : Evaluates u v := .modHive u h _ (fun _ => rfl) fun _ => .of_eq rfl
    have hw : Evaluates u w := hv.trans (.count v h (g := 0x13) (off := Reg.TRG_LINE_FIRE_CNT) 1 i (.inl rfl) (by decide))
    have hz : Evaluates w z := .ite (fun _ => takeFiring_evaluates h w i r y prim) fun _ => .refl w
    exact (hw.trans hz).trans (.ite (fun _ => swarmFire_evaluates h z j y prim gap) fun _ => .refl z)
  have hcond : Evaluates s w := .modHive s h _ (fun _ => rfl) fun _ => .of_eq rfl
  clear_value fire w es
  refine .ite (fun _ => hcond.trans (.ite (fun _ => hfire _ _ w) fun _ => .refl w)) fun _ => .ite (fun _ => ?_) fun _ => .refl s
  cases es with
  | nil => exact .refl s
  | cons e es => exact .ite (fun _ => .refl s) fun _ => hfire _ _ s

theorem evalLines_evaluates (j : Int) : Evaluates s (evalLines h j s) := by
  unfold evalLines
  extract_lets bad u ps v
  have hu : Evaluates s u := .ite (fun _ => .refl s) fun _ =>
    (Evaluates.count s h (g := 0x13) (off := Reg.TRG_PRIM_ERR_CNT) bad 0 (.inl rfl) (by decide)).trans (.raise _ h 16 (by decide))
  have hv : Evaluates u v := forN_induct (fun _ t => Evaluates u t) (.refl u) fun i t _ ht => ht.trans (evalLine_evaluates h t j _ _ i)
  exact (hu.trans hv).trans (.modHive v h _ (fun _ => rfl) fun _ => .of_eq rfl)

/-- The decision on a candidate (R211, R213). -/
theorem decideCand_evaluates (c : SwCand) : Evaluates s (decideCand h c s) := by
  unfold decideCand
  extract_lets ms total ok u
  have hu : Evaluates s u := .modHive s h _ (fun _ => rfl) fun _ => .of_eq rfl
  refine hu.trans (.ite (fun _ => .count u h 1 0 (.inr rfl) (by decide)) fun _ => ?_)
  refine (Evaluates.count u h (g := 0x14) (off := Reg.SWM_COINC_CNT) 1 0 (.inr rfl) (by decide)).trans (.foldState _ _ (fun v l => ?_) _)
  dsimp only
  refine ((Evaluates.count v h (g := 0x13) (off := Reg.TRG_LINE_FIRE_CNT) 1 l.line (.inl rfl) (by decide)).trans
    (passPrescale_evaluates h _ l.line _)).trans (.ite (fun _ => ?_) fun _ => .refl _)
  exact accept_evaluates h _ l.line false c.t l.pre l.post l.mask c.mult ms.length

end

/-! ### H, the entries and what is sent (R190, R191, R201) -/

section
variable {x : Trig} {j : Int}

theorem advanceH_rest (x : Trig) (j : Int) : advanceH x j = { x with h := (advanceH x j).h, jumpAt := (advanceH x j).jumpAt } := by
  unfold advanceH
  dsimp only
  split
  · split <;> rfl
  · split
    · rfl
    · split <;> rfl

/-- H on its way to a forward step advances by one, and passes over it once it is there. -/
theorem advanceH_jump {a e : Int} (hj : x.jumpAt = some (a, e)) :
    (8000 * x.h < a → (advanceH x j).h = x.h + 1 ∧ (advanceH x j).jumpAt = some (a, e)) ∧
      (a ≤ 8000 * x.h → (advanceH x j).h = max x.h (j - x.target) ∧ (advanceH x j).jumpAt = none) := by
  unfold advanceH
  rw [hj]
  dsimp only
  refine ⟨fun h => ?_, fun h => ?_⟩
  · rw [if_pos h]
    exact ⟨rfl, rfl⟩
  · rw [if_neg (not_lt.mpr h)]
    exact ⟨rfl, rfl⟩

section
variable (hj : x.jumpAt = none)
include hj

theorem advanceH_stands (h : j - x.h ≤ x.target) : (advanceH x j).h = x.h := by
  unfold advanceH
  rw [hj]
  dsimp only
  rw [if_pos (by omega)]

theorem advanceH_steps (h : j - x.h = x.target + 1) : (advanceH x j).h = x.h + 1 := by
  unfold advanceH
  rw [hj]
  dsimp only
  rw [if_neg (by omega), if_pos (by omega)]

theorem advanceH_gains (h : x.target + 1 < j - x.h) :
    ((advanceH x j).h = x.h + 1 ∨ (advanceH x j).h = x.h + 2) ∧ (x.before = none → (advanceH x j).h = x.h + 2) := by
  unfold advanceH
  rw [hj]
  dsimp only
  rw [if_neg (by omega), if_neg (by omega)]
  dsimp only
  refine ⟨?_, fun hb => ?_⟩
  · split <;> split
    · exact .inl rfl
    · exact .inr rfl
    · exact .inl rfl
    · exact .inr rfl
  · rw [hb]
    rfl

end

/-- The trigger part at the end of a trigger tick: H advanced, the entries that it passed freed, the decisions sent (R190). -/
def Trig.settled (x : Trig) (j : Int) : Trig :=
  { advanceH x j with
    entries := (advanceH x j).entries.filter (fun d => decide (8000 * (advanceH x j).h ≤ d.hi))
    unsent := []
    relabel := (advanceH x j).relabel.takeWhile (fun r => decide (j - 33 < r.1)) }

theorem settled_decided (x : Trig) (j : Int) : (x.settled j).decided = x.decided := (congrArg Trig.decided (advanceH_rest x j) :)
theorem settled_doneTick (x : Trig) (j : Int) : (x.settled j).doneTick = x.doneTick := (congrArg Trig.doneTick (advanceH_rest x j) :)

/-- H has passed the window of no entry that is left (R201). -/
theorem settled_entries (x : Trig) (j : Int) : ∀ d ∈ (x.settled j).entries, 8000 * (x.settled j).h ≤ d.hi := fun _ hd =>
  of_decide_eq_true (List.mem_filter.1 hd).2

end

end Sys2Proof.Machine

namespace Sys2Proof.Machine
open Sys2Proof.Claims

/-! ### Decisions and H on their way to the blocks (R190, R191, R200) -/

/-- The windows of the decisions that select in a region. -/
def windowsIn (ds : List Decision) (c : Nat) : List (Int × Int) := (ds.filter (fun d => d.mask.getLsbD c)).map (fun d => (d.lo, d.hi))

theorem mem_windowsIn {ds : List Decision} {d : Decision} {c : Nat} (hd : d ∈ ds) (hc : d.mask.getLsbD c = true) : (d.lo, d.hi) ∈ windowsIn ds c :=
  List.mem_map.2 ⟨d, List.mem_filter.2 ⟨hd, hc⟩, rfl⟩

/-- A comb that has received H and the windows of new decisions. -/
def Comb.told (x : Comb) (h : Int) (ws : List (Int × Int)) : Comb := { x with h := max x.h h, windows := x.windows ++ ws }

theorem sendDown_effect (h : HiveId) (new : List Decision) (c : Nat) (s : State) :
    let t := sendDown h new c s
    (((s.comb c).bundle h).state = 2 → t.comb c = (s.comb c).told (s.hive h).trig.h (windowsIn new c)) ∧
      (∀ d, d ≠ c → t.comb d = s.comb d) ∧ t = { s with combs := t.combs, blocks := t.blocks } := by
  unfold sendDown
  split
  · rename_i hdown
    exact ⟨fun hup => absurd hup hdown, fun _ _ => rfl, rfl⟩
  · dsimp only
    generalize hu : s.modComb c _ = u
    have hcomb : u.combs = (s.setComb c ((s.comb c).told (s.hive h).trig.h (windowsIn new c))).combs := by rw [← hu]; rfl
    have hrest : u = { s with combs := u.combs } := by rw [← hu]; rfl
    refine forN_induct (fun _ (t : State) => (((s.comb c).bundle h).state = 2 → t.comb c = (s.comb c).told (s.hive h).trig.h (windowsIn new c)) ∧
      (∀ d, d ≠ c → t.comb d = s.comb d) ∧ t = { s with combs := t.combs, blocks := t.blocks }) ⟨fun _ => ?_, fun d hd => ?_, ?_⟩ fun i v _ hv => ?_
    · unfold State.comb at hcomb ⊢
      rw [hcomb]
      exact (State.setComb_comb ..).trans (if_pos rfl)
    · unfold State.comb at hcomb ⊢
      rw [hcomb]
      exact (State.setComb_comb ..).trans (if_neg hd)
    · rw [hrest]
    · obtain ⟨htold, hothers, honly⟩ := hv
      split
      · exact ⟨htold, hothers, honly⟩
      · exact ⟨htold, hothers, by rw [honly]; rfl⟩

/-- All combs whose bundle is UP are told. -/
theorem sendDowns_effect (h : HiveId) (new : List Decision) (s : State) :
    let t := forN 6 (sendDown h new) s
    (∀ c, c < 6 → ((s.comb c).bundle h).state = 2 → t.comb c = (s.comb c).told (s.hive h).trig.h (windowsIn new c)) ∧
      t = { s with combs := t.combs, blocks := t.blocks } := by
  have hall := forN_induct (n := 6) (f := sendDown h new) (s := s) (fun n (t : State) =>
    (∀ c, c < n → ((s.comb c).bundle h).state = 2 → t.comb c = (s.comb c).told (s.hive h).trig.h (windowsIn new c)) ∧
      (∀ c, n ≤ c → t.comb c = s.comb c) ∧ t = { s with combs := t.combs, blocks := t.blocks })
    ⟨fun c hc => absurd hc (Nat.not_lt_zero c), fun _ _ => rfl, rfl⟩ fun n u _ hu => ?_
  · obtain ⟨htold, -, honly⟩ := hall
    exact ⟨htold, honly⟩
  · obtain ⟨htold, hleft, honly⟩ := hu
    obtain ⟨hnext, hothers, hrest⟩ := sendDown_effect h new n u
    have hhive : u.hive h = s.hive h := by rw [honly]; rfl
    rw [hleft n le_rfl, hhive] at hnext
    refine ⟨fun c hc hup => ?_, fun c hc => (hothers c (by omega)).trans (hleft c (by omega)), by rw [hrest, honly]⟩
    obtain hlt | rfl := Nat.lt_succ_iff_lt_or_eq.1 hc
    · exact (hothers c (by omega)).trans (htold c hlt hup)
    · exact hnext hup

/-- What the start of drains leaves alone (05_blocks_regions.md R178). -/
structure DrainsStart (s t : State) : Prop where
  pending : t.pending = s.pending
  tick : t.tick = s.tick
  staged : t.staged = s.staged
  cells : t.cells = s.cells
  lanes : t.lanes = s.lanes
  chip : t.chip = s.chip
  trig : ∀ k, (t.hive k).trig = (s.hive k).trig
  comb : ∀ c, (t.comb c).h = (s.comb c).h ∧ (t.comb c).windows = (s.comb c).windows

namespace DrainsStart
variable {s t u : State}

theorem refl (s : State) : DrainsStart s s := ⟨rfl, rfl, rfl, rfl, rfl, rfl, fun _ => rfl, fun _ => ⟨rfl, rfl⟩⟩

theorem trans (h : DrainsStart s t) (k : DrainsStart t u) : DrainsStart s u where
  pending := k.pending.trans h.pending
  tick := k.tick.trans h.tick
  staged := k.staged.trans h.staged
  cells := k.cells.trans h.cells
  lanes := k.lanes.trans h.lanes
  chip := k.chip.trans h.chip
  trig x := (k.trig x).trans (h.trig x)
  comb c := ⟨(k.comb c).1.trans (h.comb c).1, (k.comb c).2.trans (h.comb c).2⟩

theorem setBlock (s : State) (b : Nat) (x : Block) : DrainsStart s (s.setBlock b x) := ⟨rfl, rfl, rfl, rfl, rfl, rfl, fun _ => rfl, fun _ => ⟨rfl, rfl⟩⟩

theorem setComb (s : State) (c : Nat) (x : Comb) (hh : x.h = (s.comb c).h) (hw : x.windows = (s.comb c).windows) : DrainsStart s (s.setComb c x) := by
  refine ⟨rfl, rfl, rfl, rfl, rfl, rfl, fun _ => rfl, fun d => ?_⟩
  rw [State.setComb_comb]
  split
  · rename_i e
    rw [e]
    exact ⟨hh, hw⟩
  · exact ⟨rfl, rfl⟩

theorem setHive (s : State) (h : HiveId) (x : Hive) (hx : x.trig = (s.hive h).trig) : DrainsStart s (s.setHive h x) := by
  refine ⟨by simp, by simp, by simp, by simp, by simp, by simp, fun k => ?_, fun c => by simp⟩
  rw [State.setHive_hive]
  split
  · rename_i e
    rw [e, hx]
  · rfl

end DrainsStart

theorem startDrains_leaves (s : State) : DrainsStart s (startDrains s) := by
  unfold startDrains
  extract_lets h u v
  have hu : DrainsStart s u := .setHive s h _ rfl
  have hv : DrainsStart u v := forN_induct (fun _ t => DrainsStart u t) (.refl u) fun b w _ hw => hw.trans (by
    split
    · exact .refl w
    · exact .setBlock w b _)
  exact (hu.trans hv).trans (forN_induct (fun _ t => DrainsStart v t) (.refl v) fun c w _ hw => hw.trans (by
    split
    · exact .refl w
    · exact .setComb w c _ rfl rfl))

theorem startDrains_active (s : State) : higherClaim (startDrains s) = higherClaim s := by
  rw [higherClaim_eq, clock_startDrains, ← higherClaim_eq]

/-! ### The trigger tick (R190) -/

/-- The hive's trigger has begun the present trigger tick. -/
def tickBegun (h : HiveId) (s : State) : State := s.modHive h (fun x => { x with trig := { x.trig with doneTick := some s.tick } })

/-- The lines evaluated and the candidates decided that are due. -/
def tickDecided (h : HiveId) (j : Int) (s : State) : State :=
  let u := evalLines h (j - 33) s
  ((u.hive h).trig.cands.filter (fun c => decide (c.decideTick ≤ j))).foldl (fun s c => decideCand h c s) u

theorem tickDecided_evaluates (h : HiveId) (j : Int) (s : State) : Evaluates s (tickDecided h j s) :=
  (evalLines_evaluates h s (j - 33)).trans (.foldState _ _ (fun u c => decideCand_evaluates h u c) _)

/-- H advanced and the entries behind it freed. -/
def tickSettled (h : HiveId) (j : Int) (s : State) : State := s.modHive h (fun x => { x with trig := x.trig.settled j })

/-- The steps that settle a trigger tick, and the decisions that they find to be sent. -/
theorem tickSettled_eq (h : HiveId) (j : Int) (s : State) :
    let u := s.modHive h (fun x => { x with trig := advanceH x.trig j })
    let v := u.modHive h (fun x => { x with trig := { x.trig with
      entries := x.trig.entries.filter (fun d => decide (8000 * ((u.hive h).trig.h) ≤ d.hi)) } })
    (v.hive h).trig.unsent = (s.hive h).trig.unsent ∧
      v.modHive h (fun x => { x with trig := { x.trig with
        unsent := [], relabel := x.trig.relabel.takeWhile (fun r => decide (j - 33 < r.1)) } }) = tickSettled h j s := by
  intro u v
  refine ⟨?_, by cases h <;> rfl⟩
  have hu : (u.hive h).trig = advanceH (s.hive h).trig j := (modHive_trig s h h _).trans (if_pos rfl)
  have hv : (v.hive h).trig.unsent = (u.hive h).trig.unsent := (congrArg Trig.unsent ((modHive_trig u h h _).trans (if_pos rfl)) :)
  rw [hv, hu]
  exact (congrArg Trig.unsent (advanceH_rest _ j) :)

/-- A trigger tick in its order (R190): the lines, the candidates, H, the entries, the blocks. -/
theorem triggerTick_due {s : State} (hstart : s.chip.started = true) (hnow : s.now % 8000 = 0) (hdone : (trigOf s).doneTick ≠ some s.tick) :
    let h := higherClaim s
    let u := tickDecided h (s.now / 8000) (tickBegun h s)
    triggerTick s = startDrains (forN 6 (sendDown h (u.hive h).trig.unsent) (tickSettled h (s.now / 8000) u)) := by
  intro h u
  have hdue : ¬ (s.fuOf h % 8000 ≠ 0 ∨ (s.hive h).trig.doneTick = some s.tick ∨ (!s.chip.started) = true) := by
    rintro (hp | hd | hs)
    · exact hp hnow
    · exact hdone hd
    · rw [hstart] at hs
      exact Bool.false_ne_true hs
  obtain ⟨hunsent, hsettled⟩ := tickSettled_eq h (s.now / 8000) u
  rw [← hunsent, ← hsettled]
  unfold triggerTick
  exact if_neg hdue

/-- What a trigger tick does (R190, R191, R200, R201): `x` is the hive's trigger part once the lines are evaluated and the candidates decided. -/
theorem triggerTick_effect {s : State} (hstart : s.chip.started = true) (hnow : s.now % 8000 = 0) (hdone : (trigOf s).doneTick ≠ some s.tick) :
    ∃ x, TrigKeeps { trigOf s with doneTick := some s.tick } x ∧
      let t := triggerTick s
      trigOf t = x.settled (s.now / 8000) ∧
        (∀ c, c < 6 → ((s.comb c).bundle (higherClaim s)).state = 2 → (t.comb c).h = max (s.comb c).h (trigOf t).h ∧
          (t.comb c).windows = (s.comb c).windows ++ windowsIn x.unsent c) ∧
        t.pending = s.pending ∧ t.tick = s.tick ∧ t.cells = s.cells ∧ t.lanes = s.lanes ∧ t.chip = s.chip ∧ t.staged = s.staged := by
  have ht := triggerTick_due hstart hnow hdone
  dsimp only at ht
  generalize hh : higherClaim s = h at ht ⊢
  have hbegun : TrigsOnly TrigReg s (tickBegun h s) := .modHive s h _ fun _ => rfl
  have hbegin : ((tickBegun h s).hive h).trig = { trigOf s with doneTick := some s.tick } := by
    unfold trigOf
    rw [hh]
    exact (modHive_trig s h h _).trans (if_pos rfl)
  have heval := tickDecided_evaluates h (s.now / 8000) (tickBegun h s)
  have hkeeps := heval.trig h
  rw [hbegin] at hkeeps
  generalize tickDecided h (s.now / 8000) (tickBegun h s) = u at ht heval hkeeps
  have hall := (hbegun.trans heval.only).trans (.modHive u h (fun x => { x with trig := x.trig.settled (s.now / 8000) }) fun _ => rfl)
  have htrig : ((tickSettled h (s.now / 8000) u).hive h).trig = (u.hive h).trig.settled (s.now / 8000) := (modHive_trig u h h _).trans (if_pos rfl)
  change TrigsOnly TrigReg s (tickSettled h (s.now / 8000) u) at hall
  generalize tickSettled h (s.now / 8000) u = w at ht hall htrig
  obtain ⟨htold, honly⟩ := sendDowns_effect h (u.hive h).trig.unsent w
  generalize forN 6 (sendDown h (u.hive h).trig.unsent) w = v at ht htold honly
  have hcomb : ∀ c, w.comb c = s.comb c := fun c => by unfold State.comb; rw [hall.combs]
  have hdrains := startDrains_leaves v
  have hactive : higherClaim (startDrains v) = h := by
    have hv : higherClaim v = higherClaim w := by rw [honly]; rfl
    rw [startDrains_active, hv, hall.higherClaim, hh]
  rw [← ht] at hdrains hactive
  have hresult : trigOf (triggerTick s) = (u.hive h).trig.settled (s.now / 8000) := by
    have hv : v.hive h = w.hive h := by rw [honly]; rfl
    rw [trigOf_of_active hactive, hdrains.trig, hv, htrig]
  refine ⟨(u.hive h).trig, hkeeps, hresult, fun c hc hup => ?_, ?_, ?_, ?_, ?_, ?_, ?_⟩
  · have htoldc := htold c hc (by rw [hcomb]; exact hup)
    obtain ⟨hcombh, hwindows⟩ := hdrains.comb c
    rw [htoldc, hcomb] at hcombh hwindows
    exact ⟨by rw [hcombh, hresult, ← htrig]; rfl, hwindows⟩
  · rw [hdrains.pending, honly, ← hall.pending]
  · rw [hdrains.tick, honly, ← hall.tick]
  · rw [hdrains.cells, honly, ← hall.cells]
  · rw [hdrains.lanes, honly, ← hall.lanes]
  · rw [hdrains.chip, honly, ← hall.chip]
  · rw [hdrains.staged, honly, ← hall.staged]

/-! ### Region primitives (R192, R193) -/

/-- The primitive word of a comb for the trigger tick that has just ended. -/
def primOfComb (s : State) (c : Nat) (ok : Bool) : Prim :=
  let ms := (List.range 12).map (fun i => multiplicity s (12 * c + i) (s.now / 8000 - 1))
  ⟨c, s.now / 8000 - 1, ms.foldl (· + ·) 0, (ms.filter (fun m => decide (m ≥ blkMin s))).length, ok⟩

theorem primOfComb_sum (s : State) (c : Nat) (ok : Bool) :
    (primOfComb s c ok).sum = ((List.range 12).map (fun i => multiplicity s (12 * c + i) (s.now / 8000 - 1))).sum :=
  List.sum_eq_foldl.symm

theorem primOfComb_act (s : State) (c : Nat) (ok : Bool) :
    (primOfComb s c ok).act =
      ((List.range 12).filter (fun i => decide (blkMin s ≤ multiplicity s (12 * c + i) (s.now / 8000 - 1)))).length := by
  unfold primOfComb
  dsimp only
  rw [List.filter_map, List.length_map]
  rfl

/-- A comb that captures sends its word to both hives, after those of the last 40 trigger ticks. -/
theorem primitiveWord_capturing {s : State} {c : Nat} (ok : Bool) (hc : capturing s c = true) :
    (∀ h, ((primitiveWord c ok s).hive h).trig.prims.getLast? = some (primOfComb s c ok)) ∧ primitiveWord c ok s = TrigOnly s (primitiveWord c ok s) := by
  unfold primitiveWord
  rw [hc, if_neg (by decide)]
  refine ⟨fun h => ?_, rfl⟩
  cases h
  · exact List.getLast?_concat ..
  · exact List.getLast?_concat ..

/-! ### External edges (R203) -/

/-- An edge of an external input that some line wants. -/
def edgeWanted (s : State) (n : Nat) (rising : Bool) : Bool :=
  (List.range 8).any (fun i => let r := lineNow s i; r.en && r.cond = 2 && (r.extSrc = 2 || r.extSrc = n) && r.extEdge != rising)

theorem edgeWanted_of_line {s : State} {n i : Nat} {rising : Bool} (hi : i < 8) (hen : (lineNow s i).en = true) (hcond : (lineNow s i).cond = 2)
    (hsrc : (lineNow s i).extSrc = n ∨ (lineNow s i).extSrc = 2) (hedge : (lineNow s i).extEdge = !rising) : edgeWanted s n rising = true := by
  refine List.any_eq_true.2 ⟨i, List.mem_range.2 hi, ?_⟩
  obtain h | h := hsrc <;> cases rising <;> simp [hen, hcond, h, hedge]

/-- An edge at `m` falls in the dead time of its input: 42 ns after the last that was kept. -/
def edgeDead (s : State) (n : Nat) (m : Int) : Bool :=
  match lget none (trigOf s).extLast n with
  | some l => decide (m - l < 43008)
  | none => false

theorem edge_after_or_dead (s : State) (n : Nat) (m : Int) :
    (∀ l, lget none (trigOf s).extLast n = some l → l + 43008 ≤ m) ∨ ∃ l, lget none (trigOf s).extLast n = some l ∧ m < l + 43008 := by
  by_cases h : ∀ l, lget none (trigOf s).extLast n = some l → l + 43008 ≤ m
  · exact .inl h
  · push Not at h
    exact .inr h

/-- A hive that keeps an edge of its external input `n` that came at `m` of its own count, at the time `x` (R203). -/
def Hive.addEdge (y : Hive) (n : Nat) (rising : Bool) (m x : Int) : Hive :=
  { y with trig := { y.trig with extLast := lset y.trig.extLast n (some m), extEdges := y.trig.extEdges ++ [(n, rising, x, x.fdiv 8000)] } }

section
variable {s : State} {n : Nat} {rising : Bool} (hw : edgeWanted s n rising = true) (delta : Nat)
include hw

/-- A wanted edge after the dead time is kept for its trigger tick. -/
theorem extEdge_kept (hafter : ∀ l, lget none (trigOf s).extLast n = some l → l + 43008 ≤ (s.mono : Int) + 999 - delta) :
    (trigOf (extEdge n rising delta s)).extEdges = (trigOf s).extEdges ++ [(n, rising, s.now + 999 - delta, (s.now + 999 - delta).fdiv 8000)] ∧
      extEdge n rising delta s = TrigOnly s (extEdge n rising delta s) := by
  have hlive : edgeDead s n (s.mono + 999 - delta) = false := by
    unfold edgeDead
    cases hl : lget none (trigOf s).extLast n with
    | none => rfl
    | some l => exact decide_eq_false (by have := hafter l hl; omega)
  have hkept : extEdge n rising delta s = s.modHive (higherClaim s) (·.addEdge n rising (s.mono + 999 - delta) (s.now + 999 - delta)) := by
    unfold extEdge
    exact (if_neg (by rw [edgeWanted] at hw; rw [hw]; decide)).trans (if_neg (ne_true_of_eq_false hlive))
  rw [hkept]
  refine ⟨?_, by cases higherClaim s <;> rfl⟩
  rw [trigOf_of_active (TrigsOnly.modHive (K := TrigReg) s (higherClaim s) _ fun _ => rfl).higherClaim]
  exact (congrArg Trig.extEdges ((modHive_trig ..).trans (if_pos rfl)) :)

/-- A wanted edge within the dead time is counted. -/
theorem extEdge_dead {l : Int} (hl : lget none (trigOf s).extLast n = some l) (hin : (s.mono : Int) + 999 - delta < l + 43008) :
    extEdge n rising delta s = s.count (trgPage (higherClaim s)) Reg.TRG_EXT_LOST_CNT := by
  have hdead : edgeDead s n (s.mono + 999 - delta) = true := by
    unfold edgeDead
    rw [hl]
    exact decide_eq_true (by omega)
  unfold extEdge
  exact (if_neg (by rw [edgeWanted] at hw; rw [hw]; decide)).trans (if_pos hdead)

end

end Sys2Proof.Machine

section
open Sys2Proof Sys2Proof.Machine Sys2Proof.Claims

/-- Settles O17: what the lines and candidates do leaves the horizon and its guides, so H moves as `advanceH` says; a decision made meanwhile
waits to be sent, and is among the windows that the combs are told. -/
theorem triggerPrimitives : Obligations.TriggerPrimitives := by
  unfold Obligations.TriggerPrimitives
  refine ⟨fun s hstart hnow hdone => ?_, fun c ok s hc => ?_, fun n rising delta i s hen hcond hsrc hedge => ?_⟩
  · obtain ⟨x, hx, hresult, htold, hpending, htick, hcells, hlanes, hchip, hstaged⟩ := triggerTick_effect hstart hnow hdone
    have hh : x.h = (trigOf s).h := hx.h
    have htarget : x.target = (trigOf s).target := hx.target
    have hjump : x.jumpAt = (trigOf s).jumpAt := hx.jumpAt
    have hbefore : x.before = (trigOf s).before := hx.before
    refine runs_of_done rfl hpending ⟨fun hj => ⟨fun hl => ?_, fun hl => ?_, fun hl => ?_, fun hl hb => ?_⟩, fun a e hj => ⟨fun ha => ?_, fun ha => ?_⟩,
      fun d hd => ?_, ?_, ?_, fun c hc hup => (htold c hc hup).1, htick, hcells, hlanes, hchip, hstaged⟩
    · rw [hresult]
      exact (advanceH_stands (hjump.trans hj) (by rwa [hh, htarget])).trans hh
    · rw [hresult, ← hh]
      exact advanceH_steps (hjump.trans hj) (by rwa [hh, htarget])
    · rw [hresult, ← hh]
      exact (advanceH_gains (hjump.trans hj) (by rwa [hh, htarget])).1
    · rw [hresult, ← hh]
      exact (advanceH_gains (hjump.trans hj) (by rwa [hh, htarget])).2 (hbefore.trans hb)
    · rw [hresult, ← hh]
      exact (advanceH_jump (hjump.trans hj)).1 (by rwa [hh])
    · rw [hresult, ← hh, ← htarget]
      exact (advanceH_jump (hjump.trans hj)).2 (by rwa [hh])
    · rw [hresult, settled_decided] at hd
      refine (hx.decided d hd).imp_right fun hsent c hc hmask hup => ?_
      rw [(htold c hc hup).2]
      exact List.mem_append_right _ (mem_windowsIn hsent hmask)
    · rw [hresult, settled_doneTick, hx.doneTick]
    · rw [hresult]
      exact settled_entries x _
  · obtain ⟨hprims, honly⟩ := primitiveWord_capturing ok hc
    exact runs_of_done rfl (congrArg State.pending honly :) ⟨fun h => ⟨_, hprims h, rfl, rfl, rfl, primOfComb_sum .., primOfComb_act ..⟩, honly⟩
  · have hw := edgeWanted_of_line (n := n.val) i.isLt hen hcond hsrc hedge
    have hpending : (extEdge n.val rising delta.val s).pending = s.pending := by
      obtain hafter | ⟨l, hl, hin⟩ := edge_after_or_dead s n.val (s.mono + 999 - delta.val)
      · exact (congrArg State.pending (extEdge_kept hw _ hafter).2 :)
      · rw [extEdge_dead hw _ hl hin]
        rfl
    refine runs_of_done rfl hpending ⟨extEdge_kept hw _, fun l hl hin => ?_⟩
    rw [extEdge_dead hw _ hl hin]
    exact ⟨count_reg .., rfl⟩

end

namespace Sys2Proof.Machine
open Sys2Proof.Claims

/-! ### What a swarm message leaves alone -/

/-- Registers at the given offsets of pages other than TIM_. -/
def SwarmReg (offs : List Nat) (k : Nat) : Prop := keyGroup k ≠ 0x10 ∧ keyOff k ∈ offs

theorem swarmReg_swm {offs : List Nat} {off : Nat} (h : HiveId) (ho : off < 2 ^ 12) (hm : off ∈ offs) : SwarmReg offs (rkey (swmPage h) off 0) := by
  have hoff : keyOff (rkey (swmPage h) off 0) = off := by simp only [keyOff, rkey, swmPage, hivePage, page]; omega
  have hgroup : keyGroup (rkey (swmPage h) off 0) = 0x14 := by cases h <;> simp only [keyGroup, rkey, swmPage, hivePage, page, hiveRegion] <;> omega
  refine ⟨by rw [hgroup]; decide, ?_⟩
  rwa [hoff]

section
variable {offs offs' : List Nat} {s t : State}

theorem quiet_count_swm (h : HiveId) (s : State) {off : Nat} (ho : off < 2 ^ 12) (hm : off ∈ offs) :
    Quiet (SwarmReg offs) s (s.count (swmPage h) off) := quiet_count s _ _ _ _ (.inr (swarmReg_swm h ho hm))

theorem quiet_raise_swm (h : HiveId) (s : State) (bits : Nat) (hm : Reg.SWM_EVENTS ∈ offs) :
    Quiet (SwarmReg offs) s (raise s (swmPage h) Reg.SWM_EVENTS bits) :=
  quiet_mono (raise_quiet s _ _ _ (page_mod _ _ _)) fun _ hk => hk ▸ swarmReg_swm h (by decide) hm

namespace TrigsOnly
variable (h : TrigsOnly (SwarmReg offs) s t)
include h

theorem widen (hsub : ∀ o ∈ offs, o ∈ offs') : TrigsOnly (SwarmReg offs') s t := h.mono fun _ hk => ⟨hk.1, hsub _ hk.2⟩

/-- A register at another offset of the hives' SWM_ pages reads as before. -/
theorem swmReg (k : HiveId) (off i : Nat) (ho : off < 2 ^ 12) (he : off ≠ Reg.EVT_COUNT) (hm : off ∉ offs) :
    t.reg (swmPage k) off i = s.reg (swmPage k) off i := by
  refine h.reg _ _ _ (noted_hivePage k 0x14 off i (by decide) ho he) fun hk => hm ?_
  have hoff : keyOff (rkey (swmPage k) off i) = off := by simp only [keyOff, rkey, swmPage, hivePage, page]; omega
  have hmem := hk.2
  rwa [hoff] at hmem

/-- The registers of the TIM_ page read as before. -/
theorem timReg (off : Nat) (ho : off < 2 ^ 12) (he : off ≠ Reg.EVT_COUNT) : t.reg (cfgPage 0x10) off = s.reg (cfgPage 0x10) off := by
  refine h.reg _ _ _ (noted_hivePage .a 0x10 off 0 (by decide) ho he) fun hk => hk.1 ?_
  simp only [keyGroup, rkey, cfgPage, page]
  omega

theorem frameK : t.frameK = s.frameK := by
  unfold State.frameK State.cfg
  rw [h.timReg _ (by decide) (by decide)]

theorem frameFu : t.frameFu = s.frameFu := by
  unfold State.frameFu
  rw [h.frameK]

theorem epochFu : t.epochFu = s.epochFu := by
  unfold State.epochFu State.reg64 State.cfg
  rw [h.timReg _ (by decide) (by decide), h.timReg _ (by decide) (by decide), h.timReg _ (by decide) (by decide)]

/-- The frame of a time is as it was. -/
theorem frameOf (x : Int) : frameOf t x = frameOf s x := by
  unfold Machine.frameOf schemeAt
  rw [h.chip, h.frameFu, h.epochFu]

/-- The local fingerprint for a time is as it was. -/
theorem fpFor (x : Int) : fpFor t x = fpFor s x := by
  unfold Machine.fpFor
  rw [h.frameNow, h.frameOf, h.chip]

end TrigsOnly
end

/-- A step of the swarm logic that leaves what the active hive's trigger part knows of messages and origins. -/
structure SwarmStep (offs : List Nat) (h : HiveId) (s t : State) : Prop where
  only : TrigsOnly (SwarmReg offs) s t
  dup : (t.hive h).trig.dup = (s.hive h).trig.dup
  held : (t.hive h).trig.held = (s.hive h).trig.held
  origins : (t.hive h).trig.origins = (s.hive h).trig.origins

namespace SwarmStep
variable {offs offs' : List Nat} {h : HiveId} {s t u : State}

theorem refl (s : State) : SwarmStep offs h s s := ⟨.refl s, rfl, rfl, rfl⟩

theorem trans (p : SwarmStep offs h s t) (q : SwarmStep offs h t u) : SwarmStep offs h s u :=
  ⟨p.only.trans q.only, q.dup.trans p.dup, q.held.trans p.held, q.origins.trans p.origins⟩

theorem widen (p : SwarmStep offs h s t) (hsub : ∀ o ∈ offs, o ∈ offs') : SwarmStep offs' h s t := ⟨p.only.widen hsub, p.dup, p.held, p.origins⟩

theorem of_quiet (q : Quiet (SwarmReg offs) s t) : SwarmStep offs h s t := by
  refine ⟨trigsOnly_of_quiet q, ?_, ?_, ?_⟩ <;> rw [q.trig]

theorem count (s : State) {off : Nat} (ho : off < 2 ^ 12) (hm : off ∈ offs) : SwarmStep offs h s (s.count (swmPage h) off) :=
  of_quiet (quiet_count_swm h s ho hm)

theorem raise (s : State) (bits : Nat) (hm : Reg.SWM_EVENTS ∈ offs) : SwarmStep offs h s (raise s (swmPage h) Reg.SWM_EVENTS bits) :=
  of_quiet (quiet_raise_swm h s bits hm)

/-- Another field of a hive's trigger part changed, or a field of the other hive's. -/
theorem modHive (s : State) (k : HiveId) (g : Hive → Hive) (hg : ∀ x, g x = { x with trig := (g x).trig })
    (hk : h = k → ∀ x, (g x).trig.dup = x.trig.dup ∧ (g x).trig.held = x.trig.held ∧ (g x).trig.origins = x.trig.origins) :
    SwarmStep offs h s (s.modHive k g) := by
  have htrig := modHive_trig s k h g
  by_cases e : h = k
  · obtain ⟨hdup, hheld, horigins⟩ := hk e (s.hive k)
    rw [if_pos e] at htrig
    refine ⟨.modHive s k g hg, ?_, ?_, ?_⟩ <;> rw [htrig]
    · rw [hdup, e]
    · rw [hheld, e]
    · rw [horigins, e]
  · rw [if_neg e] at htrig
    refine ⟨.modHive s k g hg, ?_, ?_, ?_⟩ <;> rw [htrig]

theorem ite {p : Prop} [Decidable p] (x : p → SwarmStep offs h s t) (y : ¬ p → SwarmStep offs h s u) : SwarmStep offs h s (if p then t else u) := by
  split
  · rename_i hp; exact x hp
  · rename_i hp; exact y hp

end SwarmStep

/-! ### The receipt of a message (R208) -/

/-- The identity of a message: its origin and SHORT. -/
def msgId (w0 : W64) : BitVec 12 × BitVec 32 := (w0.extractLsb' 52 12, w0.extractLsb' 0 32)

/-- A message whose identity is in the duplicate memory of the active hive, or the device's own. -/
def MsgKnown (w0 : W64) (s : State) : Prop := (trigOf s).dup.contains (msgId w0) = true ∨ (msgId w0).1 = deviceAt s s.now

/-- What may be marked as a message is received, beside its count. -/
abbrev receiptOffs : List Nat := [Reg.CHIP_ID_CLASH_CNT, Reg.CHIP_SYS_EVENTS]

/-- A message counted: the duplicate memory of the other hive and a clash of identifiers. -/
def swarmSeen (w0 : W64) (s : State) : State :=
  let h := higherClaim s
  let own := deviceAt s s.now
  let u := s.count (swmPage h) Reg.SWM_RX_CNT
  let v := if (u.hive (otherHive h)).trig.dup.contains (msgId w0) ∨ (msgId w0).1 = own then u else dupAdd (otherHive h) (msgId w0) u
  if (msgId w0).1 = own ∧ !((v.hive h).trig.formed.contains (msgId w0).2) then idClash v else v

/-- A message that is new: in the duplicate memory, and on its way to the other peers. -/
def swarmPassed (lane : Nat) (w0 w1 : W64) (s : State) : State :=
  let h := higherClaim s
  let u := dupAdd h (msgId w0) (swarmSeen w0 s)
  if (w0.extractLsb' 50 2).toNat < 3 then sendSwarm h (forwarded w0 w1) (some lane) u else u

theorem idClash_quiet (s : State) : Quiet (SwarmReg receiptOffs) s (idClash s) := by
  have hclash : SwarmReg receiptOffs (rkey chipPage Reg.CHIP_ID_CLASH_CNT 0) := by unfold SwarmReg; decide
  have hevent : SwarmReg receiptOffs (rkey chipPage Reg.CHIP_SYS_EVENTS 0) := by unfold SwarmReg; decide
  exact (quiet_count s _ _ _ _ (.inr hclash)).trans (quiet_mono (raise_quiet _ _ _ _ (by decide)) fun _ hk => hk ▸ hevent)

theorem otherHive_ne (h : HiveId) : h ≠ otherHive h := by cases h <;> decide

/-- After its count, the receipt of a message leaves what the active hive knows of messages. -/
theorem swarmSeen_step (w0 : W64) (s : State) :
    SwarmStep receiptOffs (higherClaim s) (s.count (swmPage (higherClaim s)) Reg.SWM_RX_CNT) (swarmSeen w0 s) := by
  unfold swarmSeen
  extract_lets h own u v
  have hv : SwarmStep receiptOffs h u v := .ite (fun _ => .refl u) fun _ =>
    .modHive u _ _ (fun _ => rfl) fun e => absurd e (otherHive_ne h)
  exact hv.trans (.ite (fun _ => .of_quiet (idClash_quiet v)) fun _ => .refl v)

theorem sendSwarm_step (h : HiveId) (ws : List W64) (exc : Option Nat) (s : State) :
    SwarmStep [Reg.SWM_TX_DROP_CNT, Reg.SWM_EVENTS] h s (sendSwarm h ws exc s) := by
  refine .of_quiet (quiet_mono (sendSwarm_quiet h ws exc s) ?_)
  rintro k (rfl | rfl)
  · exact swarmReg_swm h (by decide) (by decide)
  · exact swarmReg_swm h (by decide) (by decide)

/-- What may be marked until a message is looked up among the origins. -/
abbrev passOffs : List Nat := [Reg.SWM_TX_DROP_CNT, Reg.SWM_EVENTS, Reg.CHIP_ID_CLASH_CNT, Reg.CHIP_SYS_EVENTS]

theorem dupAdd_effect {K : Nat → Prop} (h : HiveId) (id : BitVec 12 × BitVec 32) (s : State) :
    let t := dupAdd h id s
    TrigsOnly K s t ∧ (t.hive h).trig.held = (s.hive h).trig.held ∧ (t.hive h).trig.dup.getLast? = some id := by
  intro t
  have htrig : (t.hive h).trig = _ := (modHive_trig s h h _).trans (if_pos rfl)
  exact ⟨.modHive s h _ fun _ => rfl, (congrArg Trig.held htrig :), (congrArg (fun x => x.dup.getLast?) htrig).trans (List.getLast?_concat ..)⟩

theorem swarmPassed_effect (lane : Nat) (w0 w1 : W64) (s : State) :
    let h := higherClaim s
    let t := swarmPassed lane w0 w1 s
    TrigsOnly (SwarmReg passOffs) (s.count (swmPage h) Reg.SWM_RX_CNT) t ∧ (t.hive h).trig.held = (s.hive h).trig.held ∧
      (t.hive h).trig.dup.getLast? = some (msgId w0) := by
  unfold swarmPassed
  extract_lets h u t
  have hseen := swarmSeen_step w0 s
  obtain ⟨honly, hheld, hdup⟩ := dupAdd_effect (K := SwarmReg passOffs) h (msgId w0) (swarmSeen w0 s)
  have hsent : SwarmStep passOffs h u t := .ite (fun _ => (sendSwarm_step ..).widen (by decide)) fun _ => .refl u
  exact ⟨((hseen.only.widen (by decide)).trans honly).trans hsent.only, (hsent.held.trans hheld).trans hseen.held, by rw [hsent.dup, hdup]⟩

/-! ### What a message makes its origin (R209, R210, R211) -/

/-- An origin as a message tells it. -/
def Origin.heard (o : Origin) (w0 w1 : W64) (st : Nat) : Origin :=
  { o with
    state := st
    sync := (w0.extractLsb' 48 2).toNat
    bl := (w0.extractLsb' 44 4).toNat
    fp := w1.extractLsb' 48 16
    hops := (w0.extractLsb' 50 2).toNat }

/-- The origin entered, and the level that messages leave with follows it (R207). -/
def enterOrigin (h : HiveId) (n : Nat) (o : Origin) (s : State) : State :=
  updateLevel h (s.modHive h (fun x => { x with trig := { x.trig with origins := tset {} x.trig.origins n o } }))

/-- A message whose fingerprint is another, of an origin whose state was `old`. -/
def msgDiscordant (h : HiveId) (n old : Nat) (o : Origin) (s : State) : State :=
  let u := enterOrigin h n o (s.count (swmPage h) Reg.SWM_DISC_CNT)
  if old = 3 then u else raise u (swmPage h) Reg.SWM_EVENTS 1

/-- A message whose origin is not LOCKED or counts another frame. -/
def msgExcluded (h : HiveId) (n : Nat) (o : Origin) (s : State) : State := enterOrigin h n o (s.count (swmPage h) Reg.SWM_EXCL_CNT)

/-- A message that comes too late. -/
def msgLate (h : HiveId) (n : Nat) (o : Origin) (s : State) : State :=
  let u := enterOrigin h n o s
  let f := (u.hive h).tb.core.frame.toNat
  let v := u.modHive h (fun x => { x with trig := { x.trig with late := tset 0 x.trig.late f (tget 0 x.trig.late f + 1) } })
  raise (v.count (swmPage h) Reg.SWM_LATE_CNT) (swmPage h) Reg.SWM_EVENTS 2

/-- A message held for matching. -/
def msgHeld (h : HiveId) (n : Nat) (o : Origin) (tc : BitVec 32) (mult : Nat) (s : State) : State :=
  (enterOrigin h n o s).modHive h (fun x => { x with trig := { x.trig with
    held := x.trig.held ++ [⟨n, tc, mult⟩]
    origins := tset {} x.trig.origins n { tget {} x.trig.origins n with last := tc } } })

/-- A step of the swarm logic that leaves the messages and makes the origin of entry `n` `o`. -/
structure HeardAs (offs : List Nat) (h : HiveId) (n : Nat) (o : Origin) (s t : State) : Prop where
  only : TrigsOnly (SwarmReg offs) s t
  dup : (t.hive h).trig.dup = (s.hive h).trig.dup
  held : (t.hive h).trig.held = (s.hive h).trig.held
  origin : tget {} (t.hive h).trig.origins n = o

section
variable {offs : List Nat} {h : HiveId} {n : Nat} {o : Origin} {s t u : State}

theorem HeardAs.step (p : HeardAs offs h n o s t) (q : SwarmStep offs h t u) : HeardAs offs h n o s u :=
  ⟨p.only.trans q.only, q.dup.trans p.dup, q.held.trans p.held, by rw [q.origins, p.origin]⟩

theorem updateLevel_step (h : HiveId) (s : State) : SwarmStep [Reg.SWM_EVENTS] h s (updateLevel h s) := by
  unfold updateLevel
  extract_lets m old u
  have hu : SwarmStep [Reg.SWM_EVENTS] h s u := .modHive s h _ (fun _ => rfl) fun _ _ => ⟨rfl, rfl, rfl⟩
  exact hu.trans (.ite (fun _ => .raise u 16 (by decide)) fun _ => .refl u)

theorem enterOrigin_heard (h : HiveId) (n : Nat) (o : Origin) (s : State) : HeardAs [Reg.SWM_EVENTS] h n o s (enterOrigin h n o s) := by
  refine HeardAs.step ?_ (updateLevel_step h _)
  have htrig := (modHive_trig s h h (fun x => { x with trig := { x.trig with origins := tset {} x.trig.origins n o } })).trans (if_pos rfl)
  refine ⟨.modHive s h _ fun _ => rfl, ?_, ?_, ?_⟩ <;> rw [htrig]
  rw [tget_tset, if_pos rfl]

theorem msgDiscordant_heard (h : HiveId) (n old : Nat) (o : Origin) (s : State) :
    HeardAs [Reg.SWM_EVENTS] h n o (s.count (swmPage h) Reg.SWM_DISC_CNT) (msgDiscordant h n old o s) :=
  (enterOrigin_heard h n o _).step (.ite (fun _ => .refl _) fun _ => .raise _ 1 (by decide))

theorem msgExcluded_heard (h : HiveId) (n : Nat) (o : Origin) (s : State) :
    HeardAs [Reg.SWM_EVENTS] h n o (s.count (swmPage h) Reg.SWM_EXCL_CNT) (msgExcluded h n o s) := enterOrigin_heard h n o _

theorem HeardAs.widen {offs' : List Nat} (p : HeardAs offs h n o s t) (hsub : ∀ x ∈ offs, x ∈ offs') : HeardAs offs' h n o s t :=
  ⟨p.only.widen hsub, p.dup, p.held, p.origin⟩

theorem msgLate_heard (h : HiveId) (n : Nat) (o : Origin) (s : State) :
    let t := msgLate h n o s
    HeardAs [Reg.SWM_LATE_CNT, Reg.SWM_EVENTS] h n o s t ∧
      t.reg (swmPage h) Reg.SWM_LATE_CNT = satInc (s.reg (swmPage h) Reg.SWM_LATE_CNT) 1 ∧ Marked t (swmPage h) Reg.SWM_EVENTS 1 := by
  unfold msgLate
  extract_lets u f v t
  have hu := enterOrigin_heard h n o s
  have hv : SwarmStep [Reg.SWM_EVENTS] h u v := .modHive u h _ (fun _ => rfl) fun _ _ => ⟨rfl, rfl, rfl⟩
  have hraise : SwarmStep [Reg.SWM_EVENTS] h (v.count (swmPage h) Reg.SWM_LATE_CNT) t := .raise _ 2 (by decide)
  refine ⟨(((hu.step hv).widen (by decide)).step (.count v (by decide) (by decide))).step (hraise.widen (by decide)), ?_,
    raise_marked _ _ _ 1 (page_mod _ _ _) (noted_hivePage h 0x14 _ 0 (by decide) (by decide) (by decide)) (by decide)⟩
  rw [hraise.only.swmReg h _ 0 (by decide) (by decide) (by decide), count_reg, (hu.step hv).only.swmReg h _ 0 (by decide) (by decide) (by decide)]

theorem msgHeld_effect (h : HiveId) (n : Nat) (o : Origin) (tc : BitVec 32) (mult : Nat) (s : State) :
    let t := msgHeld h n o tc mult s
    TrigsOnly (SwarmReg [Reg.SWM_EVENTS]) s t ∧ (t.hive h).trig.dup = (s.hive h).trig.dup ∧
      (t.hive h).trig.held = (s.hive h).trig.held ++ [⟨n, tc, mult⟩] ∧ tget {} (t.hive h).trig.origins n = { o with last := tc } := by
  intro t
  have hu := enterOrigin_heard h n o s
  have htrig : (t.hive h).trig = _ := (modHive_trig (enterOrigin h n o s) h h _).trans (if_pos rfl)
  refine ⟨hu.only.trans (.modHive _ h _ fun _ => rfl), (congrArg Trig.dup htrig).trans hu.dup, ?_, ?_⟩
  · exact (congrArg Trig.held htrig).trans (congrArg (· ++ [_]) hu.held)
  · refine (congrArg (fun x => tget {} x.origins n) htrig).trans ((tget_tset ..).trans ((if_pos rfl).trans ?_))
    rw [hu.origin]

end

/-! ### A message in its steps (R208) -/

/-- The time of a message on the device's own scale, short and full (R209). -/
def msgTc (w0 : W64) (n : Nat) (s : State) : BitVec 32 := w0.extractLsb' 0 32 + swmCfg s Reg.SWM_ORG_OFFSET n
def msgTime (h : HiveId) (w0 : W64) (n : Nat) (s : State) : Int := s.fuOf h + shortDiff (msgTc w0 n s) (shortOf (s.fuOf h))

/-- A message of a listed origin, judged (R209 to R211). -/
def msgJudged (h : HiveId) (n : Nat) (w0 w1 : W64) (s : State) : State :=
  let old := tget {} (s.hive h).trig.origins n
  if w1.extractLsb' 48 16 ≠ fpFor s (msgTime h w0 n s) then msgDiscordant h n old.state (old.heard w0 w1 3) s
  else if (w0.extractLsb' 48 2).toNat ≠ 2 ∨ (frameDiff (w1.extractLsb' 0 40) (frameOf s (msgTime h w0 n s))).natAbs > 1 then
    msgExcluded h n (old.heard w0 w1 2) s
  else
    let u := enterOrigin h n (old.heard w0 w1 1) s
    if shortDiff (shortOf (s.fuOf h)) (msgTc w0 n s + BitVec.ofInt 32 (swDeadline u - swWin u)) > 0 then msgLate h n (old.heard w0 w1 1) s
    else msgHeld h n (old.heard w0 w1 1) (msgTc w0 n s) (w0.extractLsb' 32 11).toNat s

/-- A message of an origin that no entry names. -/
def msgUnknown (h : HiveId) (s : State) : State := raise (s.count (swmPage h) Reg.SWM_UNKNOWN_CNT) (swmPage h) Reg.SWM_EVENTS 4

/-- A new message looked up among the origins. -/
def msgSorted (h : HiveId) (own : BitVec 12) (w0 w1 : W64) (s : State) : State :=
  if !swEn s then s
  else match originEntry s own (msgId w0).1 with
    | none => msgUnknown h s
    | some n => msgJudged h n w0 w1 s

theorem swarmMessage_steps (lane : Nat) (ws : List W64) (s : State) :
    let h := higherClaim s
    let own := deviceAt s s.now
    let w0 := ws.getD 0 0
    let w1 := ws.getD 1 0
    let u := swarmSeen w0 s
    swarmMessage lane ws s =
      if (u.hive h).trig.dup.contains (msgId w0) ∨ (msgId w0).1 = own then u.count (swmPage h) Reg.SWM_DUP_CNT
      else msgSorted h own w0 w1 (swarmPassed lane w0 w1 s) := rfl

/-- What a message may count and mark after its own count. -/
abbrev messageOffs : List Nat :=
  [Reg.SWM_DUP_CNT, Reg.SWM_UNKNOWN_CNT, Reg.SWM_DISC_CNT, Reg.SWM_EXCL_CNT, Reg.SWM_LATE_CNT] ++ passOffs

section
variable (h : HiveId) (own : BitVec 12) (n : Nat) (w0 w1 : W64) (s : State)

theorem msgJudged_only :
    TrigsOnly (SwarmReg messageOffs) s (msgJudged h n w0 w1 s) ∧ ((msgJudged h n w0 w1 s).hive h).trig.dup = (s.hive h).trig.dup := by
  unfold msgJudged
  extract_lets old u
  have hcount {off : Nat} (ho : off < 2 ^ 12) (hm : off ∈ messageOffs) : SwarmStep messageOffs h s (s.count (swmPage h) off) := .count s ho hm
  split
  · have hheard := (msgDiscordant_heard h n old.state (old.heard w0 w1 3) s).widen (offs' := messageOffs) (by decide)
    exact ⟨(hcount (by decide) (by decide)).only.trans hheard.only, hheard.dup⟩
  · split
    · have hheard := (msgExcluded_heard h n (old.heard w0 w1 2) s).widen (offs' := messageOffs) (by decide)
      exact ⟨(hcount (by decide) (by decide)).only.trans hheard.only, hheard.dup⟩
    · split
      · obtain ⟨hheard, -, -⟩ := msgLate_heard h n (old.heard w0 w1 1) s
        exact ⟨hheard.only.widen (by decide), hheard.dup⟩
      · obtain ⟨honly, hdup, -, -⟩ := msgHeld_effect h n (old.heard w0 w1 1) (msgTc w0 n s) (w0.extractLsb' 32 11).toNat s
        exact ⟨honly.widen (by decide), hdup⟩

theorem msgUnknown_step : SwarmStep messageOffs h s (msgUnknown h s) :=
  (SwarmStep.count s (by decide) (by decide)).trans (.raise _ 4 (by decide))

theorem msgSorted_only :
    TrigsOnly (SwarmReg messageOffs) s (msgSorted h own w0 w1 s) ∧ ((msgSorted h own w0 w1 s).hive h).trig.dup = (s.hive h).trig.dup := by
  unfold msgSorted
  split
  · exact ⟨.refl s, rfl⟩
  · split
    · exact ⟨(msgUnknown_step h s).only, (msgUnknown_step h s).dup⟩
    · exact msgJudged_only h _ w0 w1 s

theorem msgUnknown_counts : (msgUnknown h s).reg (swmPage h) Reg.SWM_UNKNOWN_CNT = satInc (s.reg (swmPage h) Reg.SWM_UNKNOWN_CNT) 1 ∧
    Marked (msgUnknown h s) (swmPage h) Reg.SWM_EVENTS 2 := by
  refine ⟨?_, raise_marked _ _ _ 2 (page_mod _ _ _) (noted_hivePage h 0x14 _ 0 (by decide) (by decide) (by decide)) (by decide)⟩
  exact (raise_hive_reg _ h h 0 4 (by decide) (by decide) (by decide) (by decide) (by decide)).trans (count_reg ..)

end

/-! ### Settings as a message finds them -/

section
variable {offs : List Nat} {s t : State} (h : TrigsOnly (SwarmReg offs) s t)
include h

theorem TrigsOnly.swmSetting (off i : Nat) (ho : off < 2 ^ 12) (he : off ≠ Reg.EVT_COUNT) (hm : off ∉ offs) : swmCfg t off i = swmCfg s off i :=
  h.swmReg .a off i ho he hm

end

section
variable {s t : State} (h : TrigsOnly (SwarmReg (Reg.SWM_RX_CNT :: messageOffs)) s t)
include h

theorem swEn_kept : swEn t = swEn s := by
  unfold swEn
  rw [h.swmSetting _ _ (by decide) (by decide) (by decide)]

theorem originEntry_kept (own dev : BitVec 12) : originEntry t own dev = originEntry s own dev := by
  have hcfg : ∀ n, swmCfg t Reg.SWM_ORG_CFG n = swmCfg s Reg.SWM_ORG_CFG n := fun n => h.swmSetting _ n (by decide) (by decide) (by decide)
  unfold originEntry
  simp only [hcfg]

theorem msgTc_kept (w0 : W64) (n : Nat) : msgTc w0 n t = msgTc w0 n s := by
  unfold msgTc
  rw [h.swmSetting _ _ (by decide) (by decide) (by decide)]

theorem msgTime_kept (k : HiveId) (w0 : W64) (n : Nat) : msgTime k w0 n t = msgTime k w0 n s := by
  unfold msgTime
  rw [msgTc_kept h, h.fuOf]

theorem swDeadline_kept : swDeadline t = swDeadline s := by
  unfold swDeadline
  rw [h.swmSetting _ _ (by decide) (by decide) (by decide)]

theorem swWin_kept : swWin t = swWin s := by
  unfold swWin
  rw [h.swmSetting _ _ (by decide) (by decide) (by decide)]

end

end Sys2Proof.Machine

namespace Sys2Proof.Machine
open Sys2Proof.Claims

/-! ### The outcomes of a swarm message (R208 to R211) -/

section
variable {h : HiveId} {n : Nat} {w0 w1 : W64} {s : State}

/-- A message that agrees with the local fingerprint. -/
def MsgAgrees (h : HiveId) (n : Nat) (w0 w1 : W64) (s : State) : Prop := w1.extractLsb' 48 16 = fpFor s (msgTime h w0 n s)

/-- A message of a LOCKED origin that counts the frame of its time. -/
def MsgHere (h : HiveId) (n : Nat) (w0 w1 : W64) (s : State) : Prop :=
  (w0.extractLsb' 48 2).toNat = 2 ∧ (frameDiff (w1.extractLsb' 0 40) (frameOf s (msgTime h w0 n s))).natAbs ≤ 1

/-- A message that comes after the deadline of its time. -/
def MsgLate (h : HiveId) (n : Nat) (w0 : W64) (s : State) : Prop :=
  0 < shortDiff (shortOf (s.fuOf h)) (msgTc w0 n s + BitVec.ofInt 32 (swDeadline s - swWin s))

section
variable {t : State} (honly : TrigsOnly (SwarmReg (Reg.SWM_RX_CNT :: messageOffs)) s t)
include honly

theorem msgAgrees_kept : MsgAgrees h n w0 w1 t ↔ MsgAgrees h n w0 w1 s := by
  unfold MsgAgrees
  rw [honly.fpFor, msgTime_kept honly]

theorem msgHere_kept : MsgHere h n w0 w1 t ↔ MsgHere h n w0 w1 s := by
  unfold MsgHere
  rw [honly.frameOf, msgTime_kept honly]

theorem msgLate_kept : MsgLate h n w0 t ↔ MsgLate h n w0 s := by
  unfold MsgLate
  rw [honly.fuOf, msgTc_kept honly, swDeadline_kept honly, swWin_kept honly]

end

theorem msgJudged_discordant (ha : ¬ MsgAgrees h n w0 w1 s) :
    msgJudged h n w0 w1 s = msgDiscordant h n (tget {} (s.hive h).trig.origins n).state ((tget {} (s.hive h).trig.origins n).heard w0 w1 3) s :=
  if_pos ha

section
variable (ha : MsgAgrees h n w0 w1 s)
include ha

theorem msgJudged_excluded (hh : ¬ MsgHere h n w0 w1 s) :
    msgJudged h n w0 w1 s = msgExcluded h n ((tget {} (s.hive h).trig.origins n).heard w0 w1 2) s := by
  refine (if_neg (not_not_intro ha)).trans (if_pos ?_)
  unfold MsgHere at hh
  omega

variable (hh : MsgHere h n w0 w1 s)
include hh

/-- An origin that is ACTIVE: its message is late or held. -/
theorem msgJudged_active :
    let o := (tget {} (s.hive h).trig.origins n).heard w0 w1 1
    (MsgLate h n w0 s → msgJudged h n w0 w1 s = msgLate h n o s) ∧
      (¬ MsgLate h n w0 s → msgJudged h n w0 w1 s = msgHeld h n o (msgTc w0 n s) (w0.extractLsb' 32 11).toNat s) := by
  intro o
  have honly := (enterOrigin_heard h n o s).only.widen (offs' := Reg.SWM_RX_CNT :: messageOffs) (by decide)
  have hin : ¬ ((w0.extractLsb' 48 2).toNat ≠ 2 ∨ (frameDiff (w1.extractLsb' 0 40) (frameOf s (msgTime h w0 n s))).natAbs > 1) := by
    unfold MsgHere at hh
    omega
  have hlimit : swDeadline (enterOrigin h n o s) - swWin (enterOrigin h n o s) = swDeadline s - swWin s := by
    rw [swDeadline_kept honly, swWin_kept honly]
  have hlate : MsgLate h n w0 s ↔ shortDiff (shortOf (s.fuOf h))
      (msgTc w0 n s + BitVec.ofInt 32 (swDeadline (enterOrigin h n o s) - swWin (enterOrigin h n o s))) > 0 := by
    rw [hlimit]
    rfl
  exact ⟨fun hl => (if_neg (not_not_intro ha)).trans ((if_neg hin).trans (if_pos (hlate.1 hl))),
    fun hl => (if_neg (not_not_intro ha)).trans ((if_neg hin).trans (if_neg fun hl' => hl (hlate.2 hl')))⟩

end
end

section
variable {lane : Nat} {ws : List W64} {s : State}

theorem swarmSeen_known {w0 : W64} : ((swarmSeen w0 s).hive (higherClaim s)).trig.dup.contains (msgId w0) = true ∨ (msgId w0).1 = deviceAt s s.now ↔ MsgKnown w0 s := by
  rw [(swarmSeen_step w0 s).dup]
  rfl

theorem swarmMessage_known (hk : MsgKnown (ws.getD 0 0) s) :
    swarmMessage lane ws s = (swarmSeen (ws.getD 0 0) s).count (swmPage (higherClaim s)) Reg.SWM_DUP_CNT :=
  (swarmMessage_steps lane ws s).trans (if_pos (swarmSeen_known.2 hk))

theorem swarmMessage_new (hk : ¬ MsgKnown (ws.getD 0 0) s) :
    swarmMessage lane ws s =
      msgSorted (higherClaim s) (deviceAt s s.now) (ws.getD 0 0) (ws.getD 1 0) (swarmPassed lane (ws.getD 0 0) (ws.getD 1 0) s) :=
  (swarmMessage_steps lane ws s).trans (if_neg fun h => hk (swarmSeen_known.1 h))

/-- A lane whose accepted packet `x` has been taken. -/
def rxTaken (l : Nat) (x : RxPacket) (s : State) : State := s.modLane l (fun y => { y with rx := y.rx.erase x })

theorem rxTaken_lane (l : Nat) (x : RxPacket) (s : State) : ((rxTaken l x s).lane l).rx = (s.lane l).rx.erase x :=
  congrArg Lane.rx ((State.setLane_lane ..).trans (if_pos rfl))

theorem swarmReceive_taken {l : Nat} {x : RxPacket} (hx : (s.lane l).rx.find? (fun q => q.ptype = 5) = some x) :
    swarmReceive l s = swarmMessage l x.payload (rxTaken l x s) := by
  have htake : takeRx l 5 s = (rxTaken l x s, some x) := by
    unfold takeRx
    rw [hx]
    rfl
  unfold swarmReceive
  rw [htake]

theorem swarmMessage_only (lane : Nat) (ws : List W64) (s : State) :
    TrigsOnly (SwarmReg messageOffs) (s.count (swmPage (higherClaim s)) Reg.SWM_RX_CNT) (swarmMessage lane ws s) := by
  by_cases hk : MsgKnown (ws.getD 0 0) s
  · rw [swarmMessage_known hk]
    exact (((swarmSeen_step _ s).widen (by decide)).trans (.count _ (by decide) (by decide))).only
  · rw [swarmMessage_new hk]
    obtain ⟨honly, -, -⟩ := swarmPassed_effect lane (ws.getD 0 0) (ws.getD 1 0) s
    exact (honly.widen (by decide)).trans (msgSorted_only _ _ _ _ _).1

/-- What is counted of the message itself reads as before at the receipt. -/
theorem count_rx_reg (h : HiveId) {off : Nat} (ho : off < 2 ^ 12) (hne : off ≠ Reg.SWM_RX_CNT) :
    (s.count (swmPage h) Reg.SWM_RX_CNT).reg (swmPage h) off = s.reg (swmPage h) off :=
  setReg_reg_off s _ _ _ (page_mod _ _ _) (page_mod _ _ _) (by decide) ho hne

theorem swarmMessage_known_effect (hk : MsgKnown (ws.getD 0 0) s) :
    let h := higherClaim s
    let t := swarmMessage lane ws s
    t.reg (swmPage h) Reg.SWM_DUP_CNT = satInc (s.reg (swmPage h) Reg.SWM_DUP_CNT) 1 ∧ (t.hive h).trig.held = (s.hive h).trig.held := by
  intro h t
  have hseen := swarmSeen_step (ws.getD 0 0) s
  have ht : t = _ := swarmMessage_known hk
  rw [ht]
  refine ⟨?_, hseen.held⟩
  rw [count_reg, hseen.only.swmReg h _ 0 (by decide) (by decide) (by decide), count_rx_reg h (by decide) (by decide)]

/-- A message passed on, seen from the state before its receipt. -/
theorem swarmPassed_only (lane : Nat) (w0 w1 : W64) (s : State) : TrigsOnly (SwarmReg (Reg.SWM_RX_CNT :: passOffs)) s (swarmPassed lane w0 w1 s) :=
  (trigsOnly_of_quiet (quiet_count_swm (higherClaim s) s (by decide) (by decide))).trans ((swarmPassed_effect lane w0 w1 s).1.widen (by decide))

theorem msgSorted_listed {h : HiveId} {own : BitVec 12} {w0 w1 : W64} {r : Option Nat} (hen : swEn s = true) (horg : originEntry s own (msgId w0).1 = r) :
    msgSorted h own w0 w1 s = r.elim (msgUnknown h s) fun n => msgJudged h n w0 w1 s := by
  unfold msgSorted
  rw [hen, horg, if_neg (by decide)]
  cases r <;> rfl

section
variable (hk : ¬ MsgKnown (ws.getD 0 0) s)
include hk

theorem swarmMessage_new_dup : ((swarmMessage lane ws s).hive (higherClaim s)).trig.dup.getLast? = some (msgId (ws.getD 0 0)) := by
  obtain ⟨-, -, hdup⟩ := swarmPassed_effect lane (ws.getD 0 0) (ws.getD 1 0) s
  rw [swarmMessage_new hk, (msgSorted_only _ _ _ _ _).2, hdup]

variable (hen : swEn s = true)
include hen

/-- A new message looked up among the origins. -/
theorem swarmMessage_listed {r : Option Nat} (horg : originEntry s (deviceAt s s.now) (msgId (ws.getD 0 0)).1 = r) :
    let v := swarmPassed lane (ws.getD 0 0) (ws.getD 1 0) s
    swarmMessage lane ws s = r.elim (msgUnknown (higherClaim s) v) fun n => msgJudged (higherClaim s) n (ws.getD 0 0) (ws.getD 1 0) v := by
  intro v
  have honly := (swarmPassed_only lane (ws.getD 0 0) (ws.getD 1 0) s).widen (offs' := Reg.SWM_RX_CNT :: messageOffs) (by decide)
  rw [swarmMessage_new hk]
  exact msgSorted_listed ((swEn_kept honly).trans hen) ((originEntry_kept honly _ _).trans horg)

theorem swarmMessage_unknown (horg : originEntry s (deviceAt s s.now) (msgId (ws.getD 0 0)).1 = none) :
    let h := higherClaim s
    let t := swarmMessage lane ws s
    t.reg (swmPage h) Reg.SWM_UNKNOWN_CNT = satInc (s.reg (swmPage h) Reg.SWM_UNKNOWN_CNT) 1 ∧ Marked t (swmPage h) Reg.SWM_EVENTS 2 := by
  intro h t
  have ht : t = msgUnknown h _ := swarmMessage_listed hk hen horg
  obtain ⟨hcount, hmark⟩ := msgUnknown_counts h (swarmPassed lane (ws.getD 0 0) (ws.getD 1 0) s)
  rw [(swarmPassed_only lane _ _ s).swmReg h _ 0 (by decide) (by decide) (by decide)] at hcount
  rw [ht]
  exact ⟨hcount, hmark⟩

/-- A message of the origin of entry `n`: another fingerprint, another frame, too late or held. -/
theorem swarmMessage_judged {n : Nat} (horg : originEntry s (deviceAt s s.now) (msgId (ws.getD 0 0)).1 = some n) :
    let h := higherClaim s
    let w0 := ws.getD 0 0
    let w1 := ws.getD 1 0
    let t := swarmMessage lane ws s
    let x := (t.hive h).trig
    (¬ MsgAgrees h n w0 w1 s → x.held = (s.hive h).trig.held ∧ (tget {} x.origins n).state = 3 ∧
        t.reg (swmPage h) Reg.SWM_DISC_CNT = satInc (s.reg (swmPage h) Reg.SWM_DISC_CNT) 1) ∧
      (MsgAgrees h n w0 w1 s → ¬ MsgHere h n w0 w1 s → x.held = (s.hive h).trig.held ∧ (tget {} x.origins n).state = 2 ∧
        t.reg (swmPage h) Reg.SWM_EXCL_CNT = satInc (s.reg (swmPage h) Reg.SWM_EXCL_CNT) 1) ∧
      (MsgAgrees h n w0 w1 s → MsgHere h n w0 w1 s → MsgLate h n w0 s → x.held = (s.hive h).trig.held ∧ (tget {} x.origins n).state = 1 ∧
        t.reg (swmPage h) Reg.SWM_LATE_CNT = satInc (s.reg (swmPage h) Reg.SWM_LATE_CNT) 1 ∧ Marked t (swmPage h) Reg.SWM_EVENTS 1) ∧
      (MsgAgrees h n w0 w1 s → MsgHere h n w0 w1 s → ¬ MsgLate h n w0 s →
        x.held = (s.hive h).trig.held ++ [⟨n, msgTc w0 n s, (w0.extractLsb' 32 11).toNat⟩] ∧ (tget {} x.origins n).state = 1 ∧
        (tget {} x.origins n).last = msgTc w0 n s) := by
  intro h w0 w1 t x
  have ht : t = msgJudged h n w0 w1 (swarmPassed lane w0 w1 s) := swarmMessage_listed hk hen horg
  have hpassed := swarmPassed_only lane w0 w1 s
  have honly := hpassed.widen (offs' := Reg.SWM_RX_CNT :: messageOffs) (by decide)
  have hheld : ((swarmPassed lane w0 w1 s).hive h).trig.held = (s.hive h).trig.held := (swarmPassed_effect lane w0 w1 s).2.1
  have hagrees := msgAgrees_kept (h := h) (n := n) (w0 := w0) (w1 := w1) honly
  have hhere := msgHere_kept (h := h) (n := n) (w0 := w0) (w1 := w1) honly
  have hlate := msgLate_kept (h := h) (n := n) (w0 := w0) honly
  have htc := msgTc_kept honly w0 n
  have hreg (off : Nat) (ho : off < 2 ^ 12) (he : off ≠ Reg.EVT_COUNT) (hm : off ∉ Reg.SWM_RX_CNT :: passOffs) :=
    hpassed.swmReg h off 0 ho he hm
  rw [← hagrees, ← hhere, ← hlate, ← htc, ← hheld]
  generalize swarmPassed lane w0 w1 s = v at ht hreg
  refine ⟨fun ha => ?_, fun ha hh => ?_, fun ha hh hl => ?_, fun ha hh hl => ?_⟩
  · rw [msgJudged_discordant ha] at ht
    have hheard := msgDiscordant_heard h n (tget {} (v.hive h).trig.origins n).state ((tget {} (v.hive h).trig.origins n).heard w0 w1 3) v
    rw [← ht] at hheard
    refine ⟨hheard.held, congrArg Origin.state hheard.origin, ?_⟩
    rw [hheard.only.swmReg h _ 0 (by decide) (by decide) (by decide), count_reg, hreg _ (by decide) (by decide) (by decide)]
  · rw [msgJudged_excluded ha hh] at ht
    have hheard := msgExcluded_heard h n ((tget {} (v.hive h).trig.origins n).heard w0 w1 2) v
    rw [← ht] at hheard
    refine ⟨hheard.held, congrArg Origin.state hheard.origin, ?_⟩
    rw [hheard.only.swmReg h _ 0 (by decide) (by decide) (by decide), count_reg, hreg _ (by decide) (by decide) (by decide)]
  · rw [(msgJudged_active ha hh).1 hl] at ht
    obtain ⟨hheard, hcount, hmark⟩ := msgLate_heard h n ((tget {} (v.hive h).trig.origins n).heard w0 w1 1) v
    rw [← ht] at hheard hcount hmark
    rw [hreg _ (by decide) (by decide) (by decide)] at hcount
    exact ⟨hheard.held, congrArg Origin.state hheard.origin, hcount, hmark⟩
  · rw [(msgJudged_active ha hh).2 hl] at ht
    obtain ⟨-, -, hadded, horigin⟩ := msgHeld_effect h n ((tget {} (v.hive h).trig.origins n).heard w0 w1 1) (msgTc w0 n v) (w0.extractLsb' 32 11).toNat v
    rw [← ht] at hadded horigin
    exact ⟨hadded, congrArg Origin.state horigin, congrArg Origin.last horigin⟩

end
end

/-- Messages held whose time has passed go (R208). -/
theorem swarmExpiry_effect (s : State) :
    (trigOf (swarmExpiry s)).held = (trigOf s).held.filter
        (fun m => decide (shortDiff (shortOf s.now) (m.tc + BitVec.ofInt 32 (swWin s + swDeadline s)) ≤ 0)) ∧
      swarmExpiry s = TrigOnly s (swarmExpiry s) := by
  unfold swarmExpiry
  extract_lets h now
  refine ⟨?_, by cases h <;> rfl⟩
  rw [trigOf_of_active (TrigsOnly.modHive (K := TrigReg) s h _ fun _ => rfl).higherClaim]
  exact (congrArg Trig.held ((modHive_trig ..).trans (if_pos rfl)) :)

end Sys2Proof.Machine

section
open Sys2Proof Sys2Proof.Machine Sys2Proof.Claims

/-- Settles O19: the message is counted and looked up, and each of its outcomes is one of the model's steps; what those steps count and mark
leaves the settings that a later step reads. -/
theorem swarmMessages : Obligations.SwarmMessages := by
  unfold Obligations.SwarmMessages
  refine ⟨fun l x s hx => ?_, fun s => ?_⟩
  · have honly := swarmMessage_only l.val x.payload (rxTaken l.val x s)
    have hactive : higherClaim (swarmMessage l.val x.payload (rxTaken l.val x s)) = higherClaim s := honly.higherClaim
    refine runs_of_done (congrArg (done s) (swarmReceive_taken hx)) honly.pending ?_
    rw [trigOf_of_active hactive]
    refine ⟨?_, ?_, fun hk => swarmMessage_known_effect hk, fun hk => swarmMessage_new_dup hk, fun hk hen horg => swarmMessage_unknown hk hen horg,
      fun n hk hen horg => swarmMessage_judged (s := rxTaken l.val x s) hk hen horg⟩
    · unfold State.lane
      rw [honly.lanes]
      exact rxTaken_lane ..
    · exact (honly.swmReg _ _ 0 (by decide) (by decide) (by decide)).trans (count_reg ..)
  · obtain ⟨hheld, honly⟩ := swarmExpiry_effect s
    refine runs_of_done rfl (congrArg State.pending honly :) ⟨fun m => ?_, honly⟩
    rw [hheld, List.mem_filter, decide_eq_true_iff]

end

/-! ### Frame building and compression (07_frames_compression.md) -/

namespace Sys2Proof.Machine
open Sys2Proof.Claims

/-! ### What accesses to the store, queue 0 and the delivery of events leave of the output stage -/

/-- What of the hives an access to the store of hive `h`, an operation of its queue 0 and the delivery of events leave alone: the other hive,
and of the hive itself the frames in the making, the placement and every queue but queue 0. -/
structure Apart where
  other : Hive
  fr : Framer
  place : Place
  queue : Nat → Queue

def State.apart (s : State) (h : HiveId) : Apart :=
  { other := s.hive (otherHive h), fr := s.fr h, place := (s.hive h).place, queue := fun q => if q = 0 then {} else s.queue h q }

section
variable (s : State) (h : HiveId)

@[simp] theorem apart_ite (p : Prop) [Decidable p] (a b : State) : (if p then a else b).apart h = if p then a.apart h else b.apart h :=
  apply_ite (State.apart · h) p a b

@[simp] theorem apart_setReg (pg off : Nat) (v : W32) (i : Nat) : (s.setReg pg off v i).apart h = s.apart h := by cases h <;> rfl
@[simp] theorem apart_count (pg off n i : Nat) : (s.count pg off n i).apart h = s.apart h := apart_setReg ..
@[simp] theorem apart_setWorker (w : Nat) (x : Worker) : (s.setWorker w x).apart h = s.apart h := by cases h <;> rfl
@[simp] theorem clock_modSource (g src : Nat) (f : Source → Source) : (s.modSource g src f).clock = s.clock := rfl
@[simp] theorem apart_modSource (g src : Nat) (f : Source → Source) : (s.modSource g src f).apart h = s.apart h := by cases h <;> rfl
@[simp] theorem apart_free : s.free.2.apart h = s.apart h := by cases h <;> rfl

/-- A hive put with the parts it had. -/
@[simp] theorem apart_setHive (x : Hive) (hf : x.fr = (s.hive h).fr) (hp : x.place = (s.hive h).place) (hq : x.queues = (s.hive h).queues) :
    (s.setHive h x).apart h = s.apart h := by
  unfold State.apart State.fr State.queue
  rw [State.setHive_hive, State.setHive_hive, if_neg (otherHive_ne h).symm, if_pos rfl, hf, hp, hq]

@[simp] theorem apart_modHoney (f : Honey → Honey) : (s.modHoney h f).apart h = s.apart h := apart_setHive s h _ rfl rfl rfl

theorem apart_setCaches (c : Tab (List CLine)) : (s.setHive h { s.hive h with caches := c }).apart h = s.apart h := apart_setHive s h _ rfl rfl rfl

@[simp] theorem apart_modQueue (f : Queue → Queue) : (s.modQueue h 0 f).apart h = s.apart h := by
  unfold State.apart State.fr State.queue State.modQueue
  rw [State.modHive_eq, State.setHive_hive, State.setHive_hive, if_neg (otherHive_ne h).symm, if_pos rfl]
  simp only [tget_tset]
  congr 1
  funext q
  split <;> rfl

/-- A fold each step of which leaves these parts. -/
theorem apart_foldl {α β : Type} (l : List α) (f : State × β → α → State × β) (hf : ∀ p x, (f p x).1.apart h = p.1.apart h) (p : State × β) :
    (l.foldl f p).1.apart h = p.1.apart h := by
  induction l generalizing p with
  | nil => rfl
  | cons x l ih => exact (ih _).trans (hf p x)

@[simp] theorem apart_logAdd (e : LogEnt) : (logAdd s h e).1.apart h = s.apart h := by
  unfold logAdd; dsimp only; split
  · simp
  · split
    · simp
    · split <;> simp

@[simp] theorem apart_bucketAdd (bank : Nat) : (bucketAdd s h bank).1.apart h = s.apart h := by
  unfold bucketAdd; dsimp only; split <;> simp

@[simp] theorem apart_makePoison (agent w : Nat) (x : W64) : (makePoison s h agent w x).1.apart h = s.apart h := by
  unfold makePoison; simp

@[simp] theorem apart_correctable (agent w pos : Nat) : (correctable s h agent w pos).1.apart h = s.apart h := by
  unfold correctable; simp

@[simp] theorem apart_retiredAccess (agent w : Nat) : (retiredAccess s h agent w).1.apart h = s.apart h := by
  unfold retiredAccess; simp

@[simp] theorem apart_storeRead (agent w : Nat) : (storeRead s h agent w).1.apart h = s.apart h := by
  unfold storeRead; dsimp only; split
  · simp
  · split
    · simp
    · split
      · simp
      · simp
      · split
        · simp
        · simp
        · split <;> simp

@[simp] theorem apart_storeWrite (agent w : Nat) (x : W64) (p : Bool) : (storeWrite s h agent w x p).1.apart h = s.apart h := by
  unfold storeWrite; dsimp only; split <;> simp

@[simp] theorem apart_backLine (c : CLine) : (backLine s h c).1.apart h = s.apart h :=
  apart_foldl (β := List Ev) h _ _ (fun p _ => apart_storeWrite p.1 h _ _ _ _) (s, [])

theorem apart_backAll (hs : List (Nat × CLine)) :
    (hs.foldl (fun (p : State × List Ev) (x : Nat × CLine) =>
      if x.2.state = .m then ((backLine p.1 h x.2).1, p.2 ++ (backLine p.1 h x.2).2) else (p.1, p.2)) (s, [])).1.apart h = s.apart h := by
  refine apart_foldl h _ _ (fun p x => ?_) (s, [])
  split
  · exact apart_backLine p.1 h x.2
  · rfl

@[simp] theorem apart_recallRead (line : Nat) : (recallRead s h line).1.apart h = s.apart h := by
  unfold recallRead; split
  · rfl
  · exact (apart_setCaches _ h _).trans (apart_backAll s h (holders s h line))

@[simp] theorem apart_recallInv (line : Nat) : (recallInv s h line).1.apart h = s.apart h := by
  unfold recallInv; split
  · rfl
  · exact (apart_setCaches _ h _).trans (apart_backAll s h (holders s h line))

@[simp] theorem apart_hReadE (agent w : Nat) : (hReadE s h agent w).1.apart h = s.apart h := by
  unfold hReadE; simp

@[simp] theorem apart_hWriteE (agent w : Nat) (x : W64) : (hWriteE s h agent w x).1.apart h = s.apart h := by
  unfold hWriteE; simp

@[simp] theorem apart_putPtr (q i : Nat) (p : BitVec 32) : (putPtr s h q i p).1.apart h = s.apart h := by
  unfold putPtr; simp

@[simp] theorem apart_dropOpen (r : Nat) : (dropOpen s h 0 r).apart h = s.apart h := by
  unfold dropOpen; dsimp only; split
  · split <;> simp [-State.modHive_eq]
  · simp

@[simp] theorem apart_qResetE (host : Bool) : (qResetE s h 0 host).1.apart h = s.apart h := by
  unfold qResetE frameQueueReset; simp

@[simp] theorem apart_qDescHead : (qDescHead s h 0).1.apart h = s.apart h := by
  unfold qDescHead; dsimp only; split <;> simp

@[simp] theorem apart_closeOpen (p : BitVec 32) : (closeOpen s h 0 p).1.apart h = s.apart h := by
  unfold closeOpen; split <;> simp

@[simp] theorem apart_qDescE : (qDescE s h 0).1.apart h = s.apart h := by
  unfold qDescE; dsimp only; split
  · simp
  · split <;> simp

@[simp] theorem apart_qReserveE (n : Nat) : (qReserveE s h 0 .device n).1.apart h = s.apart h := by
  unfold qReserveE takeOwed
  dsimp only
  repeat' split
  all_goals simp

@[simp] theorem apart_rewindE (d : Desc) : (rewindE s h 0 d).1.apart h = s.apart h := by
  unfold rewindE; simp

@[simp] theorem apart_qWriteE (w : W64) : (qWriteE s h 0 .device w).1.apart h = s.apart h := by
  unfold qWriteE takeOwed
  dsimp only
  repeat' split
  all_goals simp

@[simp] theorem apart_qCommitE : (qCommitE s h 0 .device).1.apart h = s.apart h := by
  unfold qCommitE takeOwed
  dsimp only
  repeat' split
  all_goals simp

@[simp] theorem apart_qWriteList (ws : List W64) : (qWriteList h 0 .device ws s).1.apart h = s.apart h := by
  induction ws generalizing s with
  | nil => rfl
  | cons w ws ih => unfold qWriteList; dsimp only; split <;> simp [ih]

@[simp] theorem apart_qPutE (ws : List W64) : (qPutE s h 0 .device ws).1.apart h = s.apart h := by
  unfold qPutE; dsimp only; split
  · simp
  · split <;> simp

@[simp] theorem apart_noticePut (w : W64 × W64) : (noticePut s h w).1.apart h = s.apart h := by
  unfold noticePut; dsimp only; split <;> simp

theorem apart_noticeE (pg off bits : Nat) : (noticeE s pg off bits).1.apart (higherClaim s) = s.apart (higherClaim s) := by
  unfold noticeE traceAdd; simp

theorem apart_raiseE (pg off bits : Nat) : (raiseE s pg off bits).1.apart (higherClaim s) = s.apart (higherClaim s) := by
  unfold raiseE; dsimp only; split
  · simp
  · exact (apart_noticeE _ _ _ _).trans (by simp [higherClaim_eq])

theorem apart_severeE (g src : Nat) : (severeE s g src).1.apart (higherClaim s) = s.apart (higherClaim s) := by
  unfold severeE; dsimp only; split
  · rfl
  · split <;> simp

theorem apart_guardE (g src : Nat) : (guardE s g src).1.apart (higherClaim s) = s.apart (higherClaim s) := by
  unfold guardE; dsimp only; split
  · rfl
  · split
    · exact (apart_severeE _ _ _).trans (by simp [higherClaim_eq])
    · simp

theorem raiseE_higherClaim (pg off bits : Nat) : higherClaim (raiseE s pg off bits).1 = higherClaim s := by
  unfold raiseE; dsimp only; split
  · rfl
  · exact (noticeE_quiet (K := fun _ => False) _ _ _ _).higherClaim

/-- The delivery of events leaves these parts of the active hive. -/
theorem apart_deliver (n : Nat) (es : List Ev) : (deliver n s es).apart (higherClaim s) = s.apart (higherClaim s) := by
  induction n generalizing s es with
  | zero => unfold deliver; rfl
  | succ n ih =>
    cases es with
    | nil => unfold deliver; rfl
    | cons e es =>
      cases e with
      | raise pg off bits =>
        unfold deliver
        have hrest := ih (raiseE s pg off bits).1 (es ++ (raiseE s pg off bits).2)
        rw [raiseE_higherClaim] at hrest
        exact hrest.trans (apart_raiseE s pg off bits)
      | guard g src =>
        unfold deliver
        have hrest := ih (guardE s g src).1 (es ++ (guardE s g src).2)
        rw [(guardE_quiet (K := fun _ => False) s g src).higherClaim] at hrest
        exact hrest.trans (apart_guardE s g src)

end

end Sys2Proof.Machine

namespace Sys2Proof.Machine
open Sys2Proof.Claims

/-! ### Accesses to open and undamaged words of a honey store (13_memory.md R411, R419) -/

section
variable {s t : State} {h : HiveId} {w : Nat} {x : W64}

theorem modHoney_self {f : Honey → Honey} (hf : f (s.honey h) = s.honey h) : s.modHoney h f = s := by
  have hx : { s.hive h with honey := f (s.hive h).honey } = s.hive h := congrArg (fun y => { s.hive h with honey := y }) hf
  unfold State.modHoney
  rw [State.modHive_eq, hx]
  cases h <;> rfl

theorem writeBack_open (ho : WordOpen s h w) : s.modHoney h writeBack = s := by
  obtain ⟨-, -, hback⟩ := ho
  refine modHoney_self ?_
  unfold writeBack
  rw [hback]

/-- A word that reads undamaged is read without an event. -/
theorem storeRead_reads (hr : WordReads s h w x) (agent : Nat) : storeRead s h agent w = (s, [], x, false) := by
  obtain ⟨hopen, hmerged, hstored⟩ := hr
  obtain ⟨-, hretired, -⟩ := id hopen
  unfold storeRead
  dsimp only
  rw [writeBack_open hopen, hretired]
  cases hm : (s.honey h).merge.find? (fun m => m.waddr = w) with
  | some m => simp [hmerged m hm]
  | none =>
    obtain (⟨hst, herr, hdata⟩ | ⟨hst, hx⟩) := hstored hm
    · simp [hst, herr, hdata]
    · simp [hst, hx]

theorem hReadE_reads (hr : WordReads s h w x) (agent : Nat) : hReadE s h agent w = (s, [], x, false) := by
  obtain ⟨⟨hheld, -⟩, -⟩ := id hr
  unfold hReadE recallRead
  rw [hheld]
  dsimp only
  rw [storeRead_reads hr]
  rfl

/-- A word written in full, its entry of the merge buffer dropped. -/
def State.putWord (s : State) (h : HiveId) (w : Nat) (x : W64) : State :=
  s.modHoney h (fun y => { y.put w x .valid with merge := y.merge.filter (fun m => m.waddr ≠ w) })

/-- An open word is written without an event. -/
theorem hWriteE_open (ho : WordOpen s h w) (agent : Nat) (x : W64) : hWriteE s h agent w x = (s.putWord h w x, [], false) := by
  obtain ⟨hheld, hretired, -⟩ := id ho
  unfold hWriteE recallInv storeWrite
  rw [hheld]
  dsimp only
  rw [writeBack_open ho, hretired]
  rfl

/-- States with the same store, caches and start of hive `h`. -/
structure SameStore (h : HiveId) (s t : State) : Prop where
  honey : t.honey h = s.honey h
  caches : (t.hive h).caches = (s.hive h).caches
  started : t.chip.started = s.chip.started

theorem SameStore.opened (hs : SameStore h s t) (ho : WordOpen s h w) : WordOpen t h w := by
  unfold WordOpen holders at *
  rw [hs.honey, hs.caches]
  exact ho

theorem SameStore.reads (hs : SameStore h s t) (hr : WordReads s h w x) : WordReads t h w x := by
  obtain ⟨ho, hr⟩ := hr
  refine ⟨hs.opened ho, ?_⟩
  unfold unwritten
  rw [hs.honey, hs.started]
  exact hr

theorem SameStore.queueAt (hs : SameStore h s t) {q : Nat} {d0 : W64} {hd tl rs : BitVec 32} (hq : QueueAt s h q d0 hd tl rs) :
    QueueAt t h q d0 hd tl rs := by
  obtain ⟨h0, h1, h2, h3⟩ := hq
  exact ⟨hs.reads h0, hs.reads h1, hs.reads h2, hs.reads h3⟩

theorem sameStore_setHive (s : State) (h : HiveId) (y : Hive) (hh : y.honey = (s.hive h).honey) (hc : y.caches = (s.hive h).caches) :
    SameStore h s (s.setHive h y) := by
  refine ⟨?_, ?_, by rw [State.setHive_chip]⟩
  · unfold State.honey; rw [State.setHive_hive, if_pos rfl, hh]
  · rw [State.setHive_hive, if_pos rfl, hc]

theorem sameStore_modQueue (s : State) (h : HiveId) (q : Nat) (f : Queue → Queue) : SameStore h s (s.modQueue h q f) :=
  sameStore_setHive s h _ rfl rfl

@[simp] theorem putWord_honey (s : State) (h : HiveId) (w : Nat) (x : W64) :
    (s.putWord h w x).honey h = { (s.honey h).put w x .valid with merge := (s.honey h).merge.filter (fun m => m.waddr ≠ w) } := by
  cases h <;> rfl

theorem putWord_opened (w' : Nat) (ho : WordOpen s h w') : WordOpen (s.putWord h w x) h w' := by
  unfold WordOpen at *
  rw [putWord_honey]
  cases h <;> exact ho

/-- A word written reads as it was written. -/
theorem putWord_reads (ho : WordOpen s h w) : WordReads (s.putWord h w x) h w x := by
  have hmerge : (((s.putWord h w x).honey h).merge.find? (fun m => m.waddr = w)) = none := by
    rw [putWord_honey]
    simp [List.find?_eq_none]
  refine ⟨putWord_opened w ho, fun m hm => ?_, fun _ => .inl ⟨?_, ?_, ?_⟩⟩
  · rw [hmerge] at hm; cases hm
  · rw [putWord_honey]; simp [Honey.stateOf, Honey.put]
  · rw [putWord_honey]; simp [Honey.put]
  · rw [putWord_honey]
    unfold Honey.data Honey.put
    rw [Memory.getN_setN]
    exact BitVec.eq_of_toNat_eq (by rw [BitVec.toNat_ofNat]; omega)

/-- Bytes written elsewhere leave the number read. -/
theorem Memory.getN_setN_out (m : Memory) (a n x b k : Nat) (hd : b + k ≤ a ∨ a + n ≤ b) : (m.setN a n x).getN b k = m.getN b k := by
  induction k generalizing b with
  | zero => rfl
  | succ k ih => rw [Memory.getN, Memory.getN, Memory.get_setN_out _ _ _ _ _ (by omega), ih _ (by omega)]

theorem find?_filter_waddr (l : List MergeEnt) {w w' : Nat} (hne : w' ≠ w) :
    (l.filter (fun m => m.waddr ≠ w)).find? (fun m => m.waddr = w') = l.find? (fun m => m.waddr = w') := by
  rw [List.find?_filter]
  congr 1
  funext m
  by_cases hm : m.waddr = w'
  · simp [hm, hne]
  · simp [hm]

/-- A word written leaves what every other word reads. -/
theorem putWord_reads_other {w' : Nat} {y : W64} (hne : w' ≠ w) (hr : WordReads s h w' y) : WordReads (s.putWord h w x) h w' y := by
  obtain ⟨ho, hr⟩ := hr
  have hdata : ((s.putWord h w x).honey h).data w' = (s.honey h).data w' := by
    rw [putWord_honey]
    unfold Honey.data Honey.put
    rw [Memory.getN_setN_out _ _ _ _ _ _ (by omega)]
  have hstate : ((s.putWord h w x).honey h).stateOf w' = (s.honey h).stateOf w' := by
    rw [putWord_honey]
    simp [Honey.stateOf, Honey.put, hne]
  have herr : tget [] ((s.putWord h w x).honey h).err w' = tget [] (s.honey h).err w' := by
    rw [putWord_honey]
    simp [Honey.put, hne]
  have hmerge : ((s.putWord h w x).honey h).merge.find? (fun m => m.waddr = w') = (s.honey h).merge.find? (fun m => m.waddr = w') := by
    rw [putWord_honey]
    exact find?_filter_waddr _ hne
  have hunwritten : unwritten (s.putWord h w x) w' = unwritten s w' := by cases h <;> rfl
  refine ⟨putWord_opened w' ho, ?_⟩
  rw [hdata, hstate, herr, hmerge, hunwritten]
  exact hr

end

/-! ### Descriptors that stand undamaged (08_queues_placement.md R262, R265) -/

/-- Of the state only the store and the queues of hive `h` may differ, and no open word has closed. -/
structure StoreOnly (h : HiveId) (s t : State) : Prop where
  eq : t = s.setHive h { s.hive h with honey := (t.hive h).honey, queues := (t.hive h).queues }
  opened : ∀ w, WordOpen s h w → WordOpen t h w

theorem StoreOnly.refl (h : HiveId) (s : State) : StoreOnly h s s := ⟨by cases h <;> rfl, fun _ ho => ho⟩

theorem StoreOnly.trans {h : HiveId} {s t u : State} (a : StoreOnly h s t) (b : StoreOnly h t u) : StoreOnly h s u := by
  refine ⟨?_, fun w ho => b.opened w (a.opened w ho)⟩
  rw [b.eq, a.eq]
  cases h <;> rfl

theorem storeOnly_putWord (h : HiveId) (s : State) (w : Nat) (x : W64) : StoreOnly h s (s.putWord h w x) :=
  ⟨by cases h <;> rfl, fun _ => putWord_opened _⟩

theorem storeOnly_modQueue (h : HiveId) (s : State) (q : Nat) (f : Queue → Queue) : StoreOnly h s (s.modQueue h q f) :=
  ⟨by cases h <;> rfl, fun _ => (sameStore_modQueue s h q f).opened⟩

@[simp] theorem putWord_queue (s : State) (h : HiveId) (w : Nat) (x : W64) (q : Nat) : (s.putWord h w x).queue h q = s.queue h q := by
  cases h <;> rfl

@[simp] theorem modQueue_queue (s : State) (h : HiveId) (q : Nat) (f : Queue → Queue) : (s.modQueue h q f).queue h q = f (s.queue h q) := by
  unfold State.queue State.modQueue
  rw [State.modHive_eq, State.setHive_hive, if_pos rfl]
  simp

section
variable {s : State} {h : HiveId} {q : Nat} {d0 : W64} {hd tl rs : BitVec 32}

theorem ptrWord_low (p : BitVec 32) : (ptrWord p).extractLsb' 0 32 = p := by
  unfold ptrWord
  rw [BitVec.extractLsb'_append_eq_of_add_le (by decide)]
  simp

theorem ptrWord_high (p : BitVec 32) : (ptrWord p).extractLsb' 32 32 = p := by
  unfold ptrWord
  rw [BitVec.extractLsb'_append_eq_of_le (by decide)]
  simp

/-- An undamaged descriptor is found as it stands. -/
theorem qDescE_at (hq : QueueAt s h q d0 hd tl rs) : qDescE s h q = (s, [], ⟨d0, hd, tl, rs⟩) := by
  obtain ⟨h0, h1, h2, h3⟩ := hq
  unfold qDescE qDescHead
  simp [hReadE_reads h0, hReadE_reads h1, hReadE_reads h2, hReadE_reads h3, ptrGood, ptrWord_low, ptrWord_high]

theorem putPtr_at {i : Nat} (ho : WordOpen s h (4 * q + i)) (p : BitVec 32) : putPtr s h q i p = (s.putWord h (4 * q + i) (ptrWord p), []) := by
  unfold putPtr
  rw [hWriteE_open ho]

theorem queueAt_resvOpen (hq : QueueAt s h q d0 hd tl rs) : WordOpen s h (4 * q + 3) := by
  obtain ⟨-, -, -, ho, -⟩ := hq
  exact ho

theorem queueAt_tailOpen (hq : QueueAt s h q d0 hd tl rs) : WordOpen s h (4 * q + 2) := by
  obtain ⟨-, -, ⟨ho, -⟩, -⟩ := hq
  exact ho

/-- RESV written. -/
theorem queueAt_putResv (hq : QueueAt s h q d0 hd tl rs) (p : BitVec 32) : QueueAt (s.putWord h (4 * q + 3) (ptrWord p)) h q d0 hd tl p := by
  obtain ⟨h0, h1, h2, -⟩ := id hq
  exact ⟨putWord_reads_other (by omega) h0, putWord_reads_other (by omega) h1, putWord_reads_other (by omega) h2, putWord_reads (queueAt_resvOpen hq)⟩

/-- TAIL written. -/
theorem queueAt_putTail (hq : QueueAt s h q d0 hd tl rs) (p : BitVec 32) : QueueAt (s.putWord h (4 * q + 2) (ptrWord p)) h q d0 hd p rs := by
  obtain ⟨h0, h1, -, h3⟩ := id hq
  exact ⟨putWord_reads_other (by omega) h0, putWord_reads_other (by omega) h1, putWord_reads (queueAt_tailOpen hq), putWord_reads_other (by omega) h3⟩

/-- A word of the device area or of a ring written leaves a descriptor (R260). -/
theorem queueAt_putAbove (hq : QueueAt s h q d0 hd tl rs) {w : Nat} (hlt : q < 65536) (hw : 2 ^ 18 ≤ w) (x : W64) :
    QueueAt (s.putWord h w x) h q d0 hd tl rs := by
  obtain ⟨h0, h1, h2, h3⟩ := hq
  exact ⟨putWord_reads_other (by omega) h0, putWord_reads_other (by omega) h1, putWord_reads_other (by omega) h2, putWord_reads_other (by omega) h3⟩

theorem queueAt_modQueue (hq : QueueAt s h q d0 hd tl rs) (f : Queue → Queue) : QueueAt (s.modQueue h q f) h q d0 hd tl rs :=
  (sameStore_modQueue s h q f).queueAt hq

theorem ringAddr_above (ha : RingAbove d0) (p : BitVec 32) : 2 ^ 18 ≤ ringAddr d0 p := Nat.le_add_right_of_le ha

end

end Sys2Proof.Machine

namespace Sys2Proof.Machine
open Sys2Proof.Claims

/-! ### Packets put into a host-set ring (08_queues_placement.md R264, R265) -/

/-- A queue of the device's own packets with a host-set ring, its descriptor word as it takes reservations (R260, R264). -/
structure HostRing (q : Nat) (d0 : W64) : Prop where
  listed : (qClass q).isSome = true
  hosted : qFixed q = false
  enabled : d0En d0 = true
  above : RingAbove d0
  small : q < 65536

theorem frameQueue_hosted {q : Nat} (hq : 32 ≤ q ∧ q ≤ 87) : qFixed q = false := by
  unfold qFixed fixedD0
  rw [if_neg (by omega), if_neg (by omega), if_neg (by omega)]
  rfl

section
variable {s : State} {h : HiveId} {q : Nat} {d0 : W64} {hd tl rs : BitVec 32}

theorem HostRing.reserved (hr : HostRing q d0) : ¬ (qClass q).isNone = true := by
  rw [Option.isNone_iff_eq_none, ← Option.not_isSome_iff_eq_none]
  exact not_not_intro hr.listed

theorem HostRing.isEnabled (hr : HostRing q d0) (s : State) (h : HiveId) : qEnabled s h q d0 = true := by
  unfold qEnabled
  rw [hr.hosted]
  exact hr.enabled

theorem hostRing_of_open (hq : 32 ≤ q ∧ q ≤ 87) (ho : QueueOpenTo s h q .device d0) : HostRing q d0 := by
  obtain ⟨hlisted, henabled, habove, -⟩ := ho
  have hhosted := frameQueue_hosted hq
  unfold qEnabled at henabled
  rw [hhosted] at henabled
  exact ⟨hlisted, hhosted, henabled, habove, by omega⟩

/-- The queue holds a packet of the device, with `n` words reserved and `k` written. -/
structure OpenPacket (s : State) (h : HiveId) (q : Nat) (d0 : W64) (hd tl : BitVec 32) (n k : Nat) : Prop where
  desc : QueueAt s h q d0 hd tl (ringPos tl (n + 1))
  opened : (s.queue h q).opened = some .device
  written : (s.queue h q).written = k

theorem ringPos_sub (p : BitVec 32) {i : Nat} (hi : i < 2 ^ 32) : (ringPos p i - p).toNat = i := by
  unfold ringPos
  rw [BitVec.add_comm, BitVec.add_sub_cancel, BitVec.toNat_ofNat, Nat.mod_eq_of_lt hi]

theorem ringPos_add (p : BitVec 32) (i j : Nat) : ringPos p i + BitVec.ofNat 32 j = ringPos p (i + j) := by
  unfold ringPos
  rw [BitVec.add_assoc, ← BitVec.ofNat_add]

theorem ringPos_sub_other (p o : BitVec 32) {i : Nat} (hi : (p - o).toNat + i < 2 ^ 32) : (ringPos p i - o).toNat = (p - o).toNat + i := by
  have hsplit : ringPos p i - o = (p - o) + BitVec.ofNat 32 i := by unfold ringPos; ring
  rw [hsplit, BitVec.toNat_add, BitVec.toNat_ofNat]
  omega

theorem ringSize_lt (d0 : W64) : 2 ^ d0Size d0 ≤ 2 ^ 31 := by
  have hsize : d0Size d0 < 32 := Nat.mod_lt _ (by decide)
  exact Nat.pow_le_pow_right (by decide) (by omega)

/-- The first reservation of a packet. -/
theorem qReserveE_fresh (hr : HostRing q d0) (hq : QueueAt s h q d0 hd tl tl) (hfree : (s.queue h q).opened = none) {n : Nat}
    (hsize : n + 1 ≤ 2 ^ d0Size d0 - 1) (hlen : n < 2 ^ 24) (hroom : n + 1 ≤ roomOf d0 hd tl) :
    ∃ t, qReserveE s h q .device n = (t, [], qOk) ∧ OpenPacket t h q d0 hd tl n 0 ∧ StoreOnly h s t := by
  unfold qReserveE
  rw [if_neg hr.reserved, qDescE_at hq]
  dsimp only [takeOwed]
  rw [hr.isEnabled, hfree, if_neg (by simp)]
  dsimp only
  have hspace : ¬ Desc.space ⟨d0, hd, tl, tl⟩ < n + 1 := by
    unfold roomOf at hroom
    simp only [Desc.space]
    omega
  rw [if_neg (by omega), if_neg hspace, putPtr_at (queueAt_resvOpen hq)]
  exact ⟨_, rfl, ⟨queueAt_modQueue (queueAt_putResv hq _) _, by simp, by simp⟩, (storeOnly_putWord ..).trans (storeOnly_modQueue ..)⟩

/-- A further reservation of an open packet. -/
theorem qReserveE_more (hr : HostRing q d0) {n k m : Nat} (hp : OpenPacket s h q d0 hd tl n k)
    (hsize : n + m + 1 ≤ 2 ^ d0Size d0 - 1) (hlen : n + m < 2 ^ 24) (hroom : (tl - hd).toNat + n + m + 1 ≤ 2 ^ d0Size d0) :
    ∃ t, qReserveE s h q .device m = (t, [], qOk) ∧ OpenPacket t h q d0 hd tl (n + m) k ∧ StoreOnly h s t := by
  have hbound := ringSize_lt d0
  have hheld := ringPos_sub tl (i := n + 1) (by omega)
  have hspace : ¬ Desc.space ⟨d0, hd, tl, ringPos tl (n + 1)⟩ < m := by
    simp only [Desc.space]
    rw [ringPos_sub_other _ _ (by omega)]
    omega
  have hnext : ringPos tl (n + 1) + BitVec.ofNat 32 m = ringPos tl (n + m + 1) := by rw [ringPos_add]; congr 1; omega
  unfold qReserveE
  rw [if_neg hr.reserved, qDescE_at hp.desc]
  dsimp only [takeOwed]
  rw [hr.isEnabled, hp.opened, if_neg (by simp)]
  dsimp only
  rw [hheld, if_neg (by simp), if_neg (by omega), if_neg hspace, putPtr_at (queueAt_resvOpen hp.desc), hnext]
  refine ⟨_, rfl, ⟨queueAt_modQueue (queueAt_putResv hp.desc _) _, ?_, ?_⟩, (storeOnly_putWord ..).trans (storeOnly_modQueue ..)⟩
  · simp [hp.opened]
  · simp [hp.written]

/-- The next word of an open packet. -/
theorem qWriteE_next (hr : HostRing q d0) {n k : Nat} (hp : OpenPacket s h q d0 hd tl n k) (hk : k < n) (hlen : n < 2 ^ 24)
    (ho : WordOpen s h (ringAddr d0 (ringPos tl (k + 1)))) (w : W64) :
    ∃ t, qWriteE s h q .device w = (t, [], qOk) ∧ OpenPacket t h q d0 hd tl n (k + 1) ∧ StoreOnly h s t := by
  have hheld := ringPos_sub tl (i := n + 1) (by omega)
  unfold qWriteE
  rw [if_neg hr.reserved, qDescE_at hp.desc]
  dsimp only [takeOwed]
  have hpos : tl + BitVec.ofNat 32 (k + 1) = ringPos tl (k + 1) := rfl
  rw [hp.written, hp.opened, hheld, if_neg (by simp), if_neg (by omega), hpos, hWriteE_open ho]
  refine ⟨_, rfl, ⟨queueAt_modQueue (queueAt_putAbove hp.desc hr.small (ringAddr_above hr.above _) _) _, ?_, ?_⟩,
    (storeOnly_putWord ..).trans (storeOnly_modQueue ..)⟩
  · simp [hp.opened]
  · simp [hp.written]

/-- The words of an open packet one after the other. -/
theorem qWriteList_next (hr : HostRing q d0) {n : Nat} (hlen : n < 2 ^ 24) (ws : List W64) {k : Nat} {s : State}
    (hp : OpenPacket s h q d0 hd tl n k) (hk : k + ws.length ≤ n) (ho : ∀ i, i ≤ n → WordOpen s h (ringAddr d0 (ringPos tl i))) :
    ∃ t, qWriteList h q .device ws s = (t, [], qOk) ∧ OpenPacket t h q d0 hd tl n (k + ws.length) ∧ StoreOnly h s t := by
  induction ws generalizing s k with
  | nil => exact ⟨s, rfl, hp, .refl h s⟩
  | cons w ws ih =>
    rw [List.length_cons] at hk
    obtain ⟨u, hu, hpu, hsu⟩ := qWriteE_next hr hp (by omega) hlen (ho _ (by omega)) w
    obtain ⟨t, ht, hpt, hut⟩ := ih hpu (by omega) fun i hi => hsu.opened _ (ho i hi)
    refine ⟨t, ?_, ?_, hsu.trans hut⟩
    · unfold qWriteList
      rw [hu]
      dsimp only
      rw [if_neg (by decide), ht]
      rfl
    · rwa [List.length_cons, show k + (ws.length + 1) = k + 1 + ws.length by omega]

/-- The open packet committed: it becomes visible from the present TAIL on. -/
theorem qCommitE_open (hr : HostRing q d0) (hq : QueueAt s h q d0 hd tl rs) (hopen : (s.queue h q).opened = some .device)
    {k : Nat} (hw : (s.queue h q).written = k) (hk : k ≠ 0) (ho : WordOpen s h (ringAddr d0 tl)) :
    ∃ t, qCommitE s h q .device = (t, [], qOk, some (tl.toNat, k)) ∧
      QueueAt t h q d0 hd (ringPos tl (k + 1)) (ringPos tl (k + 1)) ∧ StoreOnly h s t := by
  obtain ⟨cls, hcls⟩ := Option.isSome_iff_exists.1 hr.listed
  have habove := queueAt_putAbove hq hr.small (ringAddr_above hr.above tl) (packetWord k cls (s.queue h q).seq)
  unfold qCommitE
  rw [hcls]
  dsimp only
  rw [qDescE_at hq]
  dsimp only [takeOwed]
  rw [hopen, hw, if_neg (by simp), if_neg hk, hWriteE_open ho]
  dsimp only
  rw [if_neg (by decide), putPtr_at (queueAt_resvOpen habove)]
  dsimp only
  rw [putPtr_at (queueAt_tailOpen (queueAt_putResv habove _))]
  exact ⟨_, rfl, queueAt_modQueue (queueAt_putTail (queueAt_putResv habove _) _) _, (storeOnly_putWord ..).trans
    ((storeOnly_putWord ..).trans ((storeOnly_putWord ..).trans (storeOnly_modQueue ..)))⟩

/-- A whole packet put into a queue that can take it (R264, R265). -/
theorem qPut_canPut {ws : List W64} (hq87 : 32 ≤ q ∧ q ≤ 87) (hc : CanPut s h q d0 hd tl ws.length) :
    ∃ t, qPut s h q .device ws = (t, qOk, some (tl.toNat, ws.length)) ∧
      QueueAt t h q d0 hd (ringPos tl (ws.length + 1)) (ringPos tl (ws.length + 1)) ∧ StoreOnly h s t := by
  obtain ⟨hq, hopen, hfree, hne, hsize, hlen, hroom, hwords⟩ := hc
  have hr := hostRing_of_open hq87 hopen
  obtain ⟨u, hu, hpu, hsu⟩ := qReserveE_fresh hr hq hfree hsize hlen hroom
  obtain ⟨v, hv, hpv, huv⟩ := qWriteList_next hr hlen ws hpu (by omega) fun i hi => hsu.opened _ (hwords i hi)
  have hzero : ringPos tl 0 = tl := by unfold ringPos; simp
  have hfirst : WordOpen v h (ringAddr d0 tl) := huv.opened _ (hsu.opened _ (hzero ▸ hwords 0 (by omega)))
  obtain ⟨t, ht, hqt, hvt⟩ := qCommitE_open hr hpv.desc hpv.opened (hpv.written.trans (Nat.zero_add _)) hne hfirst
  refine ⟨t, ?_, hqt, hsu.trans (huv.trans hvt)⟩
  unfold qPut qPutE
  rw [hu]
  dsimp only
  rw [if_neg (by decide), hv]
  dsimp only
  rw [if_neg (by decide), ht]
  rfl

end

end Sys2Proof.Machine

namespace Sys2Proof.Machine
open Sys2Proof.Claims

/-! ### The work of the output stage -/

/-- What the work of the output stage of hive `h` leaves: the other hive, the hive's own claim, and the device outside the hives but for
registers, workers and guard sources. -/
structure Works (h : HiveId) (s t : State) : Prop where
  pending : t.pending = s.pending
  tick : t.tick = s.tick
  staged : t.staged = s.staged
  cells : t.cells = s.cells
  cals : t.cals = s.cals
  blocks : t.blocks = s.blocks
  combs : t.combs = s.combs
  lanes : t.lanes = s.lanes
  domains : t.domains = s.domains
  chip : t.chip = s.chip
  other : t.hive (otherHive h) = s.hive (otherHive h)
  dup : (t.hive h).dup = (s.hive h).dup

/-- What an access to the store of hive `h` and the delivery of events leave, where `K` names the registers that they mark beside their own. -/
structure Leaves (K : Nat → Prop) (h : HiveId) (s t : State) : Prop where
  quiet : Quiet K s t
  apart : t.apart h = s.apart h

section
variable {K L : Nat → Prop} {h : HiveId} {s t u : State}

theorem Works.refl (h : HiveId) (s : State) : Works h s s := by constructor <;> rfl

theorem Works.trans (a : Works h s t) (b : Works h t u) : Works h s u where
  pending := b.pending.trans a.pending
  tick := b.tick.trans a.tick
  staged := b.staged.trans a.staged
  cells := b.cells.trans a.cells
  cals := b.cals.trans a.cals
  blocks := b.blocks.trans a.blocks
  combs := b.combs.trans a.combs
  lanes := b.lanes.trans a.lanes
  domains := b.domains.trans a.domains
  chip := b.chip.trans a.chip
  other := b.other.trans a.other
  dup := b.dup.trans a.dup

theorem Works.setHive (s : State) (h : HiveId) (x : Hive) (hx : x.dup = (s.hive h).dup) : Works h s (s.setHive h x) := by
  constructor
  case dup => rw [State.setHive_hive, if_pos rfl, hx]
  all_goals cases h <;> rfl

theorem Works.modFr (s : State) (h : HiveId) (f : Framer → Framer) : Works h s (s.modFr h f) := .setHive s h _ rfl
theorem Works.modFrame (s : State) (h : HiveId) (f : BitVec 40) (g : OpenFrame → OpenFrame) : Works h s (s.modFrame h f g) := .modFr s h _
theorem Works.setJob (s : State) (h : HiveId) (j : Nat) (x : Job) : Works h s (s.setJob h j x) := .modFr s h _

theorem Works.setReg (h : HiveId) (s : State) (pg off : Nat) (v : W32) (i : Nat := 0) : Works h s (s.setReg pg off v i) := by
  constructor <;> cases h <;> rfl

theorem Works.higherClaim (a : Works h s t) : higherClaim t = higherClaim s := by
  have hp : ∀ k, presented t k = presented s k := fun k => by
    have hdup : (t.hive k).dup = (s.hive k).dup := by
      have hother := congrArg Hive.dup a.other
      have hself := a.dup
      cases h <;> cases k <;> assumption
    unfold presented State.domain
    rw [hdup, a.domains]
  unfold Machine.higherClaim
  rw [hp, hp]

theorem StoreOnly.works (a : StoreOnly h s t) : Works h s t := by
  rw [a.eq]
  exact .setHive s h _ rfl

theorem StoreOnly.regs (a : StoreOnly h s t) : t.regs = s.regs := by rw [a.eq, State.setHive_regs]

theorem StoreOnly.hive (a : StoreOnly h s t) : t.hive h = { s.hive h with honey := (t.hive h).honey, queues := (t.hive h).queues } :=
  (congrArg (State.hive · h) a.eq).trans ((State.setHive_hive ..).trans (if_pos rfl))

theorem StoreOnly.fr (a : StoreOnly h s t) : t.fr h = s.fr h := (congrArg Hive.fr a.hive :)
theorem StoreOnly.place (a : StoreOnly h s t) : (t.hive h).place = (s.hive h).place := (congrArg Hive.place a.hive :)

namespace Leaves

theorem refl (h : HiveId) (s : State) : Leaves K h s s := ⟨.refl s, rfl⟩
theorem trans (a : Leaves K h s t) (b : Leaves K h t u) : Leaves K h s u := ⟨a.quiet.trans b.quiet, b.apart.trans a.apart⟩

theorem fr (a : Leaves K h s t) : t.fr h = s.fr h := congrArg Apart.fr a.apart
theorem place (a : Leaves K h s t) : (t.hive h).place = (s.hive h).place := congrArg Apart.place a.apart
theorem queue (a : Leaves K h s t) {q : Nat} (hq : q ≠ 0) : t.queue h q = s.queue h q := by
  have hqueues := congrFun (congrArg Apart.queue a.apart) q
  simpa [State.apart, hq] using hqueues

theorem works (a : Leaves K h s t) : Works h s t where
  pending := a.quiet.pending
  tick := a.quiet.tick
  staged := a.quiet.staged
  cells := a.quiet.cells
  cals := a.quiet.cals
  blocks := a.quiet.blocks
  combs := a.quiet.combs
  lanes := a.quiet.lanes
  domains := a.quiet.domains
  chip := a.quiet.chip
  other := congrArg Apart.other a.apart
  dup := hiveKeeps_dup (a.quiet.hive h)

/-- A bit raised while hive `h` is active. -/
theorem raise (ha : higherClaim s = h) (pg off bits : Nat) (hp : pg % 2 ^ 12 = 0) :
    Leaves (fun k => k = rkey pg off 0) h s (raise s pg off bits) := by
  subst ha
  exact ⟨raise_quiet s pg off bits hp, apart_deliver s 400 _⟩

/-- A word written to the active hive's store, with the events that the write gives rise to. -/
theorem hWrite (ha : higherClaim s = h) (agent w : Nat) (x : W64) : Leaves K h s (hWrite s h agent w x).1 := by
  have hq := hWriteE_quiet (K := K) s h agent w x
  have hd := apart_deliver (hWriteE s h agent w x).1 400 (hWriteE s h agent w x).2.1
  rw [hq.higherClaim, ha, apart_hWriteE] at hd
  exact ⟨hq.trans (settle_quiet _ _ (hWriteE_owns s h agent w x)), hd⟩

/-- Records written to an input buffer (R228). -/
theorem bufferFill (ha : higherClaim s = h) (j : Nat) (buf : Bool) (recs : List StoreRec) : Leaves K h s (bufferFill h j buf recs s) := by
  unfold Machine.bufferFill forL
  generalize List.zip (List.range recs.length) recs = l
  induction l generalizing s with
  | nil => exact .refl h s
  | cons e l ih =>
    have hw := hWrite (K := K) ha agEngine (inputAddr j buf e.1) e.2.word
    exact hw.trans (ih (hw.quiet.higherClaim.trans ha))

end Leaves

/-- Of the state no part that the claims hold stable is touched by the work of the active hive's output stage. -/
theorem Works.outputOnly (a : Works h s t) (ha : Machine.higherClaim s = h) : OutputOnly s t := by
  subst ha
  exact ⟨a.tick, a.cells, a.cals, a.blocks, a.lanes, a.chip, a.domains, a.staged, a.other⟩

theorem framerOf_works (a : Works h s t) (ha : Machine.higherClaim s = h) : framerOf t = t.fr h := by
  unfold framerOf
  rw [a.higherClaim, ha]

end

/-! ### Open frames by number -/

/-- The open frame of a number. -/
def frameAt (s : State) (h : HiveId) (f : BitVec 40) : Option OpenFrame := (s.fr h).frames.find? (fun o => o.frame = f)

/-- Frame `f` stands as `q`, the other frames as they were. -/
structure FrameIs (h : HiveId) (f : BitVec 40) (q : OpenFrame) (s t : State) : Prop where
  now : frameAt t h f = some q
  others : ∀ x, x.frame ≠ f → (x ∈ (t.fr h).frames ↔ x ∈ (s.fr h).frames)

section
variable {h : HiveId} {f : BitVec 40} {o q : OpenFrame} {s t u : State}

@[simp] theorem modFrame_fr (s : State) (h : HiveId) (f : BitVec 40) (g : OpenFrame → OpenFrame) :
    (s.modFrame h f g).fr h = { s.fr h with frames := (s.fr h).frames.map (fun o => if o.frame = f then g o else o) } := modFr_fr ..

@[simp] theorem setJob_fr (s : State) (h : HiveId) (j : Nat) (x : Job) : (s.setJob h j x).fr h = { s.fr h with jobs := tset {} (s.fr h).jobs j x } :=
  modFr_fr ..

@[simp] theorem setJob_job (s : State) (h : HiveId) (j : Nat) (x : Job) (k : Nat) : (s.setJob h j x).job h k = if k = j then x else s.job h k := by
  unfold State.job
  rw [setJob_fr]
  exact tget_tset ..

@[simp] theorem modFrame_job (s : State) (h : HiveId) (f : BitVec 40) (g : OpenFrame → OpenFrame) (j : Nat) : (s.modFrame h f g).job h j = s.job h j := by
  unfold State.job; rw [modFrame_fr]

theorem job_of_fr (hf : t.fr h = s.fr h) (j : Nat) : t.job h j = s.job h j := by unfold State.job; rw [hf]

theorem frameAt_frame (ho : frameAt s h f = some o) : o.frame = f := by simpa using List.find?_some ho

theorem FrameIs.frame (p : FrameIs h f q s t) : q.frame = f := frameAt_frame p.now
theorem FrameIs.mem (p : FrameIs h f q s t) : q ∈ (t.fr h).frames := List.mem_of_find?_eq_some p.now

theorem FrameIs.refl (ho : frameAt s h f = some o) : FrameIs h f o s s := ⟨ho, fun _ _ => Iff.rfl⟩
theorem FrameIs.trans (a : FrameIs h f o s t) (b : FrameIs h f q t u) : FrameIs h f q s u :=
  ⟨b.now, fun x hx => (b.others x hx).trans (a.others x hx)⟩

theorem FrameIs.of_frames (a : FrameIs h f q s t) (hf : (u.fr h).frames = (t.fr h).frames) : FrameIs h f q s u := by
  refine ⟨?_, fun x hx => ?_⟩
  · unfold frameAt; rw [hf]; exact a.now
  · rw [hf]; exact a.others x hx

/-- A change of one frame that keeps its number. -/
theorem FrameIs.modFrame (a : FrameIs h f q s t) (g : OpenFrame → OpenFrame) (hg : ∀ x, (g x).frame = x.frame) :
    FrameIs h f (g q) s (t.modFrame h f g) := by
  refine ⟨?_, fun x hx => ?_⟩
  · have hcomp : (fun o : OpenFrame => decide (o.frame = f)) ∘ (fun o => if o.frame = f then g o else o) = fun o => decide (o.frame = f) := by
      funext x
      by_cases hx : x.frame = f <;> simp [hx, hg]
    have hnow : (t.fr h).frames.find? (fun o => o.frame = f) = some q := a.now
    unfold frameAt
    rw [modFrame_fr, List.find?_map, hcomp, hnow, Option.map_some, if_pos a.frame]
  · rw [modFrame_fr, ← a.others x hx, List.mem_map]
    constructor
    · rintro ⟨y, hy, rfl⟩
      by_cases hyf : y.frame = f
      · rw [if_pos hyf, hg] at hx
        exact absurd hyf hx
      · rwa [if_neg hyf]
    · exact fun hy => ⟨x, hy, if_neg hx⟩

/-- The oldest frame with a property, where no two frames have the same number. -/
theorem frameAt_oldest {P : OpenFrame → Bool} (hP : (s.fr h).frames.find? P = some o)
    (hpair : (s.fr h).frames.Pairwise (fun a b => a.frame ≠ b.frame)) : frameAt s h o.frame = some o := by
  unfold frameAt
  have hmem := List.mem_of_find?_eq_some hP
  generalize (s.fr h).frames = l at *
  clear hP
  induction l with
  | nil => cases hmem
  | cons x l ih =>
    obtain ⟨hx, hl⟩ := List.pairwise_cons.1 hpair
    obtain rfl | hin := List.mem_cons.1 hmem
    · simp
    · rw [List.find?_cons_of_neg (by simpa using hx o hin)]
      exact ih hl hin

/-- A frame as it holds an open-frame slot: its own, or else `n`. -/
def OpenFrame.inSlot (o : OpenFrame) (n : Option Nat) : OpenFrame := { o with slot := if o.slot.isSome then o.slot else n }

theorem takeSlot_eq (h : HiveId) (f : BitVec 40) (s : State) : takeSlot h f s = s.modFrame h f (·.inSlot (freeSlot s h)) := by
  unfold takeSlot
  congr 1
  funext o
  unfold OpenFrame.inSlot
  split <;> rfl

theorem OpenFrame.inSlot_isSome {n : Option Nat} (hn : o.slot.isSome = true ∨ n.isSome = true) : (o.inSlot n).slot.isSome = true := by
  unfold OpenFrame.inSlot
  dsimp only
  split
  · assumption
  · exact hn.resolve_left ‹_›

theorem FrameIs.takeSlot (a : FrameIs h f q s t) : FrameIs h f (q.inSlot (freeSlot t h)) s (takeSlot h f t) := by
  rw [takeSlot_eq]
  exact a.modFrame (·.inSlot (freeSlot t h)) fun _ => rfl

theorem freeSlot_modFrame (s : State) {g : OpenFrame → OpenFrame} (hg : ∀ x, (g x).slot = x.slot) :
    freeSlot (s.modFrame h f g) h = freeSlot s h := by
  unfold freeSlot
  rw [modFrame_fr]
  congr 1
  funext n
  rw [List.any_map]
  congr 2
  funext x
  dsimp only [Function.comp]
  split
  · rw [hg]
  · rfl

theorem freeJob_of_jobs (hj : (t.fr h).jobs = (s.fr h).jobs) : freeJob t h = freeJob s h := by
  unfold freeJob State.job
  rw [hj]

/-! ### Runs and the input of source frames (R228, R252) -/

/-- The job of a frame's present run (R228). -/
def OpenFrame.runJob (o : OpenFrame) : Job :=
  { state := 1, frame := o.frame, index := o.runs, raw := o.raw, recs := o.run, present := o.run.length, device := o.device }

/-- A frame whose present run has become a job. -/
def OpenFrame.cutOff (o : OpenFrame) : OpenFrame := { o with run := [], runs := o.runs + 1 }

/-- A run with records that finds a free job becomes it. -/
theorem cutRun_effect (ha : higherClaim s = h) (ho : frameAt s h f = some o) (hr : o.run ≠ []) {j : Nat} (hj : freeJob s h = some j) :
    let t := cutRun h f s
    FrameIs h f o.cutOff s t ∧ t.job h j = o.runJob ∧ Works h s t := by
  have hcut : cutRun h f s = bufferFill h j false o.run
      ((s.setJob h j o.runJob).modFrame h f OpenFrame.cutOff) := by
    have hfind : (s.fr h).frames.find? (fun o => o.frame = f) = some o := ho
    unfold cutRun OpenFrame.runJob
    rw [hfind, hj]
    dsimp only
    rw [if_neg hr, frameAt_frame ho]
    rfl
  have hframe : FrameIs h f o.cutOff s
      ((s.setJob h j o.runJob).modFrame h f OpenFrame.cutOff) :=
    ((FrameIs.refl ho).of_frames (u := s.setJob h j o.runJob) (by rw [setJob_fr])).modFrame _ fun _ => rfl
  have hworks := (Works.setJob s h j o.runJob).trans (.modFrame _ h f OpenFrame.cutOff)
  intro t
  have ht : t = _ := hcut
  rw [ht]
  have hfill := Leaves.bufferFill (K := fun _ => False) (hworks.higherClaim.trans ha) j false o.run
  refine ⟨hframe.of_frames (by rw [hfill.fr]), ?_, hworks.trans hfill.works⟩
  rw [job_of_fr hfill.fr, modFrame_job, setJob_job, if_pos rfl]

theorem cutRun_idle (ho : frameAt s h f = some o) (hr : o.run = [] ∨ freeJob s h = none) : cutRun h f s = s := by
  have hfind : (s.fr h).frames.find? (fun o => o.frame = f) = some o := ho
  unfold cutRun
  rw [hfind]
  obtain hr | hj := hr
  · cases freeJob s h with
    | none => rfl
    | some j => exact if_pos hr
  · rw [hj]

/-- How far a job has come. -/
structure SameProgress (a b : Job) : Prop where
  state : b.state = a.state
  outWords : b.outWords = a.outWords
  reserved : b.reserved = a.reserved

theorem SameProgress.refl (a : Job) : SameProgress a a := ⟨rfl, rfl, rfl⟩

/-- What a source frame's job taking its next input buffer can do: nothing, end the job's input, or fill the buffer. -/
theorem cbFeed_cases (h : HiveId) (f : BitVec 40) (i : Nat) (s : State) :
    cbFeed h f i s = s ∨ ∃ j b, SameProgress (s.job h j) b ∧ (cbFeed h f i s = s.setJob h j b ∨
      ∃ buf recs, cbFeed h f i s = bufferFill h j buf recs ((s.setJob h j b).modFrame h f (fun o => { o with cbs := lset o.cbs i [] }))) := by
  unfold cbFeed
  cases (s.fr h).frames.find? (fun o => o.frame = f) with
  | none => exact .inl rfl
  | some o =>
    cases cbJob s h f i with
    | none => exact .inl rfl
    | some j =>
      dsimp only
      split
      · exact .inl rfl
      · split
        · refine .inr ⟨j, _, ?_, .inr ⟨_, _, rfl⟩⟩
          exact ⟨rfl, rfl, rfl⟩
        · split
          · refine .inr ⟨j, _, ?_, .inl rfl⟩
            exact ⟨rfl, rfl, rfl⟩
          · exact .inl rfl

/-- Work for the jobs of a source frame: of the open frames it changes but the records of frame `f` that wait for an input buffer. -/
structure CbStep (h : HiveId) (f : BitVec 40) (s t : State) : Prop where
  works : Works h s t
  frame : ∀ o, frameAt s h f = some o → ∃ l, FrameIs h f { o with cbs := l } s t

theorem CbStep.refl (h : HiveId) (f : BitVec 40) (s : State) : CbStep h f s s := ⟨.refl h s, fun o ho => ⟨o.cbs, .refl ho⟩⟩

theorem CbStep.trans (a : CbStep h f s t) (b : CbStep h f t u) : CbStep h f s u := by
  refine ⟨a.works.trans b.works, fun o ho => ?_⟩
  obtain ⟨l, hl⟩ := a.frame o ho
  obtain ⟨m, hm⟩ := b.frame _ hl.now
  exact ⟨m, hl.trans hm⟩

theorem cbStep_setJob (h : HiveId) (f : BitVec 40) (j : Nat) (b : Job) (s : State) : CbStep h f s (s.setJob h j b) :=
  ⟨.setJob s h j b, fun o ho => ⟨o.cbs, (FrameIs.refl ho).of_frames (by rw [setJob_fr])⟩⟩

theorem cbFeed_step (ha : higherClaim s = h) (f : BitVec 40) (i : Nat) : CbStep h f s (cbFeed h f i s) := by
  obtain he | ⟨j, b, -, he | ⟨buf, recs, he⟩⟩ := cbFeed_cases h f i s
  · rw [he]; exact .refl h f s
  · rw [he]; exact cbStep_setJob h f j b s
  · have hempty : CbStep h f (s.setJob h j b) ((s.setJob h j b).modFrame h f (fun o => { o with cbs := lset o.cbs i [] })) :=
      ⟨.modFrame _ h f _, fun o ho => ⟨lset o.cbs i [], (FrameIs.refl ho).modFrame (fun o => { o with cbs := lset o.cbs i [] }) fun _ => rfl⟩⟩
    have hput := (cbStep_setJob h f j b s).trans hempty
    have hfill := Leaves.bufferFill (K := fun _ => False) (hput.works.higherClaim.trans ha) j buf recs
    rw [he]
    exact hput.trans ⟨hfill.works, fun o ho => ⟨o.cbs, (FrameIs.refl ho).of_frames (by rw [hfill.fr])⟩⟩

theorem cbOpen_step (h : HiveId) (f : BitVec 40) (o : OpenFrame) (i : Nat) (s : State) : CbStep h f s (cbOpen h o i s) := by
  unfold cbOpen
  split
  · exact .refl h f s
  · split
    · exact .refl h f s
    · exact cbStep_setJob h f _ _ s

/-- The jobs of a source frame come no further as one of them takes its next input buffer, nor do the queues but queue 0. -/
theorem cbFeed_keeps (ha : higherClaim s = h) (f : BitVec 40) (i : Nat) :
    (∀ j, SameProgress (s.job h j) ((cbFeed h f i s).job h j)) ∧ ∀ q, q ≠ 0 → (cbFeed h f i s).queue h q = s.queue h q := by
  have hset {j : Nat} {b : Job} (hb : SameProgress (s.job h j) b) (k : Nat) : SameProgress (s.job h k) ((s.setJob h j b).job h k) := by
    rw [setJob_job]
    split
    · rename_i hk
      exact hk ▸ hb
    · exact .refl _
  have hqueue (u : State) (g : Framer → Framer) (q : Nat) : (u.modFr h g).queue h q = u.queue h q := by cases h <;> rfl
  obtain he | ⟨j, b, hb, he | ⟨buf, recs, he⟩⟩ := cbFeed_cases h f i s
  · rw [he]; exact ⟨fun j => .refl _, fun _ _ => rfl⟩
  · rw [he]; exact ⟨hset hb, fun q _ => hqueue s _ q⟩
  · have hworks := (Works.setJob s h j b).trans (.modFrame _ h f (fun o => { o with cbs := lset o.cbs i [] }))
    have hfill := Leaves.bufferFill (K := fun _ => False) (hworks.higherClaim.trans ha) j buf recs
    rw [he]
    refine ⟨fun k => ?_, fun q hq => (hfill.queue hq).trans ((hqueue _ _ q).trans (hqueue s _ q))⟩
    rw [job_of_fr hfill.fr, modFrame_job]
    exact hset hb k

end

end Sys2Proof.Machine

namespace Sys2Proof.Machine
open Sys2Proof.Claims

/-! ### The six-way merge (R226, R228) -/

/-- The earlier of a candidate for release and the head of region `c`. -/
def earlierHead (heads : Nat → Option StoreRec) (m : Option (Nat × StoreRec)) (c : Nat) : Option (Nat × StoreRec) :=
  match heads c with
  | none => m
  | some r => match m with
    | none => some (c, r)
    | some (_, q) => if orderKey r.word < orderKey q.word then some (c, r) else m

/-- The candidate is the head of its region, and no region has an earlier one. -/
structure LowestHead (heads : Nat → Option StoreRec) (n : Nat) (c : Nat) (r : StoreRec) : Prop where
  head : heads c = some r
  lowest : ∀ d q, d < n → heads d = some q → orderKey r.word ≤ orderKey q.word

theorem earliest_of_heads (heads : Nat → Option StoreRec) (n : Nat) :
    match (List.range n).foldl (earlierHead heads) none with
    | none => ∀ d, d < n → heads d = none
    | some (c, r) => LowestHead heads n c r := by
  induction n with
  | zero => exact fun d hd => absurd hd (Nat.not_lt_zero d)
  | succ n ih =>
    rw [List.range_succ, List.foldl_append, List.foldl_cons, List.foldl_nil]
    generalize (List.range n).foldl (earlierHead heads) none = m at ih ⊢
    have hlast {d : Nat} (hd : d < n + 1) : d < n ∨ d = n := Nat.lt_succ_iff_lt_or_eq.1 hd
    cases hn : heads n with
    | none =>
      simp only [earlierHead, hn]
      cases m with
      | none => exact fun d hd => (hlast hd).elim (ih d) fun h => h ▸ hn
      | some p =>
        refine ⟨ih.head, fun d q hd hq => (hlast hd).elim (fun h => ih.lowest d q h hq) fun h => ?_⟩
        rw [h, hn] at hq; cases hq
    | some r =>
      simp only [earlierHead, hn]
      cases m with
      | none =>
        refine ⟨hn, fun d q hd hq => (hlast hd).elim (fun h => ?_) fun h => ?_⟩
        · rw [ih d h] at hq; cases hq
        · rw [h, hn] at hq; cases hq; exact le_rfl
      | some p =>
        by_cases hlt : orderKey r.word < orderKey p.2.word
        · simp only [if_pos hlt]
          refine ⟨hn, fun d q hd hq => (hlast hd).elim (fun h => hlt.le.trans (ih.lowest d q h hq)) fun h => ?_⟩
          rw [h, hn] at hq; cases hq; exact le_rfl
        · simp only [if_neg hlt]
          refine ⟨ih.head, fun d q hd hq => (hlast hd).elim (fun h => ih.lowest d q h hq) fun h => ?_⟩
          rw [h, hn] at hq; cases hq; exact not_lt.1 hlt

section
variable {h : HiveId} {s t : State} {o : OpenFrame} {c : Nat} {r : StoreRec}

/-- The record next released is the lowest of those that any region can release, of the frame that the merge serves. -/
theorem nextRelease_lowest (hn : nextRelease s h = some (o, c, r)) :
    mergeFrame s h = some o ∧ ∀ d q, d < 6 → releasable s h o d = some q → orderKey r.word ≤ orderKey q.word := by
  unfold nextRelease at hn
  cases hm : mergeFrame s h with
  | none => rw [hm] at hn; cases hn
  | some p =>
    rw [hm] at hn
    dsimp only at hn
    have hbest := earliest_of_heads (fun c => lget none ((List.range 6).map (fun c => releasable s h p c)) c) 6
    split at hn
    · cases hn
    · rename_i a b he
      have he : (List.range 6).foldl (earlierHead fun c => lget none ((List.range 6).map (fun c => releasable s h p c)) c) none = some (a, b) := he
      split at hn
      · cases hn
        rw [he] at hbest
        exact ⟨rfl, fun d q hd hq => hbest.lowest d q hd ((lget_map_range none _ 6 d hd).trans hq)⟩
      · cases hn

/-- The state in which the merge has taken record `r` of region `c`, and its receive buffer place has freed (R173). -/
def released (h : HiveId) (c : Nat) (r : StoreRec) (s : State) : State :=
  freeCredit c h false (s.modSort h c (fun b => { b with recs := b.recs.erase r }))

theorem released_bundle (h : HiveId) (c : Nat) (r : StoreRec) (s : State) :
    (((released h c r s).comb c).bundle h).retData = ((s.comb c).bundle h).retData + 1 := by
  have hcomb : (s.modSort h c (fun b => { b with recs := b.recs.erase r })).comb c = s.comb c := State.setHive_comb ..
  unfold released freeCredit
  rw [modBundle_bundle, if_pos rfl, hcomb]
  rfl

theorem released_fr (h : HiveId) (c : Nat) (r : StoreRec) (s : State) :
    (released h c r s).fr h = { s.fr h with sorts := lmod (s.fr h).sorts c (fun b => { b with recs := b.recs.erase r }) } := modFr_fr ..

/-- A frame that has taken one more record. -/
def OpenFrame.note (o : OpenFrame) (r : StoreRec) : OpenFrame :=
  { o with records := o.records + 1, lastKey := some (orderKey r.word), lastTime := some (recTime r.word) }

/-- A frame that has taken one more record into its run. -/
def OpenFrame.noteRun (o : OpenFrame) (r : StoreRec) : OpenFrame := OpenFrame.note { o with run := o.run ++ [r] } r

/-- A frame that has taken one more record for source `i`. -/
def OpenFrame.noteSource (o : OpenFrame) (i : Nat) (r : StoreRec) : OpenFrame := OpenFrame.note { o with cbs := lmod o.cbs i (· ++ [r]) } r

/-- A record joins the run of frame `o` (R228). -/
def passRun (h : HiveId) (o : OpenFrame) (r : StoreRec) (s : State) : State :=
  let u := if o.run.length ≥ 4096 then cutRun h o.frame s else s
  let v := u.modFrame h o.frame (·.noteRun r)
  if o.run.length = 4095 then cutRun h o.frame v else v

/-- A record joins those of its source that wait (R252). -/
def passSource (h : HiveId) (o : OpenFrame) (r : StoreRec) (s : State) : State :=
  let u := cbFeed h o.frame (sourceOf r.word) (cbOpen h o (sourceOf r.word) s)
  cbFeed h o.frame (sourceOf r.word) (u.modFrame h o.frame (·.noteSource (sourceOf r.word) r))

theorem sortRelease_takes (hn : nextRelease s (higherClaim s) = some (o, c, r)) (ht : canTake s (higherClaim s) o r = true) :
    sortRelease s = if o.abandoned then released (higherClaim s) c r s
      else if o.cb128 then passSource (higherClaim s) o r (takeSlot (higherClaim s) o.frame (released (higherClaim s) c r s))
      else passRun (higherClaim s) o r (takeSlot (higherClaim s) o.frame (released (higherClaim s) c r s)) := by
  unfold sortRelease
  dsimp only
  rw [hn]
  dsimp only
  rw [ht]
  rfl

theorem sortRelease_stalls (hn : nextRelease s (higherClaim s) = some (o, c, r)) (ht : canTake s (higherClaim s) o r = false) :
    sortRelease s = raise s (frmPage (higherClaim s)) Reg.FRM_EVENTS (2 ^ 4) := by
  unfold sortRelease
  dsimp only
  rw [hn]
  dsimp only
  rw [ht]
  rfl

/-- A record of a frame that is not abandoned finds a slot, and a job where its run is full. -/
theorem canTake_live (ht : canTake s h o r = true) (hl : o.abandoned = false) :
    (o.slot.isSome = true ∨ (freeSlot s h).isSome = true) ∧
      (o.cb128 = false → 4096 ≤ o.run.length → (freeJob s h).isSome = true) := by
  unfold canTake at ht
  rw [hl, Bool.false_or, Bool.and_eq_true, Bool.or_eq_true] at ht
  obtain ⟨hslot, hjob⟩ := ht
  refine ⟨hslot, fun hcb hlen => ?_⟩
  rw [hcb, if_neg Bool.false_ne_true, Bool.or_eq_true, decide_eq_true_iff] at hjob
  exact hjob.resolve_left (by omega)

/-- What a record that joins a run does, by the length of the run. -/
theorem passRun_effect {q : OpenFrame} (ha : higherClaim s = h) (ho : frameAt s h o.frame = some q) (hrun : q.run = o.run)
    (hfree : 4096 ≤ o.run.length → (freeJob s h).isSome = true) :
    let t := passRun h o r s
    Works h s t ∧ ∃ p, FrameIs h o.frame p s t ∧ p.records = q.records + 1 ∧ p.lastKey = some (orderKey r.word) ∧ p.slot = q.slot ∧
      (o.run.length < 4095 → p.run = o.run ++ [r] ∧ t.regs = s.regs) ∧
      (o.run.length = 4095 → ∀ j, freeJob s h = some j → p.run = [] ∧ p.runs = q.runs + 1 ∧
        (t.job h j).state = 1 ∧ (t.job h j).recs = o.run ++ [r] ∧ (t.job h j).index = q.runs) ∧
      (4096 ≤ o.run.length → p.run = [r] ∧ p.runs = q.runs + 1) := by
  unfold passRun
  dsimp only
  have hjoin {u : State} {p : OpenFrame} (hu : FrameIs h o.frame p s u) : FrameIs h o.frame (p.noteRun r) s (u.modFrame h o.frame (·.noteRun r)) :=
    hu.modFrame (·.noteRun r) fun _ => rfl
  obtain hshort | hfull | hlong : o.run.length < 4095 ∨ o.run.length = 4095 ∨ 4096 ≤ o.run.length := by omega
  · rw [if_neg (not_le.2 (hshort.trans (by decide))), if_neg hshort.ne]
    exact ⟨.modFrame .., _, hjoin (.refl ho), rfl, rfl, rfl, fun _ => ⟨congrArg (· ++ [r]) hrun, State.setHive_regs ..⟩,
      fun hl => absurd hl (by omega), fun hl => absurd hl (by omega)⟩
  · rw [if_neg (show ¬ o.run.length ≥ 4096 by omega), if_pos hfull]
    have hnoted := hjoin (.refl ho)
    have hworks : Works h s (s.modFrame h o.frame (·.noteRun r)) := .modFrame ..
    have hjobs : freeJob (s.modFrame h o.frame (·.noteRun r)) h = freeJob s h := freeJob_of_jobs (by rw [modFrame_fr])
    cases hj : freeJob s h with
    | none =>
      rw [cutRun_idle hnoted.now (.inr (hjobs.trans hj))]
      exact ⟨hworks, _, hnoted, rfl, rfl, rfl, fun hl => absurd hl (by omega), nofun, fun hl => absurd hl (by omega)⟩
    | some j =>
      obtain ⟨hframe, hjob, hcut⟩ := cutRun_effect (hworks.higherClaim.trans ha) hnoted.now (by simp [OpenFrame.noteRun, OpenFrame.note]) (hjobs.trans hj)
      refine ⟨hworks.trans hcut, _, hnoted.trans hframe, rfl, rfl, rfl, fun hl => absurd hl (by omega), fun _ k hk => ?_,
        fun hl => absurd hl (by omega)⟩
      cases hk
      rw [hjob]
      exact ⟨rfl, rfl, rfl, congrArg (· ++ [r]) hrun, rfl⟩
  · rw [if_pos hlong, if_neg (show ¬ o.run.length = 4095 by omega)]
    obtain ⟨j, hj⟩ := Option.isSome_iff_exists.1 (hfree hlong)
    have hne : q.run ≠ [] := by rw [hrun]; exact List.ne_nil_of_length_pos (by omega)
    obtain ⟨hframe, -, hcut⟩ := cutRun_effect ha ho hne hj
    exact ⟨hcut.trans (.modFrame ..), _, hjoin hframe, rfl, rfl, rfl, fun hl => absurd hl (by omega), fun hl => absurd hl (by omega),
      fun _ => ⟨rfl, rfl⟩⟩

/-- What a record that joins those of its source does. -/
theorem passSource_effect {q : OpenFrame} (ha : higherClaim s = h) (ho : frameAt s h o.frame = some q) :
    let t := passSource h o r s
    Works h s t ∧ ∃ p, FrameIs h o.frame p s t ∧ p.records = q.records + 1 ∧ p.lastKey = some (orderKey r.word) ∧ p.slot = q.slot := by
  unfold passSource
  dsimp only
  have hopen := cbOpen_step h o.frame o (sourceOf r.word) s
  have hfed := hopen.trans (cbFeed_step (hopen.works.higherClaim.trans ha) o.frame (sourceOf r.word))
  obtain ⟨l, hl⟩ := hfed.frame q ho
  have hworks := hfed.works.trans (.modFrame _ h o.frame (·.noteSource (sourceOf r.word) r))
  have hnoted := hl.modFrame (·.noteSource (sourceOf r.word) r) fun _ => rfl
  have hagain := cbFeed_step (hworks.higherClaim.trans ha) o.frame (sourceOf r.word)
  obtain ⟨m, hm⟩ := hagain.frame _ hnoted.now
  exact ⟨hworks.trans hagain.works, _, hnoted.trans hm, rfl, rfl, rfl⟩

end

end Sys2Proof.Machine

namespace Sys2Proof.Machine
open Sys2Proof.Claims

section
variable {h : HiveId} {s t : State} {o q : OpenFrame} {c d : Nat} {r : StoreRec}

theorem whileBuilding_live (f : State → State) (hf : s.fatal = false) : whileBuilding f s = f s := by
  unfold whileBuilding
  rw [hf]
  rfl

/-- The record taken leaves the device but for the hive's buffers and the bundle's credit. -/
theorem released_keeps (h : HiveId) (c : Nat) (r : StoreRec) (s : State) :
    let t := released h c r s
    t.pending = s.pending ∧ t.regs = s.regs ∧ t.cells = s.cells ∧ t.blocks = s.blocks ∧ t.lanes = s.lanes ∧ t.chip = s.chip ∧
      higherClaim t = higherClaim s := by
  cases h <;> exact ⟨rfl, rfl, rfl, rfl, rfl, rfl, rfl⟩

theorem released_frames (h : HiveId) (c : Nat) (r : StoreRec) (s : State) : ((released h c r s).fr h).frames = (s.fr h).frames := by
  rw [released_fr]

theorem released_frame (h : HiveId) (c : Nat) (r : StoreRec) (s : State) (f : BitVec 40) : frameAt (released h c r s) h f = frameAt s h f := by
  unfold frameAt
  rw [released_frames]

theorem released_freeSlot (h : HiveId) (c : Nat) (r : StoreRec) (s : State) : freeSlot (released h c r s) h = freeSlot s h := by
  unfold freeSlot
  rw [released_frames]

theorem released_jobs (h : HiveId) (c : Nat) (r : StoreRec) (s : State) : ((released h c r s).fr h).jobs = (s.fr h).jobs := by
  rw [released_fr]

theorem otherFrames_of_works {f : BitVec 40} (a : Works h s t) (ha : higherClaim s = h) (hq : FrameIs h f q s t) : OtherFrames s t f := by
  subst ha
  intro x hx
  rw [framerOf_works a rfl]
  exact hq.others x hx

/-! ### Hive close (R178, R228) -/

/-- A frame whose closes of the first `n` regions are all there: those that came, and for the other regions the hive's own. -/
structure OpenFrame.Filled (n : Nat) (o q : OpenFrame) : Prop where
  same : q = { o with closes := q.closes, bundle := q.bundle }
  kept : ∀ c x, tfind o.closes c = some x → tfind q.closes c = some x
  made : ∀ c, c < n → tfind o.closes c = none → ∃ lost reset, tfind q.closes c = some (ownClose c o.frame lost reset)
  later : ∀ c, n ≤ c → tfind o.closes c = none → tfind q.closes c = none

theorem OpenFrame.Filled.frame {n : Nat} (a : OpenFrame.Filled n o q) : q.frame = o.frame := by rw [a.same]

theorem OpenFrame.Filled.next {n : Nat} (a : OpenFrame.Filled n o q) (s : State) : OpenFrame.Filled (n + 1) o (q.fill s n o.frame) := by
  unfold OpenFrame.fill
  split
  · rename_i hs
    refine ⟨a.same, a.kept, fun c hc hn => ?_, fun c hc => a.later c (by omega)⟩
    obtain hlt | rfl := Nat.lt_succ_iff_lt_or_eq.1 hc
    · exact a.made c hlt hn
    · rw [a.later c le_rfl hn] at hs
      cases hs
  · rename_i hs
    have hput (c : Nat) (x : List (List W64) × W64) : tfind (tput q.closes n x) c = if c = n then some x else tfind q.closes c := tfind_tput ..
    refine ⟨?_, fun c x hx => ?_, fun c hc hn => ?_, fun c hc hn => ?_⟩
    · rw [a.same]
    · have hkept := a.kept c x hx
      dsimp only
      rw [hput, if_neg (fun he => hs (by rw [← he, hkept]; rfl)), hkept]
    · dsimp only
      rw [hput]
      obtain hlt | rfl := Nat.lt_succ_iff_lt_or_eq.1 hc
      · rw [if_neg hlt.ne]
        exact a.made c hlt hn
      · exact ⟨_, _, if_pos rfl⟩
    · dsimp only
      rw [hput, if_neg (by omega)]
      exact a.later c (by omega) hn

/-- The closes that the hive puts in for the regions that sent none. -/
theorem forN_fillClose (ho : frameAt s h o.frame = some o) :
    let t := forN 6 (fillClose h o.frame) s
    Works h s t ∧ t.regs = s.regs ∧ freeSlot t h = freeSlot s h ∧ (t.fr h).jobs = (s.fr h).jobs ∧ ∃ q, FrameIs h o.frame q s t ∧ o.Filled 6 q := by
  refine forN_induct (fun n t => Works h s t ∧ t.regs = s.regs ∧ freeSlot t h = freeSlot s h ∧ (t.fr h).jobs = (s.fr h).jobs ∧
    ∃ q, FrameIs h o.frame q s t ∧ o.Filled n q) ?_ fun n u _ hu => ?_
  · exact ⟨.refl h s, rfl, rfl, rfl, o, .refl ho, rfl, fun _ _ hx => hx, fun c hc => absurd hc (Nat.not_lt_zero c), fun _ _ hn => hn⟩
  · obtain ⟨hworks, hregs, hslot, hjobs, q, hq, hfilled⟩ := hu
    have he : fillClose h o.frame n u = u.modFrame h o.frame (·.fill u n o.frame) := rfl
    have hkeep (x : OpenFrame) : (x.fill u n o.frame).slot = x.slot := by unfold OpenFrame.fill; split <;> rfl
    rw [he]
    refine ⟨hworks.trans (.modFrame ..), ?_, (freeSlot_modFrame u hkeep).trans hslot, ?_, _,
      hq.modFrame (·.fill u n o.frame) fun x => x.fill_frame u n o.frame, hfilled.next u⟩
    · exact (State.setHive_regs ..).trans hregs
    · rw [modFrame_fr]
      exact hjobs

/-- The frame closed, with its drain time and whether frames were lost. -/
def OpenFrame.shut (o : OpenFrame) (drain : Nat) (lost : Bool) : OpenFrame := { o with closed := true, drain := drain, lost := lost }

/-- The close of a frame that its hive keeps (R178, R228). -/
def shutFrame (h : HiveId) (o : OpenFrame) (drain : Nat) (s : State) : State :=
  let s := takeSlot h o.frame s
  let s := s.modFrame h o.frame (·.shut drain (decide ((s.fr h).lostRanges ≠ [])))
  if o.cb128 then
    forN 9 (fun i s => cbFeed h o.frame i (cbFeed h o.frame i (cbOpen h o i s))) (s.modFr h (fun x => { x with lostRanges := x.lostRanges.drop 15 }))
  else cutRun h o.frame s

/-- The hive has all that it waits for to close frame `o`. -/
structure Closable (h : HiveId) (s : State) (o : OpenFrame) (d : Nat) : Prop where
  drains : o.drainTick = some d
  closed : ∀ c, c < 6 → closedFor s h o c = true
  sorted : ∀ b ∈ (s.fr h).sorts, ∀ r ∈ b.recs, r.frame ≠ o.frame

theorem Closable.ready (a : Closable h s o d) :
    ¬ (o.drainTick.isNone = true ∨ ((s.fr h).sorts.any (fun b => b.recs.any (fun r => r.frame = o.frame))) = true ∨
      (!((List.range 6).all (fun c => closedFor s h o c))) = true) := by
  rw [a.drains]
  simp only [Option.isNone_some, Bool.false_eq_true, false_or, not_or, List.any_eq_true, Bool.not_eq_true', Bool.not_eq_false,
    decide_eq_true_eq, List.all_eq_true, List.mem_range]
  exact ⟨fun ⟨b, hb, r, hr, he⟩ => a.sorted b hb r hr he, fun c hc => a.closed c hc⟩

theorem hiveClose_abandoned (hm : mergeFrame s (higherClaim s) = some o) (hc : Closable (higherClaim s) s o d) (hl : o.abandoned = true) :
    hiveClose s = (forN 6 (fillClose (higherClaim s) o.frame) s).modFr (higherClaim s)
      (fun x => { x with frames := x.frames.filter (fun q => q.frame ≠ o.frame) }) := by
  unfold hiveClose
  dsimp only
  rw [hm]
  dsimp only
  rw [if_neg hc.ready, hl]
  simp only [Bool.not_true, Bool.false_eq_true, false_and, if_false, if_true]

theorem hiveClose_live (hm : mergeFrame s (higherClaim s) = some o) (hc : Closable (higherClaim s) s o d) (hl : o.abandoned = false)
    (hslot : o.slot.isSome = true ∨ (freeSlot s (higherClaim s)).isSome = true)
    (hrun : o.cb128 = false → o.run = [] ∨ (freeJob s (higherClaim s)).isSome = true)
    (hcb : o.cb128 = true → ((List.range 9).filter (fun i => (cbJob s (higherClaim s) o.frame i).isNone)).length ≤
      ((List.range 48).filter (fun j => (s.job (higherClaim s) j).state = 0)).length) :
    hiveClose s = shutFrame (higherClaim s) o (min 65535 ((s.tick - d) / 8)) (forN 6 (fillClose (higherClaim s) o.frame) s) := by
  have hslot' : ¬ ((!o.abandoned) = true ∧ o.slot.isNone = true ∧ (freeSlot s (higherClaim s)).isNone = true) := by
    rintro ⟨-, hno, hnf⟩
    rw [← Option.not_isSome, Bool.not_eq_true'] at hno hnf
    rw [hno, hnf] at hslot
    simp at hslot
  have hrun' : ¬ ((!o.abandoned) = true ∧ (!o.cb128) = true ∧ o.run ≠ [] ∧ (freeJob s (higherClaim s)).isNone = true) := by
    rintro ⟨-, hb, hne, hnf⟩
    rw [← Option.not_isSome, Bool.not_eq_true'] at hnf
    have hjob := (hrun (by simpa using hb)).resolve_left hne
    rw [hnf] at hjob
    cases hjob
  have hcb' : ¬ ((!o.abandoned) = true ∧ o.cb128 = true ∧ ((List.range 9).filter (fun i => (cbJob s (higherClaim s) o.frame i).isNone)).length >
      ((List.range 48).filter (fun j => (s.job (higherClaim s) j).state = 0)).length) :=
    fun ⟨_, hb, hgt⟩ => absurd (hcb hb) (not_le.2 hgt)
  unfold hiveClose
  dsimp only
  rw [hm]
  dsimp only
  rw [if_neg hc.ready, if_neg hslot', if_neg hrun', if_neg hcb', hl, hc.drains]
  rfl

/-- What the close of a kept frame does. -/
theorem shutFrame_effect (ha : higherClaim s = h) (hq : frameAt s h o.frame = some q) (hrun : q.run = o.run) (drain : Nat)
    (hfree : o.cb128 = false → o.run = [] ∨ (freeJob s h).isSome = true) :
    let t := shutFrame h o drain s
    Works h s t ∧ ∃ p, FrameIs h o.frame p s t ∧ p.closed = true ∧ p.drain = drain ∧ p.slot = (q.inSlot (freeSlot s h)).slot ∧ p.closes = q.closes ∧
      (o.cb128 = false → o.run = [] → p.run = [] ∧ p.runs = q.runs ∧ t.regs = s.regs) ∧
      (o.cb128 = false → o.run ≠ [] → ∀ j, freeJob s h = some j → p.run = [] ∧ p.runs = q.runs + 1 ∧
        (t.job h j).state = 1 ∧ (t.job h j).recs = o.run ∧ (t.job h j).index = q.runs) := by
  unfold shutFrame
  dsimp only
  generalize decide (((takeSlot h o.frame s).fr h).lostRanges ≠ []) = lost
  have hslotted : FrameIs h o.frame (q.inSlot (freeSlot s h)) s (takeSlot h o.frame s) := (FrameIs.refl hq).takeSlot
  have hshut := hslotted.modFrame (·.shut drain lost) fun _ => rfl
  have hworks : Works h s ((takeSlot h o.frame s).modFrame h o.frame (·.shut drain lost)) := by
    rw [takeSlot_eq]
    exact (Works.modFrame ..).trans (.modFrame ..)
  have hregs : ((takeSlot h o.frame s).modFrame h o.frame (·.shut drain lost)).regs = s.regs := by
    rw [takeSlot_eq]
    exact (State.setHive_regs ..).trans (State.setHive_regs ..)
  have hjobs : freeJob ((takeSlot h o.frame s).modFrame h o.frame (·.shut drain lost)) h = freeJob s h :=
    freeJob_of_jobs (by rw [takeSlot_eq, modFrame_fr, modFrame_fr])
  generalize (takeSlot h o.frame s).modFrame h o.frame (·.shut drain lost) = u at *
  cases hcb : o.cb128 with
  | true =>
    rw [if_pos rfl]
    have hdrop : Works h u (u.modFr h (fun x => { x with lostRanges := x.lostRanges.drop 15 })) := .modFr ..
    have hdropped : FrameIs h o.frame _ s (u.modFr h (fun x => { x with lostRanges := x.lostRanges.drop 15 })) := hshut.of_frames (by rw [modFr_fr])
    generalize u.modFr h (fun x => { x with lostRanges := x.lostRanges.drop 15 }) = v at *
    have hloop : CbStep h o.frame v (forN 9 (fun i s => cbFeed h o.frame i (cbFeed h o.frame i (cbOpen h o i s))) v) := by
      refine forN_induct (fun _ => CbStep h o.frame v) (.refl h o.frame v) fun i w _ hw => ?_
      have hv := (hworks.trans hdrop).higherClaim.trans ha
      have hopen := hw.trans (cbOpen_step h o.frame o i w)
      have hone := hopen.trans (cbFeed_step (hopen.works.higherClaim.trans hv) o.frame i)
      exact hone.trans (cbFeed_step (hone.works.higherClaim.trans hv) o.frame i)
    obtain ⟨l, hl⟩ := hloop.frame _ hdropped.now
    exact ⟨(hworks.trans hdrop).trans hloop.works, _, hdropped.trans hl, rfl, rfl, rfl, rfl, nofun, nofun⟩
  | false =>
    rw [if_neg Bool.false_ne_true]
    have hrun' : ((q.inSlot (freeSlot s h)).shut drain lost).run = o.run := hrun
    by_cases he : o.run = []
    · rw [cutRun_idle hshut.now (.inl (hrun'.trans he))]
      exact ⟨hworks, _, hshut, rfl, rfl, rfl, rfl, fun _ _ => ⟨hrun.trans he, rfl, hregs⟩, fun _ hne => absurd he hne⟩
    · obtain ⟨j, hj⟩ := Option.isSome_iff_exists.1 ((hfree hcb).resolve_left he)
      obtain ⟨hframe, hjob, hcut⟩ := cutRun_effect (hworks.higherClaim.trans ha) hshut.now (by rwa [hrun']) (hjobs.trans hj)
      refine ⟨hworks.trans hcut, _, hshut.trans hframe, rfl, rfl, rfl, rfl, fun _ hn => absurd hn he, fun _ _ k hk => ?_⟩
      cases hj.symm.trans hk
      rw [hjob]
      exact ⟨rfl, rfl, rfl, hrun, rfl⟩

end

/-! ### The merge and the hive close as commands -/

/-- A record that finds no job or slot is left, and the stall noted (R224). -/
theorem sortRelease_runs_stalled {o : OpenFrame} {c : Nat} {r : StoreRec} {s : State} (hf : s.fatal = false)
    (hn : nextRelease s (higherClaim s) = some (o, c, r)) (ht : canTake s (higherClaim s) o r = false) :
    Runs .sortRelease s fun t => Marked t (hivePage (higherClaim s) 0x15) Reg.FRM_EVENTS 4 ∧ Quiet (onPage (hivePage (higherClaim s) 0x15)) s t := by
  have hq := raise_quiet s (frmPage (higherClaim s)) Reg.FRM_EVENTS (2 ^ 4) (page_mod _ _ _)
  refine runs_of_done (t := raise s (frmPage (higherClaim s)) Reg.FRM_EVENTS (2 ^ 4)) ?_ hq.pending
    ⟨raise_marked s _ _ 4 (page_mod _ _ _) (noted_hivePage _ 0x15 _ 0 (by decide) (by decide) (by decide)) (by decide), quiet_mono hq ?_⟩
  · rw [← sortRelease_stalls hn ht, ← whileBuilding_live sortRelease hf]
    rfl
  · rintro k rfl
    cases higherClaim s <;> rfl

/-- A record that finds its place is taken (R226, R228). -/
theorem sortRelease_runs_taken {o : OpenFrame} {c : Nat} {r : StoreRec} {s : State} (hf : s.fatal = false)
    (hn : nextRelease s (higherClaim s) = some (o, c, r)) (hpair : (framerOf s).frames.Pairwise (fun a b => a.frame ≠ b.frame))
    (ht : canTake s (higherClaim s) o r = true) :
    Runs .sortRelease s fun t =>
      ((t.comb c).bundle (higherClaim s)).retData = ((s.comb c).bundle (higherClaim s)).retData + 1 ∧ OtherFrames s t o.frame ∧
      (o.abandoned = true → (framerOf t).frames = (framerOf s).frames ∧ t.regs = s.regs) ∧
      (o.abandoned = false → ∃ q ∈ (framerOf t).frames, q.frame = o.frame ∧ q.records = o.records + 1 ∧ q.lastKey = some (orderKey r.word) ∧ q.slot.isSome = true ∧
        (o.cb128 = false → o.run.length < 4095 → q.run = o.run ++ [r] ∧ t.regs = s.regs) ∧
        (o.cb128 = false → o.run.length = 4095 → ∀ j, freeJob s (higherClaim s) = some j → q.run = [] ∧ q.runs = o.runs + 1 ∧
          (t.job (higherClaim s) j).state = 1 ∧ (t.job (higherClaim s) j).recs = o.run ++ [r] ∧ (t.job (higherClaim s) j).index = o.runs) ∧
        (o.cb128 = false → 4096 ≤ o.run.length → q.run = [r] ∧ q.runs = o.runs + 1)) ∧
      t.cells = s.cells ∧ t.blocks = s.blocks ∧ t.lanes = s.lanes ∧ t.chip = s.chip := by
  have hexec : exec .sortRelease s = done s (sortRelease s) := congrArg (done s) (whileBuilding_live sortRelease hf)
  rw [sortRelease_takes hn ht] at hexec
  generalize hh : higherClaim s = h at *
  have hcredit := released_bundle h c r s
  have hframes := released_frames h c r s
  have hfound := released_frame h c r s o.frame
  have hslot := released_freeSlot h c r s
  have hjobs : freeJob (released h c r s) h = freeJob s h := freeJob_of_jobs (released_jobs h c r s)
  obtain ⟨hpending, hregs, hcells, hblocks, hlanes, hchip, hclaim⟩ := released_keeps h c r s
  rw [hh] at hclaim
  generalize released h c r s = u at *
  have hsame (x : OpenFrame) : x ∈ (u.fr h).frames ↔ x ∈ (s.fr h).frames := by rw [hframes]
  cases hl : o.abandoned with
  | true =>
    rw [hl, if_pos rfl] at hexec
    have hframer : framerOf u = u.fr h := congrArg u.fr hclaim
    have hframer' : framerOf s = s.fr h := congrArg s.fr hh
    refine runs_of_done hexec hpending ⟨hcredit, fun x _ => ?_, fun _ => ⟨?_, hregs⟩, nofun, hcells, hblocks, hlanes, hchip⟩
    · rw [hframer, hframer', hframes]
    · rw [hframer, hframer', hframes]
  | false =>
    rw [hl, if_neg Bool.false_ne_true] at hexec
    obtain ⟨hplace, hfull⟩ := canTake_live ht hl
    have ho : frameAt u h o.frame = some o := by
      have hmerge := (nextRelease_lowest hn).1
      rw [hfound]
      exact frameAt_oldest hmerge (by rw [← hh]; exact hpair)
    have hslotted : FrameIs h o.frame (o.inSlot (freeSlot u h)) u (takeSlot h o.frame u) := (FrameIs.refl ho).takeSlot
    have hheld : (o.inSlot (freeSlot u h)).slot.isSome = true := OpenFrame.inSlot_isSome (by rwa [hslot])
    have htake : Works h u (takeSlot h o.frame u) ∧ (takeSlot h o.frame u).regs = u.regs ∧ freeJob (takeSlot h o.frame u) h = freeJob u h := by
      rw [takeSlot_eq]
      exact ⟨.modFrame .., State.setHive_regs .., freeJob_of_jobs (by rw [modFrame_fr])⟩
    obtain ⟨hworks, htregs, htjob⟩ := htake
    generalize takeSlot h o.frame u = v at *
    have hv : higherClaim v = h := hworks.higherClaim.trans hclaim
    have hend {t : State} {p : OpenFrame} (hw : Works h v t) (hp : FrameIs h o.frame p v t) :
        t.pending = s.pending ∧ p ∈ (framerOf t).frames ∧ OtherFrames s t o.frame ∧
          ((t.comb c).bundle h).retData = ((s.comb c).bundle h).retData + 1 ∧
          t.cells = s.cells ∧ t.blocks = s.blocks ∧ t.lanes = s.lanes ∧ t.chip = s.chip := by
      have hall := hworks.trans hw
      have hcomb : t.comb c = u.comb c := by unfold State.comb; rw [hall.combs]
      have hframer : framerOf t = t.fr h := framerOf_works hall hclaim
      refine ⟨hall.pending.trans hpending, hframer ▸ hp.mem, fun x hx => ?_, hcomb ▸ hcredit, hall.cells.trans hcells,
        hall.blocks.trans hblocks, hall.lanes.trans hlanes, hall.chip.trans hchip⟩
      have hframer' : framerOf s = s.fr h := congrArg s.fr hh
      rw [hframer, hframer', (hslotted.trans hp).others x hx, hsame]
    cases hcb : o.cb128 with
    | true =>
      rw [hcb, if_pos rfl] at hexec
      obtain ⟨hw, p, hp, hrecords, hkey, hpslot⟩ := passSource_effect (r := r) hv hslotted.now
      obtain ⟨hpend, hmem, hothers, hret, hrest⟩ := hend hw hp
      exact runs_of_done hexec hpend ⟨hret, hothers, nofun, fun _ =>
        ⟨p, hmem, hp.frame, hrecords, hkey, hpslot ▸ hheld, nofun, nofun, nofun⟩, hrest⟩
    | false =>
      rw [hcb, if_neg Bool.false_ne_true] at hexec
      obtain ⟨hw, p, hp, hrecords, hkey, hpslot, hshort, hcut, hlong⟩ := passRun_effect (r := r) hv hslotted.now rfl
        fun hlen => by rw [htjob, hjobs]; exact hfull hcb hlen
      obtain ⟨hpend, hmem, hothers, hret, hrest⟩ := hend hw hp
      refine runs_of_done hexec hpend ⟨hret, hothers, nofun, fun _ =>
        ⟨p, hmem, hp.frame, hrecords, hkey, hpslot ▸ hheld, fun _ hlen => ?_, fun _ hlen j hj => ?_, fun _ => hlong⟩, hrest⟩
      · exact (hshort hlen).imp_right fun hr => hr.trans (htregs.trans hregs)
      · exact hcut hlen j (by rw [htjob, hjobs]; exact hj)

section
variable {o : OpenFrame} {d : Nat} {s : State} (hf : s.fatal = false) (ho : OldestFrame s (fun o => !o.closed) o)
  (hc : Closable (higherClaim s) s o d)
include hf ho hc

/-- An abandoned frame leaves as it closes (R228). -/
theorem hiveClose_runs_abandoned (hl : o.abandoned = true) :
    Runs .hiveClose s fun t => (∀ q, q ∈ (framerOf t).frames ↔ q ∈ (framerOf s).frames ∧ q.frame ≠ o.frame) ∧ t.regs = s.regs ∧ OutputOnly s t := by
  obtain ⟨hfind, hpair⟩ := ho
  have hexec : exec .hiveClose s = done s (hiveClose s) := congrArg (done s) (whileBuilding_live hiveClose hf)
  rw [hiveClose_abandoned hfind hc hl] at hexec
  obtain ⟨hfill, hregs, -, -, q, hq, -⟩ := forN_fillClose (frameAt_oldest hfind hpair)
  generalize forN 6 (fillClose (higherClaim s) o.frame) s = u at *
  have hworks := hfill.trans (.modFr u _ (fun x => { x with frames := x.frames.filter (fun q => q.frame ≠ o.frame) }))
  refine runs_of_done hexec hworks.pending ⟨fun x => ?_, (State.setHive_regs ..).trans hregs, hworks.outputOnly rfl⟩
  rw [framerOf_works hworks rfl, modFr_fr, List.mem_filter, decide_eq_true_iff]
  exact and_congr_left fun hx => hq.others x hx

/-- A frame that is kept closes (R178, R228). -/
theorem hiveClose_runs_live (hl : o.abandoned = false) (hslot : o.slot.isSome = true ∨ (freeSlot s (higherClaim s)).isSome = true)
    (hrun : o.cb128 = false → o.run = [] ∨ (freeJob s (higherClaim s)).isSome = true)
    (hcb : o.cb128 = true → ((List.range 9).filter (fun i => (cbJob s (higherClaim s) o.frame i).isNone)).length ≤
      ((List.range 48).filter (fun j => (s.job (higherClaim s) j).state = 0)).length) :
    Runs .hiveClose s fun t =>
      (∃ q ∈ (framerOf t).frames, q.frame = o.frame ∧ q.closed = true ∧ q.drain = min 65535 ((s.tick - d) / 8) ∧ q.slot.isSome = true ∧
        (∀ c x, c < 6 → tfind o.closes c = some x → tfind q.closes c = some x) ∧
        (∀ c, c < 6 → tfind o.closes c = none → ∃ lost reset, tfind q.closes c = some (ownClose c o.frame lost reset)) ∧
        (o.cb128 = false → o.run = [] → q.run = [] ∧ q.runs = o.runs ∧ t.regs = s.regs) ∧
        (o.cb128 = false → o.run ≠ [] → ∀ j, freeJob s (higherClaim s) = some j → q.run = [] ∧ q.runs = o.runs + 1 ∧
          (t.job (higherClaim s) j).state = 1 ∧ (t.job (higherClaim s) j).recs = o.run ∧ (t.job (higherClaim s) j).index = o.runs)) ∧
      OtherFrames s t o.frame ∧ t.cells = s.cells ∧ t.blocks = s.blocks ∧ t.combs = s.combs ∧ t.lanes = s.lanes ∧ t.chip = s.chip := by
  obtain ⟨hfind, hpair⟩ := ho
  have hexec : exec .hiveClose s = done s (hiveClose s) := congrArg (done s) (whileBuilding_live hiveClose hf)
  rw [hiveClose_live hfind hc hl hslot hrun hcb] at hexec
  obtain ⟨hfill, hregs, hslots, hjobs, q, hq, hfilled⟩ := forN_fillClose (frameAt_oldest hfind hpair)
  have hjob := freeJob_of_jobs hjobs
  have hqrun : q.run = o.run := by rw [hfilled.same]
  have hqruns : q.runs = o.runs := by rw [hfilled.same]
  have hqslot : q.slot = o.slot := by rw [hfilled.same]
  generalize forN 6 (fillClose (higherClaim s) o.frame) s = u at *
  obtain ⟨hshut, p, hp, hclosed, hdrain, hpslot, hcloses, hidle, hcut⟩ := shutFrame_effect hfill.higherClaim hq.now hqrun
    (min 65535 ((s.tick - d) / 8)) (by rwa [hjob])
  have hworks := hfill.trans hshut
  have hheld : p.slot.isSome = true := by
    rw [hpslot, hslots]
    exact OpenFrame.inSlot_isSome (by rwa [hqslot])
  rw [hqruns] at hidle hcut
  rw [hjob] at hcut
  refine runs_of_done hexec hworks.pending ⟨⟨p, ?_, hp.frame, hclosed, hdrain, hheld, fun c x _ hx => ?_, fun c hlt hn => ?_,
    fun hb he => ?_, hcut⟩, otherFrames_of_works hworks rfl (hq.trans hp), hworks.cells, hworks.blocks, hworks.combs, hworks.lanes, hworks.chip⟩
  · rw [framerOf_works hworks rfl]
    exact hp.mem
  · rw [hcloses]
    exact hfilled.kept c x hx
  · rw [hcloses]
    exact hfilled.made c hlt hn
  · obtain ⟨hrun', hruns', hregs'⟩ := hidle hb he
    exact ⟨hrun', hruns', hregs'.trans hregs⟩

end

end Sys2Proof.Machine

section
open Sys2Proof Sys2Proof.Machine Sys2Proof.Claims

/-- Settles O20, by what a record taken or held back and what a close does to the one frame they serve. -/
theorem framesMergeAndClose : Obligations.FramesMergeAndClose := by
  unfold Obligations.FramesMergeAndClose
  refine ⟨fun o c r s hf hn hpair => ⟨(nextRelease_lowest hn).2, sortRelease_runs_stalled hf hn, sortRelease_runs_taken hf hn hpair⟩,
    fun o d s hf ho hd hclosed hsorted => ?_⟩
  have hc : Closable (higherClaim s) s o d := ⟨hd, hclosed, hsorted⟩
  exact ⟨hiveClose_runs_abandoned hf ho hc, hiveClose_runs_live hf ho hc⟩

end

namespace Sys2Proof.Machine
open Sys2Proof.Claims

/-! ### Changes of a hive's frames, placement and trigger part -/

/-- A change of hive `h` that leaves its store, its caches and every register. -/
structure Edits (h : HiveId) (s t : State) : Prop where
  works : Works h s t
  store : SameStore h s t
  regs : t.regs = s.regs

section
variable {h : HiveId} {s t u : State} {o q : OpenFrame}

namespace Edits

theorem refl (h : HiveId) (s : State) : Edits h s s := ⟨.refl h s, ⟨rfl, rfl, rfl⟩, rfl⟩

theorem trans (a : Edits h s t) (b : Edits h t u) : Edits h s u :=
  ⟨a.works.trans b.works, ⟨b.store.honey.trans a.store.honey, b.store.caches.trans a.store.caches, b.store.started.trans a.store.started⟩,
    b.regs.trans a.regs⟩

theorem setHive (s : State) (h : HiveId) (x : Hive) (hd : x.dup = (s.hive h).dup) (hh : x.honey = (s.hive h).honey)
    (hc : x.caches = (s.hive h).caches) : Edits h s (s.setHive h x) :=
  ⟨.setHive s h x hd, sameStore_setHive s h x hh hc, State.setHive_regs ..⟩

theorem modFr (s : State) (h : HiveId) (f : Framer → Framer) : Edits h s (s.modFr h f) := .setHive s h _ rfl rfl rfl
theorem modFrame (s : State) (h : HiveId) (f : BitVec 40) (g : OpenFrame → OpenFrame) : Edits h s (s.modFrame h f g) := .modFr s h _
theorem setJob (s : State) (h : HiveId) (j : Nat) (x : Job) : Edits h s (s.setJob h j x) := .modFr s h _
theorem takeSlot (s : State) (h : HiveId) (f : BitVec 40) : Edits h s (takeSlot h f s) := by rw [takeSlot_eq]; exact .modFrame ..
theorem modPlace (s : State) (h : HiveId) (f : Place → Place) : Edits h s (s.modHive h (fun x => { x with place := f x.place })) := .setHive s h _ rfl rfl rfl
theorem modTrig (s : State) (h : HiveId) (f : Trig → Trig) : Edits h s (s.modHive h (fun x => { x with trig := f x.trig })) := .setHive s h _ rfl rfl rfl
theorem addUnit (s : State) (h : HiveId) (o : OpenFrame) (queue rank pos len : Nat) : Edits h s (addUnit h o queue rank pos len s) := .setHive s h _ rfl rfl rfl

theorem queueAt (a : Edits h s t) {q : Nat} {d0 : W64} {hd tl rs : BitVec 32} (hq : QueueAt s h q d0 hd tl rs) : QueueAt t h q d0 hd tl rs :=
  a.store.queueAt hq

end Edits

theorem reg_of_regs (hr : t.regs = s.regs) (pg off i : Nat) : t.reg pg off i = s.reg pg off i := by unfold State.reg; rw [hr]

/-! ### Counters and events of the output stage -/

/-- A register of a group's page set leaves the hive's frames and placement. -/
theorem Leaves.setReg (h : HiveId) (s : State) {g off : Nat} (hg : g < 2 ^ 8) (ho : off < 2 ^ 12) (v : W32) (i : Nat := 0) :
    Leaves (onHives g) h s (s.setReg (hivePage h g) off v i) :=
  ⟨quiet_setReg s _ _ _ _ (.inr (onHives_window h g off i hg ho)), apart_setReg ..⟩

theorem Leaves.raiseHive (ha : higherClaim s = h) {g off : Nat} (hg : g < 2 ^ 8) (ho : off < 2 ^ 12) (bits : Nat) :
    Leaves (onHives g) h s (Machine.raise s (hivePage h g) off bits) :=
  ⟨quiet_raise_hive s h hg ho bits, (Leaves.raise ha _ off bits (page_mod _ _ _)).apart⟩

/-- An event that a counter counts. -/
theorem countRaise_effect (ha : higherClaim s = h) {g cnt ev : Nat} (hg : plainGroup g) (hcnt : cnt < 2 ^ 12 ∧ cnt ≠ Reg.EVT_COUNT)
    (hev : ev < 2 ^ 12 ∧ ev ≠ Reg.EVT_COUNT) (hne : cnt ≠ ev) (n : Nat) {b : Nat} (hb : b < 32) :
    let t := raise (s.count (hivePage h g) cnt n) (hivePage h g) ev (2 ^ b)
    Leaves (onHives g) h s t ∧ Marked t (hivePage h g) ev b ∧ t.reg (hivePage h g) cnt = satInc (s.reg (hivePage h g) cnt) n ∧
      ∀ off, off < 2 ^ 12 → off ≠ Reg.EVT_COUNT → off ≠ cnt → off ≠ ev → t.reg (hivePage h g) off = s.reg (hivePage h g) off := by
  obtain ⟨hcnt, hcount⟩ := hcnt
  obtain ⟨hev, hevent⟩ := hev
  have hset : Leaves (onHives g) h s (s.count (hivePage h g) cnt n) := .setReg h s hg.1 hcnt _
  refine ⟨hset.trans (.raiseHive (hset.works.higherClaim.trans ha) hg.1 hev _),
    raise_marked _ _ _ _ (page_mod _ _ _) (noted_hivePage _ _ _ _ hg hev hevent) hb,
    (raise_hive_reg _ h h 0 _ hg hev hcnt hcount hne).trans (count_reg ..), fun off ho he hc hv => ?_⟩
  exact (raise_hive_reg _ h h 0 _ hg hev ho he hv).trans (setReg_reg_off _ _ _ _ (page_mod _ _ _) (page_mod _ _ _) hcnt ho hc)

/-! ### Units put into the queue of a slot (R229) -/

/-- The unit of `len` words that a frame adds to those waiting for placement. -/
def OpenFrame.unit (o : OpenFrame) (order rank queue pos len : Nat) : PUnit :=
  { rcv := o.dest, frame := o.frame, rank := rank, order := order, queue := queue, pos := pos, len := len }

theorem addUnit_waiting (s : State) (h : HiveId) (o : OpenFrame) (queue rank pos len : Nat) :
    ((addUnit h o queue rank pos len s).hive h).place.waiting =
      (s.hive h).place.waiting ++ [o.unit (s.hive h).place.arrivals rank queue pos len] := by
  cases h <;> rfl

theorem addUnit_fr (s : State) (h : HiveId) (o : OpenFrame) (queue rank pos len : Nat) : (addUnit h o queue rank pos len s).fr h = s.fr h := by
  cases h <;> rfl

/-- A unit waits once it has been added to those that waited. -/
theorem unitWaits_of_waiting {order rank queue pos len : Nat}
    (hw : (t.hive (higherClaim s)).place.waiting = (s.hive (higherClaim s)).place.waiting ++ [o.unit order rank queue pos len]) :
    UnitWaits s t o rank queue pos len := ⟨_, hw, rfl, rfl, rfl, rfl, rfl, rfl, rfl⟩

/-- A queue that can take a packet can take it after a change of the hive's frames. -/
theorem canPut_modFr {q : Nat} {d0 : W64} {hd tl : BitVec 32} {n : Nat} (hc : CanPut s h q d0 hd tl n) (f : Framer → Framer) :
    CanPut (s.modFr h f) h q d0 hd tl n := by
  obtain ⟨hq, hopen, hfree, hne, hsize, hlen, hroom, hwords⟩ := hc
  have hstore := (Edits.modFr s h f).store
  have hqueue : (s.modFr h f).queue h q = s.queue h q := by cases h <;> rfl
  have henabled : qEnabled (s.modFr h f) h q d0 = qEnabled s h q d0 := by cases h <;> rfl
  refine ⟨hstore.queueAt hq, ?_, hqueue ▸ hfree, hne, hsize, hlen, hroom, fun i hi => hstore.opened (hwords i hi)⟩
  unfold QueueOpenTo at *
  rw [henabled, hqueue]
  exact hopen

theorem triggerEntry_modFr (s : State) (h : HiveId) (f : Framer → Framer) : triggerEntry (s.modFr h f) = triggerEntry s := by
  cases h <;> rfl

/-! ### HEAD units (R229–R234) -/

/-- The words of the HEAD unit of frame `o`. -/
def headUnit (s : State) (o : OpenFrame) (all : List Decision) : List W64 := headWords o ((all.take 16383).map (triggerEntry s o))

/-- The frame whose HEAD unit is committed. -/
def OpenFrame.headed (o : OpenFrame) (lost : Nat) : OpenFrame := { o with headDone := true, unlisted := lost }

/-- The trigger part without the triggers that no later frame lists (R234). -/
def Trig.pastFrame (x : Trig) (o : OpenFrame) : Trig := { x with decided := x.decided.filter (fun d => decide (o.stop ≤ d.hi)) }

/-- The placement that starts anew for every receiver with frame `o`. -/
def Place.restartAt (x : Place) (o : OpenFrame) : Place := { x with restart := (List.range 64).map (fun i => (i, (o.frame, (0 : BitVec 32)))) }

/-- What the commit of a HEAD unit does once its packet is in the queue, but for the count of the triggers it leaves out. -/
def headDone (h : HiveId) (o : OpenFrame) (queue pos len lost : Nat) (s : State) : State :=
  let s := (addUnit h o queue 0 pos len s).modFrame h o.frame (·.headed lost)
  let s := s.modHive h (fun x => { x with trig := x.trig.pastFrame o })
  if o.flags.getLsbD 1 ∨ o.flags.getLsbD 3 then s.modHive h (fun x => { x with place := x.place.restartAt o }) else s

theorem modTrig_parts (s : State) (h : HiveId) (f : Trig → Trig) :
    (s.modHive h (fun x => { x with trig := f x.trig })).fr h = s.fr h ∧
      ((s.modHive h (fun x => { x with trig := f x.trig })).hive h).place = (s.hive h).place := by
  cases h <;> exact ⟨rfl, rfl⟩

theorem modPlace_parts (s : State) (h : HiveId) (f : Place → Place) :
    (s.modHive h (fun x => { x with place := f x.place })).fr h = s.fr h ∧
      ((s.modHive h (fun x => { x with place := f x.place })).hive h).place = f (s.hive h).place := by
  cases h <;> exact ⟨rfl, rfl⟩

theorem modFrame_place (s : State) (h : HiveId) (f : BitVec 40) (g : OpenFrame → OpenFrame) : ((s.modFrame h f g).hive h).place = (s.hive h).place := by
  cases h <;> rfl

theorem headDone_effect (ho : frameAt s h o.frame = some q) (queue pos len lost : Nat) :
    let t := headDone h o queue pos len lost s
    Edits h s t ∧ FrameIs h o.frame (q.headed lost) s t ∧
      (t.hive h).place.waiting = (s.hive h).place.waiting ++ [o.unit (s.hive h).place.arrivals 0 queue pos len] := by
  have hadd := Edits.addUnit s h o queue 0 pos len
  have hframe : FrameIs h o.frame q s (addUnit h o queue 0 pos len s) := (FrameIs.refl ho).of_frames (by rw [addUnit_fr])
  have hwait := addUnit_waiting s h o queue 0 pos len
  unfold headDone
  dsimp only
  generalize addUnit h o queue 0 pos len s = u at *
  have hheaded := hframe.modFrame (·.headed lost) fun _ => rfl
  have hedit := hadd.trans (.modFrame u h o.frame (·.headed lost))
  rw [← modFrame_place u h o.frame (·.headed lost)] at hwait
  generalize u.modFrame h o.frame (·.headed lost) = v at *
  obtain ⟨hfr, hplace⟩ := modTrig_parts v h (·.pastFrame o)
  have hpast := hedit.trans (.modTrig v h (·.pastFrame o))
  rw [← hplace] at hwait
  generalize v.modHive h (fun x => { x with trig := x.trig.pastFrame o }) = w at *
  have hnow := hheaded.of_frames (congrArg Framer.frames hfr)
  split
  · obtain ⟨hfr', hplace'⟩ := modPlace_parts w h (·.restartAt o)
    exact ⟨hpast.trans (.modPlace w h (·.restartAt o)), hnow.of_frames (congrArg Framer.frames hfr'),
      (congrArg Place.waiting hplace').trans hwait⟩
  · exact ⟨hpast, hnow, hwait⟩

/-- The commit of the HEAD unit of a frame whose slot is `n`. -/
theorem headCommit_puts {n : Nat} (hf : (s.fr (higherClaim s)).frames.find? (fun o => !o.headDone && !o.cb128 && !o.abandoned) = some o)
    (hs : ¬ 8000 * (trigOf s).h < o.stop) (hq : frameAt (takeSlot (higherClaim s) o.frame s) (higherClaim s) o.frame = some q) (hn : q.slot = some n)
    {len : Nat} {pos : Nat}
    (hp : qPut (takeSlot (higherClaim s) o.frame s) (higherClaim s) (80 + n) .device (headUnit s o (listedIn (trigOf s) o)) = (t, qOk, some (pos, len))) :
    let lost := (listedIn (trigOf s) o).length - 16383
    let u := headDone (higherClaim s) o (80 + n) pos len lost t
    headCommit s = if lost = 0 then u
      else raise (u.count (frmPage (higherClaim s)) Reg.FRM_UNLISTED_CNT lost) (frmPage (higherClaim s)) Reg.FRM_EVENTS (2 ^ 0) := by
  have htrig : ((takeSlot (higherClaim s) o.frame s).hive (higherClaim s)).trig = trigOf s := by
    unfold takeSlot State.modFrame State.modFr trigOf
    rw [State.modHive_eq, State.setHive_hive, if_pos rfl]
  have hentry : triggerEntry (takeSlot (higherClaim s) o.frame s) = triggerEntry s := triggerEntry_modFr ..
  unfold headCommit
  dsimp only
  rw [hf]
  dsimp only
  have hs' : ¬ 8000 * ((s.hive (higherClaim s)).trig.h) < o.stop := hs
  unfold frameAt at hq
  unfold headUnit at hp
  rw [if_neg hs', hq]
  dsimp only [Option.bind_some]
  rw [hn, htrig, hentry]
  dsimp only
  rw [hp]
  generalize (listedIn (trigOf s) o).length - 16383 = lost
  split
  · rename_i hr hc
    cases hc
    rfl
  · rename_i hno
    exact absurd rfl (hno pos len rfl)

end

end Sys2Proof.Machine

namespace Sys2Proof.Machine
open Sys2Proof.Claims

section
variable {h : HiveId} {s t : State} {o q : OpenFrame}

/-- Work on the store and the queues leaves the frames. -/
theorem StoreOnly.frame (a : StoreOnly h s t) {f : BitVec 40} (ho : frameAt s h f = some o) : frameAt t h f = some o := by
  unfold frameAt
  rw [a.fr]
  exact ho

/-- The HEAD unit of a frame of which H has passed the end (R229, R281). -/
theorem headCommit_runs {n : Nat} {d0 : W64} {hd tl : BitVec 32} (hf : s.fatal = false)
    (ho : OldestFrame s (fun o => !o.headDone && !o.cb128 && !o.abandoned) o)
    (hslot : (if o.slot.isSome then o.slot else freeSlot s (higherClaim s)) = some n) (hn : n < 8) (hstop : o.stop ≤ 8000 * (trigOf s).h)
    {all : List Decision} (hall : all = listedIn (trigOf s) o) {ws : List W64} (hws : ws = headUnit s o all)
    (hc : CanPut s (higherClaim s) (80 + n) d0 hd tl ws.length) :
    Runs .headCommit s fun t =>
      (∃ q ∈ (framerOf t).frames, q = { o with headDone := true, slot := some n, unlisted := all.length - 16383 }) ∧ OtherFrames s t o.frame ∧
      UnitWaits s t o 0 (80 + n) tl.toNat ws.length ∧
      (all.length ≤ 16383 → QueueAt t (higherClaim s) (80 + n) d0 hd (ringPos tl (ws.length + 1)) (ringPos tl (ws.length + 1)) ∧ t.regs = s.regs) ∧
      (16383 < all.length → Marked t (hivePage (higherClaim s) 0x15) Reg.FRM_EVENTS 0 ∧
        t.reg (hivePage (higherClaim s) 0x15) Reg.FRM_UNLISTED_CNT = satInc (s.reg (hivePage (higherClaim s) 0x15) Reg.FRM_UNLISTED_CNT) (all.length - 16383)) ∧
      OutputOnly s t := by
  obtain ⟨hfind, hpair⟩ := ho
  have hexec : exec .headCommit s = done s (headCommit s) := congrArg (done s) (whileBuilding_live headCommit hf)
  have hq : FrameIs (higherClaim s) o.frame (o.inSlot (freeSlot s (higherClaim s))) s (takeSlot (higherClaim s) o.frame s) :=
    (FrameIs.refl (frameAt_oldest hfind hpair)).takeSlot
  have htake : Edits (higherClaim s) s (takeSlot (higherClaim s) o.frame s) := .takeSlot ..
  have hput : CanPut (takeSlot (higherClaim s) o.frame s) (higherClaim s) (80 + n) d0 hd tl ws.length := canPut_modFr hc _
  have hplace : ((takeSlot (higherClaim s) o.frame s).hive (higherClaim s)).place = (s.hive (higherClaim s)).place := by
    unfold takeSlot
    cases higherClaim s <;> rfl
  obtain ⟨v, hv, hqueue, hstore⟩ := qPut_canPut (by omega) hput
  subst hws hall
  have hcommit := headCommit_puts hfind (not_lt.2 hstop) hq.now hslot hv
  dsimp only at hcommit
  generalize headUnit s o (listedIn (trigOf s) o) = ws at *
  generalize (listedIn (trigOf s) o).length = len at *
  obtain ⟨hedit, hframe, hwait⟩ := headDone_effect (hstore.frame hq.now) (80 + n) tl.toNat ws.length (len - 16383)
  rw [hcommit] at hexec
  generalize headDone (higherClaim s) o (80 + n) tl.toNat ws.length (len - 16383) v = w at *
  have hstored : FrameIs (higherClaim s) o.frame _ s v := hq.of_frames (congrArg Framer.frames hstore.fr)
  have hheaded := hstored.trans hframe
  have hworks := htake.works.trans (hstore.works.trans hedit.works)
  have hregs : w.regs = s.regs := hedit.regs.trans (hstore.regs.trans htake.regs)
  have hsame : OpenFrame.headed (o.inSlot (freeSlot s (higherClaim s))) (len - 16383) = { o with headDone := true, slot := some n, unlisted := len - 16383 } := by
    unfold OpenFrame.headed OpenFrame.inSlot
    rw [hslot]
  rw [hstore.place, hplace] at hwait
  by_cases hlost : len - 16383 = 0
  · rw [if_pos hlost] at hexec
    refine runs_of_done hexec hworks.pending ⟨⟨_, ?_, hsame⟩, otherFrames_of_works hworks rfl hheaded, unitWaits_of_waiting hwait,
      fun _ => ⟨hedit.queueAt hqueue, hregs⟩, fun hgt => absurd hgt (by omega), hworks.outputOnly rfl⟩
    rw [framerOf_works hworks rfl]
    exact hheaded.mem
  · rw [if_neg hlost] at hexec
    obtain ⟨hleaves, hmarked, hcount, -⟩ := countRaise_effect (g := 0x15) (cnt := Reg.FRM_UNLISTED_CNT) (ev := Reg.FRM_EVENTS)
      hworks.higherClaim (by decide) (by decide) (by decide) (by decide) (len - 16383) (b := 0) (by decide)
    have hall := hworks.trans hleaves.works
    have hlast := hheaded.of_frames (congrArg Framer.frames hleaves.fr)
    refine runs_of_done hexec hall.pending ⟨⟨_, ?_, hsame⟩, otherFrames_of_works hall rfl hlast,
      unitWaits_of_waiting ((congrArg Place.waiting hleaves.place).trans hwait), fun hle => absurd hlost (by omega),
      fun _ => ⟨hmarked, hcount.trans ?_⟩, hall.outputOnly rfl⟩
    · rw [framerOf_works hall rfl]
      exact hlast.mem
    · rw [reg_of_regs hregs]

/-! ### Frames that leave the output stage, and TRAIL units (R229, R245–R248) -/

theorem setReg_reg_group (s : State) (h k : HiveId) {g g' off off' : Nat} (v : W32) (i i' : Nat) (hg : g < 2 ^ 8) (hg' : g' < 2 ^ 8)
    (ho : off < 2 ^ 12) (ho' : off' < 2 ^ 12) (hne : g' ≠ g) :
    (s.setReg (hivePage h g) off v i).reg (hivePage k g') off' i' = s.reg (hivePage k g') off' i' := by
  rw [State.setReg_reg, if_neg]
  intro hkey
  refine hne ?_
  simp only [rkey, hivePage, page] at hkey
  cases h <;> cases k <;> simp only [hiveRegion] at hkey <;> omega

/-- What a frame that leaves the output stage does (R229, R255). -/
theorem frameDone_effect (h : HiveId) (o : OpenFrame) (s : State) :
    let t := frameDone h o s
    Works h s t ∧ t.fr h = { s.fr h with frames := (s.fr h).frames.filter (fun q => q.frame ≠ o.frame) } ∧ (t.hive h).place = (s.hive h).place ∧
      t.reg64 (hivePage h 0x15) Reg.FRM_LAST_LO = o.frame.toNat ∧ t.reg (hivePage h 0x15) Reg.FRM_LAST_RECORDS = w32 (o.records % 2 ^ 24) ∧
      (∀ off, off < 2 ^ 12 → off ∉ [Reg.FRM_LAST_LO, Reg.FRM_LAST_HI, Reg.FRM_LAST_RECORDS, Reg.FRM_DRAIN_MAX] →
        t.reg (hivePage h 0x15) off = s.reg (hivePage h 0x15) off) ∧
      ∀ off, off < 2 ^ 12 → t.reg (hivePage h 0x16) off = s.reg (hivePage h 0x16) off := by
  have hframe := o.frame.isLt
  have hpg : hivePage h 0x15 % 2 ^ 12 = 0 := page_mod _ _ _
  unfold frameDone State.setReg64 State.maxReg State.reg64
  dsimp only
  simp only [State.modHive_eq, State.setHive_reg]
  refine ⟨?_, ?_, ?_, ?_, ?_, fun off ho hno => ?_, fun off ho => ?_⟩
  · exact (((((Works.modFr ..).trans (.setReg ..)).trans (.setReg ..)).trans (.setReg ..)).trans (.setReg ..)).trans (.setHive _ h _ rfl)
  · cases h <;> rfl
  · cases h <;> rfl
  · simp [Reg.FRM_LAST_LO, Reg.FRM_LAST_RECORDS, Reg.FRM_DRAIN_MAX]
    omega
  · simp [Reg.FRM_LAST_RECORDS, Reg.FRM_DRAIN_MAX]
  · simp only [List.mem_cons, List.not_mem_nil, or_false, not_or] at hno
    obtain ⟨hlo, hhi, hrecords, hdrain⟩ := hno
    rw [setReg_reg_off _ _ _ _ hpg hpg (by decide) ho hdrain, setReg_reg_off _ _ _ _ hpg hpg (by decide) ho hrecords,
      setReg_reg_off _ _ _ _ hpg hpg (by decide) ho hhi, setReg_reg_off _ _ _ _ hpg hpg (by decide) ho hlo]
    exact State.setHive_reg ..
  · rw [setReg_reg_group _ _ _ _ _ _ (by decide) (by decide) (by decide) ho (by decide),
      setReg_reg_group _ _ _ _ _ _ (by decide) (by decide) (by decide) ho (by decide),
      setReg_reg_group _ _ _ _ _ _ (by decide) (by decide) (by decide) ho (by decide),
      setReg_reg_group _ _ _ _ _ _ (by decide) (by decide) (by decide) ho (by decide)]
    exact State.setHive_reg ..

/-- The ranges of lost frames that a TRAIL unit has told of leave the list (R246). -/
def Framer.told (x : Framer) (o : OpenFrame) (notes : List (BitVec 40 × Nat)) : Framer :=
  { x with
    lostRanges := x.lostRanges.drop 15
    undelivered := x.undelivered.map (fun u => if u.2.2.isNone ∧ notes.any (fun r => decide ((u.1 - r.1).toNat < r.2)) then (u.1, u.2.1, some o.frame) else u) }

/-- What the commit of a TRAIL unit does once its packet is in the queue, but for the count of the lost frames. -/
def trailDone (h : HiveId) (o : OpenFrame) (queue pos len : Nat) (notes : List (BitVec 40 × Nat)) (s : State) : State :=
  (frameDone h o (addUnit h o queue 10 pos len s)).modFr h (·.told o notes)

/-- The words of the TRAIL unit of frame `o`. -/
def trailUnit (s : State) (o : OpenFrame) : List W64 :=
  trailWords o (tget 0 (trigOf s).refused o.frame.toNat) (tget 0 (trigOf s).late o.frame.toNat) ((framerOf s).lostRanges.take 15)

/-- A frame whose other units are all committed (R229). -/
def awaitsTrail (s : State) (o : OpenFrame) : Bool :=
  o.closed && o.headDone && !o.cb128 && !o.abandoned && decide (o.run = []) &&
    !(List.range 48).any (fun j => (s.job (higherClaim s) j).state ≠ 0 && (s.job (higherClaim s) j).frame = o.frame)

theorem trailerCommit_puts {n : Nat} (hf : (framerOf s).frames.find? (awaitsTrail s) = some o) (hn : o.slot = some n) {pos len : Nat}
    (hp : qPut s (higherClaim s) (80 + n) .device (trailUnit s o) = (t, qOk, some (pos, len))) :
    let notes := (framerOf s).lostRanges.take 15
    let u := trailDone (higherClaim s) o (80 + n) pos len notes t
    trailerCommit s = if notes = [] then u
      else raise (u.count (frmPage (higherClaim s)) Reg.FRM_LOST_CNT (notes.map (·.2)).sum) (frmPage (higherClaim s)) Reg.FRM_EVENTS (2 ^ 2) := by
  have hfind : (s.fr (higherClaim s)).frames.find? (awaitsTrail s) = some o := hf
  unfold trailUnit trigOf framerOf at hp
  unfold awaitsTrail at hfind
  unfold trailerCommit framerOf
  dsimp only
  rw [hfind]
  dsimp only
  rw [hn]
  dsimp only
  rw [hp]
  split
  · rename_i hr hc
    cases hc
    rfl
  · rename_i hno
    exact absurd rfl (hno pos len rfl)

/-- What the commit of a TRAIL unit does once its packet is in the queue. -/
theorem trailDone_effect (h : HiveId) (o : OpenFrame) (queue pos len : Nat) (notes : List (BitVec 40 × Nat)) (s : State) :
    let t := trailDone h o queue pos len notes s
    Works h s t ∧ (t.fr h).frames = (s.fr h).frames.filter (fun q => q.frame ≠ o.frame) ∧ (t.fr h).lostRanges = (s.fr h).lostRanges.drop 15 ∧
      (t.hive h).place.waiting = (s.hive h).place.waiting ++ [o.unit (s.hive h).place.arrivals 10 queue pos len] ∧
      t.reg64 (hivePage h 0x15) Reg.FRM_LAST_LO = o.frame.toNat ∧ t.reg (hivePage h 0x15) Reg.FRM_LAST_RECORDS = w32 (o.records % 2 ^ 24) ∧
      t.reg (hivePage h 0x15) Reg.FRM_LOST_CNT = s.reg (hivePage h 0x15) Reg.FRM_LOST_CNT := by
  have hadd := Edits.addUnit s h o queue 10 pos len
  have hframes := addUnit_fr s h o queue 10 pos len
  have hwait := addUnit_waiting s h o queue 10 pos len
  unfold trailDone
  dsimp only
  generalize addUnit h o queue 10 pos len s = u at *
  obtain ⟨hdone, hfr, hplace, hlast, hrecords, hregs, -⟩ := frameDone_effect h o u
  generalize frameDone h o u = v at *
  have htold := Edits.modFr v h (·.told o notes)
  have hplace' : ((v.modFr h (·.told o notes)).hive h).place = (v.hive h).place := by cases h <;> rfl
  have hreg (off : Nat) : (v.modFr h (·.told o notes)).reg (hivePage h 0x15) off = v.reg (hivePage h 0x15) off := reg_of_regs htold.regs ..
  refine ⟨hadd.works.trans (hdone.trans htold.works), ?_, ?_, ?_, ?_, (hreg _).trans hrecords, (hreg _).trans ((hregs _ (by decide) (by decide)).trans ?_)⟩
  · rw [modFr_fr, hfr, hframes]; rfl
  · rw [modFr_fr, hfr, hframes]; rfl
  · rw [hplace', hplace, hwait]
  · unfold State.reg64 at *
    rw [hreg, hreg, hlast]
  · exact reg_of_regs hadd.regs ..

/-- The TRAIL unit of a frame whose other units are all committed (R229, R245–R248). -/
theorem trailerCommit_runs {n : Nat} {d0 : W64} {hd tl : BitVec 32} (hf : s.fatal = false) (ho : OldestFrame s (awaitsTrail s) o)
    (hslot : o.slot = some n) (hn : n < 8) {notes : List (BitVec 40 × Nat)} (hnotes : notes = (framerOf s).lostRanges.take 15)
    {ws : List W64} (hws : ws = trailUnit s o) (hc : CanPut s (higherClaim s) (80 + n) d0 hd tl ws.length) :
    Runs .trailerCommit s fun t =>
      (∀ q, q ∈ (framerOf t).frames ↔ q ∈ (framerOf s).frames ∧ q.frame ≠ o.frame) ∧ UnitWaits s t o 10 (80 + n) tl.toNat ws.length ∧
      (framerOf t).lostRanges = (framerOf s).lostRanges.drop 15 ∧
      t.reg64 (hivePage (higherClaim s) 0x15) Reg.FRM_LAST_LO = o.frame.toNat ∧
      t.reg (hivePage (higherClaim s) 0x15) Reg.FRM_LAST_RECORDS = w32 (o.records % 2 ^ 24) ∧
      (notes ≠ [] → Marked t (hivePage (higherClaim s) 0x15) Reg.FRM_EVENTS 2 ∧
        t.reg (hivePage (higherClaim s) 0x15) Reg.FRM_LOST_CNT = satInc (s.reg (hivePage (higherClaim s) 0x15) Reg.FRM_LOST_CNT) (notes.map (·.2)).sum) ∧
      OutputOnly s t := by
  obtain ⟨hfind, -⟩ := ho
  have hexec : exec .trailerCommit s = done s (trailerCommit s) := congrArg (done s) (whileBuilding_live trailerCommit hf)
  obtain ⟨v, hv, -, hstore⟩ := qPut_canPut (by omega) hc
  subst hws
  rw [trailerCommit_puts hfind hslot hv] at hexec
  rw [← hnotes] at hexec
  obtain ⟨hdone, hframes, hranges, hwait, hlast, hrecords, hcount⟩ :=
    trailDone_effect (higherClaim s) o (80 + n) tl.toNat (trailUnit s o).length notes v
  generalize trailDone (higherClaim s) o (80 + n) tl.toNat (trailUnit s o).length notes v = w at *
  have hworks := hstore.works.trans hdone
  rw [hstore.fr] at hframes hranges
  rw [hstore.place] at hwait
  rw [reg_of_regs hstore.regs] at hcount
  have hleft (q : OpenFrame) : q ∈ (w.fr (higherClaim s)).frames ↔ q ∈ (framerOf s).frames ∧ q.frame ≠ o.frame := by
    rw [hframes, List.mem_filter, decide_eq_true_iff]
    rfl
  by_cases hnone : notes = []
  · rw [if_pos hnone] at hexec
    refine runs_of_done hexec hworks.pending ⟨fun q => ?_, unitWaits_of_waiting hwait, ?_, hlast, hrecords, absurd hnone, hworks.outputOnly rfl⟩
    · rw [framerOf_works hworks rfl]
      exact hleft q
    · rw [framerOf_works hworks rfl]
      exact hranges
  · rw [if_neg hnone] at hexec
    obtain ⟨hleaves, hmarked, hcounted, hregs⟩ := countRaise_effect (g := 0x15) (cnt := Reg.FRM_LOST_CNT) (ev := Reg.FRM_EVENTS)
      hworks.higherClaim (by decide) (by decide) (by decide) (by decide) (notes.map (·.2)).sum (b := 2) (by decide)
    have hall := hworks.trans hleaves.works
    refine runs_of_done hexec hall.pending ⟨fun q => ?_, unitWaits_of_waiting ((congrArg Place.waiting hleaves.place).trans hwait), ?_, ?_,
      (hregs _ (by decide) (by decide) (by decide) (by decide)).trans hrecords, fun _ => ⟨hmarked, by rw [hcounted, hcount]⟩, hall.outputOnly rfl⟩
    · rw [framerOf_works hall rfl, hleaves.fr]
      exact hleft q
    · rw [framerOf_works hall rfl, hleaves.fr]
      exact hranges
    · unfold State.reg64 at *
      rw [hregs _ (by decide) (by decide) (by decide) (by decide), hregs _ (by decide) (by decide) (by decide) (by decide), hlast]

end

end Sys2Proof.Machine

section
open Sys2Proof Sys2Proof.Machine Sys2Proof.Claims

/-- Settles O21: both units are packets put into a queue that can take them, and what follows changes the hive's frames and placement. -/
theorem headAndTrailUnits : Obligations.HeadAndTrailUnits := by
  unfold Obligations.HeadAndTrailUnits
  exact ⟨fun o n d0 hd tl s hf ho hslot hn hstop hc => headCommit_runs hf ho hslot hn hstop rfl rfl hc,
    fun o n d0 hd tl s hf ho hslot hn hc => trailerCommit_runs hf ho hslot hn rfl rfl hc⟩

end

namespace Sys2Proof.Machine
open Sys2Proof.Claims

/-! ### Input buffers read (R240, R252) -/

section
variable {h : HiveId} {s t u : State}

theorem settle_none (s : State) : settle s [] = s := by unfold settle deliver; rfl

/-- A word that reads undamaged is found by a look that leaves the state. -/
theorem hPeek_reads {w : Nat} {x : W64} (hr : WordReads s h w x) : hPeek s h w = (x, false) := by
  obtain ⟨⟨hheld, -⟩, -⟩ := id hr
  unfold hPeek
  rw [hheld, storeRead_reads hr]
  rfl

theorem hRead_reads {w : Nat} {x : W64} (hr : WordReads s h w x) (agent : Nat) : hRead s h agent w = (s, x, false) := by
  unfold hRead
  rw [hReadE_reads hr]
  dsimp only
  rw [settle_none]

/-- The first record of a job that is in the present input buffer and has not been read. -/
def Job.unread (b : Job) : Nat := max b.read (b.recs.length - b.present)

/-- The address of record `i` of a job in its present input buffer. -/
def Job.wordAt (b : Job) (j i : Nat) : Nat := inputAddr j b.buf (i - (b.recs.length - b.present))

/-- A numbered record as an engine has it once it has read the present input buffer. -/
def Job.recRead (b : Job) (s : State) (h : HiveId) (j : Nat) (e : Nat × StoreRec) : StoreRec :=
  if e.1 < b.unread then e.2 else { e.2 with word := (hPeek s h (b.wordAt j e.1)).1, poison := b.cb && e.2.poison }

/-- One record read from an input buffer. -/
def inputStep (h : HiveId) (j : Nat) (b : Job) (acc : State × List StoreRec × Bool) (e : Nat × StoreRec) : State × List StoreRec × Bool :=
  if e.1 < b.unread then (acc.1, acc.2.1 ++ [e.2], acc.2.2)
  else
    let (s, x, p) := hRead acc.1 h agEngine (b.wordAt j e.1)
    (s, acc.2.1 ++ [{ e.2 with word := x, poison := p || (b.cb && e.2.poison) }], acc.2.2 || p)

theorem bufferRead_eq (h : HiveId) (j : Nat) (s : State) :
    bufferRead h j s =
      let r := (List.zip (List.range (s.job h j).recs.length) (s.job h j).recs).foldl (inputStep h j (s.job h j)) (s, [], (s.job h j).poisoned)
      r.1.setJob h j { r.1.job h j with recs := r.2.1, read := r.2.1.length, poisoned := r.2.2 } := rfl

theorem inputStep_foldl {j : Nat} {b : Job} (l : List (Nat × StoreRec)) (got : List StoreRec) (bad : Bool)
    (hr : ∀ e ∈ l, b.unread ≤ e.1 → ∃ x, WordReads s h (b.wordAt j e.1) x) :
    l.foldl (inputStep h j b) (s, got, bad) = (s, got ++ l.map (b.recRead s h j), bad) := by
  induction l generalizing got with
  | nil => simp
  | cons e l ih =>
    have hstep : inputStep h j b (s, got, bad) e = (s, got ++ [b.recRead s h j e], bad) := by
      unfold inputStep Job.recRead
      split
      · rfl
      · rename_i hnew
        obtain ⟨x, hx⟩ := hr e (List.mem_cons_self ..) (not_lt.1 hnew)
        rw [hRead_reads hx, hPeek_reads hx]
        simp
    rw [List.foldl_cons, hstep, ih _ fun e he => hr e (List.mem_cons_of_mem _ he), List.map_cons, List.append_assoc]
    rfl

theorem mem_zip_range {α : Type} {l : List α} {e : Nat × α} (he : e ∈ List.zip (List.range l.length) l) : e.1 < l.length :=
  List.mem_range.1 (List.of_mem_zip (a := e.1) (b := e.2) he).1

/-- A job's input buffer that holds undamaged words is read. -/
theorem bufferRead_effect {j : Nat} {b : Job} (hb : s.job h j = b)
    (hr : ∀ i, b.unread ≤ i → i < b.recs.length → ∃ x, WordReads s h (b.wordAt j i) x) :
    bufferRead h j s = s.setJob h j { b with recs := inputRead s h j b, read := (inputRead s h j b).length } := by
  have hread : inputRead s h j b = (List.zip (List.range b.recs.length) b.recs).map (b.recRead s h j) := rfl
  rw [bufferRead_eq, hb, inputStep_foldl _ [] b.poisoned fun e he hnew => hr e.1 hnew (mem_zip_range he), List.nil_append, ← hread]
  dsimp only
  rw [hb]

/-- The records of a job whose input has all been read stand as they are. -/
theorem inputRead_all {b : Job} (j : Nat) (hb : b.recs.length ≤ b.read) : inputRead s h j b = b.recs := by
  have hread : inputRead s h j b = (List.zip (List.range b.recs.length) b.recs).map (b.recRead s h j) := rfl
  have hsame : ∀ e ∈ List.zip (List.range b.recs.length) b.recs, b.recRead s h j e = e.2 := fun e he =>
    if_pos ((mem_zip_range he).trans_le (hb.trans (le_max_left ..)))
  rw [hread, List.map_congr_left hsame]
  exact List.map_snd_zip (by simp)

end

end Sys2Proof.Machine

namespace Sys2Proof.Machine
open Sys2Proof.Claims

/-! ### Jobs coded into their queues, 64 words at a time (R242) -/

/-- What the coding of a job leaves: all but the frames, the store and the queues of hive `h`, and no open word closes. -/
structure Codes (h : HiveId) (s t : State) : Prop where
  works : Works h s t
  regs : t.regs = s.regs
  opened : ∀ w, WordOpen s h w → WordOpen t h w

section
variable {h : HiveId} {s t u : State}

theorem Codes.refl (h : HiveId) (s : State) : Codes h s s := ⟨.refl h s, rfl, fun _ => id⟩
theorem Codes.trans (a : Codes h s t) (b : Codes h t u) : Codes h s u :=
  ⟨a.works.trans b.works, b.regs.trans a.regs, fun w ho => b.opened w (a.opened w ho)⟩
theorem StoreOnly.codes (a : StoreOnly h s t) : Codes h s t := ⟨a.works, a.regs, a.opened⟩
theorem Edits.codes (a : Edits h s t) : Codes h s t := ⟨a.works, a.regs, fun _ => a.store.opened⟩

@[simp] theorem setJob_queue (s : State) (h : HiveId) (j : Nat) (b : Job) (q : Nat) : (s.setJob h j b).queue h q = s.queue h q := by cases h <;> rfl

theorem OpenPacket.setJob {q : Nat} {d0 : W64} {hd tl : BitVec 32} {n k : Nat} (hp : OpenPacket s h q d0 hd tl n k) (j : Nat) (b : Job) :
    OpenPacket (s.setJob h j b) h q d0 hd tl n k :=
  ⟨(Edits.setJob s h j b).queueAt hp.desc, (congrArg Queue.opened (setJob_queue ..)).trans hp.opened,
    (congrArg Queue.written (setJob_queue ..)).trans hp.written⟩

theorem writeWords_cons {j : Nat} {w : W64} (ws : List W64) (hw : qWriteE s h (32 + j) .device w = (t, [], qOk)) :
    writeWords h j (w :: ws) s = writeWords h j ws t := by
  have hq : qWrite s h (32 + j) .device w = (t, qOk) := by
    unfold qWrite
    rw [hw]
    dsimp only
    rw [settle_none]
  unfold writeWords
  rw [List.foldl_cons]
  dsimp only
  rw [hq]
  rfl

/-- The words of an open packet one after the other. -/
theorem writeWords_next {j : Nat} {d0 : W64} {hd tl : BitVec 32} (hr : HostRing (32 + j) d0) {n : Nat} (hlen : n < 2 ^ 24) (ws : List W64) {k : Nat}
    {s : State} (hp : OpenPacket s h (32 + j) d0 hd tl n k) (hk : k + ws.length ≤ n) (ho : ∀ i, i ≤ n → WordOpen s h (ringAddr d0 (ringPos tl i))) :
    ∃ t, writeWords h j ws s = (t, true) ∧ OpenPacket t h (32 + j) d0 hd tl n (k + ws.length) ∧ StoreOnly h s t := by
  induction ws generalizing s k with
  | nil => exact ⟨s, rfl, hp, .refl h s⟩
  | cons w ws ih =>
    rw [List.length_cons] at hk
    obtain ⟨u, hu, hpu, hsu⟩ := qWriteE_next hr hp (by omega) hlen (ho _ (by omega)) w
    obtain ⟨t, ht, hpt, hut⟩ := ih hpu (by omega) fun i hi => hsu.opened _ (ho i hi)
    refine ⟨t, (writeWords_cons ws hu).trans ht, ?_, hsu.trans hut⟩
    rwa [List.length_cons, show k + (ws.length + 1) = k + 1 + ws.length by omega]

/-- The job's queue as it stands with `n` words reserved and all of them written: without a packet at first, then with its packet open. -/
def Written (s : State) (h : HiveId) (q : Nat) (d0 : W64) (hd tl : BitVec 32) (n : Nat) : Prop :=
  (n = 0 ∧ QueueAt s h q d0 hd tl tl ∧ (s.queue h q).opened = none) ∨ (n ≠ 0 ∧ OpenPacket s h q d0 hd tl n n)

theorem Written.setJob {q : Nat} {d0 : W64} {hd tl : BitVec 32} {n : Nat} (hw : Written s h q d0 hd tl n) (j : Nat) (b : Job) :
    Written (s.setJob h j b) h q d0 hd tl n := by
  obtain ⟨hn, hq, hfree⟩ | ⟨hn, hp⟩ := hw
  · exact .inl ⟨hn, (Edits.setJob s h j b).queueAt hq, (congrArg Queue.opened (setJob_queue ..)).trans hfree⟩
  · exact .inr ⟨hn, hp.setJob j b⟩

/-- The next 64 words reserved. -/
theorem qReserve_block {q : Nat} {d0 : W64} {hd tl : BitVec 32} (hr : HostRing q d0) {n : Nat} (hw : Written s h q d0 hd tl n)
    (hsize : n + 64 + 1 ≤ 2 ^ d0Size d0 - 1) (hlen : n + 64 < 2 ^ 24) (hroom : (tl - hd).toNat + n + 64 + 1 ≤ 2 ^ d0Size d0) :
    ∃ t, qReserve s h q .device 64 = (t, qOk) ∧ OpenPacket t h q d0 hd tl (n + 64) n ∧ StoreOnly h s t := by
  have hsettled {t : State} (ht : qReserveE s h q .device 64 = (t, [], qOk)) : qReserve s h q .device 64 = (t, qOk) := by
    unfold qReserve
    rw [ht]
    dsimp only
    rw [settle_none]
  obtain ⟨rfl, hq, hfree⟩ | ⟨-, hp⟩ := hw
  · obtain ⟨t, ht, hpt, hst⟩ := qReserveE_fresh hr hq hfree (n := 64) hsize hlen (by unfold roomOf; omega)
    exact ⟨t, hsettled ht, hpt, hst⟩
  · obtain ⟨t, ht, hpt, hst⟩ := qReserveE_more hr hp hsize hlen hroom
    exact ⟨t, hsettled ht, hpt, hst⟩

/-- A job with `k` words written of `n` reserved. -/
def Job.coded (b : Job) (k n : Nat) : Job := { b with outWords := k, reserved := n }

section
variable {j : Nat} {b : Job} {ws : List W64} {d0 : W64} {hd tl : BitVec 32}

theorem runJob_done (hb : ws.length ≤ (s.job h j).outWords) (n : Nat) : runJob h j ws n s = s := by
  cases n with
  | zero => rfl
  | succ n =>
    unfold runJob
    exact if_pos (.inr hb)

theorem runJob_reserves {n k : Nat} (hb : s.job h j = b.coded k k) (hrun : b.state = 2) (hk : k < ws.length)
    (hq : qReserve s h (32 + j) .device 64 = (t, qOk)) (ht : t.fr h = s.fr h) :
    runJob h j ws (n + 1) s = runJob h j ws n (t.setJob h j (b.coded k (k + 64))) := by
  have hidle : ¬ ((b.coded k k).state ≠ 2 ∨ (b.coded k k).outWords ≥ ws.length) := by
    rintro (hs | hs)
    · exact hs hrun
    · exact absurd hk (not_lt.2 hs)
  have hfull : ¬ (b.coded k k).outWords < (b.coded k k).reserved := lt_irrefl k
  rw [runJob]
  dsimp only
  rw [hb, if_neg hidle, if_neg hfull, hq]
  dsimp only
  rw [if_pos rfl, job_of_fr ht, hb]
  rfl

theorem runJob_writes {n k r : Nat} (hb : s.job h j = b.coded k r) (hrun : b.state = 2) (hk : k < ws.length) (hr : k < r)
    (hw : writeWords h j ((ws.drop k).take (r - k)) s = (t, true)) (ht : t.fr h = s.fr h) :
    runJob h j ws (n + 1) s = runJob h j ws n (t.setJob h j (b.coded (k + ((ws.drop k).take (r - k)).length) r)) := by
  have hidle : ¬ ((b.coded k r).state ≠ 2 ∨ (b.coded k r).outWords ≥ ws.length) := by
    rintro (hs | hs)
    · exact hs hrun
    · exact absurd hk (not_lt.2 hs)
  have hpart : (b.coded k r).outWords < (b.coded k r).reserved := hr
  have hpartial : writeWords h j ((ws.drop (b.coded k r).outWords).take ((b.coded k r).reserved - (b.coded k r).outWords)) s = (t, true) := hw
  rw [runJob]
  dsimp only
  rw [hb, if_neg hidle, if_pos hpart, hpartial]
  dsimp only
  rw [if_pos rfl, job_of_fr ht, hb]
  rfl

/-- One block of 64 words reserved, and as much of it written as the job has words. -/
theorem runJob_block {n k : Nat} (hb : s.job h j = b.coded k k) (hrun : b.state = 2) (hk : k < ws.length) (hr : HostRing (32 + j) d0)
    (hw : Written s h (32 + j) d0 hd tl k) (hsize : k + 64 + 1 ≤ 2 ^ d0Size d0 - 1) (hlen : k + 64 < 2 ^ 24)
    (hroom : (tl - hd).toNat + k + 64 + 1 ≤ 2 ^ d0Size d0) (ho : ∀ i, i ≤ k + 64 → WordOpen s h (ringAddr d0 (ringPos tl i))) :
    ∃ t, runJob h j ws (n + 2) s = runJob h j ws n t ∧ t.job h j = b.coded (min (k + 64) ws.length) (k + 64) ∧
      OpenPacket t h (32 + j) d0 hd tl (k + 64) (min (k + 64) ws.length) ∧ Codes h s t := by
  obtain ⟨u, hu, hpu, hsu⟩ := qReserve_block hr hw hsize hlen hroom
  have hreserved := hpu.setJob j (b.coded k (k + 64))
  have hjob : (u.setJob h j (b.coded k (k + 64))).job h j = b.coded k (k + 64) := by rw [setJob_job, if_pos rfl]
  have hcodes := hsu.codes.trans (Edits.setJob u h j (b.coded k (k + 64))).codes
  have hcount : ((ws.drop k).take (k + 64 - k)).length = min (k + 64) ws.length - k := by
    rw [List.length_take, List.length_drop]; omega
  obtain ⟨v, hv, hpv, hsv⟩ := writeWords_next hr hlen ((ws.drop k).take (k + 64 - k)) hreserved (by omega) fun i hi => hcodes.opened _ (ho i hi)
  have hsum : k + ((ws.drop k).take (k + 64 - k)).length = min (k + 64) ws.length := by omega
  rw [hsum] at hpv
  refine ⟨v.setJob h j (b.coded (min (k + 64) ws.length) (k + 64)), ?_, ?_, hpv.setJob j _,
    hcodes.trans (hsv.codes.trans (Edits.setJob v h j _).codes)⟩
  · rw [runJob_reserves hb hrun hk hu hsu.fr, runJob_writes hjob hrun hk (by omega) hv hsv.fr, hsum]
  · rw [setJob_job, if_pos rfl]

/-- A job that its queue has room for is coded to its last word, in `m` blocks. -/
theorem runJob_all {m : Nat} {n k : Nat} {s : State} (hm : m = (ws.length - k + 63) / 64) (hn : 2 * m ≤ n) (hb : s.job h j = b.coded k k)
    (hrun : b.state = 2) (hk : k < ws.length) (hr : HostRing (32 + j) d0) (hw : Written s h (32 + j) d0 hd tl k)
    (hsize : k + 64 * m + 1 ≤ 2 ^ d0Size d0 - 1) (hlen : k + 64 * m < 2 ^ 24) (hroom : (tl - hd).toNat + k + 64 * m + 1 ≤ 2 ^ d0Size d0)
    (ho : ∀ i, i ≤ k + 64 * m → WordOpen s h (ringAddr d0 (ringPos tl i))) :
    ∃ t, runJob h j ws n s = t ∧ t.job h j = b.coded ws.length (k + 64 * m) ∧ OpenPacket t h (32 + j) d0 hd tl (k + 64 * m) ws.length ∧ Codes h s t := by
  induction m generalizing n k s with
  | zero => omega
  | succ m ih =>
    obtain ⟨n, rfl⟩ : ∃ i, n = i + 2 := ⟨n - 2, by omega⟩
    obtain ⟨u, hu, hjob, hpu, hcodes⟩ := runJob_block (n := n) hb hrun hk hr hw (by omega) (by omega) (by omega) fun i hi => ho i (by omega)
    obtain hlast | hmore : ws.length ≤ k + 64 ∨ k + 64 < ws.length := le_or_gt _ _
    · obtain rfl : m = 0 := by omega
      rw [min_eq_right hlast] at hjob hpu
      exact ⟨u, hu.trans (runJob_done (by rw [hjob]; exact le_rfl) n), hjob, hpu, hcodes⟩
    · rw [min_eq_left hmore.le] at hjob hpu
      have hsum : k + 64 * (m + 1) = k + 64 + 64 * m := by omega
      obtain ⟨t, ht, hjobt, hpt, hcodest⟩ := ih (n := n) (by omega) (by omega) hjob hmore (.inr ⟨by omega, hpu⟩) (by omega) (by omega) (by omega)
        fun i hi => hcodes.opened _ (ho i (by omega))
      rw [hsum]
      exact ⟨t, hu.trans ht, hjobt, hpt, hcodes.trans hcodest⟩

end
end

end Sys2Proof.Machine

namespace Sys2Proof.Machine
open Sys2Proof.Claims

/-! ### Jobs that start (R240–R242) -/

section
variable {h : HiveId} {s t : State}

/-- The words a job has ready rest on its coding alone. -/
theorem jobWords_started (hf : (t.fr h).frames = (s.fr h).frames) (b : Job) (recs : List StoreRec) (read : Nat) :
    jobWords t h { b with state := 2, resumable := false, recs := recs, read := read } = jobWords s h { b with recs := recs } := by
  unfold jobWords
  rw [hf]

/-- The job that an engine has taken and whose input buffer it has read. -/
def Job.started (b : Job) (s : State) (h : HiveId) (j : Nat) : Job :=
  { b with state := 2, resumable := false, recs := inputRead s h j b, read := if b.read < b.recs.length then (inputRead s h j b).length else b.read }

/-- The job as it rests once its input is coded as far as it goes. -/
def Job.rested (b : Job) (ends : List Nat) : Job :=
  { b with inWords := codedIn b.cb ends b.outWords, present := if b.cb then 0 else b.present, state := if b.cb ∧ !b.ended then 1 else 2 }

/-- An engine that takes job `j` and reads its input buffer. -/
def takeJob (h : HiveId) (j : Nat) (s : State) : State :=
  let s := s.setJob h j { s.job h j with state := 2, resumable := false }
  if (s.job h j).read < (s.job h j).recs.length then bufferRead h j s else s

/-- What an engine reads of undamaged words rests on the store alone. -/
theorem inputRead_sameStore {j : Nat} {b : Job} (hs : SameStore h s t)
    (hr : ∀ i, b.unread ≤ i → i < b.recs.length → ∃ x, WordReads s h (b.wordAt j i) x) : inputRead t h j b = inputRead s h j b := by
  refine List.map_congr_left fun e he => ?_
  change b.recRead t h j e = b.recRead s h j e
  unfold Job.recRead
  by_cases hold : e.1 < b.unread
  · rw [if_pos hold, if_pos hold]
  · obtain ⟨x, hx⟩ := hr e.1 (not_lt.1 hold) (mem_zip_range he)
    rw [if_neg hold, if_neg hold, hPeek_reads hx, hPeek_reads (hs.reads hx)]

theorem takeJob_effect {j : Nat} {b : Job} (hb : s.job h j = b)
    (hr : ∀ i, b.unread ≤ i → i < b.recs.length → ∃ x, WordReads s h (b.wordAt j i) x) :
    Edits h s (takeJob h j s) ∧ (takeJob h j s).job h j = b.started s h j ∧ ((takeJob h j s).fr h).frames = (s.fr h).frames ∧
      ∀ q, (takeJob h j s).queue h q = s.queue h q := by
  subst hb
  have hset := Edits.setJob s h j { s.job h j with state := 2, resumable := false }
  have hjob : (s.setJob h j { s.job h j with state := 2, resumable := false }).job h j = { s.job h j with state := 2, resumable := false } := by
    rw [setJob_job, if_pos rfl]
  have hread : inputRead (s.setJob h j { s.job h j with state := 2, resumable := false }) h j { s.job h j with state := 2, resumable := false } =
      inputRead s h j (s.job h j) := inputRead_sameStore hset.store hr
  unfold takeJob Job.started
  dsimp only
  rw [hjob]
  by_cases hnew : (s.job h j).read < (s.job h j).recs.length
  · rw [if_pos hnew, if_pos hnew, bufferRead_effect hjob fun i hi hlt => (hr i hi hlt).imp fun x hx => hset.store.reads hx, hread]
    refine ⟨hset.trans (.setJob ..), ?_, ?_, fun q => ?_⟩
    · rw [setJob_job, if_pos rfl]
    · rw [setJob_fr, setJob_fr]
    · rw [setJob_queue, setJob_queue]
  · rw [if_neg hnew, if_neg hnew, inputRead_all j (not_lt.1 hnew), hjob]
    refine ⟨hset, rfl, ?_, fun q => ?_⟩
    · rw [setJob_fr]
    · rw [setJob_queue]

/-- The start of job `j`, the next one, by an engine that is free. -/
theorem jobStart_takes {j : Nat} (hthr : s.chip.throttle < 2) (hrun : runningJobs s (higherClaim s) < 6) (hj : nextJob s (higherClaim s) = some j) :
    let h := higherClaim s
    let u := takeJob h j s
    let w := jobWords u h (u.job h j)
    let v := runJob h j w.1 (2 * w.1.length / 64 + 4) u
    jobStart s = if (v.job h j).state ≠ 2 then v
      else if (v.job h j).cb then cbFeed h (v.job h j).frame (v.job h j).index (v.setJob h j ((v.job h j).rested w.2.2))
      else v.setJob h j ((v.job h j).rested w.2.2) := by
  have hidle : ¬ (deferring s = true ∨ runningJobs s (higherClaim s) ≥ 6) := by
    unfold deferring
    rw [decide_eq_true_iff]
    omega
  unfold jobStart
  dsimp only
  rw [if_neg hidle, hj]
  rfl

/-- What a job rests at after it is coded, and the input that a source frame's job takes next. -/
theorem rested_effect {j : Nat} {b : Job} (ha : higherClaim t = h) {ends : List Nat} {u : State}
    (hu : u = if b.cb then cbFeed h b.frame b.index (t.setJob h j (b.rested ends)) else t.setJob h j (b.rested ends)) :
    Works h t u ∧ SameProgress (b.rested ends) (u.job h j) ∧ (∀ q, q ≠ 0 → u.queue h q = t.queue h q) ∧ (b.cb = false → Edits h t u) := by
  have hset := Edits.setJob t h j (b.rested ends)
  have hjob : (t.setJob h j (b.rested ends)).job h j = b.rested ends := by rw [setJob_job, if_pos rfl]
  subst hu
  cases hcb : b.cb with
  | false =>
    rw [if_neg Bool.false_ne_true]
    exact ⟨hset.works, by rw [hjob]; exact .refl _, fun q _ => setJob_queue .., fun _ => hset⟩
  | true =>
    rw [if_pos rfl]
    have hs := hset.works.higherClaim.trans ha
    obtain ⟨hprogress, hqueue⟩ := cbFeed_keeps hs b.frame b.index
    have hsame := hprogress j
    rw [hjob] at hsame
    exact ⟨hset.works.trans (cbFeed_step hs b.frame b.index).works, hsame, fun q hq => (hqueue q hq).trans (setJob_queue ..), nofun⟩

/-- The next job, taken, read and coded as its queue has room for it (R240–R242). -/
theorem jobStart_runs {j : Fin 48} {b : Job} {d0 : W64} {hd tl rs : BitVec 32} (hf : s.fatal = false) (hthr : s.chip.throttle < 2)
    (hrun : runningJobs s (higherClaim s) < 6) (hnext : nextJob s (higherClaim s) = some j.val) (hb : s.job (higherClaim s) j.val = b)
    (hr : ∀ i, b.unread ≤ i → i < b.recs.length → ∃ x, WordReads s (higherClaim s) (b.wordAt j.val i) x) {ws : List W64}
    (hws : ws = (jobWords s (higherClaim s) { b with recs := inputRead s (higherClaim s) j.val b }).1) {need : Nat}
    (hneed : need = 64 * ((ws.length - b.reserved + 63) / 64)) (hall : b.outWords = b.reserved) (hmore : b.outWords < ws.length)
    (hq : QueueAt s (higherClaim s) (32 + j.val) d0 hd tl rs) (hopen : QueueOpenTo s (higherClaim s) (32 + j.val) .device d0)
    (hpacket : b.reserved = 0 ∧ (s.queue (higherClaim s) (32 + j.val)).opened = none ∧ rs = tl ∨
      b.reserved ≠ 0 ∧ (s.queue (higherClaim s) (32 + j.val)).opened = some .device ∧ (s.queue (higherClaim s) (32 + j.val)).written = b.outWords ∧
        rs = ringPos tl (b.reserved + 1))
    (hsize : b.reserved + need + 1 ≤ 2 ^ d0Size d0 - 1) (hlen : b.reserved + need < 2 ^ 24)
    (hroom : (tl - hd).toNat + b.reserved + need + 1 ≤ 2 ^ d0Size d0)
    (ho : ∀ i, i ≤ b.reserved + need → WordOpen s (higherClaim s) (ringAddr d0 (ringPos tl i))) :
    Runs .jobStart s fun t =>
      (t.job (higherClaim s) j.val).state = (if b.cb = true ∧ b.ended = false then 1 else 2) ∧ (t.job (higherClaim s) j.val).outWords = ws.length ∧
      (t.job (higherClaim s) j.val).reserved = b.reserved + need ∧ (t.queue (higherClaim s) (32 + j.val)).opened = some .device ∧
      (t.queue (higherClaim s) (32 + j.val)).written = ws.length ∧
      (b.cb = false → QueueAt t (higherClaim s) (32 + j.val) d0 hd tl (ringPos tl (b.reserved + need + 1)) ∧ t.regs = s.regs) ∧ OutputOnly s t := by
  have hexec : exec .jobStart s = done s (jobStart s) := congrArg (done s) (whileBuilding_live jobStart hf)
  have hstart := jobStart_takes hthr hrun hnext
  dsimp only at hstart
  obtain ⟨htake, hjob, hframes, hqueues⟩ := takeJob_effect hb hr
  have hcoded : b.started s (higherClaim s) j.val = (b.started s (higherClaim s) j.val).coded b.reserved b.reserved := by
    unfold Job.coded Job.started
    rw [hall]
  have hwords : jobWords (takeJob (higherClaim s) j.val s) (higherClaim s) (b.started s (higherClaim s) j.val) =
      jobWords s (higherClaim s) { b with recs := inputRead s (higherClaim s) j.val b } := jobWords_started hframes b _ _
  rw [hjob, hwords] at hstart
  generalize (jobWords s (higherClaim s) { b with recs := inputRead s (higherClaim s) j.val b }).2.2 = ends at hstart
  rw [← hws] at hstart
  have hwritten : Written (takeJob (higherClaim s) j.val s) (higherClaim s) (32 + j.val) d0 hd tl b.reserved := by
    unfold Written
    rw [hqueues]
    obtain ⟨hnone, hfree, rfl⟩ | ⟨hsome, hheld, hcount, rfl⟩ := hpacket
    · exact .inl ⟨hnone, htake.queueAt hq, hfree⟩
    · refine .inr ⟨hsome, htake.queueAt hq, ?_, ?_⟩
      · rw [hqueues, hheld]
      · rw [hqueues, hcount, hall]
  generalize takeJob (higherClaim s) j.val s = u at *
  subst hneed
  rw [hall] at hmore
  obtain ⟨v, hv, hjobv, hpv, hcodes⟩ := runJob_all (n := 2 * ws.length / 64 + 4) rfl (by omega) (hjob.trans hcoded) rfl hmore
    (hostRing_of_open (by omega) hopen) hwritten hsize hlen hroom fun i hi => htake.store.opened (ho i hi)
  have hlive : ¬ ((b.started s (higherClaim s) j.val).coded ws.length (b.reserved + 64 * ((ws.length - b.reserved + 63) / 64))).state ≠ 2 :=
    not_not_intro rfl
  rw [hv, hjobv, if_neg hlive] at hstart
  have hcv := htake.codes.trans hcodes
  obtain ⟨hworks, ⟨hstate, hout, hres⟩, hqueue, hedit⟩ := rested_effect (hcv.works.higherClaim.trans rfl) hstart
  generalize jobStart s = t at *
  have hwt := hcv.works.trans hworks
  refine runs_of_done hexec hwt.pending ⟨hstate.trans ?_, hout, hres, ?_, ?_, fun hcb => ?_, hwt.outputOnly rfl⟩
  · simp only [Job.rested, Job.coded, Job.started, Bool.not_eq_true']
  · rw [hqueue _ (by omega)]
    exact hpv.opened
  · rw [hqueue _ (by omega)]
    exact hpv.written
  · have he := hedit hcb
    exact ⟨he.queueAt hpv.desc, he.regs.trans hcv.regs⟩

end

end Sys2Proof.Machine

namespace Sys2Proof.Machine
open Sys2Proof.Claims

/-! ### Paused jobs (R242) -/

section
variable {h : HiveId} {s t : State} {o : OpenFrame} {b : Job}

/-- A paused job becomes resumable when its queue can grant the next 64 words. -/
theorem jobResumable_runs {j : Fin 48} {d0 : W64} {hd tl rs : BitVec 32} (hstate : (s.job (higherClaim s) j.val).state = 3)
    (hpaused : (s.job (higherClaim s) j.val).resumable = false) (hq : QueueAt s (higherClaim s) (32 + j.val) d0 hd tl rs) (hen : d0En d0 = true)
    (hroom : (if (s.queue (higherClaim s) (32 + j.val)).opened.isSome then 64 else 65) ≤ roomOf d0 hd rs) :
    Runs (.jobResumable j) s fun t => t.job (higherClaim s) j.val = { s.job (higherClaim s) j.val with resumable := true } ∧
      t.regs = s.regs ∧ t.combs = s.combs ∧ OutputOnly s t := by
  have hdesc : qDesc s (higherClaim s) (32 + j.val) = (s, ⟨d0, hd, tl, rs⟩) := by
    unfold qDesc
    rw [qDescE_at hq]
    dsimp only
    rw [settle_none]
  have hqen : qEnabled s (higherClaim s) (32 + j.val) d0 = true := by
    unfold qEnabled
    rw [frameQueue_hosted (by omega)]
    exact hen
  have hpause : ¬ ((s.job (higherClaim s) j.val).state ≠ 3 ∨ (s.job (higherClaim s) j.val).resumable = true) := by
    rw [hstate, hpaused]
    decide
  have hresume : jobResumable j.val s = s.setJob (higherClaim s) j.val { s.job (higherClaim s) j.val with resumable := true } := by
    unfold jobResumable
    dsimp only
    rw [if_neg hpause, hdesc]
    dsimp only
    exact if_pos ⟨hstate, hqen, hroom⟩
  have hedit := Edits.setJob s (higherClaim s) j.val { s.job (higherClaim s) j.val with resumable := true }
  refine runs_of_done (congrArg (done s) hresume) hedit.works.pending ⟨?_, hedit.regs, hedit.works.combs, hedit.works.outputOnly rfl⟩
  rw [setJob_job, if_pos rfl]

/-! ### Jobs that complete (R229, R250, R258) -/

/-- The frame that has taken the unit of one of its jobs. -/
def OpenFrame.blocked (o : OpenFrame) (b : Job) : OpenFrame :=
  { o with cblocks := o.cblocks + 1, poison := o.poison || b.recs.any (·.poison), cbSent := if b.cb then o.cbSent + 1 else o.cbSent }

/-- The totals with the records and the words of a job (R258). -/
def Framer.totalled (x : Framer) (b : Job) (words : Nat) : Framer :=
  { x with recTotal := x.recTotal + BitVec.ofNat 64 b.recs.length, wordTotal := x.wordTotal + BitVec.ofNat 64 (words - unitHeader b.cb) }

/-- The place that the unit of a job takes among those of its frame (R280). -/
def Job.rank (b : Job) : Nat := if b.cb then 1 + b.index else 1

/-- What the commit of a job's unit does to its frame, its job and the totals. -/
def unitTaken (h : HiveId) (j : Nat) (o : OpenFrame) (b : Job) (pos len words : Nat) (s : State) : State :=
  (((addUnit h o (32 + j) b.rank pos len s).setJob h j {}).modFrame h o.frame (·.blocked b)).modFr h (·.totalled b words)

/-- The counters of a job that completes, and the event of one that read a poisoned word (R258). -/
def countJob (h : HiveId) (b : Job) (isRaw : Bool) (s : State) : State :=
  let s := s.count (cmpPage h) Reg.CMP_JOB_CNT
  let s := if isRaw then s.count (cmpPage h) Reg.CMP_RAW_CNT else s
  if b.poisoned then raise (s.count (cmpPage h) Reg.CMP_POISON_CNT) (cmpPage h) Reg.CMP_EVENTS (2 ^ 1) else s

theorem unitTaken_effect (h : HiveId) (j : Nat) (o : OpenFrame) (b : Job) (pos len words : Nat) (s : State) :
    let t := unitTaken h j o b pos len words s
    Edits h s t ∧ (t.job h j).state = 0 ∧ (t.fr h).recTotal = (s.fr h).recTotal + BitVec.ofNat 64 b.recs.length ∧
      (t.hive h).place.waiting = (s.hive h).place.waiting ++ [o.unit (s.hive h).place.arrivals b.rank (32 + j) pos len] := by
  have hadd := Edits.addUnit s h o (32 + j) b.rank pos len
  have hfr := addUnit_fr s h o (32 + j) b.rank pos len
  have hwait := addUnit_waiting s h o (32 + j) b.rank pos len
  unfold unitTaken
  dsimp only
  generalize addUnit h o (32 + j) b.rank pos len s = u at *
  have hedit := ((hadd.trans (.setJob u h j {})).trans (.modFrame _ h o.frame (·.blocked b))).trans (.modFr _ h (·.totalled b words))
  refine ⟨hedit, ?_, ?_, ?_⟩
  · have hfree : ((u.setJob h j {}).modFrame h o.frame (·.blocked b)).job h j = {} := by rw [modFrame_job, setJob_job, if_pos rfl]
    unfold State.job
    rw [modFr_fr]
    exact congrArg Job.state hfree
  · rw [modFr_fr, modFrame_fr, setJob_fr, hfr]
    rfl
  · rw [← hwait]
    cases h <;> rfl

theorem countJob_effect (ha : higherClaim s = h) (b : Job) (isRaw : Bool) :
    let t := countJob h b isRaw s
    Leaves (onHives 0x16) h s t ∧ t.reg (hivePage h 0x16) Reg.CMP_JOB_CNT = satInc (s.reg (hivePage h 0x16) Reg.CMP_JOB_CNT) 1 ∧
      (b.poisoned = true → Marked t (hivePage h 0x16) Reg.CMP_EVENTS 1 ∧
        t.reg (hivePage h 0x16) Reg.CMP_POISON_CNT = satInc (s.reg (hivePage h 0x16) Reg.CMP_POISON_CNT) 1) := by
  have hpg : hivePage h 0x16 % 2 ^ 12 = 0 := page_mod _ _ _
  have hjob : Leaves (onHives 0x16) h s (s.count (cmpPage h) Reg.CMP_JOB_CNT) := .setReg h s (by decide) (by decide) _
  have hcount : (s.count (cmpPage h) Reg.CMP_JOB_CNT).reg (hivePage h 0x16) Reg.CMP_JOB_CNT = satInc (s.reg (hivePage h 0x16) Reg.CMP_JOB_CNT) 1 := count_reg ..
  have hother : (s.count (cmpPage h) Reg.CMP_JOB_CNT).reg (hivePage h 0x16) Reg.CMP_POISON_CNT = s.reg (hivePage h 0x16) Reg.CMP_POISON_CNT :=
    setReg_reg_off _ _ _ _ hpg hpg (by decide) (by decide) (by decide)
  unfold countJob
  dsimp only
  generalize s.count (cmpPage h) Reg.CMP_JOB_CNT = u at *
  have hraw : Leaves (onHives 0x16) h u (if isRaw then u.count (cmpPage h) Reg.CMP_RAW_CNT else u) ∧
      ∀ off, off < 2 ^ 12 → off ≠ Reg.CMP_RAW_CNT → (if isRaw then u.count (cmpPage h) Reg.CMP_RAW_CNT else u).reg (hivePage h 0x16) off = u.reg (hivePage h 0x16) off := by
    cases isRaw with
    | false => exact ⟨.refl h u, fun _ _ _ => rfl⟩
    | true => exact ⟨.setReg h u (by decide) (by decide) _, fun off ho hne => setReg_reg_off _ _ _ _ hpg hpg (by decide) ho hne⟩
  generalize (if isRaw then u.count (cmpPage h) Reg.CMP_RAW_CNT else u) = v at *
  obtain ⟨hleaves, hkept⟩ := hraw
  have hv := hjob.trans hleaves
  have hjobv := (hkept Reg.CMP_JOB_CNT (by decide) (by decide)).trans hcount
  cases hp : b.poisoned with
  | false => exact ⟨hv, hjobv, nofun⟩
  | true =>
    rw [if_pos rfl]
    obtain ⟨hpoison, hmarked, hcounted, hregs⟩ := countRaise_effect (g := 0x16) (cnt := Reg.CMP_POISON_CNT) (ev := Reg.CMP_EVENTS)
      (hv.works.higherClaim.trans ha) (by decide) (by decide) (by decide) (by decide) 1 (b := 1) (by decide)
    refine ⟨hv.trans hpoison, (hregs _ (by decide) (by decide) (by decide) (by decide)).trans hjobv, fun _ => ⟨hmarked, hcounted.trans ?_⟩⟩
    rw [hkept _ (by decide) (by decide), hother]

/-- The commit of the unit of a job whose words are all written. -/
theorem jobComplete_commits {j : Nat} {ws : List W64} {isRaw : Bool} {ends : List Nat} (hb : s.job (higherClaim s) j = b)
    (hw : jobWords s (higherClaim s) b = (ws, isRaw, ends)) (hstate : b.state = 2) (hended : b.ended = true) (hall : b.outWords = ws.length) (hne : ws ≠ [])
    (hf : (framerOf s).frames.find? (fun o => o.frame = b.frame) = some o) (hcb : b.cb = true → o.cbSent = b.index) {pos len : Nat}
    (hc : qCommit s (higherClaim s) (32 + j) .device = (t, qOk, some (pos, len))) :
    let u := countJob (higherClaim s) b isRaw (unitTaken (higherClaim s) j o b pos len ws.length t)
    jobComplete j s = if b.cb ∧ b.index = 8 then frameDone (higherClaim s) o u else u := by
  have hready : ¬ (b.state ≠ 2 ∨ (!b.ended) = true ∨ b.outWords < ws.length ∨ ws = []) := by
    rw [hstate, hended, hall]
    simp [hne]
  have hturn : ¬ (b.cb = true ∧ o.cbSent ≠ b.index) := fun ⟨hc, hi⟩ => hi (hcb hc)
  have hfind : (s.fr (higherClaim s)).frames.find? (fun o => o.frame = b.frame) = some o := hf
  unfold jobComplete
  dsimp only
  rw [hb, hw]
  dsimp only
  rw [if_neg hready, hfind]
  dsimp only
  rw [if_neg hturn, hc]
  split
  · rename_i hr hc
    cases hc
    rfl
  · rename_i hno
    exact absurd rfl (hno pos len rfl)

/-- The job is free again, its unit of `len` words waits for placement, and its totals are added. -/
def JobCommitted (j : Fin 48) (o : OpenFrame) (b : Job) (pos len : Nat) (s t : State) : Prop :=
  (t.job (higherClaim s) j.val).state = 0 ∧ UnitWaits s t o b.rank (32 + j.val) pos len ∧
  (framerOf t).recTotal = (framerOf s).recTotal + BitVec.ofNat 64 b.recs.length ∧
  t.reg (hivePage (higherClaim s) 0x16) Reg.CMP_JOB_CNT = satInc (s.reg (hivePage (higherClaim s) 0x16) Reg.CMP_JOB_CNT) 1 ∧
  (b.poisoned = true → Marked t (hivePage (higherClaim s) 0x16) Reg.CMP_EVENTS 1 ∧
    t.reg (hivePage (higherClaim s) 0x16) Reg.CMP_POISON_CNT = satInc (s.reg (hivePage (higherClaim s) 0x16) Reg.CMP_POISON_CNT) 1) ∧
  t.lanes = s.lanes ∧ t.cells = s.cells ∧ t.blocks = s.blocks ∧ t.chip = s.chip

/-- A job whose words are all written commits its unit, and its totals are added (R229, R258). -/
theorem jobComplete_runs {j : Fin 48} {d0 : W64} {hd tl rs : BitVec 32} (hf : s.fatal = false)
    (hfind : (framerOf s).frames.find? (fun o => o.frame = b.frame) = some o) (hb : s.job (higherClaim s) j.val = b) (hstate : b.state = 2)
    (hended : b.ended = true) (hcb : b.cb = true → o.cbSent = b.index) {ws : List W64} (hws : ws = (jobWords s (higherClaim s) b).1) (hne : ws ≠ [])
    (hall : b.outWords = ws.length) (hq : QueueAt s (higherClaim s) (32 + j.val) d0 hd tl rs)
    (hopen : QueueOpenTo s (higherClaim s) (32 + j.val) .device d0) (hheld : (s.queue (higherClaim s) (32 + j.val)).opened = some .device)
    (hcount : (s.queue (higherClaim s) (32 + j.val)).written = ws.length) (ho : WordOpen s (higherClaim s) (ringAddr d0 tl)) :
    Runs (.jobComplete j) s fun t => JobCommitted j o b tl.toNat ws.length s t := by
  have hexec : exec (.jobComplete j) s = done s (jobComplete j.val s) := congrArg (done s) (whileBuilding_live (jobComplete j.val) hf)
  obtain ⟨v, hv, -, hstore⟩ := qCommitE_open (hostRing_of_open (by omega) hopen) hq hheld hcount (List.length_pos_iff.2 hne).ne' ho
  have hcommit : qCommit s (higherClaim s) (32 + j.val) .device = (v, qOk, some (tl.toNat, ws.length)) := by
    unfold qCommit
    rw [hv]
    dsimp only
    rw [settle_none]
  obtain ⟨isRaw, ends, hwords⟩ : ∃ isRaw ends, jobWords s (higherClaim s) b = (ws, isRaw, ends) := ⟨_, _, by rw [hws]⟩
  rw [jobComplete_commits hb hwords hstate hended hall hne hfind hcb hcommit] at hexec
  obtain ⟨htaken, hzero, htotal, hwait⟩ := unitTaken_effect (higherClaim s) j.val o b tl.toNat ws.length ws.length v
  generalize unitTaken (higherClaim s) j.val o b tl.toNat ws.length ws.length v = u at *
  have hu := hstore.works.trans htaken.works
  have hregs : u.regs = s.regs := htaken.regs.trans hstore.regs
  obtain ⟨hleaves, hjobs, hpoison⟩ := countJob_effect hu.higherClaim b isRaw
  generalize countJob (higherClaim s) b isRaw u = w at *
  have hw := hu.trans hleaves.works
  rw [hstore.place] at hwait
  rw [hstore.fr] at htotal
  rw [reg_of_regs hregs] at hjobs hpoison
  have hend {t : State} (ht : Works (higherClaim s) w t) (hjt : (t.fr (higherClaim s)).jobs = (w.fr (higherClaim s)).jobs)
      (hrt : (t.fr (higherClaim s)).recTotal = (w.fr (higherClaim s)).recTotal) (hpt : (t.hive (higherClaim s)).place = (w.hive (higherClaim s)).place)
      (hreg : ∀ off, off < 2 ^ 12 → t.reg (hivePage (higherClaim s) 0x16) off = w.reg (hivePage (higherClaim s) 0x16) off) :
      t.pending = s.pending ∧ JobCommitted j o b tl.toNat ws.length s t := by
    have hall := hw.trans ht
    refine ⟨hall.pending, ?_, unitWaits_of_waiting ((congrArg Place.waiting (hpt.trans hleaves.place)).trans hwait), ?_,
      (hreg _ (by decide)).trans hjobs, fun hp => ?_, hall.lanes, hall.cells, hall.blocks, hall.chip⟩
    · unfold State.job at *
      rw [hjt, hleaves.fr, hzero]
    · rw [framerOf_works hall rfl, hrt, hleaves.fr]
      exact htotal
    · obtain ⟨hmarked, hcounted⟩ := hpoison hp
      unfold Marked at *
      rw [hreg _ (by decide), hreg _ (by decide)]
      exact ⟨hmarked, hcounted⟩
  by_cases hlast : b.cb = true ∧ b.index = 8
  · rw [if_pos hlast] at hexec
    obtain ⟨hdone, hfr, hplace, -, -, -, hreg⟩ := frameDone_effect (higherClaim s) o w
    obtain ⟨hpend, hclaims⟩ := hend hdone (by rw [hfr]) (by rw [hfr]) hplace hreg
    exact runs_of_done hexec hpend hclaims
  · rw [if_neg hlast] at hexec
    obtain ⟨hpend, hclaims⟩ := hend (.refl _ w) rfl rfl rfl fun _ _ => rfl
    exact runs_of_done hexec hpend hclaims

end

end Sys2Proof.Machine

section
open Sys2Proof Sys2Proof.Machine Sys2Proof.Claims

/-- Settles O22: a job is coded by induction on the blocks of 64 words that it reserves, and committed as the packet open in its queue. -/
theorem compressionJobs : Obligations.CompressionJobs := by
  unfold Obligations.CompressionJobs
  exact ⟨fun j b d0 hd tl rs s hf hthr hrun hnext hb hr hall hmore hq hopen hpacket hsize hlen hroom ho =>
      jobStart_runs hf hthr hrun hnext hb hr rfl rfl hall hmore hq hopen hpacket hsize hlen hroom ho,
    fun j d0 hd tl rs s hstate hpaused hq hen hroom => jobResumable_runs hstate hpaused hq hen hroom,
    fun j o b d0 hd tl rs s hf hfind hb hstate hended hcb hne hall _ hq hopen hheld hcount ho =>
      jobComplete_runs hf hfind hb hstate hended hcb rfl hne hall hq hopen hheld hcount ho⟩

end

namespace Sys2Proof.Machine
open Sys2Proof.Claims

/-! ### Queues in a store that was never used (08_queues_placement.md R262, 13_memory.md R411) -/

/-- A word that was never written reads as the device sets it. -/
theorem wordReads_unwritten {s : State} {h : HiveId} {w : Nat} (ho : WordOpen s h w) (hm : (s.honey h).merge = [])
    (hst : (s.honey h).stateOf w = .invalid) : WordReads s h w (unwritten s w) := by
  refine ⟨ho, fun m hf => ?_, fun _ => .inr ⟨hst, rfl⟩⟩
  rw [hm] at hf
  cases hf

/-- A word that was written, and of which the merge buffer holds nothing, reads as its data. -/
theorem data_of_wordReads {s : State} {h : HiveId} {w : Nat} {x : W64} (hr : WordReads s h w x) (hm : (s.honey h).merge = [])
    (hst : (s.honey h).stateOf w = .valid) : (s.honey h).data w = x := by
  obtain ⟨-, -, hstored⟩ := hr
  obtain ⟨-, -, hdata⟩ | ⟨hinvalid, -⟩ := hstored (by rw [hm]; rfl)
  · exact hdata
  · rw [hst] at hinvalid
    cases hinvalid

/-- Words of a store that no cache shares, with no page retired and no correction waiting, are open. -/
theorem wordOpen_fresh {s : State} {h : HiveId} (hc : (s.hive h).caches = []) (hr : (s.honey h).retired = []) (hb : (s.honey h).writeback = none)
    (w : Nat) : WordOpen s h w := by
  refine ⟨?_, ?_, hb⟩
  · unfold holders
    rw [hc]
    rfl
  · unfold Honey.retiredAt
    rw [hr]
    rfl

/-- The started device, queue 1024 selected by the management port. -/
def queueSelected : State :=
  { State.reset with chip := { started := true }, sels := [(Reg.Q_SEL + cfgPage 0x17 + 2 ^ 48 * 32, 1024)] }

/-- The state that a command answers is that of its meaning, the queue of commands as it was. -/
theorem next_of_done {i : Instr} {s t u : State} (hi : exec i s = done s u) (ht : exec i s = .next t) : t = { u with pending := s.pending } :=
  (Host.Outcome.next.inj (hi.symm.trans ht)).symm

theorem exec_qWdataHi (p : Path) (r : HiveRef) (v : W32) (s : State) :
    exec (.qWdataHi p r v) s = done s (writeAt p (hiveAddr r 0x17 Reg.Q_WDATA_HI) v s) := rfl

theorem exec_qRelease (p : Path) (r : HiveRef) (v : W32) (s : State) :
    exec (.qRelease p r v) s = done s (writeAt p (hiveAddr r 0x17 Reg.Q_RELEASE) v s) := rfl

/-! ### A low half written to the other hive's page (R265, 15_control.md R477) -/

/-- D0 of an enabled ring of 16 words. -/
def smallRing : W64 := d0Of 7 0x20000 4 true false

/-- The management port holds the low half 1 that it wrote to HIVE_A's Q_WDATA_LO, and its packet is open in HIVE_B's queue 1024, with room
for one word. -/
def lowHalfElsewhere : State :=
  let s := { queueSelected with paths := [(32, { wTag := some (cfgPage 0x17 + Reg.Q_WDATA_LO), wHold := 1 })] }
  ((s.modQueue .b 1024 (fun x => { x with opened := some (.path 32) })).putWord .b 4096 smallRing).putWord .b 4099 (ptrWord 2)

theorem lowHalfElsewhere_ready : Ready .mgmt (hiveDom .b) lowHalfElsewhere := ⟨by decide, .inr (by decide), fun hp => by cases hp⟩

theorem lowHalfElsewhere_open (w : Nat) : WordOpen lowHalfElsewhere .b w := wordOpen_fresh rfl rfl rfl w

theorem lowHalfElsewhere_queueAt : QueueAt lowHalfElsewhere .b 1024 smallRing 0 0 2 :=
  ⟨putWord_reads_other (by decide) (putWord_reads (wordOpen_fresh rfl rfl rfl _)), wordReads_unwritten (lowHalfElsewhere_open 4097) rfl rfl,
    wordReads_unwritten (lowHalfElsewhere_open 4098) rfl rfl, putWord_reads (wordOpen_fresh rfl rfl rfl _)⟩

theorem lowHalfElsewhere_openTo : QueueOpenTo lowHalfElsewhere .b 1024 (.path 32) smallRing :=
  ⟨by decide, by decide, by unfold RingAbove; decide, fun _ _ => rfl⟩

/-- Q_WDATA_HI of HIVE_B does not take the low half that HIVE_A's page was given: the word written is 0. -/
theorem lowHalfElsewhere_written :
    let t := writeAt .mgmt (hiveAddr .hiveB 0x17 Reg.Q_WDATA_HI) 0 lowHalfElsewhere
    let w := ringAddr smallRing (ringPos 0 1)
    (t.honey .b).merge = [] ∧ (t.honey .b).stateOf w = .valid ∧ (t.honey .b).data w = 0 := by
  decide +kernel

/-! ### A release of more words than Q_RELEASE can name (R271) -/

/-- Queue 1024 of HIVE_A with TAIL at 2^23 and all else 0. -/
def farTail : State := queueSelected.putWord .a 4098 (ptrWord 0x800000)

theorem farTail_ready : Ready .mgmt (hiveDom .a) farTail := ⟨by decide, .inr (by decide), fun hp => by cases hp⟩

theorem farTail_open (w : Nat) : WordOpen farTail .a w := wordOpen_fresh rfl rfl rfl w

theorem farTail_queueAt : QueueAt farTail .a 1024 0 0 0x800000 0 :=
  ⟨wordReads_unwritten (farTail_open 4096) rfl rfl, wordReads_unwritten (farTail_open 4097) rfl rfl,
    putWord_reads (wordOpen_fresh rfl rfl rfl _), wordReads_unwritten (farTail_open 4099) rfl rfl⟩

/-- Bit 23 of Q_RELEASE is reserved: its write is a page error. -/
theorem farTail_pageError :
    (writeAt .mgmt (hiveAddr .hiveA 0x17 Reg.Q_RELEASE) 0x800000 farTail).reg (hivePage .a 0x17) Reg.ERR_STATUS = w32 errRsvd := by
  decide +kernel

end Sys2Proof.Machine

section
open Sys2Proof Sys2Proof.Machine Sys2Proof.Claims

/-- Refutes O23 in its clause on Q_WDATA_HI: for either hive it asks that the word take the low half that the path wrote to HIVE_A's
Q_WDATA_LO, but HIVE_B's Q_WDATA_HI takes only its own page's, and in `lowHalfElsewhere` the word written is 0 where the clause has 1. -/
theorem not_queueProducer : ¬ Obligations.QueueProducer := by
  unfold Obligations.QueueProducer
  rintro ⟨-, hWrite, -⟩
  obtain ⟨t, hrun, -, -, -, hreads, -⟩ := hWrite .mgmt .hiveB 0 smallRing 0 0 2 lowHalfElsewhere lowHalfElsewhere_ready rfl
    lowHalfElsewhere_queueAt lowHalfElsewhere_openTo rfl (by decide) (lowHalfElsewhere_open _)
  have ht := next_of_done (exec_qWdataHi ..) hrun
  have hwritten := lowHalfElsewhere_written
  generalize writeAt .mgmt (hiveAddr .hiveB 0x17 Reg.Q_WDATA_HI) 0 lowHalfElsewhere = u at ht hwritten
  subst ht
  obtain ⟨hmerge, hvalid, hzero⟩ := hwritten
  have hone : (0 : W64) = 1 := hzero.symm.trans (data_of_wordReads hreads hmerge hvalid)
  exact absurd hone (by decide)

/-- Refutes O24 in its clause on Q_RELEASE: it allows up to 2^24 - 1 words, but the register has 23 bits, and in `farTail` a release of 2^23
words marks a page error where the clause has no register changed. -/
theorem not_queueConsumerAndControl : ¬ Obligations.QueueConsumerAndControl := by
  unfold Obligations.QueueConsumerAndControl
  rintro ⟨-, hRelease, -⟩
  obtain ⟨t, hrun, -, -, hregs, -⟩ := hRelease .mgmt .hiveA 0x800000 0 0 0x800000 0 farTail farTail_ready rfl farTail_queueAt (by decide) (by decide)
  have ht := next_of_done (exec_qRelease ..) hrun
  have herror := farTail_pageError
  generalize writeAt .mgmt (hiveAddr .hiveA 0x17 Reg.Q_RELEASE) 0x800000 farTail = u at ht herror
  subst ht
  have hmarked : farTail.reg (hivePage .a 0x17) Reg.ERR_STATUS = w32 errRsvd := (reg_of_regs hregs _ _ _).symm.trans herror
  exact absurd hmarked (by decide)

end

namespace Sys2Proof.Machine
open Sys2Proof.Claims

/-! ### Words that an operation of a queue writes (08_queues_placement.md R262) -/

/-- Only the store and the queues of hive `h` may differ; what a word outside `W` reads stands, and a word that reads undamaged still does. -/
structure WritesOnly (h : HiveId) (W : Nat → Prop) (s t : State) : Prop where
  store : StoreOnly h s t
  reads : ∀ w x, ¬ W w → WordReads s h w x → WordReads t h w x
  readable : ∀ w x, WordReads s h w x → ∃ y, WordReads t h w y

namespace WritesOnly
variable {h : HiveId} {W V : Nat → Prop} {s t u : State} {q : Nat} {d0 : W64} {hd tl rs : BitVec 32}

theorem refl (h : HiveId) (W : Nat → Prop) (s : State) : WritesOnly h W s s := ⟨.refl h s, fun _ _ _ hr => hr, fun _ x hr => ⟨x, hr⟩⟩

theorem trans (a : WritesOnly h W s t) (b : WritesOnly h W t u) : WritesOnly h W s u where
  store := a.store.trans b.store
  reads w x hw hr := b.reads w x hw (a.reads w x hw hr)
  readable w x hr := by
    obtain ⟨y, hy⟩ := a.readable w x hr
    exact b.readable w y hy

theorem mono (a : WritesOnly h W s t) (hV : ∀ w, W w → V w) : WritesOnly h V s t :=
  ⟨a.store, fun w x hw hr => a.reads w x (fun hW => hw (hV w hW)) hr, a.readable⟩

theorem putWord (s : State) {w : Nat} (ho : WordOpen s h w) (hw : W w) (x : W64) : WritesOnly h W s (s.putWord h w x) where
  store := storeOnly_putWord h s w x
  reads w' y hw' hr := putWord_reads_other (fun he => hw' (he ▸ hw)) hr
  readable w' y hr := by
    by_cases he : w' = w
    · subst he
      exact ⟨x, putWord_reads ho⟩
    · exact ⟨y, putWord_reads_other he hr⟩

theorem modQueue (s : State) (q : Nat) (f : Queue → Queue) : WritesOnly h W s (s.modQueue h q f) :=
  ⟨storeOnly_modQueue h s q f, fun _ _ _ hr => (sameStore_modQueue s h q f).reads hr, fun _ x hr => ⟨x, (sameStore_modQueue s h q f).reads hr⟩⟩

theorem queueAt (a : WritesOnly h W s t) (hW : ∀ i, i < 4 → ¬ W (4 * q + i)) (hq : QueueAt s h q d0 hd tl rs) : QueueAt t h q d0 hd tl rs := by
  obtain ⟨h0, h1, h2, h3⟩ := hq
  exact ⟨a.reads _ _ (hW 0 (by decide)) h0, a.reads _ _ (hW 1 (by decide)) h1, a.reads _ _ (hW 2 (by decide)) h2, a.reads _ _ (hW 3 (by decide)) h3⟩

end WritesOnly

/-! ### HEAD moved over an undamaged ring (R271) -/

section
variable {s : State} {h : HiveId} {q : Nat} {d0 : W64} {hd tl rs : BitVec 32}

theorem queueAt_headOpen (hq : QueueAt s h q d0 hd tl rs) : WordOpen s h (4 * q + 1) := by
  obtain ⟨-, ⟨ho, -⟩, -⟩ := hq
  exact ho

/-- HEAD written. -/
theorem queueAt_putHead (hq : QueueAt s h q d0 hd tl rs) (p : BitVec 32) : QueueAt (s.putWord h (4 * q + 1) (ptrWord p)) h q d0 p tl rs := by
  obtain ⟨h0, -, h2, h3⟩ := id hq
  exact ⟨putWord_reads_other (by omega) h0, putWord_reads (queueAt_headOpen hq), putWord_reads_other (by omega) h2, putWord_reads_other (by omega) h3⟩

theorem qDesc_at (hq : QueueAt s h q d0 hd tl rs) : qDesc s h q = (s, ⟨d0, hd, tl, rs⟩) := by
  unfold qDesc
  rw [qDescE_at hq]
  exact congrArg (·, _) (settle_none s)

theorem qRelease_at (hq : QueueAt s h q d0 hd tl rs) {n : Nat} (hn : n ≤ (tl - hd).toNat) :
    qRelease s h q n = (s.putWord h (4 * q + 1) (ptrWord (ringPos hd n)), true) := by
  unfold qRelease qReleaseE
  rw [qDescE_at hq]
  dsimp only [Desc.count]
  rw [if_neg (by omega), putPtr_at (queueAt_headOpen hq)]
  exact congrArg (·, true) (settle_none _)

theorem qRelease_over (hq : QueueAt s h q d0 hd tl rs) {n : Nat} (hn : (tl - hd).toNat < n) : qRelease s h q n = (s, false) := by
  unfold qRelease qReleaseE
  rw [qDescE_at hq]
  dsimp only [Desc.count]
  rw [if_pos hn]
  exact congrArg (·, false) (settle_none s)

theorem qPop_at (hq : QueueAt s h q d0 hd tl rs) (hne : (tl - hd).toNat ≠ 0) {x : W64} (hx : WordReads s h (ringAddr d0 hd) x) :
    qPop s h q = (s.putWord h (4 * q + 1) (ptrWord (ringPos hd 1)), some (x, false)) := by
  unfold qPop qPopE
  rw [qDescE_at hq]
  dsimp only [Desc.count]
  rw [if_neg hne, hReadE_reads hx]
  dsimp only
  rw [putPtr_at (queueAt_headOpen hq)]
  exact congrArg (·, some (x, false)) (settle_none _)

end

/-- A pop of a list of pops: the word popped joins those before it. -/
def popStep (h : HiveId) (q : Nat) (acc : State × List W64) : State × List W64 :=
  match qPop acc.1 h q with
  | (s, some (x, _)) => (s, acc.2 ++ [x])
  | (s, none) => (s, acc.2)

section
variable {s : State} {h : HiveId} {q : Nat} {d0 : W64} {hd tl rs : BitVec 32}

theorem ringPos_zero (p : BitVec 32) : ringPos p 0 = p := BitVec.add_zero p

theorem ringPos_ringPos (p : BitVec 32) (i j : Nat) : ringPos (ringPos p i) j = ringPos p (i + j) := ringPos_add p i j

/-- Words still to be popped once `n` have been. -/
theorem ringPos_left {n : Nat} (hn : n ≤ (tl - hd).toNat) : (tl - ringPos hd n).toNat = (tl - hd).toNat - n := by
  have hlt := (tl - hd).isLt
  have hsub : tl - ringPos hd n = (tl - hd) - BitVec.ofNat 32 n := by unfold ringPos; ring
  rw [hsub, BitVec.toNat_sub_of_le (by rw [BitVec.le_def, BitVec.toNat_ofNat]; omega), BitVec.toNat_ofNat, Nat.mod_eq_of_lt (by omega)]

/-- The words at the head of a ring popped one after the other. -/
theorem pops_at (hq : QueueAt s h q d0 hd tl rs) (ha : RingAbove d0) (hlt : q < 65536) {x : Nat → W64} (ws : List W64) {n : Nat}
    (hn : n ≤ (tl - hd).toNat) (hx : ∀ i, i < n → WordReads s h (ringAddr d0 (ringPos hd i)) (x i)) :
    ∃ t, (List.range n).foldl (fun acc _ => popStep h q acc) (s, ws) = (t, ws ++ (List.range n).map x) ∧
      QueueAt t h q d0 (ringPos hd n) tl rs ∧ WritesOnly h (· = 4 * q + 1) s t := by
  induction n with
  | zero => exact ⟨s, by simp, by rwa [ringPos_zero], .refl ..⟩
  | succ n ih =>
    obtain ⟨t, hfold, hqt, hst⟩ := ih (by omega) fun i hi => hx i (by omega)
    have hword := hst.reads _ _ (by have := ringAddr_above ha (ringPos hd n); omega) (hx n (by omega))
    have hpop := qPop_at hqt (by rw [ringPos_left (by omega)]; omega) hword
    rw [ringPos_ringPos] at hpop
    refine ⟨_, ?_, queueAt_putHead hqt _, hst.trans (.putWord (W := (· = 4 * q + 1)) t (queueAt_headOpen hqt) rfl _)⟩
    rw [List.range_succ, List.foldl_append, hfold]
    simp [popStep, hpop]

end

end Sys2Proof.Machine

namespace Sys2Proof.Machine
open Sys2Proof.Claims

/-! ### Units cut into packets (09_lanes.md R308) -/

theorem chunks_take (ws : List W64) (n : Nat) : ((List.range n).map (fun i => (ws.drop (126 * i)).take 126)).flatten = ws.take (126 * n) := by
  induction n with
  | zero => rfl
  | succ n ih => simp [List.range_succ, ih, Nat.mul_succ, List.take_add]

/-- The parts of a list of words are all of it, in order. -/
theorem chunks_flatten (ws : List W64) : (chunks ws).flatten = ws := by
  unfold chunks
  rw [chunks_take]
  exact List.take_of_length_le (by omega)

theorem chunks_length {ws c : List W64} (hc : c ∈ chunks ws) : c.length ≤ 126 := by
  unfold chunks at hc
  obtain ⟨i, -, rfl⟩ := List.mem_map.1 hc
  exact List.length_take_le ..

theorem dataPackets_payloads (mk : Bool → Bool → Load) (id : BitVec 16) (ws : List W64) : (dataPackets mk id ws).map (·.payload) = chunks ws := by
  unfold dataPackets
  rw [List.map_map]
  exact List.map_snd_zip (List.length_range.ge)

theorem dataPackets_flatten (mk : Bool → Bool → Load) (id : BitVec 16) (ws : List W64) : ((dataPackets mk id ws).map (·.payload)).flatten = ws := by
  rw [dataPackets_payloads, chunks_flatten]

theorem dataPackets_length {mk : Bool → Bool → Load} {id : BitVec 16} {ws : List W64} {k : TxPacket} (hk : k ∈ dataPackets mk id ws) :
    k.payload.length ≤ 126 :=
  chunks_length (dataPackets_payloads mk id ws ▸ List.mem_map_of_mem hk)

/-! ### The choice of lanes and units (08_queues_placement.md R280) -/

/-- What a scan of a list keeps is the first choice or one of the list. -/
theorem foldl_pick_mem {α : Type} (p : α → α → Prop) [∀ a b, Decidable (p a b)] (l : List α) (a : α) :
    l.foldl (fun m n => if p n m then n else m) a ∈ a :: l := by
  induction l generalizing a with
  | nil => simp
  | cons b l ih =>
    have hscan := ih (if p b a then b else a)
    rw [List.foldl_cons]
    split at hscan <;> rename_i hp
    · rw [if_pos hp]
      exact List.mem_cons_of_mem _ hscan
    · rw [if_neg hp]
      exact (List.mem_cons.1 hscan).elim (fun he => by rw [he]; exact List.mem_cons_self ..) fun hm => List.mem_cons_of_mem _ (List.mem_cons_of_mem _ hm)

theorem leastLoaded_mem {s : State} {ls : List Nat} {l : Nat} (hl : leastLoaded s ls = some l) : l ∈ ls := by
  cases ls with
  | nil => cases hl
  | cons a ls =>
    obtain rfl := Option.some.inj hl
    exact foldl_pick_mem (fun n m => laneLoad (s.lane n) < laneLoad (s.lane m)) ls a

theorem leastLoaded_some {s : State} {ls : List Nat} (h : ls ≠ []) : ∃ l ∈ ls, leastLoaded s ls = some l := by
  cases ls with
  | nil => exact absurd rfl h
  | cons a ls => exact ⟨_, leastLoaded_mem rfl, rfl⟩

theorem firstUnit_mem {us : List PUnit} {u : PUnit} (hu : firstUnit us = some u) : u ∈ us := by
  cases us with
  | nil => cases hu
  | cons a us =>
    obtain rfl := Option.some.inj hu
    exact foldl_pick_mem (fun v m => unitBefore v m = true) us a

theorem firstUnit_some {us : List PUnit} (h : us ≠ []) : ∃ u ∈ us, firstUnit us = some u := by
  cases us with
  | nil => exact absurd rfl h
  | cons a us => exact ⟨_, firstUnit_mem rfl, rfl⟩

/-- The next unit of a receiver waits for it and has not been placed. -/
theorem nextUnit_mem {s : State} {h : HiveId} {r : Nat} {u : PUnit} (hu : nextUnit s h r = some u) :
    u ∈ (s.hive h).place.waiting ∧ u.rcv = r := by
  unfold nextUnit at hu
  split at hu
  · cases hu
  · rename_i v hfirst
    dsimp only at hu
    split at hu
    · cases hu
    · obtain rfl := Option.some.inj hu
      obtain ⟨hmem, hp⟩ := List.mem_filter.1 (firstUnit_mem hfirst)
      simp only [Bool.and_eq_true, decide_eq_true_eq] at hp
      exact ⟨hmem, hp.1⟩

/-! ### Changes of placement and of lanes -/

section
variable {s t : State} {h : HiveId}

@[simp] theorem modPlace_place (s : State) (h : HiveId) (f : Place → Place) : ((s.modPlace h f).hive h).place = f (s.hive h).place :=
  (modPlace_parts s h f).2

@[simp] theorem modPlace_queue (s : State) (h : HiveId) (f : Place → Place) (q : Nat) : (s.modPlace h f).queue h q = s.queue h q := by
  cases h <;> rfl

theorem SameStore.trans {u : State} (a : SameStore h s t) (b : SameStore h t u) : SameStore h s u :=
  ⟨b.honey.trans a.honey, b.caches.trans a.caches, b.started.trans a.started⟩

theorem sameStore_setLane (s : State) (h : HiveId) (l : Nat) (x : Lane) : SameStore h s (s.setLane l x) := by
  cases h <;> exact ⟨rfl, rfl, rfl⟩

theorem putUnit_kept (l : Nat) (u : PUnit) (s : State) (h : HiveId) :
    (putUnit l u s).hive h = s.hive h ∧ (putUnit l u s).regs = s.regs ∧ (putUnit l u s).pending = s.pending ∧ SameStore h s (putUnit l u s) := by
  cases h <;> exact ⟨rfl, rfl, rfl, sameStore_setLane ..⟩

/-- A unit put on a lane is seen on that lane alone. -/
theorem putUnit_lane (l : Nat) (u : PUnit) (s : State) (k : Nat) : (putUnit l u s).lane k =
    if k = l then { s.lane l with waiting := (s.lane l).waiting ++ dataPackets (fun a b => .unit u a b) (rcvId s u.rcv) u.words }
    else s.lane k :=
  State.setLane_lane ..

theorem creditInit_of_regs (hr : t.regs = s.regs) : creditInit t = creditInit s := by
  unfold creditInit plcCfg State.cfg
  rw [reg_of_regs hr]

theorem lane_of_lanes (hl : t.lanes = s.lanes) (k : Nat) : t.lane k = s.lane k := by
  unfold State.lane
  rw [hl]

theorem queue_of_hive (hh : t.hive h = s.hive h) (q : Nat) : t.queue h q = s.queue h q := by
  unfold State.queue
  rw [hh]

theorem creditOf_congr (hp : (t.hive h).place.credit = (s.hive h).place.credit) (hr : t.regs = s.regs) (r : Nat) :
    creditOf t h r = creditOf s h r := by
  unfold creditOf
  rw [hp, creditInit_of_regs hr]

theorem setCredit_edits (h : HiveId) (r n : Nat) (s : State) : Edits h s (setCredit h r n s) :=
  .modPlace s h (fun p => { p with credit := tput p.credit r (min creditMax n) })

theorem setCredit_place (h : HiveId) (r n : Nat) (s : State) :
    ((setCredit h r n s).hive h).place = { (s.hive h).place with credit := tput (s.hive h).place.credit r (min creditMax n) } := modPlace_place ..

theorem setCredit_queue (h : HiveId) (r n : Nat) (s : State) (q : Nat) : (setCredit h r n s).queue h q = s.queue h q := modPlace_queue ..

theorem setCredit_credit (r n : Nat) (s : State) : creditOf (setCredit h r n s) h r = min creditMax n := by
  unfold creditOf
  rw [setCredit_place, tfind_tput, if_pos rfl]
  rfl

/-- States that agree in what decides which lanes a receiver can use: its settings, and the lanes in placement (R279). -/
structure SameReceivers (s t : State) : Prop where
  role : ∀ l, laneRole t l = laneRole s l
  state : ∀ l, (t.lane l).state = (s.lane l).state
  awake : ∀ l, (t.lane l).txAwake = (s.lane l).txAwake
  removed : t.chip.removed = s.chip.removed
  ids : ∀ r, plcCfg t Reg.PLC_RCV_ID r = plcCfg s Reg.PLC_RCV_ID r
  masks : ∀ r, plcCfg t Reg.PLC_RCV_LANES r = plcCfg s Reg.PLC_RCV_LANES r

namespace SameReceivers

theorem trans {u : State} (a : SameReceivers s t) (b : SameReceivers t u) : SameReceivers s u where
  role l := (b.role l).trans (a.role l)
  state l := (b.state l).trans (a.state l)
  awake l := (b.awake l).trans (a.awake l)
  removed := b.removed.trans a.removed
  ids r := (b.ids r).trans (a.ids r)
  masks r := (b.masks r).trans (a.masks r)

theorem of_regs (hr : t.regs = s.regs) (hl : t.lanes = s.lanes) (hc : t.chip = s.chip) : SameReceivers s t where
  role l := by unfold laneRole; rw [reg_of_regs hr]
  state l := by rw [lane_of_lanes hl]
  awake l := by rw [lane_of_lanes hl]
  removed := by rw [hc]
  ids r := reg_of_regs hr ..
  masks r := reg_of_regs hr ..

theorem of_edits (a : Edits h s t) : SameReceivers s t := of_regs a.regs a.works.lanes a.works.chip

theorem rcvId (a : SameReceivers s t) (r : Nat) : rcvId t r = rcvId s r := by
  unfold Machine.rcvId
  rw [a.ids]

theorem rcvEn (a : SameReceivers s t) (r : Nat) : rcvEn t r = rcvEn s r := by
  unfold Machine.rcvEn
  rw [a.ids]

theorem eligibleLanes (a : SameReceivers s t) (r : Nat) : eligibleLanes t r = eligibleLanes s r := by
  unfold Machine.eligibleLanes inPlacement rcvLane
  simp only [a.role, a.state, a.awake, a.removed, a.masks]

end SameReceivers

theorem leastLoaded_of_lanes (hl : t.lanes = s.lanes) : leastLoaded t = leastLoaded s := by
  funext ls
  unfold leastLoaded State.lane
  rw [hl]

/-- A unit waits no more. -/
def unlist (h : HiveId) (u : PUnit) (s : State) : State := s.modPlace h (fun p => { p with waiting := p.waiting.erase u })

theorem unlist_edits (h : HiveId) (u : PUnit) (s : State) : Edits h s (unlist h u s) := .modPlace s h (fun p => { p with waiting := p.waiting.erase u })

theorem unlist_place (h : HiveId) (u : PUnit) (s : State) :
    ((unlist h u s).hive h).place = { (s.hive h).place with waiting := (s.hive h).place.waiting.erase u } := modPlace_place ..

theorem unlist_queue (h : HiveId) (u : PUnit) (s : State) (q : Nat) : (unlist h u s).queue h q = s.queue h q := modPlace_queue ..

/-! ### A receiver that can take units (R280) -/

/-- The receiver's episode without a lane is over. -/
def laneFound (h : HiveId) (r : Nat) (s : State) : State := s.modPlace h (fun p => { p with noLane := p.noLane.filter (· ≠ r) })

theorem laneFound_edits (h : HiveId) (r : Nat) (s : State) : Edits h s (laneFound h r s) := .modPlace s h (fun p => { p with noLane := p.noLane.filter (· ≠ r) })

theorem laneFound_place (h : HiveId) (r : Nat) (s : State) :
    ((laneFound h r s).hive h).place = { (s.hive h).place with noLane := (s.hive h).place.noLane.filter (· ≠ r) } := modPlace_place ..

/-- The lanes of a receiver stay as they are as its episode without a lane ends. -/
theorem laneFound_lanes (h : HiveId) (r : Nat) (s : State) :
    leastLoaded (laneFound h r s) (eligibleLanes (laneFound h r s) r) = leastLoaded s (eligibleLanes s r) := by
  have hfound := laneFound_edits h r s
  rw [leastLoaded_of_lanes hfound.works.lanes, (SameReceivers.of_edits hfound).eligibleLanes]

theorem rcvOpen_open {r : Nat} (hen : rcvEn s r = true) (hl : eligibleLanes s r ≠ []) : rcvOpen h r s = (laneFound h r s, true) := by
  unfold rcvOpen
  rw [hen, if_neg (by simpa using hl)]
  rfl

end

end Sys2Proof.Machine

namespace Sys2Proof.Machine
open Sys2Proof.Claims

/-! ### The words of a unit taken from its queue (R280) -/

section
variable {s t : State} {h : HiveId} {q : Nat} {d0 : W64} {hd tl rs : BitVec 32}

theorem freeFront_none (hq : QueueAt s h q d0 hd tl rs) (hf : (s.queue h q).freed.find? (fun f => f.1 = hd.toNat) = none) (n : Nat) :
    freeFront h q n s = s := by
  cases n with
  | zero => rfl
  | succ n =>
    rw [freeFront, qDesc_at hq]
    dsimp only
    rw [hf]

theorem freeFront_some {f : Nat × Nat} (hq : QueueAt s h q d0 hd tl rs) (hf : (s.queue h q).freed.find? (fun f => f.1 = hd.toNat) = some f) (n : Nat) :
    freeFront h q (n + 1) s = freeFront h q n (qRelease (s.modQueue h q (fun x => { x with freed := x.freed.erase f })) h q f.2).1 := by
  rw [freeFront, qDesc_at hq]
  dsimp only
  rw [hf]

/-- HEAD moved over placed packets changes only the store and the queues. -/
theorem freeFront_storeOnly (hq : QueueAt s h q d0 hd tl rs) (n : Nat) : StoreOnly h s (freeFront h q n s) := by
  induction n generalizing s hd with
  | zero => exact .refl h s
  | succ n ih =>
    cases hf : (s.queue h q).freed.find? (fun f => f.1 = hd.toNat) with
    | none => rw [freeFront_none hq hf]; exact .refl h s
    | some f =>
      have hmod := queueAt_modQueue hq (fun x => { x with freed := x.freed.erase f })
      have hstore := storeOnly_modQueue h s q (fun x => { x with freed := x.freed.erase f })
      rw [freeFront_some hq hf]
      obtain hle | hgt := le_or_gt f.2 (tl - hd).toNat
      · rw [qRelease_at hmod hle]
        exact hstore.trans ((storeOnly_putWord ..).trans (ih (queueAt_putHead hmod _)))
      · rw [qRelease_over hmod hgt]
        exact hstore.trans (ih hmod)

/-- One word of a unit read. -/
def unitStep (h : HiveId) (d0 : W64) (u : PUnit) (acc : State × List W64) (i : Nat) : State × List W64 :=
  let r := hRead acc.1 h agLane (ringAddr d0 (BitVec.ofNat 32 (u.pos + 1 + i)))
  (r.1, acc.2 ++ [r.2.1])

/-- The placed packet of a unit joins those whose space is to be freed. -/
def notePlaced (h : HiveId) (u : PUnit) (s : State) : State :=
  s.modQueue h u.queue (fun x => { x with freed := x.freed ++ [(u.pos, u.len + 1)] })

/-- The packets of the unit's queue that have been placed give back their space. -/
def freePlaced (h : HiveId) (u : PUnit) (s : State) : State := freeFront h u.queue (s.queue h u.queue).freed.length s

theorem takeUnit_eq (h : HiveId) (u : PUnit) (s : State) :
    takeUnit h u s =
      let d := qDesc s h u.queue
      let r := (List.range u.len).foldl (unitStep h d.2.d0 u) (d.1, [])
      (freePlaced h u (notePlaced h u r.1), r.2) := rfl

theorem unitStep_foldl {u : PUnit} {x : Nat → W64} {n : Nat} (hx : ∀ i, i < n → WordReads s h (ringAddr d0 (BitVec.ofNat 32 (u.pos + 1 + i))) (x i)) :
    (List.range n).foldl (unitStep h d0 u) (s, []) = (s, (List.range n).map x) := by
  induction n with
  | zero => rfl
  | succ n ih =>
    rw [List.range_succ, List.foldl_append, ih fun i hi => hx i (by omega)]
    simp [unitStep, hRead_reads (hx n (by omega))]

/-- The words of a unit are those of its packet. -/
theorem takeUnit_at {u : PUnit} {x : Nat → W64} (hq : QueueAt s h u.queue d0 hd tl rs)
    (hx : ∀ i, i < u.len → WordReads s h (ringAddr d0 (BitVec.ofNat 32 (u.pos + 1 + i))) (x i)) :
    takeUnit h u s = (freePlaced h u (notePlaced h u s), (List.range u.len).map x) := by
  rw [takeUnit_eq, qDesc_at hq]
  dsimp only
  rw [unitStep_foldl hx]

theorem freePlaced_storeOnly {u : PUnit} (hq : QueueAt s h u.queue d0 hd tl rs) : StoreOnly h s (freePlaced h u (notePlaced h u s)) :=
  (storeOnly_modQueue ..).trans (freeFront_storeOnly (queueAt_modQueue hq _) _)

/-- A unit that is not at the front waits with its space for those before it. -/
theorem freePlaced_behind {u : PUnit} (hq : QueueAt s h u.queue d0 hd tl rs) (hf : ∀ f ∈ (s.queue h u.queue).freed, f.1 ≠ hd.toNat) (hp : hd.toNat ≠ u.pos) :
    let t := freePlaced h u (notePlaced h u s)
    QueueAt t h u.queue d0 hd tl rs ∧ (t.queue h u.queue).freed = (s.queue h u.queue).freed ++ [(u.pos, u.len + 1)] := by
  have hmod : QueueAt (notePlaced h u s) h u.queue d0 hd tl rs := queueAt_modQueue hq _
  have hfreed : ((notePlaced h u s).queue h u.queue).freed = (s.queue h u.queue).freed ++ [(u.pos, u.len + 1)] := congrArg Queue.freed (modQueue_queue ..)
  have hnone : ((notePlaced h u s).queue h u.queue).freed.find? (fun f => f.1 = hd.toNat) = none := by
    rw [hfreed]
    simpa [List.find?_eq_none] using ⟨fun a b hab => hf _ hab, hp.symm⟩
  unfold freePlaced
  rw [freeFront_none hmod hnone]
  exact ⟨hmod, hfreed⟩

/-- A unit at the front gives back its space at once. -/
theorem freePlaced_front {u : PUnit} (hq : QueueAt s h u.queue d0 hd tl rs) (hf : (s.queue h u.queue).freed = []) (hp : hd.toNat = u.pos)
    (hn : u.len + 1 ≤ (tl - hd).toNat) :
    let t := freePlaced h u (notePlaced h u s)
    QueueAt t h u.queue d0 (ringPos hd (u.len + 1)) tl rs ∧ (t.queue h u.queue).freed = [] := by
  have hmod : QueueAt (notePlaced h u s) h u.queue d0 hd tl rs := queueAt_modQueue hq _
  have hfreed : ((notePlaced h u s).queue h u.queue).freed = [(u.pos, u.len + 1)] := by
    rw [notePlaced, modQueue_queue, hf]
    rfl
  have hsome : ((notePlaced h u s).queue h u.queue).freed.find? (fun f => f.1 = hd.toNat) = some (u.pos, u.len + 1) := by
    rw [hfreed]
    simp [hp]
  have herased := queueAt_modQueue hmod (fun x => { x with freed := x.freed.erase (u.pos, u.len + 1) })
  unfold freePlaced
  rw [show ((notePlaced h u s).queue h u.queue).freed.length = 0 + 1 by rw [hfreed]; rfl, freeFront_some hmod hsome, qRelease_at herased hn]
  refine ⟨queueAt_putHead herased _, ?_⟩
  rw [freeFront, putWord_queue, modQueue_queue, hfreed]
  exact List.erase_cons_head (u.pos, u.len + 1) []

end

/-! ### The next unit of a receiver placed (R280, R281, 09_lanes.md R308) -/

section
variable {s t : State} {h : HiveId} {q r l : Nat} {u : PUnit}

theorem placing_guard (hp : placing s = true) (ht : takenBack s h r = []) : ¬ ((!placing s) = true ∨ takenBack s h r ≠ []) := by
  simp [hp, ht]

/-- A unit placed with its words on a lane, against the credit of its receiver. -/
def placeOn (h : HiveId) (r l : Nat) (u : PUnit) (ws : List W64) (s : State) : State :=
  let s := unlist h u s
  putUnit l { u with words := ws, charged := true } (setCredit h r (creditOf s h r - u.len) s)

/-- The next unit of an open receiver whose credit it does not exceed is placed. -/
theorem unitPlace_takes (hp : placing s = true) (ht : takenBack s (higherClaim s) r = []) (hu : nextUnit s (higherClaim s) r = some u)
    (hd : (qDesc s (higherClaim s) u.queue).1 = s) (hen : rcvEn s r = true) (hl : leastLoaded s (eligibleLanes s r) = some l)
    (hc : u.len ≤ creditOf s (higherClaim s) r) {ws : List W64} (hw : takeUnit (higherClaim s) u (laneFound (higherClaim s) r s) = (t, ws)) :
    unitPlace r s = placeOn (higherClaim s) r l u ws t := by
  have heligible : eligibleLanes s r ≠ [] := List.ne_nil_of_mem (leastLoaded_mem hl)
  have hcredit : ¬ (creditOf (laneFound (higherClaim s) r s) (higherClaim s) r < u.len ∨
      (!((laneFound (higherClaim s) r s).hive (higherClaim s)).place.waiting.contains u) = true) := by
    have hplace := laneFound_place (higherClaim s) r s
    rw [creditOf_congr (by rw [hplace]) (laneFound_edits ..).regs, hplace]
    simp [hc, (nextUnit_mem hu).1]
  unfold unitPlace
  dsimp only
  rw [if_neg (placing_guard hp ht), hu]
  dsimp only
  rw [hd, rcvOpen_open hen heligible]
  dsimp only
  rw [if_neg hcredit, laneFound_lanes, hl]
  dsimp only
  rw [hw]
  rfl

/-- The placement once a unit of it is on a lane. -/
theorem placeOn_effect (h : HiveId) (r l : Nat) (u : PUnit) (ws : List W64) (s : State) :
    let t := placeOn h r l u ws s
    t.pending = s.pending ∧ SameStore h s t ∧ t.regs = s.regs ∧ (∀ q, t.queue h q = s.queue h q) ∧
      (t.hive h).place.waiting = (s.hive h).place.waiting.erase u ∧ creditOf t h r = min creditMax (creditOf s h r - u.len) ∧
      (t.lane l).waiting = (s.lane l).waiting ++ dataPackets (fun a b => .unit { u with words := ws, charged := true } a b) (rcvId s u.rcv) ws ∧
      ∀ k, k ≠ l → t.lane k = s.lane k := by
  have herase := unlist_edits h u s
  have hplace := unlist_place h u s
  have hqueue := unlist_queue h u s
  unfold placeOn
  dsimp only
  generalize unlist h u s = v at *
  have hcharge := herase.trans (setCredit_edits h r (creditOf v h r - u.len) v)
  have hcredit := setCredit_credit (h := h) r (creditOf v h r - u.len) v
  have hplace' := setCredit_place h r (creditOf v h r - u.len) v
  have hqueue' := setCredit_queue h r (creditOf v h r - u.len) v
  generalize setCredit h r (creditOf v h r - u.len) v = w at *
  obtain ⟨hhive, hregs, hpending, hstore⟩ := putUnit_kept l { u with words := ws, charged := true } w h
  have hlane := lane_of_lanes hcharge.works.lanes
  refine ⟨hpending.trans hcharge.works.pending, hcharge.store.trans hstore, hregs.trans hcharge.regs, fun q => ?_, ?_, ?_, ?_, fun k hk => ?_⟩
  · rw [queue_of_hive hhive, hqueue', hqueue]
  · rw [hhive, hplace', hplace]
  · rw [creditOf_congr (by rw [hhive]) hregs, hcredit, creditOf_congr (by rw [hplace]) herase.regs]
  · rw [putUnit_lane, if_pos rfl, hlane, (SameReceivers.of_edits hcharge).rcvId]
  · rw [putUnit_lane, if_neg hk, hlane]

/-- The next unit of a receiver goes to its least-loaded lane. -/
theorem unitPlace_runs {r : Fin 64} {d0 : W64} {hd tl rs : BitVec 32} {x : Nat → W64} (hh : h = higherClaim s) (hp : placing s = true)
    (ht : takenBack s h r.val = []) (hu : nextUnit s h r.val = some u) (hen : rcvEn s r.val = true)
    (hl : leastLoaded s (eligibleLanes s r.val) = some l) (hc : u.len ≤ creditOf s h r.val) (hq : QueueAt s h u.queue d0 hd tl rs)
    (hx : ∀ i, i < u.len → WordReads s h (ringAddr d0 (BitVec.ofNat 32 (u.pos + 1 + i))) (x i)) :
    Runs (.unitPlace r) s fun t =>
      let ws := (List.range u.len).map x
      let packets := dataPackets (fun a b => .unit { u with words := ws, charged := true } a b) (rcvId s u.rcv) ws
      (t.lane l).waiting = (s.lane l).waiting ++ packets ∧ (packets.map (·.payload)).flatten = ws ∧ (∀ k ∈ packets, k.payload.length ≤ 126) ∧
      creditOf t h r.val = min creditMax (creditOf s h r.val - u.len) ∧ (t.hive h).place.waiting = (s.hive h).place.waiting.erase u ∧
      ((∀ f ∈ (s.queue h u.queue).freed, f.1 ≠ hd.toNat) → hd.toNat ≠ u.pos →
        QueueAt t h u.queue d0 hd tl rs ∧ (t.queue h u.queue).freed = (s.queue h u.queue).freed ++ [(u.pos, u.len + 1)]) ∧
      ((s.queue h u.queue).freed = [] → hd.toNat = u.pos → u.len + 1 ≤ (tl - hd).toNat →
        QueueAt t h u.queue d0 (ringPos hd (u.len + 1)) tl rs ∧ (t.queue h u.queue).freed = []) ∧
      (∀ k, k ≠ l → t.lane k = s.lane k) ∧ t.regs = s.regs := by
  subst hh
  have hfound := laneFound_edits (higherClaim s) r.val s
  have hplace := laneFound_place (higherClaim s) r.val s
  have hqueue : (laneFound (higherClaim s) r.val s).queue (higherClaim s) u.queue = s.queue (higherClaim s) u.queue := modPlace_queue ..
  have hdesc : (qDesc s (higherClaim s) u.queue).1 = s := by rw [qDesc_at hq]
  have hat := hfound.queueAt hq
  have hexec : exec (.unitPlace r) s = done s _ :=
    congrArg (done s) (unitPlace_takes hp ht hu hdesc hen hl hc (takeUnit_at hat fun i hi => hfound.store.reads (hx i hi)))
  have hstore := freePlaced_storeOnly hat
  have hbehind := freePlaced_behind hat
  have hfront := freePlaced_front hat
  rw [hqueue] at hbehind hfront
  generalize freePlaced (higherClaim s) u (notePlaced (higherClaim s) u (laneFound (higherClaim s) r.val s)) = v at *
  obtain ⟨hpending, hsame, hregs, hqueues, hwaiting, hcredit, hlane, hlanes⟩ := placeOn_effect (higherClaim s) r.val l u ((List.range u.len).map x) v
  generalize placeOn (higherClaim s) r.val l u ((List.range u.len).map x) v = t at *
  have hv := hfound.works.trans hstore.works
  have hvregs := hstore.regs.trans hfound.regs
  have hvplace := hstore.place.trans hplace
  refine runs_of_done hexec (hpending.trans hv.pending) ⟨?_, dataPackets_flatten .., fun _ => dataPackets_length, ?_, ?_, fun hf hne => ?_, fun hf he hn => ?_,
    fun k hk => ?_, hregs.trans hvregs⟩
  · rw [hlane, lane_of_lanes hv.lanes, (SameReceivers.of_regs hvregs hv.lanes hv.chip).rcvId]
  · rw [hcredit, creditOf_congr (by rw [hvplace]) hvregs]
  · rw [hwaiting, hvplace]
  · obtain ⟨hqv, hfreed⟩ := hbehind hf hne
    exact ⟨hsame.queueAt hqv, (congrArg Queue.freed (hqueues _)).trans hfreed⟩
  · obtain ⟨hqv, hfreed⟩ := hfront hf he hn
    exact ⟨hsame.queueAt hqv, (congrArg Queue.freed (hqueues _)).trans hfreed⟩
  · rw [hlanes k hk, lane_of_lanes hv.lanes]

end

end Sys2Proof.Machine

namespace Sys2Proof.Machine
open Sys2Proof.Claims

/-! ### Units taken back placed again (R282) -/

/-- The first of the units taken back is placed again. -/
def replaceStep (h : HiveId) (r : Nat) (s : State) : State :=
  match firstUnit (takenBack s h r) with
  | none => s
  | some u =>
    match rcvOpen h r s with
    | (s, false) => s
    | (s, true) =>
      match leastLoaded s (eligibleLanes s r) with
      | none => s
      | some l => raise ((putUnit l u (unlist h u s)).count (plcPage h) Reg.PLC_REPLACE_CNT) (plcPage h) Reg.PLC_EVENTS 4

/-- A unit placed again is counted. -/
def noteReplaced (h : HiveId) (s : State) : State := raise (s.count (plcPage h) Reg.PLC_REPLACE_CNT) (plcPage h) Reg.PLC_EVENTS (2 ^ 2)

theorem unitReplace_eq {s : State} (hp : placing s = true) (r : Nat) :
    unitReplace r s = (replaceStep (higherClaim s) r)^[(takenBack s (higherClaim s) r).length] s := by
  have hsteps : unitReplace r s = if !placing s then s else
      forN (takenBack s (higherClaim s) r).length (fun _ => replaceStep (higherClaim s) r) s := rfl
  rw [hsteps, hp]
  unfold forN
  exact (List.foldl_const ..).trans (by rw [List.length_range])

section
variable {s t u : State} {h : HiveId} {r l : Nat} {x : PUnit}

theorem noteReplaced_reg_other {pg off i : Nat} (hp : pg % 2 ^ 12 = 0) (ho : off < 2 ^ 12) (hcnt : off ≠ Reg.PLC_REPLACE_CNT) (hev : off ≠ Reg.PLC_EVENTS)
    (hn : noted (rkey pg off i) = false) : (noteReplaced h s).reg pg off i = s.reg pg off i :=
  (raise_reg_other _ _ _ _ _ _ _ (page_mod _ _ _) hn fun hkey => hev (rkey_off hp (page_mod _ _ _) ho (by decide) hkey)).trans
    (setReg_reg_off _ _ _ _ (page_mod _ _ _) hp (by decide) ho hcnt)

/-- The configuration of a link is none of the registers that events count and mark. -/
theorem noted_linkCfg (l : Nat) : noted (rkey (lanePage l) Reg.LNK_CFG 0) = false := by
  have hoff : rkey (lanePage l) Reg.LNK_CFG 0 % 2 ^ 12 = Reg.LNK_CFG := by simp only [rkey, lanePage, page, Reg.LNK_CFG]; omega
  unfold noted
  rw [hoff]
  simp [Reg.LNK_CFG]

theorem noteReplaced_effect (ha : higherClaim s = h) :
    Leaves (onHives 0x18) h s (noteReplaced h s) ∧ Marked (noteReplaced h s) (plcPage h) Reg.PLC_EVENTS 2 ∧
      (noteReplaced h s).reg (plcPage h) Reg.PLC_REPLACE_CNT = satInc (s.reg (plcPage h) Reg.PLC_REPLACE_CNT) 1 := by
  obtain ⟨hleaves, hmarked, hcounted, -⟩ := countRaise_effect (g := 0x18) (cnt := Reg.PLC_REPLACE_CNT) (ev := Reg.PLC_EVENTS) ha
    (by decide) (by decide) (by decide) (by decide) 1 (b := 2) (by decide)
  exact ⟨hleaves, hmarked, hcounted⟩

theorem sameReceivers_noteReplaced (ha : higherClaim s = h) : SameReceivers s (noteReplaced h s) := by
  obtain ⟨⟨hquiet, -⟩, -⟩ := noteReplaced_effect ha
  constructor
  case role => exact fun l => congrArg (fld · 1 0) (noteReplaced_reg_other (page_mod _ _ _) (by decide) (by decide) (by decide) (noted_linkCfg l))
  case state => exact fun l => by rw [lane_of_lanes hquiet.lanes]
  case awake => exact fun l => by rw [lane_of_lanes hquiet.lanes]
  case removed => rw [hquiet.chip]
  all_goals
    exact fun r => noteReplaced_reg_other (page_mod _ _ _) (by decide) (by decide) (by decide) (noted_hivePage .a 0x18 _ _ (by decide) (by decide) (by decide))

theorem sameReceivers_putUnit (l : Nat) (x : PUnit) (s : State) : SameReceivers s (putUnit l x s) := by
  constructor
  case state => intro k; rw [putUnit_lane]; split <;> simp [*]
  case awake => intro k; rw [putUnit_lane]; split <;> simp [*]
  all_goals intros; rfl

/-- The packets of a unit placed again. -/
def backPackets (s : State) (x : PUnit) : List TxPacket := dataPackets (fun a b => .unit x a b) (rcvId s x.rcv) x.words

/-- Unit `x`, taken back from a lane, has been placed on lane `l`. -/
structure ReplacedOn (h : HiveId) (r l : Nat) (x : PUnit) (s t : State) : Prop where
  pending : t.pending = s.pending
  claim : higherClaim t = higherClaim s
  receivers : SameReceivers s t
  back : takenBack t h r = (takenBack s h r).erase x
  credit : (t.hive h).place.credit = (s.hive h).place.credit
  lane : (t.lane l).waiting = (s.lane l).waiting ++ backPackets s x
  others : ∀ k, k ≠ l → t.lane k = s.lane k
  counted : t.reg (plcPage h) Reg.PLC_REPLACE_CNT = satInc (s.reg (plcPage h) Reg.PLC_REPLACE_CNT) 1
  marked : Marked t (plcPage h) Reg.PLC_EVENTS 2

theorem higherClaim_putUnit (l : Nat) (x : PUnit) (s : State) : higherClaim (putUnit l x s) = higherClaim s := rfl

theorem takenBack_congr (hp : (t.hive h).place.waiting = (s.hive h).place.waiting) (r : Nat) : takenBack t h r = takenBack s h r := by
  unfold takenBack
  rw [hp]

theorem takenBack_unlist (h : HiveId) (r : Nat) (x : PUnit) (s : State) : takenBack (unlist h x s) h r = (takenBack s h r).erase x := by
  unfold takenBack
  rw [unlist_place]
  exact List.erase_filter.symm

theorem replaceStep_takes (hx : firstUnit (takenBack s h r) = some x) (hen : rcvEn s r = true) (hl : leastLoaded s (eligibleLanes s r) = some l) :
    replaceStep h r s = noteReplaced h (putUnit l x (unlist h x (laneFound h r s))) := by
  unfold replaceStep
  rw [hx]
  dsimp only
  rw [rcvOpen_open hen (List.ne_nil_of_mem (leastLoaded_mem hl))]
  dsimp only
  rw [laneFound_lanes, hl]
  rfl

theorem replaceStep_effect (ha : higherClaim s = h) (hx : firstUnit (takenBack s h r) = some x) (hen : rcvEn s r = true)
    (hl : leastLoaded s (eligibleLanes s r) = some l) : ReplacedOn h r l x s (replaceStep h r s) := by
  rw [replaceStep_takes hx hen hl]
  have hfound := (laneFound_edits h r s).trans (unlist_edits h x (laneFound h r s))
  have hplace := unlist_place h x (laneFound h r s)
  have hback := takenBack_unlist h r x (laneFound h r s)
  rw [takenBack_congr (s := s) (t := laneFound h r s) (by rw [laneFound_place])] at hback
  rw [laneFound_place] at hplace
  generalize unlist h x (laneFound h r s) = u at *
  have hsame := (SameReceivers.of_edits hfound).trans (sameReceivers_putUnit l x u)
  obtain ⟨hhive, hregs, hpending, -⟩ := putUnit_kept l x u h
  have hclaim := (higherClaim_putUnit l x u).trans hfound.works.higherClaim
  have hlane := putUnit_lane l x u
  rw [(SameReceivers.of_edits hfound).rcvId, lane_of_lanes hfound.works.lanes] at hlane
  generalize putUnit l x u = v at *
  obtain ⟨hleaves, hmarked, hcounted⟩ := noteReplaced_effect (hclaim.trans ha)
  have hnoted := sameReceivers_noteReplaced (hclaim.trans ha)
  generalize noteReplaced h v = t at *
  constructor
  case pending => exact hleaves.quiet.pending.trans (hpending.trans hfound.works.pending)
  case claim => exact hleaves.works.higherClaim.trans hclaim
  case receivers => exact hsame.trans hnoted
  case back => exact (takenBack_congr (by rw [hleaves.place, hhive]) r).trans hback
  case credit => rw [hleaves.place, hhive, hplace]
  case lane => rw [lane_of_lanes hleaves.quiet.lanes, hlane, if_pos rfl]; rfl
  case others => exact fun k hk => by rw [lane_of_lanes hleaves.quiet.lanes, hlane, if_neg hk, lane_of_lanes hfound.works.lanes]
  case counted => rw [hcounted, reg_of_regs (hregs.trans hfound.regs)]
  case marked => exact hmarked

/-- All the units taken back for a receiver have been placed on its lanes. -/
structure ReplacedAll (h : HiveId) (r : Nat) (s t : State) : Prop where
  pending : t.pending = s.pending
  back : takenBack t h r = []
  placed : ∀ x ∈ takenBack s h r, ∃ l ∈ eligibleLanes s r, backPackets s x <:+: (t.lane l).waiting
  longer : ∀ l, (s.lane l).waiting <+: (t.lane l).waiting
  others : ∀ l, l ∉ eligibleLanes s r → t.lane l = s.lane l
  credit : (t.hive h).place.credit = (s.hive h).place.credit
  counted : t.reg (plcPage h) Reg.PLC_REPLACE_CNT = satInc (s.reg (plcPage h) Reg.PLC_REPLACE_CNT) (takenBack s h r).length
  marked : Marked t (plcPage h) Reg.PLC_EVENTS 2

theorem ReplacedOn.longer (a : ReplacedOn h r l x s t) (k : Nat) : (s.lane k).waiting <+: (t.lane k).waiting := by
  by_cases hk : k = l
  · rw [hk, a.lane]
    exact List.prefix_append ..
  · rw [a.others k hk]

theorem ReplacedOn.all (a : ReplacedOn h r l x s t) (hl : l ∈ eligibleLanes s r) (hb : takenBack s h r = [x]) : ReplacedAll h r s t where
  pending := a.pending
  back := by rw [a.back, hb]; exact List.erase_cons_head x []
  placed y hy := by
    obtain rfl := List.mem_singleton.1 (hb ▸ hy)
    refine ⟨l, hl, ?_⟩
    rw [a.lane]
    exact (List.suffix_append ..).isInfix
  longer := a.longer
  others k hk := a.others k fun he => hk (he ▸ hl)
  credit := a.credit
  counted := by rw [a.counted, hb]; rfl
  marked := a.marked

theorem satInc_succ (v : W32) (n : Nat) : satInc (satInc v 1) n = satInc v (n + 1) := by
  unfold satInc satAdd
  have := v.isLt
  apply BitVec.eq_of_toNat_eq
  simp only [BitVec.toNat_ofNat]
  omega

theorem backPackets_congr (a : SameReceivers s t) (x : PUnit) : backPackets t x = backPackets s x := by
  unfold backPackets
  rw [a.rcvId]

theorem ReplacedOn.then (a : ReplacedOn h r l x s t) (hl : l ∈ eligibleLanes s r) (hx : x ∈ takenBack s h r) (b : ReplacedAll h r t u) : ReplacedAll h r s u where
  pending := b.pending.trans a.pending
  back := b.back
  placed y hy := by
    by_cases hyx : y = x
    · refine ⟨l, hl, List.IsInfix.trans ?_ (b.longer l).isInfix⟩
      rw [a.lane, hyx]
      exact (List.suffix_append ..).isInfix
    · have hplaced := b.placed y (by rw [a.back]; exact (List.mem_erase_of_ne hyx).2 hy)
      rwa [a.receivers.eligibleLanes, backPackets_congr a.receivers] at hplaced
  longer k := (a.longer k).trans (b.longer k)
  others k hk := (b.others k (by rwa [a.receivers.eligibleLanes])).trans (a.others k fun he => hk (he ▸ hl))
  credit := b.credit.trans a.credit
  counted := by
    have hpos := List.length_pos_of_mem hx
    rw [b.counted, a.counted, satInc_succ, a.back, List.length_erase_of_mem hx]
    congr 1
    omega
  marked := b.marked

/-- The units taken back are placed again one after the other. -/
theorem replaceStep_iterate {n : Nat} (ha : higherClaim s = h) (hen : rcvEn s r = true) (hl : eligibleLanes s r ≠ [])
    (hn : (takenBack s h r).length = n + 1) : ReplacedAll h r s ((replaceStep h r)^[n + 1] s) := by
  induction n generalizing s with
  | zero =>
    obtain ⟨x, hx⟩ := List.length_eq_one_iff.1 hn
    obtain ⟨l, hmem, hleast⟩ := leastLoaded_some (s := s) hl
    exact (replaceStep_effect ha (x := x) (by rw [hx]; rfl) hen hleast).all hmem hx
  | succ n ih =>
    obtain ⟨x, hmemx, hx⟩ := firstUnit_some (us := takenBack s h r) (List.ne_nil_of_length_pos (by omega))
    obtain ⟨l, hmem, hleast⟩ := leastLoaded_some (s := s) hl
    have hstep := replaceStep_effect ha hx hen hleast
    rw [Function.iterate_succ_apply]
    refine hstep.then hmem hmemx (ih (hstep.claim.trans ha) ?_ ?_ ?_)
    · rwa [hstep.receivers.rcvEn]
    · rwa [hstep.receivers.eligibleLanes]
    · rw [hstep.back, List.length_erase_of_mem hmemx, hn]
      rfl

/-- The units taken back from a lane go out again in their order. -/
theorem unitReplace_runs {r : Fin 64} (hp : placing s = true) (hen : rcvEn s r.val = true) (hl : eligibleLanes s r.val ≠ [])
    (hb : takenBack s (higherClaim s) r.val ≠ []) :
    Runs (.unitReplace r) s fun t => ReplacedAll (higherClaim s) r.val s t ∧
      ∀ x l, takenBack s (higherClaim s) r.val = [x] → leastLoaded s (eligibleLanes s r.val) = some l →
        (t.lane l).waiting = (s.lane l).waiting ++ backPackets s x ∧ ∀ k, k ≠ l → t.lane k = s.lane k := by
  obtain ⟨n, hn⟩ : ∃ n, (takenBack s (higherClaim s) r.val).length = n + 1 := ⟨_, (Nat.succ_pred (List.length_pos_iff.2 hb).ne').symm⟩
  have hall := replaceStep_iterate rfl hen hl hn
  refine runs_of_done (congrArg (done s) ((unitReplace_eq hp _).trans (by rw [hn]))) hall.pending ⟨hall, fun x l hx hleast => ?_⟩
  rw [hx] at hn
  obtain rfl : 0 = n := Nat.succ.inj hn
  have hstep := replaceStep_effect rfl (x := x) (by rw [hx]; rfl) hen hleast
  exact ⟨hstep.lane, hstep.others⟩

end

end Sys2Proof.Machine

namespace Sys2Proof.Machine
open Sys2Proof.Claims

/-! ### Dump packets (R283) -/

/-- The packets of a dump packet for receiver PLC_DUMP_RCV. -/
def dumpPackets (s : State) (ws : List W64) : List TxPacket :=
  dataPackets (fun a b => .dump ws a b) (rcvId s (fld (s.cfg 0x18 Reg.PLC_DUMP_RCV) 5 0)) ws

/-- A dump packet put on a lane. -/
def dumpSend (l : Nat) (ws : List W64) (s : State) : State := s.modLane l (fun x => { x with waiting := x.waiting ++ dumpPackets s ws })

section
variable {s t : State} {h : HiveId} {l : Nat}

theorem dumpSend_lane (l : Nat) (ws : List W64) (s : State) (k : Nat) :
    (dumpSend l ws s).lane k = if k = l then { s.lane l with waiting := (s.lane l).waiting ++ dumpPackets s ws } else s.lane k :=
  State.setLane_lane ..

theorem dumpSend_kept (l : Nat) (ws : List W64) (s : State) (h : HiveId) :
    (dumpSend l ws s).hive h = s.hive h ∧ (dumpSend l ws s).regs = s.regs ∧ (dumpSend l ws s).pending = s.pending ∧ SameStore h s (dumpSend l ws s) := by
  cases h <;> exact ⟨rfl, rfl, rfl, sameStore_setLane ..⟩

theorem dumpPackets_of_regs (hr : t.regs = s.regs) (ws : List W64) : dumpPackets t ws = dumpPackets s ws := by
  unfold dumpPackets rcvId plcCfg State.cfg
  simp only [reg_of_regs hr]

/-- What a dump packet sent after a change that leaves lanes and registers does to the lanes. -/
theorem dumpSend_after (hl : t.lanes = s.lanes) (hr : t.regs = s.regs) (l : Nat) (ws : List W64) :
    ((dumpSend l ws t).lane l).waiting = (s.lane l).waiting ++ dumpPackets s ws ∧ ∀ k, k ≠ l → (dumpSend l ws t).lane k = s.lane k := by
  refine ⟨?_, fun k hk => ?_⟩
  · rw [dumpSend_lane, if_pos rfl, dumpPackets_of_regs hr, lane_of_lanes hl]
  · rw [dumpSend_lane, if_neg hk, lane_of_lanes hl]

theorem dumpFeed_idle (hd : dumping s (higherClaim s) = false) : dumpFeed s = s := by
  unfold dumpFeed
  dsimp only
  rw [hd]
  rfl

theorem dumpPlace_back (hl : dumpLane s = some l) {ws : List W64} {rest : List (List W64)} (hb : (s.hive (higherClaim s)).place.dumpBack = ws :: rest) :
    dumpPlace s = dumpSend l ws (s.modPlace (higherClaim s) (fun p => { p with dumpBack := rest })) := by
  unfold dumpPlace
  dsimp only
  rw [hl]
  dsimp only
  rw [hb]
  rfl

/-- A dump packet taken back from a lane goes first. -/
theorem dumpPlace_runs_back (hd : dumping s (higherClaim s) = false) (hl : dumpLane s = some l) {ws : List W64} {rest : List (List W64)}
    (hb : (s.hive (higherClaim s)).place.dumpBack = ws :: rest) :
    Runs .dumpPlace s fun t => (t.lane l).waiting = (s.lane l).waiting ++ dumpPackets s ws ∧ (t.hive (higherClaim s)).place.dumpBack = rest ∧
      (∀ k, k ≠ l → t.lane k = s.lane k) ∧ t.regs = s.regs := by
  have hexec : exec .dumpPlace s = done s _ := congrArg (done s) ((congrArg dumpPlace (dumpFeed_idle hd)).trans (dumpPlace_back hl hb))
  have hedit : Edits (higherClaim s) s (s.modPlace (higherClaim s) (fun p => { p with dumpBack := rest })) :=
    .modPlace s (higherClaim s) (fun p => { p with dumpBack := rest })
  have hplace := modPlace_place s (higherClaim s) (fun p => { p with dumpBack := rest })
  generalize s.modPlace (higherClaim s) (fun p => { p with dumpBack := rest }) = v at *
  obtain ⟨hhive, hregs, hpending, -⟩ := dumpSend_kept l ws v (higherClaim s)
  obtain ⟨hlane, hothers⟩ := dumpSend_after hedit.works.lanes hedit.regs l ws
  exact runs_of_done hexec (hpending.trans hedit.works.pending) ⟨hlane, by rw [hhive, hplace], hothers, hregs.trans hedit.regs⟩

theorem dumpPlace_pops (hl : dumpLane s = some l) (hb : (s.hive (higherClaim s)).place.dumpBack = []) {x : W64} {bad : Bool} {ws : List W64} {u : State}
    (hp : qPop s (higherClaim s) 1 = (t, some (x, bad)))
    (hw : (List.range (fieldN x.toNat 63 40)).foldl (fun acc _ => popStep (higherClaim s) 1 acc) (t, []) = (u, ws)) : dumpPlace s = dumpSend l ws u := by
  unfold dumpPlace
  dsimp only
  rw [hl]
  dsimp only
  rw [hb]
  dsimp only
  rw [hp]
  dsimp only
  exact congrArg (fun r => dumpSend l r.2 r.1) hw

/-- The packet at the head of queue 1 goes to the lane of the dump. -/
theorem dumpPlace_runs_popped {n : Nat} {d0 : W64} {hd tl rs : BitVec 32} {x : Nat → W64} (hidle : dumping s (higherClaim s) = false) (hl : dumpLane s = some l)
    (hb : (s.hive (higherClaim s)).place.dumpBack = []) (hq : QueueAt s (higherClaim s) 1 d0 hd tl rs) (ha : RingAbove d0)
    (hx : ∀ i, i ≤ n → WordReads s (higherClaim s) (ringAddr d0 (ringPos hd i)) (x i)) (hn : fieldN (x 0).toNat 63 40 = n) (hlen : n + 1 ≤ (tl - hd).toNat) :
    Runs .dumpPlace s fun t => (t.lane l).waiting = (s.lane l).waiting ++ dumpPackets s ((List.range n).map (fun i => x (i + 1))) ∧
      QueueAt t (higherClaim s) 1 d0 (ringPos hd (n + 1)) tl rs ∧ (∀ k, k ≠ l → t.lane k = s.lane k) ∧ t.regs = s.regs := by
  subst hn
  have hfirst := qPop_at hq (by omega) (by simpa [ringPos_zero] using hx 0 (Nat.zero_le _))
  have hq' := queueAt_putHead hq (ringPos hd 1)
  have hstore := WritesOnly.putWord (W := (· = 4 * 1 + 1)) s (queueAt_headOpen hq) rfl (ptrWord (ringPos hd 1))
  generalize s.putWord (higherClaim s) (4 * 1 + 1) (ptrWord (ringPos hd 1)) = u at *
  obtain ⟨v, hfold, hqv, hstore'⟩ := pops_at hq' ha (by decide) (x := fun i => x (i + 1)) [] (n := fieldN (x 0).toNat 63 40)
    (by rw [ringPos_left (by omega)]; omega) fun i hi => by
      rw [ringPos_ringPos, Nat.add_comm]
      exact hstore.reads _ _ (by have := ringAddr_above ha (ringPos hd (i + 1)); omega) (hx _ (by omega))
  rw [List.nil_append] at hfold
  rw [ringPos_ringPos, Nat.add_comm] at hqv
  have hexec : exec .dumpPlace s = done s _ := congrArg (done s) ((congrArg dumpPlace (dumpFeed_idle hidle)).trans (dumpPlace_pops hl hb hfirst hfold))
  have hv := hstore.store.trans hstore'.store
  obtain ⟨-, hregs, hpending, hsame⟩ := dumpSend_kept l _ v (higherClaim s)
  obtain ⟨hlane, hothers⟩ := dumpSend_after hv.works.lanes hv.regs l _
  exact runs_of_done hexec (hpending.trans hv.works.pending) ⟨hlane, hsame.queueAt hqv, hothers, hregs.trans hv.regs⟩

end

end Sys2Proof.Machine

section
open Sys2Proof Sys2Proof.Machine Sys2Proof.Claims

/-- Settles O25: a placed unit is one taken from its queue and put on a lane, the units taken back are placed by induction on their number, and a
dump packet is one taken back or the words popped from queue 1. -/
theorem unitsArePlaced : Obligations.UnitsArePlaced := by
  unfold Obligations.UnitsArePlaced
  refine ⟨fun r u l d0 hd tl rs x s hp ht hu hen hl hc hq _ hx => unitPlace_runs rfl hp ht hu hen hl hc hq hx, fun r s hp hen hl hb => ?_,
    fun l ws rest s hd hl hb => dumpPlace_runs_back hd hl hb,
    fun l n d0 hd tl rs x s hidle hl hb hq ha hx hn hlen => dumpPlace_runs_popped hidle hl hb hq ha hx hn hlen⟩
  obtain ⟨t, ht, hall, hone⟩ := unitReplace_runs hp hen hl hb
  exact ⟨t, ht, hall.back, hall.placed, hone, hall.longer, hall.others, hall.credit, hall.counted, hall.marked⟩

end

namespace Sys2Proof.Machine
open Sys2Proof.Claims

/-! ### The switch of the placement table (R277, 11_systems.md R369) -/

theorem perform_switchArm (p : Path) (h : HiveId) (s : State) :
    perform p opWrite (hivePage h 0x18) Reg.PLC_SWITCH_CTL 1 s = (plcArm s, 0, 0) := by cases h <;> rfl

theorem perform_switchDisarm (p : Path) (h : HiveId) (s : State) :
    perform p opWrite (hivePage h 0x18) Reg.PLC_SWITCH_CTL 2 s = (plcDisarm s, 0, 0) := by cases h <;> rfl

/-- The frame that a switch is armed for. -/
def switchFrame (s : State) : BitVec 40 := BitVec.ofNat 40 (s.reg64 (cfgPage 0x18) Reg.PLC_SWITCH_FRAME_LO)

/-- The status of a switch refused, unless another is armed. -/
def switchRefused (s : State) : State := if s.chip.plcArmed.isSome then s else s.modChip (fun c => { c with plcState := 3 })

section
variable {s s' t u v : State}

theorem plcArm_late (hf : frameDiff (switchFrame s) s.frameNow ≤ 0) :
    plcArm s = schedExpired (raise (switchRefused s) (plcPage (higherClaim (switchRefused s))) Reg.PLC_EVENTS (2 ^ 1)) := if_pos hf

theorem plcArm_early (hf : 0 < frameDiff (switchFrame s) s.frameNow) :
    plcArm s = s.modChip (fun c => { c with plcArmed := some (switchFrame s), plcState := 1 }) := if_neg (not_le.2 hf)

theorem switchRefused_effect (s : State) :
    switchRefused s = { s with chip := { s.chip with plcState := (switchRefused s).chip.plcState } } ∧
      (s.chip.plcArmed = none → (switchRefused s).chip.plcState = 3) := by
  unfold switchRefused
  cases hc : s.chip.plcArmed with
  | none => exact ⟨rfl, fun _ => rfl⟩
  | some f => exact ⟨rfl, nofun⟩

/-- What a switch that is refused leaves, and what marks it. -/
theorem plcArm_refuses (hf : frameDiff (switchFrame s) s.frameNow ≤ 0) :
    (plcArm s).chip = (switchRefused s).chip ∧ (plcArm s).pending = s.pending ∧ (plcArm s).lanes = s.lanes ∧ (plcArm s).blocks = s.blocks ∧
      Marked (plcArm s) (hivePage (higherClaim s) 0x18) Reg.PLC_EVENTS 1 ∧ Marked (plcArm s) chipPage Reg.CHIP_SYS_EVENTS 2 := by
  obtain ⟨heq, -⟩ := switchRefused_effect s
  have hclaim : higherClaim (switchRefused s) = higherClaim s := by rw [heq]; rfl
  have hpending : (switchRefused s).pending = s.pending := by rw [heq]
  have hlanes : (switchRefused s).lanes = s.lanes := by rw [heq]
  have hblocks : (switchRefused s).blocks = s.blocks := by rw [heq]
  rw [plcArm_late hf, hclaim]
  have hnoted : noted (rkey (hivePage (higherClaim s) 0x18) Reg.PLC_EVENTS 0) = false := noted_hivePage _ _ _ _ (by decide) (by decide) (by decide)
  have hmarked := raise_marked (switchRefused s) (hivePage (higherClaim s) 0x18) Reg.PLC_EVENTS 1 (page_mod _ _ _) hnoted (by decide)
  have hquiet := raise_quiet (switchRefused s) (hivePage (higherClaim s) 0x18) Reg.PLC_EVENTS (2 ^ 1) (page_mod _ _ _)
  generalize raise (switchRefused s) (hivePage (higherClaim s) 0x18) Reg.PLC_EVENTS (2 ^ 1) = u at *
  obtain ⟨-, hexpired, hquiet', -⟩ := schedExpired_effect u
  refine ⟨hquiet'.chip.trans hquiet.chip, hquiet'.pending.trans (hquiet.pending.trans hpending), hquiet'.lanes.trans (hquiet.lanes.trans hlanes),
    hquiet'.blocks.trans (hquiet.blocks.trans hblocks), ?_, hexpired⟩
  unfold Marked at *
  rwa [hquiet'.reg _ _ _ hnoted (by unfold onPage; cases higherClaim s <;> decide)]

theorem switchFrame_near (hn : Near s t) : switchFrame t = switchFrame s := by
  unfold switchFrame State.reg64
  rw [near_reg hn, near_reg hn]

theorem frameNow_near (hn : Near s t) : t.frameNow = s.frameNow := by
  unfold State.frameNow
  rw [near_higherClaim hn, near_hive hn]

/-- The switch's part of the chip. -/
def switchOf (s : State) : Option (BitVec 40) × Nat × Bool × BitVec 16 := (s.chip.plcArmed, s.chip.plcState, s.chip.plcBank, s.chip.plcEpoch)

theorem switchOf_near (hn : Near s t) : switchOf t = switchOf s := by
  unfold switchOf
  rw [hn.chip]

/-- A change of the chip within an access. -/
theorem near_modChip (hn : Near s s') (hv : v = { s' with chip := v.chip }) (ht : Near v t) : Near { s with chip := t.chip } t := by
  have hsv : Near { s with chip := v.chip } v := by
    rw [hv]
    exact { hn with chip := rfl }
  exact { hsv.trans ht with chip := rfl }

/-- A switch is armed for a frame not yet begun, and refused EXPIRED for another. -/
theorem plcSwitchArm_runs {p : Path} {r : HiveRef} (hready : Ready p (hiveDom (hiveOf s r)) s) :
    Runs (.plcSwitchArm p r) s fun t =>
      (0 < frameDiff (switchFrame s) s.frameNow → t.chip.plcArmed = some (switchFrame s) ∧ t.chip.plcState = 1 ∧ t.regs = s.regs) ∧
      (frameDiff (switchFrame s) s.frameNow ≤ 0 → t.chip.plcArmed = s.chip.plcArmed ∧ (s.chip.plcArmed = none → t.chip.plcState = 3) ∧
        Marked t (hivePage (higherClaim s) 0x18) Reg.PLC_EVENTS 1 ∧ Marked t chipPage Reg.CHIP_SYS_EVENTS 2) ∧
      t.chip.plcBank = s.chip.plcBank ∧ t.chip.plcEpoch = s.chip.plcEpoch ∧ t.lanes = s.lanes ∧ t.blocks = s.blocks := by
  obtain ⟨v, hs, ht⟩ := writeAt_hive p r 0x18 Reg.PLC_SWITCH_CTL (by decide) (by decide) 1 s hready
  rw [perform_switchArm] at ht
  have hsv := switchOf_near hs
  have htv := switchOf_near ht
  have hframe := switchFrame_near hs
  have hnow := frameNow_near hs
  have hclaim := near_higherClaim hs
  have hexec : exec (.plcSwitchArm p r) s = done s (writeAt p (hiveAddr r 0x18 Reg.PLC_SWITCH_CTL) 1 s) := rfl
  generalize writeAt p (hiveAddr r 0x18 Reg.PLC_SWITCH_CTL) 1 s = t at *
  obtain ⟨harmed, hstate, hbank, hepoch⟩ : t.chip.plcArmed = (plcArm v).chip.plcArmed ∧ t.chip.plcState = (plcArm v).chip.plcState ∧
      t.chip.plcBank = (plcArm v).chip.plcBank ∧ t.chip.plcEpoch = (plcArm v).chip.plcEpoch := by simpa [switchOf] using htv
  obtain ⟨harmed', hstate', hbank', hepoch'⟩ : v.chip.plcArmed = s.chip.plcArmed ∧ v.chip.plcState = s.chip.plcState ∧
      v.chip.plcBank = s.chip.plcBank ∧ v.chip.plcEpoch = s.chip.plcEpoch := by simpa [switchOf] using hsv
  rw [← hframe, ← hnow, ← hclaim]
  obtain hearly | hlate := lt_or_ge 0 (frameDiff (switchFrame v) v.frameNow)
  · rw [plcArm_early hearly] at *
    exact runs_of_done hexec (ht.pending.trans hs.pending) ⟨fun _ => ⟨harmed, hstate, ht.regs.trans hs.regs⟩,
      fun hle => absurd hearly (not_lt.2 hle), hbank.trans hbank', hepoch.trans hepoch', ht.lanes.trans hs.lanes, ht.blocks.trans hs.blocks⟩
  · obtain ⟨hchip, hpending, hlanes, hblocks, hrefused, hexpired⟩ := plcArm_refuses hlate
    obtain ⟨heq, hthree⟩ := switchRefused_effect v
    have hkept := congrArg State.chip heq
    rw [hchip] at harmed hstate hbank hepoch
    refine runs_of_done hexec (ht.pending.trans (hpending.trans hs.pending)) ⟨fun hlt => absurd hlt (not_lt.2 hlate),
      fun _ => ⟨?_, fun hnone => ?_, ?_, ?_⟩, ?_, ?_, ht.lanes.trans (hlanes.trans hs.lanes), ht.blocks.trans (hblocks.trans hs.blocks)⟩
    · rw [harmed, hkept, harmed']
    · rw [hstate, hthree (harmed'.trans hnone)]
    · unfold Marked at *; rwa [near_reg ht]
    · unfold Marked at *; rwa [near_reg ht]
    · rw [hbank, hkept, hbank']
    · rw [hepoch, hkept, hepoch']

/-- The switch as a DISARM leaves it. -/
theorem plcDisarm_effect (s : State) :
    plcDisarm s = { s with chip := (plcDisarm s).chip } ∧ (plcDisarm s).chip.plcArmed = none ∧ (s.chip.plcArmed ≠ none → (plcDisarm s).chip.plcState = 0) ∧
      (s.chip.plcArmed = none → (plcDisarm s).chip.plcState = s.chip.plcState) ∧ (plcDisarm s).chip.plcBank = s.chip.plcBank := by
  unfold plcDisarm
  cases hc : s.chip.plcArmed with
  | none => exact ⟨rfl, hc, fun hn => absurd rfl hn, fun _ => rfl, rfl⟩
  | some f => exact ⟨rfl, rfl, fun _ => rfl, nofun, rfl⟩

/-- A switch is disarmed. -/
theorem plcSwitchDisarm_runs {p : Path} {r : HiveRef} (hready : Ready p (hiveDom (hiveOf s r)) s) :
    Runs (.plcSwitchDisarm p r) s fun t => t.chip.plcArmed = none ∧ (s.chip.plcArmed ≠ none → t.chip.plcState = 0) ∧
      (s.chip.plcArmed = none → t.chip.plcState = s.chip.plcState) ∧ t.chip.plcBank = s.chip.plcBank ∧ Near { s with chip := t.chip } t := by
  obtain ⟨v, hs, ht⟩ := writeAt_hive p r 0x18 Reg.PLC_SWITCH_CTL (by decide) (by decide) 2 s hready
  rw [perform_switchDisarm] at ht
  have hexec : exec (.plcSwitchDisarm p r) s = done s (writeAt p (hiveAddr r 0x18 Reg.PLC_SWITCH_CTL) 2 s) := rfl
  obtain ⟨heq, harmed, hzero, hkept, hbank⟩ := plcDisarm_effect v
  have hsv := switchOf_near hs
  have htv := switchOf_near ht
  generalize writeAt p (hiveAddr r 0x18 Reg.PLC_SWITCH_CTL) 2 s = t at *
  have hnear := near_modChip hs heq ht
  unfold switchOf at hsv htv
  simp only [Prod.mk.injEq] at hsv htv
  obtain ⟨harmed', hstate', hbank', -⟩ := hsv
  obtain ⟨harmedt, hstatet, hbankt, -⟩ := htv
  rw [harmed'] at hzero hkept
  exact runs_of_done hexec hnear.pending ⟨harmedt.trans harmed, fun hn => hstatet.trans (hzero hn), fun hn => (hstatet.trans (hkept hn)).trans hstate',
    (hbankt.trans hbank).trans hbank', hnear⟩

end

end Sys2Proof.Machine

namespace Sys2Proof.Machine
open Sys2Proof.Claims

/-! ### The words of a packet put into a ring (R264, R265) -/

section
variable {s t : State} {h : HiveId} {q : Nat} {d0 : W64} {hd tl rs : BitVec 32}

theorem ringAddr_ringPos (d0 : W64) (p : BitVec 32) (i : Nat) : ringAddr d0 (ringPos p i) = d0Base d0 * 8 + (p.toNat + i) % 2 ^ d0Size d0 := by
  have hdvd : 2 ^ d0Size d0 ∣ 2 ^ 32 := Nat.pow_dvd_pow 2 (Nat.le_of_lt (Nat.mod_lt _ (by decide)))
  unfold ringAddr ringPos
  rw [BitVec.toNat_add, Nat.mod_mod_of_dvd _ hdvd, BitVec.toNat_ofNat, Nat.add_mod, Nat.mod_mod_of_dvd _ hdvd, ← Nat.add_mod]

/-- Positions closer than the size of a ring are different words of it. -/
theorem ringAddr_ne (d0 : W64) (p : BitVec 32) {i j : Nat} (hij : i < j) (hj : j < 2 ^ d0Size d0) :
    ringAddr d0 (ringPos p i) ≠ ringAddr d0 (ringPos p j) := by
  rw [ringAddr_ringPos, ringAddr_ringPos]
  intro he
  have hmod : i % 2 ^ d0Size d0 = j % 2 ^ d0Size d0 := Nat.ModEq.add_left_cancel' p.toNat (Nat.add_left_cancel he)
  rw [Nat.mod_eq_of_lt (hij.trans hj), Nat.mod_eq_of_lt hj] at hmod
  omega

/-- The first reservation of a packet writes RESV alone. -/
theorem qReserveE_writes (hr : HostRing q d0) (hq : QueueAt s h q d0 hd tl tl) (hfree : (s.queue h q).opened = none) {n : Nat}
    (hsize : n + 1 ≤ 2 ^ d0Size d0 - 1) (hlen : n < 2 ^ 24) (hroom : n + 1 ≤ roomOf d0 hd tl) :
    ∃ t, qReserveE s h q .device n = (t, [], qOk) ∧ OpenPacket t h q d0 hd tl n 0 ∧ WritesOnly h (· = 4 * q + 3) s t := by
  have hspace : ¬ Desc.space ⟨d0, hd, tl, tl⟩ < n + 1 := by
    unfold roomOf at hroom
    simp only [Desc.space]
    omega
  unfold qReserveE
  rw [if_neg hr.reserved, qDescE_at hq]
  dsimp only [takeOwed]
  rw [hr.isEnabled, hfree, if_neg (by decide)]
  dsimp only
  rw [if_neg (by omega), if_neg hspace, putPtr_at (queueAt_resvOpen hq)]
  exact ⟨_, rfl, ⟨queueAt_modQueue (queueAt_putResv hq _) _, by simp, by simp⟩,
    (WritesOnly.putWord (W := (· = 4 * q + 3)) s (queueAt_resvOpen hq) rfl _).trans (.modQueue ..)⟩

/-- The next word of an open packet is written at its place alone. -/
theorem qWriteE_writes (hr : HostRing q d0) {n k : Nat} (hp : OpenPacket s h q d0 hd tl n k) (hk : k < n) (hlen : n < 2 ^ 24)
    (ho : WordOpen s h (ringAddr d0 (ringPos tl (k + 1)))) (w : W64) :
    ∃ t, qWriteE s h q .device w = (t, [], qOk) ∧ OpenPacket t h q d0 hd tl n (k + 1) ∧ WordReads t h (ringAddr d0 (ringPos tl (k + 1))) w ∧
      WritesOnly h (· = ringAddr d0 (ringPos tl (k + 1))) s t := by
  have hheld := ringPos_sub tl (i := n + 1) (by omega)
  have hpos : tl + BitVec.ofNat 32 (k + 1) = ringPos tl (k + 1) := rfl
  unfold qWriteE
  rw [if_neg hr.reserved, qDescE_at hp.desc]
  dsimp only [takeOwed]
  rw [hp.written, hp.opened, hheld, if_neg (by simp), if_neg (by omega), hpos, hWriteE_open ho]
  refine ⟨_, rfl, ⟨queueAt_modQueue (queueAt_putAbove hp.desc hr.small (ringAddr_above hr.above _) _) _, ?_, ?_⟩,
    (sameStore_modQueue ..).reads (putWord_reads ho), (WritesOnly.putWord (W := (· = ringAddr d0 (ringPos tl (k + 1)))) s ho rfl _).trans (.modQueue ..)⟩
  · simp [hp.opened]
  · simp [hp.written]

/-- The words of a packet are written at their places, `k` words being there before them. -/
theorem qWriteList_writes (hr : HostRing q d0) {n : Nat} (hlen : n < 2 ^ 24) (hsize : n < 2 ^ d0Size d0) (ws : List W64) {k : Nat} {s : State}
    (hp : OpenPacket s h q d0 hd tl n k) (hk : k + ws.length ≤ n) (ho : ∀ i, i ≤ n → WordOpen s h (ringAddr d0 (ringPos tl i))) :
    ∃ t, qWriteList h q .device ws s = (t, [], qOk) ∧ OpenPacket t h q d0 hd tl n (k + ws.length) ∧
      (∀ i (hi : i < ws.length), WordReads t h (ringAddr d0 (ringPos tl (k + 1 + i))) ws[i]) ∧
      WritesOnly h (fun w => ∃ i, k < i ∧ i ≤ n ∧ w = ringAddr d0 (ringPos tl i)) s t := by
  induction ws generalizing s k with
  | nil => exact ⟨s, rfl, hp, nofun, .refl ..⟩
  | cons w ws ih =>
    rw [List.length_cons] at hk
    obtain ⟨u, hu, hpu, hreads, hsu⟩ := qWriteE_writes hr hp (by omega) hlen (ho _ (by omega)) w
    obtain ⟨t, ht, hpt, hrest, hut⟩ := ih hpu (by omega) fun i hi => hsu.store.opened _ (ho i hi)
    refine ⟨t, ?_, ?_, fun i hi => ?_, (hsu.mono fun _ he => ⟨k + 1, by omega, by omega, he⟩).trans (hut.mono ?_)⟩
    · unfold qWriteList
      rw [hu]
      dsimp only
      rw [if_neg (by decide), ht]
      rfl
    · rwa [List.length_cons, show k + (ws.length + 1) = k + 1 + ws.length by omega]
    · cases i with
      | zero => exact hut.reads _ _ (fun ⟨j, hj, hjn, he⟩ => ringAddr_ne d0 tl hj (by omega) he) hreads
      | succ i =>
        rw [List.length_cons] at hi
        have hnext := hrest i (by omega)
        rwa [show k + 1 + 1 + i = k + 1 + (i + 1) by omega] at hnext
    · rintro w ⟨i, hi, hin, he⟩
      exact ⟨i, by omega, hin, he⟩

/-- The open packet committed: its packet word, RESV and TAIL are written. -/
theorem qCommitE_writes (hr : HostRing q d0) (hq : QueueAt s h q d0 hd tl rs) (hopen : (s.queue h q).opened = some .device)
    {k : Nat} (hw : (s.queue h q).written = k) (hk : k ≠ 0) (ho : WordOpen s h (ringAddr d0 tl)) :
    ∃ t, qCommitE s h q .device = (t, [], qOk, some (tl.toNat, k)) ∧
      QueueAt t h q d0 hd (ringPos tl (k + 1)) (ringPos tl (k + 1)) ∧
      WritesOnly h (fun w => w = ringAddr d0 tl ∨ w = 4 * q + 2 ∨ w = 4 * q + 3) s t := by
  obtain ⟨cls, hcls⟩ := Option.isSome_iff_exists.1 hr.listed
  have habove := queueAt_putAbove hq hr.small (ringAddr_above hr.above tl) (packetWord k cls (s.queue h q).seq)
  unfold qCommitE
  rw [hcls]
  dsimp only
  rw [qDescE_at hq]
  dsimp only [takeOwed]
  rw [hopen, hw, if_neg (by simp), if_neg hk, hWriteE_open ho]
  dsimp only
  rw [if_neg (by decide), putPtr_at (queueAt_resvOpen habove)]
  dsimp only
  rw [putPtr_at (queueAt_tailOpen (queueAt_putResv habove _))]
  exact ⟨_, rfl, queueAt_modQueue (queueAt_putTail (queueAt_putResv habove _) _) _, (WritesOnly.putWord s ho (.inl rfl) _).trans
    ((WritesOnly.putWord _ (queueAt_resvOpen habove) (.inr (.inr rfl)) _).trans
      ((WritesOnly.putWord _ (queueAt_tailOpen (queueAt_putResv habove _)) (.inr (.inl rfl)) _).trans (.modQueue ..)))⟩

/-- What a packet put into queue `q` writes: TAIL, RESV and words of its ring. -/
def putWords (q w : Nat) : Prop := w = 4 * q + 2 ∨ w = 4 * q + 3 ∨ 2 ^ 18 ≤ w

/-- A whole packet put into a queue that can take it stands in its ring word for word. -/
theorem qPut_writes {ws : List W64} (hc : CanPut s h q d0 hd tl ws.length) (hhosted : qFixed q = false) (hsmall : q < 65536) :
    ∃ t, qPut s h q .device ws = (t, qOk, some (tl.toNat, ws.length)) ∧
      QueueAt t h q d0 hd (ringPos tl (ws.length + 1)) (ringPos tl (ws.length + 1)) ∧
      (∀ i (hi : i < ws.length), WordReads t h (ringAddr d0 (ringPos tl (i + 1))) ws[i]) ∧ WritesOnly h (putWords q) s t := by
  obtain ⟨hq, ⟨hlisted, henabled, habove, -⟩, hfree, hne, hsize, hlen, hroom, hwords⟩ := hc
  have hr : HostRing q d0 := ⟨hlisted, hhosted, by unfold qEnabled at henabled; rwa [hhosted] at henabled, habove, hsmall⟩
  obtain ⟨u, hu, hpu, hsu⟩ := qReserveE_writes hr hq hfree hsize hlen hroom
  obtain ⟨v, hv, hpv, hreads, huv⟩ := qWriteList_writes hr hlen (by omega) ws hpu (by omega) fun i hi => hsu.store.opened _ (hwords i hi)
  have hfirst : WordOpen v h (ringAddr d0 tl) := huv.store.opened _ (hsu.store.opened _ (ringPos_zero tl ▸ hwords 0 (by omega)))
  obtain ⟨t, ht, hqt, hvt⟩ := qCommitE_writes hr hpv.desc hpv.opened (hpv.written.trans (Nat.zero_add _)) hne hfirst
  refine ⟨t, ?_, hqt, fun i hi => ?_, (hsu.mono fun w hw => .inr (.inl hw)).trans ((huv.mono ?_).trans (hvt.mono ?_))⟩
  · unfold qPut qPutE
    rw [hu]
    dsimp only
    rw [if_neg (by decide), hv]
    dsimp only
    rw [if_neg (by decide), ht]
    exact congrArg (·, _) (settle_none t)
  · have hword := hreads i hi
    rw [show 0 + 1 + i = i + 1 by omega] at hword
    have hring := ringAddr_above habove (ringPos tl (i + 1))
    refine hvt.reads _ _ ?_ hword
    rintro (he | he | he)
    · refine ringAddr_ne d0 tl (i := 0) (Nat.succ_pos i) (by omega) ?_
      rw [he, ringPos_zero]
    · omega
    · omega
  · rintro w ⟨i, -, -, rfl⟩
    exact .inr (.inr (ringAddr_above habove _))
  · rintro w (rfl | rfl | rfl)
    · exact .inr (.inr (ringAddr_above habove _))
    · exact .inl rfl
    · exact .inr (.inl rfl)

end

end Sys2Proof.Machine

namespace Sys2Proof.Machine
open Sys2Proof.Claims

/-! ### The head job of an intake (R284, R285) -/

section
variable {s t : State} {h : HiveId} {i q : Nat} {K : Nat → Prop}

theorem qPopE_quiet (s : State) (h : HiveId) (q : Nat) : Quiet K s (qPopE s h q).1 := by
  unfold qPopE
  dsimp only
  split
  · exact qDescE_quiet s h q
  · exact ((qDescE_quiet s h q).trans (hReadE_quiet _ h agQueue _)).trans (putPtr_quiet _ h q 1 _)

theorem qPopE_owns (s : State) (h : HiveId) (q : Nat) : Owns (qPopE s h q).2.1 := by
  unfold qPopE
  dsimp only
  split
  · exact qDescE_owns s h q
  · exact (owns_append _ _).2 ⟨(owns_append _ _).2 ⟨qDescE_owns s h q, hReadE_owns _ h agQueue _⟩, putPtr_owns _ h q 1 _⟩

theorem qPop_quiet (s : State) (h : HiveId) (q : Nat) : Quiet K s (qPop s h q).1 := (qPopE_quiet s h q).trans (settle_quiet _ _ (qPopE_owns s h q))

/-- A look at queues whose descriptors stand undamaged changes nothing. -/
theorem touchJobs_at (hq : ∀ q, q = 88 + i ∨ (∃ w ∈ intakeWorkers h i, q = 256 + w) → ∃ d0 hd tl rs, QueueAt s h q d0 hd tl rs) :
    touchJobs h i s = s := by
  have hfixed : ∀ l : List Nat, (∀ q ∈ l, (qDesc s h q).1 = s) → forL l (fun q s => (qDesc s h q).1) s = s := by
    intro l
    induction l with
    | nil => exact fun _ => rfl
    | cons q l ih =>
      intro hl
      exact (congrArg (forL l fun q s => (qDesc s h q).1) (hl q (List.mem_cons_self ..))).trans (ih fun q hq => hl q (List.mem_cons_of_mem _ hq))
  refine hfixed _ fun q hmem => ?_
  obtain ⟨d0, hd, tl, rs, hat⟩ := hq q (by
    obtain rfl | hmem := List.mem_cons.1 hmem
    · exact .inl rfl
    · obtain ⟨w, hw, rfl⟩ := List.mem_map.1 hmem
      exact .inr ⟨w, hw, rfl⟩)
  rw [qDesc_at hat]

/-- The first job given back has left. -/
def jobTaken (h : HiveId) (i : Nat) (s : State) : State :=
  s.modPlace h (fun p => { p with jobsBack := tset [] p.jobsBack i (tget [] p.jobsBack i).tail })

theorem jobTaken_edits (h : HiveId) (i : Nat) (s : State) : Edits h s (jobTaken h i s) :=
  .modPlace s h (fun p => { p with jobsBack := tset [] p.jobsBack i (tget [] p.jobsBack i).tail })

theorem jobTaken_jobsBack (h : HiveId) (i : Nat) (s : State) :
    tget [] ((jobTaken h i s).hive h).place.jobsBack i = (tget [] (s.hive h).place.jobsBack i).tail := by
  unfold jobTaken
  rw [modPlace_place, tget_tset, if_pos rfl]

theorem dropHead_none (h : HiveId) (i : Nat) (s : State) : dropHead h i none s = jobTaken h i s := rfl

theorem dropHead_pops (h : HiveId) (i n : Nat) (s : State) (ws : List W64) :
    dropHead h i (some n) s = ((List.range n).foldl (fun acc _ => popStep h (88 + i) acc) (s, ws)).1 := by
  have hstep : ∀ acc : State × List W64, (popStep h (88 + i) acc).1 = (qPop acc.1 h (88 + i)).1 := fun acc => by
    unfold popStep
    rcases qPop acc.1 h (88 + i) with ⟨u, _ | ⟨x, b⟩⟩ <;> rfl
  unfold dropHead forN
  dsimp only
  generalize List.range n = l
  induction l generalizing s ws with
  | nil => rfl
  | cons m l ih =>
    rw [List.foldl_cons, List.foldl_cons, ← hstep (s, ws)]
    exact ih ..

theorem dropHead_quiet (h : HiveId) (i : Nat) (n : Nat) (s : State) : Quiet K s (dropHead h i (some n) s) :=
  forN_induct (fun _ t => Quiet K s t) (.refl s) fun _ _ _ hq => hq.trans (qPop_quiet ..)

/-- The words of the head packet leave an intake's ring. -/
theorem dropHead_at {k : Nat} {d0 : W64} {hd tl rs : BitVec 32} (hi : i < 7) (hq : QueueAt s h (88 + i) d0 hd tl rs) (ha : RingAbove d0)
    (hk : k ≤ (tl - hd).toNat) (hx : ∀ m, m < k → ∃ x, WordReads s h (ringAddr d0 (ringPos hd m)) x) :
    QueueAt (dropHead h i (some k) s) h (88 + i) d0 (ringPos hd k) tl rs ∧ WritesOnly h (· = 4 * (88 + i) + 1) s (dropHead h i (some k) s) := by
  obtain ⟨x, hx⟩ : ∃ x : Nat → W64, ∀ m, m < k → WordReads s h (ringAddr d0 (ringPos hd m)) (x m) := by
    choose! x hx using hx
    exact ⟨x, hx⟩
  obtain ⟨t, hfold, hqt, hst⟩ := pops_at hq ha (by omega) [] hk hx
  rw [dropHead_pops h i k s [], hfold]
  exact ⟨hqt, hst⟩

/-- What a scan for the best of a list keeps is its start or one of the list. -/
theorem foldl_choose_mem (better : Nat → Nat → Prop) [∀ a b, Decidable (better a b)] (l : List Nat) (m : Option Nat) {w : Nat}
    (hw : l.foldl (fun (m : Option Nat) w => match m with | none => some w | some v => if better w v then some w else m) m = some w) :
    m = some w ∨ w ∈ l := by
  induction l generalizing m with
  | nil => exact .inl hw
  | cons a l ih =>
    rw [List.foldl_cons] at hw
    obtain hm | hmem := ih _ hw
    · cases m with
      | none => exact .inr (List.mem_cons.2 (.inl (Option.some.inj hm).symm))
      | some v =>
        dsimp only at hm
        split at hm
        · exact .inr (List.mem_cons.2 (.inl (Option.some.inj hm).symm))
        · exact .inl hm
    · exact .inr (List.mem_cons_of_mem _ hmem)

theorem chooseWorker_mem {job : W64} {w : Nat} (hw : chooseWorker s h i job = some w) : w ∈ intakeWorkers h i := by
  unfold chooseWorker at hw
  obtain hnone | hmem := foldl_choose_mem _ _ none hw
  · cases hnone
  · exact (List.mem_filter.1 hmem).1

theorem intakeWorkers_lt {w : Nat} (hi : i < 7) (hw : w ∈ intakeWorkers h i) : w < 192 := by
  obtain ⟨k, hk, rfl⟩ := List.mem_map.1 hw
  have := List.mem_range.1 hk
  split
  · omega
  · cases h <;> simp only <;> omega

/-- The head job leaves its intake and is refused. -/
def jobRefused (h : HiveId) (i : Nat) (n : Option Nat) (s : State) : State :=
  raise ((dropHead h i n s).count (plcPage h) Reg.PLC_JOB_REFUSED_CNT) (plcPage h) Reg.PLC_EVENTS (2 ^ 4)

/-- What placement does with head job `j` of intake `i`. -/
def headPlaced (h : HiveId) (i : Nat) (j : W64 × W64) (n : Option Nat) (s : State) : State :=
  if !jobFits i j.1 then jobRefused h i n s
  else match chooseWorker s h i j.1 with
    | none => s
    | some w =>
      let (s, r, _) := qPut s h (256 + w) .device [j.1, j.2]
      if r = qOk then dropHead h i n s else s

/-- Placement of jobs where the queues of the intake stand undamaged. -/
theorem jobPlace_at {j : W64 × W64} {n : Option Nat} (hctl : bit (plcCfg s Reg.PLC_CTL) 1 = true) (hf : s.fatal = false)
    (hj : headJob s (higherClaim s) i = some (some j, n))
    (hq : ∀ q, q = 88 + i ∨ (∃ w ∈ intakeWorkers (higherClaim s) i, q = 256 + w) → ∃ d0 hd tl rs, QueueAt s (higherClaim s) q d0 hd tl rs) :
    jobPlace i s = headPlaced (higherClaim s) i j n s := by
  have hlive : ¬ ((!bit (plcCfg s Reg.PLC_CTL) 1) = true ∨ s.fatal = true) := by simp [hctl, hf]
  have htouched : (if bit (plcCfg s Reg.PLC_CTL) 1 ∧ !s.fatal then touchJobs (higherClaim s) i s else s) = s := by
    rw [touchJobs_at hq]
    exact ite_self s
  unfold jobPlace
  dsimp only
  rw [htouched, if_neg hlive, hj]
  rfl

theorem headPlaced_refused {j : W64 × W64} (hfits : jobFits i j.1 = false) (n : Option Nat) : headPlaced h i j n s = jobRefused h i n s := by
  unfold headPlaced
  rw [hfits]
  rfl

theorem headPlaced_put {j : W64 × W64} {w : Nat} {c : Option (Nat × Nat)} (hfits : jobFits i j.1 = true) (hw : chooseWorker s h i j.1 = some w)
    (hp : qPut s h (256 + w) .device [j.1, j.2] = (t, qOk, c)) (n : Option Nat) : headPlaced h i j n s = dropHead h i n t := by
  unfold headPlaced
  rw [hfits, hw]
  dsimp only
  rw [hp]
  rfl

/-- A head job with a worker to go to is in the worker's mailbox. -/
theorem jobPlace_runs_placed {i : Fin 7} {j : W64 × W64} {n : Option Nat} {w : Nat} {d0 : W64} {hd tl : BitVec 32}
    (hctl : bit (s.cfg 0x18 Reg.PLC_CTL) 1 = true) (hf : s.fatal = false) (hj : headJob s (higherClaim s) i.val = some (some j, n))
    (hq : ∀ q, q = 88 + i.val ∨ (∃ w ∈ intakeWorkers (higherClaim s) i.val, q = 256 + w) → ∃ d0 hd tl rs, QueueAt s (higherClaim s) q d0 hd tl rs)
    (hfits : jobFits i.val j.1 = true) (hw : chooseWorker s (higherClaim s) i.val j.1 = some w) (hc : CanPut s (higherClaim s) (256 + w) d0 hd tl 2)
    (hwords : ∀ k e0 ed el es, n = some k → QueueAt s (higherClaim s) (88 + i.val) e0 ed el es → RingAbove e0 ∧ k ≤ (el - ed).toNat ∧
      ∀ m, m < k → ∃ x, WordReads s (higherClaim s) (ringAddr e0 (ringPos ed m)) x) :
    Runs (.jobPlace i) s fun t => (n = none → tget [] (t.hive (higherClaim s)).place.jobsBack i.val = (tget [] (s.hive (higherClaim s)).place.jobsBack i.val).tail) ∧
      (∀ k e0 ed el es, n = some k → QueueAt s (higherClaim s) (88 + i.val) e0 ed el es → QueueAt t (higherClaim s) (88 + i.val) e0 (ringPos ed k) el es) ∧
      QueueAt t (higherClaim s) (256 + w) d0 hd (ringPos tl 3) (ringPos tl 3) ∧ WordReads t (higherClaim s) (ringAddr d0 (ringPos tl 1)) j.1 ∧
      WordReads t (higherClaim s) (ringAddr d0 (ringPos tl 2)) j.2 ∧ t.regs = s.regs ∧ t.lanes = s.lanes := by
  have hlt := intakeWorkers_lt i.isLt (chooseWorker_mem hw)
  have hhosted : qFixed (256 + w) = false := by
    unfold qFixed fixedD0
    rw [if_neg (by omega), if_neg (by omega), if_neg (by omega)]
    rfl
  have habove : RingAbove d0 := by
    obtain ⟨-, ⟨-, -, habove, -⟩, -⟩ := hc
    exact habove
  obtain ⟨u, hput, hqu, hreads, hsu⟩ := qPut_writes (ws := [j.1, j.2]) hc hhosted (by omega)
  have hexec : exec (.jobPlace i) s = done s (dropHead (higherClaim s) i.val n u) :=
    congrArg (done s) ((jobPlace_at hctl hf hj hq).trans (headPlaced_put hfits hw hput n))
  have hfirst : WordReads u (higherClaim s) (ringAddr d0 (ringPos tl 1)) j.1 := hreads 0 (Nat.succ_pos 1)
  have hsecond : WordReads u (higherClaim s) (ringAddr d0 (ringPos tl 2)) j.2 := hreads 1 (Nat.lt_succ_self 1)
  have hout : ∀ p, ¬ ringAddr d0 p = 4 * (88 + i.val) + 1 := fun p => by have := ringAddr_above habove p; omega
  cases n with
  | none =>
    have htaken := jobTaken_edits (higherClaim s) i.val u
    refine runs_of_done hexec (htaken.works.pending.trans hsu.store.works.pending) ⟨fun _ => ?_, nofun, htaken.queueAt hqu, htaken.store.reads hfirst,
      htaken.store.reads hsecond, htaken.regs.trans hsu.store.regs, htaken.works.lanes.trans hsu.store.works.lanes⟩
    rw [dropHead_none, jobTaken_jobsBack, hsu.store.place]
  | some k =>
    have hdrop : ∀ e0 ed el es, QueueAt s (higherClaim s) (88 + i.val) e0 ed el es →
        QueueAt (dropHead (higherClaim s) i.val (some k) u) (higherClaim s) (88 + i.val) e0 (ringPos ed k) el es ∧
          WritesOnly (higherClaim s) (· = 4 * (88 + i.val) + 1) u (dropHead (higherClaim s) i.val (some k) u) := by
      intro e0 ed el es hat
      obtain ⟨ha, hk, hx⟩ := hwords k e0 ed el es rfl hat
      have hatu := hsu.queueAt (fun m hm => by unfold putWords; omega) hat
      exact dropHead_at i.isLt hatu ha hk fun m hm => (hx m hm).elim fun x hr => hsu.readable _ x hr
    obtain ⟨e0, ed, el, es, hat⟩ := hq _ (.inl rfl)
    obtain ⟨-, hst⟩ := hdrop e0 ed el es hat
    refine runs_of_done hexec (hst.store.works.pending.trans hsu.store.works.pending) ⟨nofun, fun k' e0 ed el es hk' hat => ?_,
      hst.queueAt (fun m hm => by omega) hqu, hst.reads _ _ (hout _) hfirst, hst.reads _ _ (hout _) hsecond,
      hst.store.regs.trans hsu.store.regs, hst.store.works.lanes.trans hsu.store.works.lanes⟩
    obtain rfl := Option.some.inj hk'
    exact (hdrop e0 ed el es hat).1

/-- What the head job's leaving keeps. -/
theorem dropHead_kept (h : HiveId) (i : Nat) (n : Option Nat) (s : State) :
    let t := dropHead h i n s
    t.pending = s.pending ∧ t.lanes = s.lanes ∧ higherClaim t = higherClaim s ∧
      (∀ k, t.reg (hivePage k 0x18) Reg.PLC_JOB_REFUSED_CNT = s.reg (hivePage k 0x18) Reg.PLC_JOB_REFUSED_CNT) := by
  cases n with
  | none =>
    have htaken := jobTaken_edits h i s
    exact ⟨htaken.works.pending, htaken.works.lanes, htaken.works.higherClaim, fun _ => reg_of_regs htaken.regs ..⟩
  | some n =>
    have hquiet := dropHead_quiet (K := fun _ => False) h i n s
    exact ⟨hquiet.pending, hquiet.lanes, hquiet.higherClaim, fun k => hquiet.reg _ _ _ (noted_hivePage k 0x18 _ _ (by decide) (by decide) (by decide)) id⟩

/-- A head job that does not fit its intake is refused. -/
theorem jobPlace_runs_refused {i : Fin 7} {j : W64 × W64} {n : Option Nat} (hctl : bit (s.cfg 0x18 Reg.PLC_CTL) 1 = true) (hf : s.fatal = false)
    (hj : headJob s (higherClaim s) i.val = some (some j, n))
    (hq : ∀ q, q = 88 + i.val ∨ (∃ w ∈ intakeWorkers (higherClaim s) i.val, q = 256 + w) → ∃ d0 hd tl rs, QueueAt s (higherClaim s) q d0 hd tl rs)
    (hfits : jobFits i.val j.1 = false) :
    Runs (.jobPlace i) s fun t => Marked t (hivePage (higherClaim s) 0x18) Reg.PLC_EVENTS 4 ∧ t.lanes = s.lanes ∧
      (n = none → tget [] (t.hive (higherClaim s)).place.jobsBack i.val = (tget [] (s.hive (higherClaim s)).place.jobsBack i.val).tail) ∧
      t.reg (hivePage (higherClaim s) 0x18) Reg.PLC_JOB_REFUSED_CNT = satInc (s.reg (hivePage (higherClaim s) 0x18) Reg.PLC_JOB_REFUSED_CNT) 1 := by
  have hexec : exec (.jobPlace i) s = done s (jobRefused (higherClaim s) i.val n s) :=
    congrArg (done s) ((jobPlace_at hctl hf hj hq).trans (headPlaced_refused hfits n))
  unfold jobRefused at hexec
  obtain ⟨hpending, hlanes, hclaim, hreg⟩ := dropHead_kept (higherClaim s) i.val n s
  obtain ⟨hleaves, hmarked, hcounted, -⟩ := countRaise_effect (g := 0x18) (cnt := Reg.PLC_JOB_REFUSED_CNT) (ev := Reg.PLC_EVENTS) hclaim
    (by decide) (by decide) (by decide) (by decide) 1 (b := 4) (by decide)
  refine runs_of_done hexec (hleaves.quiet.pending.trans hpending) ⟨hmarked, hleaves.quiet.lanes.trans hlanes, fun hn => ?_, by rw [hcounted, hreg]⟩
  subst hn
  rw [hleaves.place, dropHead_none, jobTaken_jobsBack]

end

end Sys2Proof.Machine

section
open Sys2Proof Sys2Proof.Machine Sys2Proof.Claims

/-- Settles O26: a switch is armed or disarmed by one write that changes the chip's state of it, and a job is one packet put into a mailbox and one
popped from its intake. -/
theorem switchAndJobPlacement : Obligations.SwitchAndJobPlacement := by
  unfold Obligations.SwitchAndJobPlacement
  exact ⟨fun p r s hready => plcSwitchArm_runs hready, fun p r s hready => plcSwitchDisarm_runs hready, fun i j n s hctl hf hj hq =>
    ⟨fun w d0 hd tl hfits hw hc hwords => jobPlace_runs_placed hctl hf hj hq hfits hw hc hwords,
      fun hfits => jobPlace_runs_refused hctl hf hj hq hfits⟩⟩

end
